-- ==== Sys2Proof/Word.lean ====
section
/-! DEFINITION. Word.lean: the words of the machine and their plainest arithmetic (R6, R160, R186, R205, R225). -/
namespace Sys2Proof

abbrev Byte := BitVec 8
/-- A 64-bit scalar register, special register or address. -/
abbrev Word := BitVec 64
/-- A vector or main-file register: 64 lanes of 32 bits (R160). -/
abbrev VReg := BitVec 2048
/-- A series register: 256 coefficients of 32 bits (R186). -/
abbrev XReg := BitVec 8192
/-- A tile register: 8192 bytes (R205). -/
abbrev Tile := BitVec 65536
/-- A copy descriptor image (R225). -/
abbrev Desc := BitVec 1024

/-- Bits hi..lo of a number, `w` of them from `lo` (R6). -/
def bitsOf (n lo w : Nat) : Nat := n / 2 ^ lo % 2 ^ w

/-- A table from numbers to records: pairs in rising key order; a key not listed reads as the caller's default. -/
abbrev Tbl (α : Type) := List (Nat × α)

end Sys2Proof
end

