-- ==== Sys2Proof/Config.lean ====
section
/-!
DEFINITION. Config.lean: what an implementation fixes and the values the spec leaves open. An opaque constant has no
body that Lean can see: a statement about it holds whatever its value.
-/
namespace Sys2Proof

/-- Free values: the n-th value that the spec calls undefined (R5, R98, R232, R237), taken in the order of use. -/
opaque Config.freeBits : Nat → BitVec 8192

/-- Which of the candidates a cache replaces (R291, R295 name no policy): the n-th choice that the package makes. -/
opaque Config.victim : Nat → Nat

/-- The scale code of a block, by the format's bias and the block's largest exponent, for a block-scaled format whose only
finite value is zero: R67 takes the exponent of the largest finite value, and zero has none. -/
opaque Config.voidScale : Int → Int → BitVec 8

/-- The new residue of an error-feedback rounding whose difference is beyond FP32, by the result and the old residue: R74 keeps
infinities out of residues and states no value. -/
opaque Config.wideResidue : Nat → Nat → BitVec 32

/-- The signature of the device's RSA-4096 key over a record (R440): the key is the device's own. -/
opaque Config.signature : List Byte → BitVec 4096

/-- The security processor's answer to an SPDM message (R428, R440): certificates are the device's own. -/
opaque Config.spdmAnswer : Nat → List Byte → List Byte

/-- Whether a firmware image's signature verifies under the fused key (R439), and the fused security version. -/
opaque Config.firmwareSigned : List Byte → Bool
opaque Config.firmwareVersion : List Byte → Nat
opaque Config.fusedVersion : Nat

/-- Bytes that a plain's L2 can deliver in a window of 2048 reference cycles: R329 watches it and no rule gives its rate. -/
opaque Config.l2Window : Nat

/-- Whether a core sends no heartbeat in a period, by core and period since first power-on: a core may fall silent (R395). -/
opaque Config.silent : Nat → Nat → Bool

/-- The package's fabric identifier, which the management core sets (R435). -/
opaque Config.fabricId : BitVec 14

/-- Whether host reads of a stopped partition are still served (R387) or complete with Unsupported Request (R433). -/
opaque Config.readsStopped : Bool

/-- The reference clock, cycles per millisecond (R8: 6.6 GHz). -/
def Config.perMs : Nat := 6600000
/-- Reference cycles per hour (R407). -/
def Config.perHour : Nat := 6600000000 * 3600
/-- Reference cycles per 24 hours (R399). -/
def Config.perDay : Nat := Config.perHour * 24
/-- Cycles of a usage period (R443). -/
def Config.usagePeriod : Nat := 6600000000
/-- HBM and carrier capacities in bytes (R3, Table 12-2). -/
def Config.hbmBytes : Nat := 412316860416
def Config.carrierBytes : Nat := 1649267441664
/-- The ceiling of a budget (R449) and the fixed overhead (R451). -/
def Config.maxBudget : Nat := 3500
def Config.overhead : Nat := 300

end Sys2Proof
end

