-- ==== Sys2Proof/Syntax.lean ====
section
/-!
DEFINITION. Syntax.lean: the instruction set of the GL2 as terms. One constructor of `Instr` per row of
spec/opcode_table.json; a row's operand fields are the record its constructor carries, one record per layout
(R93, R108, R91, R92, Table 9-3, Table 9-7). The 76 rows without an encoding are the machine's own steps and take
as arguments whom they concern and what the outside world chooses.
-/
namespace Sys2Proof

/-- The guard of R96: predicate `p`, inverted when `neg`. -/
structure Guard where
  neg : Bool
  p : Fin 8
deriving DecidableEq, Repr

/-- A source operand field (Table 6-5): 0-15, 16-19, 20-23, 24, 25. -/
inductive Src where
  | r (i : Fin 16) | n (i : Fin 4) | q (i : Fin 4) | lit | zero
deriving DecidableEq, Repr

/-- A destination field, or the data field of a store (Table 6-5, R151): 0-15, 16-19, 25. -/
inductive Dst where
  | r (i : Fin 16) | n (i : Fin 4) | void
deriving DecidableEq, Repr

/-- A source of MDSET, CDSET and CFILL, field values 20-25 (R208, R227, R237). -/
inductive LSrc where
  | q (i : Fin 4) | lit | zero
deriving DecidableEq, Repr

/-- A matrix operand (R203): tile 0-7, descriptor pair 8-11, or the zero operand 25. -/
inductive MOp where
  | t (i : Fin 8) | pair (i : Fin 4) | zero
deriving DecidableEq, Repr

/-- The operand of the count layout (R109). -/
inductive Count where
  | imm (v : BitVec 14) | lit
deriving DecidableEq, Repr

/-- The operand of TLW (R124); with L = 1 the IMM bits are kept but not used. -/
inductive TlwVal where
  | imm (v : BitVec 16) | lit (unused : BitVec 16)
deriving DecidableEq, Repr

/-- Rounding codes 0-3 of Table 4-7. -/
inductive Rnd where
  | rne | rz | rdn | rup
deriving DecidableEq, Repr

/-- The types of typed vector instructions (R161): codes 4, 5 and 10. -/
inductive VType where
  | i32 | u32 | f32
deriving DecidableEq, Repr

/-- The two vector units (R102). -/
inductive VUnit where
  | a | b
deriving DecidableEq, Repr

/-- The two copy engines (R104). -/
inductive CUnit where
  | c | d
deriving DecidableEq, Repr

/-- What a MEMORY_ACCESS_PERFORM brings about beside the access: nothing, a non-home line in the plain's L2 (R294), or a corrected ECC
error in the data where they are stored or in the home L2 slice (R407). -/
inductive Evict where
  | none | fill | corrected (slice : Bool)
deriving DecidableEq, Repr

/-- Who arrives at a ridge (R35): a context of the package, or the participants of a rank of a node's group on another package. -/
inductive Arriver where
  | here (k : Nat) | peer (n rank : Nat)
deriving DecidableEq, Repr
/-- Which node ends (R33, R38): one of the package, or the peer of rank `rank` of a node here, with status DONE or not. -/
inductive Ender where
  | here (n : Nat) | peer (n rank : Nat) (done : Bool)
deriving DecidableEq, Repr

/-- A unit that a lease withdraws, and the partitions whose declared lease windows are open (R403). -/
structure Withdrawal where
  unit : Nat
  windows : List Nat
deriving DecidableEq, Repr

/-- Command `cmd` of a context, of which the next row becomes final or moves; `differs`: the row that an MSTZ writes is not the same in the two
cores of a pair (R391, R392); `ecc`: a corrected error in the row that is read (R407). -/
structure RowFinal where
  cmd : Nat
  differs : Bool
  ecc : Bool
deriving DecidableEq, Repr

/-- A k-tile's intake: `bad`, one of its mirrored results differs (R223); a corrected error in its left or right operand (R407). -/
structure Intake where
  bad : Bool
  ecc : Option Bool
deriving DecidableEq, Repr

/-- A batch of a copy that lands, and the byte of it in which an error was corrected (R407), in the home L2 slice or where it is stored. -/
structure BatchLand where
  num : Nat
  ecc : Option (Nat × Bool)
deriving DecidableEq, Repr

/-- What a peer of a collective sends (R242, R243): its rank, its key, the length of its source, and its data. -/
structure Peer where
  rank : Nat
  digest : Bool
  det : Bool
  op : Nat
  code : Nat
  len : Nat
  data : List (BitVec 8)
deriving DecidableEq, Repr

/-- TDISP states (Table 25-5). -/
inductive Tdi where
  | unlocked | locked | run | error
deriving DecidableEq, Repr

/-- Layout of RET, RIDGE, RDV, RTT, END, YIELD. -/
structure FNone where
  g : Guard
deriving DecidableEq, Repr

/-- Layout of PREP. -/
structure FPrep where
  g : Guard
  n : Fin 4
  o : BitVec 20
deriving DecidableEq, Repr

/-- Layout of PREPM. -/
structure FPrepM where
  g : Guard
  n : Fin 4
  j : Fin 64
deriving DecidableEq, Repr

/-- Layout of BT. -/
structure FBt where
  g : Guard
  s : Fin 14
  t1 : Fin 16
  t2 : Fin 16
  t3 : Fin 16
  t4 : Fin 16
deriving DecidableEq, Repr

/-- Layout of J. -/
structure FJump where
  g : Guard
  o : BitVec 22
deriving DecidableEq, Repr

/-- Layout of CALL. -/
structure FTgt where
  g : Guard
  n : Fin 4
deriving DecidableEq, Repr

/-- Layout of LOOP. -/
structure FLoop where
  g : Guard
  n : Fin 6
  len : Fin 64
deriving DecidableEq, Repr

/-- Layout of SETLC. -/
structure FCountLc where
  g : Guard
  n : Fin 6
  k : Count
deriving DecidableEq, Repr

/-- Layout of WAIT, POST. -/
structure FCountF where
  g : Guard
  n : Fin 16
  k : Count
deriving DecidableEq, Repr

/-- Layout of BBSET. -/
structure FCountBb where
  g : Guard
  n : Fin 8
  k : Count
deriving DecidableEq, Repr

/-- Layout of SPL. -/
structure FSpl where
  g : Guard
  n : Fin 4
  k : Fin 6
deriving DecidableEq, Repr

/-- Layout of POSTR. -/
structure FPostr where
  g : Guard
  n : Fin 16
  t : Fin 8
  k : Count
deriving DecidableEq, Repr

/-- Layout of TLW. -/
structure FTlw where
  g : Guard
  t : Fin 3
  rel : Bool
  v : TlwVal
deriving DecidableEq, Repr

/-- Layout of BBWAIT. -/
structure FBb where
  g : Guard
  n : Fin 8
deriving DecidableEq, Repr

/-- Layout of SEG. -/
structure FSeg where
  g : Guard
  m : BitVec 8
deriving DecidableEq, Repr

/-- Layout of TRAP, SLEEP, BRK. -/
structure FImm where
  g : Guard
  c : BitVec 16
deriving DecidableEq, Repr

/-- Layout of DRAIN, DRAIN_E. -/
structure FScope where
  g : Guard
  s : Fin 6
deriving DecidableEq, Repr

/-- Layout of CLKDIV. -/
structure FClk where
  g : Guard
  c : Fin 5
  d : Fin 16
deriving DecidableEq, Repr

/-- Layout of LAUNCH. -/
structure FFlagM where
  g : Guard
  n : Fin 16
  j : Fin 64
deriving DecidableEq, Repr

/-- Layout of SEND. -/
structure FSendS where
  g : Guard
  t : Fin 8
  j : Fin 64
deriving DecidableEq, Repr

/-- Layout of GETM_F. -/
structure FGetm where
  g : Guard
  c : Fin 5
  n : Fin 16
  j : Fin 64
deriving DecidableEq, Repr

/-- Layout of EPI. -/
structure FEpi where
  g : Guard
  k : Fin 6
  n : Fin 8
  j : Fin 64
deriving DecidableEq, Repr

/-- Layout of WDOG, HBEAT. -/
structure FPred where
  g : Guard
  n : Fin 8
deriving DecidableEq, Repr

/-- Layout of CAPQ. -/
structure FCapq where
  g : Guard
  n : Fin 8
  i : BitVec 16
deriving DecidableEq, Repr

/-- Layout of PITCHQ. -/
structure FPitchq where
  g : Guard
  n : Fin 8
  r : Fin 4
deriving DecidableEq, Repr

/-- Layout of ADD, SUB, MUL, MULH, MULHU, DIV, DIVU, REM, REMU, AND, OR, XOR, ANDN, SHL, SHR, SAR, ROT, FSH, BFX, BFXS, BFI, MIN, MAX, MINU, MAXU, AADD, AXCHG, ACAS, AAND, AOR, AFADD. -/
structure SAlu where
  g : Guard
  d : Dst
  a : Src
  b : Src
  w : Bool
deriving DecidableEq, Repr

/-- Layout of NOT, CLZ, CTZ, POPC. -/
structure SUn where
  g : Guard
  d : Dst
  a : Src
  w : Bool
deriving DecidableEq, Repr

/-- Layout of ADDI, MOVI, MOVHI, LDL. -/
structure SImm where
  g : Guard
  w : Bool
  d : Fin 16
  i : BitVec 16
deriving DecidableEq, Repr

/-- Layout of SEL. -/
structure SSel where
  g : Guard
  d : Dst
  a : Src
  b : Src
  q : Fin 8
  w : Bool
deriving DecidableEq, Repr

/-- Layout of CMPEQ, CMPNE, CMPLT, CMPLE, CMPLTU, CMPLEU. -/
structure SCmp where
  g : Guard
  d : Fin 8
  a : Src
  b : Src
  w : Bool
deriving DecidableEq, Repr

/-- Layout of CMPI. -/
structure SCmpi where
  g : Guard
  w : Bool
  d : Fin 8
  a : Fin 16
  c : Fin 8
  i : BitVec 10
deriving DecidableEq, Repr

/-- Layout of PAND, POR, PXOR. -/
structure SPred3 where
  g : Guard
  d : Fin 8
  a : Fin 8
  b : Fin 8
deriving DecidableEq, Repr

/-- Layout of PNOT, PMOV. -/
structure SPred2 where
  g : Guard
  d : Fin 8
  a : Fin 8
deriving DecidableEq, Repr

/-- Layout of FADD, FSUB, FMUL, FMA, FDIV. -/
structure SFlt3 where
  g : Guard
  d : Dst
  a : Src
  b : Src
  r : Rnd
  f : Bool
deriving DecidableEq, Repr

/-- Layout of FSQRT. -/
structure SFlt2 where
  g : Guard
  d : Dst
  a : Src
  r : Rnd
  f : Bool
deriving DecidableEq, Repr

/-- Layout of FCVT. -/
structure SFcvt where
  g : Guard
  d : Dst
  a : Src
  t : Fin 12
  s : Fin 12
  r : Rnd
deriving DecidableEq, Repr

/-- Layout of FCMP. -/
structure SFcmp where
  g : Guard
  d : Fin 8
  a : Src
  b : Src
  c : Fin 5
  f : Bool
deriving DecidableEq, Repr

/-- Layout of FMIN, FMAX. -/
structure SFmin where
  g : Guard
  d : Dst
  a : Src
  b : Src
  f : Bool
deriving DecidableEq, Repr

/-- Layout of LD, LDS, ST. -/
structure SMem where
  g : Guard
  d : Dst
  a : Src
  b : Src
  z : Fin 4
deriving DecidableEq, Repr

/-- Layout of INVL. -/
structure SInv where
  g : Guard
  a : Src
  b : Src
deriving DecidableEq, Repr

/-- Layout of FLL1. -/
structure SNone where
  g : Guard
deriving DecidableEq, Repr

/-- Layout of AMIN, AMAX. -/
structure SAmin where
  g : Guard
  d : Dst
  a : Src
  b : Src
  u : Bool
  w : Bool
deriving DecidableEq, Repr

/-- Layout of SCALAR_GETM. -/
structure SGetm where
  g : Guard
  d : Dst
  k : Fin 32
  j : Fin 64
deriving DecidableEq, Repr

/-- Layout of SCALAR_PUTM. -/
structure SPutm where
  g : Guard
  k : Fin 32
  a : Src
  j : Fin 64
deriving DecidableEq, Repr

/-- Layout of SCALAR_XFER. -/
structure SXfer where
  g : Guard
  d : Fin 32
  a : Src
  l : Bool
  s : Fin 8
deriving DecidableEq, Repr

/-- Layout of MFS. -/
structure SMfs where
  g : Guard
  d : Dst
  n : Fin 40
deriving DecidableEq, Repr

/-- Layout of MTS. -/
structure SMts where
  g : Guard
  a : Src
  n : Fin 40
deriving DecidableEq, Repr

/-- Layout of TLBSYNC, POWQ_PKG. -/
structure PD where
  g : Guard
  d : Dst
deriving DecidableEq, Repr

/-- Layout of TLBINV_PAGE, TLBINV_ALL, UNLEASE, SCORE, FENCEQ, POWQ_CORE. -/
structure PDA where
  g : Guard
  d : Dst
  a : Src
deriving DecidableEq, Repr

/-- Layout of TLBINV_RANGE, CTXKILL, WAYSET, SCORE_ADD, METER, POWQ_GRANT, INJ_OFF, INJ_ON, INJ_POISON. -/
structure PDAB where
  g : Guard
  d : Dst
  a : Src
  b : Src
deriving DecidableEq, Repr

/-- Layout of CTXSAVE, PARTSET_CREATE, PARTSET_UPDATE, PARTSET_STOP, PARTSET_DESTROY, LEASE, APPEAL, APPEAL_BAR. -/
structure PDAn where
  g : Guard
  d : Dst
  a : Src
  n : Fin 16
deriving DecidableEq, Repr

/-- Layout of CTXLOAD, ZERO_MEM, ZERO_BANKS, ZERO_CARR, ZERO_L2, RETIRE, RETIRE_FORCE, SIGNQ_USAGE, SIGNQ_RETIRED, SIGNQ_QUOTE. -/
structure PDABn where
  g : Guard
  d : Dst
  a : Src
  b : Src
  n : Fin 16
deriving DecidableEq, Repr

/-- Layout of VADD, VSUB, VMUL, VFMA, VFMS, VMIN, VMAX, VDIV. -/
structure VTyp3 where
  g : Guard
  d : Dst
  a : Src
  b : Src
  t : VType
  r : Rnd
deriving DecidableEq, Repr

/-- Layout of VABS, VNEG, VREDADD, VREDMAX, VSCAN. -/
structure VTyp2 where
  g : Guard
  d : Dst
  a : Src
  t : VType
  r : Rnd
deriving DecidableEq, Repr

/-- Layout of VRCP, VRSQ, VEXP2, VLOG2. -/
structure VFun where
  g : Guard
  d : Dst
  a : Src
  r : Rnd
deriving DecidableEq, Repr

/-- Layout of VCMPEQ, VCMPNE, VCMPLT, VCMPLE. -/
structure VCmp where
  g : Guard
  d : Fin 8
  a : Src
  b : Src
  t : VType
deriving DecidableEq, Repr

/-- Layout of VSEL. -/
structure VSel where
  g : Guard
  d : Dst
  a : Src
  b : Src
  q : Fin 8
deriving DecidableEq, Repr

/-- Layout of VAND, VOR, VXOR, VANDN, VSHL, VSHR, VSAR, VBFI, VFSH, VPERM, VLD, VST, VLDS, VSTS, VGATH, VSCAT, VAFADD. -/
structure VRR where
  g : Guard
  d : Dst
  a : Src
  b : Src
deriving DecidableEq, Repr

/-- Layout of VPOPC, VCLZ, VMOVS. -/
structure VR where
  g : Guard
  d : Dst
  a : Src
deriving DecidableEq, Repr

/-- Layout of VBFX. -/
structure VBfx where
  g : Guard
  d : Dst
  a : Src
  b : Src
  s : Bool
deriving DecidableEq, Repr

/-- Layout of VCVT. -/
structure VCvt where
  g : Guard
  d : Dst
  a : Src
  e : Bool
  t : Fin 11
  s : Fin 11
  r : Rnd
deriving DecidableEq, Repr

/-- Layout of VPACK. -/
structure VPack where
  g : Guard
  d : Dst
  a : Src
  e : Bool
  q : Fin 16
  c : Fin 16
  r : Rnd
deriving DecidableEq, Repr

/-- Layout of VUNPACK. -/
structure VUnpack where
  g : Guard
  d : Dst
  a : Src
  q : Fin 16
  c : Fin 16
deriving DecidableEq, Repr

/-- Layout of VBCAST. -/
structure VBcast where
  g : Guard
  d : Dst
  a : Src
  k : Fin 64
deriving DecidableEq, Repr

/-- Layout of VSLIDE. -/
structure VSlide where
  g : Guard
  d : Dst
  a : Src
  b : Src
  n : Fin 64
deriving DecidableEq, Repr

/-- Layout of VIOTA, VIOTA_RAND. -/
structure VD where
  g : Guard
  d : Dst
deriving DecidableEq, Repr

/-- Layout of VTBL. -/
structure VTbl where
  g : Guard
  d : Dst
  a : Src
  b : Src
  k : Fin 21
deriving DecidableEq, Repr

/-- Layout of VAADD. -/
structure VAtom where
  g : Guard
  d : Dst
  a : Src
  b : Src
  t : VType
deriving DecidableEq, Repr

/-- Layout of VECTOR_GETM. -/
structure VGetm where
  g : Guard
  d : Dst
  j : Fin 64
deriving DecidableEq, Repr

/-- Layout of VECTOR_PUTM. -/
structure VPutm where
  g : Guard
  a : Src
  j : Fin 64
deriving DecidableEq, Repr

/-- Layout of VECTOR_XFER. -/
structure VXfer where
  g : Guard
  d : Fin 32
  a : Src
  s : Fin 8
deriving DecidableEq, Repr

/-- Layout of VPMOV_TO_PREDICATE. -/
structure VToP where
  g : Guard
  d : Fin 8
  a : Src
deriving DecidableEq, Repr

/-- Layout of VPMOV_FROM_PREDICATE. -/
structure VFromP where
  g : Guard
  d : Dst
  a : Fin 8
deriving DecidableEq, Repr

/-- Layout of VEFCLR. -/
structure VEf where
  g : Guard
  n : Fin 4
deriving DecidableEq, Repr

/-- Layout of VEFGET. -/
structure VEfg where
  g : Guard
  d : Dst
  n : Fin 4
deriving DecidableEq, Repr

/-- Layout of VEFPUT. -/
structure VEfp where
  g : Guard
  a : Src
  n : Fin 4
deriving DecidableEq, Repr

/-- Layout of VFMTSET. -/
structure VFmt where
  g : Guard
  a : Src
  n : Fin 8
deriving DecidableEq, Repr

/-- Layout of XCLR. -/
structure XD where
  g : Guard
  d : Fin 16
deriving DecidableEq, Repr

/-- Layout of XSETO. -/
structure XSeto where
  g : Guard
  a : Src
  o : Fin 16
deriving DecidableEq, Repr

/-- Layout of XFORM. -/
structure XForm where
  g : Guard
  d : Fin 16
  a : Src
  c : Fin 17
deriving DecidableEq, Repr

/-- Layout of XM2M, XM2L, XL2L, XNORM. -/
structure XXB where
  g : Guard
  d : Fin 16
  a : Fin 16
  b : Src
deriving DecidableEq, Repr

/-- Layout of XEVAL. -/
structure XEval where
  g : Guard
  d : Dst
  a : Fin 16
  b : Src
  c : Fin 17
deriving DecidableEq, Repr

/-- Layout of XADM. -/
structure XAdm where
  g : Guard
  d : Fin 8
  a : Src
  b : Src
  c : Fin 17
deriving DecidableEq, Repr

/-- Layout of XADD. -/
structure XXX where
  g : Guard
  d : Fin 16
  a : Fin 16
  b : Fin 16
deriving DecidableEq, Repr

/-- Layout of XLD, XST. -/
structure XMem where
  g : Guard
  d : Fin 16
  a : Src
  b : Src
deriving DecidableEq, Repr

/-- Layout of XGET. -/
structure XGet where
  g : Guard
  d : Dst
  a : Fin 16
  k : Fin 4
deriving DecidableEq, Repr

/-- Layout of MDSET. -/
structure MMdset where
  g : Guard
  n : Fin 8
  s : LSrc
  t : Fin 3
deriving DecidableEq, Repr

/-- Layout of MDGET, MATRIX_PUTM. -/
structure MMove where
  g : Guard
  k : Fin 32
  n : Fin 8
  j : Fin 64
deriving DecidableEq, Repr

/-- Layout of MLDT. -/
structure MLoad where
  g : Guard
  n : Fin 8
  q : Fin 4
  f : Fin 8
  c : Fin 16
deriving DecidableEq, Repr

/-- Layout of MSTZ, MSTZ_TAG. -/
structure MStore where
  g : Guard
  k : Fin 4
  q : Fin 4
deriving DecidableEq, Repr

/-- Layout of MMA, MMAZ, MCHK, MCHKZ. -/
structure MMul where
  g : Guard
  f : Fin 8
  k : Fin 4
  a : MOp
  b : MOp
  c : Fin 16
deriving DecidableEq, Repr

/-- Layout of MNEST, MNESTZ. -/
structure MNest where
  g : Guard
  k : Fin 4
  a : Fin 4
  b : Fin 4
  j : Fin 64
deriving DecidableEq, Repr

/-- Layout of MZERO, MACT_RELU, MACT_ABS. -/
structure MZ where
  g : Guard
  k : Fin 4
deriving DecidableEq, Repr

/-- Layout of MTR. -/
structure MTrans where
  g : Guard
  d : Fin 8
  a : Fin 8
  c : Fin 3
deriving DecidableEq, Repr

/-- Layout of MRDZ. -/
structure MRead where
  g : Guard
  r : Fin 64
  k : Fin 4
  j : Fin 64
deriving DecidableEq, Repr

/-- Layout of MWM. -/
structure MWm where
  g : Guard
  d : Fin 8
  k : Fin 4
  r : Fin 64
deriving DecidableEq, Repr

/-- Layout of MRES, MFIX, MBIAS. -/
structure MZM where
  g : Guard
  k : Fin 4
  j : Fin 64
deriving DecidableEq, Repr

/-- Layout of MMIR. -/
structure MMir where
  g : Guard
  r : Fin 64
  c : Fin 64
  e : Bool
deriving DecidableEq, Repr

/-- Layout of MINJ. -/
structure MInj where
  g : Guard
  k : Fin 4
  i : Fin 64
  j : Fin 64
  t : Fin 3
  b : Fin 32
deriving DecidableEq, Repr

/-- Layout of MTAG. -/
structure MTag where
  g : Guard
  n : Fin 8
  k : Fin 4
deriving DecidableEq, Repr

/-- Layout of MCVT. -/
structure MCvt where
  g : Guard
  f : Fin 8
  k : Fin 4
  d : Fin 8
  r : Rnd
  c : Fin 16
deriving DecidableEq, Repr

/-- Layout of MACT_SCALE. -/
structure MScale where
  g : Guard
  k : Fin 4
  n : BitVec 4
deriving DecidableEq, Repr

/-- Layout of MPITCH. -/
structure MN where
  g : Guard
  n : Fin 8
deriving DecidableEq, Repr

/-- Layout of MATRIX_GETM. -/
structure MGetm where
  g : Guard
  n : Fin 8
  k : Fin 32
  j : Fin 64
deriving DecidableEq, Repr

/-- Layout of MATRIX_XFER. -/
structure MXfer where
  g : Guard
  r : Fin 32
  n : Fin 8
  s : Fin 8
deriving DecidableEq, Repr

/-- Layout of CDSET_IMMEDIATE. -/
structure CSetI where
  g : Guard
  n : Fin 8
  f : Fin 8
  i : BitVec 14
deriving DecidableEq, Repr

/-- Layout of CDSET_REGISTER. -/
structure CSetR where
  g : Guard
  n : Fin 8
  s : LSrc
  f : Fin 16
deriving DecidableEq, Repr

/-- Layout of CDGET. -/
structure CGet where
  g : Guard
  k : Fin 32
  n : Fin 8
  f : Fin 16
  j : Fin 64
deriving DecidableEq, Repr

/-- Layout of CPY, CGATH, CSCAT, CDIGEST, CPULL, CHOST_TO, CHOST_FROM, CCARR_TO, CCARR_FROM, CCVT, CSWP. -/
structure CTwo where
  g : Guard
  d : Fin 8
  s : Fin 8
deriving DecidableEq, Repr

/-- Layout of CPYB, CBCAST. -/
structure CBar where
  g : Guard
  d : Fin 8
  s : Fin 8
  n : Fin 8
  t : Bool
deriving DecidableEq, Repr

/-- Layout of CPYT. -/
structure CTile where
  g : Guard
  n : Fin 8
  s : Fin 8
  f : Fin 8
  c : Fin 16
deriving DecidableEq, Repr

/-- Layout of CZERO. -/
structure COne where
  g : Guard
  d : Fin 8
deriving DecidableEq, Repr

/-- Layout of CFILL. -/
structure CFill where
  g : Guard
  d : Fin 8
  v : LSrc
deriving DecidableEq, Repr

/-- Layout of CRED, CALLRED. -/
structure CRed where
  g : Guard
  d : Fin 8
  s : Fin 8
  e : Bool
  o : Fin 3
deriving DecidableEq, Repr

/-- Layout of CPOST. -/
structure CPost where
  g : Guard
  d : Fin 8
  s : Fin 8
  n : Fin 16
deriving DecidableEq, Repr

/-- Layout of CTLR. -/
structure CJ where
  g : Guard
  j : Fin 64
deriving DecidableEq, Repr

/-- Layout of CWAIT. -/
structure CWait where
  g : Guard
  n : Fin 16
  i : BitVec 16
deriving DecidableEq, Repr

/-- Layout of CFENCE, CFENCE_A. -/
structure CFence where
  g : Guard
  s : Fin 6
deriving DecidableEq, Repr

/-- Layout of CPREF. -/
structure CSrc where
  g : Guard
  s : Fin 8
deriving DecidableEq, Repr

/-- Layout of COPY_GETM. -/
structure CGetm where
  g : Guard
  n : Fin 8
  j : Fin 64
deriving DecidableEq, Repr

/-- Layout of COPY_PUTM. -/
structure CPutm where
  g : Guard
  n : Fin 8
  j : Fin 64
deriving DecidableEq, Repr

/-- Layout of COPY_XFER. -/
structure CXfer where
  g : Guard
  r : Fin 32
  n : Fin 8
  f : Fin 16
  s : Fin 8
deriving DecidableEq, Repr

/-- The instructions: one constructor per row of the opcode table, in its order. -/
inductive Instr where
  | nopF
  | prep (x : FPrep)
  | prepm (x : FPrepM)
  | bt (x : FBt)
  | j (x : FJump)
  | call (x : FTgt)
  | ret (x : FNone)
  | loop (x : FLoop)
  | setlc (x : FCountLc)
  | spl (x : FSpl)
  | wait (x : FCountF)
  | post (x : FCountF)
  | postr (x : FPostr)
  | tlw (x : FTlw)
  | bbset (x : FCountBb)
  | bbwait (x : FBb)
  | ridge (x : FNone)
  | seg (x : FSeg)
  | rdv (x : FNone)
  | trap (x : FImm)
  | rtt (x : FNone)
  | endF (x : FNone)
  | yield (x : FNone)
  | drain (x : FScope)
  | drainE (x : FScope)
  | clkdiv (x : FClk)
  | launch (x : FFlagM)
  | send (x : FSendS)
  | getmF (x : FGetm)
  | epi (x : FEpi)
  | wdog (x : FPred)
  | hbeat (x : FPred)
  | capq (x : FCapq)
  | pitchq (x : FPitchq)
  | sleep (x : FImm)
  | brk (x : FImm)
  | scalarNop
  | add (x : SAlu)
  | sub (x : SAlu)
  | addi (x : SImm)
  | movi (x : SImm)
  | movhi (x : SImm)
  | mul (x : SAlu)
  | mulh (x : SAlu)
  | mulhu (x : SAlu)
  | div (x : SAlu)
  | divu (x : SAlu)
  | rem (x : SAlu)
  | remu (x : SAlu)
  | and (x : SAlu)
  | or (x : SAlu)
  | xor (x : SAlu)
  | andn (x : SAlu)
  | not (x : SUn)
  | shl (x : SAlu)
  | shr (x : SAlu)
  | sar (x : SAlu)
  | rot (x : SAlu)
  | fsh (x : SAlu)
  | bfx (x : SAlu)
  | bfxs (x : SAlu)
  | bfi (x : SAlu)
  | clz (x : SUn)
  | ctz (x : SUn)
  | popc (x : SUn)
  | min (x : SAlu)
  | max (x : SAlu)
  | minu (x : SAlu)
  | maxu (x : SAlu)
  | sel (x : SSel)
  | cmpeq (x : SCmp)
  | cmpne (x : SCmp)
  | cmplt (x : SCmp)
  | cmple (x : SCmp)
  | cmpltu (x : SCmp)
  | cmpleu (x : SCmp)
  | cmpi (x : SCmpi)
  | pand (x : SPred3)
  | por (x : SPred3)
  | pxor (x : SPred3)
  | pnot (x : SPred2)
  | pmov (x : SPred2)
  | fadd (x : SFlt3)
  | fsub (x : SFlt3)
  | fmul (x : SFlt3)
  | fma (x : SFlt3)
  | fdiv (x : SFlt3)
  | fsqrt (x : SFlt2)
  | fcvt (x : SFcvt)
  | fcmp (x : SFcmp)
  | fmin (x : SFmin)
  | fmax (x : SFmin)
  | ld (x : SMem)
  | lds (x : SMem)
  | st (x : SMem)
  | ldl (x : SImm)
  | invl (x : SInv)
  | fll1 (x : SNone)
  | aadd (x : SAlu)
  | axchg (x : SAlu)
  | acas (x : SAlu)
  | amin (x : SAmin)
  | amax (x : SAmin)
  | aand (x : SAlu)
  | aor (x : SAlu)
  | afadd (x : SAlu)
  | scalarGetm (x : SGetm)
  | scalarPutm (x : SPutm)
  | scalarXfer (x : SXfer)
  | mfs (x : SMfs)
  | mts (x : SMts)
  | tlbinvPage (x : PDA)
  | tlbinvRange (x : PDAB)
  | tlbinvAll (x : PDA)
  | tlbsync (x : PD)
  | ctxsave (x : PDAn)
  | ctxload (x : PDABn)
  | ctxkill (x : PDAB)
  | partsetCreate (x : PDAn)
  | partsetUpdate (x : PDAn)
  | partsetStop (x : PDAn)
  | partsetDestroy (x : PDAn)
  | wayset (x : PDAB)
  | zeroMem (x : PDABn)
  | zeroBanks (x : PDABn)
  | zeroCarr (x : PDABn)
  | zeroL2 (x : PDABn)
  | lease (x : PDAn)
  | unlease (x : PDA)
  | score (x : PDA)
  | scoreAdd (x : PDAB)
  | retire (x : PDABn)
  | retireForce (x : PDABn)
  | fenceq (x : PDA)
  | appeal (x : PDAn)
  | appealBar (x : PDAn)
  | meter (x : PDAB)
  | signqUsage (x : PDABn)
  | signqRetired (x : PDABn)
  | signqQuote (x : PDABn)
  | powqPkg (x : PDAB)
  | powqCore (x : PDA)
  | powqGrant (x : PDAB)
  | injOff (x : PDAB)
  | injOn (x : PDAB)
  | injPoison (x : PDAB)
  | vectorNop (u : VUnit)
  | vadd (u : VUnit) (x : VTyp3)
  | vsub (u : VUnit) (x : VTyp3)
  | vmul (u : VUnit) (x : VTyp3)
  | vfma (u : VUnit) (x : VTyp3)
  | vfms (u : VUnit) (x : VTyp3)
  | vmin (u : VUnit) (x : VTyp3)
  | vmax (u : VUnit) (x : VTyp3)
  | vabs (u : VUnit) (x : VTyp2)
  | vneg (u : VUnit) (x : VTyp2)
  | vrcp (u : VUnit) (x : VFun)
  | vrsq (u : VUnit) (x : VFun)
  | vexp2 (u : VUnit) (x : VFun)
  | vlog2 (u : VUnit) (x : VFun)
  | vdiv (u : VUnit) (x : VTyp3)
  | vcmpeq (u : VUnit) (x : VCmp)
  | vcmpne (u : VUnit) (x : VCmp)
  | vcmplt (u : VUnit) (x : VCmp)
  | vcmple (u : VUnit) (x : VCmp)
  | vsel (u : VUnit) (x : VSel)
  | vand (u : VUnit) (x : VRR)
  | vor (u : VUnit) (x : VRR)
  | vxor (u : VUnit) (x : VRR)
  | vandn (u : VUnit) (x : VRR)
  | vshl (u : VUnit) (x : VRR)
  | vshr (u : VUnit) (x : VRR)
  | vsar (u : VUnit) (x : VRR)
  | vbfx (u : VUnit) (x : VBfx)
  | vbfi (u : VUnit) (x : VRR)
  | vfsh (u : VUnit) (x : VRR)
  | vpopc (u : VUnit) (x : VR)
  | vclz (u : VUnit) (x : VR)
  | vcvt (u : VUnit) (x : VCvt)
  | vpack (u : VUnit) (x : VPack)
  | vunpack (u : VUnit) (x : VUnpack)
  | vperm (u : VUnit) (x : VRR)
  | vbcast (u : VUnit) (x : VBcast)
  | vslide (u : VUnit) (x : VSlide)
  | viota (u : VUnit) (x : VD)
  | viotaRand (u : VUnit) (x : VD)
  | vredadd (u : VUnit) (x : VTyp2)
  | vredmax (u : VUnit) (x : VTyp2)
  | vscan (u : VUnit) (x : VTyp2)
  | vld (u : VUnit) (x : VRR)
  | vst (u : VUnit) (x : VRR)
  | vlds (u : VUnit) (x : VRR)
  | vsts (u : VUnit) (x : VRR)
  | vgath (u : VUnit) (x : VRR)
  | vscat (u : VUnit) (x : VRR)
  | vtbl (u : VUnit) (x : VTbl)
  | vaadd (u : VUnit) (x : VAtom)
  | vafadd (u : VUnit) (x : VRR)
  | vectorGetm (u : VUnit) (x : VGetm)
  | vectorPutm (u : VUnit) (x : VPutm)
  | vectorXfer (u : VUnit) (x : VXfer)
  | vmovs (u : VUnit) (x : VR)
  | vpmovToPredicate (u : VUnit) (x : VToP)
  | vpmovFromPredicate (u : VUnit) (x : VFromP)
  | vefclr (u : VUnit) (x : VEf)
  | vefget (u : VUnit) (x : VEfg)
  | vefput (u : VUnit) (x : VEfp)
  | vfmtset (u : VUnit) (x : VFmt)
  | xclr (x : XD)
  | xseto (x : XSeto)
  | xform (x : XForm)
  | xm2m (x : XXB)
  | xm2l (x : XXB)
  | xl2l (x : XXB)
  | xeval (x : XEval)
  | xadm (x : XAdm)
  | xadd (x : XXX)
  | xld (x : XMem)
  | xst (x : XMem)
  | xnorm (x : XXB)
  | xget (x : XGet)
  | matrixNop
  | mdset (x : MMdset)
  | mdget (x : MMove)
  | mldt (x : MLoad)
  | mstz (x : MStore)
  | mstzTag (x : MStore)
  | mma (x : MMul)
  | mmaz (x : MMul)
  | mnest (x : MNest)
  | mnestz (x : MNest)
  | mzero (x : MZ)
  | mtr (x : MTrans)
  | mrdz (x : MRead)
  | mwm (x : MWm)
  | mchk (x : MMul)
  | mchkz (x : MMul)
  | mres (x : MZM)
  | mfix (x : MZM)
  | mmir (x : MMir)
  | minj (x : MInj)
  | mtag (x : MTag)
  | mcvt (x : MCvt)
  | mbias (x : MZM)
  | mactRelu (x : MZ)
  | mactAbs (x : MZ)
  | mactScale (x : MScale)
  | mpitch (x : MN)
  | matrixGetm (x : MGetm)
  | matrixPutm (x : MMove)
  | matrixXfer (x : MXfer)
  | copyNop (e : CUnit)
  | cdsetImmediate (e : CUnit) (x : CSetI)
  | cdsetRegister (e : CUnit) (x : CSetR)
  | cdget (e : CUnit) (x : CGet)
  | cpy (e : CUnit) (x : CTwo)
  | cpyb (e : CUnit) (x : CBar)
  | cpyt (e : CUnit) (x : CTile)
  | cgath (e : CUnit) (x : CTwo)
  | cscat (e : CUnit) (x : CTwo)
  | czero (e : CUnit) (x : COne)
  | cfill (e : CUnit) (x : CFill)
  | cred (e : CUnit) (x : CRed)
  | cbcast (e : CUnit) (x : CBar)
  | callred (e : CUnit) (x : CRed)
  | cdigest (e : CUnit) (x : CTwo)
  | cpull (e : CUnit) (x : CTwo)
  | cpost (e : CUnit) (x : CPost)
  | chostTo (e : CUnit) (x : CTwo)
  | chostFrom (e : CUnit) (x : CTwo)
  | ccarrTo (e : CUnit) (x : CTwo)
  | ccarrFrom (e : CUnit) (x : CTwo)
  | ctlr (e : CUnit) (x : CJ)
  | cwait (e : CUnit) (x : CWait)
  | cfence (e : CUnit) (x : CFence)
  | cfenceA (e : CUnit) (x : CFence)
  | ccvt (e : CUnit) (x : CTwo)
  | cpref (e : CUnit) (x : CSrc)
  | cswp (e : CUnit) (x : CTwo)
  | copyGetm (e : CUnit) (x : CGetm)
  | copyPutm (e : CUnit) (x : CPutm)
  | copyXfer (e : CUnit) (x : CXfer)
  | bundleCommit (sigBad : Bool)
  | asynchronousTrap (k : Nat)
  | fairnessYield (c : Nat)
  | watchdogExpiry (k : Nat)
  | sleepEnd (k : Nat)
  | exposedResultLand (k : Nat) (i : Nat)
  | memoryAccessPerform (k : Nat) (i : Nat) (v : Evict)
  | migpullRepost (p : Nat) (page : Nat)
  | migrationHoldTimeout (p : Nat) (page : Nat)
  | messageDelivery (i : Nat)
  | remotePostApply (i : Nat)
  | fencedNack (i : Nat)
  | ridgeArrival (w : Arriver)
  | ridgeRelease (n : Nat)
  | endComplete (k : Nat)
  | nodeEnd (w : Ender)
  | contextKill (k : Nat)
  | restoreGateRelease (n : Nat)
  | commandStart (k : Nat) (i : Nat)
  | ktileIntake (k : Nat) (i : Nat) (t : Intake)
  | accumulatorRowFinal (k : Nat) (r : RowFinal)
  | commandPerform (k : Nat) (i : Nat)
  | copyBatchLand (k : Nat) (i : Nat) (b : BatchLand)
  | copyTimeout (k : Nat) (i : Nat)
  | detContributionAccept (k : Nat) (i : Nat)
  | collectiveExchange (k : Nat) (i : Nat) (peer : Peer)
  | sourceFenced (k : Nat) (i : Nat)
  | segmentRollback (k : Nat)
  | budgetOverrun (p : Nat)
  | partitionPeriodStart (p : Nat)
  | epilogueStop (k : Nat)
  | drainBoundExpiry (n : Nat)
  | coreGovernorWindowEnd (c : Nat)
  | plainGovernorWindowEnd (pl : Nat) (w : Nat)
  | energyWindowEnd (c : Nat)
  | usageRecordEmit (p : Nat)
  | ctxsaveDone (i : Nat)
  | ctxloadDone (i : Nat)
  | partitionCreateDone (i : Nat)
  | partitionStopDone (i : Nat)
  | partitionDestroyDone (i : Nat)
  | zeroDone (i : Nat)
  | retirementRecord (i : Nat)
  | signedRecordDone (i : Nat)
  | heartbeatSend (c : Nat)
  | heartbeatReceive (c : Nat) (n : Fin 4) (h : BitVec 128)
  | heartbeatPeriodEnd (c : Nat)
  | flitWindowEnd (c : Nat) (n : Fin 4) (flits : Nat)
  | accusationReceive (c : Nat) (n : Fin 4) (w : Nat)
  | withdrawalReceive (c : Nat) (n : Fin 4) (w : Nat)
  | fenceNoticeReceive (c : Nat) (n : Fin 4)
  | readmissionReceive (c : Nat) (n : Fin 4)
  | bistResult (c : Nat) (pass : Bool)
  | leasePlacement (u : Nat)
  | leaseWithdrawal (w : Withdrawal)
  | patternEnd (u : Nat) (pass : Bool) (last : Bool)
  | scoreHalving
  | powerOnReset
  | selfTest (code : Nat) (unit : Nat) (pass : Bool) (data : List (BitVec 8))
  | powerToken (t : BitVec 192)
  | tokenLeaseExpiry
  | hbmThermalMeasurement (st : Fin 8) (temp : Int)
  | dieThermalMeasurement (pl : Fin 4) (temp : Int)
  | hostWrite (p : Nat) (off : Nat) (data : List (BitVec 8))
  | hostRead (p : Nat) (off : Nat) (n : Nat)
  | winbase (p : Nat) (v : BitVec 64) (ide : Bool)
  | status (p : Nat) (v : BitVec 32)
  | spdmRequest (f : Nat) (msg : List (BitVec 8))
  | tdispRequest (p : Nat) (want : Tdi)
  | flitReceive (port : Fin 18) (flit : BitVec 512)
  | nakReceive (port : Fin 18) (lseq : BitVec 8)
  | unreachableNack (k : Nat) (i : Nat)
  | instructionFetch (k : Nat) (a : Nat)
  | longSeriesOperationLand (k : Nat) (i : Nat)
  | tlbinvRemovalEnd (i : Nat)
  | linkTraining (l : Fin 2) (width : Nat)
deriving DecidableEq, Repr

end Sys2Proof
end

