-- ==== Sys2Proof/Machine/State.lean ====
section
/-!
DEFINITION. Machine/State.lean: the state of one GL2 package, as plain data, and its reset. INVENTORY.md names the rule
of each field. Contexts are keyed by the handle of R261 (core + 256 × number for a mesh core, 4096 + plain + 256 × number
for a stream core, 8192 for the management context); cores by COREID, 256 + plain for a stream core, 260 for management.
-/
namespace Sys2Proof.Machine

/-- Memory: listed bytes in rising key order, none zero; a key is (space × 2^64 + address) and an unlisted byte reads 0. -/
abbrev Memory := List Host.Cell

/-- A register that a result lands in. -/
inductive Loc where
  | s (i : Fin 16) | sn (i : Fin 4)
  | v (u : VUnit) (i : Fin 16) | vn (u : VUnit) (i : Fin 4) | ve (u : VUnit) (i : Fin 4)
  | p (i : Fin 8) | m (i : Fin 64) | x (i : Fin 16) | md (i : Fin 8) | cd (e : CUnit) (i : Fin 8)
deriving DecidableEq, Repr

/-- The pending delayed transfer of R114; `rtt` holds the level of an RTT's (R132), else 0. -/
structure Delay where
  count : Nat
  target : Word
  rtt : Nat
deriving DecidableEq, Repr

/-- An active loop level (R116): counter, first and last bundle address, and the body as fetched. -/
structure Level where
  n : Fin 6
  first : Nat
  last : Nat
  body : List (BitVec 256)
deriving DecidableEq, Repr

/-- The forced-epilogue record (R119, R120). -/
structure Epilogue where
  armed : Bool
  pro : Word
  k : Fin 6
  iter : BitVec 32
  used : Bool      -- the clamp has been taken: the context resumes at PRO
  resuming : Bool  -- EPI reports ITER next
deriving DecidableEq, Repr

/-- Flow-slot registers of a context. -/
structure FlowRegs where
  pc : Word
  dly : Delay
  w : Vector Word 4
  lk : Word
  lc : Vector (BitVec 32) 6
  bb : Vector (BitVec 32) 8
  loops : List Level
  epi : Epilogue
deriving DecidableEq, Repr

/-- The banked trap registers of one level (R282, R118). `rtt` is the level of an interrupted RTT. -/
structure Bank where
  cause : Word
  tpc : Word
  tval : Word
  tmask : BitVec 8
  tdly : Word
  rtt : Nat
  loops : List Level
deriving DecidableEq, Repr

/-- Special registers of a context that are held (Table 10-8); the others are views. -/
structure SysRegs where
  ident : Vector Word 8
  seed : Word
  tl : Nat
  tvec : Word
  tsave : Word
  banks : Vector Bank 2
  sstat : BitVec 9
  egrant : BitVec 32
  dmode : Bool
  rmode : BitVec 2
  tol : BitVec 32
  fmt : Vector (BitVec 32) 8
deriving DecidableEq, Repr

/-- Registers of one vector unit: operand, near, residue (Table 6-6). -/
structure VFile where
  r : Vector VReg 16
  n : Vector VReg 4
  e : Vector VReg 4
deriving DecidableEq, Repr

/-- An accumulator (R209). -/
structure Accum where
  rows : Vector VReg 64
  zs : VReg
  zc : VReg
  tag : BitVec 16
  valid : Bool
deriving DecidableEq, Repr

/-- The rung trace (R223). -/
structure Trace where
  base : Nat
  cap : Nat
  cursor : Nat
deriving DecidableEq, Repr

/-- Data registers of a context. -/
structure DataRegs where
  p : Vector Word 8
  s : Vector Word 16
  sn : Vector Word 4
  a : VFile
  b : VFile
  m : Vector VReg 64
  x : Vector XReg 16
  xo : Word
  md : Vector Word 8
  t : Vector Tile 8
  z : Vector Accum 4
  cd : Vector Desc 8
  dd : Vector Desc 8
  draws : Word
  rows : Nat
  cols : Nat
  mirror : Bool
  trace : Trace
  issued : Vector Nat 3
  sig : Word
deriving DecidableEq, Repr

/-- Everything a segment's shadow holds (R367): all registers but flags and queues. -/
structure Regs where
  flow : FlowRegs
  sys : SysRegs
  dat : DataRegs
deriving DecidableEq, Repr

/-- A result in flight (R98): bits `mask` of `loc` become those of `val` by `due`. -/
structure Flight where
  loc : Loc
  val : Nat
  mask : Nat
  cls : Fin 5
  due : Nat
  lock : Bool    -- interlocked: reads and writes stall (R141, R181)
  long : Bool    -- a long series operation (R188)
deriving DecidableEq, Repr

/-- Atomic operations (Table 7-11, R182). -/
inductive AtomOp where
  | add | xchg | cas | min | max | minu | maxu | and | or | fadd
deriving DecidableEq, Repr

/-- `done`: the access has acted, and its completion and the landing of its value are still to come. -/
inductive AccKind where
  | load | loadS | store | atomic (op : AtomOp) | done
deriving DecidableEq, Repr

/-- An access of a slot that has issued and not performed (R297): `n` bytes at memory key `key`. -/
structure Access where
  seq : Nat
  bun : Nat        -- the bundle it issued in: the number of its first access
  kind : AccKind
  key : Nat
  n : Nat
  val : Nat
  cmp : Nat
  dst : Option Loc
  shift : Nat      -- where in the destination register the value goes, in bits
  width : Nat      -- how many bits of it
  scope : Nat
  due : Nat        -- when it lands or performs at the latest: at the first sequencer edge from then on if `cls` is 5
  cls : Nat        -- the class in whose cycles `due` was counted, or 5: reference cycles (R342)
  part : Nat
  uc : Bool
  va : Nat         -- of a slot s access: the device-virtual address (R263)
  own : Bool       -- to the own scratchpad, of an exact context, so that it acts when it is due (R305, R342)
deriving DecidableEq, Repr

/-- A scratchpad operand descriptor pair (Table 9-2). -/
structure MPair where
  even : Word
  odd : Word
deriving DecidableEq, Repr

inductive MOpnd where
  | tile (i : Fin 8) | mem (p : MPair) | zero
deriving DecidableEq, Repr

/-- A multiplying command (R211-R213): the k-tiles' A and B steps in order. -/
structure MulCmd where
  k : Fin 4
  clr : Bool
  chk : Bool
  a : MOpnd
  b : MOpnd
  code : Nat
  fmt : BitVec 32
  rows : Nat
  cols : Nat
  mirror : Bool
  steps : List (Int × Int)
deriving DecidableEq, Repr

/-- Copy commands (Table 9-7). -/
inductive CopyOp where
  | cpy | cpyb (n : Fin 8) (tile : Option (Fin 8)) | cpyt (n : Fin 8) (code : Nat) (fmt : BitVec 32)
  | cgath | cscat | czero | cfill (v : BitVec 32) | cred (op : Nat) (det : Bool)
  | cbcast (n : Fin 8) (b : Bool) | callred (op : Nat) (det : Bool) | cdigest | cpull | cpost (n : Fin 16)
  | chost (out : Bool) | ccarr (out : Bool) | cwait (n : Fin 16) (imm : Nat) | cfence (sc : Nat) | ccvt (relief : Option Nat)
  | cpref | cswp
deriving DecidableEq, Repr

structure CopyCmd where
  op : CopyOp
  dst : Desc
  src : Desc
  fmts : Vector (BitVec 32) 8    -- the format registers at issue (R201)
  coll : Nat                     -- of CALLRED and CDIGEST: which collective of the context it is (R242)
deriving DecidableEq, Repr

/-- What a command does (R199). -/
inductive CmdOp where
  | nop
  | mldt (n : Fin 8) (code : Nat) (fmt : BitVec 32) (p : MPair)
  | mstz (k : Fin 4) (p : MPair) (tag : Bool)
  | mul (c : MulCmd)
  | mzero (k : Fin 4)
  | mtr (d a : Fin 8) (c : Nat)
  | mfix (k : Fin 4) (v : VReg) (rows cols : Nat)
  | minj (k : Fin 4) (i j : Fin 64) (t : Nat) (b : Nat)
  | mcvt (d : Fin 8) (k : Fin 4) (r : Rnd) (code : Nat) (fmt : BitVec 32)
  | mbias (k : Fin 4) (v : VReg)
  | mact (k : Fin 4) (fn : Nat) (n : Int)
  | copy (c : CopyCmd)
deriving DecidableEq, Repr

/-- An engine command that has issued and not performed (R200-R202). -/
structure Cmd where
  eng : Fin 3
  num : Nat
  op : CmdOp
  scope : Nat
  issued : Nat
  seqAt : Nat              -- accesses numbered below this are of earlier bundles (R246)
  order : Nat              -- issue order among the commands of the core
  start : Option Nat
  due : Nat                -- the last reference cycle at which it may perform, once started
  limit : Option Nat       -- the deadline of R322; of a copy, the bound of its first start
  done : Nat               -- k-tiles, batches or rows behind the command
  final : Nat              -- rows of its accumulator that are final; of a copy, its bound in cycles (R247)
  snap : Option Nat        -- a row reader waits for the rows of this Z-writing command (R216)
  hold : List (Fin 8)      -- tiles it has still to read (R201)
  susp : Option (Nat × Nat)
  suspAt : Nat
  sent : Bool              -- own contribution sent, or post and store accepted; of a k-tile command, a mismatch traps when it performs (R219)
  landed : List Nat        -- batches of a copy that landed beyond the first `done` (R232)
  split : List (Nat × Nat) -- batches cut at a change of owner: how many bytes of each have landed (R233)
  taint : List Nat         -- batches whose source bytes in `data` were marked (R375)
  data : List Byte         -- source bytes taken by a command that combines them (R240, R242, R243)
  bad : Bool               -- a mirror mismatch was recognised (R219); of MLDT and MTR, marked data were consumed (R375)
  lastLand : Nat           -- when a byte last landed; of k-tiles, when the last intake ends
  gone : Nat               -- of k-tiles all taken: matrix cycles passed after the last intake up to `lastLand`, a change of the clock (R8)
  past : Option (Nat × Nat)  -- of a late multiplying command: matrix cycles past its deadline up to the last change of the clock, and when (R334)
  lat : Nat                -- cycles from start to the first intake (R211), or from the last bound on (R216); of a copy, until its last batch
  page : Option (Nat × Nat × Nat)  -- a walk holds at a pending page: page, leaf key, since (R384)
  hop : Option (Nat × Nat)  -- of a copy of a fenced core: what says which batches have passed their first hop (R252): those below the first, and how many more
  rows : List VReg         -- a row reader: the rows of its accumulator as they became final (R216); of MLDT and MTR, the rows read so far
  tag : BitVec 16          -- and its pitch tag
deriving DecidableEq, Repr

/-- The open segment (R128, R367-R373). -/
structure Seg where
  shadow : Regs
  log : List (Nat × Nat × Nat)     -- key, bytes, old value; newest first
  logged : Nat                     -- entries of the 512 taken
  buf : List Access
  used : Nat
  atoms : Nat                      -- entries of the buffer that atomics have taken (R371)
  mask : BitVec 8
  gen : Nat
  replayed : Bool
  irrevocable : Bool
  base : Vector Nat 3              -- timeline numbers issued when it opened
  since : Nat                      -- when it opened
deriving DecidableEq, Repr

inductive Status where
  | free | ready | running | blocked | ending | halted
deriving DecidableEq, Repr

/-- What a Blocked context waits with (R21, R50, R132). -/
structure Wait where
  mask : BitVec 8
  since : Nat
  sleep : Option Nat
  gate : Option Status   -- held at the restore gate, and what it goes on as
deriving DecidableEq, Repr

/-- Held control-block fields (Table 2-5). -/
structure Control where
  drain : Nat
  ctxreg : Nat
  emax : Nat
  clen : Nat
  banks : BitVec 24
  egrant : BitVec 32
  entry : Nat
deriving DecidableEq, Repr

/-- A ladder entry (Table 14-1): format code and format-register value. -/
structure Ladder where
  code : Nat
  fmt : BitVec 32
deriving DecidableEq, Repr

/-- The pitch contract (R315) and the rungs the governors keep (R319). -/
structure Pitch where
  rank : Nat
  ceil : Nat
  floor : Nat
  relief : Bool
  latk : Nat
  bwg : Nat
  lat0 : Nat
  ladder : Vector Ladder 4
  core : Nat
  plain : Nat
deriving DecidableEq, Repr

/-- A context (R16). -/
structure Ctx where
  regs : Regs
  f : Vector (BitVec 32) 16
  q : Vector (List Word) 4
  wz : Vector Nat 4
  status : Status
  wait : Wait
  run : Nat
  wdPend : Option (BitVec 8)
  wdHeld : Option (BitVec 8)   -- waits behind an asynchronous trap (R50)
  wdSeen : Bool
  async : List Nat
  node : Nat
  part : Nat
  idx : Nat
  lead : Nat            -- the course lead's handle, or the pair lead's; its own otherwise
  ctl : Control
  pitch : Pitch
  flights : List Flight
  accs : List Access
  cmds : List Cmd
  seq : Nat             -- numbers given to accesses
  seg : Option Seg
  gen : Nat             -- ridge generation it will arrive at next
  arrived : Bool        -- waiting at the ridge with its arrival recorded
  ridging : Bool        -- RIDGE reached, earlier work still to perform
  rdv : Nat             -- RDV arrivals in the current segment generation
  rdvAt : Bool
  tickets : Nat
  colls : Nat           -- collectives issued
  abort : Bool          -- RIDGE_ABORT to be taken (R38)
  forced : Bool         -- marked for epilogue (R378)
  saving : Bool         -- a save is in progress
  rolling : Bool        -- a rollback trigger is recognised (R372)
  kill : Option Nat     -- killed with this cause, to be freed at the boundary
  held : Option (Nat × Nat × Nat)  -- a slot access waits on a pending page: partition, page, since when (R384)
  checkAt : Option Nat  -- when the address check of the nest at hand ends (R212)
  late : List (Nat × Nat)  -- late events to be posted at the next boundary: kind, amount (R354)
  narrow : List (Nat × Bool)  -- lines written at a scope narrower than package since the last drain; by a command or not (R299)
  posts : List (Nat × Nat × Nat)  -- additions that reached a flag in the latest cycle: flag, count, cycle (R121)
  marks : List Nat      -- tiles that hold marked bytes (R375)
  stopAt : Nat          -- when it stopped to be saved (R355)
  finals : List (Fin 4 × Nat × Nat × Nat)  -- since its last commit: accumulator, the rows that became final, from and up to, and when (R224)
  life : Nat            -- the number of this occupant: a save and a load keep it (R258)
  ridgeAt : Nat × Word  -- the RIDGE whose arrival is recorded: trap level and address (R37)
  passes : List (Nat × Word)  -- of the RIDGEs that their ridge has released: each commits when it issues next
deriving DecidableEq, Repr

/-- A scalar L1 line (R152). -/
structure Line where
  part : Nat
  key : Nat
  data : BitVec 512
deriving DecidableEq, Repr

/-- A line of a plain's L2 (R294): of a non-home copy the data and the changed bytes. The data of a home copy is memory as every
access at its home reads it, so that a home line holds none. -/
structure L2Line where
  plain : Nat
  way : Nat
  part : Nat
  key : Nat
  data : BitVec 512
  dirty : BitVec 64
deriving DecidableEq, Repr

/-- A cached translation (R291). `cache`: a core; 512 + glen of the package; 1024 + plain. -/
structure Tlb where
  cache : Nat
  part : Nat
  base : Nat
  size : Nat
  pte : Word
  pteKey : Nat
deriving DecidableEq, Repr

/-- The energy window of a core (R447, R448). -/
structure Energy where
  fin : Nat        -- where the window at hand ends
  grant : Nat
  charge : Nat
  stalls : Nat
  rows : List (Nat × Nat × Nat)  -- row commands: when the next row begins, rows still to begin, partition
deriving DecidableEq, Repr

/-- The core governor (R325-R327) or plain governor (R330). -/
structure Governor where
  win : Nat
  ptr : Vector Nat 8
  stack : List Nat
  quiet : Nat
  used : Nat
  late : Bool
  cap : Nat             -- matrix edges of the window before the last change of the clock
deriving DecidableEq, Repr

/-- A core's view of one neighbour (R395, R396). -/
structure View where
  view : Nat
  acc : Bool
  missed : Nat
  clean : Nat
  set : List Nat
  beats : Nat
  fine : Bool         -- nothing in the period at hand makes it babbling
  beyond : Nat
  accepted : Nat
  window : Nat        -- windows of 4096 cycles judged
  flits : List (Nat × Nat)  -- windows not yet judged in which flits came from it, and how many
deriving DecidableEq, Repr

structure Health where
  views : Vector View 4
  seq : Nat
  sentAt : Option Nat
  probation : Bool
  clean : Nat
  fences : List Nat     -- since first power-on
  barred : Bool
  fenced : Bool
  testing : Option Nat
  accusers : BitVec 4
  dlv : Vector Nat 4
  periods : Nat
deriving DecidableEq, Repr

/-- A core. -/
structure Core where
  div : Vector Nat 5
  origin : Vector Nat 5
  cur : Option Nat
  last : Nat
  next : Nat
  l1 : List Line
  icache : List (Nat × Nat × BitVec 256)   -- context number, address, bundle
  energy : Energy
  gov : Governor
  clk : Option (Fin 5 × Nat × Nat)   -- a CLKDIV that takes effect: class, divisor, cycle (R133)
  free : Vector Nat 5       -- array, tile port, accumulator port, copy c, copy d
  order : Nat
  health : Health
  owners : List (Nat × Nat) -- bank, owning partition
deriving DecidableEq, Repr

/-- A host write waiting in the eave buffer (R431). -/
structure HostWrite where
  link : Fin 2          -- the link it came through
  addr : Nat
  data : List Byte
deriving DecidableEq, Repr

structure VfRegs where
  winbase : Word
  drop : Word
  wfault : Word
  status : BitVec 2
deriving DecidableEq, Repr

/-- A partition (R267, R289, R430, R442-R444). -/
structure Part where
  exist : Bool
  stopped : Bool
  debug : Bool
  inject : Bool
  detok : Bool
  migdest : Bool
  migborn : Bool        -- created as a migration destination (R443)
  ways : BitVec 16
  hbm : Nat × Nat
  carr : Nat × Nat
  ctxr : Nat × Nat
  stopw : Nat
  dirty : Nat
  migsrc : Nat
  period : Nat
  budget : Nat
  cgrant : BitVec 1024
  sgrant : BitVec 64
  root : Nat
  minj : Bool
  meters : Tbl Nat
  energy : Nat          -- nJ not yet counted as mJ
  eave : List HostWrite
  vf : Vector VfRegs 2   -- of its function on each link (R429)
  tdi : Tdi
  epoch : Nat
  created : Nat
  charged : Nat
  overrun : Bool
  usage : Option (List Byte)
  useq : Nat
  uprev : BitVec 512
  final : Bool
  emitted : Nat
  desc : List Byte      -- the descriptor accepted at CREATE, as last changed by UPDATE (Table 25-5)
  busy : Bool
  pages : List (Nat × Nat × Nat × Option Nat)  -- pending pages asked for: page, leaf key, since, when the element is posted next (R137)
  periodAt : Nat        -- where the period at hand began (R376)
  digests : Nat         -- DIGEST_MISMATCH events counted for it (R353)
  parked : List (Nat × Word × Vector Word 16)  -- stream contexts stopped before a LAUNCH: PC and S0-S15 (R377)
deriving DecidableEq, Repr

/-- A graph node (R27-R38). -/
structure Node where
  run : Bool
  part : Nat
  ctxs : List Nat
  status : Nat          -- memory key of the status word
  owner : Nat           -- launching stream context
  flag : Fin 16
  group : Nat
  dmode : Bool
  rank : Nat            -- RANK and NRANK of its contexts (Table 2-3)
  nrank : Nat
  cause : Option (Nat × Nat × Nat)   -- STATE, CAUSE, WHO of the first cause
  gen : Nat
  launched : Nat
  away : Nat            -- reference cycles not bound (R355)
  arrivedAt : Nat
  peers : List (Nat × Nat × Bool)  -- of the ranks on other packages: generations arrived at, and whether the node has ended (R35)
  drainAt : Option Nat
  saved : List (Nat × Nat)  -- contexts saved by pre-emption, and where their images lie
  gate : Nat            -- contexts loaded and held
  expect : Nat
  leftAt : Nat
  out : Nat             -- 1 pre-empted by its budget, 2 to be resumed once all its contexts are saved (R376)
  mine : List Nat       -- the contexts that the budget pre-empted
  uc : Bool             -- the status word lies in an uncached page (R296)
deriving DecidableEq, Repr

/-- What an owner asks of a resource of a plain (R329): 0 its L2, 1 its HBM stacks, 2 its carrier channels, 3 the passes that leave
it. Bytes asked for in the window at hand, and those of earlier windows that wait to be served (R331). -/
structure Traffic where
  plain : Nat
  owner : Nat
  res : Nat
  asked : Nat
  waiting : Nat
deriving DecidableEq, Repr

/-- A message in flight (R122, R136). -/
inductive MsgKind where
  | send (q : Fin 4) (v : Word) | post (f : Fin 16) (n : Nat)
deriving DecidableEq, Repr
structure Msg where
  src : Nat
  dst : Nat
  kind : MsgKind
  after : Nat      -- a POSTR waits for the sender's accesses numbered below this (R123)
  due : Nat
deriving DecidableEq, Repr

/-- What the reserved slots of the mesh links carry (R394, R396, R400): a heartbeat; word of a neighbour's neighbour that it accuses it or no
longer does; a fence notice; an appeal. It is on its way to core `dst` and concerns its neighbour `dir`. -/
inductive LinkMsg where
  | beat (h : BitVec 128) | accuse (w : Nat) | withdraw (w : Nat) | fence | appeal
deriving DecidableEq, Repr
structure Wire where
  dst : Nat
  dir : Fin 4
  kind : LinkMsg
  due : Nat
deriving DecidableEq, Repr

/-- An open DET reduction (R240). -/
structure Reduction where
  dst : Desc
  keys : List (Nat × Nat)   -- destination runs: memory key and length
  part : Nat
  log : Nat
  code : Nat
  op : Nat
  scope : Nat
  nodes : List (Nat × Nat × List Byte)
  taint : List Nat       -- batches to which a contribution brought marked bytes (R375)
  home : Nat             -- the plain whose store holds it, or a plain of a peer
deriving DecidableEq, Repr

/-- A collective at its combiner (R242): the ridge group (or the node), LCORE, declared index and number that match its
participants; what the first participant asked for; the contributions in order of arrival; the local ranks and the ranks
that have performed. -/
structure Coll where
  group : Nat × Nat
  lcore : Nat
  idx : Nat
  seq : Nat
  want : Nat
  what : Bool × Bool × Nat × Nat × Nat    -- digest, DET, OP, code, length
  got : List (Nat × List Byte)
  own : List Nat
  finished : List Nat
  taint : List Nat       -- batches to which a participant contributed marked bytes (R375)
  bad : Bool
deriving DecidableEq, Repr

/-- An asynchronous privileged operation (R258). -/
inductive OpKind where
  | save | load | create | stop | destroy | zero (cls : Nat) | lease | retire | appeal | sign (kind : Nat)
deriving DecidableEq, Repr
structure SysOp where
  kind : OpKind
  issuer : Option Nat
  life : Nat             -- of the issuer: a later occupant gets nothing (R258)
  opcode : Nat
  ticket : Nat
  flag : Fin 16
  target : Nat
  a : Nat
  b : Nat
  due : Nat
  data : List Byte
deriving DecidableEq, Repr

/-- A unit that patrol, scoring and retirement act on (R260, R272). -/
structure UnitSt where
  score : Nat
  retired : Bool
  lease : Bool
  out : Bool            -- withdrawn
  stop : Bool           -- UNLEASE asked for while under test
  last : Nat            -- when it was last leased, since first power-on
  failed : Bool         -- taken out of service by a power-on test
  since : Nat           -- when it was withdrawn, and when its last pattern ended (R406)
  pat : Nat
deriving DecidableEq, Repr

structure Power where
  seq : Option Nat
  budget : Nat
  leaseEnd : Option Nat
  atFloor : Bool
  cut : Nat             -- percent taken off for die heat (R452)
  cutMs : Nat           -- 1 + the millisecond of the last cut
  floor : Nat           -- the safe floor in W, which the module's configuration sets (R450)
deriving DecidableEq, Repr

structure Thermal where
  refresh2 : Bool
  cap : Bool
  off : Bool            -- it has reached its trip: the stack delivers nothing
deriving DecidableEq, Repr

structure BringUp where
  units : Nat
  detail : Nat
  code : Nat
  state : Nat
  next : Nat            -- how many of the tests of Table 26-3 have ended
  readyAt : Nat         -- when the last of them ended
deriving DecidableEq, Repr

/-- A Bamed port (R435, R436). -/
structure Port where
  up : Bool
  rx : Nat
  tx : Nat
  replay : List (BitVec 512)
  fails : Nat
  nakAt : Option Nat    -- the sequence number that the last NAK named
  inbox : List Byte
  retry : Bool          -- a NAK is out for the next flit
deriving DecidableEq, Repr

/-- What the package has answered to the outside world, newest first. -/
inductive Answer where
  | hostRead (p : Nat) (data : Option (List Byte)) | unsupported (p : Nat) | spdm (f : Nat) (msg : List Byte)
  | brk (p : Nat) (code : Nat) | nak (port : Nat) (lseq : Nat) | resend (port : Nat) | advisory (p : Nat)
  | arrived (group rank gen : Nat) | ended (group state : Nat)
  | digest (p : Nat) | took (src vc type : Nat) (data : List Byte) | replay (port : Nat) (flits : List (BitVec 512))
deriving DecidableEq, Repr

/-- A condition that one slot of the open bundle raised (R106, R360). -/
structure Raise where
  slot : Nat
  cause : Nat
  val : Nat
  unit : Option Nat      -- the unit whose uncorrectable data was read (R375)
deriving DecidableEq, Repr

/-- A reason for which the open bundle cannot issue now: a blocking event of Table 2-4, or a stall (R22). -/
structure Hold where
  slot : Nat
  block : Bool
  page : Option (Nat × Nat × Nat)   -- a pending page that the access waits for: partition, page, leaf key (R384)
deriving DecidableEq, Repr

/-- What the agenda says happens next. -/
inductive Move where
  | event (i : Instr) | issue (core : Nat) (sigBad : Bool) | wait (cycles : Nat)
deriving DecidableEq, Repr

/-- Everything of the machine but the bundle being issued and the choice of the next move. -/
structure World where
  now : Nat
  before : Nat            -- reference cycles before this power-on
  product : Nat           -- 0 P384, 1 M384-1536, 2 M384-0 (Table 0-1)
  mem : Memory
  poison : List Nat       -- marked 64-byte lines, by key / 64
  ctxs : Tbl Ctx
  cores : Tbl Core
  parts : Tbl Part
  nodes : Tbl Node
  units : Tbl UnitSt
  l2 : List L2Line
  tlb : List Tlb
  dying : List (Nat × Nat × Nat × Nat × Nat)   -- TLBINV in progress: issuer, partition, base, bytes, due
  msgs : List Msg
  wires : List Wire
  reds : List Reduction
  colls : List Coll
  ops : List SysOp
  plains : Vector Governor 4
  traffic : List Traffic
  rates : List (Nat × Nat × Nat × Nat)  -- plain, resource, the last window in which a capacity holds that has changed since, and it (R336)
  flash : List (List Byte)
  meas : Vector (BitVec 512) 4
  power : Power
  hbmStacks : Vector Thermal 8
  dies : Vector Bool 4
  boot : BringUp
  fabric : Nat
  ports : Vector Port 18
  links : Vector Nat 2    -- lanes up: 16, 8, 4 or 0
  answers : List Answer
  nextNode : Nat
  stash : Tbl (List Cmd)  -- the copy commands of saved images, by the number that the image holds
  fresh : Nat             -- free values taken
  hours : Nat
deriving DecidableEq, Repr

/-- The bundle being issued: what every slot reads, and what the slots asked for beside their register effects. -/
structure Open where
  ctx : Nat
  hdr : BitVec 32
  lit : BitVec 32
  words : List (BitVec 32)
  saved : World            -- everything before the bundle; a bundle that does not commit leaves it
  mem : Memory             -- what the bundle's loads read: memory with the host writes applied
  raised : List Raise
  holds : List Hold
  jump : Option (Word × Nat)   -- a taken transfer: target, and the RTT level or 0
  skip : Option Word           -- a LOOP with a zero counter goes past its body
  ends : Bool
  sleep : Nat
  yield : Bool
  halt : Option Nat
  pops : BitVec 4
  clk : Option (Fin 5 × Nat)
  draws : Nat
  nest : Nat                   -- sequencer cycles that the address check of a nest takes (R212)
  ridge : Bool                 -- a RIDGE blocks: the context is at its ridge
  park : Bool                  -- a LAUNCH of a partition over its budget stops the context (R377)
  rdv : Bool                   -- an RDV blocks: the context has arrived at it
  seg : Option (BitVec 8)      -- a segment opens at the commit, with this partner mask (R128)
  acted : Bool                 -- a store or atomic of the bundle has acted: its later loads read at once (R304)
  undo : List (Nat × Nat × Nat)   -- what stood where those that acted elsewhere wrote: key, bytes, value; newest first
  sigs : List (Nat × Nat × Nat)   -- what enters the signature beside PC and words: group, bytes, value (R391)
deriving DecidableEq, Repr

/-- The state: the world, the context that an instruction outside a bundle acts for, the open bundle, the agenda. -/
structure State extends World where
  cur : Nat
  opened : Option Open
  agenda : List Move
deriving DecidableEq, Repr

/-- Faults: none is raised; every condition of the spec is a trap, a kill or a suspension inside the state. The type
names the one way in which a stored state could not be run. -/
inductive Fault where
  /-- A context key that no context of the package has (R261). No step raises it; safe. -/
  | noSuchContext
deriving DecidableEq, Repr

/-- Refusals. -/
inductive Refusal where
  /-- Raised by `exec` for an instruction without a meaning in this model; safe: no claim about it can be proved. -/
  | notModelled (mnemonic : String)
deriving DecidableEq, Repr

def Delay.none : Delay := ⟨0, 0, 0⟩
def Epilogue.none : Epilogue := ⟨false, 0, 0, 0, false, false⟩
def Bank.zero : Bank := ⟨0, 0, 0, 0, 0, 0, []⟩
def VFile.zero : VFile := ⟨Vector.replicate 16 0, Vector.replicate 4 0, Vector.replicate 4 0⟩
/-- A cleared accumulator (R209). -/
def Accum.zero : Accum := ⟨Vector.replicate 64 0, 0, 0, 0, true⟩

/-- Table 4-4. -/
def fmtPresets : Vector (BitVec 32) 8 :=
  #v[0x01B0F508, 0x00507408, 0x00103306, 0x00101206, 0x00101204, 0x02507408, 0x02101204, 0x03B0F508]

def FlowRegs.zero : FlowRegs :=
  ⟨0, Delay.none, Vector.replicate 4 0, 0, Vector.replicate 6 0, Vector.replicate 8 0, [], Epilogue.none⟩

def SysRegs.zero : SysRegs :=
  { ident := #v[0, 0, 0, 0, 0, 0, 0, 1], seed := 0, tl := 0, tvec := 0, tsave := 0, banks := Vector.replicate 2 Bank.zero,
    sstat := 0, egrant := 0, dmode := false, rmode := 0, tol := 0, fmt := fmtPresets }

def DataRegs.zero : DataRegs :=
  { p := Vector.replicate 8 0, s := Vector.replicate 16 0, sn := Vector.replicate 4 0, a := VFile.zero, b := VFile.zero,
    m := Vector.replicate 64 0, x := Vector.replicate 16 0, xo := 0, md := Vector.replicate 8 0,
    t := Vector.replicate 8 0, z := Vector.replicate 4 Accum.zero, cd := Vector.replicate 8 0, dd := Vector.replicate 8 0,
    draws := 0, rows := 64, cols := 64, mirror := true, trace := ⟨0, 0, 0⟩, issued := Vector.replicate 3 0,
    sig := 0 }

def Regs.zero : Regs := ⟨FlowRegs.zero, SysRegs.zero, DataRegs.zero⟩

/-- The default contract (R315). -/
def Pitch.default : Pitch :=
  { rank := 0, ceil := 0, floor := 0, relief := false, latk := 0, bwg := 0, lat0 := 0,
    ladder := #v[⟨10, 0⟩, ⟨0, 0⟩, ⟨0, 0⟩, ⟨0, 0⟩], core := 0, plain := 0 }

def Wait.none : Wait := ⟨0, 0, .none, .none⟩
def Control.zero : Control := ⟨0, 0, 0, 0, 0, 0, 0⟩

/-- A Free context, zeroed (R31, R383). -/
def Ctx.zero : Ctx :=
  { regs := Regs.zero, f := Vector.replicate 16 0, q := Vector.replicate 4 [], wz := Vector.replicate 4 64, status := .free,
    wait := Wait.none, run := 0, wdPend := none, wdHeld := none, wdSeen := false, async := [], node := 0, part := 0, idx := 0, lead := 0,
    ctl := Control.zero, pitch := Pitch.default, flights := [], accs := [], cmds := [], seq := 0, seg := none, gen := 0,
    arrived := false, ridging := false, rdv := 0, rdvAt := false, tickets := 0, colls := 0, abort := false, forced := false,
    saving := false, rolling := false, kill := none, held := none, checkAt := none, late := [], narrow := [], posts := [], marks := [], stopAt := 0, finals := [], life := 0, ridgeAt := (0, 0), passes := [] }

def View.live : View := ⟨0, false, 0, 0, [], 0, true, 0, 0, 0, []⟩
def Health.zero : Health :=
  ⟨Vector.replicate 4 View.live, 0, none, false, 0, [], false, false, none, 0, Vector.replicate 4 0, 0⟩
def Governor.reset : Governor := ⟨0, Vector.replicate 8 3, [], 0, 0, false, 0⟩
/-- A plain governor, whose pointers stand before the lowest context handle. -/
def Governor.resetPlain : Governor := { Governor.reset with ptr := Vector.replicate 8 8191 }

/-- A core after power-on reset (R446, R326). -/
def Core.reset : Core :=
  { div := #v[2, 2, 2, 2, 3], origin := Vector.replicate 5 0, cur := none, last := 0, next := 0, l1 := [], icache := [],
    energy := ⟨512, 0, 0, 0, []⟩, gov := Governor.reset, clk := none, free := Vector.replicate 5 0, order := 0, health := Health.zero,
    owners := [] }

/-- WINBASE of Table 25-2. -/
def VfRegs.reset : VfRegs := ⟨0x0000010000000000, 0, 0, 0⟩

/-- A partition number that no partition has taken. -/
def Part.absent : Part :=
  { exist := false, stopped := false, debug := false, inject := false, detok := false, migdest := false, migborn := false, ways := 0,
    hbm := (0, 0), carr := (0, 0), ctxr := (0, 0), stopw := 0, dirty := 0, migsrc := 0, period := 0, budget := 0,
    cgrant := 0, sgrant := 0, root := 0, minj := false, meters := [], energy := 0, eave := [], vf := Vector.replicate 2 VfRegs.reset,
    tdi := .unlocked, epoch := 0, created := 0, charged := 0, overrun := false, usage := none, useq := 0, uprev := 0,
    final := false, emitted := 0, desc := [], busy := false, pages := [], periodAt := 0, digests := 0, parked := [] }

def UnitSt.new : UnitSt := ⟨0, false, false, false, false, 0, false, 0, 0⟩
def Port.up0 : Port := ⟨true, 0, 0, [], 0, none, [], false⟩

/-- The package right after power-on reset (R446, R450, R454): bring-up is at its first test, no partition exists. -/
def State.reset : State :=
  { now := 0, before := 0, product := 1, mem := [], poison := [], ctxs := [], cores := [], parts := [], nodes := [],
    units := [], l2 := [], tlb := [], dying := [], msgs := [], wires := [], reds := [], colls := [], ops := [],
    plains := Vector.replicate 4 Governor.resetPlain, traffic := [], rates := [], flash := [], meas := Vector.replicate 4 0,
    power := ⟨none, 2100, none, true, 0, 0, 2100⟩, hbmStacks := Vector.replicate 8 ⟨false, false, false⟩,
    dies := Vector.replicate 4 false, boot := ⟨0, 0, 0, 0, 0, 0⟩, fabric := 0, ports := Vector.replicate 18 Port.up0,
    links := Vector.replicate 2 16, answers := [], nextNode := 1, stash := [], fresh := 0, hours := 0,
    cur := 4096, opened := none, agenda := [] }

end Sys2Proof.Machine
end

