-- ==== Sys2Proof/WellFormed.lean ====
section
/-!
DEFINITION. WellFormed.lean: the conditions on an instruction's own operands, beyond the ranges its fields' types give,
under which its encoding is legal (Table 6-12 and the instruction's own description). What depends on the context that
issues it (its mode, a format register) is not here: the meanings check it.
-/
namespace Sys2Proof

/-- GETM.F register indices within their class (Table 7-4). -/
def FGetm.wf (x : FGetm) : Bool :=
  match x.c.val with
  | 0 => decide (x.n.val < 4)
  | 1 => decide (x.n.val = 0)
  | 2 => decide (x.n.val < 6)
  | 3 => true
  | _ => decide (x.n.val < 8)

/-- Receivers of the scalar XFER (R157). DESIGN CHOICE: R157 gives the lane mode for receivers a and b only and R91 wants undefined
modifier bits zero; a word to slot m with that bit set is accepted, and the bit has no effect. -/
def SXfer.wf (x : SXfer) : Bool :=
  match x.s.val with
  | 3 => decide (x.d.val < 20)
  | 4 => decide (x.d.val < 20)
  | 5 => decide (x.d.val < 8)
  | _ => false

/-- Receivers of the vector XFER (R183): s, m, or the other vector slot. -/
def VXfer.wf (u : VUnit) (x : VXfer) : Bool :=
  match x.s.val with
  | 2 => decide (x.d.val < 20)
  | 3 => decide (x.d.val < 20) && u == .b
  | 4 => decide (x.d.val < 20) && u == .a
  | 5 => decide (x.d.val < 8)
  | _ => false

/-- Receivers of the matrix XFER (R208). -/
def MXfer.wf (x : MXfer) : Bool :=
  match x.s.val with
  | 2 => decide (x.r.val < 20)
  | 3 => decide (x.r.val < 20)
  | 4 => decide (x.r.val < 20)
  | _ => false

/-- Receivers of the copy XFER (R228). -/
def CXfer.wf (x : CXfer) : Bool :=
  match x.s.val with
  | 2 => decide (x.r.val < 20)
  | 5 => decide (x.r.val < 8)
  | _ => false

/-- The special registers that MTS may name (Table 10-8: access RW). -/
def SMts.wf (x : SMts) : Bool :=
  let n := x.n.val
  n == 8 || (decide (10 ≤ n) && decide (n ≤ 22)) || n == 26 || n == 30 || decide (32 ≤ n)

/-- An integer type takes rounding code 0 only (R161). -/
def typeRnd (t : VType) (r : Rnd) : Bool := t == .f32 || r == .rne

def VTyp3.wf (x : VTyp3) : Bool := typeRnd x.t x.r
def VTyp2.wf (x : VTyp2) : Bool := typeRnd x.t x.r

/-- EF needs a floating-point destination (R170). -/
def VCvt.wf (x : VCvt) : Bool := !x.e || decide (8 ≤ x.t.val)

/-- Pack codes and the parts legal whatever the format register holds (Table 8-5). -/
def packPart (c q : Fin 16) : Bool :=
  if c.val < 2 then decide (q.val < 4)
  else if c.val < 6 then decide (q.val < 2)
  else decide (8 ≤ c.val)

/-- VPACK of an integer code has no rounding code and no EF (R172). -/
def VPack.wf (x : VPack) : Bool :=
  packPart x.c x.q && (decide (4 ≤ x.c.val) || (x.r == .rne && !x.e))

/-- The codes of a tile format (R206, R235): FP16, BF16, FP32 in an even tile, or a minifloat. -/
def tileCode (c : Fin 16) (f n : Fin 8) : Bool :=
  match c.val with
  | 8 => f.val == 0
  | 9 => f.val == 0
  | 10 => f.val == 0 && n.val % 2 == 0
  | 15 => true
  | _ => false

/-- A matrix operand under a format code (R206): no tile for a ladder block, an even tile for FP32. -/
def MOp.wf (o : MOp) (c : Fin 16) : Bool :=
  match o with
  | .t i => if c.val = 10 then i.val % 2 == 0 else !(decide (12 ≤ c.val) && decide (c.val ≤ 14))
  | .pair _ => true
  | .zero => true

/-- Format codes of the multiplying commands (R206). -/
def MMul.wf (x : MMul) : Bool :=
  decide (8 ≤ x.c.val) && x.c.val != 11 && (x.c.val == 15 || x.f.val == 0) && x.a.wf x.c && x.b.wf x.c

/-- MTR over FP32 pairs takes even registers (R214). -/
def MTrans.wf (x : MTrans) : Bool := x.c.val != 2 || (x.d.val % 2 == 0 && x.a.val % 2 == 0)

/-- Well-formed instructions: those whose encoding is legal in the slot it belongs to. -/
def Instr.wf (i : Instr) : Bool :=
  match i with
  | .nopF => true
  | .prep _ => true
  | .prepm _ => true
  | .bt _ => true
  | .j _ => true
  | .call _ => true
  | .ret _ => true
  | .loop _ => true
  | .setlc _ => true
  | .spl _ => true
  | .wait _ => true
  | .post _ => true
  | .postr _ => true
  | .tlw _ => true
  | .bbset _ => true
  | .bbwait _ => true
  | .ridge _ => true
  | .seg _ => true
  | .rdv _ => true
  | .trap _ => true
  | .rtt _ => true
  | .endF _ => true
  | .yield _ => true
  | .drain _ => true
  | .drainE _ => true
  | .clkdiv x => decide (2 ≤ x.d.val)
  | .launch _ => true
  | .send _ => true
  | .getmF x => x.wf
  | .epi _ => true
  | .wdog _ => true
  | .hbeat _ => true
  | .capq _ => true
  | .pitchq _ => true
  | .sleep _ => true
  | .brk _ => true
  | .scalarNop => true
  | .add _ => true
  | .sub _ => true
  | .addi _ => true
  | .movi _ => true
  | .movhi _ => true
  | .mul _ => true
  | .mulh _ => true
  | .mulhu _ => true
  | .div _ => true
  | .divu _ => true
  | .rem _ => true
  | .remu _ => true
  | .and _ => true
  | .or _ => true
  | .xor _ => true
  | .andn _ => true
  | .not _ => true
  | .shl _ => true
  | .shr _ => true
  | .sar _ => true
  | .rot _ => true
  | .fsh _ => true
  | .bfx _ => true
  | .bfxs _ => true
  | .bfi _ => true
  | .clz _ => true
  | .ctz _ => true
  | .popc _ => true
  | .min _ => true
  | .max _ => true
  | .minu _ => true
  | .maxu _ => true
  | .sel _ => true
  | .cmpeq _ => true
  | .cmpne _ => true
  | .cmplt _ => true
  | .cmple _ => true
  | .cmpltu _ => true
  | .cmpleu _ => true
  | .cmpi _ => true
  | .pand _ => true
  | .por _ => true
  | .pxor _ => true
  | .pnot _ => true
  | .pmov _ => true
  | .fadd _ => true
  | .fsub _ => true
  | .fmul _ => true
  | .fma _ => true
  | .fdiv _ => true
  | .fsqrt _ => true
  | .fcvt _ => true
  | .fcmp _ => true
  | .fmin _ => true
  | .fmax _ => true
  | .ld _ => true
  | .lds _ => true
  | .st _ => true
  | .ldl _ => true
  | .invl _ => true
  | .fll1 _ => true
  | .aadd _ => true
  | .axchg _ => true
  | .acas _ => true
  | .amin _ => true
  | .amax _ => true
  | .aand _ => true
  | .aor _ => true
  | .afadd _ => true
  | .scalarGetm _ => true
  | .scalarPutm _ => true
  | .scalarXfer x => x.wf
  | .mfs _ => true
  | .mts x => x.wf
  | .tlbinvPage _ => true
  | .tlbinvRange _ => true
  | .tlbinvAll _ => true
  | .tlbsync _ => true
  | .ctxsave _ => true
  | .ctxload _ => true
  | .ctxkill _ => true
  | .partsetCreate _ => true
  | .partsetUpdate _ => true
  | .partsetStop _ => true
  | .partsetDestroy _ => true
  | .wayset _ => true
  | .zeroMem _ => true
  | .zeroBanks _ => true
  | .zeroCarr _ => true
  | .zeroL2 _ => true
  | .lease _ => true
  | .unlease _ => true
  | .score _ => true
  | .scoreAdd _ => true
  | .retire _ => true
  | .retireForce _ => true
  | .fenceq _ => true
  | .appeal _ => true
  | .appealBar _ => true
  | .meter _ => true
  | .signqUsage _ => true
  | .signqRetired _ => true
  | .signqQuote _ => true
  | .powqPkg _ => true
  | .powqCore _ => true
  | .powqGrant _ => true
  | .injOff _ => true
  | .injOn _ => true
  | .injPoison _ => true
  | .vectorNop _ => true
  | .vadd _ x => x.wf
  | .vsub _ x => x.wf
  | .vmul _ x => x.wf
  | .vfma _ x => x.wf
  | .vfms _ x => x.wf
  | .vmin _ x => x.wf
  | .vmax _ x => x.wf
  | .vabs _ x => x.wf && x.t != .u32
  | .vneg _ x => x.wf && x.t != .u32
  | .vrcp _ _ => true
  | .vrsq _ _ => true
  | .vexp2 _ _ => true
  | .vlog2 _ _ => true
  | .vdiv _ x => x.wf
  | .vcmpeq _ _ => true
  | .vcmpne _ _ => true
  | .vcmplt _ _ => true
  | .vcmple _ _ => true
  | .vsel _ _ => true
  | .vand _ _ => true
  | .vor _ _ => true
  | .vxor _ _ => true
  | .vandn _ _ => true
  | .vshl _ _ => true
  | .vshr _ _ => true
  | .vsar _ _ => true
  | .vbfx _ _ => true
  | .vbfi _ _ => true
  | .vfsh _ _ => true
  | .vpopc _ _ => true
  | .vclz _ _ => true
  | .vcvt _ x => x.wf
  | .vpack _ x => x.wf
  | .vunpack _ x => packPart x.c x.q
  | .vperm _ _ => true
  | .vbcast _ _ => true
  | .vslide _ _ => true
  | .viota _ _ => true
  | .viotaRand _ _ => true
  | .vredadd _ x => x.wf
  | .vredmax _ x => x.wf
  | .vscan _ x => x.wf
  | .vld _ _ => true
  | .vst _ _ => true
  | .vlds _ _ => true
  | .vsts _ _ => true
  | .vgath _ _ => true
  | .vscat _ _ => true
  | .vtbl _ _ => true
  | .vaadd _ x => x.t != .f32
  | .vafadd _ _ => true
  | .vectorGetm _ _ => true
  | .vectorPutm _ _ => true
  | .vectorXfer u x => x.wf u
  | .vmovs _ _ => true
  | .vpmovToPredicate _ _ => true
  | .vpmovFromPredicate _ _ => true
  | .vefclr _ _ => true
  | .vefget _ _ => true
  | .vefput _ _ => true
  | .vfmtset _ _ => true
  | .xclr _ => true
  | .xseto _ => true
  | .xform _ => true
  | .xm2m _ => true
  | .xm2l _ => true
  | .xl2l _ => true
  | .xeval _ => true
  | .xadm _ => true
  | .xadd _ => true
  | .xld _ => true
  | .xst _ => true
  | .xnorm _ => true
  | .xget _ => true
  | .matrixNop => true
  | .mdset _ => true
  | .mdget _ => true
  | .mldt x => tileCode x.c x.f x.n
  | .mstz _ => true
  | .mstzTag _ => true
  | .mma x => x.wf
  | .mmaz x => x.wf
  | .mnest _ => true
  | .mnestz _ => true
  | .mzero _ => true
  | .mtr x => x.wf
  | .mrdz _ => true
  | .mwm _ => true
  | .mchk x => x.wf
  | .mchkz x => x.wf
  | .mres _ => true
  | .mfix _ => true
  | .mmir _ => true
  | .minj _ => true
  | .mtag _ => true
  | .mcvt x => tileCode x.c x.f x.d
  | .mbias _ => true
  | .mactRelu _ => true
  | .mactAbs _ => true
  | .mactScale _ => true
  | .mpitch _ => true
  | .matrixGetm _ => true
  | .matrixPutm _ => true
  | .matrixXfer x => x.wf
  | .copyNop _ => true
  | .cdsetImmediate _ _ => true
  | .cdsetRegister _ _ => true
  | .cdget _ _ => true
  | .cpy _ _ => true
  | .cpyb _ _ => true
  | .cpyt _ x => tileCode x.c x.f x.n
  | .cgath _ _ => true
  | .cscat _ _ => true
  | .czero _ _ => true
  | .cfill _ _ => true
  | .cred _ _ => true
  | .cbcast _ _ => true
  | .callred _ _ => true
  | .cdigest _ _ => true
  | .cpull _ _ => true
  | .cpost _ _ => true
  | .chostTo _ _ => true
  | .chostFrom _ _ => true
  | .ccarrTo _ _ => true
  | .ccarrFrom _ _ => true
  | .ctlr _ _ => true
  | .cwait _ _ => true
  | .cfence _ _ => true
  | .cfenceA _ _ => true
  | .ccvt _ _ => true
  | .cpref _ _ => true
  | .cswp _ _ => true
  | .copyGetm _ _ => true
  | .copyPutm _ _ => true
  | .copyXfer _ x => x.wf
  | .bundleCommit _ => true
  | .asynchronousTrap _ => true
  | .fairnessYield _ => true
  | .watchdogExpiry _ => true
  | .sleepEnd _ => true
  | .exposedResultLand _ _ => true
  | .memoryAccessPerform _ _ _ => true
  | .migpullRepost _ _ => true
  | .migrationHoldTimeout _ _ => true
  | .messageDelivery _ => true
  | .remotePostApply _ => true
  | .fencedNack _ => true
  | .ridgeArrival _ => true
  | .ridgeRelease _ => true
  | .endComplete _ => true
  | .nodeEnd _ => true
  | .contextKill _ => true
  | .restoreGateRelease _ => true
  | .commandStart _ _ => true
  | .ktileIntake _ _ _ => true
  | .accumulatorRowFinal _ _ => true
  | .commandPerform _ _ => true
  | .copyBatchLand _ _ _ => true
  | .copyTimeout _ _ => true
  | .detContributionAccept _ _ => true
  | .collectiveExchange _ _ _ => true
  | .sourceFenced _ _ => true
  | .segmentRollback _ => true
  | .budgetOverrun _ => true
  | .partitionPeriodStart _ => true
  | .epilogueStop _ => true
  | .drainBoundExpiry _ => true
  | .coreGovernorWindowEnd _ => true
  | .plainGovernorWindowEnd _ _ => true
  | .energyWindowEnd _ => true
  | .usageRecordEmit _ => true
  | .ctxsaveDone _ => true
  | .ctxloadDone _ => true
  | .partitionCreateDone _ => true
  | .partitionStopDone _ => true
  | .partitionDestroyDone _ => true
  | .zeroDone _ => true
  | .retirementRecord _ => true
  | .signedRecordDone _ => true
  | .heartbeatSend _ => true
  | .heartbeatReceive _ _ _ => true
  | .heartbeatPeriodEnd _ => true
  | .flitWindowEnd _ _ _ => true
  | .accusationReceive _ _ _ => true
  | .withdrawalReceive _ _ _ => true
  | .fenceNoticeReceive _ _ => true
  | .readmissionReceive _ _ => true
  | .bistResult _ _ => true
  | .leasePlacement _ => true
  | .leaseWithdrawal _ => true
  | .patternEnd _ _ _ => true
  | .scoreHalving => true
  | .powerOnReset => true
  | .selfTest _ _ _ _ => true
  | .powerToken _ => true
  | .tokenLeaseExpiry => true
  | .hbmThermalMeasurement _ _ => true
  | .dieThermalMeasurement _ _ => true
  | .hostWrite _ _ _ => true
  | .hostRead _ _ _ => true
  | .winbase _ _ _ => true
  | .status _ _ => true
  | .spdmRequest _ _ => true
  | .tdispRequest _ _ => true
  | .flitReceive _ _ => true
  | .nakReceive _ _ => true
  | .unreachableNack _ _ => true
  | .instructionFetch _ _ => true
  | .longSeriesOperationLand _ _ => true
  | .tlbinvRemovalEnd _ => true
  | .linkTraining _ _ => true

/-- The guard of a slot's instruction (R96); the no-ops and the events have none. -/
def Instr.guard (i : Instr) : Option Guard :=
  match i with
  | .nopF => none
  | .prep x => some x.g
  | .prepm x => some x.g
  | .bt x => some x.g
  | .j x => some x.g
  | .call x => some x.g
  | .ret x => some x.g
  | .loop x => some x.g
  | .setlc x => some x.g
  | .spl x => some x.g
  | .wait x => some x.g
  | .post x => some x.g
  | .postr x => some x.g
  | .tlw x => some x.g
  | .bbset x => some x.g
  | .bbwait x => some x.g
  | .ridge x => some x.g
  | .seg x => some x.g
  | .rdv x => some x.g
  | .trap x => some x.g
  | .rtt x => some x.g
  | .endF x => some x.g
  | .yield x => some x.g
  | .drain x => some x.g
  | .drainE x => some x.g
  | .clkdiv x => some x.g
  | .launch x => some x.g
  | .send x => some x.g
  | .getmF x => some x.g
  | .epi x => some x.g
  | .wdog x => some x.g
  | .hbeat x => some x.g
  | .capq x => some x.g
  | .pitchq x => some x.g
  | .sleep x => some x.g
  | .brk x => some x.g
  | .scalarNop => none
  | .add x => some x.g
  | .sub x => some x.g
  | .addi x => some x.g
  | .movi x => some x.g
  | .movhi x => some x.g
  | .mul x => some x.g
  | .mulh x => some x.g
  | .mulhu x => some x.g
  | .div x => some x.g
  | .divu x => some x.g
  | .rem x => some x.g
  | .remu x => some x.g
  | .and x => some x.g
  | .or x => some x.g
  | .xor x => some x.g
  | .andn x => some x.g
  | .not x => some x.g
  | .shl x => some x.g
  | .shr x => some x.g
  | .sar x => some x.g
  | .rot x => some x.g
  | .fsh x => some x.g
  | .bfx x => some x.g
  | .bfxs x => some x.g
  | .bfi x => some x.g
  | .clz x => some x.g
  | .ctz x => some x.g
  | .popc x => some x.g
  | .min x => some x.g
  | .max x => some x.g
  | .minu x => some x.g
  | .maxu x => some x.g
  | .sel x => some x.g
  | .cmpeq x => some x.g
  | .cmpne x => some x.g
  | .cmplt x => some x.g
  | .cmple x => some x.g
  | .cmpltu x => some x.g
  | .cmpleu x => some x.g
  | .cmpi x => some x.g
  | .pand x => some x.g
  | .por x => some x.g
  | .pxor x => some x.g
  | .pnot x => some x.g
  | .pmov x => some x.g
  | .fadd x => some x.g
  | .fsub x => some x.g
  | .fmul x => some x.g
  | .fma x => some x.g
  | .fdiv x => some x.g
  | .fsqrt x => some x.g
  | .fcvt x => some x.g
  | .fcmp x => some x.g
  | .fmin x => some x.g
  | .fmax x => some x.g
  | .ld x => some x.g
  | .lds x => some x.g
  | .st x => some x.g
  | .ldl x => some x.g
  | .invl x => some x.g
  | .fll1 x => some x.g
  | .aadd x => some x.g
  | .axchg x => some x.g
  | .acas x => some x.g
  | .amin x => some x.g
  | .amax x => some x.g
  | .aand x => some x.g
  | .aor x => some x.g
  | .afadd x => some x.g
  | .scalarGetm x => some x.g
  | .scalarPutm x => some x.g
  | .scalarXfer x => some x.g
  | .mfs x => some x.g
  | .mts x => some x.g
  | .tlbinvPage x => some x.g
  | .tlbinvRange x => some x.g
  | .tlbinvAll x => some x.g
  | .tlbsync x => some x.g
  | .ctxsave x => some x.g
  | .ctxload x => some x.g
  | .ctxkill x => some x.g
  | .partsetCreate x => some x.g
  | .partsetUpdate x => some x.g
  | .partsetStop x => some x.g
  | .partsetDestroy x => some x.g
  | .wayset x => some x.g
  | .zeroMem x => some x.g
  | .zeroBanks x => some x.g
  | .zeroCarr x => some x.g
  | .zeroL2 x => some x.g
  | .lease x => some x.g
  | .unlease x => some x.g
  | .score x => some x.g
  | .scoreAdd x => some x.g
  | .retire x => some x.g
  | .retireForce x => some x.g
  | .fenceq x => some x.g
  | .appeal x => some x.g
  | .appealBar x => some x.g
  | .meter x => some x.g
  | .signqUsage x => some x.g
  | .signqRetired x => some x.g
  | .signqQuote x => some x.g
  | .powqPkg x => some x.g
  | .powqCore x => some x.g
  | .powqGrant x => some x.g
  | .injOff x => some x.g
  | .injOn x => some x.g
  | .injPoison x => some x.g
  | .vectorNop _ => none
  | .vadd _ x => some x.g
  | .vsub _ x => some x.g
  | .vmul _ x => some x.g
  | .vfma _ x => some x.g
  | .vfms _ x => some x.g
  | .vmin _ x => some x.g
  | .vmax _ x => some x.g
  | .vabs _ x => some x.g
  | .vneg _ x => some x.g
  | .vrcp _ x => some x.g
  | .vrsq _ x => some x.g
  | .vexp2 _ x => some x.g
  | .vlog2 _ x => some x.g
  | .vdiv _ x => some x.g
  | .vcmpeq _ x => some x.g
  | .vcmpne _ x => some x.g
  | .vcmplt _ x => some x.g
  | .vcmple _ x => some x.g
  | .vsel _ x => some x.g
  | .vand _ x => some x.g
  | .vor _ x => some x.g
  | .vxor _ x => some x.g
  | .vandn _ x => some x.g
  | .vshl _ x => some x.g
  | .vshr _ x => some x.g
  | .vsar _ x => some x.g
  | .vbfx _ x => some x.g
  | .vbfi _ x => some x.g
  | .vfsh _ x => some x.g
  | .vpopc _ x => some x.g
  | .vclz _ x => some x.g
  | .vcvt _ x => some x.g
  | .vpack _ x => some x.g
  | .vunpack _ x => some x.g
  | .vperm _ x => some x.g
  | .vbcast _ x => some x.g
  | .vslide _ x => some x.g
  | .viota _ x => some x.g
  | .viotaRand _ x => some x.g
  | .vredadd _ x => some x.g
  | .vredmax _ x => some x.g
  | .vscan _ x => some x.g
  | .vld _ x => some x.g
  | .vst _ x => some x.g
  | .vlds _ x => some x.g
  | .vsts _ x => some x.g
  | .vgath _ x => some x.g
  | .vscat _ x => some x.g
  | .vtbl _ x => some x.g
  | .vaadd _ x => some x.g
  | .vafadd _ x => some x.g
  | .vectorGetm _ x => some x.g
  | .vectorPutm _ x => some x.g
  | .vectorXfer _ x => some x.g
  | .vmovs _ x => some x.g
  | .vpmovToPredicate _ x => some x.g
  | .vpmovFromPredicate _ x => some x.g
  | .vefclr _ x => some x.g
  | .vefget _ x => some x.g
  | .vefput _ x => some x.g
  | .vfmtset _ x => some x.g
  | .xclr x => some x.g
  | .xseto x => some x.g
  | .xform x => some x.g
  | .xm2m x => some x.g
  | .xm2l x => some x.g
  | .xl2l x => some x.g
  | .xeval x => some x.g
  | .xadm x => some x.g
  | .xadd x => some x.g
  | .xld x => some x.g
  | .xst x => some x.g
  | .xnorm x => some x.g
  | .xget x => some x.g
  | .matrixNop => none
  | .mdset x => some x.g
  | .mdget x => some x.g
  | .mldt x => some x.g
  | .mstz x => some x.g
  | .mstzTag x => some x.g
  | .mma x => some x.g
  | .mmaz x => some x.g
  | .mnest x => some x.g
  | .mnestz x => some x.g
  | .mzero x => some x.g
  | .mtr x => some x.g
  | .mrdz x => some x.g
  | .mwm x => some x.g
  | .mchk x => some x.g
  | .mchkz x => some x.g
  | .mres x => some x.g
  | .mfix x => some x.g
  | .mmir x => some x.g
  | .minj x => some x.g
  | .mtag x => some x.g
  | .mcvt x => some x.g
  | .mbias x => some x.g
  | .mactRelu x => some x.g
  | .mactAbs x => some x.g
  | .mactScale x => some x.g
  | .mpitch x => some x.g
  | .matrixGetm x => some x.g
  | .matrixPutm x => some x.g
  | .matrixXfer x => some x.g
  | .copyNop _ => none
  | .cdsetImmediate _ x => some x.g
  | .cdsetRegister _ x => some x.g
  | .cdget _ x => some x.g
  | .cpy _ x => some x.g
  | .cpyb _ x => some x.g
  | .cpyt _ x => some x.g
  | .cgath _ x => some x.g
  | .cscat _ x => some x.g
  | .czero _ x => some x.g
  | .cfill _ x => some x.g
  | .cred _ x => some x.g
  | .cbcast _ x => some x.g
  | .callred _ x => some x.g
  | .cdigest _ x => some x.g
  | .cpull _ x => some x.g
  | .cpost _ x => some x.g
  | .chostTo _ x => some x.g
  | .chostFrom _ x => some x.g
  | .ccarrTo _ x => some x.g
  | .ccarrFrom _ x => some x.g
  | .ctlr _ x => some x.g
  | .cwait _ x => some x.g
  | .cfence _ x => some x.g
  | .cfenceA _ x => some x.g
  | .ccvt _ x => some x.g
  | .cpref _ x => some x.g
  | .cswp _ x => some x.g
  | .copyGetm _ x => some x.g
  | .copyPutm _ x => some x.g
  | .copyXfer _ x => some x.g
  | .bundleCommit _ => none
  | .asynchronousTrap _ => none
  | .fairnessYield _ => none
  | .watchdogExpiry _ => none
  | .sleepEnd _ => none
  | .exposedResultLand _ _ => none
  | .memoryAccessPerform _ _ _ => none
  | .migpullRepost _ _ => none
  | .migrationHoldTimeout _ _ => none
  | .messageDelivery _ => none
  | .remotePostApply _ => none
  | .fencedNack _ => none
  | .ridgeArrival _ => none
  | .ridgeRelease _ => none
  | .endComplete _ => none
  | .nodeEnd _ => none
  | .contextKill _ => none
  | .restoreGateRelease _ => none
  | .commandStart _ _ => none
  | .ktileIntake _ _ _ => none
  | .accumulatorRowFinal _ _ => none
  | .commandPerform _ _ => none
  | .copyBatchLand _ _ _ => none
  | .copyTimeout _ _ => none
  | .detContributionAccept _ _ => none
  | .collectiveExchange _ _ _ => none
  | .sourceFenced _ _ => none
  | .segmentRollback _ => none
  | .budgetOverrun _ => none
  | .partitionPeriodStart _ => none
  | .epilogueStop _ => none
  | .drainBoundExpiry _ => none
  | .coreGovernorWindowEnd _ => none
  | .plainGovernorWindowEnd _ _ => none
  | .energyWindowEnd _ => none
  | .usageRecordEmit _ => none
  | .ctxsaveDone _ => none
  | .ctxloadDone _ => none
  | .partitionCreateDone _ => none
  | .partitionStopDone _ => none
  | .partitionDestroyDone _ => none
  | .zeroDone _ => none
  | .retirementRecord _ => none
  | .signedRecordDone _ => none
  | .heartbeatSend _ => none
  | .heartbeatReceive _ _ _ => none
  | .heartbeatPeriodEnd _ => none
  | .flitWindowEnd _ _ _ => none
  | .accusationReceive _ _ _ => none
  | .withdrawalReceive _ _ _ => none
  | .fenceNoticeReceive _ _ => none
  | .readmissionReceive _ _ => none
  | .bistResult _ _ => none
  | .leasePlacement _ => none
  | .leaseWithdrawal _ => none
  | .patternEnd _ _ _ => none
  | .scoreHalving => none
  | .powerOnReset => none
  | .selfTest _ _ _ _ => none
  | .powerToken _ => none
  | .tokenLeaseExpiry => none
  | .hbmThermalMeasurement _ _ => none
  | .dieThermalMeasurement _ _ => none
  | .hostWrite _ _ _ => none
  | .hostRead _ _ _ => none
  | .winbase _ _ _ => none
  | .status _ _ => none
  | .spdmRequest _ _ => none
  | .tdispRequest _ _ => none
  | .flitReceive _ _ => none
  | .nakReceive _ _ => none
  | .unreachableNack _ _ => none
  | .instructionFetch _ _ => none
  | .longSeriesOperationLand _ _ => none
  | .tlbinvRemovalEnd _ => none
  | .linkTraining _ _ => none

end Sys2Proof
end

