-- ==== Sys2Proof/Decode.lean ====
section
/-!
DEFINITION. Decode.lean: slot words to instructions and back. A slot's word is read by its opcode and layout
(R91-R104, R108); whatever is not a legal word of its slot is rejected by name (R105, Table 6-12). The encoder is
written from the same layouts. The section is noncomputable for one reason: compiled Lean code cannot build a
constructor numbered above 244 that has fields, and `Instr` has 358; the kernel evaluates all of it.
-/
namespace Sys2Proof
noncomputable section

/-- A value of a field naming one of `n` registers or codes. -/
def decFin (n v : Nat) : Option (Fin n) := if h : v < n then some ⟨v, h⟩ else none

def decBool (v : Nat) : Option Bool := some (v == 1)
def encBool (b : Bool) : Nat := if b then 1 else 0

def Guard.dec (v : Nat) : Option Guard := (decFin 8 (v % 8)).map fun p => ⟨v / 8 == 1, p⟩
def Guard.enc (g : Guard) : Nat := encBool g.neg * 8 + g.p.val

/-- Table 6-5, the source column. -/
def Src.dec (v : Nat) : Option Src :=
  if v < 16 then (decFin 16 v).map .r
  else if v < 20 then (decFin 4 (v - 16)).map .n
  else if v < 24 then (decFin 4 (v - 20)).map .q
  else if v = 24 then some .lit
  else if v = 25 then some .zero
  else none
def Src.enc : Src → Nat
  | .r i => i.val
  | .n i => 16 + i.val
  | .q i => 20 + i.val
  | .lit => 24
  | .zero => 25

/-- Table 6-5, the destination column. -/
def Dst.dec (v : Nat) : Option Dst :=
  if v < 16 then (decFin 16 v).map .r
  else if v < 20 then (decFin 4 (v - 16)).map .n
  else if v = 25 then some .void
  else none
def Dst.enc : Dst → Nat
  | .r i => i.val
  | .n i => 16 + i.val
  | .void => 25

def LSrc.dec (v : Nat) : Option LSrc :=
  if v < 20 then none
  else if v < 24 then (decFin 4 (v - 20)).map .q
  else if v = 24 then some .lit
  else if v = 25 then some .zero
  else none
def LSrc.enc : LSrc → Nat
  | .q i => 20 + i.val
  | .lit => 24
  | .zero => 25

def MOp.dec (v : Nat) : Option MOp :=
  if v < 8 then (decFin 8 v).map .t
  else if v < 12 then (decFin 4 (v - 8)).map .pair
  else if v = 25 then some .zero
  else none
def MOp.enc : MOp → Nat
  | .t i => i.val
  | .pair i => 8 + i.val
  | .zero => 25

def Pair.dec (v : Nat) : Option (Fin 4) := if 8 ≤ v then decFin 4 (v - 8) else none
def Pair.enc (i : Fin 4) : Nat := 8 + i.val

/-- The count layout (R109): bit 17 L, bits 16:14 zero, bits 13:0 IMM, which is 0 when L = 1. -/
def Count.dec (v : Nat) : Option Count :=
  if v < 16384 then some (.imm (BitVec.ofNat 14 v)) else if v = 131072 then some .lit else none
def Count.enc : Count → Nat
  | .imm v => v.toNat
  | .lit => 131072

/-- The count layout of POSTR, whose bits 16:14 hold TGT. -/
def CountR.dec (v : Nat) : Option Count := Count.dec (v / 131072 * 131072 + v % 16384)
def CountR.enc (c : Count) : Nat := c.enc

def TlwVal.dec (v : Nat) : Option TlwVal :=
  if v < 65536 then some (.imm (BitVec.ofNat 16 v))
  else if 262144 ≤ v ∧ v < 327680 then some (.lit (BitVec.ofNat 16 v))
  else none
def TlwVal.enc : TlwVal → Nat
  | .imm v => v.toNat
  | .lit v => 262144 + v.toNat

def Rnd.dec (v : Nat) : Option Rnd :=
  match v with
  | 0 => some .rne
  | 1 => some .rz
  | 2 => some .rdn
  | 3 => some .rup
  | _ => none
def Rnd.enc : Rnd → Nat
  | .rne => 0
  | .rz => 1
  | .rdn => 2
  | .rup => 3

def VType.dec (v : Nat) : Option VType :=
  match v with
  | 4 => some .i32
  | 5 => some .u32
  | 10 => some .f32
  | _ => none
def VType.enc : VType → Nat
  | .i32 => 4
  | .u32 => 5
  | .f32 => 10

def FNone.enc (x : FNone) : Nat := x.g.enc * 4194304
def FNone.dec (fx n : Nat) : Option FNone := do
  let g ← Guard.dec (n / 4194304 % 16)
  let x : FNone := ⟨g⟩
  if x.enc + fx = n % 67108864 then some x else none

def FPrep.enc (x : FPrep) : Nat := x.g.enc * 4194304 + x.n.val * 1048576 + x.o.toNat
def FPrep.dec (fx n : Nat) : Option FPrep := do
  let g ← Guard.dec (n / 4194304 % 16)
  let xn ← decFin 4 (n / 1048576 % 4)
  let xo ← some (BitVec.ofNat 20 (n % 1048576))
  let x : FPrep := ⟨g, xn, xo⟩
  if x.enc + fx = n % 67108864 then some x else none

def FPrepM.enc (x : FPrepM) : Nat := x.g.enc * 4194304 + x.n.val * 1048576 + x.j.val
def FPrepM.dec (fx n : Nat) : Option FPrepM := do
  let g ← Guard.dec (n / 4194304 % 16)
  let xn ← decFin 4 (n / 1048576 % 4)
  let xj ← decFin 64 (n % 64)
  let x : FPrepM := ⟨g, xn, xj⟩
  if x.enc + fx = n % 67108864 then some x else none

def FBt.enc (x : FBt) : Nat := x.g.enc * 4194304 + x.s.val * 65536 + x.t1.val * 4096 + x.t2.val * 256 + x.t3.val * 16 + x.t4.val
def FBt.dec (fx n : Nat) : Option FBt := do
  let g ← Guard.dec (n / 4194304 % 16)
  let xs ← decFin 14 (n / 65536 % 16)
  let xt1 ← decFin 16 (n / 4096 % 16)
  let xt2 ← decFin 16 (n / 256 % 16)
  let xt3 ← decFin 16 (n / 16 % 16)
  let xt4 ← decFin 16 (n % 16)
  let x : FBt := ⟨g, xs, xt1, xt2, xt3, xt4⟩
  if x.enc + fx = n % 67108864 then some x else none

def FJump.enc (x : FJump) : Nat := x.g.enc * 4194304 + x.o.toNat
def FJump.dec (fx n : Nat) : Option FJump := do
  let g ← Guard.dec (n / 4194304 % 16)
  let xo ← some (BitVec.ofNat 22 (n % 4194304))
  let x : FJump := ⟨g, xo⟩
  if x.enc + fx = n % 67108864 then some x else none

def FTgt.enc (x : FTgt) : Nat := x.g.enc * 4194304 + x.n.val * 1048576
def FTgt.dec (fx n : Nat) : Option FTgt := do
  let g ← Guard.dec (n / 4194304 % 16)
  let xn ← decFin 4 (n / 1048576 % 4)
  let x : FTgt := ⟨g, xn⟩
  if x.enc + fx = n % 67108864 then some x else none

def FLoop.enc (x : FLoop) : Nat := x.g.enc * 4194304 + x.n.val * 524288 + x.len.val
def FLoop.dec (fx n : Nat) : Option FLoop := do
  let g ← Guard.dec (n / 4194304 % 16)
  let xn ← decFin 6 (n / 524288 % 8)
  let xlen ← decFin 64 (n % 64)
  let x : FLoop := ⟨g, xn, xlen⟩
  if x.enc + fx = n % 67108864 then some x else none

def FCountLc.enc (x : FCountLc) : Nat := x.g.enc * 4194304 + x.n.val * 262144 + x.k.enc
def FCountLc.dec (fx n : Nat) : Option FCountLc := do
  let g ← Guard.dec (n / 4194304 % 16)
  let xn ← decFin 6 (n / 262144 % 16)
  let xk ← Count.dec (n % 262144)
  let x : FCountLc := ⟨g, xn, xk⟩
  if x.enc + fx = n % 67108864 then some x else none

def FCountF.enc (x : FCountF) : Nat := x.g.enc * 4194304 + x.n.val * 262144 + x.k.enc
def FCountF.dec (fx n : Nat) : Option FCountF := do
  let g ← Guard.dec (n / 4194304 % 16)
  let xn ← decFin 16 (n / 262144 % 16)
  let xk ← Count.dec (n % 262144)
  let x : FCountF := ⟨g, xn, xk⟩
  if x.enc + fx = n % 67108864 then some x else none

def FCountBb.enc (x : FCountBb) : Nat := x.g.enc * 4194304 + x.n.val * 262144 + x.k.enc
def FCountBb.dec (fx n : Nat) : Option FCountBb := do
  let g ← Guard.dec (n / 4194304 % 16)
  let xn ← decFin 8 (n / 262144 % 16)
  let xk ← Count.dec (n % 262144)
  let x : FCountBb := ⟨g, xn, xk⟩
  if x.enc + fx = n % 67108864 then some x else none

def FSpl.enc (x : FSpl) : Nat := x.g.enc * 4194304 + x.n.val * 1048576 + x.k.val * 131072
def FSpl.dec (fx n : Nat) : Option FSpl := do
  let g ← Guard.dec (n / 4194304 % 16)
  let xn ← decFin 4 (n / 1048576 % 4)
  let xk ← decFin 6 (n / 131072 % 8)
  let x : FSpl := ⟨g, xn, xk⟩
  if x.enc + fx = n % 67108864 then some x else none

def FPostr.enc (x : FPostr) : Nat := x.g.enc * 4194304 + x.n.val * 262144 + x.t.val * 16384 + CountR.enc x.k
def FPostr.dec (fx n : Nat) : Option FPostr := do
  let g ← Guard.dec (n / 4194304 % 16)
  let xn ← decFin 16 (n / 262144 % 16)
  let xt ← decFin 8 (n / 16384 % 8)
  let xk ← CountR.dec (n % 262144)
  let x : FPostr := ⟨g, xn, xt, xk⟩
  if x.enc + fx = n % 67108864 then some x else none

def FTlw.enc (x : FTlw) : Nat := x.g.enc * 4194304 + x.t.val * 1048576 + encBool x.rel * 524288 + x.v.enc
def FTlw.dec (fx n : Nat) : Option FTlw := do
  let g ← Guard.dec (n / 4194304 % 16)
  let xt ← decFin 3 (n / 1048576 % 4)
  let xrel ← decBool (n / 524288 % 2)
  let xv ← TlwVal.dec (n % 524288)
  let x : FTlw := ⟨g, xt, xrel, xv⟩
  if x.enc + fx = n % 67108864 then some x else none

def FBb.enc (x : FBb) : Nat := x.g.enc * 4194304 + x.n.val * 262144
def FBb.dec (fx n : Nat) : Option FBb := do
  let g ← Guard.dec (n / 4194304 % 16)
  let xn ← decFin 8 (n / 262144 % 16)
  let x : FBb := ⟨g, xn⟩
  if x.enc + fx = n % 67108864 then some x else none

def FSeg.enc (x : FSeg) : Nat := x.g.enc * 4194304 + x.m.toNat
def FSeg.dec (fx n : Nat) : Option FSeg := do
  let g ← Guard.dec (n / 4194304 % 16)
  let xm ← some (BitVec.ofNat 8 (n % 256))
  let x : FSeg := ⟨g, xm⟩
  if x.enc + fx = n % 67108864 then some x else none

def FImm.enc (x : FImm) : Nat := x.g.enc * 4194304 + x.c.toNat
def FImm.dec (fx n : Nat) : Option FImm := do
  let g ← Guard.dec (n / 4194304 % 16)
  let xc ← some (BitVec.ofNat 16 (n % 65536))
  let x : FImm := ⟨g, xc⟩
  if x.enc + fx = n % 67108864 then some x else none

def FScope.enc (x : FScope) : Nat := x.g.enc * 4194304 + x.s.val * 524288
def FScope.dec (fx n : Nat) : Option FScope := do
  let g ← Guard.dec (n / 4194304 % 16)
  let xs ← decFin 6 (n / 524288 % 8)
  let x : FScope := ⟨g, xs⟩
  if x.enc + fx = n % 67108864 then some x else none

def FClk.enc (x : FClk) : Nat := x.g.enc * 4194304 + x.c.val * 524288 + x.d.val
def FClk.dec (fx n : Nat) : Option FClk := do
  let g ← Guard.dec (n / 4194304 % 16)
  let xc ← decFin 5 (n / 524288 % 8)
  let xd ← decFin 16 (n % 16)
  let x : FClk := ⟨g, xc, xd⟩
  if x.enc + fx = n % 67108864 then some x else none

def FFlagM.enc (x : FFlagM) : Nat := x.g.enc * 4194304 + x.n.val * 262144 + x.j.val
def FFlagM.dec (fx n : Nat) : Option FFlagM := do
  let g ← Guard.dec (n / 4194304 % 16)
  let xn ← decFin 16 (n / 262144 % 16)
  let xj ← decFin 64 (n % 64)
  let x : FFlagM := ⟨g, xn, xj⟩
  if x.enc + fx = n % 67108864 then some x else none

def FSendS.enc (x : FSendS) : Nat := x.g.enc * 4194304 + x.t.val * 524288 + x.j.val
def FSendS.dec (fx n : Nat) : Option FSendS := do
  let g ← Guard.dec (n / 4194304 % 16)
  let xt ← decFin 8 (n / 524288 % 8)
  let xj ← decFin 64 (n % 64)
  let x : FSendS := ⟨g, xt, xj⟩
  if x.enc + fx = n % 67108864 then some x else none

def FGetm.enc (x : FGetm) : Nat := x.g.enc * 4194304 + x.c.val * 524288 + x.n.val * 32768 + x.j.val
def FGetm.dec (fx n : Nat) : Option FGetm := do
  let g ← Guard.dec (n / 4194304 % 16)
  let xc ← decFin 5 (n / 524288 % 8)
  let xn ← decFin 16 (n / 32768 % 16)
  let xj ← decFin 64 (n % 64)
  let x : FGetm := ⟨g, xc, xn, xj⟩
  if x.enc + fx = n % 67108864 then some x else none

def FEpi.enc (x : FEpi) : Nat := x.g.enc * 4194304 + x.k.val * 524288 + x.n.val * 65536 + x.j.val
def FEpi.dec (fx n : Nat) : Option FEpi := do
  let g ← Guard.dec (n / 4194304 % 16)
  let xk ← decFin 6 (n / 524288 % 8)
  let xn ← decFin 8 (n / 65536 % 8)
  let xj ← decFin 64 (n % 64)
  let x : FEpi := ⟨g, xk, xn, xj⟩
  if x.enc + fx = n % 67108864 then some x else none

def FPred.enc (x : FPred) : Nat := x.g.enc * 4194304 + x.n.val * 524288
def FPred.dec (fx n : Nat) : Option FPred := do
  let g ← Guard.dec (n / 4194304 % 16)
  let xn ← decFin 8 (n / 524288 % 8)
  let x : FPred := ⟨g, xn⟩
  if x.enc + fx = n % 67108864 then some x else none

def FCapq.enc (x : FCapq) : Nat := x.g.enc * 4194304 + x.n.val * 524288 + x.i.toNat
def FCapq.dec (fx n : Nat) : Option FCapq := do
  let g ← Guard.dec (n / 4194304 % 16)
  let xn ← decFin 8 (n / 524288 % 8)
  let xi ← some (BitVec.ofNat 16 (n % 65536))
  let x : FCapq := ⟨g, xn, xi⟩
  if x.enc + fx = n % 67108864 then some x else none

def FPitchq.enc (x : FPitchq) : Nat := x.g.enc * 4194304 + x.n.val * 524288 + x.r.val
def FPitchq.dec (fx n : Nat) : Option FPitchq := do
  let g ← Guard.dec (n / 4194304 % 16)
  let xn ← decFin 8 (n / 524288 % 8)
  let xr ← decFin 4 (n % 4)
  let x : FPitchq := ⟨g, xn, xr⟩
  if x.enc + fx = n % 67108864 then some x else none

def SAlu.enc (x : SAlu) : Nat := x.g.enc * 2097152 + x.d.enc * 65536 + x.a.enc * 2048 + x.b.enc * 64 + encBool x.w
def SAlu.dec (fx n : Nat) : Option SAlu := do
  let g ← Guard.dec (n / 2097152 % 16)
  let xd ← Dst.dec (n / 65536 % 32)
  let xa ← Src.dec (n / 2048 % 32)
  let xb ← Src.dec (n / 64 % 32)
  let xw ← decBool (n % 2)
  let x : SAlu := ⟨g, xd, xa, xb, xw⟩
  if x.enc + fx = n % 33554432 then some x else none

def SUn.enc (x : SUn) : Nat := x.g.enc * 2097152 + x.d.enc * 65536 + x.a.enc * 2048 + encBool x.w
def SUn.dec (fx n : Nat) : Option SUn := do
  let g ← Guard.dec (n / 2097152 % 16)
  let xd ← Dst.dec (n / 65536 % 32)
  let xa ← Src.dec (n / 2048 % 32)
  let xw ← decBool (n % 2)
  let x : SUn := ⟨g, xd, xa, xw⟩
  if x.enc + fx = n % 33554432 then some x else none

def SImm.enc (x : SImm) : Nat := x.g.enc * 2097152 + encBool x.w * 1048576 + x.d.val * 65536 + x.i.toNat
def SImm.dec (fx n : Nat) : Option SImm := do
  let g ← Guard.dec (n / 2097152 % 16)
  let xw ← decBool (n / 1048576 % 2)
  let xd ← decFin 16 (n / 65536 % 16)
  let xi ← some (BitVec.ofNat 16 (n % 65536))
  let x : SImm := ⟨g, xw, xd, xi⟩
  if x.enc + fx = n % 33554432 then some x else none

def SSel.enc (x : SSel) : Nat := x.g.enc * 2097152 + x.d.enc * 65536 + x.a.enc * 2048 + x.b.enc * 64 + x.q.val * 2 + encBool x.w
def SSel.dec (fx n : Nat) : Option SSel := do
  let g ← Guard.dec (n / 2097152 % 16)
  let xd ← Dst.dec (n / 65536 % 32)
  let xa ← Src.dec (n / 2048 % 32)
  let xb ← Src.dec (n / 64 % 32)
  let xq ← decFin 8 (n / 2 % 8)
  let xw ← decBool (n % 2)
  let x : SSel := ⟨g, xd, xa, xb, xq, xw⟩
  if x.enc + fx = n % 33554432 then some x else none

def SCmp.enc (x : SCmp) : Nat := x.g.enc * 2097152 + x.d.val * 65536 + x.a.enc * 2048 + x.b.enc * 64 + encBool x.w
def SCmp.dec (fx n : Nat) : Option SCmp := do
  let g ← Guard.dec (n / 2097152 % 16)
  let xd ← decFin 8 (n / 65536 % 32)
  let xa ← Src.dec (n / 2048 % 32)
  let xb ← Src.dec (n / 64 % 32)
  let xw ← decBool (n % 2)
  let x : SCmp := ⟨g, xd, xa, xb, xw⟩
  if x.enc + fx = n % 33554432 then some x else none

def SCmpi.enc (x : SCmpi) : Nat := x.g.enc * 2097152 + encBool x.w * 1048576 + x.d.val * 131072 + x.a.val * 8192 + x.c.val * 1024 + x.i.toNat
def SCmpi.dec (fx n : Nat) : Option SCmpi := do
  let g ← Guard.dec (n / 2097152 % 16)
  let xw ← decBool (n / 1048576 % 2)
  let xd ← decFin 8 (n / 131072 % 8)
  let xa ← decFin 16 (n / 8192 % 16)
  let xc ← decFin 8 (n / 1024 % 8)
  let xi ← some (BitVec.ofNat 10 (n % 1024))
  let x : SCmpi := ⟨g, xw, xd, xa, xc, xi⟩
  if x.enc + fx = n % 33554432 then some x else none

def SPred3.enc (x : SPred3) : Nat := x.g.enc * 2097152 + x.d.val * 65536 + x.a.val * 2048 + x.b.val * 64
def SPred3.dec (fx n : Nat) : Option SPred3 := do
  let g ← Guard.dec (n / 2097152 % 16)
  let xd ← decFin 8 (n / 65536 % 32)
  let xa ← decFin 8 (n / 2048 % 32)
  let xb ← decFin 8 (n / 64 % 32)
  let x : SPred3 := ⟨g, xd, xa, xb⟩
  if x.enc + fx = n % 33554432 then some x else none

def SPred2.enc (x : SPred2) : Nat := x.g.enc * 2097152 + x.d.val * 65536 + x.a.val * 2048
def SPred2.dec (fx n : Nat) : Option SPred2 := do
  let g ← Guard.dec (n / 2097152 % 16)
  let xd ← decFin 8 (n / 65536 % 32)
  let xa ← decFin 8 (n / 2048 % 32)
  let x : SPred2 := ⟨g, xd, xa⟩
  if x.enc + fx = n % 33554432 then some x else none

def SFlt3.enc (x : SFlt3) : Nat := x.g.enc * 2097152 + x.d.enc * 65536 + x.a.enc * 2048 + x.b.enc * 64 + x.r.enc * 2 + encBool x.f
def SFlt3.dec (fx n : Nat) : Option SFlt3 := do
  let g ← Guard.dec (n / 2097152 % 16)
  let xd ← Dst.dec (n / 65536 % 32)
  let xa ← Src.dec (n / 2048 % 32)
  let xb ← Src.dec (n / 64 % 32)
  let xr ← Rnd.dec (n / 2 % 8)
  let xf ← decBool (n % 2)
  let x : SFlt3 := ⟨g, xd, xa, xb, xr, xf⟩
  if x.enc + fx = n % 33554432 then some x else none

def SFlt2.enc (x : SFlt2) : Nat := x.g.enc * 2097152 + x.d.enc * 65536 + x.a.enc * 2048 + x.r.enc * 2 + encBool x.f
def SFlt2.dec (fx n : Nat) : Option SFlt2 := do
  let g ← Guard.dec (n / 2097152 % 16)
  let xd ← Dst.dec (n / 65536 % 32)
  let xa ← Src.dec (n / 2048 % 32)
  let xr ← Rnd.dec (n / 2 % 8)
  let xf ← decBool (n % 2)
  let x : SFlt2 := ⟨g, xd, xa, xr, xf⟩
  if x.enc + fx = n % 33554432 then some x else none

def SFcvt.enc (x : SFcvt) : Nat := x.g.enc * 2097152 + x.d.enc * 65536 + x.a.enc * 2048 + x.t.val * 64 + x.s.val * 4 + x.r.enc
def SFcvt.dec (fx n : Nat) : Option SFcvt := do
  let g ← Guard.dec (n / 2097152 % 16)
  let xd ← Dst.dec (n / 65536 % 32)
  let xa ← Src.dec (n / 2048 % 32)
  let xt ← decFin 12 (n / 64 % 16)
  let xs ← decFin 12 (n / 4 % 16)
  let xr ← Rnd.dec (n % 4)
  let x : SFcvt := ⟨g, xd, xa, xt, xs, xr⟩
  if x.enc + fx = n % 33554432 then some x else none

def SFcmp.enc (x : SFcmp) : Nat := x.g.enc * 2097152 + x.d.val * 65536 + x.a.enc * 2048 + x.b.enc * 64 + x.c.val * 2 + encBool x.f
def SFcmp.dec (fx n : Nat) : Option SFcmp := do
  let g ← Guard.dec (n / 2097152 % 16)
  let xd ← decFin 8 (n / 65536 % 32)
  let xa ← Src.dec (n / 2048 % 32)
  let xb ← Src.dec (n / 64 % 32)
  let xc ← decFin 5 (n / 2 % 8)
  let xf ← decBool (n % 2)
  let x : SFcmp := ⟨g, xd, xa, xb, xc, xf⟩
  if x.enc + fx = n % 33554432 then some x else none

def SFmin.enc (x : SFmin) : Nat := x.g.enc * 2097152 + x.d.enc * 65536 + x.a.enc * 2048 + x.b.enc * 64 + encBool x.f
def SFmin.dec (fx n : Nat) : Option SFmin := do
  let g ← Guard.dec (n / 2097152 % 16)
  let xd ← Dst.dec (n / 65536 % 32)
  let xa ← Src.dec (n / 2048 % 32)
  let xb ← Src.dec (n / 64 % 32)
  let xf ← decBool (n % 2)
  let x : SFmin := ⟨g, xd, xa, xb, xf⟩
  if x.enc + fx = n % 33554432 then some x else none

def SMem.enc (x : SMem) : Nat := x.g.enc * 2097152 + x.d.enc * 65536 + x.a.enc * 2048 + x.b.enc * 64 + x.z.val
def SMem.dec (fx n : Nat) : Option SMem := do
  let g ← Guard.dec (n / 2097152 % 16)
  let xd ← Dst.dec (n / 65536 % 32)
  let xa ← Src.dec (n / 2048 % 32)
  let xb ← Src.dec (n / 64 % 32)
  let xz ← decFin 4 (n % 4)
  let x : SMem := ⟨g, xd, xa, xb, xz⟩
  if x.enc + fx = n % 33554432 then some x else none

def SInv.enc (x : SInv) : Nat := x.g.enc * 2097152 + x.a.enc * 2048 + x.b.enc * 64
def SInv.dec (fx n : Nat) : Option SInv := do
  let g ← Guard.dec (n / 2097152 % 16)
  let xa ← Src.dec (n / 2048 % 32)
  let xb ← Src.dec (n / 64 % 32)
  let x : SInv := ⟨g, xa, xb⟩
  if x.enc + fx = n % 33554432 then some x else none

def SNone.enc (x : SNone) : Nat := x.g.enc * 2097152
def SNone.dec (fx n : Nat) : Option SNone := do
  let g ← Guard.dec (n / 2097152 % 16)
  let x : SNone := ⟨g⟩
  if x.enc + fx = n % 33554432 then some x else none

def SAmin.enc (x : SAmin) : Nat := x.g.enc * 2097152 + x.d.enc * 65536 + x.a.enc * 2048 + x.b.enc * 64 + encBool x.u * 2 + encBool x.w
def SAmin.dec (fx n : Nat) : Option SAmin := do
  let g ← Guard.dec (n / 2097152 % 16)
  let xd ← Dst.dec (n / 65536 % 32)
  let xa ← Src.dec (n / 2048 % 32)
  let xb ← Src.dec (n / 64 % 32)
  let xu ← decBool (n / 2 % 2)
  let xw ← decBool (n % 2)
  let x : SAmin := ⟨g, xd, xa, xb, xu, xw⟩
  if x.enc + fx = n % 33554432 then some x else none

def SGetm.enc (x : SGetm) : Nat := x.g.enc * 2097152 + x.d.enc * 65536 + x.k.val * 64 + x.j.val
def SGetm.dec (fx n : Nat) : Option SGetm := do
  let g ← Guard.dec (n / 2097152 % 16)
  let xd ← Dst.dec (n / 65536 % 32)
  let xk ← decFin 32 (n / 64 % 32)
  let xj ← decFin 64 (n % 64)
  let x : SGetm := ⟨g, xd, xk, xj⟩
  if x.enc + fx = n % 33554432 then some x else none

def SPutm.enc (x : SPutm) : Nat := x.g.enc * 2097152 + x.k.val * 65536 + x.a.enc * 2048 + x.j.val
def SPutm.dec (fx n : Nat) : Option SPutm := do
  let g ← Guard.dec (n / 2097152 % 16)
  let xk ← decFin 32 (n / 65536 % 32)
  let xa ← Src.dec (n / 2048 % 32)
  let xj ← decFin 64 (n % 64)
  let x : SPutm := ⟨g, xk, xa, xj⟩
  if x.enc + fx = n % 33554432 then some x else none

def SXfer.enc (x : SXfer) : Nat := x.g.enc * 2097152 + x.d.val * 65536 + x.a.enc * 2048 + encBool x.l * 16 + x.s.val
def SXfer.dec (fx n : Nat) : Option SXfer := do
  let g ← Guard.dec (n / 2097152 % 16)
  let xd ← decFin 32 (n / 65536 % 32)
  let xa ← Src.dec (n / 2048 % 32)
  let xl ← decBool (n / 16 % 2)
  let xs ← decFin 8 (n % 8)
  let x : SXfer := ⟨g, xd, xa, xl, xs⟩
  if x.enc + fx = n % 33554432 then some x else none

def SMfs.enc (x : SMfs) : Nat := x.g.enc * 2097152 + x.d.enc * 65536 + x.n.val
def SMfs.dec (fx n : Nat) : Option SMfs := do
  let g ← Guard.dec (n / 2097152 % 16)
  let xd ← Dst.dec (n / 65536 % 32)
  let xn ← decFin 40 (n % 64)
  let x : SMfs := ⟨g, xd, xn⟩
  if x.enc + fx = n % 33554432 then some x else none

def SMts.enc (x : SMts) : Nat := x.g.enc * 2097152 + x.a.enc * 2048 + x.n.val
def SMts.dec (fx n : Nat) : Option SMts := do
  let g ← Guard.dec (n / 2097152 % 16)
  let xa ← Src.dec (n / 2048 % 32)
  let xn ← decFin 40 (n % 64)
  let x : SMts := ⟨g, xa, xn⟩
  if x.enc + fx = n % 33554432 then some x else none

def PD.enc (x : PD) : Nat := x.g.enc * 2097152 + x.d.enc * 65536
def PD.dec (fx n : Nat) : Option PD := do
  let g ← Guard.dec (n / 2097152 % 16)
  let xd ← Dst.dec (n / 65536 % 32)
  let x : PD := ⟨g, xd⟩
  if x.enc + fx = n % 33554432 then some x else none

def PDA.enc (x : PDA) : Nat := x.g.enc * 2097152 + x.d.enc * 65536 + x.a.enc * 2048
def PDA.dec (fx n : Nat) : Option PDA := do
  let g ← Guard.dec (n / 2097152 % 16)
  let xd ← Dst.dec (n / 65536 % 32)
  let xa ← Src.dec (n / 2048 % 32)
  let x : PDA := ⟨g, xd, xa⟩
  if x.enc + fx = n % 33554432 then some x else none

def PDAB.enc (x : PDAB) : Nat := x.g.enc * 2097152 + x.d.enc * 65536 + x.a.enc * 2048 + x.b.enc * 64
def PDAB.dec (fx n : Nat) : Option PDAB := do
  let g ← Guard.dec (n / 2097152 % 16)
  let xd ← Dst.dec (n / 65536 % 32)
  let xa ← Src.dec (n / 2048 % 32)
  let xb ← Src.dec (n / 64 % 32)
  let x : PDAB := ⟨g, xd, xa, xb⟩
  if x.enc + fx = n % 33554432 then some x else none

def PDAn.enc (x : PDAn) : Nat := x.g.enc * 2097152 + x.d.enc * 65536 + x.a.enc * 2048 + x.n.val
def PDAn.dec (fx n : Nat) : Option PDAn := do
  let g ← Guard.dec (n / 2097152 % 16)
  let xd ← Dst.dec (n / 65536 % 32)
  let xa ← Src.dec (n / 2048 % 32)
  let xn ← decFin 16 (n % 16)
  let x : PDAn := ⟨g, xd, xa, xn⟩
  if x.enc + fx = n % 33554432 then some x else none

def PDABn.enc (x : PDABn) : Nat := x.g.enc * 2097152 + x.d.enc * 65536 + x.a.enc * 2048 + x.b.enc * 64 + x.n.val
def PDABn.dec (fx n : Nat) : Option PDABn := do
  let g ← Guard.dec (n / 2097152 % 16)
  let xd ← Dst.dec (n / 65536 % 32)
  let xa ← Src.dec (n / 2048 % 32)
  let xb ← Src.dec (n / 64 % 32)
  let xn ← decFin 16 (n % 16)
  let x : PDABn := ⟨g, xd, xa, xb, xn⟩
  if x.enc + fx = n % 33554432 then some x else none

def VTyp3.enc (x : VTyp3) : Nat := x.g.enc * 2097152 + x.d.enc * 65536 + x.a.enc * 2048 + x.b.enc * 64 + x.t.enc * 4 + x.r.enc
def VTyp3.dec (fx n : Nat) : Option VTyp3 := do
  let g ← Guard.dec (n / 2097152 % 16)
  let xd ← Dst.dec (n / 65536 % 32)
  let xa ← Src.dec (n / 2048 % 32)
  let xb ← Src.dec (n / 64 % 32)
  let xt ← VType.dec (n / 4 % 16)
  let xr ← Rnd.dec (n % 4)
  let x : VTyp3 := ⟨g, xd, xa, xb, xt, xr⟩
  if x.enc + fx = n % 33554432 then some x else none

def VTyp2.enc (x : VTyp2) : Nat := x.g.enc * 2097152 + x.d.enc * 65536 + x.a.enc * 2048 + x.t.enc * 4 + x.r.enc
def VTyp2.dec (fx n : Nat) : Option VTyp2 := do
  let g ← Guard.dec (n / 2097152 % 16)
  let xd ← Dst.dec (n / 65536 % 32)
  let xa ← Src.dec (n / 2048 % 32)
  let xt ← VType.dec (n / 4 % 16)
  let xr ← Rnd.dec (n % 4)
  let x : VTyp2 := ⟨g, xd, xa, xt, xr⟩
  if x.enc + fx = n % 33554432 then some x else none

def VFun.enc (x : VFun) : Nat := x.g.enc * 2097152 + x.d.enc * 65536 + x.a.enc * 2048 + x.r.enc
def VFun.dec (fx n : Nat) : Option VFun := do
  let g ← Guard.dec (n / 2097152 % 16)
  let xd ← Dst.dec (n / 65536 % 32)
  let xa ← Src.dec (n / 2048 % 32)
  let xr ← Rnd.dec (n % 4)
  let x : VFun := ⟨g, xd, xa, xr⟩
  if x.enc + fx = n % 33554432 then some x else none

def VCmp.enc (x : VCmp) : Nat := x.g.enc * 2097152 + x.d.val * 65536 + x.a.enc * 2048 + x.b.enc * 64 + x.t.enc * 4
def VCmp.dec (fx n : Nat) : Option VCmp := do
  let g ← Guard.dec (n / 2097152 % 16)
  let xd ← decFin 8 (n / 65536 % 32)
  let xa ← Src.dec (n / 2048 % 32)
  let xb ← Src.dec (n / 64 % 32)
  let xt ← VType.dec (n / 4 % 16)
  let x : VCmp := ⟨g, xd, xa, xb, xt⟩
  if x.enc + fx = n % 33554432 then some x else none

def VSel.enc (x : VSel) : Nat := x.g.enc * 2097152 + x.d.enc * 65536 + x.a.enc * 2048 + x.b.enc * 64 + x.q.val
def VSel.dec (fx n : Nat) : Option VSel := do
  let g ← Guard.dec (n / 2097152 % 16)
  let xd ← Dst.dec (n / 65536 % 32)
  let xa ← Src.dec (n / 2048 % 32)
  let xb ← Src.dec (n / 64 % 32)
  let xq ← decFin 8 (n % 8)
  let x : VSel := ⟨g, xd, xa, xb, xq⟩
  if x.enc + fx = n % 33554432 then some x else none

def VRR.enc (x : VRR) : Nat := x.g.enc * 2097152 + x.d.enc * 65536 + x.a.enc * 2048 + x.b.enc * 64
def VRR.dec (fx n : Nat) : Option VRR := do
  let g ← Guard.dec (n / 2097152 % 16)
  let xd ← Dst.dec (n / 65536 % 32)
  let xa ← Src.dec (n / 2048 % 32)
  let xb ← Src.dec (n / 64 % 32)
  let x : VRR := ⟨g, xd, xa, xb⟩
  if x.enc + fx = n % 33554432 then some x else none

def VR.enc (x : VR) : Nat := x.g.enc * 2097152 + x.d.enc * 65536 + x.a.enc * 2048
def VR.dec (fx n : Nat) : Option VR := do
  let g ← Guard.dec (n / 2097152 % 16)
  let xd ← Dst.dec (n / 65536 % 32)
  let xa ← Src.dec (n / 2048 % 32)
  let x : VR := ⟨g, xd, xa⟩
  if x.enc + fx = n % 33554432 then some x else none

def VBfx.enc (x : VBfx) : Nat := x.g.enc * 2097152 + x.d.enc * 65536 + x.a.enc * 2048 + x.b.enc * 64 + encBool x.s
def VBfx.dec (fx n : Nat) : Option VBfx := do
  let g ← Guard.dec (n / 2097152 % 16)
  let xd ← Dst.dec (n / 65536 % 32)
  let xa ← Src.dec (n / 2048 % 32)
  let xb ← Src.dec (n / 64 % 32)
  let xs ← decBool (n % 2)
  let x : VBfx := ⟨g, xd, xa, xb, xs⟩
  if x.enc + fx = n % 33554432 then some x else none

def VCvt.enc (x : VCvt) : Nat := x.g.enc * 2097152 + x.d.enc * 65536 + x.a.enc * 2048 + encBool x.e * 1024 + x.t.val * 64 + x.s.val * 4 + x.r.enc
def VCvt.dec (fx n : Nat) : Option VCvt := do
  let g ← Guard.dec (n / 2097152 % 16)
  let xd ← Dst.dec (n / 65536 % 32)
  let xa ← Src.dec (n / 2048 % 32)
  let xe ← decBool (n / 1024 % 2)
  let xt ← decFin 11 (n / 64 % 16)
  let xs ← decFin 11 (n / 4 % 16)
  let xr ← Rnd.dec (n % 4)
  let x : VCvt := ⟨g, xd, xa, xe, xt, xs, xr⟩
  if x.enc + fx = n % 33554432 then some x else none

def VPack.enc (x : VPack) : Nat := x.g.enc * 2097152 + x.d.enc * 65536 + x.a.enc * 2048 + encBool x.e * 1024 + x.q.val * 64 + x.c.val * 4 + x.r.enc
def VPack.dec (fx n : Nat) : Option VPack := do
  let g ← Guard.dec (n / 2097152 % 16)
  let xd ← Dst.dec (n / 65536 % 32)
  let xa ← Src.dec (n / 2048 % 32)
  let xe ← decBool (n / 1024 % 2)
  let xq ← decFin 16 (n / 64 % 16)
  let xc ← decFin 16 (n / 4 % 16)
  let xr ← Rnd.dec (n % 4)
  let x : VPack := ⟨g, xd, xa, xe, xq, xc, xr⟩
  if x.enc + fx = n % 33554432 then some x else none

def VUnpack.enc (x : VUnpack) : Nat := x.g.enc * 2097152 + x.d.enc * 65536 + x.a.enc * 2048 + x.q.val * 64 + x.c.val * 4
def VUnpack.dec (fx n : Nat) : Option VUnpack := do
  let g ← Guard.dec (n / 2097152 % 16)
  let xd ← Dst.dec (n / 65536 % 32)
  let xa ← Src.dec (n / 2048 % 32)
  let xq ← decFin 16 (n / 64 % 16)
  let xc ← decFin 16 (n / 4 % 16)
  let x : VUnpack := ⟨g, xd, xa, xq, xc⟩
  if x.enc + fx = n % 33554432 then some x else none

def VBcast.enc (x : VBcast) : Nat := x.g.enc * 2097152 + x.d.enc * 65536 + x.a.enc * 2048 + x.k.val
def VBcast.dec (fx n : Nat) : Option VBcast := do
  let g ← Guard.dec (n / 2097152 % 16)
  let xd ← Dst.dec (n / 65536 % 32)
  let xa ← Src.dec (n / 2048 % 32)
  let xk ← decFin 64 (n % 64)
  let x : VBcast := ⟨g, xd, xa, xk⟩
  if x.enc + fx = n % 33554432 then some x else none

def VSlide.enc (x : VSlide) : Nat := x.g.enc * 2097152 + x.d.enc * 65536 + x.a.enc * 2048 + x.b.enc * 64 + x.n.val
def VSlide.dec (fx n : Nat) : Option VSlide := do
  let g ← Guard.dec (n / 2097152 % 16)
  let xd ← Dst.dec (n / 65536 % 32)
  let xa ← Src.dec (n / 2048 % 32)
  let xb ← Src.dec (n / 64 % 32)
  let xn ← decFin 64 (n % 64)
  let x : VSlide := ⟨g, xd, xa, xb, xn⟩
  if x.enc + fx = n % 33554432 then some x else none

def VD.enc (x : VD) : Nat := x.g.enc * 2097152 + x.d.enc * 65536
def VD.dec (fx n : Nat) : Option VD := do
  let g ← Guard.dec (n / 2097152 % 16)
  let xd ← Dst.dec (n / 65536 % 32)
  let x : VD := ⟨g, xd⟩
  if x.enc + fx = n % 33554432 then some x else none

def VTbl.enc (x : VTbl) : Nat := x.g.enc * 2097152 + x.d.enc * 65536 + x.a.enc * 2048 + x.b.enc * 64 + x.k.val
def VTbl.dec (fx n : Nat) : Option VTbl := do
  let g ← Guard.dec (n / 2097152 % 16)
  let xd ← Dst.dec (n / 65536 % 32)
  let xa ← Src.dec (n / 2048 % 32)
  let xb ← Src.dec (n / 64 % 32)
  let xk ← decFin 21 (n % 32)
  let x : VTbl := ⟨g, xd, xa, xb, xk⟩
  if x.enc + fx = n % 33554432 then some x else none

def VAtom.enc (x : VAtom) : Nat := x.g.enc * 2097152 + x.d.enc * 65536 + x.a.enc * 2048 + x.b.enc * 64 + x.t.enc * 4
def VAtom.dec (fx n : Nat) : Option VAtom := do
  let g ← Guard.dec (n / 2097152 % 16)
  let xd ← Dst.dec (n / 65536 % 32)
  let xa ← Src.dec (n / 2048 % 32)
  let xb ← Src.dec (n / 64 % 32)
  let xt ← VType.dec (n / 4 % 16)
  let x : VAtom := ⟨g, xd, xa, xb, xt⟩
  if x.enc + fx = n % 33554432 then some x else none

def VGetm.enc (x : VGetm) : Nat := x.g.enc * 2097152 + x.d.enc * 65536 + x.j.val
def VGetm.dec (fx n : Nat) : Option VGetm := do
  let g ← Guard.dec (n / 2097152 % 16)
  let xd ← Dst.dec (n / 65536 % 32)
  let xj ← decFin 64 (n % 64)
  let x : VGetm := ⟨g, xd, xj⟩
  if x.enc + fx = n % 33554432 then some x else none

def VPutm.enc (x : VPutm) : Nat := x.g.enc * 2097152 + x.a.enc * 2048 + x.j.val
def VPutm.dec (fx n : Nat) : Option VPutm := do
  let g ← Guard.dec (n / 2097152 % 16)
  let xa ← Src.dec (n / 2048 % 32)
  let xj ← decFin 64 (n % 64)
  let x : VPutm := ⟨g, xa, xj⟩
  if x.enc + fx = n % 33554432 then some x else none

def VXfer.enc (x : VXfer) : Nat := x.g.enc * 2097152 + x.d.val * 65536 + x.a.enc * 2048 + x.s.val
def VXfer.dec (fx n : Nat) : Option VXfer := do
  let g ← Guard.dec (n / 2097152 % 16)
  let xd ← decFin 32 (n / 65536 % 32)
  let xa ← Src.dec (n / 2048 % 32)
  let xs ← decFin 8 (n % 8)
  let x : VXfer := ⟨g, xd, xa, xs⟩
  if x.enc + fx = n % 33554432 then some x else none

def VToP.enc (x : VToP) : Nat := x.g.enc * 2097152 + x.d.val * 65536 + x.a.enc * 2048
def VToP.dec (fx n : Nat) : Option VToP := do
  let g ← Guard.dec (n / 2097152 % 16)
  let xd ← decFin 8 (n / 65536 % 32)
  let xa ← Src.dec (n / 2048 % 32)
  let x : VToP := ⟨g, xd, xa⟩
  if x.enc + fx = n % 33554432 then some x else none

def VFromP.enc (x : VFromP) : Nat := x.g.enc * 2097152 + x.d.enc * 65536 + x.a.val * 2048
def VFromP.dec (fx n : Nat) : Option VFromP := do
  let g ← Guard.dec (n / 2097152 % 16)
  let xd ← Dst.dec (n / 65536 % 32)
  let xa ← decFin 8 (n / 2048 % 32)
  let x : VFromP := ⟨g, xd, xa⟩
  if x.enc + fx = n % 33554432 then some x else none

def VEf.enc (x : VEf) : Nat := x.g.enc * 2097152 + x.n.val
def VEf.dec (fx n : Nat) : Option VEf := do
  let g ← Guard.dec (n / 2097152 % 16)
  let xn ← decFin 4 (n % 4)
  let x : VEf := ⟨g, xn⟩
  if x.enc + fx = n % 33554432 then some x else none

def VEfg.enc (x : VEfg) : Nat := x.g.enc * 2097152 + x.d.enc * 65536 + x.n.val
def VEfg.dec (fx n : Nat) : Option VEfg := do
  let g ← Guard.dec (n / 2097152 % 16)
  let xd ← Dst.dec (n / 65536 % 32)
  let xn ← decFin 4 (n % 4)
  let x : VEfg := ⟨g, xd, xn⟩
  if x.enc + fx = n % 33554432 then some x else none

def VEfp.enc (x : VEfp) : Nat := x.g.enc * 2097152 + x.a.enc * 2048 + x.n.val
def VEfp.dec (fx n : Nat) : Option VEfp := do
  let g ← Guard.dec (n / 2097152 % 16)
  let xa ← Src.dec (n / 2048 % 32)
  let xn ← decFin 4 (n % 4)
  let x : VEfp := ⟨g, xa, xn⟩
  if x.enc + fx = n % 33554432 then some x else none

def VFmt.enc (x : VFmt) : Nat := x.g.enc * 2097152 + x.a.enc * 2048 + x.n.val
def VFmt.dec (fx n : Nat) : Option VFmt := do
  let g ← Guard.dec (n / 2097152 % 16)
  let xa ← Src.dec (n / 2048 % 32)
  let xn ← decFin 8 (n % 8)
  let x : VFmt := ⟨g, xa, xn⟩
  if x.enc + fx = n % 33554432 then some x else none

def XD.enc (x : XD) : Nat := x.g.enc * 2097152 + x.d.val * 65536
def XD.dec (fx n : Nat) : Option XD := do
  let g ← Guard.dec (n / 2097152 % 16)
  let xd ← decFin 16 (n / 65536 % 32)
  let x : XD := ⟨g, xd⟩
  if x.enc + fx = n % 33554432 then some x else none

def XSeto.enc (x : XSeto) : Nat := x.g.enc * 2097152 + x.a.enc * 2048 + x.o.val
def XSeto.dec (fx n : Nat) : Option XSeto := do
  let g ← Guard.dec (n / 2097152 % 16)
  let xa ← Src.dec (n / 2048 % 32)
  let xo ← decFin 16 (n % 16)
  let x : XSeto := ⟨g, xa, xo⟩
  if x.enc + fx = n % 33554432 then some x else none

def XForm.enc (x : XForm) : Nat := x.g.enc * 2097152 + x.d.val * 65536 + x.a.enc * 2048 + x.c.val
def XForm.dec (fx n : Nat) : Option XForm := do
  let g ← Guard.dec (n / 2097152 % 16)
  let xd ← decFin 16 (n / 65536 % 32)
  let xa ← Src.dec (n / 2048 % 32)
  let xc ← decFin 17 (n % 32)
  let x : XForm := ⟨g, xd, xa, xc⟩
  if x.enc + fx = n % 33554432 then some x else none

def XXB.enc (x : XXB) : Nat := x.g.enc * 2097152 + x.d.val * 65536 + x.a.val * 2048 + x.b.enc * 64
def XXB.dec (fx n : Nat) : Option XXB := do
  let g ← Guard.dec (n / 2097152 % 16)
  let xd ← decFin 16 (n / 65536 % 32)
  let xa ← decFin 16 (n / 2048 % 32)
  let xb ← Src.dec (n / 64 % 32)
  let x : XXB := ⟨g, xd, xa, xb⟩
  if x.enc + fx = n % 33554432 then some x else none

def XEval.enc (x : XEval) : Nat := x.g.enc * 2097152 + x.d.enc * 65536 + x.a.val * 2048 + x.b.enc * 64 + x.c.val
def XEval.dec (fx n : Nat) : Option XEval := do
  let g ← Guard.dec (n / 2097152 % 16)
  let xd ← Dst.dec (n / 65536 % 32)
  let xa ← decFin 16 (n / 2048 % 32)
  let xb ← Src.dec (n / 64 % 32)
  let xc ← decFin 17 (n % 32)
  let x : XEval := ⟨g, xd, xa, xb, xc⟩
  if x.enc + fx = n % 33554432 then some x else none

def XAdm.enc (x : XAdm) : Nat := x.g.enc * 2097152 + x.d.val * 65536 + x.a.enc * 2048 + x.b.enc * 64 + x.c.val
def XAdm.dec (fx n : Nat) : Option XAdm := do
  let g ← Guard.dec (n / 2097152 % 16)
  let xd ← decFin 8 (n / 65536 % 32)
  let xa ← Src.dec (n / 2048 % 32)
  let xb ← Src.dec (n / 64 % 32)
  let xc ← decFin 17 (n % 32)
  let x : XAdm := ⟨g, xd, xa, xb, xc⟩
  if x.enc + fx = n % 33554432 then some x else none

def XXX.enc (x : XXX) : Nat := x.g.enc * 2097152 + x.d.val * 65536 + x.a.val * 2048 + x.b.val * 64
def XXX.dec (fx n : Nat) : Option XXX := do
  let g ← Guard.dec (n / 2097152 % 16)
  let xd ← decFin 16 (n / 65536 % 32)
  let xa ← decFin 16 (n / 2048 % 32)
  let xb ← decFin 16 (n / 64 % 32)
  let x : XXX := ⟨g, xd, xa, xb⟩
  if x.enc + fx = n % 33554432 then some x else none

def XMem.enc (x : XMem) : Nat := x.g.enc * 2097152 + x.d.val * 65536 + x.a.enc * 2048 + x.b.enc * 64
def XMem.dec (fx n : Nat) : Option XMem := do
  let g ← Guard.dec (n / 2097152 % 16)
  let xd ← decFin 16 (n / 65536 % 32)
  let xa ← Src.dec (n / 2048 % 32)
  let xb ← Src.dec (n / 64 % 32)
  let x : XMem := ⟨g, xd, xa, xb⟩
  if x.enc + fx = n % 33554432 then some x else none

def XGet.enc (x : XGet) : Nat := x.g.enc * 2097152 + x.d.enc * 65536 + x.a.val * 2048 + x.k.val
def XGet.dec (fx n : Nat) : Option XGet := do
  let g ← Guard.dec (n / 2097152 % 16)
  let xd ← Dst.dec (n / 65536 % 32)
  let xa ← decFin 16 (n / 2048 % 32)
  let xk ← decFin 4 (n % 4)
  let x : XGet := ⟨g, xd, xa, xk⟩
  if x.enc + fx = n % 33554432 then some x else none

def MMdset.enc (x : MMdset) : Nat := x.g.enc * 2097152 + x.n.val * 65536 + x.s.enc * 2048 + x.t.val
def MMdset.dec (fx n : Nat) : Option MMdset := do
  let g ← Guard.dec (n / 2097152 % 16)
  let xn ← decFin 8 (n / 65536 % 32)
  let xs ← LSrc.dec (n / 2048 % 32)
  let xt ← decFin 3 (n % 4)
  let x : MMdset := ⟨g, xn, xs, xt⟩
  if x.enc + fx = n % 33554432 then some x else none

def MMove.enc (x : MMove) : Nat := x.g.enc * 2097152 + x.k.val * 65536 + x.n.val * 2048 + x.j.val
def MMove.dec (fx n : Nat) : Option MMove := do
  let g ← Guard.dec (n / 2097152 % 16)
  let xk ← decFin 32 (n / 65536 % 32)
  let xn ← decFin 8 (n / 2048 % 32)
  let xj ← decFin 64 (n % 64)
  let x : MMove := ⟨g, xk, xn, xj⟩
  if x.enc + fx = n % 33554432 then some x else none

def MLoad.enc (x : MLoad) : Nat := x.g.enc * 2097152 + x.n.val * 65536 + Pair.enc x.q * 2048 + x.f.val * 64 + x.c.val * 4
def MLoad.dec (fx n : Nat) : Option MLoad := do
  let g ← Guard.dec (n / 2097152 % 16)
  let xn ← decFin 8 (n / 65536 % 32)
  let xq ← Pair.dec (n / 2048 % 32)
  let xf ← decFin 8 (n / 64 % 32)
  let xc ← decFin 16 (n / 4 % 16)
  let x : MLoad := ⟨g, xn, xq, xf, xc⟩
  if x.enc + fx = n % 33554432 then some x else none

def MStore.enc (x : MStore) : Nat := x.g.enc * 2097152 + x.k.val * 65536 + Pair.enc x.q * 2048
def MStore.dec (fx n : Nat) : Option MStore := do
  let g ← Guard.dec (n / 2097152 % 16)
  let xk ← decFin 4 (n / 65536 % 4)
  let xq ← Pair.dec (n / 2048 % 32)
  let x : MStore := ⟨g, xk, xq⟩
  if x.enc + fx = n % 33554432 then some x else none

def MMul.enc (x : MMul) : Nat := x.g.enc * 2097152 + x.f.val * 262144 + x.k.val * 65536 + x.a.enc * 2048 + x.b.enc * 64 + x.c.val * 4
def MMul.dec (fx n : Nat) : Option MMul := do
  let g ← Guard.dec (n / 2097152 % 16)
  let xf ← decFin 8 (n / 262144 % 8)
  let xk ← decFin 4 (n / 65536 % 4)
  let xa ← MOp.dec (n / 2048 % 32)
  let xb ← MOp.dec (n / 64 % 32)
  let xc ← decFin 16 (n / 4 % 16)
  let x : MMul := ⟨g, xf, xk, xa, xb, xc⟩
  if x.enc + fx = n % 33554432 then some x else none

def MNest.enc (x : MNest) : Nat := x.g.enc * 2097152 + x.k.val * 65536 + Pair.enc x.a * 2048 + Pair.enc x.b * 64 + x.j.val
def MNest.dec (fx n : Nat) : Option MNest := do
  let g ← Guard.dec (n / 2097152 % 16)
  let xk ← decFin 4 (n / 65536 % 4)
  let xa ← Pair.dec (n / 2048 % 32)
  let xb ← Pair.dec (n / 64 % 32)
  let xj ← decFin 64 (n % 64)
  let x : MNest := ⟨g, xk, xa, xb, xj⟩
  if x.enc + fx = n % 33554432 then some x else none

def MZ.enc (x : MZ) : Nat := x.g.enc * 2097152 + x.k.val * 65536
def MZ.dec (fx n : Nat) : Option MZ := do
  let g ← Guard.dec (n / 2097152 % 16)
  let xk ← decFin 4 (n / 65536 % 4)
  let x : MZ := ⟨g, xk⟩
  if x.enc + fx = n % 33554432 then some x else none

def MTrans.enc (x : MTrans) : Nat := x.g.enc * 2097152 + x.d.val * 65536 + x.a.val * 2048 + x.c.val
def MTrans.dec (fx n : Nat) : Option MTrans := do
  let g ← Guard.dec (n / 2097152 % 16)
  let xd ← decFin 8 (n / 65536 % 32)
  let xa ← decFin 8 (n / 2048 % 32)
  let xc ← decFin 3 (n % 4)
  let x : MTrans := ⟨g, xd, xa, xc⟩
  if x.enc + fx = n % 33554432 then some x else none

def MRead.enc (x : MRead) : Nat := x.g.enc * 2097152 + x.r.val * 32768 + x.k.val * 8192 + x.j.val
def MRead.dec (fx n : Nat) : Option MRead := do
  let g ← Guard.dec (n / 2097152 % 16)
  let xr ← decFin 64 (n / 32768 % 64)
  let xk ← decFin 4 (n / 8192 % 4)
  let xj ← decFin 64 (n % 64)
  let x : MRead := ⟨g, xr, xk, xj⟩
  if x.enc + fx = n % 33554432 then some x else none

def MWm.enc (x : MWm) : Nat := x.g.enc * 2097152 + x.d.val * 262144 + x.k.val * 65536 + x.r.val * 1024
def MWm.dec (fx n : Nat) : Option MWm := do
  let g ← Guard.dec (n / 2097152 % 16)
  let xd ← decFin 8 (n / 262144 % 8)
  let xk ← decFin 4 (n / 65536 % 4)
  let xr ← decFin 64 (n / 1024 % 64)
  let x : MWm := ⟨g, xd, xk, xr⟩
  if x.enc + fx = n % 33554432 then some x else none

def MZM.enc (x : MZM) : Nat := x.g.enc * 2097152 + x.k.val * 65536 + x.j.val
def MZM.dec (fx n : Nat) : Option MZM := do
  let g ← Guard.dec (n / 2097152 % 16)
  let xk ← decFin 4 (n / 65536 % 4)
  let xj ← decFin 64 (n % 64)
  let x : MZM := ⟨g, xk, xj⟩
  if x.enc + fx = n % 33554432 then some x else none

def MMir.enc (x : MMir) : Nat := x.g.enc * 2097152 + x.r.val * 32768 + x.c.val * 512 + encBool x.e
def MMir.dec (fx n : Nat) : Option MMir := do
  let g ← Guard.dec (n / 2097152 % 16)
  let xr ← decFin 64 (n / 32768 % 64)
  let xc ← decFin 64 (n / 512 % 64)
  let xe ← decBool (n % 2)
  let x : MMir := ⟨g, xr, xc, xe⟩
  if x.enc + fx = n % 33554432 then some x else none

def MInj.enc (x : MInj) : Nat := x.g.enc * 2097152 + x.k.val * 524288 + x.i.val * 8192 + x.j.val * 128 + x.t.val * 32 + x.b.val
def MInj.dec (fx n : Nat) : Option MInj := do
  let g ← Guard.dec (n / 2097152 % 16)
  let xk ← decFin 4 (n / 524288 % 4)
  let xi ← decFin 64 (n / 8192 % 64)
  let xj ← decFin 64 (n / 128 % 64)
  let xt ← decFin 3 (n / 32 % 4)
  let xb ← decFin 32 (n % 32)
  let x : MInj := ⟨g, xk, xi, xj, xt, xb⟩
  if x.enc + fx = n % 33554432 then some x else none

def MTag.enc (x : MTag) : Nat := x.g.enc * 2097152 + x.n.val * 65536 + x.k.val * 2048
def MTag.dec (fx n : Nat) : Option MTag := do
  let g ← Guard.dec (n / 2097152 % 16)
  let xn ← decFin 8 (n / 65536 % 32)
  let xk ← decFin 4 (n / 2048 % 32)
  let x : MTag := ⟨g, xn, xk⟩
  if x.enc + fx = n % 33554432 then some x else none

def MCvt.enc (x : MCvt) : Nat := x.g.enc * 2097152 + x.f.val * 262144 + x.k.val * 65536 + x.d.val * 2048 + x.r.enc * 64 + x.c.val * 4
def MCvt.dec (fx n : Nat) : Option MCvt := do
  let g ← Guard.dec (n / 2097152 % 16)
  let xf ← decFin 8 (n / 262144 % 8)
  let xk ← decFin 4 (n / 65536 % 4)
  let xd ← decFin 8 (n / 2048 % 32)
  let xr ← Rnd.dec (n / 64 % 4)
  let xc ← decFin 16 (n / 4 % 16)
  let x : MCvt := ⟨g, xf, xk, xd, xr, xc⟩
  if x.enc + fx = n % 33554432 then some x else none

def MScale.enc (x : MScale) : Nat := x.g.enc * 2097152 + x.k.val * 65536 + x.n.toNat * 4
def MScale.dec (fx n : Nat) : Option MScale := do
  let g ← Guard.dec (n / 2097152 % 16)
  let xk ← decFin 4 (n / 65536 % 4)
  let xn ← some (BitVec.ofNat 4 (n / 4 % 16))
  let x : MScale := ⟨g, xk, xn⟩
  if x.enc + fx = n % 33554432 then some x else none

def MN.enc (x : MN) : Nat := x.g.enc * 2097152 + x.n.val * 2048
def MN.dec (fx n : Nat) : Option MN := do
  let g ← Guard.dec (n / 2097152 % 16)
  let xn ← decFin 8 (n / 2048 % 32)
  let x : MN := ⟨g, xn⟩
  if x.enc + fx = n % 33554432 then some x else none

def MGetm.enc (x : MGetm) : Nat := x.g.enc * 2097152 + x.n.val * 65536 + x.k.val * 64 + x.j.val
def MGetm.dec (fx n : Nat) : Option MGetm := do
  let g ← Guard.dec (n / 2097152 % 16)
  let xn ← decFin 8 (n / 65536 % 32)
  let xk ← decFin 32 (n / 64 % 32)
  let xj ← decFin 64 (n % 64)
  let x : MGetm := ⟨g, xn, xk, xj⟩
  if x.enc + fx = n % 33554432 then some x else none

def MXfer.enc (x : MXfer) : Nat := x.g.enc * 2097152 + x.r.val * 65536 + x.n.val * 2048 + x.s.val
def MXfer.dec (fx n : Nat) : Option MXfer := do
  let g ← Guard.dec (n / 2097152 % 16)
  let xr ← decFin 32 (n / 65536 % 32)
  let xn ← decFin 8 (n / 2048 % 32)
  let xs ← decFin 8 (n % 8)
  let x : MXfer := ⟨g, xr, xn, xs⟩
  if x.enc + fx = n % 33554432 then some x else none

def CSetI.enc (x : CSetI) : Nat := x.g.enc * 2097152 + x.n.val * 131072 + x.f.val * 16384 + x.i.toNat
def CSetI.dec (fx n : Nat) : Option CSetI := do
  let g ← Guard.dec (n / 2097152 % 16)
  let xn ← decFin 8 (n / 131072 % 8)
  let xf ← decFin 8 (n / 16384 % 8)
  let xi ← some (BitVec.ofNat 14 (n % 16384))
  let x : CSetI := ⟨g, xn, xf, xi⟩
  if x.enc + fx = n % 33554432 then some x else none

def CSetR.enc (x : CSetR) : Nat := x.g.enc * 2097152 + x.n.val * 131072 + x.s.enc * 2048 + x.f.val
def CSetR.dec (fx n : Nat) : Option CSetR := do
  let g ← Guard.dec (n / 2097152 % 16)
  let xn ← decFin 8 (n / 131072 % 8)
  let xs ← LSrc.dec (n / 2048 % 32)
  let xf ← decFin 16 (n % 64)
  let x : CSetR := ⟨g, xn, xs, xf⟩
  if x.enc + fx = n % 33554432 then some x else none

def CGet.enc (x : CGet) : Nat := x.g.enc * 2097152 + x.k.val * 65536 + x.n.val * 8192 + x.f.val * 64 + x.j.val
def CGet.dec (fx n : Nat) : Option CGet := do
  let g ← Guard.dec (n / 2097152 % 16)
  let xk ← decFin 32 (n / 65536 % 32)
  let xn ← decFin 8 (n / 8192 % 8)
  let xf ← decFin 16 (n / 64 % 32)
  let xj ← decFin 64 (n % 64)
  let x : CGet := ⟨g, xk, xn, xf, xj⟩
  if x.enc + fx = n % 33554432 then some x else none

def CTwo.enc (x : CTwo) : Nat := x.g.enc * 2097152 + x.d.val * 65536 + x.s.val * 2048
def CTwo.dec (fx n : Nat) : Option CTwo := do
  let g ← Guard.dec (n / 2097152 % 16)
  let xd ← decFin 8 (n / 65536 % 32)
  let xs ← decFin 8 (n / 2048 % 32)
  let x : CTwo := ⟨g, xd, xs⟩
  if x.enc + fx = n % 33554432 then some x else none

def CBar.enc (x : CBar) : Nat := x.g.enc * 2097152 + x.d.val * 65536 + x.s.val * 2048 + x.n.val * 64 + encBool x.t
def CBar.dec (fx n : Nat) : Option CBar := do
  let g ← Guard.dec (n / 2097152 % 16)
  let xd ← decFin 8 (n / 65536 % 32)
  let xs ← decFin 8 (n / 2048 % 32)
  let xn ← decFin 8 (n / 64 % 32)
  let xt ← decBool (n % 2)
  let x : CBar := ⟨g, xd, xs, xn, xt⟩
  if x.enc + fx = n % 33554432 then some x else none

def CTile.enc (x : CTile) : Nat := x.g.enc * 2097152 + x.n.val * 65536 + x.s.val * 2048 + x.f.val * 64 + x.c.val * 4
def CTile.dec (fx n : Nat) : Option CTile := do
  let g ← Guard.dec (n / 2097152 % 16)
  let xn ← decFin 8 (n / 65536 % 32)
  let xs ← decFin 8 (n / 2048 % 32)
  let xf ← decFin 8 (n / 64 % 32)
  let xc ← decFin 16 (n / 4 % 16)
  let x : CTile := ⟨g, xn, xs, xf, xc⟩
  if x.enc + fx = n % 33554432 then some x else none

def COne.enc (x : COne) : Nat := x.g.enc * 2097152 + x.d.val * 65536
def COne.dec (fx n : Nat) : Option COne := do
  let g ← Guard.dec (n / 2097152 % 16)
  let xd ← decFin 8 (n / 65536 % 32)
  let x : COne := ⟨g, xd⟩
  if x.enc + fx = n % 33554432 then some x else none

def CFill.enc (x : CFill) : Nat := x.g.enc * 2097152 + x.d.val * 65536 + x.v.enc * 2048
def CFill.dec (fx n : Nat) : Option CFill := do
  let g ← Guard.dec (n / 2097152 % 16)
  let xd ← decFin 8 (n / 65536 % 32)
  let xv ← LSrc.dec (n / 2048 % 32)
  let x : CFill := ⟨g, xd, xv⟩
  if x.enc + fx = n % 33554432 then some x else none

def CRed.enc (x : CRed) : Nat := x.g.enc * 2097152 + x.d.val * 65536 + x.s.val * 2048 + encBool x.e * 4 + x.o.val
def CRed.dec (fx n : Nat) : Option CRed := do
  let g ← Guard.dec (n / 2097152 % 16)
  let xd ← decFin 8 (n / 65536 % 32)
  let xs ← decFin 8 (n / 2048 % 32)
  let xe ← decBool (n / 4 % 2)
  let xo ← decFin 3 (n % 4)
  let x : CRed := ⟨g, xd, xs, xe, xo⟩
  if x.enc + fx = n % 33554432 then some x else none

def CPost.enc (x : CPost) : Nat := x.g.enc * 2097152 + x.d.val * 65536 + x.s.val * 2048 + x.n.val * 64
def CPost.dec (fx n : Nat) : Option CPost := do
  let g ← Guard.dec (n / 2097152 % 16)
  let xd ← decFin 8 (n / 65536 % 32)
  let xs ← decFin 8 (n / 2048 % 32)
  let xn ← decFin 16 (n / 64 % 32)
  let x : CPost := ⟨g, xd, xs, xn⟩
  if x.enc + fx = n % 33554432 then some x else none

def CJ.enc (x : CJ) : Nat := x.g.enc * 2097152 + x.j.val
def CJ.dec (fx n : Nat) : Option CJ := do
  let g ← Guard.dec (n / 2097152 % 16)
  let xj ← decFin 64 (n % 64)
  let x : CJ := ⟨g, xj⟩
  if x.enc + fx = n % 33554432 then some x else none

def CWait.enc (x : CWait) : Nat := x.g.enc * 2097152 + x.n.val * 131072 + x.i.toNat
def CWait.dec (fx n : Nat) : Option CWait := do
  let g ← Guard.dec (n / 2097152 % 16)
  let xn ← decFin 16 (n / 131072 % 16)
  let xi ← some (BitVec.ofNat 16 (n % 65536))
  let x : CWait := ⟨g, xn, xi⟩
  if x.enc + fx = n % 33554432 then some x else none

def CFence.enc (x : CFence) : Nat := x.g.enc * 2097152 + x.s.val
def CFence.dec (fx n : Nat) : Option CFence := do
  let g ← Guard.dec (n / 2097152 % 16)
  let xs ← decFin 6 (n % 8)
  let x : CFence := ⟨g, xs⟩
  if x.enc + fx = n % 33554432 then some x else none

def CSrc.enc (x : CSrc) : Nat := x.g.enc * 2097152 + x.s.val * 2048
def CSrc.dec (fx n : Nat) : Option CSrc := do
  let g ← Guard.dec (n / 2097152 % 16)
  let xs ← decFin 8 (n / 2048 % 32)
  let x : CSrc := ⟨g, xs⟩
  if x.enc + fx = n % 33554432 then some x else none

def CGetm.enc (x : CGetm) : Nat := x.g.enc * 2097152 + x.n.val * 65536 + x.j.val
def CGetm.dec (fx n : Nat) : Option CGetm := do
  let g ← Guard.dec (n / 2097152 % 16)
  let xn ← decFin 8 (n / 65536 % 32)
  let xj ← decFin 64 (n % 64)
  let x : CGetm := ⟨g, xn, xj⟩
  if x.enc + fx = n % 33554432 then some x else none

def CPutm.enc (x : CPutm) : Nat := x.g.enc * 2097152 + x.n.val * 2048 + x.j.val
def CPutm.dec (fx n : Nat) : Option CPutm := do
  let g ← Guard.dec (n / 2097152 % 16)
  let xn ← decFin 8 (n / 2048 % 32)
  let xj ← decFin 64 (n % 64)
  let x : CPutm := ⟨g, xn, xj⟩
  if x.enc + fx = n % 33554432 then some x else none

def CXfer.enc (x : CXfer) : Nat := x.g.enc * 2097152 + x.r.val * 65536 + x.n.val * 8192 + x.f.val * 64 + x.s.val
def CXfer.dec (fx n : Nat) : Option CXfer := do
  let g ← Guard.dec (n / 2097152 % 16)
  let xr ← decFin 32 (n / 65536 % 32)
  let xn ← decFin 8 (n / 8192 % 8)
  let xf ← decFin 16 (n / 64 % 32)
  let xs ← decFin 8 (n % 8)
  let x : CXfer := ⟨g, xr, xn, xf, xs⟩
  if x.enc + fx = n % 33554432 then some x else none

/-- The words of the flow group, by opcode; `none` is an illegal word. -/
def rawFlow (n : Nat) : Option Instr :=
  match n / 67108864 with
  | 0 => (if n = 0 then some (.nopF) else none)
  | 1 => ((FPrep.dec 0 n).map (.prep))
  | 2 => ((FPrepM.dec 0 n).map (.prepm))
  | 3 => ((FBt.dec 0 n).map (.bt))
  | 4 => ((FJump.dec 0 n).map (.j))
  | 5 => ((FTgt.dec 0 n).map (.call))
  | 6 => ((FNone.dec 0 n).map (.ret))
  | 7 => ((FLoop.dec 0 n).map (.loop))
  | 8 => ((FCountLc.dec 0 n).map (.setlc))
  | 9 => ((FSpl.dec 0 n).map (.spl))
  | 10 => ((FCountF.dec 0 n).map (.wait))
  | 11 => ((FCountF.dec 0 n).map (.post))
  | 12 => ((FPostr.dec 0 n).map (.postr))
  | 13 => ((FTlw.dec 0 n).map (.tlw))
  | 14 => ((FCountBb.dec 0 n).map (.bbset))
  | 15 => ((FBb.dec 0 n).map (.bbwait))
  | 16 => ((FNone.dec 0 n).map (.ridge))
  | 17 => ((FSeg.dec 0 n).map (.seg))
  | 18 => ((FNone.dec 0 n).map (.rdv))
  | 19 => ((FImm.dec 0 n).map (.trap))
  | 20 => ((FNone.dec 0 n).map (.rtt))
  | 21 => ((FNone.dec 0 n).map (.endF))
  | 22 => ((FNone.dec 0 n).map (.yield))
  | 23 => ((FScope.dec 0 n).map (.drain)) <|> ((FScope.dec 262144 n).map (.drainE))
  | 24 => ((FClk.dec 0 n).map (.clkdiv))
  | 25 => ((FFlagM.dec 0 n).map (.launch))
  | 26 => ((FSendS.dec 0 n).map (.send))
  | 27 => ((FGetm.dec 0 n).map (.getmF))
  | 28 => ((FEpi.dec 0 n).map (.epi))
  | 29 => ((FPred.dec 0 n).map (.wdog))
  | 30 => ((FPred.dec 0 n).map (.hbeat))
  | 31 => ((FCapq.dec 0 n).map (.capq))
  | 32 => ((FPitchq.dec 0 n).map (.pitchq))
  | 33 => ((FImm.dec 0 n).map (.sleep))
  | 34 => ((FImm.dec 0 n).map (.brk))
  | _ => none

/-- The words of the scalar group, by opcode; `none` is an illegal word. -/
def rawScalar (n : Nat) : Option Instr :=
  match n / 33554432 with
  | 0 => (if n = 0 then some (.scalarNop) else none)
  | 1 => ((SAlu.dec 0 n).map (.add))
  | 2 => ((SAlu.dec 0 n).map (.sub))
  | 3 => ((SImm.dec 0 n).map (.addi))
  | 4 => ((SImm.dec 0 n).map (.movi))
  | 5 => ((SImm.dec 0 n).map (.movhi))
  | 6 => ((SAlu.dec 0 n).map (.mul))
  | 7 => ((SAlu.dec 0 n).map (.mulh))
  | 8 => ((SAlu.dec 0 n).map (.mulhu))
  | 9 => ((SAlu.dec 0 n).map (.div))
  | 10 => ((SAlu.dec 0 n).map (.divu))
  | 11 => ((SAlu.dec 0 n).map (.rem))
  | 12 => ((SAlu.dec 0 n).map (.remu))
  | 13 => ((SAlu.dec 0 n).map (.and))
  | 14 => ((SAlu.dec 0 n).map (.or))
  | 15 => ((SAlu.dec 0 n).map (.xor))
  | 16 => ((SAlu.dec 0 n).map (.andn))
  | 17 => ((SUn.dec 0 n).map (.not))
  | 18 => ((SAlu.dec 0 n).map (.shl))
  | 19 => ((SAlu.dec 0 n).map (.shr))
  | 20 => ((SAlu.dec 0 n).map (.sar))
  | 21 => ((SAlu.dec 0 n).map (.rot))
  | 22 => ((SAlu.dec 0 n).map (.fsh))
  | 23 => ((SAlu.dec 0 n).map (.bfx))
  | 24 => ((SAlu.dec 0 n).map (.bfxs))
  | 25 => ((SAlu.dec 0 n).map (.bfi))
  | 26 => ((SUn.dec 0 n).map (.clz))
  | 27 => ((SUn.dec 0 n).map (.ctz))
  | 28 => ((SUn.dec 0 n).map (.popc))
  | 29 => ((SAlu.dec 0 n).map (.min))
  | 30 => ((SAlu.dec 0 n).map (.max))
  | 31 => ((SAlu.dec 0 n).map (.minu))
  | 32 => ((SAlu.dec 0 n).map (.maxu))
  | 33 => ((SSel.dec 0 n).map (.sel))
  | 34 => ((SCmp.dec 0 n).map (.cmpeq))
  | 35 => ((SCmp.dec 0 n).map (.cmpne))
  | 36 => ((SCmp.dec 0 n).map (.cmplt))
  | 37 => ((SCmp.dec 0 n).map (.cmple))
  | 38 => ((SCmp.dec 0 n).map (.cmpltu))
  | 39 => ((SCmp.dec 0 n).map (.cmpleu))
  | 40 => ((SCmpi.dec 0 n).map (.cmpi))
  | 41 => ((SPred3.dec 0 n).map (.pand))
  | 42 => ((SPred3.dec 0 n).map (.por))
  | 43 => ((SPred3.dec 0 n).map (.pxor))
  | 44 => ((SPred2.dec 0 n).map (.pnot))
  | 45 => ((SPred2.dec 0 n).map (.pmov))
  | 46 => ((SFlt3.dec 0 n).map (.fadd))
  | 47 => ((SFlt3.dec 0 n).map (.fsub))
  | 48 => ((SFlt3.dec 0 n).map (.fmul))
  | 49 => ((SFlt3.dec 0 n).map (.fma))
  | 50 => ((SFlt3.dec 0 n).map (.fdiv))
  | 51 => ((SFlt2.dec 0 n).map (.fsqrt))
  | 52 => ((SFcvt.dec 0 n).map (.fcvt))
  | 53 => ((SFcmp.dec 0 n).map (.fcmp))
  | 54 => ((SFmin.dec 0 n).map (.fmin))
  | 55 => ((SFmin.dec 0 n).map (.fmax))
  | 56 => ((SMem.dec 0 n).map (.ld))
  | 57 => ((SMem.dec 0 n).map (.lds))
  | 58 => ((SMem.dec 0 n).map (.st))
  | 59 => ((SImm.dec 0 n).map (.ldl))
  | 60 => ((SInv.dec 0 n).map (.invl))
  | 61 => ((SNone.dec 0 n).map (.fll1))
  | 62 => ((SAlu.dec 0 n).map (.aadd))
  | 63 => ((SAlu.dec 0 n).map (.axchg))
  | 64 => ((SAlu.dec 0 n).map (.acas))
  | 65 => ((SAmin.dec 0 n).map (.amin))
  | 66 => ((SAmin.dec 0 n).map (.amax))
  | 67 => ((SAlu.dec 0 n).map (.aand))
  | 68 => ((SAlu.dec 0 n).map (.aor))
  | 69 => ((SAlu.dec 0 n).map (.afadd))
  | 70 => ((SGetm.dec 0 n).map (.scalarGetm))
  | 71 => ((SPutm.dec 0 n).map (.scalarPutm))
  | 72 => ((SXfer.dec 0 n).map (.scalarXfer))
  | 73 => ((SMfs.dec 0 n).map (.mfs))
  | 74 => ((SMts.dec 0 n).map (.mts))
  | 100 => ((PDA.dec 0 n).map (.tlbinvPage)) <|> ((PDAB.dec 1 n).map (.tlbinvRange)) <|> ((PDA.dec 2 n).map (.tlbinvAll))
  | 101 => ((PD.dec 0 n).map (.tlbsync))
  | 102 => ((PDAn.dec 0 n).map (.ctxsave))
  | 103 => ((PDABn.dec 0 n).map (.ctxload))
  | 104 => ((PDAB.dec 0 n).map (.ctxkill))
  | 105 => ((PDAn.dec 0 n).map (.partsetCreate)) <|> ((PDAn.dec 16 n).map (.partsetUpdate)) <|> ((PDAn.dec 32 n).map (.partsetStop)) <|> ((PDAn.dec 48 n).map (.partsetDestroy))
  | 106 => ((PDAB.dec 0 n).map (.wayset))
  | 107 => ((PDABn.dec 0 n).map (.zeroMem)) <|> ((PDABn.dec 16 n).map (.zeroBanks)) <|> ((PDABn.dec 32 n).map (.zeroCarr)) <|> ((PDABn.dec 48 n).map (.zeroL2))
  | 108 => ((PDAn.dec 0 n).map (.lease))
  | 109 => ((PDA.dec 0 n).map (.unlease))
  | 110 => ((PDA.dec 0 n).map (.score)) <|> ((PDAB.dec 1 n).map (.scoreAdd))
  | 111 => ((PDABn.dec 0 n).map (.retire)) <|> ((PDABn.dec 16 n).map (.retireForce))
  | 112 => ((PDA.dec 0 n).map (.fenceq))
  | 113 => ((PDAn.dec 0 n).map (.appeal)) <|> ((PDAn.dec 16 n).map (.appealBar))
  | 114 => ((PDAB.dec 0 n).map (.meter))
  | 115 => ((PDABn.dec 0 n).map (.signqUsage)) <|> ((PDABn.dec 16 n).map (.signqRetired)) <|> ((PDABn.dec 32 n).map (.signqQuote))
  | 116 => ((PDAB.dec 0 n).map (.powqPkg)) <|> ((PDA.dec 1 n).map (.powqCore)) <|> ((PDAB.dec 2 n).map (.powqGrant))
  | 117 => ((PDAB.dec 0 n).map (.injOff)) <|> ((PDAB.dec 1 n).map (.injOn)) <|> ((PDAB.dec 2 n).map (.injPoison))
  | _ => none

/-- The words of the vector group, by opcode; `none` is an illegal word. -/
def rawVector (u : VUnit) (n : Nat) : Option Instr :=
  match n / 33554432 with
  | 0 => (if n = 0 then some (.vectorNop u) else none)
  | 1 => ((VTyp3.dec 0 n).map (.vadd u))
  | 2 => ((VTyp3.dec 0 n).map (.vsub u))
  | 3 => ((VTyp3.dec 0 n).map (.vmul u))
  | 4 => ((VTyp3.dec 0 n).map (.vfma u))
  | 5 => ((VTyp3.dec 0 n).map (.vfms u))
  | 6 => ((VTyp3.dec 0 n).map (.vmin u))
  | 7 => ((VTyp3.dec 0 n).map (.vmax u))
  | 8 => ((VTyp2.dec 0 n).map (.vabs u))
  | 9 => ((VTyp2.dec 0 n).map (.vneg u))
  | 10 => ((VFun.dec 40 n).map (.vrcp u))
  | 11 => ((VFun.dec 40 n).map (.vrsq u))
  | 12 => ((VFun.dec 40 n).map (.vexp2 u))
  | 13 => ((VFun.dec 40 n).map (.vlog2 u))
  | 14 => ((VTyp3.dec 0 n).map (.vdiv u))
  | 15 => ((VCmp.dec 0 n).map (.vcmpeq u))
  | 16 => ((VCmp.dec 0 n).map (.vcmpne u))
  | 17 => ((VCmp.dec 0 n).map (.vcmplt u))
  | 18 => ((VCmp.dec 0 n).map (.vcmple u))
  | 19 => ((VSel.dec 0 n).map (.vsel u))
  | 20 => ((VRR.dec 0 n).map (.vand u))
  | 21 => ((VRR.dec 0 n).map (.vor u))
  | 22 => ((VRR.dec 0 n).map (.vxor u))
  | 23 => ((VRR.dec 0 n).map (.vandn u))
  | 24 => ((VRR.dec 0 n).map (.vshl u))
  | 25 => ((VRR.dec 0 n).map (.vshr u))
  | 26 => ((VRR.dec 0 n).map (.vsar u))
  | 27 => ((VBfx.dec 0 n).map (.vbfx u))
  | 28 => ((VRR.dec 0 n).map (.vbfi u))
  | 29 => ((VRR.dec 0 n).map (.vfsh u))
  | 30 => ((VR.dec 0 n).map (.vpopc u))
  | 31 => ((VR.dec 0 n).map (.vclz u))
  | 32 => ((VCvt.dec 0 n).map (.vcvt u))
  | 33 => ((VPack.dec 0 n).map (.vpack u))
  | 34 => ((VUnpack.dec 0 n).map (.vunpack u))
  | 35 => ((VRR.dec 0 n).map (.vperm u))
  | 36 => ((VBcast.dec 0 n).map (.vbcast u))
  | 37 => ((VSlide.dec 0 n).map (.vslide u))
  | 38 => ((VD.dec 16 n).map (.viota u)) <|> ((VD.dec 17 n).map (.viotaRand u))
  | 39 => ((VTyp2.dec 0 n).map (.vredadd u))
  | 40 => ((VTyp2.dec 0 n).map (.vredmax u))
  | 41 => ((VTyp2.dec 0 n).map (.vscan u))
  | 42 => ((VRR.dec 0 n).map (.vld u))
  | 43 => ((VRR.dec 0 n).map (.vst u))
  | 44 => ((VRR.dec 0 n).map (.vlds u))
  | 45 => ((VRR.dec 0 n).map (.vsts u))
  | 46 => ((VRR.dec 0 n).map (.vgath u))
  | 47 => ((VRR.dec 0 n).map (.vscat u))
  | 48 => ((VTbl.dec 0 n).map (.vtbl u))
  | 49 => ((VAtom.dec 0 n).map (.vaadd u))
  | 50 => ((VRR.dec 0 n).map (.vafadd u))
  | 51 => ((VGetm.dec 0 n).map (.vectorGetm u))
  | 52 => ((VPutm.dec 0 n).map (.vectorPutm u))
  | 53 => ((VXfer.dec 0 n).map (.vectorXfer u))
  | 54 => ((VR.dec 0 n).map (.vmovs u))
  | 55 => ((VToP.dec 0 n).map (.vpmovToPredicate u)) <|> ((VFromP.dec 1 n).map (.vpmovFromPredicate u))
  | 56 => ((VEf.dec 0 n).map (.vefclr u))
  | 57 => ((VEfg.dec 0 n).map (.vefget u))
  | 58 => ((VEfp.dec 0 n).map (.vefput u))
  | 59 => ((VFmt.dec 0 n).map (.vfmtset u))
  | _ => none

/-- The words of the series group, by opcode; `none` is an illegal word. -/
def rawSeries (n : Nat) : Option Instr :=
  match n / 33554432 with
  | 64 => ((XD.dec 0 n).map (.xclr))
  | 65 => ((XSeto.dec 0 n).map (.xseto))
  | 66 => ((XForm.dec 0 n).map (.xform))
  | 67 => ((XXB.dec 0 n).map (.xm2m))
  | 68 => ((XXB.dec 0 n).map (.xm2l))
  | 69 => ((XXB.dec 0 n).map (.xl2l))
  | 70 => ((XEval.dec 0 n).map (.xeval))
  | 71 => ((XAdm.dec 0 n).map (.xadm))
  | 72 => ((XXX.dec 0 n).map (.xadd))
  | 73 => ((XMem.dec 0 n).map (.xld))
  | 74 => ((XMem.dec 0 n).map (.xst))
  | 75 => ((XXB.dec 0 n).map (.xnorm))
  | 76 => ((XGet.dec 0 n).map (.xget))
  | _ => none

/-- The words of the matrix group, by opcode; `none` is an illegal word. -/
def rawMatrix (n : Nat) : Option Instr :=
  match n / 33554432 with
  | 0 => (if n = 0 then some (.matrixNop) else none)
  | 1 => ((MMdset.dec 0 n).map (.mdset))
  | 2 => ((MMove.dec 0 n).map (.mdget))
  | 3 => ((MLoad.dec 0 n).map (.mldt))
  | 4 => ((MStore.dec 0 n).map (.mstz)) <|> ((MStore.dec 1 n).map (.mstzTag))
  | 5 => ((MMul.dec 0 n).map (.mma))
  | 6 => ((MMul.dec 0 n).map (.mmaz))
  | 7 => ((MNest.dec 0 n).map (.mnest)) <|> ((MNest.dec 262144 n).map (.mnestz))
  | 8 => ((MZ.dec 0 n).map (.mzero))
  | 9 => ((MTrans.dec 0 n).map (.mtr))
  | 10 => ((MRead.dec 0 n).map (.mrdz))
  | 11 => ((MWm.dec 0 n).map (.mwm))
  | 12 => ((MMul.dec 0 n).map (.mchk)) <|> ((MMul.dec 1 n).map (.mchkz))
  | 13 => ((MZM.dec 0 n).map (.mres))
  | 14 => ((MZM.dec 0 n).map (.mfix))
  | 15 => ((MMir.dec 0 n).map (.mmir))
  | 16 => ((MInj.dec 0 n).map (.minj))
  | 17 => ((MTag.dec 0 n).map (.mtag))
  | 18 => ((MCvt.dec 0 n).map (.mcvt))
  | 19 => ((MZM.dec 0 n).map (.mbias))
  | 20 => ((MZ.dec 0 n).map (.mactRelu)) <|> ((MZ.dec 1 n).map (.mactAbs)) <|> ((MScale.dec 2 n).map (.mactScale))
  | 21 => ((MN.dec 0 n).map (.mpitch))
  | 22 => ((MGetm.dec 0 n).map (.matrixGetm))
  | 23 => ((MMove.dec 0 n).map (.matrixPutm))
  | 24 => ((MXfer.dec 0 n).map (.matrixXfer))
  | _ => none

/-- The words of the copy group, by opcode; `none` is an illegal word. -/
def rawCopy (e : CUnit) (n : Nat) : Option Instr :=
  match n / 33554432 with
  | 0 => (if n = 0 then some (.copyNop e) else none)
  | 1 => ((CSetI.dec 1048576 n).map (.cdsetImmediate e)) <|> ((CSetR.dec 0 n).map (.cdsetRegister e))
  | 2 => ((CGet.dec 0 n).map (.cdget e))
  | 3 => ((CTwo.dec 0 n).map (.cpy e))
  | 4 => ((CBar.dec 0 n).map (.cpyb e))
  | 5 => ((CTile.dec 0 n).map (.cpyt e))
  | 6 => ((CTwo.dec 0 n).map (.cgath e))
  | 7 => ((CTwo.dec 0 n).map (.cscat e))
  | 8 => ((COne.dec 0 n).map (.czero e))
  | 9 => ((CFill.dec 0 n).map (.cfill e))
  | 10 => ((CRed.dec 0 n).map (.cred e))
  | 11 => ((CBar.dec 0 n).map (.cbcast e))
  | 12 => ((CRed.dec 0 n).map (.callred e))
  | 13 => ((CTwo.dec 0 n).map (.cdigest e))
  | 14 => ((CTwo.dec 0 n).map (.cpull e))
  | 15 => ((CPost.dec 0 n).map (.cpost e))
  | 16 => ((CTwo.dec 0 n).map (.chostTo e)) <|> ((CTwo.dec 1 n).map (.chostFrom e))
  | 17 => ((CTwo.dec 0 n).map (.ccarrTo e)) <|> ((CTwo.dec 1 n).map (.ccarrFrom e))
  | 18 => ((CJ.dec 0 n).map (.ctlr e))
  | 19 => ((CWait.dec 0 n).map (.cwait e))
  | 20 => ((CFence.dec 0 n).map (.cfence e)) <|> ((CFence.dec 8 n).map (.cfenceA e))
  | 21 => ((CTwo.dec 0 n).map (.ccvt e))
  | 22 => ((CSrc.dec 0 n).map (.cpref e))
  | 23 => ((CTwo.dec 0 n).map (.cswp e))
  | 24 => ((CGetm.dec 0 n).map (.copyGetm e))
  | 25 => ((CPutm.dec 0 n).map (.copyPutm e))
  | 26 => ((CXfer.dec 0 n).map (.copyXfer e))
  | _ => none

/-- Why a slot word is not an instruction (Table 6-12). -/
inductive Reject where
  | unassigned    -- no instruction of the slot has this opcode
  | badField      -- a reserved bit, an operand value or a code that the instruction does not take
deriving DecidableEq, Repr

/-- The slots that hold instructions (Table 6-1). -/
inductive Slot where
  | f | s | a | b | m | c | d
deriving DecidableEq, Repr

def Slot.num : Slot → Nat
  | .f => 1 | .s => 2 | .a => 3 | .b => 4 | .m => 5 | .c => 6 | .d => 7

/-- Whether the slot has an instruction of that opcode (R100-R104). -/
def Slot.assigned (sl : Slot) (op : Nat) : Bool :=
  match sl with
  | .f => op ≤ 34
  | .s => op ≤ 74 || (decide (100 ≤ op) && op ≤ 117)
  | .a => op ≤ 59
  | .b => op ≤ 59 || (decide (64 ≤ op) && op ≤ 76)
  | .m => op ≤ 24
  | .c => op ≤ 26
  | .d => op ≤ 26

def rawSlot (sl : Slot) (n : Nat) : Option Instr :=
  match sl with
  | .f => rawFlow n
  | .s => rawScalar n
  | .a => rawVector .a n
  | .b => rawVector .b n <|> rawSeries n
  | .m => rawMatrix n
  | .c => rawCopy .c n
  | .d => rawCopy .d n

/-- The instruction that word `n` of a slot holds, if it is legal. -/
def decodeOpt (sl : Slot) (n : Nat) : Option Instr := (rawSlot sl n).filter Instr.wf

/-- The decoder: total on every 32-bit word of every slot, rejecting by name. -/
def decode (sl : Slot) (w : BitVec 32) : Except Reject Instr :=
  match decodeOpt sl w.toNat with
  | some i => .ok i
  | none => .error (if sl.assigned (w.toNat / (if sl = .f then 67108864 else 33554432)) then .badField else .unassigned)

/-- The word of an instruction, by the layouts of R108, R91, R92, Table 9-3 and Table 9-7; events have none. -/
def encode (i : Instr) : Option Nat :=
  match i with
  | .nopF => some 0
  | .prep x => some (67108864 + x.enc)
  | .prepm x => some (134217728 + x.enc)
  | .bt x => some (201326592 + x.enc)
  | .j x => some (268435456 + x.enc)
  | .call x => some (335544320 + x.enc)
  | .ret x => some (402653184 + x.enc)
  | .loop x => some (469762048 + x.enc)
  | .setlc x => some (536870912 + x.enc)
  | .spl x => some (603979776 + x.enc)
  | .wait x => some (671088640 + x.enc)
  | .post x => some (738197504 + x.enc)
  | .postr x => some (805306368 + x.enc)
  | .tlw x => some (872415232 + x.enc)
  | .bbset x => some (939524096 + x.enc)
  | .bbwait x => some (1006632960 + x.enc)
  | .ridge x => some (1073741824 + x.enc)
  | .seg x => some (1140850688 + x.enc)
  | .rdv x => some (1207959552 + x.enc)
  | .trap x => some (1275068416 + x.enc)
  | .rtt x => some (1342177280 + x.enc)
  | .endF x => some (1409286144 + x.enc)
  | .yield x => some (1476395008 + x.enc)
  | .drain x => some (1543503872 + x.enc)
  | .drainE x => some (1543766016 + x.enc)
  | .clkdiv x => some (1610612736 + x.enc)
  | .launch x => some (1677721600 + x.enc)
  | .send x => some (1744830464 + x.enc)
  | .getmF x => some (1811939328 + x.enc)
  | .epi x => some (1879048192 + x.enc)
  | .wdog x => some (1946157056 + x.enc)
  | .hbeat x => some (2013265920 + x.enc)
  | .capq x => some (2080374784 + x.enc)
  | .pitchq x => some (2147483648 + x.enc)
  | .sleep x => some (2214592512 + x.enc)
  | .brk x => some (2281701376 + x.enc)
  | .scalarNop => some 0
  | .add x => some (33554432 + x.enc)
  | .sub x => some (67108864 + x.enc)
  | .addi x => some (100663296 + x.enc)
  | .movi x => some (134217728 + x.enc)
  | .movhi x => some (167772160 + x.enc)
  | .mul x => some (201326592 + x.enc)
  | .mulh x => some (234881024 + x.enc)
  | .mulhu x => some (268435456 + x.enc)
  | .div x => some (301989888 + x.enc)
  | .divu x => some (335544320 + x.enc)
  | .rem x => some (369098752 + x.enc)
  | .remu x => some (402653184 + x.enc)
  | .and x => some (436207616 + x.enc)
  | .or x => some (469762048 + x.enc)
  | .xor x => some (503316480 + x.enc)
  | .andn x => some (536870912 + x.enc)
  | .not x => some (570425344 + x.enc)
  | .shl x => some (603979776 + x.enc)
  | .shr x => some (637534208 + x.enc)
  | .sar x => some (671088640 + x.enc)
  | .rot x => some (704643072 + x.enc)
  | .fsh x => some (738197504 + x.enc)
  | .bfx x => some (771751936 + x.enc)
  | .bfxs x => some (805306368 + x.enc)
  | .bfi x => some (838860800 + x.enc)
  | .clz x => some (872415232 + x.enc)
  | .ctz x => some (905969664 + x.enc)
  | .popc x => some (939524096 + x.enc)
  | .min x => some (973078528 + x.enc)
  | .max x => some (1006632960 + x.enc)
  | .minu x => some (1040187392 + x.enc)
  | .maxu x => some (1073741824 + x.enc)
  | .sel x => some (1107296256 + x.enc)
  | .cmpeq x => some (1140850688 + x.enc)
  | .cmpne x => some (1174405120 + x.enc)
  | .cmplt x => some (1207959552 + x.enc)
  | .cmple x => some (1241513984 + x.enc)
  | .cmpltu x => some (1275068416 + x.enc)
  | .cmpleu x => some (1308622848 + x.enc)
  | .cmpi x => some (1342177280 + x.enc)
  | .pand x => some (1375731712 + x.enc)
  | .por x => some (1409286144 + x.enc)
  | .pxor x => some (1442840576 + x.enc)
  | .pnot x => some (1476395008 + x.enc)
  | .pmov x => some (1509949440 + x.enc)
  | .fadd x => some (1543503872 + x.enc)
  | .fsub x => some (1577058304 + x.enc)
  | .fmul x => some (1610612736 + x.enc)
  | .fma x => some (1644167168 + x.enc)
  | .fdiv x => some (1677721600 + x.enc)
  | .fsqrt x => some (1711276032 + x.enc)
  | .fcvt x => some (1744830464 + x.enc)
  | .fcmp x => some (1778384896 + x.enc)
  | .fmin x => some (1811939328 + x.enc)
  | .fmax x => some (1845493760 + x.enc)
  | .ld x => some (1879048192 + x.enc)
  | .lds x => some (1912602624 + x.enc)
  | .st x => some (1946157056 + x.enc)
  | .ldl x => some (1979711488 + x.enc)
  | .invl x => some (2013265920 + x.enc)
  | .fll1 x => some (2046820352 + x.enc)
  | .aadd x => some (2080374784 + x.enc)
  | .axchg x => some (2113929216 + x.enc)
  | .acas x => some (2147483648 + x.enc)
  | .amin x => some (2181038080 + x.enc)
  | .amax x => some (2214592512 + x.enc)
  | .aand x => some (2248146944 + x.enc)
  | .aor x => some (2281701376 + x.enc)
  | .afadd x => some (2315255808 + x.enc)
  | .scalarGetm x => some (2348810240 + x.enc)
  | .scalarPutm x => some (2382364672 + x.enc)
  | .scalarXfer x => some (2415919104 + x.enc)
  | .mfs x => some (2449473536 + x.enc)
  | .mts x => some (2483027968 + x.enc)
  | .tlbinvPage x => some (3355443200 + x.enc)
  | .tlbinvRange x => some (3355443201 + x.enc)
  | .tlbinvAll x => some (3355443202 + x.enc)
  | .tlbsync x => some (3388997632 + x.enc)
  | .ctxsave x => some (3422552064 + x.enc)
  | .ctxload x => some (3456106496 + x.enc)
  | .ctxkill x => some (3489660928 + x.enc)
  | .partsetCreate x => some (3523215360 + x.enc)
  | .partsetUpdate x => some (3523215376 + x.enc)
  | .partsetStop x => some (3523215392 + x.enc)
  | .partsetDestroy x => some (3523215408 + x.enc)
  | .wayset x => some (3556769792 + x.enc)
  | .zeroMem x => some (3590324224 + x.enc)
  | .zeroBanks x => some (3590324240 + x.enc)
  | .zeroCarr x => some (3590324256 + x.enc)
  | .zeroL2 x => some (3590324272 + x.enc)
  | .lease x => some (3623878656 + x.enc)
  | .unlease x => some (3657433088 + x.enc)
  | .score x => some (3690987520 + x.enc)
  | .scoreAdd x => some (3690987521 + x.enc)
  | .retire x => some (3724541952 + x.enc)
  | .retireForce x => some (3724541968 + x.enc)
  | .fenceq x => some (3758096384 + x.enc)
  | .appeal x => some (3791650816 + x.enc)
  | .appealBar x => some (3791650832 + x.enc)
  | .meter x => some (3825205248 + x.enc)
  | .signqUsage x => some (3858759680 + x.enc)
  | .signqRetired x => some (3858759696 + x.enc)
  | .signqQuote x => some (3858759712 + x.enc)
  | .powqPkg x => some (3892314112 + x.enc)
  | .powqCore x => some (3892314113 + x.enc)
  | .powqGrant x => some (3892314114 + x.enc)
  | .injOff x => some (3925868544 + x.enc)
  | .injOn x => some (3925868545 + x.enc)
  | .injPoison x => some (3925868546 + x.enc)
  | .vectorNop _ => some 0
  | .vadd _ x => some (33554432 + x.enc)
  | .vsub _ x => some (67108864 + x.enc)
  | .vmul _ x => some (100663296 + x.enc)
  | .vfma _ x => some (134217728 + x.enc)
  | .vfms _ x => some (167772160 + x.enc)
  | .vmin _ x => some (201326592 + x.enc)
  | .vmax _ x => some (234881024 + x.enc)
  | .vabs _ x => some (268435456 + x.enc)
  | .vneg _ x => some (301989888 + x.enc)
  | .vrcp _ x => some (335544360 + x.enc)
  | .vrsq _ x => some (369098792 + x.enc)
  | .vexp2 _ x => some (402653224 + x.enc)
  | .vlog2 _ x => some (436207656 + x.enc)
  | .vdiv _ x => some (469762048 + x.enc)
  | .vcmpeq _ x => some (503316480 + x.enc)
  | .vcmpne _ x => some (536870912 + x.enc)
  | .vcmplt _ x => some (570425344 + x.enc)
  | .vcmple _ x => some (603979776 + x.enc)
  | .vsel _ x => some (637534208 + x.enc)
  | .vand _ x => some (671088640 + x.enc)
  | .vor _ x => some (704643072 + x.enc)
  | .vxor _ x => some (738197504 + x.enc)
  | .vandn _ x => some (771751936 + x.enc)
  | .vshl _ x => some (805306368 + x.enc)
  | .vshr _ x => some (838860800 + x.enc)
  | .vsar _ x => some (872415232 + x.enc)
  | .vbfx _ x => some (905969664 + x.enc)
  | .vbfi _ x => some (939524096 + x.enc)
  | .vfsh _ x => some (973078528 + x.enc)
  | .vpopc _ x => some (1006632960 + x.enc)
  | .vclz _ x => some (1040187392 + x.enc)
  | .vcvt _ x => some (1073741824 + x.enc)
  | .vpack _ x => some (1107296256 + x.enc)
  | .vunpack _ x => some (1140850688 + x.enc)
  | .vperm _ x => some (1174405120 + x.enc)
  | .vbcast _ x => some (1207959552 + x.enc)
  | .vslide _ x => some (1241513984 + x.enc)
  | .viota _ x => some (1275068432 + x.enc)
  | .viotaRand _ x => some (1275068433 + x.enc)
  | .vredadd _ x => some (1308622848 + x.enc)
  | .vredmax _ x => some (1342177280 + x.enc)
  | .vscan _ x => some (1375731712 + x.enc)
  | .vld _ x => some (1409286144 + x.enc)
  | .vst _ x => some (1442840576 + x.enc)
  | .vlds _ x => some (1476395008 + x.enc)
  | .vsts _ x => some (1509949440 + x.enc)
  | .vgath _ x => some (1543503872 + x.enc)
  | .vscat _ x => some (1577058304 + x.enc)
  | .vtbl _ x => some (1610612736 + x.enc)
  | .vaadd _ x => some (1644167168 + x.enc)
  | .vafadd _ x => some (1677721600 + x.enc)
  | .vectorGetm _ x => some (1711276032 + x.enc)
  | .vectorPutm _ x => some (1744830464 + x.enc)
  | .vectorXfer _ x => some (1778384896 + x.enc)
  | .vmovs _ x => some (1811939328 + x.enc)
  | .vpmovToPredicate _ x => some (1845493760 + x.enc)
  | .vpmovFromPredicate _ x => some (1845493761 + x.enc)
  | .vefclr _ x => some (1879048192 + x.enc)
  | .vefget _ x => some (1912602624 + x.enc)
  | .vefput _ x => some (1946157056 + x.enc)
  | .vfmtset _ x => some (1979711488 + x.enc)
  | .xclr x => some (2147483648 + x.enc)
  | .xseto x => some (2181038080 + x.enc)
  | .xform x => some (2214592512 + x.enc)
  | .xm2m x => some (2248146944 + x.enc)
  | .xm2l x => some (2281701376 + x.enc)
  | .xl2l x => some (2315255808 + x.enc)
  | .xeval x => some (2348810240 + x.enc)
  | .xadm x => some (2382364672 + x.enc)
  | .xadd x => some (2415919104 + x.enc)
  | .xld x => some (2449473536 + x.enc)
  | .xst x => some (2483027968 + x.enc)
  | .xnorm x => some (2516582400 + x.enc)
  | .xget x => some (2550136832 + x.enc)
  | .matrixNop => some 0
  | .mdset x => some (33554432 + x.enc)
  | .mdget x => some (67108864 + x.enc)
  | .mldt x => some (100663296 + x.enc)
  | .mstz x => some (134217728 + x.enc)
  | .mstzTag x => some (134217729 + x.enc)
  | .mma x => some (167772160 + x.enc)
  | .mmaz x => some (201326592 + x.enc)
  | .mnest x => some (234881024 + x.enc)
  | .mnestz x => some (235143168 + x.enc)
  | .mzero x => some (268435456 + x.enc)
  | .mtr x => some (301989888 + x.enc)
  | .mrdz x => some (335544320 + x.enc)
  | .mwm x => some (369098752 + x.enc)
  | .mchk x => some (402653184 + x.enc)
  | .mchkz x => some (402653185 + x.enc)
  | .mres x => some (436207616 + x.enc)
  | .mfix x => some (469762048 + x.enc)
  | .mmir x => some (503316480 + x.enc)
  | .minj x => some (536870912 + x.enc)
  | .mtag x => some (570425344 + x.enc)
  | .mcvt x => some (603979776 + x.enc)
  | .mbias x => some (637534208 + x.enc)
  | .mactRelu x => some (671088640 + x.enc)
  | .mactAbs x => some (671088641 + x.enc)
  | .mactScale x => some (671088642 + x.enc)
  | .mpitch x => some (704643072 + x.enc)
  | .matrixGetm x => some (738197504 + x.enc)
  | .matrixPutm x => some (771751936 + x.enc)
  | .matrixXfer x => some (805306368 + x.enc)
  | .copyNop _ => some 0
  | .cdsetImmediate _ x => some (34603008 + x.enc)
  | .cdsetRegister _ x => some (33554432 + x.enc)
  | .cdget _ x => some (67108864 + x.enc)
  | .cpy _ x => some (100663296 + x.enc)
  | .cpyb _ x => some (134217728 + x.enc)
  | .cpyt _ x => some (167772160 + x.enc)
  | .cgath _ x => some (201326592 + x.enc)
  | .cscat _ x => some (234881024 + x.enc)
  | .czero _ x => some (268435456 + x.enc)
  | .cfill _ x => some (301989888 + x.enc)
  | .cred _ x => some (335544320 + x.enc)
  | .cbcast _ x => some (369098752 + x.enc)
  | .callred _ x => some (402653184 + x.enc)
  | .cdigest _ x => some (436207616 + x.enc)
  | .cpull _ x => some (469762048 + x.enc)
  | .cpost _ x => some (503316480 + x.enc)
  | .chostTo _ x => some (536870912 + x.enc)
  | .chostFrom _ x => some (536870913 + x.enc)
  | .ccarrTo _ x => some (570425344 + x.enc)
  | .ccarrFrom _ x => some (570425345 + x.enc)
  | .ctlr _ x => some (603979776 + x.enc)
  | .cwait _ x => some (637534208 + x.enc)
  | .cfence _ x => some (671088640 + x.enc)
  | .cfenceA _ x => some (671088648 + x.enc)
  | .ccvt _ x => some (704643072 + x.enc)
  | .cpref _ x => some (738197504 + x.enc)
  | .cswp _ x => some (771751936 + x.enc)
  | .copyGetm _ x => some (805306368 + x.enc)
  | .copyPutm _ x => some (838860800 + x.enc)
  | .copyXfer _ x => some (872415232 + x.enc)
  | .bundleCommit _ => none
  | .asynchronousTrap _ => none
  | .fairnessYield _ => none
  | .watchdogExpiry _ => none
  | .sleepEnd _ => none
  | .exposedResultLand _ _ => none
  | .memoryAccessPerform _ _ _ => none
  | .migpullRepost _ _ => none
  | .migrationHoldTimeout _ _ => none
  | .messageDelivery _ => none
  | .remotePostApply _ => none
  | .fencedNack _ => none
  | .ridgeArrival _ => none
  | .ridgeRelease _ => none
  | .endComplete _ => none
  | .nodeEnd _ => none
  | .contextKill _ => none
  | .restoreGateRelease _ => none
  | .commandStart _ _ => none
  | .ktileIntake _ _ _ => none
  | .accumulatorRowFinal _ _ => none
  | .commandPerform _ _ => none
  | .copyBatchLand _ _ _ => none
  | .copyTimeout _ _ => none
  | .detContributionAccept _ _ => none
  | .collectiveExchange _ _ _ => none
  | .sourceFenced _ _ => none
  | .segmentRollback _ => none
  | .budgetOverrun _ => none
  | .partitionPeriodStart _ => none
  | .epilogueStop _ => none
  | .drainBoundExpiry _ => none
  | .coreGovernorWindowEnd _ => none
  | .plainGovernorWindowEnd _ _ => none
  | .energyWindowEnd _ => none
  | .usageRecordEmit _ => none
  | .ctxsaveDone _ => none
  | .ctxloadDone _ => none
  | .partitionCreateDone _ => none
  | .partitionStopDone _ => none
  | .partitionDestroyDone _ => none
  | .zeroDone _ => none
  | .retirementRecord _ => none
  | .signedRecordDone _ => none
  | .heartbeatSend _ => none
  | .heartbeatReceive _ _ _ => none
  | .heartbeatPeriodEnd _ => none
  | .flitWindowEnd _ _ _ => none
  | .accusationReceive _ _ _ => none
  | .withdrawalReceive _ _ _ => none
  | .fenceNoticeReceive _ _ => none
  | .readmissionReceive _ _ => none
  | .bistResult _ _ => none
  | .leasePlacement _ => none
  | .leaseWithdrawal _ => none
  | .patternEnd _ _ _ => none
  | .scoreHalving => none
  | .powerOnReset => none
  | .selfTest _ _ _ _ => none
  | .powerToken _ => none
  | .tokenLeaseExpiry => none
  | .hbmThermalMeasurement _ _ => none
  | .dieThermalMeasurement _ _ => none
  | .hostWrite _ _ _ => none
  | .hostRead _ _ _ => none
  | .winbase _ _ _ => none
  | .status _ _ => none
  | .spdmRequest _ _ => none
  | .tdispRequest _ _ => none
  | .flitReceive _ _ => none
  | .nakReceive _ _ => none
  | .unreachableNack _ _ => none
  | .instructionFetch _ _ => none
  | .longSeriesOperationLand _ _ => none
  | .tlbinvRemovalEnd _ => none
  | .linkTraining _ _ => none

/-- The slot an instruction issues in; an event has none. -/
def Instr.slot (i : Instr) : Option Slot :=
  match i with
  | .nopF => some .f
  | .prep _ => some .f
  | .prepm _ => some .f
  | .bt _ => some .f
  | .j _ => some .f
  | .call _ => some .f
  | .ret _ => some .f
  | .loop _ => some .f
  | .setlc _ => some .f
  | .spl _ => some .f
  | .wait _ => some .f
  | .post _ => some .f
  | .postr _ => some .f
  | .tlw _ => some .f
  | .bbset _ => some .f
  | .bbwait _ => some .f
  | .ridge _ => some .f
  | .seg _ => some .f
  | .rdv _ => some .f
  | .trap _ => some .f
  | .rtt _ => some .f
  | .endF _ => some .f
  | .yield _ => some .f
  | .drain _ => some .f
  | .drainE _ => some .f
  | .clkdiv _ => some .f
  | .launch _ => some .f
  | .send _ => some .f
  | .getmF _ => some .f
  | .epi _ => some .f
  | .wdog _ => some .f
  | .hbeat _ => some .f
  | .capq _ => some .f
  | .pitchq _ => some .f
  | .sleep _ => some .f
  | .brk _ => some .f
  | .scalarNop => some .s
  | .add _ => some .s
  | .sub _ => some .s
  | .addi _ => some .s
  | .movi _ => some .s
  | .movhi _ => some .s
  | .mul _ => some .s
  | .mulh _ => some .s
  | .mulhu _ => some .s
  | .div _ => some .s
  | .divu _ => some .s
  | .rem _ => some .s
  | .remu _ => some .s
  | .and _ => some .s
  | .or _ => some .s
  | .xor _ => some .s
  | .andn _ => some .s
  | .not _ => some .s
  | .shl _ => some .s
  | .shr _ => some .s
  | .sar _ => some .s
  | .rot _ => some .s
  | .fsh _ => some .s
  | .bfx _ => some .s
  | .bfxs _ => some .s
  | .bfi _ => some .s
  | .clz _ => some .s
  | .ctz _ => some .s
  | .popc _ => some .s
  | .min _ => some .s
  | .max _ => some .s
  | .minu _ => some .s
  | .maxu _ => some .s
  | .sel _ => some .s
  | .cmpeq _ => some .s
  | .cmpne _ => some .s
  | .cmplt _ => some .s
  | .cmple _ => some .s
  | .cmpltu _ => some .s
  | .cmpleu _ => some .s
  | .cmpi _ => some .s
  | .pand _ => some .s
  | .por _ => some .s
  | .pxor _ => some .s
  | .pnot _ => some .s
  | .pmov _ => some .s
  | .fadd _ => some .s
  | .fsub _ => some .s
  | .fmul _ => some .s
  | .fma _ => some .s
  | .fdiv _ => some .s
  | .fsqrt _ => some .s
  | .fcvt _ => some .s
  | .fcmp _ => some .s
  | .fmin _ => some .s
  | .fmax _ => some .s
  | .ld _ => some .s
  | .lds _ => some .s
  | .st _ => some .s
  | .ldl _ => some .s
  | .invl _ => some .s
  | .fll1 _ => some .s
  | .aadd _ => some .s
  | .axchg _ => some .s
  | .acas _ => some .s
  | .amin _ => some .s
  | .amax _ => some .s
  | .aand _ => some .s
  | .aor _ => some .s
  | .afadd _ => some .s
  | .scalarGetm _ => some .s
  | .scalarPutm _ => some .s
  | .scalarXfer _ => some .s
  | .mfs _ => some .s
  | .mts _ => some .s
  | .tlbinvPage _ => some .s
  | .tlbinvRange _ => some .s
  | .tlbinvAll _ => some .s
  | .tlbsync _ => some .s
  | .ctxsave _ => some .s
  | .ctxload _ => some .s
  | .ctxkill _ => some .s
  | .partsetCreate _ => some .s
  | .partsetUpdate _ => some .s
  | .partsetStop _ => some .s
  | .partsetDestroy _ => some .s
  | .wayset _ => some .s
  | .zeroMem _ => some .s
  | .zeroBanks _ => some .s
  | .zeroCarr _ => some .s
  | .zeroL2 _ => some .s
  | .lease _ => some .s
  | .unlease _ => some .s
  | .score _ => some .s
  | .scoreAdd _ => some .s
  | .retire _ => some .s
  | .retireForce _ => some .s
  | .fenceq _ => some .s
  | .appeal _ => some .s
  | .appealBar _ => some .s
  | .meter _ => some .s
  | .signqUsage _ => some .s
  | .signqRetired _ => some .s
  | .signqQuote _ => some .s
  | .powqPkg _ => some .s
  | .powqCore _ => some .s
  | .powqGrant _ => some .s
  | .injOff _ => some .s
  | .injOn _ => some .s
  | .injPoison _ => some .s
  | .vectorNop u => some (match u with | .a => .a | .b => .b)
  | .vadd u _ => some (match u with | .a => .a | .b => .b)
  | .vsub u _ => some (match u with | .a => .a | .b => .b)
  | .vmul u _ => some (match u with | .a => .a | .b => .b)
  | .vfma u _ => some (match u with | .a => .a | .b => .b)
  | .vfms u _ => some (match u with | .a => .a | .b => .b)
  | .vmin u _ => some (match u with | .a => .a | .b => .b)
  | .vmax u _ => some (match u with | .a => .a | .b => .b)
  | .vabs u _ => some (match u with | .a => .a | .b => .b)
  | .vneg u _ => some (match u with | .a => .a | .b => .b)
  | .vrcp u _ => some (match u with | .a => .a | .b => .b)
  | .vrsq u _ => some (match u with | .a => .a | .b => .b)
  | .vexp2 u _ => some (match u with | .a => .a | .b => .b)
  | .vlog2 u _ => some (match u with | .a => .a | .b => .b)
  | .vdiv u _ => some (match u with | .a => .a | .b => .b)
  | .vcmpeq u _ => some (match u with | .a => .a | .b => .b)
  | .vcmpne u _ => some (match u with | .a => .a | .b => .b)
  | .vcmplt u _ => some (match u with | .a => .a | .b => .b)
  | .vcmple u _ => some (match u with | .a => .a | .b => .b)
  | .vsel u _ => some (match u with | .a => .a | .b => .b)
  | .vand u _ => some (match u with | .a => .a | .b => .b)
  | .vor u _ => some (match u with | .a => .a | .b => .b)
  | .vxor u _ => some (match u with | .a => .a | .b => .b)
  | .vandn u _ => some (match u with | .a => .a | .b => .b)
  | .vshl u _ => some (match u with | .a => .a | .b => .b)
  | .vshr u _ => some (match u with | .a => .a | .b => .b)
  | .vsar u _ => some (match u with | .a => .a | .b => .b)
  | .vbfx u _ => some (match u with | .a => .a | .b => .b)
  | .vbfi u _ => some (match u with | .a => .a | .b => .b)
  | .vfsh u _ => some (match u with | .a => .a | .b => .b)
  | .vpopc u _ => some (match u with | .a => .a | .b => .b)
  | .vclz u _ => some (match u with | .a => .a | .b => .b)
  | .vcvt u _ => some (match u with | .a => .a | .b => .b)
  | .vpack u _ => some (match u with | .a => .a | .b => .b)
  | .vunpack u _ => some (match u with | .a => .a | .b => .b)
  | .vperm u _ => some (match u with | .a => .a | .b => .b)
  | .vbcast u _ => some (match u with | .a => .a | .b => .b)
  | .vslide u _ => some (match u with | .a => .a | .b => .b)
  | .viota u _ => some (match u with | .a => .a | .b => .b)
  | .viotaRand u _ => some (match u with | .a => .a | .b => .b)
  | .vredadd u _ => some (match u with | .a => .a | .b => .b)
  | .vredmax u _ => some (match u with | .a => .a | .b => .b)
  | .vscan u _ => some (match u with | .a => .a | .b => .b)
  | .vld u _ => some (match u with | .a => .a | .b => .b)
  | .vst u _ => some (match u with | .a => .a | .b => .b)
  | .vlds u _ => some (match u with | .a => .a | .b => .b)
  | .vsts u _ => some (match u with | .a => .a | .b => .b)
  | .vgath u _ => some (match u with | .a => .a | .b => .b)
  | .vscat u _ => some (match u with | .a => .a | .b => .b)
  | .vtbl u _ => some (match u with | .a => .a | .b => .b)
  | .vaadd u _ => some (match u with | .a => .a | .b => .b)
  | .vafadd u _ => some (match u with | .a => .a | .b => .b)
  | .vectorGetm u _ => some (match u with | .a => .a | .b => .b)
  | .vectorPutm u _ => some (match u with | .a => .a | .b => .b)
  | .vectorXfer u _ => some (match u with | .a => .a | .b => .b)
  | .vmovs u _ => some (match u with | .a => .a | .b => .b)
  | .vpmovToPredicate u _ => some (match u with | .a => .a | .b => .b)
  | .vpmovFromPredicate u _ => some (match u with | .a => .a | .b => .b)
  | .vefclr u _ => some (match u with | .a => .a | .b => .b)
  | .vefget u _ => some (match u with | .a => .a | .b => .b)
  | .vefput u _ => some (match u with | .a => .a | .b => .b)
  | .vfmtset u _ => some (match u with | .a => .a | .b => .b)
  | .xclr _ => some .b
  | .xseto _ => some .b
  | .xform _ => some .b
  | .xm2m _ => some .b
  | .xm2l _ => some .b
  | .xl2l _ => some .b
  | .xeval _ => some .b
  | .xadm _ => some .b
  | .xadd _ => some .b
  | .xld _ => some .b
  | .xst _ => some .b
  | .xnorm _ => some .b
  | .xget _ => some .b
  | .matrixNop => some .m
  | .mdset _ => some .m
  | .mdget _ => some .m
  | .mldt _ => some .m
  | .mstz _ => some .m
  | .mstzTag _ => some .m
  | .mma _ => some .m
  | .mmaz _ => some .m
  | .mnest _ => some .m
  | .mnestz _ => some .m
  | .mzero _ => some .m
  | .mtr _ => some .m
  | .mrdz _ => some .m
  | .mwm _ => some .m
  | .mchk _ => some .m
  | .mchkz _ => some .m
  | .mres _ => some .m
  | .mfix _ => some .m
  | .mmir _ => some .m
  | .minj _ => some .m
  | .mtag _ => some .m
  | .mcvt _ => some .m
  | .mbias _ => some .m
  | .mactRelu _ => some .m
  | .mactAbs _ => some .m
  | .mactScale _ => some .m
  | .mpitch _ => some .m
  | .matrixGetm _ => some .m
  | .matrixPutm _ => some .m
  | .matrixXfer _ => some .m
  | .copyNop e => some (match e with | .c => .c | .d => .d)
  | .cdsetImmediate e _ => some (match e with | .c => .c | .d => .d)
  | .cdsetRegister e _ => some (match e with | .c => .c | .d => .d)
  | .cdget e _ => some (match e with | .c => .c | .d => .d)
  | .cpy e _ => some (match e with | .c => .c | .d => .d)
  | .cpyb e _ => some (match e with | .c => .c | .d => .d)
  | .cpyt e _ => some (match e with | .c => .c | .d => .d)
  | .cgath e _ => some (match e with | .c => .c | .d => .d)
  | .cscat e _ => some (match e with | .c => .c | .d => .d)
  | .czero e _ => some (match e with | .c => .c | .d => .d)
  | .cfill e _ => some (match e with | .c => .c | .d => .d)
  | .cred e _ => some (match e with | .c => .c | .d => .d)
  | .cbcast e _ => some (match e with | .c => .c | .d => .d)
  | .callred e _ => some (match e with | .c => .c | .d => .d)
  | .cdigest e _ => some (match e with | .c => .c | .d => .d)
  | .cpull e _ => some (match e with | .c => .c | .d => .d)
  | .cpost e _ => some (match e with | .c => .c | .d => .d)
  | .chostTo e _ => some (match e with | .c => .c | .d => .d)
  | .chostFrom e _ => some (match e with | .c => .c | .d => .d)
  | .ccarrTo e _ => some (match e with | .c => .c | .d => .d)
  | .ccarrFrom e _ => some (match e with | .c => .c | .d => .d)
  | .ctlr e _ => some (match e with | .c => .c | .d => .d)
  | .cwait e _ => some (match e with | .c => .c | .d => .d)
  | .cfence e _ => some (match e with | .c => .c | .d => .d)
  | .cfenceA e _ => some (match e with | .c => .c | .d => .d)
  | .ccvt e _ => some (match e with | .c => .c | .d => .d)
  | .cpref e _ => some (match e with | .c => .c | .d => .d)
  | .cswp e _ => some (match e with | .c => .c | .d => .d)
  | .copyGetm e _ => some (match e with | .c => .c | .d => .d)
  | .copyPutm e _ => some (match e with | .c => .c | .d => .d)
  | .copyXfer e _ => some (match e with | .c => .c | .d => .d)
  | .bundleCommit _ => none
  | .asynchronousTrap _ => none
  | .fairnessYield _ => none
  | .watchdogExpiry _ => none
  | .sleepEnd _ => none
  | .exposedResultLand _ _ => none
  | .memoryAccessPerform _ _ _ => none
  | .migpullRepost _ _ => none
  | .migrationHoldTimeout _ _ => none
  | .messageDelivery _ => none
  | .remotePostApply _ => none
  | .fencedNack _ => none
  | .ridgeArrival _ => none
  | .ridgeRelease _ => none
  | .endComplete _ => none
  | .nodeEnd _ => none
  | .contextKill _ => none
  | .restoreGateRelease _ => none
  | .commandStart _ _ => none
  | .ktileIntake _ _ _ => none
  | .accumulatorRowFinal _ _ => none
  | .commandPerform _ _ => none
  | .copyBatchLand _ _ _ => none
  | .copyTimeout _ _ => none
  | .detContributionAccept _ _ => none
  | .collectiveExchange _ _ _ => none
  | .sourceFenced _ _ => none
  | .segmentRollback _ => none
  | .budgetOverrun _ => none
  | .partitionPeriodStart _ => none
  | .epilogueStop _ => none
  | .drainBoundExpiry _ => none
  | .coreGovernorWindowEnd _ => none
  | .plainGovernorWindowEnd _ _ => none
  | .energyWindowEnd _ => none
  | .usageRecordEmit _ => none
  | .ctxsaveDone _ => none
  | .ctxloadDone _ => none
  | .partitionCreateDone _ => none
  | .partitionStopDone _ => none
  | .partitionDestroyDone _ => none
  | .zeroDone _ => none
  | .retirementRecord _ => none
  | .signedRecordDone _ => none
  | .heartbeatSend _ => none
  | .heartbeatReceive _ _ _ => none
  | .heartbeatPeriodEnd _ => none
  | .flitWindowEnd _ _ _ => none
  | .accusationReceive _ _ _ => none
  | .withdrawalReceive _ _ _ => none
  | .fenceNoticeReceive _ _ => none
  | .readmissionReceive _ _ => none
  | .bistResult _ _ => none
  | .leasePlacement _ => none
  | .leaseWithdrawal _ => none
  | .patternEnd _ _ _ => none
  | .scoreHalving => none
  | .powerOnReset => none
  | .selfTest _ _ _ _ => none
  | .powerToken _ => none
  | .tokenLeaseExpiry => none
  | .hbmThermalMeasurement _ _ => none
  | .dieThermalMeasurement _ _ => none
  | .hostWrite _ _ _ => none
  | .hostRead _ _ _ => none
  | .winbase _ _ _ => none
  | .status _ _ => none
  | .spdmRequest _ _ => none
  | .tdispRequest _ _ => none
  | .flitReceive _ _ => none
  | .nakReceive _ _ => none
  | .unreachableNack _ _ => none
  | .instructionFetch _ _ => none
  | .longSeriesOperationLand _ _ => none
  | .tlbinvRemovalEnd _ => none
  | .linkTraining _ _ => none

/-- The opcode table numbers one slot word and does not say of which slot; the first slot that takes the word, in the
order flow, scalar, vector, series, matrix, copy, gives the instruction (a vector word as slot a's, a copy word as
slot c's). -/
def tableSlot (n : Nat) : Option Slot :=
  if (decodeOpt .f n).isSome then some .f
  else if (decodeOpt .s n).isSome then some .s
  else if (decodeOpt .a n).isSome then some .a
  else if (decodeOpt .b n).isSome then some .b
  else if (decodeOpt .m n).isSome then some .m
  else if (decodeOpt .c n).isSome then some .c
  else none

def decodeTableWord (nbits w : Nat) : Option Instr :=
  if nbits ≤ 32 ∧ w < 2 ^ nbits then (tableSlot w).bind fun sl => decodeOpt sl w else none

end
end Sys2Proof
end

