-- ==== Sys2Proof/Machine/Float.lean ====
section
/-!
DEFINITION. Machine/Float.lean: number formats and rounding (04: R52-R80). Values are computed exactly and rounded once:
a finite value is ±m × 2^e, and an operation that cannot be exact keeps enough bits and an odd last bit for the rest.
-/
namespace Sys2Proof.Machine

/-- A value of a floating-point format: `fin s m e` is (-1)^s × m × 2^e, a zero when m = 0. -/
inductive FVal where
  | nan | inf (s : Bool) | fin (s : Bool) (m : Nat) (e : Int)
deriving DecidableEq, Repr

/-- A floating-point format (R57, R65): sign bit, exponent and fraction bits, bias, NaN policy, infinity, and whether
overflow gives infinity. -/
structure Fmt where
  sgn : Bool
  eb : Nat
  mb : Nat
  bias : Int
  nanp : Nat
  inf : Bool
  ovf : Bool
deriving DecidableEq, Repr

def fp64 : Fmt := ⟨true, 11, 52, 1023, 2, true, true⟩
def fp32 : Fmt := ⟨true, 8, 23, 127, 2, true, true⟩
def fp16 : Fmt := ⟨true, 5, 10, 15, 2, true, true⟩
def bf16 : Fmt := ⟨true, 8, 7, 127, 2, true, true⟩

/-- The fields of a format register (Table 4-3). -/
def fmtWidth (r : BitVec 32) : Nat := bitsOf r.toNat 0 4
def fmtBS (r : BitVec 32) : Bool := r.getLsbD 25
def miniFmt (r : BitVec 32) : Fmt :=
  let n := r.toNat
  let sg := bitsOf n 20 1
  let b : Int := bitsOf n 12 8
  ⟨sg == 1, bitsOf n 8 4, fmtWidth r - sg - bitsOf n 8 4, if b < 128 then b else b - 256, bitsOf n 22 2, bitsOf n 21 1 == 1,
    bitsOf n 24 1 == 1⟩

/-- R63: whether a format register may hold `r`. -/
def fmtLegal (r : BitVec 32) : Bool :=
  let n := r.toNat
  let w := fmtWidth r
  let sg := bitsOf n 20 1
  let ex := bitsOf n 8 4
  let np := bitsOf n 22 2
  let inf := bitsOf n 21 1
  bitsOf n 26 6 == 0 && bitsOf n 4 4 == 0 && decide (2 ≤ w) && decide (w ≤ 8) && decide (1 ≤ ex) && decide (ex ≤ w - sg) &&
    np != 3 && (inf == 1) == (np == 2) && !(np == 2 && w - sg - ex == 0) && !(bitsOf n 24 1 == 1 && inf == 0)

def Fmt.allOnes (F : Fmt) : Nat := 2 ^ (F.eb + F.mb) - 1
/-- The code of the largest finite magnitude (R65). -/
def Fmt.maxMag (F : Fmt) : Nat :=
  match F.nanp with
  | 0 => F.allOnes
  | 1 => F.allOnes - 1
  | _ => (2 ^ F.eb - 1) * 2 ^ F.mb - 1
def Fmt.signBit (F : Fmt) (s : Bool) : Nat := if s && F.sgn then 2 ^ (F.eb + F.mb) else 0
def Fmt.infCode (F : Fmt) (s : Bool) : Nat := F.signBit s + (2 ^ F.eb - 1) * 2 ^ F.mb
/-- The canonical NaN (R57, R66). -/
def Fmt.nanCode (F : Fmt) : Nat :=
  match F.nanp with
  | 0 => 0
  | 1 => F.allOnes
  | _ => (2 ^ F.eb - 1) * 2 ^ F.mb + 2 ^ (F.mb - 1)

/-- The value of a magnitude code with a sign. -/
def Fmt.magVal (F : Fmt) (s : Bool) (mag : Nat) : FVal :=
  let E := mag / 2 ^ F.mb
  let f := mag % 2 ^ F.mb
  if F.nanp = 1 ∧ mag = F.allOnes then .nan
  else if F.nanp = 2 ∧ E = 2 ^ F.eb - 1 then (if f = 0 then .inf s else .nan)
  else if E = 0 then .fin s f (1 - F.bias - F.mb)
  else .fin s (2 ^ F.mb + f) ((E : Int) - F.bias - F.mb)

/-- The value of a code (R57, R65). -/
def Fmt.read (F : Fmt) (c : Nat) : FVal :=
  F.magVal (F.sgn && c / 2 ^ (F.eb + F.mb) % 2 == 1) (c % 2 ^ (F.eb + F.mb))

structure FFlags where
  nv : Bool := false
  dz : Bool := false
  of : Bool := false
  uf : Bool := false
  nx : Bool := false
deriving DecidableEq, Repr

/-- m × 2^e rounded to an integer multiple of 2^q, in units of 2^q, by a mode and the value's sign; and whether exactly.
DESIGN CHOICE: a tie of RNE (R72) is judged by the significand with its hidden bit, so that in a minifloat with M = 0 a tie between
two normal values rounds up in magnitude. R72 speaks of the least significant bit, and such a significand has no other. -/
def roundTo (s : Bool) (m : Nat) (e q : Int) (r : Rnd) : Nat × Bool :=
  if q ≤ e then (m * 2 ^ (e - q).toNat, true)
  else
    let k := (q - e).toNat
    let t := m / 2 ^ k
    let rem := m % 2 ^ k
    if rem = 0 then (t, true)
    else
      let up : Bool := match r with
        | .rne => decide (2 ^ k < 2 * rem) || (2 * rem == 2 ^ k && t % 2 == 1)
        | .rz => false
        | .rdn => s
        | .rup => !s
      (if up then t + 1 else t, false)

/-- Overflow (R73, Table 4-8). -/
def Fmt.overflow (F : Fmt) (s : Bool) (r : Rnd) : Nat :=
  let toInf := match r with
    | .rne => true
    | .rz => false
    | .rdn => s
    | .rup => !s
  if F.ovf && toInf then F.infCode s else F.signBit s + F.maxMag

/-- A value below the normal range, its leading bit at `top`, overflows: rounded with unbounded exponent range it exceeds the largest
finite value, as it can where that value is itself subnormal (R73). -/
def Fmt.lowOverflow (F : Fmt) (s : Bool) (m : Nat) (e top : Int) (r : Rnd) : Bool :=
  let emin : Int := 1 - F.bias
  decide (top < emin) && decide (F.maxMag < 2 ^ F.mb) && decide (F.maxMag * 2 ^ (emin - top).toNat < (roundTo s m e (top - F.mb) r).1)

/-- `round(x, F, m)` of Table 4-9, with the flags of R61. -/
def Fmt.roundF (F : Fmt) (x : FVal) (r : Rnd) : Nat × FFlags :=
  match x with
  | .nan => (F.nanCode, {})
  | .inf s => if s && !F.sgn then (0, {}) else (if F.inf then F.infCode s else F.signBit s + F.maxMag, {})
  | .fin s m e =>
    if s && !F.sgn then (0, {})
    else if m = 0 then (F.signBit s, {})
    else
      let top : Int := e + Nat.log2 m
      let emin : Int := 1 - F.bias
      let lead := if top < emin then emin else top
      let (M, ex) := roundTo s m e (lead - F.mb) r
      let code := (lead - emin).toNat * 2 ^ F.mb + M
      if code > F.maxMag || F.lowOverflow s m e top r then (F.overflow s r, { of := true, nx := true })
      else
        let tiny := decide (top < emin) && decide ((roundTo s m e (top - F.mb) r).1 < 2 ^ (F.mb + 1) ∨ top < emin - 1)
        (F.signBit s + code, { uf := tiny && !ex, nx := !ex })

def Fmt.round (F : Fmt) (x : FVal) (r : Rnd) : Nat := (F.roundF x r).1

def FVal.neg : FVal → FVal
  | .nan => .nan
  | .inf s => .inf !s
  | .fin s m e => .fin (!s) m e

def FVal.isNan : FVal → Bool
  | .nan => true
  | _ => false
def FVal.isFin : FVal → Bool
  | .fin _ _ _ => true
  | _ => false

/-- The signed integer that a finite value is of 2^g, when g is at most its exponent. -/
def scaled (s : Bool) (m : Nat) (e g : Int) : Int :=
  let v : Int := (m * 2 ^ (e - g).toNat : Nat)
  if s then -v else v

def ofInt (i : Int) (e : Int) (zeroNeg : Bool) : FVal :=
  if i = 0 then .fin zeroNeg 0 e else .fin (decide (i < 0)) i.natAbs e

/-- The exact sum of two values (R60), with the sign of an exact zero sum by mode. -/
def FVal.add (x y : FVal) (r : Rnd) : FVal :=
  match x, y with
  | .nan, _ => .nan
  | _, .nan => .nan
  | .inf s, .inf t => if s = t then .inf s else .nan
  | .inf s, .fin _ _ _ => .inf s
  | .fin _ _ _, .inf t => .inf t
  | .fin s m e, .fin t n f =>
    let g := min e f
    let z := if m = 0 ∧ n = 0 ∧ s = t then s else decide (r = .rdn)
    ofInt (scaled s m e g + scaled t n f g) g z

/-- The exact product (R60). -/
def FVal.mul (x y : FVal) : FVal :=
  match x, y with
  | .nan, _ => .nan
  | _, .nan => .nan
  | .inf s, .inf t => .inf (s != t)
  | .inf s, .fin t n _ => if n = 0 then .nan else .inf (s != t)
  | .fin s m _, .inf t => if m = 0 then .nan else .inf (s != t)
  | .fin s m e, .fin t n f => .fin (s != t) (m * n) (e + f)

/-- The quotient, exact or with an odd last bit far below any format's precision (R60). -/
def FVal.div (x y : FVal) : FVal :=
  match x, y with
  | .nan, _ => .nan
  | _, .nan => .nan
  | .inf _, .inf _ => .nan
  | .inf s, .fin t _ _ => .inf (s != t)
  | .fin s _ _, .inf t => .fin (s != t) 0 0
  | .fin s m e, .fin t n f =>
    if n = 0 then (if m = 0 then .nan else .inf (s != t))
    else
      let k := Nat.log2 n + 130
      let q := m * 2 ^ k / n
      let st := if m * 2 ^ k % n = 0 then 0 else 1
      .fin (s != t) (q * 2 + st) (e - f - k - 1)

/-- Integer square root, one bit a step from bit `i` - 1 down. -/
def isqrtFrom (n : Nat) : Nat → Nat → Nat
  | 0, r => r
  | i + 1, r => isqrtFrom n i (if (r + 2 ^ i) * (r + 2 ^ i) ≤ n then r + 2 ^ i else r)
def isqrt (n : Nat) : Nat := isqrtFrom n (Nat.log2 n / 2 + 1) 0

/-- The square root (R60); the root of -0 is -0. -/
def FVal.sqrt (x : FVal) : FVal :=
  match x with
  | .nan => .nan
  | .inf s => if s then .nan else .inf false
  | .fin s m e =>
    if m = 0 then .fin s 0 e
    else if s then .nan
    else
      let odd := e % 2 ≠ 0
      let n := (if odd then 2 * m else m) * 2 ^ 240
      let h := ((if odd then e - 1 else e) - 240) / 2
      let q := isqrt n
      .fin false (q * 2 + (if q * q = n then 0 else 1)) (h - 1)

/-- 1 / √x (R165). -/
def FVal.rsqrt (x : FVal) : FVal :=
  match x with
  | .nan => .nan
  | .inf s => if s then .nan else .fin false 0 0
  | .fin s m e =>
    if m = 0 then .inf s
    else if s then .nan
    else
      let odd := e % 2 ≠ 0
      let n := if odd then 2 * m else m
      let h := (if odd then e - 1 else e) / 2
      let k := Nat.log2 n + 140
      let q := isqrt (2 ^ (2 * k) / n)
      .fin false (q * 2 + (if q * q * n = 2 ^ (2 * k) then 0 else 1)) (-h - k - 1)

/-- Fraction bits kept by the function instructions; enough for one correct rounding into FP32 (R165). -/
def fnBits : Nat := 256

/-- ∏ of 2^(2^-i) over the set bits of a fraction of `k` bits, top bit first, in units of 2^-fnBits;
`c` is 2^(2^-i) for the bit at hand. -/
def expFrac (f : Nat) : Nat → Nat → Nat → Nat
  | 0, _, acc => acc
  | k + 1, c, acc =>
    expFrac f k (isqrt (c * 2 ^ fnBits)) (if f / 2 ^ k % 2 = 1 then acc * c / 2 ^ fnBits else acc)

/-- 2^x (R165). -/
def FVal.exp2 (x : FVal) : FVal :=
  match x with
  | .nan => .nan
  | .inf s => if s then .fin false 0 0 else .inf false
  | .fin s m e =>
    if m = 0 then .fin false 1 0
    else
      let top := e + Nat.log2 m
      if 12 ≤ top then .fin false 1 (if s then -8000 else 8000)
      else if top < -60 then .fin false (if s then 2 ^ 80 - 1 else 2 ^ 80 + 1) (-80)
      else if 0 ≤ e then
        let v : Int := (m * 2 ^ e.toNat : Nat)
        .fin false 1 (if s then -v else v)
      else
        let k := (-e).toNat
        let ip : Int := (m / 2 ^ k : Nat)
        let f := m % 2 ^ k
        let (ip, f) := if s then (if f = 0 then (-ip, 0) else (-ip - 1, 2 ^ k - f)) else (ip, f)
        if f = 0 then .fin false 1 ip
        else .fin false (expFrac f k (isqrt (2 ^ (2 * fnBits + 1))) (2 ^ fnBits) * 2 + 1) (ip - fnBits - 1)

/-- Bits of log2 z for z in [1, 2) given in units of 2^-fnBits, by repeated squaring (R165). -/
def logFrac : Nat → Nat → Nat → Nat
  | 0, _, acc => acc
  | k + 1, z, acc =>
    let y := z * z / 2 ^ fnBits
    if 2 ^ (fnBits + 1) ≤ y then logFrac k (y / 2) (acc * 2 + 1) else logFrac k y (acc * 2)

/-- log2 x (R165). -/
def FVal.log2 (x : FVal) : FVal :=
  match x with
  | .nan => .nan
  | .inf s => if s then .nan else .inf false
  | .fin s m e =>
    if m = 0 then .inf true
    else if s then .nan
    else
      let l := Nat.log2 m
      let ip : Int := e + l
      if m = 2 ^ l then ofInt ip 0 false
      else
        let f := logFrac 110 (m * 2 ^ fnBits / 2 ^ l) 0
        ofInt (ip * 2 ^ 111 + f * 2 + 1) (-111) false

/-- Ordered comparison; `none` is unordered (R60). -/
def FVal.cmp (x y : FVal) : Option Ordering :=
  let key : FVal → FVal → Int := fun a b =>
    match a, b with
    | .inf s, _ => if s then -(2 ^ 5000) else 2 ^ 5000
    | .fin s m e, .fin _ _ f => scaled s m e (min e f)
    | .fin _ _ _, .inf _ => 0
    | _, _ => 0
  match x, y with
  | .nan, _ => none
  | _, .nan => none
  | a, b => let i := key a b; let j := key b a
            some (if i < j then .lt else if i = j then .eq else .gt)

/-- The sign with which minimum and maximum order zeros (R60: -0 below +0). -/
def FVal.sgn : FVal → Bool
  | .nan => false
  | .inf s => s
  | .fin s _ _ => s

def FVal.min (x y : FVal) : FVal :=
  match x.cmp y with
  | none => if x.isNan then y else x
  | some .lt => x
  | some .gt => y
  | some .eq => if x.sgn then x else y
def FVal.max (x y : FVal) : FVal :=
  match x.cmp y with
  | none => if x.isNan then y else x
  | some .lt => y
  | some .gt => x
  | some .eq => if x.sgn then y else x

/-- `exact_sum` of Table 4-9. -/
structure SumAcc where
  nan : Bool
  pos : Bool
  neg : Bool
  allNegZero : Bool
  i : Int
  e : Int
def SumAcc.start : SumAcc := ⟨false, false, false, true, 0, 0⟩
def SumAcc.step (a : SumAcc) (x : FVal) : SumAcc :=
  match x with
  | .nan => { a with nan := true, allNegZero := false }
  | .inf s => { a with pos := a.pos || !s, neg := a.neg || s, allNegZero := false }
  | .fin s m e =>
    let z := a.allNegZero && s && m == 0
    if m = 0 then { a with allNegZero := z }
    else if a.i = 0 then { a with i := scaled s m e e, e := e, allNegZero := z }
    else
      let g := if e < a.e then e else a.e
      { a with i := a.i * 2 ^ (a.e - g).toNat + scaled s m e g, e := g, allNegZero := z }
def SumAcc.val (a : SumAcc) : FVal :=
  if a.nan || (a.pos && a.neg) then .nan
  else if a.pos then .inf false
  else if a.neg then .inf true
  else ofInt a.i a.e a.allNegZero
def exactSum (l : List FVal) : FVal := (l.foldl SumAcc.step SumAcc.start).val

/-! FP32 codes as 32-bit numbers. -/
def f32 (c : Nat) : FVal := fp32.read (c % 2 ^ 32)
/-- `round_ne(x)` (R75). -/
def rne (x : FVal) : Nat := fp32.round x .rne
def fadd32 (a b : Nat) : Nat := rne ((f32 a).add (f32 b) .rne)
def fsub32 (a b : Nat) : Nat := rne ((f32 a).add (f32 b).neg .rne)
def fmul32 (a b : Nat) : Nat := rne ((f32 a).mul (f32 b))
def fdiv32 (a b : Nat) : Nat := rne ((f32 a).div (f32 b))
def fsqrt32 (a : Nat) : Nat := rne (f32 a).sqrt
def fneg32 (a : Nat) : Nat := rne (f32 a).neg
def fma32 (a b c : Nat) (r : Rnd) : Nat := fp32.round (((f32 a).mul (f32 b)).add (f32 c) r) r
def f32OfNat (n : Nat) : Nat := rne (.fin false n 0)
def nan32 : Nat := 0x7FC00000

/-- A residue as FP32: a difference beyond the format leaves a free finite value (R74). -/
def efResidue (d : FVal) (y res : Nat) : Nat :=
  let v := rne d
  if (f32 v).isFin then v
  else
    let w := (Config.wideResidue y res).toNat
    w / 2 ^ 31 * 2 ^ 31 + w % 0x7F800000
/-- `round_ef` (R74, Table 4-9): the result and the new residue; the residue is an FP32 code. In a format that saturates, an
infinite sum gives the largest finite value. -/
def Fmt.roundEf (F : Fmt) (x : FVal) (res : Nat) : Nat × Nat :=
  if x.isNan then (F.nanCode, 0)
  else
    let s := x.add (f32 res) .rne
    let y := match s with
      | .inf g => if !F.ovf && (F.sgn || !g) then F.signBit g + F.maxMag else F.round s .rne
      | _ => F.round s .rne
    let yv := F.read y
    (y, if s.isFin && yv.isFin then efResidue (s.add yv.neg .rne) y res else 0)

/-! Integers. -/
def toSigned (w n : Nat) : Int := if n % 2 ^ w < 2 ^ (w - 1) then (n % 2 ^ w : Nat) else ((n % 2 ^ w : Nat) : Int) - 2 ^ w
def ofSigned (w : Nat) (i : Int) : Nat := (i % (2 ^ w : Int)).toNat
/-- Saturation to the range of a `w`-bit integer format (R56). -/
def saturate (w : Nat) (signed : Bool) (i : Int) : Int :=
  let lo : Int := if signed then -(2 ^ (w - 1) : Int) else 0
  let hi : Int := if signed then 2 ^ (w - 1) - 1 else 2 ^ w - 1
  if i < lo then lo else if hi < i then hi else i

/-- The integer nearest to a finite value by a mode. -/
def FVal.toInt (x : FVal) (r : Rnd) : Int × Bool :=
  match x with
  | .fin s m e => let (t, ex) := roundTo s m e 0 r
                  (if s then -(t : Int) else t, ex)
  | _ => (0, true)

/-- Format codes of Table 4-1. -/
def codeWidth (c : Nat) : Nat :=
  match c with
  | 0 => 8 | 1 => 8 | 2 => 16 | 3 => 16 | 4 => 32 | 5 => 32 | 6 => 64 | 7 => 64
  | 8 => 16 | 9 => 16 | 10 => 32 | 11 => 64 | 12 => 16 | 13 => 8 | 14 => 4 | _ => 8
def codeInt (c : Nat) : Bool := decide (c < 8)
def codeSigned (c : Nat) : Bool := decide (c < 8) && c % 2 == 0
/-- The floating-point format of codes 8-11, or of a format register for code 15. -/
def codeFmt (c : Nat) (reg : BitVec 32) : Fmt :=
  match c with
  | 8 => fp16
  | 9 => bf16
  | 10 => fp32
  | 11 => fp64
  | _ => miniFmt reg

/-- The value that `w` low bits of a code name, under format code `c`. -/
def codeRead (c : Nat) (reg : BitVec 32) (v : Nat) : FVal :=
  if codeInt c then
    let w := codeWidth c
    let i := if codeSigned c then toSigned w v else ((v % 2 ^ w : Nat) : Int)
    ofInt i 0 false
  else (codeFmt c reg).read (v % 2 ^ (let F := codeFmt c reg; F.eb + F.mb + (if F.sgn then 1 else 0)))

/-- Conversion of a value into format code `c` (R56, R60, R66, R73): the code, the flags, and whether an integer saturated
or came from NaN. -/
def codeWrite (c : Nat) (reg : BitVec 32) (x : FVal) (r : Rnd) : Nat × FFlags :=
  if codeInt c then
    let w := codeWidth c
    match x with
    | .nan => (0, { nv := true })
    | .inf s => (ofSigned w (saturate w (codeSigned c) (if s then -(2 ^ 70) else 2 ^ 70)), { nv := true })
    | .fin _ _ _ =>
      let (i, ex) := x.toInt r
      let t := saturate w (codeSigned c) i
      (ofSigned w t, { nv := decide (t ≠ i), nx := decide (t = i) && !ex })
  else (codeFmt c reg).roundF x r

/-! Block scales and ladder blocks (R67-R71). -/

/-- ⌊log2 |x|⌋ of a non-zero finite value. -/
def FVal.exponent : FVal → Int
  | .fin _ m e => e + Nat.log2 m
  | _ => 0
def FVal.scale (x : FVal) (k : Int) : FVal :=
  match x with
  | .fin s m e => .fin s m (e + k)
  | y => y
def FVal.isZero : FVal → Bool
  | .fin _ m _ => m == 0
  | _ => false

/-- The largest exponent of a block's values. -/
def maxExponent (l : List FVal) : Int :=
  l.foldl (fun a x => if x.isZero then a else if a < x.exponent then x.exponent else a) (-100000)
def blockBad (l : List FVal) : Bool := l.any fun x => !x.isFin
def clamp254 (i : Int) : Nat := if i < 0 then 0 else if 254 < i then 254 else i.toNat

/-- R67: the scale code of a block for a minifloat format. -/
def blockScale (F : Fmt) (l : List FVal) : Nat :=
  if blockBad l then 255
  else if l.all FVal.isZero then 0
  else if F.maxMag = 0 then (Config.voidScale F.bias (maxExponent l)).toNat
  else clamp254 (maxExponent l - (F.magVal false F.maxMag).exponent + 127)
/-- R67: the element code of a value under a scale code. -/
def blockElem (F : Fmt) (scale : Nat) (x : FVal) (r : Rnd) : Nat :=
  if scale = 255 then 0 else F.round (x.scale (127 - scale)) r
/-- R67: an element's value under its block's scale. -/
def unscale (scale : Nat) (x : FVal) : FVal := if scale = 255 then .nan else x.scale ((scale : Int) - 127)

/-- Ladder-block offsets and magnitude widths of codes 12, 13, 14 (Table 4-5). -/
def ladBias (code : Nat) : Int := if code = 12 then 141 else if code = 13 then 133 else 129
def ladBits (code : Nat) : Nat := if code = 12 then 15 else if code = 13 then 7 else 3
/-- The value of a ladder-block element: X, sign, magnitude field (R68). -/
def ladRead (code X : Nat) (s : Bool) (m : Nat) : FVal := if X = 255 then .nan else .fin s m ((X : Int) - ladBias code)
/-- R71: the shared exponent of a block. -/
def ladScale (l : List FVal) : Nat :=
  if blockBad l then 255 else if l.all FVal.isZero then 0 else clamp254 (maxExponent l + 127)
/-- R71: sign and magnitude field of an element under X. -/
def ladElem (code X : Nat) (x : FVal) (r : Rnd) : Bool × Nat :=
  if X = 255 then (false, 0)
  else match x with
    | .fin s m e => (s, min (2 ^ ladBits code - 1) (roundTo s m e ((X : Int) - ladBias code) r).1)
    | _ => (false, 0)

/-! Sub-byte storage (R76, Table 4-10). -/
def container (w : Nat) : Nat := if w ≤ 2 then 2 else if w ≤ 4 then 4 else if w ≤ 6 then 6 else if w ≤ 8 then 8 else w
def groupSize (c : Nat) : Nat := if c = 2 then 128 else if c = 4 ∨ c = 6 then 64 else 1
/-- Bit offset of element i of a string of elements of container c. -/
def elemBit (c i : Nat) : Nat :=
  let G := groupSize c
  let j := i % G
  let q := if c = 2 then 16 * (j % 8) + j / 8 else if c = 4 ∨ c = 6 then 8 * (j % 8) + j / 8 else 0
  (i / G) * (G * c) + q * c

/-- The rung of a stored format (R78). -/
def rungOf (code : Nat) (reg : BitVec 32) : Nat :=
  match code with
  | 10 => 0
  | 8 => 1 | 9 => 1 | 12 => 1
  | 13 => 2 | 14 => 3
  | _ => if 5 ≤ fmtWidth reg then 2 else 3

end Sys2Proof.Machine
end

