-- ==== Sys2Proof/Machine/Ops.lean ====
section
/-!
DEFINITION. Machine/Ops.lean: the named operations over tables, memory, registers, queues and time, the performing of
accesses, and taking an exception and returning from one (18: R363-R366; 07: R132).
-/
namespace Sys2Proof.Machine

/-! Tables. -/
def Tbl.find {α : Type} (t : Tbl α) (k : Nat) : Option α :=
  match t with
  | [] => none
  | (j, v) :: r => if j = k then some v else Tbl.find r k
def Tbl.getD {α : Type} (t : Tbl α) (k : Nat) (d : α) : α := (Tbl.find t k).getD d
def Tbl.put {α : Type} (t : Tbl α) (k : Nat) (v : α) : Tbl α :=
  match t with
  | [] => [(k, v)]
  | (j, u) :: r => if k < j then (k, v) :: (j, u) :: r else if k = j then (k, v) :: r else (j, u) :: Tbl.put r k v

/-- Fixed arrays by any number: outside the range reads the default and writes nothing. -/
def vget {α : Type} {n : Nat} (v : Vector α n) (i : Nat) (d : α) : α := if h : i < n then v[i] else d
def vset {α : Type} {n : Nat} (v : Vector α n) (i : Nat) (x : α) : Vector α n := if h : i < n then v.set i x else v

/-! Handles and positions (R13, R15, R261). -/
def isStream (k : Nat) : Bool := decide (4096 ≤ k) && decide (k < 8192)
def isMgmt (k : Nat) : Bool := k == 8192
def isMesh (k : Nat) : Bool := decide (k < 4096)
def mgmtKey : Nat := 8192
def coreOf (k : Nat) : Nat := if k < 4096 then k % 256 else if k < 8192 then 256 + k % 4 else 260
def numOf (k : Nat) : Nat := if k < 4096 then k / 256 else if k < 8192 then (k - 4096) / 256 else 0
def keyOf (core num : Nat) : Nat :=
  if core < 256 then core + 256 * num else if core < 260 then 4096 + (core - 256) + 256 * num else 8192
def ctxCount (core : Nat) : Nat := if core < 256 then 4 else if core < 260 then 16 else 1
def plainOf (core : Nat) : Nat := if core < 256 then core / 64 else if core < 260 then core - 256 else 0
def coreX (core : Nat) : Nat := core % 8
def coreY (core : Nat) : Nat := core / 8 % 8
def glenPos (core : Nat) : Nat := 2 * (coreY core % 2) + coreX core % 2
def glenNum (core : Nat) : Nat := 4 * (coreY core / 2) + coreX core / 2
/-- The core at glen position g of a core's glen. -/
def glenCore (core g : Nat) : Nat :=
  core / 64 * 64 + 8 * (coreY core / 2 * 2 + g / 2) + (coreX core / 2 * 2 + g % 2)
/-- Mesh neighbour n: x + 1, y + 1, x - 1, y - 1 (Table 7-3, R285). -/
def neighbour (core n : Nat) : Option Nat :=
  match n with
  | 0 => if coreX core < 7 then some (core + 1) else none
  | 1 => if coreY core < 7 then some (core + 8) else none
  | 2 => if 0 < coreX core then some (core - 1) else none
  | _ => if 0 < coreY core then some (core - 8) else none

/-! Parts of the state. -/
def State.ctx (s : State) (k : Nat) : Ctx := Tbl.getD s.ctxs k Ctx.zero
def State.setCtx (s : State) (k : Nat) (c : Ctx) : State := { s with ctxs := Tbl.put s.ctxs k c }
def State.modCtx (s : State) (k : Nat) (f : Ctx → Ctx) : State := s.setCtx k (f (s.ctx k))
def State.core (s : State) (c : Nat) : Core := Tbl.getD s.cores c Core.reset
def State.setCore (s : State) (c : Nat) (x : Core) : State := { s with cores := Tbl.put s.cores c x }
def State.modCore (s : State) (c : Nat) (f : Core → Core) : State := s.setCore c (f (s.core c))
def State.part (s : State) (p : Nat) : Part := Tbl.getD s.parts p Part.absent
def State.setPart (s : State) (p : Nat) (x : Part) : State := { s with parts := Tbl.put s.parts p x }
def State.modPart (s : State) (p : Nat) (f : Part → Part) : State := s.setPart p (f (s.part p))
def Node.none : Node :=
  ⟨false, 0, [], 0, 0, 0, 0, false, 0, 1, Option.none, 0, 0, 0, 0, [], Option.none, [], 0, 0, 0, 0, [], false⟩
def State.node (s : State) (n : Nat) : Node := Tbl.getD s.nodes n Node.none
def State.setNode (s : State) (n : Nat) (x : Node) : State := { s with nodes := Tbl.put s.nodes n x }
def State.modNode (s : State) (n : Nat) (f : Node → Node) : State := s.setNode n (f (s.node n))
def State.unit (s : State) (u : Nat) : UnitSt := Tbl.getD s.units u UnitSt.new
def State.modUnit (s : State) (u : Nat) (f : UnitSt → UnitSt) : State := { s with units := Tbl.put s.units u (f (s.unit u)) }
def State.answer (s : State) (a : Answer) : State := { s with answers := a :: s.answers }

def Ctx.modFlow (c : Ctx) (f : FlowRegs → FlowRegs) : Ctx := { c with regs := { c.regs with flow := f c.regs.flow } }
def Ctx.modSys (c : Ctx) (f : SysRegs → SysRegs) : Ctx := { c with regs := { c.regs with sys := f c.regs.sys } }
def Ctx.modDat (c : Ctx) (f : DataRegs → DataRegs) : Ctx := { c with regs := { c.regs with dat := f c.regs.dat } }

/-- Deterministic operation (R339), and RMODE 1, in which results land exactly too (R390). -/
def Ctx.exact (c : Ctx) : Bool := c.regs.sys.dmode || c.regs.sys.rmode.getLsbD 0

/-! Memory. -/
def Memory.get (m : Memory) (a : Nat) : Byte :=
  match m with
  | [] => 0
  | (k, b) :: r => if k = a then b else if a < k then 0 else Memory.get r a
def Memory.put (m : Memory) (a : Nat) (v : Byte) : Memory :=
  match m with
  | [] => if v = 0 then [] else [(a, v)]
  | (k, b) :: r =>
    if a < k then (if v = 0 then (k, b) :: r else (a, v) :: (k, b) :: r)
    else if a = k then (if v = 0 then r else (a, v) :: r)
    else (k, b) :: Memory.put r a v
/-- The bytes at a, a + 1, ... as one little-endian number (R6). -/
def Memory.getN (m : Memory) (a n : Nat) : Nat :=
  match n with
  | 0 => 0
  | k + 1 => (m.get a).toNat + 256 * Memory.getN m (a + 1) k
def Memory.putN (m : Memory) (a n v : Nat) : Memory :=
  match n with
  | 0 => m
  | k + 1 => Memory.putN (m.put a (BitVec.ofNat 8 v)) (a + 1) k (v / 256)
/-- The canonical form: keys strictly rise and no listed byte is 0. -/
def Memory.wf (m : Memory) : Bool :=
  match m with
  | [] => true
  | (k, b) :: r => b != 0 && (match r with | [] => true | (j, _) :: _ => decide (k < j)) && Memory.wf r

/-- Memory keys by space: 0 HBM, 1 carrier, 2 host, 3 + fabric identifier a peer's HBM, 20000 + core a scratchpad. -/
def spaceSize : Nat := 2 ^ 64
def mkey (sp a : Nat) : Nat := sp * spaceSize + a
def spaceOf (key : Nat) : Nat := key / spaceSize
def addrOf (key : Nat) : Nat := key % spaceSize
def padSpace (core : Nat) : Nat := 20000 + core
def isPad (key : Nat) : Bool := decide (20000 ≤ spaceOf key)

def State.getN (s : State) (key n : Nat) : Nat := s.mem.getN key n
def State.putN (s : State) (key n v : Nat) : State := { s with mem := s.mem.putN key n v }
def State.modMem (s : State) (f : Memory → Memory) : State := { s with mem := f s.mem }
def bytesOf (v n : Nat) : List Byte :=
  match n with
  | 0 => []
  | k + 1 => BitVec.ofNat 8 v :: bytesOf (v / 256) k
def ofBytes (l : List Byte) : Nat :=
  match l with
  | [] => 0
  | b :: r => b.toNat + 256 * ofBytes r
def State.putBytes (s : State) (key : Nat) (l : List Byte) : State := s.putN key l.length (ofBytes l)
def State.getBytes (s : State) (key n : Nat) : List Byte := bytesOf (s.getN key n) n
def zeroRange (m : Memory) (lo n : Nat) : Memory := m.filter fun c => !(decide (lo ≤ c.1) && decide (c.1 < lo + n))
def State.zero (s : State) (lo n : Nat) : State := { s with mem := zeroRange s.mem lo n }

/-! Clocks (R8, R446). -/
/-- The first edge of a class of a core at or after t. -/
def Core.edge (c : Core) (cls : Fin 5) (t : Nat) : Nat :=
  let d := c.div[cls]
  let o := c.origin[cls]
  if d = 0 then t else t + (d - (t + d * (o / d + 1) - o) % d) % d
/-- Edges of a class in the cycles from a up to, not including, b. -/
def Core.edgesIn (c : Core) (cls : Fin 5) (a b : Nat) : Nat :=
  let e := c.edge cls a
  if c.div[cls] = 0 ∨ b ≤ e then 0 else (b - 1 - e) / c.div[cls] + 1
/-- Matrix cycles of the governor's window up to t (R325). -/
def Core.matrixCycles (c : Core) (t : Nat) : Nat :=
  let w := c.gov.win * 2048
  if w < c.origin[(3 : Fin 5)] then c.gov.cap + c.edgesIn 3 c.origin[(3 : Fin 5)] t else c.edgesIn 3 w t
/-- A span in cycles of one engine that crosses a change of its divisor (R8): the edges still to come, of which the new clock's first is at
t (R446). -/
def rescale (t d d' due : Nat) : Nat := if due ≤ t then due else t + (due - t) / d * d'
/-- A clock gets an edge at t, from which its edges are counted (R446); what counts its cycles goes on: the energy window (R447), the rows
still to begin. -/
def Core.rebase (c : Core) (cls : Fin 5) (t : Nat) : Core :=
  let d := c.div[cls]
  { c with
    origin := c.origin.set cls t, gov := if cls = 3 then { c.gov with cap := c.matrixCycles t } else c.gov,
    energy := { c.energy with
      fin := if cls = 0 then rescale t d d c.energy.fin else c.energy.fin,
      rows := if cls = 3 then c.energy.rows.map fun x => (rescale t d d x.1, x.2) else c.energy.rows } }
/-- Every clock of the core gets an edge at t. -/
def Core.rebaseAll (c : Core) (t : Nat) : Core := ((((c.rebase 0 t).rebase 1 t).rebase 2 t).rebase 3 t).rebase 4 t
/-- When n cycles of a class have passed from the first edge at or after now (R98). -/
def State.after (s : State) (core : Nat) (cls : Fin 5) (n : Nat) : Nat :=
  (s.core core).edge cls s.now + n * (s.core core).div[cls]

/-! Registers. -/
def DataRegs.unit (d : DataRegs) (u : VUnit) : VFile := match u with | .a => d.a | .b => d.b
def DataRegs.setUnit (d : DataRegs) (u : VUnit) (f : VFile) : DataRegs := match u with | .a => { d with a := f } | .b => { d with b := f }
def DataRegs.get (d : DataRegs) (l : Loc) : Nat :=
  match l with
  | .s i => (d.s[i]).toNat
  | .sn i => (d.sn[i]).toNat
  | .v u i => ((d.unit u).r[i]).toNat
  | .vn u i => ((d.unit u).n[i]).toNat
  | .ve u i => ((d.unit u).e[i]).toNat
  | .p i => if i.val = 0 then 2 ^ 64 - 1 else (d.p[i]).toNat
  | .m i => (d.m[i]).toNat
  | .x i => (d.x[i]).toNat
  | .md i => (d.md[i]).toNat
  | .cd .c i => (d.cd[i]).toNat
  | .cd .d i => (d.dd[i]).toNat
/-- A write; one of P0 is discarded (R95). -/
def DataRegs.set (d : DataRegs) (l : Loc) (v : Nat) : DataRegs :=
  match l with
  | .s i => { d with s := d.s.set i (BitVec.ofNat 64 v) }
  | .sn i => { d with sn := d.sn.set i (BitVec.ofNat 64 v) }
  | .v u i => d.setUnit u { d.unit u with r := (d.unit u).r.set i (BitVec.ofNat 2048 v) }
  | .vn u i => d.setUnit u { d.unit u with n := (d.unit u).n.set i (BitVec.ofNat 2048 v) }
  | .ve u i => d.setUnit u { d.unit u with e := (d.unit u).e.set i (BitVec.ofNat 2048 v) }
  | .p i => if i.val = 0 then d else { d with p := d.p.set i (BitVec.ofNat 64 v) }
  | .m i => { d with m := d.m.set i (BitVec.ofNat 2048 v) }
  | .x i => { d with x := d.x.set i (BitVec.ofNat 8192 v) }
  | .md i => { d with md := d.md.set i (BitVec.ofNat 64 v) }
  | .cd .c i => { d with cd := d.cd.set i (BitVec.ofNat 1024 v) }
  | .cd .d i => { d with dd := d.dd.set i (BitVec.ofNat 1024 v) }
/-- The bits of `old` outside the mask and those of `v` inside it. -/
def mergeBits (old v mask : Nat) : Nat := (old ^^^ (old &&& mask)) ||| (v &&& mask)
def DataRegs.merge (d : DataRegs) (l : Loc) (v mask : Nat) : DataRegs := d.set l (mergeBits (d.get l) v mask)
def locBits (l : Loc) : Nat :=
  match l with
  | .s _ => 64 | .sn _ => 64 | .p _ => 64 | .md _ => 64 | .x _ => 8192 | .cd _ _ => 1024 | _ => 2048
def fullMask (l : Loc) : Nat := 2 ^ locBits l - 1
def Loc.isP0 (l : Loc) : Bool := match l with | .p i => i.val == 0 | _ => false

/-- Flights that a bundle's write would meet: an earlier exposed result of the same bits (R98). -/
def Ctx.pendingOn (c : Ctx) (l : Loc) (mask : Nat) : Bool := c.flights.any fun f => f.loc = l && f.mask &&& mask != 0

/-- A free value of the register's width (R5, R98). -/
def State.free (s : State) : Nat × State := ((Config.freeBits s.fresh).toNat, { s with fresh := s.fresh + 1 })

def State.writeNow (s : State) (k : Nat) (l : Loc) (v mask : Nat) : State := s.modCtx k fun c => c.modDat fun d => d.merge l v mask

/-- A result with bound `due` in reference cycles (R98). It lands at once when its bound falls before the next
bundle can issue, and otherwise by its bound. A result over an earlier one still in flight leaves the bits undefined
until both have landed. -/
def State.resultBy (s : State) (k : Nat) (l : Loc) (v mask : Nat) (cls : Fin 5) (due : Nat) (lock long : Bool) : State :=
  if l.isP0 then s
  else
    let c := s.ctx k
    let core := coreOf k
    let beyond := c.pendingOn l mask
    if !beyond && !lock && !long && decide (due ≤ s.now + (s.core core).div[(0 : Fin 5)]) then s.writeNow k l v mask
    else
      let s := if beyond && !c.exact then
          let (x, s) := s.free
          s.writeNow k l x (c.flights.foldl (fun m f => if f.loc = l then m ||| (f.mask &&& mask) else m) 0)
        else s
      s.modCtx k fun c => { c with flights := c.flights ++ [⟨l, v, mask, cls, due, lock, long⟩] }

/-- The result of an operation of class `cls` with bound `L`. -/
def State.result (s : State) (k : Nat) (l : Loc) (v mask : Nat) (cls : Fin 5) (L : Nat) (lock long : Bool) : State :=
  s.resultBy k l v mask cls (s.after (coreOf k) cls L) lock long

/-- Landing of flight i: its bits are written, except those that another result in flight also covers, which stay
undefined until that one lands (R98). -/
def State.landFlight (s : State) (k i : Nat) : State :=
  let c := s.ctx k
  match c.flights[i]? with
  | none => s
  | some f =>
    let rest := c.flights.eraseIdx i
    let s := s.setCtx k { c with flights := rest }
    let beyond := if c.exact then 0 else rest.foldl (fun m g => if g.loc = f.loc then m ||| (g.mask &&& f.mask) else m) 0
    let s := s.writeNow k f.loc f.val (f.mask ^^^ (f.mask &&& beyond))
    if beyond = 0 then s else
      let (x, s) := s.free
      s.writeNow k f.loc x beyond
/-- Land every flight whose bound has come. -/
def State.landDue (s : State) (k t : Nat) : State :=
  (s.ctx k).flights.foldl (fun s f => if f.due ≤ t then
    (match (s.ctx k).flights.findIdx? (· = f) with | some i => s.landFlight k i | none => s) else s) s
def State.landAllFlights (s : State) (k : Nat) : State := (s.ctx k).flights.foldl (fun s _ => s.landFlight k 0) s

/-! Queues, flags, sticky bits and pending causes. -/
def Ctx.sticky (c : Ctx) (b : Nat) : Ctx := c.modSys fun r => { r with sstat := r.sstat ||| BitVec.ofNat 9 (2 ^ b) }
def queueCap (k q : Nat) : Nat := if isMgmt k && q == 2 then 4096 else 64
/-- An element that the device posts to Q1 or Q2 (R137). -/
def State.postQ (s : State) (k q : Nat) (e : Word) : State :=
  s.modCtx k fun c =>
    if (vget c.q q []).length < queueCap k q then { c with q := vset c.q q (vget c.q q [] ++ [e]) } else c.sticky 8
def element (ty rest : Nat) : Word := BitVec.ofNat 64 (ty * 2 ^ 56 + rest % 2 ^ 56)
/-- Fn := min(Fn + n, 2^32 - 1) (R121). -/
def State.postFlag (s : State) (k : Nat) (f : Fin 16) (n : Nat) : State :=
  s.modCtx k fun c => { c with f := c.f.set f (BitVec.ofNat 32 (min ((c.f[f]).toNat + n) 0xFFFFFFFF)),
                               posts := (f.val, n, s.now) :: c.posts.filter fun x => x.2.2 = s.now }
/-- A write of a flag comes before the additions that have reached it in its cycle (R121). -/
def Ctx.writeFlag (c : Ctx) (now : Nat) (f : Fin 16) (v : Nat) : Ctx :=
  let n := c.posts.foldl (fun n x => if x.1 = f.val ∧ x.2.2 = now then n + x.2.1 else n) 0
  { c with f := c.f.set f (BitVec.ofNat 32 (min (v % 2 ^ 32 + n) 0xFFFFFFFF)) }
/-- A landing lowers a byte barrier, never below zero (R125). -/
def State.lowerBar (s : State) (k : Nat) (b : Fin 8) (n : Nat) : State :=
  s.modCtx k fun c => c.modFlow fun r => { r with bb := r.bb.set b (BitVec.ofNat 32 ((r.bb[b]).toNat - n)) }
def insertSorted (n : Nat) (l : List Nat) : List Nat :=
  match l with
  | [] => [n]
  | a :: r => if n < a then n :: a :: r else if n = a then a :: r else a :: insertSorted n r
/-- An asynchronous cause joins the pending set; a second arrival merges (R365). -/
def State.pend (s : State) (k cause : Nat) : State :=
  s.modCtx k fun c => if c.status = .free then c else { c with async := insertSorted cause c.async }

/-! Meters (R276, R442). -/
def State.meter (s : State) (p i n : Nat) : State :=
  s.modPart p fun x => { x with meters := Tbl.put x.meters i (min (Tbl.getD x.meters i 0 + n) (2 ^ 64 - 1)) }
/-- Energy of a context of a core: the window's charge, and the partition's mJ meter with its remainder (R442, R447). -/
def State.charge (s : State) (core p nJ : Nat) : State :=
  let s := s.modCore core fun c => { c with energy := { c.energy with charge := c.energy.charge + nJ } }
  let e := (s.part p).energy + nJ
  (s.meter p 5 (e / 1000000)).modPart p fun x => { x with energy := e % 1000000 }

/-- The rows of row commands that begin before t are charged (R447). -/
def State.beginRows (s : State) (core t : Nat) : State :=
  let d := (s.core core).div[(3 : Fin 5)]
  let begun (x : Nat × Nat × Nat) : Nat := if t ≤ x.1 then 0 else min x.2.1 ((t - x.1 + d - 1) / d)
  let rows := (s.core core).energy.rows
  if rows = [] then s
  else (rows.foldl (fun s x => s.charge core x.2.2 (begun x)) s).modCore core fun c => { c with energy := { c.energy with
    rows := (rows.map fun x => (x.1 + begun x * d, x.2.1 - begun x, x.2.2)).filter fun x => x.2.1 ≠ 0 } }
/-- n rows of a row command begin, one in each matrix cycle from now on. -/
def State.chargeRows (s : State) (core p n : Nat) : State :=
  if n = 0 then s else s.modCore core fun c => { c with energy := { c.energy with rows := c.energy.rows ++ [(s.now, n, p)] } }

/-! Suspicion scores: the sum only; what a score of 4096 brings about is `settleScores` in Node.lean (R407). -/
/-- At each hour from power-on every score is halved, before what is added in that cycle. -/
def State.halve (s : State) : State :=
  if (s.hours + 1) * Config.perHour ≤ s.now then
    { s with hours := s.hours + 1, units := s.units.map fun u => (u.1, { u.2 with score := u.2.score / 2 }) }
  else s
def State.addScore (s : State) (u n : Nat) : State := s.halve.modUnit u fun x => { x with score := min (x.score + n) 0xFFFF }
def coreUnit (core : Nat) : Nat := core % 256
/-- The unit that holds a byte of memory: an HBM or carrier channel, or a core's scratchpad (R375, R455). -/
def holderUnit (key : Nat) : Nat :=
  let n := addrOf key / 65536
  match spaceOf key with
  | 0 => 3 * 2 ^ 28 + 32 * (n % 8) + n / 8 % 32
  | 1 => 4 * 2 ^ 28 + n % 16
  | sp => if 20000 ≤ sp then coreUnit (sp - 20000) else 2 * 2 ^ 28
/-! Bamed ports (R435-R437). -/
def portUnit (i : Fin 18) : Nat := 2 * 2 ^ 28 + i.val
/-- A port is up and carries traffic: neither withdrawn, retired nor taken out of service (R408, R453). -/
def State.portLive (s : State) (i : Fin 18) : Bool :=
  let u := s.unit (portUnit i)
  s.ports[i].up && !u.out && !u.retired && !u.failed

/-! What passes over mesh links. -/
/-- Of a receiver's counts, n flits more in window w. -/
def countFlits (w n : Nat) : List (Nat × Nat) → List (Nat × Nat)
  | [] => [(w, n)]
  | x :: r => if x.1 = w then (w, x.2 + n) :: r else x :: countFlits w n r
/-- Flits pass from one core to another, which count where the two are mesh neighbours: in the sender's DLV and in the receiver's view
(R394, R395). DEDUCED: both count them as they arrive (log 25). -/
def State.linkFlits (s : State) (a b n : Nat) : State :=
  match (List.range 4).find? fun i => decide (a < 256) && decide (s.boot.state = 1) && neighbour a i == some b with
  | none => s
  | some i =>
    let s := s.modCore a fun c => { c with health := { c.health with dlv := vset c.health.dlv i (vget c.health.dlv i 0 + n) } }
    s.modCore b fun c =>
      let v := vget c.health.views ((i + 2) % 4) View.live
      let v := { v with accepted := v.accepted + n, flits := countFlits (s.now / 4096) n v.flits }
      { c with health := { c.health with views := vset c.health.views ((i + 2) % 4) v } }
/-- An access of another core's scratchpad: flits with up to 56 bytes each, both ways. -/
def State.padFlits (s : State) (k key n : Nat) : State :=
  let c := spaceOf key - 20000
  if spaceOf key < 20000 ∨ c = coreOf k then s else (s.linkFlits (coreOf k) c ((n + 55) / 56)).linkFlits c (coreOf k) ((n + 55) / 56)
/-- Home plain of device memory (R455). -/
def homePlain (key : Nat) : Nat :=
  let n := addrOf key / 65536
  match spaceOf key with
  | 0 => n % 8 / 2
  | 1 => n % 16 / 4
  | sp => if 20000 ≤ sp then plainOf (sp - 20000) else 0
/-- The core co-located with the L2 slice that holds device memory (Table 12-2a, Table 20-4). -/
def sliceCore (key : Nat) : Nat :=
  let k := addrOf key / 64 % 64
  64 * homePlain key + 8 * (2 * (k / 16) + k % 4 / 2) + 2 * (k / 4 % 4) + k % 2
def State.poisoned (s : State) (key n : Nat) : Bool := s.poison.any fun l => decide (l * 64 < key + n) && decide (key < l * 64 + 64)
/-- A write of a whole marked line clears its mark (R279). -/
def State.clearPoison (s : State) (key n : Nat) : State :=
  { s with poison := s.poison.filter fun l => !(decide (key ≤ l * 64) && decide (l * 64 + 64 ≤ key + n)) }

/-! The L2 (R294-R296) and performing at a scope (R297, R299). -/
def lineByte (l : L2Line) (i : Nat) : Byte := BitVec.ofNat 8 (bitsOf l.data.toNat (8 * i) 8)
def L2Line.hits (l : L2Line) (plain part key : Nat) : Bool := l.plain == plain && l.part == part && l.key == key / 64
def cachable (key : Nat) (uc : Bool) : Bool := decide (spaceOf key < 2) && !uc
/-- The slice of a line (Table 12-2a) and its set in the slice, as one number below 64 × 1536. -/
def l2Set (line : Nat) : Nat := addrOf (line * 64) / 64 % (64 * 1536)
/-- One of n candidates for replacement. -/
def State.pick (s : State) (n : Nat) : Nat × State := (Config.victim s.fresh % n, { s with fresh := s.fresh + 1 })
/-- One byte as an access of a plain at a scope reads it from memory `m`. A wide access reads the home copy, and of a non-home
copy of its own plain the bytes that the plain has changed: no store of the plain is passed over (R303). -/
def State.byteAt (s : State) (m : Memory) (plain part scope key : Nat) (uc : Bool) : Byte :=
  if cachable key uc ∧ homePlain key ≠ plain then
    match s.l2.find? fun l => l.hits plain part key with
    | some l => if scope < 3 ∨ l.dirty.getLsbD (key % 64) then lineByte l (key % 64) else m.get key
    | none => m.get key
  else m.get key
def State.readAt (s : State) (m : Memory) (plain part scope : Nat) (uc : Bool) (key n : Nat) : Nat :=
  match n with
  | 0 => 0
  | k + 1 => (s.byteAt m plain part scope key uc).toNat + 256 * State.readAt s m plain part scope uc (key + 1) k
/-- Write back the changed bytes of a line and drop it. -/
def State.writeBack (s : State) (l : L2Line) : State :=
  (List.range 64).foldl (fun s i => if l.dirty.getLsbD i then { s with mem := s.mem.put (l.key * 64 + i) (lineByte l i) } else s) s
def State.dropLines (s : State) (f : L2Line → Bool) : State :=
  let s' := (s.l2.filter f).foldl State.writeBack s
  { s' with l2 := s.l2.filter fun l => !f l }
def L2Line.isHome (l : L2Line) : Bool := homePlain (l.key * 64) == l.plain
/-- Every non-home copy of a line goes (R294). -/
def State.toHome (s : State) (line : Nat) : State := s.dropLines fun l => l.key == line && !l.isHome
def State.writeByteAt (s : State) (plain part scope key : Nat) (uc : Bool) (v : Byte) : State :=
  if scope < 3 ∧ cachable key uc ∧ homePlain key ≠ plain ∧ (s.l2.any fun l => l.hits plain part key) then
    { s with l2 := s.l2.map fun l => if l.hits plain part key then
        { l with data := BitVec.ofNat 512 (mergeBits l.data.toNat (v.toNat * 2 ^ (8 * (key % 64))) (255 * 2 ^ (8 * (key % 64)))),
                 dirty := l.dirty ||| BitVec.ofNat 64 (2 ^ (key % 64)) } else l }
  else
    let s := if 3 ≤ scope ∧ cachable key uc then s.toHome (key / 64) else s
    { s with mem := s.mem.put key v }
def State.writeAt (s : State) (plain part scope : Nat) (uc : Bool) (key n v : Nat) : State :=
  match n with
  | 0 => s
  | k + 1 => State.writeAt (s.writeByteAt plain part scope key uc (BitVec.ofNat 8 v)) plain part scope uc (key + 1) k (v / 256)
/-- A line is placed in a plain's L2, in a way of the partition's mask: a free one, or that of a victim, whose changed bytes go
to the home copy (R294, R295). A mask of zero fills nothing (R269). -/
def State.placeLine (s : State) (plain part line : Nat) (data : BitVec 512) : State :=
  if s.l2.any fun l => l.hits plain part (line * 64) then s
  else
    let ways := (List.range 16).filter fun w => (s.part part).ways.getLsbD w
    let here : L2Line → Bool := fun l => l.plain == plain && l2Set l.key == l2Set line
    let put (s : State) (w : Nat) : State := { s with l2 := ⟨plain, w, part, line, data, 0⟩ :: s.l2 }
    match ways, ways.find? fun w => !s.l2.any fun l => here l && l.way == w with
    | [], _ => s
    | _, some w => put s w
    | _, none =>
      let (i, s) := s.pick ways.length
      let w := ways.getD i 0
      put (s.dropLines fun l => here l && l.way == w) w
/-- Fill a non-home line of a plain, which holds the bytes of the home copy. -/
def State.fillLine (s : State) (plain part key : Nat) : State :=
  if homePlain key = plain then s else s.placeLine plain part (key / 64) (BitVec.ofNat 512 (s.getN (key / 64 * 64) 64))
/-- Lines that n bytes lie in. -/
def linesOf (key n : Nat) : List Nat := if n = 0 then [] else (List.range ((key + n - 1) / 64 - key / 64 + 1)).map (key / 64 + ·)
/-- An access that reaches the home of its lines leaves their home copies in the home plain's L2 (R294); one of an uncached page
allocates nothing (R296), and one that a non-home copy serves does not reach it. -/
def State.touchHome (s : State) (plain part scope : Nat) (uc : Bool) (key n : Nat) : State :=
  if cachable key uc then (linesOf key n).foldl (fun s line =>
    if scope < 3 ∧ homePlain (line * 64) ≠ plain ∧ (s.l2.any fun l => l.hits plain part (line * 64)) then s
    else s.placeLine (homePlain (line * 64)) part line 0) s
  else s
/-- A context has written n bytes at a scope narrower than package: a later drain brings their lines home (R299). -/
def State.noteNarrow (s : State) (k scope : Nat) (uc : Bool) (key n : Nat) (cmd : Bool) : State :=
  if scope < 3 ∧ cachable key uc then
    s.modCtx k fun c => { c with narrow := c.narrow ++ ((linesOf key n).map fun l => (l, cmd)).filter fun x => !c.narrow.contains x }
  else s
/-- What a context stored at a narrower scope performs at package scope: it is in the home copy, and no other copy stays
(R299); of its commands alone when a CFENCE asks (R245). -/
def State.flushStores (s : State) (k : Nat) (cmds : Bool) : State :=
  let mine : Nat × Bool → Bool := fun x => !cmds || x.2
  (((s.ctx k).narrow.filter mine).foldl (fun s x => s.toHome x.1) s).modCtx k fun c => { c with narrow := c.narrow.filter fun x => !mine x }

/-! Atomic updates (Table 7-11, R182). -/
def atomNew (op : AtomOp) (w old b cmp : Nat) : Nat :=
  match op with
  | .add => (old + b) % 2 ^ w
  | .xchg => b % 2 ^ w
  | .cas => if old = cmp % 2 ^ w then b % 2 ^ w else old
  | .min => if toSigned w b < toSigned w old then b % 2 ^ w else old
  | .max => if toSigned w old < toSigned w b then b % 2 ^ w else old
  | .minu => if b % 2 ^ w < old then b % 2 ^ w else old
  | .maxu => if old < b % 2 ^ w then b % 2 ^ w else old
  | .and => old &&& (b % 2 ^ w)
  | .or => old ||| (b % 2 ^ w)
  | .fadd =>
    let F := if w = 64 then fp64 else fp32
    F.round ((F.read old).add (F.read (b % 2 ^ w)) .rne) .rne

/-- The old value as an atomic returns it: a `.32` integer sign-extended, an FP32 zero-extended (R140). -/
def oldValue (op : AtomOp) (n width old : Nat) : Nat :=
  if width = 64 ∧ n = 4 ∧ op ≠ .fadd then ofSigned 64 (toSigned 32 old) else old

/-- The scalar L1 line that holds an address, for a partition (R293). -/
def Core.l1Line (c : Core) (part key : Nat) : Option Line := c.l1.find? fun l => l.part == part && l.key == key / 64
def Core.l1Update (c : Core) (part key n v : Nat) : Core :=
  { c with l1 := c.l1.map fun l => if l.part == part && l.key == key / 64 then
      { l with data := BitVec.ofNat 512 (mergeBits l.data.toNat (v % 2 ^ (8 * n) * 2 ^ (8 * (key % 64))) ((2 ^ (8 * n) - 1) * 2 ^ (8 * (key % 64)))) } else l }
/-- Fill the scalar L1 on a core-scope miss (R152). -/
def State.fillL1 (s : State) (core part key : Nat) : State :=
  let ln := key / 64
  s.modCore core fun c =>
    if c.l1.any fun l => l.part == part && l.key == ln then c
    else { c with l1 := ⟨part, ln, BitVec.ofNat 512 (s.readAt s.mem (plainOf core) part 0 false (ln * 64) 64)⟩ :: c.l1 }

/-- Bytes moved to or from memory count in the partition's byte meters (R276): HBM, carrier, and Bamed; and those whose home
is another plain count as pass bytes. -/
def State.meterBytes (s : State) (plain part key n : Nat) : State :=
  let sp := spaceOf key
  if 20000 ≤ sp ∨ sp = 2 then s
  else
    let s := s.meter part (if sp = 0 then 1 else if sp = 1 then 2 else 4) n
    if sp < 2 ∧ homePlain key ≠ plain then s.meter part 3 n else s

/-- An owner asks a resource of a plain for n bytes (R329). -/
def State.askOne (s : State) (plain k res n : Nat) : State :=
  let here : Traffic → Bool := fun t => t.plain == plain && t.owner == k && t.res == res
  if n = 0 then s
  else if s.traffic.any here then { s with traffic := s.traffic.map fun t => if here t then { t with asked := t.asked + n } else t }
  else { s with traffic := s.traffic ++ [⟨plain, k, res, n, 0⟩] }
/-- What an access to device memory asks of the resources on its way, line by line: the L2 of its plain, the pass to the home plain and
the L2 there, and a line of the stack or channel where the home L2 does not hold it. A line that the plain's own non-home copy
serves asks its L2 alone. -/
def State.ask (s : State) (k plain part sc : Nat) (uc : Bool) (key n : Nat) : State :=
  if 2 ≤ spaceOf key then s
  else (linesOf key n).foldl (fun s l =>
    let b := min (key + n) (64 * l + 64) - max key (64 * l)
    let h := homePlain (64 * l)
    let s := s.askOne plain k 0 b
    if h = plain then (if s.l2.any fun x => x.hits h part (64 * l) then s else s.askOne h k (if spaceOf key = 0 then 1 else 2) 64)
    else if sc < 3 ∧ !uc ∧ s.l2.any fun x => x.hits plain part (64 * l) then s
    else
      let s := (s.askOne plain k 3 b).askOne h k 0 b
      if s.l2.any fun x => x.hits h part (64 * l) then s else s.askOne h k (if spaceOf key = 0 then 1 else 2) 64) s
/-- What a slot access asks; a load that its core's L1 holds asks nothing. -/
def State.askFor (s : State) (k : Nat) (a : Access) : State :=
  let core := coreOf k
  let held := (match a.kind with | .load => true | .loadS => true | _ => false) && a.scope == 0 && cachable a.key a.uc && ((s.core core).l1Line a.part a.key).isSome
  let s := s.meterBytes (plainOf core) a.part a.key a.n
  if held then s else s.ask k (plainOf core) a.part a.scope a.uc a.key a.n
/-- A store of a scope narrower than package goes to a non-home line of its plain, which takes one for it, until the eviction (R294,
R299). DESIGN CHOICE: that of an exact context is evicted at once (R356; log 34). -/
def State.fillNarrow (s : State) (exact : Bool) (plain part sc : Nat) (uc : Bool) (key n : Nat) : State :=
  if exact ∨ 3 ≤ sc ∨ !cachable key uc then s else (linesOf key n).foldl (fun s l => s.fillLine plain part (64 * l)) s
/-- A load's value: of core scope through the scalar L1 (R152), else as its plain reads memory at its scope. DESIGN CHOICE: a load
of an exact context reads the home copy and what its plain has changed, whatever unchanged copies there are (R356). -/
def State.loadValue (s : State) (core : Nat) (exact : Bool) (a : Access) : Nat × State :=
  let plain := plainOf core
  let line := if a.scope = 0 ∧ cachable a.key a.uc then (s.core core).l1Line a.part a.key else none
  match line with
  | some l => (bitsOf l.data.toNat (8 * (a.key % 64)) (8 * a.n), s)
  | none =>
    let sc := if exact then max 3 a.scope else a.scope
    let v := s.readAt s.mem plain a.part sc a.uc a.key a.n
    let s := s.touchHome plain a.part sc a.uc a.key a.n
    (v, if a.scope = 0 ∧ cachable a.key a.uc then s.fillL1 core a.part a.key else s)
/-- What an access does to memory, and the value that its destination gets (R297). A store updates the line of it that the L1
holds, an atomic removes it (R152). -/
def State.act (s : State) (k : Nat) (a : Access) : Nat × State :=
  let core := coreOf k
  let plain := plainOf core
  match a.kind with
  | .done => (a.val, s)
  | .load => (s.askFor k a).loadValue core (s.ctx k).exact a
  | .loadS => let (v, s) := (s.askFor k a).loadValue core (s.ctx k).exact a
              (ofSigned a.width (toSigned (8 * a.n) v), s)
  | .store =>
    let s := ((s.askFor k a).fillNarrow (s.ctx k).exact plain a.part a.scope a.uc a.key a.n).modCore core fun x => x.l1Update a.part a.key a.n a.val
    let s := ((s.writeAt plain a.part a.scope a.uc a.key a.n a.val).clearPoison a.key a.n).touchHome plain a.part a.scope a.uc a.key a.n
    (0, s.noteNarrow k a.scope a.uc a.key a.n false)
  | .atomic op =>
    let s := ((s.askFor k a).fillNarrow (s.ctx k).exact plain a.part a.scope a.uc a.key a.n).modCore core fun x => { x with l1 := x.l1.filter fun l => !(l.part == a.part && l.key == a.key / 64) }
    let old := s.readAt s.mem plain a.part a.scope a.uc a.key a.n
    let s := (s.writeAt plain a.part a.scope a.uc a.key a.n (atomNew op (8 * a.n) old a.val a.cmp)).touchHome plain a.part a.scope a.uc a.key a.n
    (oldValue op a.n a.width old, s.noteNarrow k a.scope a.uc a.key a.n false)
/-- An access performs, and its value lands. -/
def State.perform (s : State) (k : Nat) (a : Access) : State :=
  let (v, s) := s.act k a
  match a.dst with
  | none => s
  | some l => if l.isP0 then s else s.writeNow k l (v * 2 ^ a.shift) ((2 ^ a.width - 1) * 2 ^ a.shift)

def Access.overlaps (a b : Access) : Bool := decide (a.key < b.key + b.n) && decide (b.key < a.key + a.n)
def Access.isLoad (a : Access) : Bool := match a.kind with | .load => true | .loadS => true | _ => false
def Access.isAtom (a : Access) : Bool := match a.kind with | .atomic _ => true | _ => false
/-- The older access b has to act before a: they share bytes (R303), or both are to the own scratchpad (R305), or they are of one bundle,
whose loads read before its stores perform and whose atomics perform in order (R304). -/
def Access.before (b a : Access) : Bool :=
  b.kind != .done && (b.overlaps a || (b.own && a.own) || (b.bun == a.bun && ((b.isLoad && !a.isLoad) || (b.isAtom && a.isAtom))))
/-- Of older accesses, newest first, the numbers of those that have to act before some of the given, oldest first. -/
def neededFor (front : List Access) : List Access → List Nat
  | [] => []
  | b :: r => if front.any b.before then neededFor (b :: front) r ++ [b.seq] else neededFor front r
/-- An access acts, while its completion and landing are still to come. -/
def State.settle (s : State) (k q : Nat) : State :=
  match (s.ctx k).accs.find? fun a => a.seq = q with
  | none => s
  | some a =>
    let (v, s) := s.act k a
    s.modCtx k fun c => { c with accs := c.accs.map fun b => if b.seq = q then { b with kind := .done, val := v } else b }
/-- What has to act before an access that follows the given older ones. -/
def State.settleFor (s : State) (k : Nat) (older : List Access) (a : Access) : State := (neededFor [a] older.reverse).foldl (fun s q => s.settle k q) s
/-- Every access of a context acts. -/
def State.settleAll (s : State) (k : Nat) : State := (s.ctx k).accs.foldl (fun s a => s.settle k a.seq) s
def State.performIdx (s : State) (k i : Nat) : State :=
  match (s.ctx k).accs[i]? with
  | none => s
  | some a => ((s.settleFor k ((s.ctx k).accs.take i) a).modCtx k fun c => { c with accs := c.accs.eraseIdx i }).perform k a
def State.performAll (s : State) (k : Nat) : State := (s.ctx k).accs.foldl (fun s _ => s.performIdx k 0) s
/-- Every access with a destination, as a trap waits for (R363, R141). -/
def State.performLoads (s : State) (k : Nat) : State :=
  (s.ctx k).accs.foldl (fun s _ => match (s.ctx k).accs.findIdx? fun a => a.dst.isSome with | some i => s.performIdx k i | none => s) s
/-- The last cycle at which an access lands or performs (R342): for a padded time, the first sequencer edge from then on. -/
def State.accDue (s : State) (k : Nat) (a : Access) : Nat := if a.cls = 5 then (s.core (coreOf k)).edge 0 a.due else a.due
/-- Accesses of a core that have issued to a memory elsewhere and not acted (R22). -/
def State.outstanding (s : State) (core : Nat) : Nat :=
  ((List.range (ctxCount core)).map (keyOf core)).foldl (fun n k => n + ((s.ctx k).accs.filter fun a => a.kind != .done && !a.own).length) 0

/-- The latest bound of what a trap waits for. -/
def State.latest (s : State) (k : Nat) : Nat :=
  (s.ctx k).accs.foldl (fun t a => if a.dst.isSome then max t (s.accDue k a) else t) ((s.ctx k).flights.foldl (fun t f => max t f.due) 0)

/-- "Every result in flight lands" (R366): flights, loads and atomics. In deterministic operation the core's next bundle issues
one sequencer cycle after the latest of their bounds. -/
def State.landAll (s : State) (k : Nat) : State :=
  let t := s.latest k
  let s' := (s.performLoads k).landAllFlights k
  if (s.ctx k).exact ∧ 0 < t then
    s'.modCore (coreOf k) fun c => { c with next := max c.next (c.edge 0 t + c.div[(0 : Fin 5)]) }
  else s'

/-- A context is to be killed with a cause: it and its node's other contexts are freed at their next bundle boundary, and
the node keeps the first cause (R34). -/
def State.killNode (s : State) (n state cause who : Nat) : State :=
  let nd := s.node n
  let s := s.modNode n fun x => { x with cause := x.cause.or (some (state, cause, who)) }
  nd.ctxs.foldl (fun s k => s.modCtx k fun c =>
    if c.status = .free ∨ c.node ≠ n then c else { c with kill := c.kill.or (some cause) }) s
def State.killCtx (s : State) (k cause : Nat) : State :=
  let c := s.ctx k
  let s := s.modCtx k fun c => { c with kill := c.kill.or (some cause) }
  if c.node = 0 then s else s.killNode c.node 3 cause (c.regs.sys.ident[2]).toNat

/-- TDLY of a pending transfer (R282, R363). -/
def tdlyOf (d : Delay) : Word := if d.count = 0 then 0 else BitVec.ofNat 64 (d.target.toNat / 32 * 32 + d.count)

/-- Taking a trap (R363): results land, the level's bank takes cause, pc, value, mask, delay and loop state, the level
rises and control goes to TVEC + 0x400 × (L - 1). At level 2 the context is killed instead. -/
def State.takeTrap (s : State) (k cause : Nat) (val : Word) (mask : BitVec 8) (async : Bool) : State :=
  let s := s.landAll k
  let c := s.ctx k
  let r := c.regs
  if 2 ≤ r.sys.tl then
    (if isStream k then s.postQ mgmtKey 2 (element 0x21 ((c.part % 64) * 2 ^ 48 + cause % 65536)) else s).killCtx k cause
  else
    let b : Bank := { cause := BitVec.ofNat 64 (cause % 65536 + if async then 65536 else 0), tpc := r.flow.pc, tval := val,
                      tmask := mask, tdly := tdlyOf r.flow.dly, rtt := r.flow.dly.rtt, loops := r.flow.loops }
    s.setCtx k ((c.modSys fun y => { y with banks := vset y.banks y.tl b, tl := y.tl + 1 }).modFlow fun f =>
      { f with pc := r.sys.tvec + BitVec.ofNat 64 (0x400 * r.sys.tl), dly := Delay.none, loops := [] })

/-- What happens when the transfer of an RTT reaches TPC (R132, R249, R282): delay and loop state come back from the
level's bank, the level drops, and after a COPYFAULT every suspended copy resumes. DEDUCED: it starts anew in its turn, and its fresh
bound, for where its streams lie then, runs from that start (log 22). -/
def State.rttArrive (s : State) (k L : Nat) : State :=
  s.modCtx k fun c =>
    let b := vget c.regs.sys.banks (L - 1) Bank.zero
    let n := b.tdly.toNat % 4
    let c := (c.modSys fun y => { y with tl := L - 1 }).modFlow fun f =>
      { f with pc := BitVec.ofNat 64 (b.tpc.toNat / 32 * 32), loops := b.loops,
               dly := if n = 0 then Delay.none else ⟨n, BitVec.ofNat 64 (b.tdly.toNat / 32 * 32), b.rtt⟩ }
    if b.cause.toNat % 65536 = 14 then
      { c with cmds := c.cmds.map fun m => if m.susp.isSome then { m with susp := none, page := none, start := none } else m }
    else c

/-! Waiting contexts. -/
def State.setStatus (s : State) (k : Nat) (st : Status) : State := s.modCtx k fun c => { c with status := st }
/-- A context that goes on issues from a sequencer edge; in deterministic operation from the first after the cycle that lets it
(R344). -/
def State.rouse (s : State) (k : Nat) : State :=
  let from' := if (s.ctx k).exact then s.now + 1 else s.now
  s.modCore (coreOf k) fun c => { c with next := max c.next (c.edge 0 from') }
/-- Contexts bound to a core: those that are not Free. -/
def State.bound (s : State) (core : Nat) : List Nat :=
  ((List.range (ctxCount core)).map (keyOf core)).filter fun k => (s.ctx k).status ≠ .free
/-- The charge of a core exceeds its grant (R447). -/
def State.overGrant (s : State) (core : Nat) : Bool := let e := (s.core core).energy; decide (e.grant < e.charge)
/-- A core whose energy governor inserts stall bundles now. -/
def State.energyHeld (s : State) (core : Nat) : Bool :=
  s.overGrant core && decide (s.now < (s.core core).energy.fin) && s.bound core != []
/-- A Blocked context is Ready; during an inserted stall it stays Blocked (R448). -/
def State.ready (s : State) (k : Nat) : State :=
  if (s.ctx k).status = .blocked ∧ !s.energyHeld (coreOf k) then (s.modCtx k fun c => { c with status := .ready, wait := Wait.none }).rouse k else s

/-- Contexts of a partition, of a node. -/
def State.ctxKeys (s : State) : List Nat := s.ctxs.map Prod.fst

/-- Timeline: the largest v with every command up to v performed (R245). -/
def Ctx.performedTo (c : Ctx) (e : Fin 3) : Nat :=
  (c.cmds.filter fun m => m.eng = e).foldl (fun v m => min v (m.num - 1)) (c.regs.dat.issued[e])
/-- Tiles and accumulators that a live unperformed command writes (R99). -/
def Cmd.writesT (m : Cmd) (i : Nat) : Bool :=
  match m.op with
  | .mldt n code _ _ => n.val == i || (code == 10 && n.val + 1 == i)
  | .mtr d _ c => d.val == i || (c == 2 && d.val + 1 == i)
  | .mcvt d _ _ code _ => d.val == i || (code == 10 && d.val + 1 == i)
  | .copy y => match y.op with
    | .cpyb _ (some t) => t.val == i
    | .cpyt n code _ => n.val == i || (code == 10 && n.val + 1 == i)
    | _ => false
  | _ => false
def Cmd.writesZ (m : Cmd) : Option (Fin 4) :=
  match m.op with
  | .mul x => some x.k
  | .mzero k => some k
  | .mfix k _ _ _ => some k
  | .minj k _ _ _ _ => some k
  | .mbias k _ => some k
  | .mact k _ _ => some k
  | _ => none
def Ctx.busyT (c : Ctx) (i : Nat) : Bool := c.cmds.any fun m => m.writesT i
def Ctx.busyZ (c : Ctx) (k : Fin 4) : Bool := c.cmds.any fun m => m.writesZ = some k
def Ctx.busyX (c : Ctx) (i : Fin 16) : Bool := (c.flights.any fun f => f.long && f.loc = .x i) || c.accs.any fun a => a.dst = some (.x i)
/-- A destination of an interlocked result still to land (R141, R181, R188). -/
def Ctx.locked (c : Ctx) (l : Loc) : Bool := (c.flights.any fun f => f.lock && f.loc = l) || c.accs.any fun a => a.dst = some l

end Sys2Proof.Machine
end

