-- ==== Sys2Proof/Machine/Operands.lean ====
section
/-!
DEFINITION. Machine/Operands.lean: guards, what the slots of the open bundle read, and where their results go
(R83, R94-R96, R98, R140). Every read is of the state before the bundle; a write goes to the context at once or in flight.
-/
namespace Sys2Proof.Machine

/-- Why a slot does not take effect: a blocking event, a stall, a trap cause with its value (R21, R22, R106),
a read of marked data (R375), or a wait for a pending page (R384). -/
inductive Stop where
  | block | stall | trap (cause val : Nat) | poison (val unit : Nat) | page (part page leaf : Nat)
deriving DecidableEq, Repr

abbrev Res (α : Type) := Except Stop α

def State.me (s : State) : Nat := match s.opened with | some o => o.ctx | none => s.cur
/-- The issuing context before the bundle (R83). -/
def State.pre (s : State) : Ctx :=
  match s.opened with
  | some o => Tbl.getD o.saved.ctxs o.ctx Ctx.zero
  | none => s.ctx s.cur
def State.litv (s : State) : Nat := match s.opened with | some o => o.lit.toNat | none => 0
def State.scope (s : State) : Nat := match s.opened with | some o => bitsOf o.hdr.toNat 26 3 | none => 0
def State.loadMem (s : State) : Memory := match s.opened with | some o => o.mem | none => s.mem
def State.raise (s : State) (slot cause val : Nat) (unit : Option Nat) : State :=
  { s with opened := s.opened.map fun o => { o with raised := o.raised ++ [⟨slot, cause, val, unit⟩] } }
def State.holdSlot (s : State) (slot : Nat) (block : Bool) (page : Option (Nat × Nat × Nat)) : State :=
  { s with opened := s.opened.map fun o => { o with holds := o.holds ++ [⟨slot, block, page⟩] } }
def State.stopSlot (s : State) (slot : Nat) (e : Stop) : State :=
  match e with
  | .block => s.holdSlot slot true none
  | .stall => s.holdSlot slot false none
  | .trap c v => s.raise slot c v none
  | .poison v u => s.raise slot 24 v (some u)
  | .page p g l => s.holdSlot slot false (some (p, g, l))
/-- What enters the signature of a paired context (R391): 3 results, 4 stores, 5 loads, 6 command operands. DEDUCED: the value of a load or atomic
that has not landed at the commit is no result yet, and flags, loop levels and the shape of an array command are none (log 9). -/
def State.note (s : State) (group bytes val : Nat) : State :=
  if (s.ctx s.me).regs.sys.rmode.getLsbD 0 then
    { s with opened := s.opened.map fun o => { o with sigs := o.sigs ++ [(group, bytes, val)] } } else s

def predBits (c : Ctx) (p : Fin 8) : Nat := c.regs.dat.get (.p p)
def sext (w v n : Nat) : Nat := ofSigned n (toSigned w v)
/-- The head of a queue latch; an empty one blocks (Table 2-4, R94). -/
def Ctx.latch (c : Ctx) (i : Fin 4) : Res Nat := match c.q[i] with | [] => .error .block | e :: _ => .ok e.toNat
/-- A read of a register; one whose interlocked result has not landed stalls (R141). -/
def Ctx.read (c : Ctx) (l : Loc) : Res Nat := if c.locked l then .error .stall else .ok (c.regs.dat.get l)

/-- A scalar source, all 64 bits (Table 6-5, R90, R139). -/
def State.rdS (s : State) (o : Src) : Res Nat :=
  match o with
  | .r i => s.pre.read (.s i)
  | .n i => s.pre.read (.sn i)
  | .q i => s.pre.latch i
  | .lit => .ok (sext 32 s.litv 64)
  | .zero => .ok 0
/-- A scalar register named by a destination field and read (R139, R151). -/
def State.rdD (s : State) (o : Dst) : Res Nat :=
  match o with
  | .r i => s.pre.read (.s i)
  | .n i => s.pre.read (.sn i)
  | .void => .ok 0
/-- Where a scalar result goes; value 25 discards it (R94). -/
def sLoc (d : Dst) : Option Loc := match d with | .r i => some (.s i) | .n i => some (.sn i) | .void => none
def vLoc (u : VUnit) (d : Dst) : Option Loc := match d with | .r i => some (.v u i) | .n i => some (.vn u i) | .void => none
/-- A register field 0-19 of an XFER receiver. -/
def sReg (i : Nat) : Loc := if i < 16 then .s (Fin.ofNat 16 i) else .sn (Fin.ofNat 4 (i - 16))
def vReg (u : VUnit) (i : Nat) : Loc := if i < 16 then .v u (Fin.ofNat 16 i) else .vn u (Fin.ofNat 4 (i - 16))

/-- Write a result with an exposed bound; a write over an interlocked result still to land stalls (R141). -/
def State.wr (s : State) (l : Option Loc) (v mask : Nat) (cls : Fin 5) (L : Nat) : Res State :=
  match l with
  | none => .ok s
  | some l => if s.pre.locked l then .error .stall
              else .ok ((s.result s.me l v mask cls L false false).note 3 (locBits l / 8) v)
/-- The same with its bound in reference cycles. -/
def State.wrBy (s : State) (l : Loc) (v mask : Nat) (cls : Fin 5) (due : Nat) : Res State :=
  if s.pre.locked l then .error .stall else .ok ((s.resultBy s.me l v mask cls due false false).note 3 (locBits l / 8) v)
/-- A scalar result of 64 bits. -/
def State.wrS (s : State) (d : Dst) (v L : Nat) : Res State := s.wr (sLoc d) (v % 2 ^ 64) (2 ^ 64 - 1) 0 L
/-- An interlocked result. -/
def State.wrLock (s : State) (l : Option Loc) (v mask : Nat) (cls : Fin 5) (L : Nat) (long : Bool) : Res State :=
  match l with
  | none => .ok s
  | some l => if s.pre.locked l then .error .stall
              else .ok ((s.result s.me l v mask cls L true long).note 3 (locBits l / 8) v)
/-- A predicate result of 64 bits; bits outside the mask are kept. -/
def State.wrP (s : State) (p : Fin 8) (v mask : Nat) (cls : Fin 5) (L : Nat) : Res State := s.wr (some (.p p)) v mask cls L
def ones64 : Nat := 2 ^ 64 - 1
def truth (b : Bool) : Nat := if b then ones64 else 0

/-- The scalar width forms (R140): operands and results of 32 or 64 bits. -/
def wBits (w : Bool) : Nat := if w then 64 else 32
def narrowW (w : Bool) (v : Nat) : Nat := v % 2 ^ wBits w
def widenW (w : Bool) (v : Nat) : Nat := if w then v % 2 ^ 64 else sext 32 v 64

/-! Lanes (R160). -/
def lane (v i : Nat) : Nat := bitsOf v (32 * i) 32
/-- The register whose lane i is f i. -/
def packLanes (f : Nat → Nat) : Nat → Nat
  | 0 => 0
  | n + 1 => packLanes f n + f n % 2 ^ 32 * 2 ^ (32 * n)
def vlanes (f : Nat → Nat) : Nat := packLanes f 64
def bitAt (v i : Nat) : Bool := v / 2 ^ i % 2 == 1
/-- The register bits of the lanes whose bit is set in a 64-bit lane mask. -/
def laneMask (m : Nat) : Nat := vlanes fun i => if bitAt m i then 2 ^ 32 - 1 else 0
def allLanes : Nat := 2 ^ 2048 - 1

/-- A vector source: a latch, the literal and zero give every lane the same 32 bits (R162). -/
def State.rdV (s : State) (u : VUnit) (o : Src) : Res Nat :=
  match o with
  | .r i => s.pre.read (.v u i)
  | .n i => s.pre.read (.vn u i)
  | .q i => do let e ← s.pre.latch i; .ok (vlanes fun _ => e)
  | .lit => .ok (vlanes fun _ => s.litv)
  | .zero => .ok 0
def State.rdVD (s : State) (u : VUnit) (o : Dst) : Res Nat :=
  match o with
  | .r i => s.pre.read (.v u i)
  | .n i => s.pre.read (.vn u i)
  | .void => .ok 0
def State.rdM (s : State) (j : Fin 64) : Res Nat := s.pre.read (.m j)
/-- Chunk k, 64 bits, of a main-file register (R156). -/
def chunk (v : Nat) (k : Nat) : Nat := bitsOf v (64 * k) 64

end Sys2Proof.Machine

namespace Sys2Proof
open Machine

/-- The guard as the lanes of slots a and b see it (R96). -/
def Guard.lanes (g : Guard) (c : Ctx) : Nat := if g.neg then 2 ^ 64 - 1 - predBits c g.p else predBits c g.p
/-- The guard as every other slot sees it: bit 0 (R96). -/
def Guard.on (g : Guard) (c : Ctx) : Bool := (predBits c g.p % 2 == 1) != g.neg

def LSrc.rd (o : LSrc) (s : State) : Res Nat :=
  match o with
  | .q i => s.pre.latch i
  | .lit => .ok (sext 32 s.litv 64)
  | .zero => .ok 0
/-- The count operand of R109. -/
def Count.val (c : Count) (s : State) : Nat := match c with | .imm v => v.toNat | .lit => s.litv


def VUnit.slot (u : VUnit) : Nat := match u with | .a => 3 | .b => 4
def CUnit.slot (e : CUnit) : Nat := match e with | .c => 6 | .d => 7
def CUnit.eng (e : CUnit) : Fin 3 := match e with | .c => 1 | .d => 2

end Sys2Proof
end

