-- ==== Sys2Proof/Machine/Flags.lean ====
section
/-!
DEFINITION. Machine/Flags.lean: the sticky bits of SSTAT (R61, R283), conditions of compares, and the views that special
registers give (R280-R285).
-/
namespace Sys2Proof.Machine

def b2n (b : Bool) : Nat := if b then 1 else 0
/-- SSTAT bits of a floating-point operation's flags (Table 10-10). -/
def FFlags.bits (f : FFlags) : Nat := 16 * b2n f.nv + 8 * b2n f.dz + 4 * b2n f.of + 2 * b2n f.uf + b2n f.nx
/-- Sticky bits are set at the bundle's commit (R61, R359). -/
def State.setSticky (s : State) (bits : Nat) : State :=
  s.modCtx s.me fun c => c.modSys fun r => { r with sstat := r.sstat ||| BitVec.ofNat 9 bits }

/-- Flags of the scalar operations: the invalid operations of R60 without a NaN operand, and division by zero (R61). -/
def flagsAdd (x y : FVal) (f : FFlags) : FFlags :=
  match x, y with
  | .inf s, .inf t => { f with nv := s != t }
  | _, _ => f
def flagsMul (x y : FVal) (f : FFlags) : FFlags :=
  match x, y with
  | .inf _, .fin _ m _ => { f with nv := m == 0 }
  | .fin _ m _, .inf _ => { f with nv := m == 0 }
  | _, _ => f
def flagsDiv (x y : FVal) (f : FFlags) : FFlags :=
  match x, y with
  | .inf _, .inf _ => { f with nv := true }
  | .fin _ m _, .fin _ n _ => if n = 0 then (if m = 0 then { f with nv := true } else { f with dz := true }) else f
  | _, _ => f
def flagsSqrt (x : FVal) (f : FFlags) : FFlags :=
  match x with
  | .inf s => { f with nv := s }
  | .fin s m _ => { f with nv := s && m != 0 }
  | .nan => f
/-- FMA (R60, R61). DESIGN CHOICE: a NaN among the three operands sets no flag, also where the product is 0 × Inf, which R60 calls
invalid and R61 excuses only when a NaN is the only special input. -/
def flagsFma (x y z : FVal) (f : FFlags) : FFlags :=
  let p := x.mul y
  if x.isNan || y.isNan || z.isNan then f
  else if p.isNan then { f with nv := true }
  else flagsAdd p z f

/-- cond codes of CMPI (R146). -/
def condHolds (w : Nat) (cond a b : Nat) : Bool :=
  match cond with
  | 0 => a == b
  | 1 => a != b
  | 2 => decide (toSigned w a < toSigned w b)
  | 3 => decide (toSigned w a ≤ toSigned w b)
  | 4 => decide (a < b)
  | 5 => decide (a ≤ b)
  | 6 => decide (toSigned w b < toSigned w a)
  | _ => decide (toSigned w b ≤ toSigned w a)

/-- Whether a floating-point comparison holds: EQ, NE, LT, LE, unordered (R60, R149). -/
def fcond (cond : Nat) (x y : FVal) : Bool :=
  match x.cmp y, cond with
  | none, 1 => true
  | none, 4 => true
  | none, _ => false
  | some o, 0 => o == .eq
  | some o, 1 => o != .eq
  | some o, 2 => o == .lt
  | some o, 3 => o != .gt
  | some _, _ => false

/-! Views (Tables 10-11, 10-12). -/

/-- The rung assigned to an owner: the larger of its core and plain rungs (R319). -/
def Pitch.cur (p : Pitch) : Nat := max p.core p.plain
def Ctx.pitchView (c : Ctx) : Nat :=
  let p := c.pitch
  p.cur * 2 ^ 14 + p.ceil * 2 ^ 12 + p.floor * 2 ^ 10 + p.rank * 2 ^ 7 + b2n c.regs.sys.dmode * 64 + b2n p.relief * 32

/-- A core is in service: not fenced, withdrawn, retired or failed (R43, R396). -/
def State.inService (s : State) (c : Nat) : Bool :=
  let u := s.unit (coreUnit c)
  let h := (s.core c).health
  !u.retired && !u.out && !u.failed && !h.fenced
/-- The first condition of R43. -/
def State.eligible (s : State) (c : Nat) : Bool := s.inService c && !(s.core c).health.probation
def Part.grants (p : Part) (k : Nat) : Bool :=
  if isMesh k then p.cgrant.getLsbD (4 * (k % 256) + k / 256) else isStream k && p.sgrant.getLsbD (16 * (k % 4) + numOf k)
def Part.grantsCore (p : Part) (c : Nat) : Bool := (List.range 4).any fun x => p.grants (c + 256 * x)
def State.capCount (s : State) (p : Nat) : Nat :=
  ((List.range 256).filter fun c => (s.part p).grantsCore c && s.eligible c).length
def State.capView (s : State) (p : Nat) : Nat := ((s.part p).epoch % 65536) * 65536 + s.capCount p

/-- HBSTAT of a core (Table 10-12); a position that does not exist reads VIEW 3, and a stream core has no neighbours. -/
def State.hbView (s : State) (core : Nat) : Nat :=
  let h := (s.core core).health
  if 256 ≤ core then 0x03030303 else
  (List.range 4).foldl (fun a n =>
    let v := vget h.views n View.live
    match neighbour core n with
    | none => a + 3 * 2 ^ (8 * n)
    | some _ => a + (128 + 16 * b2n v.acc + v.view % 4) * 2 ^ (8 * n))
    (h.accusers.toNat * 2 ^ 32 + b2n h.probation * 2 ^ 40)

/-- CYCLE: since power-on, or since the node's launch less the time it was not bound (R281, R355). -/
def State.cycleOf (s : State) (c : Ctx) : Nat :=
  if c.regs.sys.dmode ∧ c.node ≠ 0 then s.now - (s.node c.node).launched - (s.node c.node).away else s.now

/-- What MFS reads (Table 10-8). -/
def State.special (s : State) (k n : Nat) : Nat :=
  let c := s.ctx k
  let y := c.regs.sys
  let core := coreOf k
  let bank (i : Nat) : Bank := vget y.banks i Bank.zero
  if n < 8 then (vget y.ident n 0).toNat
  else match n with
    | 8 => y.seed.toNat
    | 9 => y.tl
    | 10 => y.tvec.toNat
    | 11 => y.tsave.toNat
    | 12 => (bank 0).cause.toNat
    | 13 => (bank 1).cause.toNat
    | 14 => (bank 0).tpc.toNat
    | 15 => (bank 1).tpc.toNat
    | 16 => (bank 0).tval.toNat
    | 17 => (bank 1).tval.toNat
    | 18 => (bank 0).tmask.toNat
    | 19 => (bank 1).tmask.toNat
    | 20 => (bank 0).tdly.toNat
    | 21 => (bank 1).tdly.toNat
    | 22 => y.sstat.toNat
    | 23 => if isMesh k then c.pitchView else 0
    | 24 => s.capView c.part
    | 25 => s.cycleOf c % 2 ^ 64
    | 26 => y.egrant.toNat
    | 27 => min (s.core core).energy.stalls (2 ^ 32 - 1) * 2 ^ 32 + min (s.core core).energy.charge (2 ^ 32 - 1)
    | 28 => b2n y.dmode
    | 29 => y.rmode.toNat
    | 30 => if isStream k then 0 else y.tol.toNat
    | 31 => s.hbView core
    | m => (vget y.fmt (m - 32) 0).toNat

/-- A write of TDLY; whether the saved transfer is an RTT's stays with it while its value is the same (R282). -/
def Bank.setTdly (b : Bank) (v : Nat) : Bank :=
  let t := BitVec.ofNat 64 (v / 32 * 32 + v % 4)
  { b with tdly := t, rtt := if t = b.tdly then b.rtt else 0 }

/-- What MTS writes (Table 10-8); the caller has checked that n is writable. -/
def SysRegs.setSpecial (y : SysRegs) (n v : Nat) : SysRegs :=
  let bank (i : Nat) (f : Bank → Bank) : SysRegs := { y with banks := vset y.banks i (f (vget y.banks i Bank.zero)) }
  match n with
  | 8 => { y with seed := BitVec.ofNat 64 v }
  | 10 => { y with tvec := BitVec.ofNat 64 (v / 32 * 32) }
  | 11 => { y with tsave := BitVec.ofNat 64 (v / 512 * 512) }
  | 12 => bank 0 fun b => { b with cause := BitVec.ofNat 64 (v % 2 ^ 17) }
  | 13 => bank 1 fun b => { b with cause := BitVec.ofNat 64 (v % 2 ^ 17) }
  | 14 => bank 0 fun b => { b with tpc := BitVec.ofNat 64 (v / 32 * 32) }
  | 15 => bank 1 fun b => { b with tpc := BitVec.ofNat 64 (v / 32 * 32) }
  | 16 => bank 0 fun b => { b with tval := BitVec.ofNat 64 v }
  | 17 => bank 1 fun b => { b with tval := BitVec.ofNat 64 v }
  | 18 => bank 0 fun b => { b with tmask := BitVec.ofNat 8 v }
  | 19 => bank 1 fun b => { b with tmask := BitVec.ofNat 8 v }
  | 20 => bank 0 fun b => b.setTdly v
  | 21 => bank 1 fun b => b.setTdly v
  | 22 => { y with sstat := BitVec.ofNat 9 v }
  | 26 => { y with egrant := BitVec.ofNat 32 v }
  | 30 => { y with tol := BitVec.ofNat 32 v }
  | m => if 32 ≤ m then { y with fmt := vset y.fmt (m - 32) (BitVec.ofNat 32 v) } else y

end Sys2Proof.Machine
end

