-- ==== Sys2Proof/Machine/Memory.lean ====
section
/-!
DEFINITION. Machine/Memory.lean: the address map (R286, R287), translation (R288-R292), and the issue of slot accesses: checks
in the order of R292, segments (R130, R371), the scalar L1 (R152), then performing at once in the own scratchpad (R305) or
waiting in the context's list elsewhere (R306).
-/
namespace Sys2Proof.Machine

/-- What an access may be refused with, or where it goes. -/
inductive XRes where
  | ok (key : Nat) (uc : Bool) (s : State)
  | fault (cause : Nat)
  | pending (page leaf : Nat)
deriving DecidableEq, Repr

inductive Walk where
  | none | pending (pteKey : Nat) (level : Nat) | leaf (pte : Nat) (pteKey base size : Nat)
deriving DecidableEq, Repr

def pteAddr (e : Nat) : Nat := bitsOf e 8 40 * 256
/-- An entry meets the musts of Table 12-4 for a leaf mapping `size` bytes. -/
def leafOk (e size : Nat) : Bool := (bitsOf e 62 2 == 3 || bitsOf e 48 14 == 0) && pteAddr e % size == 0
/-- Musts of a non-leaf entry whose next table holds `bytes` bytes. -/
def tableOk (e bytes : Nat) : Bool :=
  bitsOf e 62 2 == 0 && bitsOf e 48 14 == 0 && bitsOf e 2 6 == 0 && pteAddr e % bytes == 0 &&
    decide (pteAddr e + bytes ≤ Config.hbmBytes)
/-- The levels of Table 12-3: lowest address bit, bits indexed, bytes of the next level's table. -/
def levels : List (Nat × Nat × Nat) := [(48, 9, 4096), (39, 9, 4096), (30, 9, 4096), (21, 9, 256), (16, 5, 0)]
def walkFrom (m : Memory) (va : Nat) : List (Nat × Nat × Nat) → Nat → Walk
  | [], _ => .none
  | (lo, w, next) :: r, tbl =>
    let pk := mkey 0 (tbl + 8 * bitsOf va lo w)
    let e := m.getN pk 8
    let size := 2 ^ lo
    let isLeaf := bitsOf e 1 1 == 1
    if isLeaf then
      if lo ≤ 30 ∧ leafOk e size then
        (if bitsOf e 0 1 = 1 then .leaf e pk (va / size * size) size else if next = 0 then .pending pk lo else .none)
      else .none
    else if bitsOf e 0 1 = 0 ∨ next = 0 ∨ !tableOk e next then .none
    else walkFrom m va r (pteAddr e)

/-- Memory space of a leaf's TYPE (Table 12-2). -/
def leafSpace (e : Nat) : Nat :=
  match bitsOf e 62 2 with
  | 3 => 3 + bitsOf e 48 14
  | t => t
/-- Whether a physical address lies in its memory (R2, R292). -/
def State.physOk (s : State) (e pa : Nat) : Bool :=
  match bitsOf e 62 2 with
  | 0 => decide (pa < Config.hbmBytes)
  | 1 => s.product == 1 && decide (pa < Config.carrierBytes)
  | 2 => true
  | _ => decide (pa < Config.hbmBytes)

/-- How a translation is used; a probe only asks where an address lies: it needs no permission and leaves no mark. -/
inductive AccMode where
  | read | write | fetch | probe
deriving DecidableEq, Repr
def permits (e : Nat) (m : AccMode) : Bool :=
  match m with
  | .read => bitsOf e 2 1 == 1
  | .write => bitsOf e 3 1 == 1
  | .fetch => bitsOf e 4 1 == 1
  | .probe => true

/-- The translation caches that a core looks in, in order, with their capacities (R291). A stream core and the management core
lie in no glen. -/
def cachesOf (core : Nat) : List (Nat × Nat) :=
  (core, 64) :: ((if core < 256 then [(512 + 16 * (core / 64) + glenNum core, 1024)] else []) ++ [(1024 + plainOf core, 16384)])
/-- A cache takes a translation; a full one replaces another of its own. -/
def State.putTlb (s : State) (t : Tlb) (cap : Nat) : State :=
  let rest := s.tlb.filter fun x => !(x.cache == t.cache && x.part == t.part && x.base == t.base)
  let mine := rest.filter fun x => x.cache == t.cache
  if mine.length < cap then { s with tlb := t :: rest }
  else
    let (i, s) := s.pick mine.length
    { s with tlb := t :: rest.filter fun x => mine[i]? != some x }
/-- Use of a leaf: permission, range, then the accessed and dirty bits, which a walker sets at package scope, and the translation
caches (R291, R292). A leaf of carrier memory is UNMAPPED in a product without any, whatever it permits (R2). DESIGN CHOICE: of another
leaf that refuses the access and maps an address outside its memory, the cause is PROTECTION; Table 12-5 gives no order. DEDUCED: a fetch from host or peer memory finds no device memory and is UNMAPPED (R314). -/
def State.useLeaf (s : State) (core part va e pk base size : Nat) (m : AccMode) : XRes :=
  let pa := pteAddr e + (va - base)
  if bitsOf e 62 2 = 1 ∧ s.product ≠ 1 then .fault 6
  else if !permits e m then .fault 8
  else if !s.physOk e pa || (m == .fetch && decide (2 ≤ bitsOf e 62 2)) then .fault 6
  else if m = .probe then .ok (mkey (leafSpace e) pa) (bitsOf e 5 1 == 1) s
  else
    let bits := 64 + if m = .write then 128 else 0
    let s := if e &&& bits = bits then s else (s.toHome (pk / 64)).modMem fun m => m.putN pk 8 (m.getN pk 8 ||| bits)
    let t : Tlb := ⟨core, part, base, size, BitVec.ofNat 64 (e ||| bits), pk⟩
    .ok (mkey (leafSpace e) pa) (bitsOf e 5 1 == 1) ((cachesOf core).foldl (fun s c => s.putTlb { t with cache := c.1 } c.2) s)

/-- Translation of a device-virtual address for a partition by a core (R288-R291). -/
def State.translate (s : State) (core part va : Nat) (m : AccMode) : XRes :=
  match (cachesOf core).findSome? fun c => s.tlb.find? fun t => t.cache == c.1 && t.part == part && decide (t.base ≤ va) && decide (va < t.base + t.size) with
  | some t => s.useLeaf core part va t.pte.toNat t.pteKey t.base t.size m
  | none =>
    match walkFrom s.mem va levels (s.part part).root with
    | .leaf e pk base size => s.useLeaf core part va e pk base size m
    | .pending pk _ => if (s.part part).migdest then .pending (va / 65536) pk else .fault 7
    | .none => .fault 7

/-- A context may touch a bank of a core: its own by its mask, another's when some context of its partition holds it
(R18). The management context holds no mask. -/
def State.bankOk (s : State) (k core bank : Nat) : Bool :=
  if isMgmt k then true
  else if core = coreOf k then (s.ctx k).ctl.banks.getLsbD bank
  else !(s.core core).health.fenced && (s.bound core).any fun j => (s.ctx j).part == (s.ctx k).part && (s.ctx j).ctl.banks.getLsbD bank

/-- The memory key of a scratchpad address, or none where R178, R18 or R399 refuse it. -/
def State.padKey (s : State) (k a : Nat) : Option Nat :=
  let own := coreOf k
  if isMesh k then
    if a < 0x300000 then (if s.bankOk k own (a / 0x20000) then some (mkey (padSpace own) a) else none)
    else if 0x400000 ≤ a ∧ a < 0x1000000 then
      let c := glenCore own ((a - 0x400000) / 0x300000)
      let o := (a - 0x400000) % 0x300000
      if s.bankOk k c (o / 0x20000) then some (mkey (padSpace c) o) else none
    else none
  else if a < 0x100000 then (if s.bankOk k own (a / 0x20000) then some (mkey (padSpace own) a) else none)
  else none

/-- The address map (R286, R287): scratchpad, unmapped, or translated. -/
def State.locate (s : State) (k a : Nat) (m : AccMode) : XRes :=
  if a < 0x1000000 then
    match s.padKey k a with
    | some key => .ok key false s
    | none => .fault 6
  else if a < 2 ^ 57 then s.translate (coreOf k) (s.ctx k).part a m
  else .fault 6

/-- Padded times of Table 16-1, reference cycles. -/
def paddedTime (own key : Nat) : Nat :=
  match spaceOf key with
  | 0 => 4800
  | 1 => 9600
  | 2 => 198000
  | sp => if 20000 ≤ sp then (if sp = padSpace own then 12 else 24) else 132000

def Access.blank (kind : AccKind) (n : Nat) : Access := ⟨0, 0, kind, 0, n, 0, 0, none, 0, 64, 0, 0, 5, 0, false, 0, false⟩

/-- Take an undo-log entry for a store to the own scratchpad while a segment is open (R130); older stores to its bytes, still to act in an
exact context, act first. -/
def State.logOwn (s : State) (k : Nat) (cells : List (Nat × Nat)) : Res State :=
  match (s.ctx k).seg with
  | none => .ok s
  | some g =>
    if 512 ≤ g.logged then .error (.trap 17 0)
    else
      let s := cells.foldl (fun s x => s.settleFor k (s.ctx k).accs { Access.blank .store x.2 with key := x.1 }) s
      .ok (s.modCtx k fun c => { c with seg := some { g with logged := g.logged + 1, log := (cells.map fun x => (x.1, x.2, s.getN x.1 x.2)).reverse ++ g.log } })

/-- Queue an access after the older ones; a bundle's loads come before its stores (R304). A full outstanding-request limit stalls
the bundle (R22); DESIGN CHOICE: it is a core's, and counts each access of slot s and each lane or word elsewhere. -/
def State.queueAccess (s : State) (k : Nat) (a : Access) : State :=
  let base := s.pre.seq
  let s := if a.kind != .done && !a.own && decide (768 ≤ s.outstanding (coreOf k)) then s.holdSlot 2 false none else s
  s.modCtx k fun c =>
    let old := c.accs.filter fun b => decide (b.seq < base)
    let new := c.accs.filter fun b => !decide (b.seq < base)
    let a := { a with seq := c.seq, bun := base }
    { c with seq := c.seq + 1,
             accs := if a.isLoad then old ++ new.filter Access.isLoad ++ [a] ++ new.filter (fun b => !b.isLoad) else c.accs ++ [a] }
/-- An access of the own scratchpad has acted (R305): its value lands, and it completes, by its due. -/
def State.queueDone (s : State) (k : Nat) (a : Access) (v : Nat) : State := s.queueAccess k { a with kind := .done, val := v }
/-- A store or atomic of the bundle acts at its issue: the loads of its bundle that have issued read before, and those to come read at
once, as if it had not (R304). -/
def State.loadsFirst (s : State) (k : Nat) : State :=
  let base := s.pre.seq
  let s : State := { s with opened := s.opened.map fun o => { o with acted := true } }
  (s.ctx k).accs.foldl (fun s a => if a.isLoad ∧ a.bun = base then (s.settleFor k ((s.ctx k).accs.takeWhile fun b => b.seq != a.seq) a).settle k a.seq else s) s
/-- What stands at n bytes, before the bundle's stores or atomics change it, is kept for the loads to come (R304). -/
def State.keepOld (s : State) (key n : Nat) : State :=
  { s with opened := s.opened.map fun o => { o with undo := (key, n, s.mem.getN key n) :: o.undo } }
/-- Stores or atomics to the own scratchpad are about to act: after the loads of their bundle. -/
def State.ownFirst (s : State) (k : Nat) (own : Bool) : State := if own && !(s.ctx k).exact then s.loadsFirst k else s
/-- The accesses of the own scratchpad numbered below q act: an engine command's events come after them (R246, R305). -/
def State.settleOwn (s : State) (k q : Nat) : State :=
  (s.ctx k).accs.foldl (fun s a => if a.own ∧ a.seq < q then s.settle k a.seq else s) s
/-- Memory as the loads of the bundle still to come read it. -/
def State.unacted (s : State) : Memory :=
  match s.opened with
  | some o => o.undo.foldl (fun m x => m.putN x.1 x.2.1 x.2.2) s.mem
  | none => s.mem
/-- The atomics of the bundle that have issued and still wait act, before another one of it does (R304). -/
def State.atomsFirst (s : State) (k : Nat) : State :=
  let base := s.pre.seq
  (s.ctx k).accs.foldl (fun s a => if a.isAtom ∧ a.bun = base then
    ((s.settleFor k ((s.ctx k).accs.takeWhile fun b => b.seq != a.seq) a).keepOld a.key a.n).settle k a.seq else s) s

/-- Bytes that buffered stores of the open segment lay over a value read from memory. -/
def overlay (buf : List Access) (key n v : Nat) : Nat :=
  buf.foldl (fun v a => (List.range n).foldl (fun v i =>
    if a.key ≤ key + i ∧ key + i < a.key + a.n then
      mergeBits v (bitsOf a.val (8 * (key + i - a.key)) 8 * 2 ^ (8 * i)) (255 * 2 ^ (8 * i)) else v) v) v

/-- A load waits in the list; one that stores held in the open segment overlap acts at once, with their bytes (R303), and so does one
that a store or atomic of its bundle has gone before: it reads what stood there before (R304). -/
def State.queueLoad (s : State) (k : Nat) (a : Access) : State :=
  let q := (s.ctx k).seq
  let s := s.queueAccess k a
  let buf := match s.pre.seg with | some g => g.buf | none => []
  let acted := match s.opened with | some o => o.acted | none => false
  if !acted && !buf.any fun b => b.overlaps a then s
  else
    let s := s.settleFor k ((s.ctx k).accs.takeWhile fun b => b.seq != q) a
    let (v, s) := s.act k { a with kind := .load }
    let v := if acted then s.unacted.getN a.key a.n else v
    let v := overlay buf a.key a.n v
    let v := if a.kind == .loadS then ofSigned a.width (toSigned (8 * a.n) v) else v
    s.modCtx k fun c => { c with accs := c.accs.map fun b => if b.seq = q then { b with kind := .done, val := v } else b }
/-- The stores that the open segment holds perform, in order (R128, R371). In deterministic operation the core goes on when the
latest of them has performed. -/
def State.performBuf (s : State) (k : Nat) : State :=
  match (s.ctx k).seg with
  | none => s
  | some g =>
    let base := s.pre.seq
    let here (s : State) (a : Access) : State := if s.opened.isSome ∧ a.bun = base then s.keepOld a.key a.n else s
    let s := g.buf.foldl (fun s a => (here (s.settleFor k (s.ctx k).accs a) a).perform k a) (s.modCtx k fun c => { c with seg := some { g with buf := [], used := g.atoms } })
    if (s.ctx k).exact then
      s.modCore (coreOf k) fun c => { c with next := g.buf.foldl (fun t a => max t (c.edge 0 (s.now + paddedTime (coreOf k) a.key))) c.next }
    else s
/-- A store elsewhere waits in the list, or in the buffer of the open segment (R128). -/
def State.remoteStore (s : State) (k : Nat) (a : Access) : State :=
  match (s.ctx k).seg with
  | none => s.queueAccess k a
  | some g => s.modCtx k fun c => { c with seq := c.seq + 1, seg := some { g with buf := g.buf ++ [{ a with seq := c.seq, bun := s.pre.seq }] } }
/-- The entry of the segment write buffer that a store or atomic elsewhere takes (R130). An atomic waits for the stores held,
whose entries it gives back, and makes the segment irrevocable (R371). -/
def State.bufEntry (s : State) (k : Nat) (elsewhere atom : Bool) : Res State :=
  let s := if elsewhere && atom then s.performBuf k else s
  match (s.ctx k).seg with
  | none => .ok s
  | some g =>
    if !elsewhere then .ok s
    else if 256 ≤ g.used then .error (.trap 17 0)
    else .ok (s.modCtx k fun c => { c with seg := some { g with used := g.used + 1, atoms := g.atoms + if atom then 1 else 0, irrevocable := g.irrevocable || atom } })
/-- An atomic elsewhere waits in the list; in an open segment it performs at once (R371). -/
def State.remoteAtomic (s : State) (k : Nat) (a : Access) : State :=
  let q := (s.ctx k).seq
  let s := s.queueAccess k a
  if (s.ctx k).seg.isNone then s
  else (((s.loadsFirst k).settleFor k ((s.ctx k).accs.takeWhile fun b => b.seq != q) { a with seq := q, bun := s.pre.seq }).keepOld a.key a.n).settle k q

/-- An access of the own scratchpad performs at its issue (R305), and its value lands by its due: a load reads memory as it stood before the
bundle's stores, an atomic goes after the earlier ones of its bundle (R304). In an exact context it performs when it is due (R342). -/
def State.ownAccess (s : State) (k : Nat) (a : Access) : State :=
  if (s.ctx k).exact then (if a.isLoad then s.queueLoad k { a with own := true } else s.queueAccess k { a with own := true })
  else match a.kind with
    | .load => s.queueDone k a (s.loadMem.getN a.key a.n)
    | .loadS => s.queueDone k a (ofSigned a.width (toSigned (8 * a.n) (s.loadMem.getN a.key a.n)))
    | .store => ((s.putN a.key a.n a.val).clearPoison a.key a.n).queueDone k a 0
    | .atomic op => let s := s.atomsFirst k
                    let old := s.getN a.key a.n
                    (s.putN a.key a.n (atomNew op (8 * a.n) old a.val a.cmp)).queueDone k a (oldValue op a.n a.width old)
    | .done => s

/-- An open DET reduction that a location belongs to (R155). -/
def State.inReduction (s : State) (key n : Nat) : Bool :=
  s.reds.any fun r => r.keys.any fun x => x.2 != 0 && decide (x.1 / 64 ≤ (key + n - 1) / 64) && decide (key / 64 ≤ (x.1 + x.2 - 1) / 64)

/-- An access waits for a pending page, for 2^26 reference cycles at most (R384). -/
def Ctx.pageStop (c : Ctx) (now page leaf addr : Nat) : Stop :=
  match c.held with
  | some (p, g, t) => if p = c.part ∧ g = page ∧ t + 2 ^ 26 ≤ now then .trap 7 addr else .page c.part page leaf
  | none => .page c.part page leaf
/-- One naturally aligned access of slot s (R151, R154). `a` carries kind, size, data and destination; its address is
checked here. DESIGN CHOICE: an ORDERED_CONFLICT (R155) leaves the access's address in TVAL, for which the spec gives nothing. -/
def State.scalarAccess (s : State) (addr : Nat) (a : Access) : Res State := do
  let k := s.me
  let core := coreOf k
  let c := s.pre
  let rd := a.isLoad
  let atom := a.isAtom
  if addr % a.n ≠ 0 then .error (.trap 5 addr)
  else match s.locate k addr (if rd then .read else .write) with
    | .fault e => .error (.trap e addr)
    | .pending page leaf =>
      .error (c.pageStop s.now page leaf addr)
    | .ok key uc s =>
      if atom ∧ spaceOf key = 2 then .error (.trap 6 addr)
      else if (match a.kind with | .atomic .fadd => s.inReduction key a.n | _ => false) then .error (.trap 19 addr)
      else if (rd ∨ atom) ∧ s.poisoned key a.n then .error (.poison addr (holderUnit key))
      else
        let stale := match a.dst with | some l => c.locked l | none => false
        if stale then .error .stall
        else
          let sc := if spaceOf key = 2 then 5 else if 3 ≤ spaceOf key ∧ !isPad key then max s.scope 4 else s.scope
          let a : Access := { a with key := key, uc := uc, scope := sc, part := c.part, due := s.now + paddedTime core key, cls := 5, va := addr }
          let s := (if rd then s.note 5 8 addr else s.note 4 8 addr)
          let s := if rd then s else s.note 4 a.n a.val
          if key / spaceSize = padSpace core then
            if rd then .ok (s.ownAccess k a)
            else do
              let s ← s.logOwn k [(key, a.n)]
              .ok ((s.ownFirst k true).ownAccess k a)
          else if rd then .ok (s.queueLoad k a)
          else do
            let s ← s.bufEntry k true atom
            .ok (if atom then s.remoteAtomic k a else s.remoteStore k a)

/-- Addresses of the active lanes of a vector access, lowest first (R178). -/
def activeLanes (mask : Nat) : List Nat := (List.range 64).filter (bitAt mask)
/-- The keys of the active lanes, or the first faulting lane's cause and address (R178, R292). -/
def State.laneKeys (s : State) (k : Nat) (addr : Nat → Nat) : List Nat → Res (List (Nat × Nat))
  | [] => .ok []
  | i :: r =>
    let a := addr i % 2 ^ 32
    if a % 4 ≠ 0 then .error (.trap 5 a)
    else match s.padKey k a with
      | none => .error (.trap 6 a)
      | some key => if s.poisoned key 4 then .error (.poison a (holderUnit key)) else do
          let t ← State.laneKeys s k addr r
          .ok ((i, key) :: t)

def isOwn (k key : Nat) : Bool := key / spaceSize == padSpace (coreOf k)

/-- A vector load (R179, R181): own lanes read now and land later, other cores' lanes wait in the list. -/
def State.vload (s : State) (u : VUnit) (d : Dst) (mask : Nat) (addr : Nat → Nat) : Res State := do
  let k := s.me
  let keys : List (Nat × Nat) ← s.laneKeys k addr (activeLanes mask)
  match vLoc u d with
  | none => .ok ((keys.foldl (fun s x => s.note 5 4 (addr x.1)) s))
  | some l =>
    if s.pre.locked l then .error .stall
    else
      let glen := keys.any fun x => !isOwn k x.2
      let due := s.after (coreOf k) 1 (if glen then 14 else 8)
      .ok (keys.foldl (fun s x =>
        let s := s.note 5 4 (addr x.1)
        let a := { Access.blank .load 4 with
          key := x.2, dst := some l, shift := 32 * x.1, width := 32, scope := s.scope, due := due, cls := 1, part := s.pre.part }
        if isOwn k x.2 then s.ownAccess k a else s.queueLoad k a) s)

/-- A vector store (R179, R180): lanes in order, higher lanes last. -/
def State.vstore (s : State) (mask : Nat) (addr data : Nat → Nat) : Res State := do
  let k := s.me
  let keys : List (Nat × Nat) ← ({ s with poison := [] }).laneKeys k addr (activeLanes mask)
  let own : List (Nat × Nat) := keys.filter fun x => isOwn k x.2
  let s ← if own = [] then .ok s else s.logOwn k (own.map fun x => (x.2, 4))
  let s ← s.bufEntry k (keys.any fun x => !isOwn k x.2) false
  let s := s.ownFirst k (own != [])
  .ok (keys.foldl (fun s x =>
    let s := (s.note 4 4 (addr x.1)).note 4 4 (data x.1)
    let a := { Access.blank .store 4 with
      key := x.2, val := data x.1 % 2 ^ 32, width := 32, scope := s.scope, due := s.now + paddedTime (coreOf k) x.2, part := s.pre.part }
    if isOwn k x.2 then s.ownAccess k a else s.remoteStore k a) s)

/-- A vector atomic (R182): lanes in ascending order, each on the word the lower lanes left. DESIGN CHOICE: the access of every lane is
checked before the lanes are looked at for an ORDERED_CONFLICT, which Table 12-5 does not place (log 33). -/
def State.vatomic (s : State) (u : VUnit) (d : Dst) (mask : Nat) (addr data : Nat → Nat) (op : AtomOp) : Res State := do
  let k := s.me
  let keys : List (Nat × Nat) ← s.laneKeys k addr (activeLanes mask)
  match (if op = .fadd then keys.find? fun x => s.inReduction x.2 4 else none) with
  | some x => .error (.trap 19 (addr x.1 % 2 ^ 32))
  | none =>
  let l := vLoc u d
  if (match l with | some l => s.pre.locked l | none => false) then .error .stall
  else
    let glen := keys.any fun x => !isOwn k x.2
    let due := s.after (coreOf k) 1 (if glen then 14 else 8)
    let own := keys.filter fun x => isOwn k x.2
    let s ← if own = [] then .ok s else s.logOwn k (own.map fun x => (x.2, 4))
    let s ← s.bufEntry k glen true
    let s := s.ownFirst k (own != [])
    .ok (keys.foldl (fun s x =>
      let s := (s.note 4 4 (addr x.1)).note 4 4 (data x.1)
      let a := { Access.blank (.atomic op) 4 with
        key := x.2, val := data x.1 % 2 ^ 32, dst := l, shift := 32 * x.1, width := 32, scope := s.scope, due := due, cls := 1, part := s.pre.part }
      if isOwn k x.2 then s.ownAccess k a else s.remoteAtomic k a) s)

/-- The 256 word keys of a series access, or why it has none (R191): aligned to 64 bytes, within one space of R178. DESIGN CHOICE: where its
range leaves its space, TVAL is the base address; R292 says only the faulting address (log 33). -/
def State.wordKeys (s : State) (k a : Nat) : Nat → Res (List (Nat × Nat))
  | 0 => .ok []
  | n + 1 =>
    match s.padKey k (a + 4 * n) with
    | none => .error (.trap 6 a)
    | some key => do
      let t ← State.wordKeys s k a n
      .ok ((n, key) :: t)
def State.xload (s : State) (d : Fin 16) (a : Nat) : Res State := do
  let k := s.me
  if a % 64 ≠ 0 then .error (.trap 5 a)
  else
    let keys : List (Nat × Nat) := (← s.wordKeys k a 256).reverse
    match keys.find? fun x => s.poisoned x.2 4 with
    | some x => .error (.poison (a + 4 * x.1) (holderUnit x.2))
    | none =>
    if s.pre.locked (.x d) then .error .stall
    else
      let due := s.after (coreOf k) 2 (if keys.any fun x => !isOwn k x.2 then 54 else 48)
      let s := s.note 5 8 a
      .ok (if keys.all fun x => isOwn k x.2 then
          s.ownAccess k { Access.blank .load 1024 with
            key := (keys.head?.map Prod.snd).getD 0, dst := some (.x d), width := 8192, scope := s.scope, due := due, cls := 2, part := s.pre.part }
        else keys.foldl (fun s x =>
          let a := { Access.blank .load 4 with
            key := x.2, dst := some (.x d), shift := 32 * x.1, width := 32, scope := s.scope, due := due, cls := 2, part := s.pre.part }
          if isOwn k x.2 then s.ownAccess k a else s.queueLoad k a) s)
def State.xstore (s : State) (v a : Nat) : Res State := do
  let k := s.me
  if a % 64 ≠ 0 then .error (.trap 5 a)
  else
    let keys : List (Nat × Nat) := (← s.wordKeys k a 256).reverse
    let own := keys.filter fun x => isOwn k x.2
    let s ← if own = [] then .ok s else s.logOwn k (own.map fun x => (x.2, 4))
    let s ← s.bufEntry k (keys.any fun x => !isOwn k x.2) false
    let s := (s.note 4 8 a).note 4 1024 v
    let s := s.ownFirst k (own != [])
    .ok (keys.foldl (fun s x =>
      let w := bitsOf v (32 * x.1) 32
      let a := { Access.blank .store 4 with
        key := x.2, val := w, width := 32, scope := s.scope, due := s.now + paddedTime (coreOf k) x.2, part := s.pre.part }
      if isOwn k x.2 then s.ownAccess k a else s.remoteStore k a) s)

end Sys2Proof.Machine
end

