-- ==== Sys2Proof/Machine/Node.lean ====
section
/-!
DEFINITION. Machine/Node.lean: freeing and killing contexts, the end of a node (R33-R38), capacity (R410), fencing (R398,
R399), scores and retirement (R407, R408), and the end of an asynchronous privileged form (R258).
-/
namespace Sys2Proof.Machine

/-- The end of an asynchronous form: SYSDONE and the flag, if its issuer, wherever it has been loaded, is still the context that issued it
(R258). -/
def State.finishOp (s : State) (op : SysOp) (outcome : Nat) : State :=
  let here (j : Nat) : Bool := (s.ctx j).status != .free && (s.ctx j).life == op.life
  match op.issuer.bind fun k => if here k then some k else if op.life = 0 then none else s.ctxKeys.find? here with
  | none => s
  | some k => (s.postQ k 2 (element 0x20 (op.opcode * 2 ^ 48 + outcome * 2 ^ 40 + op.ticket % 2 ^ 40))).postFlag k op.flag 1

/-- Stream contexts of a partition that are Running or Ready, lowest number first (R410). -/
def State.listener (s : State) (p : Nat) : Option Nat :=
  (s.ctxKeys.filter fun k => isStream k && (s.ctx k).part == p && ((s.ctx k).status == .running || (s.ctx k).status == .ready)).head?

/-- A change of a core's capacity reaches every partition granted a context on it (R284, R410). -/
def State.postCapacity (s : State) (core reason : Nat) : State :=
  ((List.range 64).filter fun p => (s.part p).exist && (s.part p).grantsCore core).foldl (fun s p =>
    let s := s.modPart p fun x => { x with epoch := (x.epoch + 1) % 65536 }
    match s.listener p with
    | none => s
    | some k => s.postQ k 2 (element 0x60 (reason * 2 ^ 52 + core * 2 ^ 32 + s.capView p))) s

/-- An owner leaves its governors, with what it asked of them; the other entries keep their order (R328). -/
def State.leaveGovernors (s : State) (k : Nat) : State :=
  let core := coreOf k
  let s := s.modCore core fun c => { c with gov := { c.gov with stack := c.gov.stack.filter (· ≠ numOf k) } }
  let pl := plainOf core
  { s with
    plains := vset s.plains pl (let g := vget s.plains pl Governor.reset; { g with stack := g.stack.filter (· ≠ k) }),
    traffic := s.traffic.filter fun t => t.owner != k }

/-- A context becomes Free. Its accesses have performed or perform now; its suspended commands are discarded (R248), and the
others go on until they perform, unless all of them are discarded, with its image saved (R33, R264, R266). -/
def State.freeCtx (s : State) (k : Nat) (discard : Bool) : State :=
  let s := (((s.performAll k).flushStores k false).leaveGovernors k).modPart (s.ctx k).part fun x => { x with parked := x.parked.filter fun y => y.1 ≠ k }
  let s := s.modCtx k fun c => { c with
    status := .free, wait := Wait.none, run := 0, wdPend := none, wdHeld := none, async := [], flights := [], seg := none, arrived := false,
    ridging := false, rdvAt := false, abort := false, forced := false, saving := false, rolling := false, kill := none, held := none,
    checkAt := none, narrow := [], posts := [], life := if discard then c.life else 0, passes := [], cmds := if discard then [] else c.cmds.filter fun m => m.susp.isNone }
  s.modCore (coreOf k) fun c => if c.cur = some k then { c with cur := none, last := numOf k } else c

/-- Bits of the node status word (Table 7-7). -/
def statusWord (state cause who : Nat) : Nat := state + cause % 65536 * 2 ^ 16 + who % 2 ^ 32 * 2 ^ 32

/-- Write a status word at package scope. -/
def State.writeStatus (s : State) (key : Nat) (uc : Bool) (state cause who : Nat) : State := s.writeAt 0 0 3 uc key 8 (statusWord state cause who)

/-- The RIDGE that the context stands at: its trap level and address. -/
def Ctx.ridgeKey (c : Ctx) : Nat × Word := (c.regs.sys.tl, c.regs.flow.pc)
/-- A node whose peer ended badly ends ABORTED: participants waiting at the ridge, with earlier work still to perform or not, trap
RIDGE_ABORT, then all are killed (R38). -/
def State.abortNode (s : State) (n : Nat) : State :=
  let nd := s.node n
  let s := s.killNode n 5 23 0
  nd.ctxs.foldl (fun s k =>
    let c := s.ctx k
    if c.node = n ∧ c.ridging ∧ c.status = .blocked then
      (s.modCtx k fun c => { c with arrived := false, ridging := false, status := .ready, wait := Wait.none }).takeTrap k 23 0 2 false
    else s) s

/-- The end of a node, all of whose contexts are Free (R33, R34): every command performs or is gone, then the status word,
then the flag. The packages of its ridge group learn of it. -/
def State.endNode (s : State) (n : Nat) : State :=
  let nd := s.node n
  let (st, cause, who) := nd.cause.getD (2, 0, 0)
  let s := s.writeStatus nd.status nd.uc st cause who
  let s := s.postFlag nd.owner nd.flag 1
  let s := s.modNode n fun x => { x with run := false }
  if nd.group = 0 then s else s.answer (.ended nd.group st)

/-! Capacity of a plain's resources (R329, R336). -/

/-- Channels, or passes, in service. -/
def State.liveUnits (s : State) (l : List Nat) : Nat := (l.filter fun u => !(s.unit u).out && !(s.unit u).retired && !(s.unit u).failed).length
/-- The rate of an HBM stack in percent of the full one (Table 26-2). -/
def Thermal.percent (t : Thermal) : Nat := if t.off then 0 else if t.cap then 70 else if t.refresh2 then 95 else 100
/-- Bytes that a resource of a plain can deliver in a window, at its current rate and at its full rate (R3, R329, R336): 3.2 TB/s a stack
of 32 channels, 50 GB/s a carrier channel, 4 TB/s a pass, of which two leave a plain. -/
def State.capacity (s : State) (pl res : Nat) : Nat × Nat :=
  let bytes (rate n : Nat) : Nat := rate * n * 2048 / 6600000000
  match res with
  | 0 => (Config.l2Window, Config.l2Window)
  | 1 =>
    let stack (i : Nat) : Nat := bytes (1000000000 * (vget s.hbmStacks i ⟨false, false, false⟩).percent) (s.liveUnits ((List.range 32).map fun c => 3 * 2 ^ 28 + 32 * i + c))
    (stack (2 * pl) + stack (2 * pl + 1), 2 * bytes 100000000000 32)
  | 2 => (bytes 50000000000 (if s.product = 1 then s.liveUnits ((List.range 4).map fun c => 4 * 2 ^ 28 + 4 * pl + c) else 0), bytes 50000000000 4)
  | _ => (bytes 4000000000000 (s.liveUnits [2 ^ 28 + pl, 2 ^ 28 + (pl + 3) % 4]), bytes 4000000000000 2)
/-- Before a change of rate: the window at hand keeps the capacities that it began with, and the next has the new ones (R336). -/
def State.latchRates (s : State) : State :=
  let w := s.now / 2048
  { s with rates := (List.range 16).foldl (fun l i =>
      if l.any fun x => x.1 == i / 4 && x.2.1 == i % 4 && x.2.2.1 == w then l else l ++ [(i / 4, i % 4, w, (s.capacity (i / 4) (i % 4)).1)]) s.rates }
/-- The capacity of a resource in a window. -/
def State.capacityIn (s : State) (pl res w : Nat) : Nat :=
  match s.rates.find? fun x => x.1 == pl && x.2.1 == res && decide (w ≤ x.2.2.1) with
  | some x => x.2.2.2
  | none => (s.capacity pl res).1

/-! Fencing and retirement. -/

/-- End a lease of a unit with an outcome (R271). -/
def State.endLease (s : State) (u outcome : Nat) : State :=
  let mine : SysOp → Bool := fun o => o.kind == .lease && o.target == u
  let s' := (s.ops.filter mine).foldl (fun s o => s.finishOp o outcome) s
  let s' := { s' with ops := s'.ops.filter fun o => !mine o }
  (if (s'.unit u).out then s'.latchRates else s').modUnit u fun x => { x with lease := false, out := false, stop := false }

/-- Mark every view of a core by its neighbours (R396). -/
def State.setViews (s : State) (x : Nat) (f : View → View) : State :=
  (List.range 4).foldl (fun s n =>
    match neighbour x n with
    | none => s
    | some y => s.modCore y fun c => { c with health := { c.health with
        views := vset c.health.views ((n + 2) % 4) (f (vget c.health.views ((n + 2) % 4) View.live)) } }) s

/-- At a fence the neighbours drop what comes from the core (R398, R252). Of its messages and accesses under way each has passed its first hop
and goes on, or is dropped; of its copies some batches have. Which have is not said: free choices. -/
def State.dropFlits (s : State) (x : Nat) : State :=
  let s := s.msgs.foldl (fun s m =>
    if coreOf m.src ≠ x then s
    else let (i, s) := s.pick 2
         if i = 0 then { s with msgs := s.msgs.erase m } else s) s
  ((List.range (ctxCount x)).map (keyOf x)).foldl (fun s k =>
    let s := (s.ctx k).accs.foldl (fun s a =>
      if a.kind = .done ∨ a.own then s
      else let (i, s) := s.pick 2
           if i = 0 then s.modCtx k fun c => { c with accs := c.accs.filter fun b => b.seq ≠ a.seq } else s) s
    (s.ctx k).cmds.foldl (fun s m =>
      if m.eng = 0 ∨ m.hop.isSome then s
      else
        let (i, s) := s.pick (2 ^ 40)
        let hop := if m.start.isNone then (0, 0) else (m.landed.foldl (fun t b => max t (b + 1)) m.done, i)
        s.modCtx k fun c => { c with cmds := c.cmds.map fun w => if w.eng = m.eng ∧ w.num = m.num then { w with hop := some hop } else w }) s) s
/-- A core is fenced: its nodes end FENCED, a pending lease is cancelled, capacity falls, its self test starts
(R398-R400). -/
def State.fenceBase (s : State) (x : Nat) : State :=
  if (s.core x).health.fenced then s
  else
    let s := s.modCore x fun c => { c with health := { c.health with
      fenced := true, probation := false, clean := 0, testing := if c.health.barred then none else some s.now,
      fences := (s.before + s.now) :: c.health.fences.filter fun t => decide (s.before + s.now < t + Config.perDay) } }
    let s := s.dropFlits x
    let nodes := ((s.bound x).map fun k => (s.ctx k).node).eraseDups
    let s := (s.bound x).foldl (fun s k => s.modCtx k fun c => { c with kill := c.kill.or (some 0) }) s
    let s := nodes.foldl (fun s n => if n = 0 then s else
      let who := ((s.bound x).find? fun k => (s.ctx k).node = n).getD 0
      s.killNode n 4 0 ((s.ctx who).regs.sys.ident[2]).toNat) s
    let s := if (s.unit (coreUnit x)).lease then s.endLease (coreUnit x) 4 else s
    (s.setViews x fun v => { v with view := 3 }).postCapacity x 2

/-- Retirement of a unit with a reason (R407, R408): it leaves service at once, a bound core is fenced first, a lease ends
BAD_STATE unless its own pattern failed, an appeal FAILED (R275); its record is then written. -/
def State.retireUnit (s : State) (u reason : Nat) (op : SysOp) (leaseOut : Nat) : State :=
  if (s.unit u).retired then s
  else
    let core := decide (u < 256)
    let s := if core ∧ (s.bound u) ≠ [] then s.fenceBase u else s
    let s := if (s.unit u).lease then s.endLease u leaseOut else s
    let s := s.latchRates.modUnit u fun x => { x with retired := true }
    let s := if core then (s.setViews u fun v => { v with view := 3, acc := false, set := [] }).postCapacity u 4 else s
    let mine : SysOp → Bool := fun o => core && o.kind == .appeal && o.target == u
    let s' := (s.ops.filter mine).foldl (fun s o => s.finishOp o 6) s
    let s : State := { s' with ops := s'.ops.filter fun o => !mine o }
    { s with ops := s.ops ++ [{ op with kind := .retire, target := u, a := reason, b := (s.unit u).score, due := s.now }] }

def SysOp.none : SysOp := ⟨.retire, Option.none, 0, 111, 0, 0, 0, 0, 0, 0, []⟩

/-- Units whose score has reached 4096 are retired with reason 0 (R407). -/
def State.settleScores (s : State) : State :=
  ((s.units.filter fun u => decide (4096 ≤ u.2.score) && !u.2.retired).map Prod.fst).foldl (fun s u => s.retireUnit u 0 SysOp.none 4) s

/-- Fencing by a vote or notice: a second fence in 24 hours, or one on probation, retires the core (R399, R401). -/
def State.fenceCore (s : State) (x : Nat) : State :=
  let h := (s.core x).health
  if h.fenced ∨ (s.unit (coreUnit x)).retired then s
  else
    let again := h.probation || h.fences.any fun t => decide (s.before + s.now < t + Config.perDay)
    let s := s.fenceBase x
    if again then s.retireUnit (coreUnit x) 2 SysOp.none 4 else s

/-- Bank b of a core passes to a partition: zeroed when its owner changes (R18, R383). -/
def State.takeBank (s : State) (core part b : Nat) : State :=
  let own := ((s.core core).owners.find? fun x => x.1 = b).map Prod.snd
  let s := if own = some part then s else s.zero (mkey (padSpace core) (b * 0x20000)) 0x20000
  s.modCore core fun c => { c with owners := (b, part) :: c.owners.filter fun x => x.1 ≠ b }
def State.takeBanks (s : State) (core part : Nat) (mask : BitVec 24) : State :=
  ((List.range 24).filter fun b => mask.getLsbD b).foldl (fun s b => s.takeBank core part b) s

/-- The trailer of a pair holds what its lead holds (R388). -/
def State.mirror (s : State) (k : Nat) : State :=
  let c := s.ctx k
  if isMesh k ∧ c.regs.sys.rmode = 1 then
    s.modCtx (keyOf (coreOf k + 1) (numOf k)) fun t =>
      if t.lead = k ∧ t.node = c.node then
        { c with cmds := [], flights := [], accs := [], kill := t.kill.or c.kill, lead := k,
                 regs := { c.regs with sys := { c.regs.sys with rmode := 3, ident := c.regs.sys.ident.set 1 (t.regs.sys.ident[1]) } } }
      else t
  else s
/-- The context of the same node, at the same declared index, on a core (R122); on the trailing core of a pair, the one context that
runs on both, which its lead stands for (R388). -/
def State.sibling (s : State) (k core : Nat) : Option Nat :=
  let c := s.ctx k
  if c.node = 0 then none
  else ((s.bound core).find? fun j => (s.ctx j).node = c.node && (s.ctx j).idx = c.idx).map fun j =>
    if (s.ctx j).regs.sys.rmode.getLsbD 1 then keyOf (core - 1) (numOf j) else j
/-- The core that TGT names (Table 7-3), if inside the mesh. -/
def tgtCore (core t : Nat) : Option Nat := if t < 4 then some (glenCore core t) else neighbour core (t - 4)
/-- The receiver of POSTR and SEND, or none: BAD_TARGET (R122). -/
def State.receiver (s : State) (k t : Nat) : Option Nat :=
  if !isMesh k then none else (tgtCore (coreOf k) t).bind fun c => s.sibling k c

end Sys2Proof.Machine
end

