-- ==== Sys2Proof/Machine/Commit.lean ====
section
/-!
DEFINITION. Machine/Commit.lean: fetching a bundle (R314), the host writes of a bundle (R432), opening a bundle, and its end:
it blocks, stalls, traps or commits (R83, R106, R114, R116, R359). Slot meanings act on the open bundle through `runSlot`.
-/
namespace Sys2Proof.Machine

/-! Fetch. -/
inductive Fetched where
  | ok (b : Nat) (s : State) | fault (cause : Nat) | poison (unit : Nat) | wait (part page leaf : Nat)
deriving DecidableEq, Repr

/-- The bundle that the loop buffer holds at an address (R116). -/
def bodyAt (loops : List Level) (pc : Nat) : Option Nat :=
  match loops with
  | [] => none
  | l :: r => if l.first ≤ pc ∧ pc ≤ l.last then (l.body[(pc - l.first) / 32]?).map BitVec.toNat else bodyAt r pc

/-- A bundle of device memory, through the instruction cache (R314). Only translated addresses are fetched. DESIGN CHOICE: a fetch reads
at plain scope, for which R314 gives none, so that a bundle may come from the plain's own copy of its line. -/
def State.fetchAt (s : State) (k pc : Nat) : Fetched :=
  let core := coreOf k
  match (s.core core).icache.find? fun l => l.1 == numOf k && l.2.1 == pc with
  | some l => .ok l.2.2.toNat s
  | none =>
    if pc < 0x1000000 then .fault 6
    else match s.locate k pc .fetch with
      | .fault c => .fault c
      | .pending page leaf =>
        match (s.ctx k).held with
        | some (p, g, t) => if p = (s.ctx k).part ∧ g = page ∧ t + 2 ^ 26 ≤ s.now then .fault 7 else .wait (s.ctx k).part page leaf
        | none => .wait (s.ctx k).part page leaf
      | .ok key uc s =>
        if s.poisoned key 32 then .poison (holderUnit key)
        else
          let b := s.readAt s.mem (plainOf core) (s.ctx k).part 2 uc key 32
          .ok b (s.modCore core fun c => { c with icache := (numOf k, pc, BitVec.ofNat 256 b) :: c.icache })

/-- A bundle of a body that its LOOP could not fetch, the first one missing, is in the loop buffer once it has been fetched (R116). -/
def Level.keep (pc b : Nat) (l : Level) : Level :=
  if l.first ≤ pc ∧ pc ≤ l.last ∧ pc = l.first + 32 * l.body.length then { l with body := l.body ++ [BitVec.ofNat 256 b] } else l
def State.keepBody (s : State) (k pc b : Nat) : State :=
  if (s.ctx k).regs.flow.loops.all fun l => l.keep pc b == l then s
  else s.modCtx k fun c => c.modFlow fun f => { f with loops := f.loops.map (Level.keep pc b) }
def State.fetch (s : State) (k : Nat) : Fetched :=
  let f := (s.ctx k).regs.flow
  match bodyAt f.loops f.pc.toNat with
  | some b => .ok b s
  | none => match s.fetchAt k f.pc.toNat with
    | .ok b t => .ok b (t.keepBody k f.pc.toNat b)
    | r => r

/-- The body of a loop as far as it can be fetched (R116): out of the loop buffer where an outer level lies there. -/
def State.fetchBody (s : State) (k : Nat) (outer : List Level) (pc : Nat) : Nat → List (BitVec 256) × State
  | 0 => ([], s)
  | n + 1 =>
    match (match bodyAt outer pc with | some b => Fetched.ok b s | none => s.fetchAt k pc) with
    | .ok b s => let (l, s) := State.fetchBody s k outer (pc + 32) n
                 (BitVec.ofNat 256 b :: l, s)
    | _ => ([], s)
/-- The bodies of the levels that an RTT restores are fetched again, the outermost first (R118). -/
def State.refetch (s : State) (k : Nat) : List Level → List Level × State
  | [] => ([], s)
  | l :: r =>
    let (r, s) := State.refetch s k r
    let (b, s) := s.fetchBody k r l.first ((l.last - l.first) / 32 + 1)
    ({ l with body := b } :: r, s)

def hdrScope (h : Nat) : Nat := bitsOf h 26 3
def hdrHW (h : Nat) : Bool := bitsOf h 25 1 == 1
def hdrPop (h : Nat) : Nat := bitsOf h 21 4
def hdrLit (h : Nat) : Nat := bitsOf h 0 3
def hdrEW (h : Nat) : Nat := bitsOf h 29 3

/-! Host writes (R431, R432). -/
def eaveSpace (n : Nat) : Nat := (n + 63) / 64 * 64 + 64
/-- Where the bytes of a host access lie: one run per 64 KiB page, or the first address that does not translate. -/
def State.hostRuns (s : State) (core part va n : Nat) (m : AccMode) : Nat → Except Nat (List (Nat × Nat × Bool) × State)
  | 0 => .ok ([], s)
  | fuel + 1 =>
    if n = 0 then .ok ([], s)
    else if va < 0x1000000 ∨ 2 ^ 57 ≤ va then .error va
    else
      let len := min n (65536 - va % 65536)
      match s.translate core part va m with
      | .ok key uc s =>
        match State.hostRuns s core part (va + len) (n - len) m fuel with
        | .ok (r, s) => .ok ((key, len, uc) :: r, s)
        | .error a => .error a
      | _ => .error va
/-- Write bytes over runs of keys, at package scope. -/
def State.writeRuns (s : State) (plain part : Nat) : List (Nat × Nat × Bool) → List Byte → State
  | [], _ => s
  | (key, len, uc) :: r, l =>
    let s := ((s.writeAt plain part 3 uc key len (ofBytes (l.take len))).clearPoison key len).touchHome plain part 3 uc key len
    State.writeRuns s plain part r (l.drop len)
/-- The register block of a partition's function on a link (R429, R430). -/
def Part.modVf (x : Part) (l : Fin 2) (f : VfRegs → VfRegs) : Part := { x with vf := x.vf.set l (f x.vf[l]) }
def satAdd1 (v : Word) : Word := if v = BitVec.ofNat 64 (2 ^ 64 - 1) then v else v + 1
/-- Every held write of a partition, in host order; the first failing address is reported once. -/
def State.applyWrites (s : State) (core part : Nat) (bad : Option Nat) : List HostWrite → State × Option Nat
  | [] => (s, bad)
  | w :: r =>
    match s.hostRuns core part w.addr w.data.length .write (w.data.length / 65536 + 2) with
    | .ok (runs, s) => State.applyWrites (s.writeRuns (plainOf core) part runs w.data) core part bad r
    | .error a =>
      let s := s.modPart part fun x => x.modVf w.link fun v => { v with wfault := satAdd1 v.wfault, status := v.status ||| 2 }
      State.applyWrites s core part (bad.or (some a)) r
def State.applyHost (s : State) (k : Nat) : State :=
  let p := (s.ctx k).part
  let (s, bad) := s.applyWrites (coreOf k) p none (s.part p).eave
  let s := s.modPart p fun x => { x with eave := [] }
  match bad with
  | none => s
  | some a => s.postQ k 2 (element 0x70 a)

/-! Opening a bundle. -/
def State.openBundle (s : State) (k : Nat) (hdr lit : BitVec 32) (words : List (BitVec 32)) : State :=
  let saved := s.toWorld
  let s := if hdrHW hdr.toNat then s.applyHost k else s
  let pops := BitVec.ofNat 4 (hdrPop hdr.toNat)
  let o : Open :=
    { ctx := k, hdr := hdr, lit := lit, words := words, saved := saved, mem := s.mem, raised := [], holds := [], jump := none,
      skip := none, ends := false, sleep := 0, yield := false, halt := none, pops := pops, clk := none, draws := 0,
      nest := 0, ridge := false, park := false, rdv := false, seg := none, acted := false, undo := [], sigs := [] }
  let s : State := { s with cur := k, opened := some o }
  let c := s.pre
  let s := if (List.range 4).any fun i => pops.getLsbD i && (vget c.q i []).isEmpty then s.holdSlot 0 true none else s
  if pops ≠ 0 ∧ c.seg.isSome then s.raise 0 18 0 none else s

/-! What becomes of the open bundle (R106, R360). -/
inductive Verdict where
  | commit | block (mask : BitVec 8) | stall (pages : List (Nat × Nat × Nat)) | trap (r : Raise) (mask : BitVec 8) | halt (code : Nat)
deriving DecidableEq, Repr

def slotMask (l : List Nat) : BitVec 8 := BitVec.ofNat 8 (l.foldl (fun m i => m ||| 2 ^ i) 0)
/-- The first condition of the lowest slot. -/
def lowest (l : List Raise) : Option Raise :=
  l.foldl (fun b r => match b with | none => some r | some x => if r.slot < x.slot then some r else some x) none
def Open.verdict (o : Open) : Verdict :=
  if o.holds.any (·.block) then .block (slotMask ((o.holds.filter (·.block)).map (·.slot)))
  else if o.holds ≠ [] then .stall (o.holds.filterMap (·.page))
  else match lowest o.raised, o.halt with
    | some r, some c => if r.slot < 1 then .trap r (slotMask ((o.raised.filter (·.cause = r.cause)).map (·.slot))) else .halt c
    | some r, none => .trap r (slotMask ((o.raised.filter (·.cause = r.cause)).map (·.slot)))
    | none, some c => .halt c
    | none, none => .commit

/-- A bundle that does not commit leaves the world as it was (R359). -/
def State.revert (s : State) (w : World) : State := { toWorld := w, cur := s.cur, opened := none, agenda := s.agenda }

/-- The next sequencer edge after now. -/
def State.nextEdge (s : State) (core : Nat) : Nat := (s.core core).edge 0 (s.now + 1)
/-- The sequencer goes on at its next edge. -/
def State.stepCore (s : State) (core : Nat) : State := s.modCore core fun c => { c with next := max c.next (s.nextEdge core) }
/-- A context gives up the issue width (R20, R23). -/
def State.leaveCore (s : State) (k : Nat) : State :=
  s.modCore (coreOf k) fun c => if c.cur = some k then { c with cur := none, last := numOf k } else c

/-- SEG (R128, R367): the held stores perform, the log is discarded and the registers are copied; a result in flight stands
in the copy as it will land. -/
def State.openSeg (s : State) (k : Nat) (mask : BitVec 8) : State :=
  let s := s.performBuf k
  let c := s.ctx k
  let landed := ((s.performLoads k).landAllFlights k).ctx k
  let g : Seg :=
    { shadow := { c.regs with dat := landed.regs.dat }, log := [], logged := 0, buf := [], used := 0, atoms := 0, mask := mask, gen := c.rdv,
      replayed := false, irrevocable := false, base := c.regs.dat.issued, since := s.now }
  s.setCtx k { c with seg := some g }
/-- The held stores perform and no segment stays open (R368). -/
def State.closeSeg (s : State) (k : Nat) : State := (s.performBuf k).modCtx k fun c => { c with seg := none }

/-- The context blocks (R21); what it waits for is tested by issuing the bundle again. -/
def State.block (s : State) (k : Nat) (mask : BitVec 8) (ridge rdv : Bool) : State :=
  let s := s.modCtx k fun c => { c with
    status := .blocked, wait := ⟨mask, if c.status = .blocked then c.wait.since else s.now, none, none⟩, run := 0,
    ridging := ridge, rdvAt := c.rdvAt || rdv }
  let s := if ridge then (s.performBuf k).modCtx k fun c => { c with seg := c.seg.map fun g => { g with log := [], logged := 0 } } else s
  s.leaveCore k

/-- The MIGPULL element of a page (R384); one that finds Q2 full is posted again 2^16 cycles later (R137). -/
def State.postPull (s : State) (p page : Nat) : State :=
  let room := decide ((vget (s.ctx mgmtKey).q 2 []).length < queueCap mgmtKey 2)
  (s.postQ mgmtKey 2 (element 0x50 (p % 64 * 2 ^ 50 + page % 2 ^ 41))).modPart p fun x =>
    { x with pages := x.pages.map fun z => if z.1 = page then (z.1, z.2.1, z.2.2.1, if room then none else some (s.now + 2 ^ 16)) else z }
/-- An access that waits for a pending page asks for it once (R384). -/
def State.askPage (s : State) (p page leaf : Nat) : State :=
  if (s.part p).pages.any fun x => x.1 == page then s
  else (s.modPart p fun x => { x with pages := x.pages ++ [(page, leaf, s.now, none)] }).postPull p page
def State.stall (s : State) (k nest : Nat) (pages : List (Nat × Nat × Nat)) : State :=
  let s := if nest = 0 then s else s.modCtx k fun c => { c with checkAt := some (s.now + nest * (s.core (coreOf k)).div[(0 : Fin 5)]) }
  let s := pages.foldl (fun s x =>
    (s.askPage x.1 x.2.1 x.2.2).modCtx k fun c =>
      { c with held := match c.held with | some (p, g, t) => if p = x.1 ∧ g = x.2.1 then some (p, g, t) else some (x.1, x.2.1, s.now)
                                          | none => some (x.1, x.2.1, s.now) }) s
  s.stepCore (coreOf k)

/-- A synchronous trap, or the rollback that an uncorrectable read of an open segment triggers (R363, R372, R375). -/
def State.trapBundle (s : State) (k : Nat) (all : List Raise) (r : Raise) (mask : BitVec 8) : State :=
  let s := all.foldl (fun s x => match x.unit with | some u => s.addScore u 256 | none => s) s
  let s := if r.unit.isSome ∧ (s.ctx k).seg.isSome then s.modCtx k fun c => { c with rolling := true }
           else (s.takeTrap k r.cause (BitVec.ofNat 64 r.val) mask false).modCtx k fun c => { c with held := none }
  (s.settleScores).stepCore (coreOf k)

/-! Commit. -/

/-- The end-of-body check (R116) with the clamp of a forced epilogue (R119): innermost level first. -/
def bodyCheck (forced : Bool) (pc : Nat) : List Level → FlowRegs → FlowRegs × Option Nat
  | [], f => ({ f with loops := [] }, none)
  | v :: r, f =>
    if v.last ≠ pc then ({ f with loops := v :: r }, none)
    else
      let n := v.n
      let clamp := forced && f.epi.armed && !f.epi.used && f.epi.k == n
      let f := if clamp then { f with lc := f.lc.set n 1, epi := { f.epi with iter := BitVec.ofNat 32 ((f.lc[n]).toNat - 1), used := true } } else f
      if (f.lc[n]).toNat ≤ 1 then
        let f := { f with lc := f.lc.set n 0, epi := if f.epi.armed && !f.epi.used && f.epi.k == n then { f.epi with armed := false } else f.epi }
        bodyCheck forced pc r f
      else ({ f with lc := f.lc.set n (f.lc[n] - 1), loops := v :: r }, some v.first)

/-- A taken transfer discards every level, and disarms the record of a level discarded (R114, R119). -/
def FlowRegs.dropLoops (f : FlowRegs) : FlowRegs :=
  { f with loops := [], epi := if f.epi.armed && f.loops.any (fun l => l.n == f.epi.k) && !f.epi.used then { f.epi with armed := false } else f.epi }

/-- Where a context goes after a bundle: a delay bundle, the target of a pending transfer, past a loop's body, the start of a
body, or the next bundle (R114, R116). The second component is the level of an RTT whose target is reached, or 0. DESIGN CHOICE: a
LOOP with LCn = 0 in a delay bundle skips nothing: R114 fixes the delay bundles and the target, which R116 does not say (log 17). -/
def FlowRegs.advance (f pre : FlowRegs) (o : Open) (forced : Bool) : FlowRegs × Nat :=
  let pc := pre.pc.toNat
  let next := BitVec.ofNat 64 (pc + 32)
  match pre.dly.count with
  | 0 =>
    match o.jump, o.skip with
    | some (t, l), _ => ({ f with pc := next, dly := ⟨2, t, l⟩ }, 0)
    | none, some t => ({ f with pc := t }, 0)
    | none, none =>
      let (f, go) := bodyCheck forced pc f.loops f
      ({ f with pc := match go with | some a => BitVec.ofNat 64 a | none => next }, 0)
  | 1 => ({ f.dropLoops with pc := pre.dly.target, dly := Delay.none }, pre.dly.rtt)
  | _ => ({ f with pc := next, dly := { pre.dly with count := 1 } }, 0)

/-- The bytes that enter the signature at a commit (R391). -/
def Open.sigBytes (o : Open) (pc : Word) : List Byte :=
  let part (g : Nat) : List Byte := (o.sigs.filter fun x => x.1 = g).flatMap fun x => bytesOf x.2.2 x.2.1
  bytesOf pc.toNat 8 ++ o.words.flatMap (fun w => bytesOf w.toNat 4) ++ part 3 ++ part 4 ++ part 5 ++ part 6

def cmdClass (e : Fin 3) : Fin 5 := if e = 0 then 3 else 4
/-- The matrix cycles that a late command is past its deadline, up to t (R8, R334). -/
def Cmd.lateCycles (m : Cmd) (d t : Nat) : Nat :=
  match m.limit with
  | some D => if t ≤ D then 0 else match m.past with | none => (t - D) / d | some (n, u) => n + (t - u) / d
  | none => 0
/-- A command's times when its engine's divisor becomes d' at t: what runs from the last intake on is counted from the change on. -/
def Cmd.reclock (m : Cmd) (t d d' : Nat) : Cmd :=
  let after := match m.op with | .mul x => m.start.isSome && decide (x.steps.length ≤ m.done) && decide (m.lastLand < t) | _ => false
  { m with due := rescale t d d' m.due, limit := m.limit.map (rescale t d d'),
           lastLand := if after then t else rescale t d d' m.lastLand, gone := if after then m.gone + (t - m.lastLand + d - 1) / d else m.gone,
           past := match m.limit with | some D => if m.eng = 0 ∧ D < t then some (m.lateCycles d t, t) else m.past | none => m.past }
/-- A CLKDIV takes effect at the bundle boundary t (R133, R446): spans counted in cycles of the class go on at the new clock (R8). -/
def State.setDiv (s : State) (core : Nat) (cls : Fin 5) (d' t : Nat) : State :=
  let d := (s.core core).div[cls]
  let s := (((List.range (ctxCount core)).map (keyOf core)).filter fun k => (s.ctx k).status ≠ .free || (s.ctx k).cmds ≠ []).foldl (fun s k => s.modCtx k fun c => { c with
    flights := c.flights.map fun f => if f.cls = cls then { f with due := rescale t d d' f.due } else f,
    accs := c.accs.map fun a => if a.cls = cls.val then { a with due := rescale t d d' a.due } else a,
    cmds := c.cmds.map fun m => if cmdClass m.eng = cls then m.reclock t d d' else m,
    checkAt := if cls = 0 then c.checkAt.map (rescale t d d') else c.checkAt,
    wait := if cls = 0 then { c.wait with sleep := c.wait.sleep.map (rescale t d d') } else c.wait }) s
  s.modCore core fun c =>
    let e := c.energy
    { c.rebase cls t with
             div := c.div.set cls d',
             energy := { e with
               fin := if cls = 0 then rescale t d d' e.fin else e.fin,
               rows := if cls = 3 then e.rows.map fun x => (rescale t d d' x.1, x.2) else e.rows },
             free := if cls = 3 then ((c.free.set 0 (rescale t d d' c.free[0])).set 1 (rescale t d d' c.free[1])).set 2 (rescale t d d' c.free[2])
                     else if cls = 4 then (c.free.set 3 (rescale t d d' c.free[3])).set 4 (rescale t d d' c.free[4]) else c.free }
/-- The CLKDIV that waits for its boundary takes effect. -/
def State.applyClk (s : State) (core : Nat) : State :=
  match (s.core core).clk with
  | some (cls, d, t) => (s.setDiv core cls d t).modCore core fun c => { c with clk := none }
  | none => s

/-- Another context of the core is Ready (R24, Table 2-2). -/
def State.otherReady (s : State) (k : Nat) : Bool := (s.bound (coreOf k)).any fun j => j != k && (s.ctx j).status == .ready

/-- Everything that a commit does after the slots have taken effect (R83, R85, R88, R359). -/
def State.commit (s : State) (o : Open) : State :=
  let k := o.ctx
  let core := coreOf k
  let pre := (Tbl.getD o.saved.ctxs k Ctx.zero).regs.flow
  let c := s.ctx k
  let (flow, rtt) := c.regs.flow.advance pre o c.forced
  let q := (List.range 4).foldl (fun q i => if o.pops.getLsbD i then vset q i ((vget q i []).drop 1) else q) c.q
  let g := if c.regs.sys.rmode.getLsbD 0 then BitVec.ofNat 64 (crc64From c.regs.dat.sig.toNat (o.sigBytes pre.pc)) else c.regs.dat.sig
  let s := s.setCtx k { c with
    q := q, run := c.run + 1, held := none, checkAt := none, rdvAt := false, finals := [],
    regs := { c.regs with flow := flow, dat := { c.regs.dat with draws := c.regs.dat.draws + BitVec.ofNat 64 o.draws, sig := g } } }
  let s : State := { s with opened := none }
  let s := if rtt = 0 then s else
      let s := (s.rttArrive k rtt).modCtx k fun c => c.modFlow fun f => { f with pc := flow.pc }
      let (l, s) := s.refetch k (s.ctx k).regs.flow.loops
      s.modCtx k fun c => c.modFlow fun f => { f with loops := l }
  let s := s.charge core c.part (hdrEW o.hdr.toNat)
  let s := s.stepCore core
  let s := match o.clk with | some (cls, d) => s.modCore core fun c => { c with clk := some (cls, d, s.nextEdge core) } | none => s
  let s := match o.seg with | some m => s.openSeg k m | none => s
  if o.ends then
    (s.closeSeg k).modCtx k fun c => { c.modFlow fun f => { f with dly := Delay.none } with status := .ending, run := 0 }
  else if 0 < o.sleep then
    (s.modCtx k fun c => { c with
      status := .blocked, run := 0,
      wait := ⟨2, s.now, some (s.now + o.sleep * (s.core core).div[(0 : Fin 5)]), none⟩ }).leaveCore k
  else if o.yield && !c.regs.sys.dmode && s.otherReady k then
    (s.modCtx k fun c => { c with status := .ready, run := 0 }).leaveCore k
  else s

/-- BRK under debug halts the context and reports its code to the management core (R132). -/
def State.haltCtx (s : State) (k code : Nat) : State :=
  ((s.modCtx k fun c => { c with status := .halted, run := 0 }).leaveCore k).answer (.brk (s.ctx k).part code)

/-- The graph-node boundary form of pre-emption: the stream context stops before its LAUNCH, with its PC and S0-S15 saved
(R377), what is in flight to them having landed. -/
def State.park (s : State) (k : Nat) (b : Bool) : State :=
  if b then
    let s := s.landAll k
    let c := s.ctx k
    s.modPart c.part fun x => { x with parked := (k, c.regs.flow.pc, c.regs.dat.s) :: x.parked.filter fun y => y.1 ≠ k }
  else s
/-- The end of the open bundle of one context. -/
def State.finish (s : State) (o : Open) : State :=
  match o.verdict with
  | .commit => s.commit o
  | .block m => (s.revert o.saved).block o.ctx m o.ridge o.rdv
  | .stall l => ((s.revert o.saved).stall o.ctx o.nest l).park o.ctx o.park
  | .trap r m => (s.revert o.saved).trapBundle o.ctx o.raised r m
  | .halt c => (s.revert o.saved).haltCtx o.ctx c

/-- A commit whose signatures differ: the bundle does not commit, its stores do not perform, and the pair rolls back or dies
(R392). -/
def State.mismatch (s : State) (o : Open) : State :=
  let s := s.revert o.saved
  let k := o.ctx
  let s := (s.addScore (coreUnit (coreOf k)) 64).addScore (coreUnit (coreOf k + 1)) 64
  let s := if (s.ctx k).seg.isSome then s.modCtx k fun c => { c with rolling := true } else s.killCtx k 27
  s.settleScores.stepCore (coreOf k)

def State.close (s : State) (sigBad : Bool) : State :=
  match s.opened with
  | none => s
  | some o =>
    if sigBad ∧ (s.ctx o.ctx).regs.sys.rmode.getLsbD 0 ∧ o.verdict = .commit then s.mismatch o else s.finish o

/-! How a slot's operation acts. An instruction taken outside a bundle acts as a bundle whose other slots are no-ops. -/
def State.inBundle (s : State) (f : State → State) : Host.Outcome State Fault Refusal :=
  match s.opened with
  | some _ => .next (f s)
  | none => .next ((f (s.openBundle s.cur 0 0 [])).close false)

/-- The effect of one slot's body, or why it has none (R106). -/
def State.slotDo (s : State) (slot : Nat) (body : State → Res State) : State :=
  match body s with
  | .ok t => t
  | .error e => s.stopSlot slot e

/-- An operation whose guard tests bit 0 (R96). -/
def runSlot (slot : Nat) (g : Guard) (s : State) (body : State → Res State) : Host.Outcome State Fault Refusal :=
  s.inBundle fun s => if g.on s.pre then s.slotDo slot body else s
/-- An operation of slot a or b, active in the lanes of its guard (R96). -/
def runLanes (u : VUnit) (g : Guard) (s : State) (body : State → Nat → Res State) : Host.Outcome State Fault Refusal :=
  s.inBundle fun s => if g.lanes s.pre = 0 then s else s.slotDo u.slot fun s => body s (g.lanes s.pre)
/-- An operation that an open segment refuses (R370). -/
def State.noSeg (s : State) (body : State → Res State) : Res State := if s.pre.seg.isSome then .error (.trap 18 0) else body s

end Sys2Proof.Machine
end

