-- ==== Sys2Proof/Machine/Flow.lean ====
section
/-!
DEFINITION. Machine/Flow.lean: the instructions of the flow slot (07: R108-R138) but for LAUNCH.
-/
namespace Sys2Proof.Machine

abbrev Out := Host.Outcome State Fault Refusal

/-- An effect on the open bundle. -/
def State.modOpen (s : State) (f : Open → Open) : State := { s with opened := s.opened.map f }
/-- A taken transfer: its two delay bundles run first (R114). -/
def State.jumpTo (s : State) (t : Word) (rtt : Nat) : State := s.modOpen fun o => { o with jump := some (t, rtt) }
def State.modMe (s : State) (f : Ctx → Ctx) : State := s.modCtx s.me f
/-- Code addresses have bits 4:0 zero (R82). -/
def codeAddr (v : Nat) : Word := BitVec.ofNat 64 (v / 32 * 32)
/-- An address `off` bundles from the bundle at hand (R111, R113). -/
def State.relPc (s : State) (w off : Nat) : Word := BitVec.ofNat 64 (s.pre.regs.flow.pc.toNat + 32 * sext w off 64)
def State.setW (s : State) (n : Fin 4) (v : Word) : State := (s.modMe fun c => c.modFlow fun f => { f with w := f.w.set n v }).note 3 8 v.toNat
/-- A predicate that a flow instruction writes is readable by the next bundle (R110). -/
def State.setP (s : State) (p : Fin 8) (v : Nat) : State := (s.writeNow s.me (.p p) v ones64).note 3 8 v

def execNopF (s : State) : Out := s.inBundle id

def execPrep (x : FPrep) (s : State) : Out :=
  runSlot 1 x.g s fun s => .ok (s.setW x.n (s.relPc 20 x.o.toNat))

def execPrepm (x : FPrepM) (s : State) : Out :=
  runSlot 1 x.g s fun s => do
    let v ← s.rdM x.j
    .ok (s.setW x.n (codeAddr (chunk v 0)))

/-- A test field of BT: a negate bit and a predicate (R112). -/
def btTest (c : Ctx) (t : Fin 16) : Bool := (predBits c (Fin.ofNat 8 (t.val % 8)) % 2 == 1) != decide (8 ≤ t.val)
/-- The trees of Table 7-2; 4 is fall-through. -/
def btLeaf (shape : Nat) (t1 t2 t3 t4 : Bool) : Nat :=
  match shape with
  | 0 => if t1 then 0 else if t2 then 1 else if t3 then 2 else if t4 then 3 else 4
  | 1 => if t1 then 0 else if t2 then 1 else if t3 then (if t4 then 2 else 3) else 4
  | 2 => if t1 then 0 else if t2 then (if t3 then 1 else 2) else if t4 then 3 else 4
  | 3 => if t1 then 0 else if t2 then (if t3 then 1 else if t4 then 2 else 3) else 4
  | 4 => if t1 then 0 else if t2 then (if t3 then (if t4 then 1 else 2) else 3) else 4
  | 5 => if t1 then (if t2 then 0 else 1) else if t3 then 2 else if t4 then 3 else 4
  | 6 => if t1 then (if t2 then 0 else 1) else if t3 then (if t4 then 2 else 3) else 4
  | 7 => if t1 then (if t2 then 0 else if t3 then 1 else 2) else if t4 then 3 else 4
  | 8 => if t1 then (if t2 then (if t3 then 0 else 1) else 2) else if t4 then 3 else 4
  | 9 => if t1 then (if t2 then 0 else if t3 then 1 else if t4 then 2 else 3) else 4
  | 10 => if t1 then (if t2 then 0 else if t3 then (if t4 then 1 else 2) else 3) else 4
  | 11 => if t1 then (if t2 then (if t3 then 0 else 1) else if t4 then 2 else 3) else 4
  | 12 => if t1 then (if t2 then (if t3 then 0 else if t4 then 1 else 2) else 3) else 4
  | _ => if t1 then (if t2 then (if t3 then (if t4 then 0 else 1) else 2) else 3) else 4

def execBt (x : FBt) (s : State) : Out :=
  runSlot 1 x.g s fun s =>
    let c := s.pre
    let l := btLeaf x.s.val (btTest c x.t1) (btTest c x.t2) (btTest c x.t3) (btTest c x.t4)
    .ok (if l < 4 then s.jumpTo (vget c.regs.flow.w l 0) 0 else s)

def execJ (x : FJump) (s : State) : Out := runSlot 1 x.g s fun s => .ok (s.jumpTo (s.relPc 22 x.o.toNat) 0)

def execCall (x : FTgt) (s : State) : Out :=
  runSlot 1 x.g s fun s =>
    .ok (((s.modMe fun c => c.modFlow fun f => { f with lk := s.pre.regs.flow.pc + 96 }).note 3 8 (s.pre.regs.flow.pc + 96).toNat).jumpTo s.pre.regs.flow.w[x.n] 0)

def execRet (x : FNone) (s : State) : Out := runSlot 1 x.g s fun s => .ok (s.jumpTo s.pre.regs.flow.lk 0)

/-- LOOP_NEST (R117). -/
def loopNest (loops : List Level) (n : Fin 6) (last : Nat) : Bool :=
  decide (6 ≤ loops.length) || loops.any fun l => l.n == n || decide (l.last < last)

def execLoop (x : FLoop) (s : State) : Out :=
  runSlot 1 x.g s fun s =>
    let f := s.pre.regs.flow
    let pc := f.pc.toNat
    let len := x.len.val + 1
    if loopNest f.loops x.n (pc + 32 * len) then .error (.trap 12 0)
    else if f.lc[x.n] = 0 then .ok (s.modOpen fun o => { o with skip := some (BitVec.ofNat 64 (pc + 32 * (len + 1))) })
    else
      let (body, s) := s.fetchBody s.me f.loops (pc + 32) len
      .ok (s.modMe fun c => c.modFlow fun f => { f with loops := ⟨x.n, pc + 32, pc + 32 * len, body⟩ :: f.loops })

def execSetlc (x : FCountLc) (s : State) : Out :=
  runSlot 1 x.g s fun s => .ok ((s.modMe fun c => c.modFlow fun f => { f with lc := f.lc.set x.n (BitVec.ofNat 32 (x.k.val s)) }).note 3 4 (x.k.val s))

def execSpl (x : FSpl) (s : State) : Out :=
  runSlot 1 x.g s fun s => .ok (s.modMe fun c => c.modFlow fun f =>
    { f with epi := ⟨true, s.pre.regs.flow.w[x.n], x.k, f.epi.iter, false, f.epi.resuming⟩ })

def execWait (x : FCountF) (s : State) : Out :=
  runSlot 1 x.g s fun s =>
    let n := x.k.val s
    if (s.pre.f[x.n]).toNat < n then .error .block
    else s.noSeg fun s => .ok (s.modMe fun c => { c with f := c.f.set x.n (c.f[x.n] - BitVec.ofNat 32 n) })

def execPost (x : FCountF) (s : State) : Out := runSlot 1 x.g s fun s => .ok (s.postFlag s.me x.n (x.k.val s))

/-- Padded times of messages (Table 16-1). -/
def msgTime (t : Fin 8) : Nat := if t.val < 4 then 24 else 48

def execPostr (x : FPostr) (s : State) : Out :=
  runSlot 1 x.g s fun s => s.noSeg fun s =>
    match s.receiver s.me x.t.val with
    | none => .error (.trap 15 0)
    | some r => .ok { s with msgs := s.msgs ++ [⟨s.me, r, .post x.n (x.k.val s), s.pre.seq, s.now + msgTime x.t⟩] }

def TlwVal.num (v : TlwVal) (s : State) : Nat := match v with | .imm i => i.toNat | .lit _ => s.litv
/-- A suspended command numbered v or below: what COPYFAULT reports (R124, R248). -/
def Ctx.suspended (c : Ctx) (e : Fin 3) (v : Nat) : Option Nat :=
  (c.cmds.find? fun m => m.eng == e && decide (m.num ≤ v) && m.susp.isSome).bind fun m => m.susp.map Prod.snd

def execTlw (x : FTlw) (s : State) : Out :=
  runSlot 1 x.g s fun s =>
    let c := s.pre
    let last := c.regs.dat.issued[x.t]
    let v := if x.rel then last - TlwVal.num x.v s else TlwVal.num x.v s
    if last < v then .error (.trap 13 0)
    else match c.suspended x.t v with
      | some va => .error (.trap 14 va)
      | none => if c.performedTo x.t < v then .error .block else .ok s

def execBbset (x : FCountBb) (s : State) : Out :=
  runSlot 1 x.g s fun s => .ok ((s.modMe fun c => c.modFlow fun f => { f with bb := f.bb.set x.n (BitVec.ofNat 32 (x.k.val s)) }).note 3 4 (x.k.val s))

def execBbwait (x : FBb) (s : State) : Out :=
  runSlot 1 x.g s fun s => if s.pre.regs.flow.bb[x.n] = 0 then .ok s else .error .block

/-- The first suspended command of any engine (R248). -/
def Ctx.anySuspended (c : Ctx) : Option Nat := (c.cmds.find? fun m => m.susp.isSome).bind fun m => m.susp.map Prod.snd

/-- RIDGE (R35-R37, R368): it blocks until its ridge releases; the release lets the bundle commit, and an open segment is
followed by a new one with the same partners. A RIDGE is known by its trap level and address: another one, in the handler of a
watchdog, waits for a later generation. -/
def execRidge (x : FNone) (s : State) : Out :=
  runSlot 1 x.g s fun s =>
    let c := s.pre
    match c.anySuspended with
    | some va => .error (.trap 14 va)
    | none =>
      if c.passes.contains c.ridgeKey then
        let s := s.modMe fun c => { c with passes := c.passes.filter (· ≠ c.ridgeKey), ridging := false }
        .ok (match c.seg with | some g => s.modOpen fun o => { o with seg := some g.mask } | none => s)
      else .ok ((s.holdSlot 1 true none).modOpen fun o => { o with ridge := true })

def execSeg (x : FSeg) (s : State) : Out := runSlot 1 x.g s fun s => .ok (s.modOpen fun o => { o with seg := some x.m })

/-- Whether the partner at TGT b has executed RDV in this generation (R129); one that has ended counts as arrived. DESIGN CHOICE: so
does a position that names no context of the node, outside the mesh or never bound. -/
def State.rdvMet (s : State) (k b : Nat) : Bool :=
  if b < 4 ∧ glenPos (coreOf k) = b then true
  else match s.receiver k b with
    | none => true
    | some j => decide ((s.ctx k).rdv < (s.ctx j).rdv) || ((s.ctx j).rdv == (s.ctx k).rdv && (s.ctx j).rdvAt)

/-- RDV (R129). DESIGN CHOICE: with no segment open there is no mask, so it waits for nobody and opens a segment with mask 0. -/
def execRdv (x : FNone) (s : State) : Out :=
  runSlot 1 x.g s fun s =>
    let mask := match s.pre.seg with | some g => g.mask | none => 0
    if (List.range 8).all fun b => !mask.getLsbD b || s.rdvMet s.me b then
      .ok ((s.modMe fun c => { c with rdv := c.rdv + 1 }).modOpen fun o => { o with seg := some mask })
    else .ok ((s.holdSlot 1 true none).modOpen fun o => { o with rdv := true })

def execTrap (x : FImm) (s : State) : Out := runSlot 1 x.g s fun _ => .error (.trap 10 x.c.toNat)

def execRtt (x : FNone) (s : State) : Out :=
  runSlot 1 x.g s fun s =>
    let y := s.pre.regs.sys
    if y.tl = 0 then .error (.trap 2 0) else .ok (s.jumpTo (vget y.banks (y.tl - 1) Bank.zero).tpc y.tl)

/-- END (R32, R127): it waits for earlier commands and accesses; the context is then ending, and Free once what its own bundle
issued has performed. -/
def execEndF (x : FNone) (s : State) : Out :=
  runSlot 1 x.g s fun s =>
    match s.pre.anySuspended with
    | some va => .error (.trap 14 va)
    | none => if s.pre.cmds = [] ∧ s.pre.accs = [] then .ok (s.modOpen fun o => { o with ends := true }) else .error .stall

def execYield (x : FNone) (s : State) : Out := runSlot 1 x.g s fun s => .ok (s.modOpen fun o => { o with yield := true })

/-- Accesses that a DRAIN waits for: those queued, and the stores that an open segment holds (R131). DESIGN CHOICE: a DRAIN performs no held
store, so that one in a segment that holds some stalls for good (log 33). -/
def Ctx.undrained (c : Ctx) : Bool := c.accs ≠ [] || match c.seg with | some g => g.buf ≠ [] | none => false
/-- A drain at package scope or wider brings what the context stored to the home copies (R299). -/
def State.drainTo (s : State) (sc : Nat) : State := if 3 ≤ sc then s.flushStores s.me false else s

def execDrain (x : FScope) (s : State) : Out :=
  runSlot 1 x.g s fun s => if s.pre.undrained then .error .stall else .ok (s.drainTo x.s.val)

def execDrainE (x : FScope) (s : State) : Out :=
  runSlot 1 x.g s fun s =>
    match s.pre.anySuspended with
    | some va => .error (.trap 14 va)
    | none => if s.pre.undrained || s.pre.cmds ≠ [] then .error .stall else .ok (s.drainTo x.s.val)

def execClkdiv (x : FClk) (s : State) : Out :=
  runSlot 1 x.g s fun s =>
    let core := coreOf s.me
    if !isMesh s.me && (decide (1 ≤ x.c.val) && decide (x.c.val ≤ 3)) then .error (.trap 2 0)
    else if (s.bound core).any fun j => (s.ctx j).part != s.pre.part then .ok (s.modMe fun c => c.sticky 6)
    else .ok (s.modOpen fun o => { o with clk := some (x.c, x.d.val) })

/-- Elements that a queue holds and places reserved in it (R136). -/
def State.taken (s : State) (k : Nat) (q : Fin 4) : Nat :=
  (s.ctx k).q[q].length + (s.msgs.filter fun m => m.dst == k && (match m.kind with | .send i _ => i == q | _ => false)).length

def execSend (x : FSendS) (s : State) : Out :=
  runSlot 1 x.g s fun s => s.noSeg fun s =>
    match s.receiver s.me x.t.val with
    | none => .error (.trap 15 0)
    | some r => do
      let v ← s.rdM x.j
      let q : Fin 4 := if x.t.val < 4 then 3 else 0
      if 64 ≤ s.taken r q then .error .stall
      else .ok { s with msgs := s.msgs ++ [⟨s.me, r, .send q (BitVec.ofNat 64 (chunk v 0)), s.pre.seq, s.now + msgTime x.t⟩] }

/-- Table 7-4. -/
def execGetmF (x : FGetm) (s : State) : Out :=
  runSlot 1 x.g s fun s => do
    let m ← s.rdM x.j
    let v := chunk m 0
    let i := x.n.val
    let t := s.modMe fun c =>
      match x.c.val with
      | 0 => c.modFlow fun f => { f with w := vset f.w i (codeAddr v) }
      | 1 => c.modFlow fun f => { f with lk := codeAddr v }
      | 2 => c.modFlow fun f => { f with lc := vset f.lc i (BitVec.ofNat 32 v) }
      | 3 => c.writeFlag s.now x.n v
      | _ => c.modFlow fun f => { f with bb := vset f.bb i (BitVec.ofNat 32 v) }
    .ok (match x.c.val with
      | 0 => t.note 3 8 (codeAddr v).toNat
      | 1 => t.note 3 8 (codeAddr v).toNat
      | 3 => t
      | _ => t.note 3 4 (v % 2 ^ 32))

def execEpi (x : FEpi) (s : State) : Out :=
  runSlot 1 x.g s fun s =>
    let e := s.pre.regs.flow.epi
    .ok (if e.resuming then
      ((((s.modMe fun c => c.modFlow fun f => { f with lc := f.lc.set x.k e.iter, epi := { f.epi with resuming := false } }).note 3 4 e.iter.toNat).writeNow
        s.me (.m x.j) e.iter.toNat ones64).note 3 256 e.iter.toNat).setP x.n ones64
    else s.setP x.n 0)

def execWdog (x : FPred) (s : State) : Out :=
  runSlot 1 x.g s fun s => .ok ((s.setP x.n (truth s.pre.wdSeen)).modMe fun c => { c with wdSeen := false })

/-- What HBEAT writes (R138). -/
def State.hbMask (s : State) (core : Nat) : Nat :=
  if 256 ≤ core then 0
  else (List.range 4).foldl (fun a n =>
    match neighbour core n with
    | none => a
    | some _ =>
      let v := vget (s.core core).health.views n View.live
      a + b2n (v.view == 0) * 2 ^ n + b2n v.acc * 2 ^ (n + 4)) 0

def execHbeat (x : FPred) (s : State) : Out := runSlot 1 x.g s fun s => .ok (s.setP x.n (s.hbMask (coreOf s.me)))

def execCapq (x : FCapq) (s : State) : Out :=
  runSlot 1 x.g s fun s => .ok (s.setP x.n (truth (decide (x.i.toNat ≤ s.capCount s.pre.part))))

def execPitchq (x : FPitchq) (s : State) : Out :=
  runSlot 1 x.g s fun s => .ok (s.setP x.n (truth (decide (x.r.val ≤ s.pre.pitch.cur))))

def execSleep (x : FImm) (s : State) : Out := runSlot 1 x.g s fun s => .ok (s.modOpen fun o => { o with sleep := x.c.toNat })

def execBrk (x : FImm) (s : State) : Out :=
  runSlot 1 x.g s fun s =>
    if (s.part s.pre.part).debug then .ok (s.modOpen fun o => { o with halt := some x.c.toNat }) else .error (.trap 11 x.c.toNat)

end Sys2Proof.Machine
end

