-- ==== Sys2Proof/Machine/Scalar.lean ====
section
/-!
DEFINITION. Machine/Scalar.lean: the unprivileged instructions of the scalar slot (07: R139-R158) but for MFS and MTS.
-/
namespace Sys2Proof.Machine

def execScalarNop (s : State) : Out := s.inBundle id

/-! Integer arithmetic and logic (R140, R142). -/

/-- Two sources and a result of the instruction's width, by bound L. -/
def alu2 (x : SAlu) (L : Nat) (f : Nat → Nat → Nat → Nat) (s : State) : Out :=
  runSlot 2 x.g s fun s => do
    let a ← s.rdS x.a
    let b ← s.rdS x.b
    s.wrS x.d (widenW x.w (f (wBits x.w) (narrowW x.w a) (narrowW x.w b))) L
/-- The same with Sd as a third source. -/
def alu3 (x : SAlu) (f : Nat → Nat → Nat → Nat → Nat) (s : State) : Out :=
  runSlot 2 x.g s fun s => do
    let a ← s.rdS x.a
    let b ← s.rdS x.b
    let d ← s.rdD x.d
    s.wrS x.d (widenW x.w (f (wBits x.w) (narrowW x.w a) (narrowW x.w b) (narrowW x.w d))) 1
def alu1 (x : SUn) (f : Nat → Nat → Nat) (s : State) : Out :=
  runSlot 2 x.g s fun s => do
    let a ← s.rdS x.a
    s.wrS x.d (widenW x.w (f (wBits x.w) (narrowW x.w a))) 1
/-- Division: a divisor of zero traps under DZE and else gives quotient 0 and remainder the dividend (R55). -/
def aluDiv (x : SAlu) (f : Nat → Nat → Nat → Nat) (zero : Nat → Nat) (s : State) : Out :=
  runSlot 2 x.g s fun s => do
    let a ← s.rdS x.a
    let b ← s.rdS x.b
    let L := if x.w then 20 else 12
    if narrowW x.w b = 0 then
      if s.pre.regs.sys.sstat.getLsbD 7 then .error (.trap 9 0)
      else (s.setSticky 32).wrS x.d (widenW x.w (zero (narrowW x.w a))) L
    else s.wrS x.d (widenW x.w (f (wBits x.w) (narrowW x.w a) (narrowW x.w b))) L

def subW (w a b : Nat) : Nat := (a + (2 ^ w - b)) % 2 ^ w
def mulhS (w a b : Nat) : Nat := ofSigned w (toSigned w a * toSigned w b / 2 ^ w)
def quoS (w a b : Nat) : Nat := ofSigned w ((toSigned w a).tdiv (toSigned w b))
def remS (w a b : Nat) : Nat := ofSigned w ((toSigned w a).tmod (toSigned w b))
def notW (w a : Nat) : Nat := 2 ^ w - 1 - a
def sarW (w a n : Nat) : Nat := ofSigned w (toSigned w a / 2 ^ (n % w))
def rotW (w a n : Nat) : Nat := (a * 2 ^ (n % w) + a / 2 ^ (w - n % w)) % 2 ^ w
/-- The funnel shift of R143 and R169. -/
def fshW (w a b n : Nat) : Nat := (a * 2 ^ w + b) * 2 ^ (n % w) % 2 ^ (2 * w) / 2 ^ w
/-- The field of a control word of a bit-field operation: position and length (R144). -/
def fieldLen (w ctl : Nat) : Nat := if bitsOf ctl 0 6 < w then min (bitsOf ctl 8 7) (w - bitsOf ctl 0 6) else 0
def bfxW (w a ctl : Nat) : Nat := bitsOf a (bitsOf ctl 0 6) (fieldLen w ctl)
def bfxsW (w a ctl : Nat) : Nat := if fieldLen w ctl = 0 then 0 else sext (fieldLen w ctl) (bfxW w a ctl) w
def bfiW (w a ctl d : Nat) : Nat :=
  let m := (2 ^ fieldLen w ctl - 1) * 2 ^ bitsOf ctl 0 6
  mergeBits d (a * 2 ^ bitsOf ctl 0 6) m
def clzW (w a : Nat) : Nat := if a = 0 then w else w - 1 - Nat.log2 a
def ctzFrom (a : Nat) : Nat → Nat
  | 0 => 0
  | n + 1 => if a % 2 = 1 then 0 else 1 + ctzFrom (a / 2) n
def ctzW (w a : Nat) : Nat := ctzFrom a w
def popFrom (a : Nat) : Nat → Nat
  | 0 => 0
  | n + 1 => a % 2 + popFrom (a / 2) n
def popW (w a : Nat) : Nat := popFrom a w
def minS (w a b : Nat) : Nat := if toSigned w b < toSigned w a then b else a
def maxS (w a b : Nat) : Nat := if toSigned w a < toSigned w b then b else a

def execAdd (x : SAlu) (s : State) : Out := alu2 x 1 (fun _ a b => a + b) s
def execSub (x : SAlu) (s : State) : Out := alu2 x 1 subW s
def execMul (x : SAlu) (s : State) : Out := alu2 x 3 (fun _ a b => a * b) s
def execMulh (x : SAlu) (s : State) : Out := alu2 x 3 mulhS s
def execMulhu (x : SAlu) (s : State) : Out := alu2 x 3 (fun w a b => a * b / 2 ^ w) s
def execDiv (x : SAlu) (s : State) : Out := aluDiv x quoS (fun _ => 0) s
def execDivu (x : SAlu) (s : State) : Out := aluDiv x (fun _ a b => a / b) (fun _ => 0) s
def execRem (x : SAlu) (s : State) : Out := aluDiv x remS id s
def execRemu (x : SAlu) (s : State) : Out := aluDiv x (fun _ a b => a % b) id s
def execAnd (x : SAlu) (s : State) : Out := alu2 x 1 (fun _ a b => a &&& b) s
def execOr (x : SAlu) (s : State) : Out := alu2 x 1 (fun _ a b => a ||| b) s
def execXor (x : SAlu) (s : State) : Out := alu2 x 1 (fun _ a b => a ^^^ b) s
def execAndn (x : SAlu) (s : State) : Out := alu2 x 1 (fun w a b => a &&& notW w b) s
def execNot (x : SUn) (s : State) : Out := alu1 x notW s
def execShl (x : SAlu) (s : State) : Out := alu2 x 1 (fun w a b => a * 2 ^ (b % w)) s
def execShr (x : SAlu) (s : State) : Out := alu2 x 1 (fun w a b => a / 2 ^ (b % w)) s
def execSar (x : SAlu) (s : State) : Out := alu2 x 1 sarW s
def execRot (x : SAlu) (s : State) : Out := alu2 x 1 rotW s
def execFsh (x : SAlu) (s : State) : Out := alu3 x fshW s
def execBfx (x : SAlu) (s : State) : Out := alu2 x 1 bfxW s
def execBfxs (x : SAlu) (s : State) : Out := alu2 x 1 bfxsW s
/-- BFI: with an empty field the whole of Sd stays, in the 32-bit form too (R144). -/
def execBfi (x : SAlu) (s : State) : Out :=
  runSlot 2 x.g s fun s => do
    let a ← s.rdS x.a
    let b ← s.rdS x.b
    let d ← s.rdD x.d
    s.wrS x.d (if fieldLen (wBits x.w) (narrowW x.w b) = 0 then d else widenW x.w (bfiW (wBits x.w) (narrowW x.w a) (narrowW x.w b) (narrowW x.w d))) 1
def execClz (x : SUn) (s : State) : Out := alu1 x clzW s
def execCtz (x : SUn) (s : State) : Out := alu1 x ctzW s
def execPopc (x : SUn) (s : State) : Out := alu1 x popW s
def execMin (x : SAlu) (s : State) : Out := alu2 x 1 minS s
def execMax (x : SAlu) (s : State) : Out := alu2 x 1 maxS s
def execMinu (x : SAlu) (s : State) : Out := alu2 x 1 (fun _ a b => min a b) s
def execMaxu (x : SAlu) (s : State) : Out := alu2 x 1 (fun _ a b => max a b) s

def execSel (x : SSel) (s : State) : Out :=
  runSlot 2 x.g s fun s => do
    let a ← s.rdS x.a
    let b ← s.rdS x.b
    s.wrS x.d (widenW x.w (narrowW x.w (if predBits s.pre x.q % 2 = 1 then a else b))) 1

/-! Immediate forms (R146, R153). -/
def immS (i : BitVec 16) : Nat := sext 16 i.toNat 64
def execAddi (x : SImm) (s : State) : Out :=
  runSlot 2 x.g s fun s => do
    let d ← s.rdD (.r x.d)
    s.wrS (.r x.d) (widenW x.w (d + immS x.i)) 1
def execMovi (x : SImm) (s : State) : Out := runSlot 2 x.g s fun s => s.wrS (.r x.d) (widenW x.w (immS x.i)) 1
def execMovhi (x : SImm) (s : State) : Out :=
  runSlot 2 x.g s fun s => do
    let d ← s.rdD (.r x.d)
    s.wrS (.r x.d) (widenW x.w ((if x.w then immS x.i % 2 ^ 48 else x.i.toNat) * 65536 + d % 65536)) 1
/-- LDL (R153). DESIGN CHOICE: it has the width bit of its immediate frame (R92), and the 32-bit form keeps the low half of the
address, sign-extended; R153 names no width. -/
def execLdl (x : SImm) (s : State) : Out :=
  runSlot 2 x.g s fun s => s.wrS (.r x.d) (widenW x.w (s.pre.regs.flow.pc.toNat + 32 * immS x.i)) 1

/-! Compares and predicate logic (R146-R148). -/
def cmp2 (x : SCmp) (cond : Nat) (s : State) : Out :=
  runSlot 2 x.g s fun s => do
    let a ← s.rdS x.a
    let b ← s.rdS x.b
    s.wrP x.d (truth (condHolds (wBits x.w) cond (narrowW x.w a) (narrowW x.w b))) ones64 0 1
def execCmpeq (x : SCmp) (s : State) : Out := cmp2 x 0 s
def execCmpne (x : SCmp) (s : State) : Out := cmp2 x 1 s
def execCmplt (x : SCmp) (s : State) : Out := cmp2 x 2 s
def execCmple (x : SCmp) (s : State) : Out := cmp2 x 3 s
def execCmpltu (x : SCmp) (s : State) : Out := cmp2 x 4 s
def execCmpleu (x : SCmp) (s : State) : Out := cmp2 x 5 s
def execCmpi (x : SCmpi) (s : State) : Out :=
  runSlot 2 x.g s fun s => do
    let a ← s.rdS (.r x.a)
    s.wrP x.d (truth (condHolds (wBits x.w) x.c.val (narrowW x.w a) (sext 10 x.i.toNat (wBits x.w)))) ones64 0 1

def pred2 (x : SPred3) (f : Nat → Nat → Nat) (s : State) : Out :=
  runSlot 2 x.g s fun s => s.wrP x.d (f (predBits s.pre x.a) (predBits s.pre x.b)) ones64 0 1
def execPand (x : SPred3) (s : State) : Out := pred2 x (fun a b => a &&& b) s
def execPor (x : SPred3) (s : State) : Out := pred2 x (fun a b => a ||| b) s
def execPxor (x : SPred3) (s : State) : Out := pred2 x (fun a b => a ^^^ b) s
def execPnot (x : SPred2) (s : State) : Out := runSlot 2 x.g s fun s => s.wrP x.d (notW 64 (predBits s.pre x.a)) ones64 0 1
def execPmov (x : SPred2) (s : State) : Out := runSlot 2 x.g s fun s => s.wrP x.d (predBits s.pre x.a) ones64 0 1

/-! Floating point (R149, R150). -/
def fpF (f : Bool) : Fmt := if f then fp64 else fp32
def fpRead (f : Bool) (v : Nat) : FVal := (fpF f).read (narrowW f v)
/-- A rounded result with its flags (R61). -/
def State.fpOut (s : State) (d : Dst) (f : Bool) (v : FVal) (r : Rnd) (fl : FFlags → FFlags) (L : Nat) : Res State :=
  let (c, g) := (fpF f).roundF v r
  (s.setSticky (FFlags.bits (fl g))).wrS d c L
def execFadd (x : SFlt3) (s : State) : Out :=
  runSlot 2 x.g s fun s => do
    let a ← s.rdS x.a
    let b ← s.rdS x.b
    let p := fpRead x.f a
    let q := fpRead x.f b
    s.fpOut x.d x.f (p.add q x.r) x.r (flagsAdd p q) (if x.f then 5 else 4)
def execFsub (x : SFlt3) (s : State) : Out :=
  runSlot 2 x.g s fun s => do
    let a ← s.rdS x.a
    let b ← s.rdS x.b
    let p := fpRead x.f a
    let q := (fpRead x.f b).neg
    s.fpOut x.d x.f (p.add q x.r) x.r (flagsAdd p q) (if x.f then 5 else 4)
def execFmul (x : SFlt3) (s : State) : Out :=
  runSlot 2 x.g s fun s => do
    let a ← s.rdS x.a
    let b ← s.rdS x.b
    let p := fpRead x.f a
    let q := fpRead x.f b
    s.fpOut x.d x.f (p.mul q) x.r (flagsMul p q) (if x.f then 5 else 4)
def execFma (x : SFlt3) (s : State) : Out :=
  runSlot 2 x.g s fun s => do
    let a ← s.rdS x.a
    let b ← s.rdS x.b
    let d ← s.rdD x.d
    let p := fpRead x.f a
    let q := fpRead x.f b
    let z := fpRead x.f d
    s.fpOut x.d x.f ((p.mul q).add z x.r) x.r (flagsFma p q z) (if x.f then 5 else 4)
def execFdiv (x : SFlt3) (s : State) : Out :=
  runSlot 2 x.g s fun s => do
    let a ← s.rdS x.a
    let b ← s.rdS x.b
    let p := fpRead x.f a
    let q := fpRead x.f b
    s.fpOut x.d x.f (p.div q) x.r (flagsDiv p q) (if x.f then 26 else 14)
def execFsqrt (x : SFlt2) (s : State) : Out :=
  runSlot 2 x.g s fun s => do
    let a ← s.rdS x.a
    let p := fpRead x.f a
    s.fpOut x.d x.f p.sqrt x.r (flagsSqrt p) (if x.f then 26 else 14)
/-- FCVT: `s` is the source code, `t` the destination's (R150). -/
def execFcvt (x : SFcvt) (s : State) : Out :=
  runSlot 2 x.g s fun s => do
    let a ← s.rdS x.a
    let (c, g) := codeWrite x.t.val 0 (codeRead x.s.val 0 a) x.r
    let v := if codeSigned x.t.val then sext (codeWidth x.t.val) c 64 else c
    (s.setSticky (FFlags.bits g)).wrS x.d v 3
def execFcmp (x : SFcmp) (s : State) : Out :=
  runSlot 2 x.g s fun s => do
    let a ← s.rdS x.a
    let b ← s.rdS x.b
    let p := fpRead x.f a
    let q := fpRead x.f b
    let nv := (p.isNan || q.isNan) && (x.c.val == 2 || x.c.val == 3)
    (s.setSticky (16 * b2n nv)).wrP x.d (truth (fcond x.c.val p q)) ones64 0 2
def fminmax (x : SFmin) (f : FVal → FVal → FVal) (s : State) : Out :=
  runSlot 2 x.g s fun s => do
    let a ← s.rdS x.a
    let b ← s.rdS x.b
    let p := fpRead x.f a
    let q := fpRead x.f b
    (s.setSticky (16 * b2n (p.isNan || q.isNan))).wrS x.d ((fpF x.f).round (f p q) .rne) 2
def execFmin (x : SFmin) (s : State) : Out := fminmax x FVal.min s
def execFmax (x : SFmin) (s : State) : Out := fminmax x FVal.max s

/-! Memory and the L1 (R151-R153). -/
/-- A load of 2^z bytes (R151). -/
def loadOp (x : SMem) (kind : AccKind) (s : State) : Out :=
  runSlot 2 x.g s fun s => do
    let a ← s.rdS x.a
    let b ← s.rdS x.b
    s.scalarAccess ((a + b) % 2 ^ 64) { Access.blank kind (2 ^ x.z.val) with dst := sLoc x.d }
def execLd (x : SMem) (s : State) : Out := loadOp x .load s
def execLds (x : SMem) (s : State) : Out := loadOp x .loadS s
def execSt (x : SMem) (s : State) : Out :=
  runSlot 2 x.g s fun s => do
    let a ← s.rdS x.a
    let b ← s.rdS x.b
    let v ← s.rdD x.d
    s.scalarAccess ((a + b) % 2 ^ 64) { Access.blank .store (2 ^ x.z.val) with val := v % 2 ^ (8 * 2 ^ x.z.val) }

/-- Memory keys of the n bytes from address a, page by page, as far as they translate; nothing changes (R153). -/
def State.invRuns (s : State) (k a n : Nat) : Nat → List (Nat × Nat)
  | 0 => []
  | fuel + 1 =>
    if n = 0 then []
    else
      let len := min n (65536 - a % 65536)
      match s.locate k a .probe with
      | .ok key _ _ => (key, len) :: State.invRuns s k ((a + len) % 2 ^ 64) (n - len) fuel
      | _ => State.invRuns s k ((a + len) % 2 ^ 64) (n - len) fuel
def execInvl (x : SInv) (s : State) : Out :=
  runSlot 2 x.g s fun s => do
    let a ← s.rdS x.a
    let n ← s.rdS x.b
    let core := coreOf s.me
    if 65536 ≤ n then .ok (s.modCore core fun c => { c with l1 := [] })
    else
      let runs := s.invRuns s.me a n 3
      .ok (s.modCore core fun c => { c with
        l1 := c.l1.filter fun l => !(l.part == s.pre.part && runs.any fun r => decide (l.key * 64 < r.1 + r.2) && decide (r.1 < l.key * 64 + 64)) })
/-- Earlier scalar stores that have not performed, those that an open segment holds among them; a lane's store has 32 bits. -/
def Ctx.scalarStores (c : Ctx) : Bool :=
  let scalar : Access → Bool := fun a => a.width == 64 && a.dst.isNone && (a.kind == .store || a.kind == .done)
  c.accs.any scalar || match c.seg with | some g => g.buf.any scalar | none => false
def execFll1 (x : SNone) (s : State) : Out :=
  runSlot 2 x.g s fun s =>
    if s.pre.scalarStores then .error .stall
    else .ok (s.modCore (coreOf s.me) fun c => { c with l1 := [] })

/-! Atomics (R154). -/
def atomicOp (g : Guard) (d : Dst) (a b : Src) (w : Bool) (op : AtomOp) (s : State) : Out :=
  runSlot 2 g s fun s => do
    let addr ← s.rdS a
    let v ← s.rdS b
    let old ← if op = .cas then s.rdD d else .ok 0
    s.scalarAccess addr { Access.blank (.atomic op) (wBits w / 8) with dst := sLoc d, val := narrowW w v, cmp := narrowW w old }
def execAadd (x : SAlu) (s : State) : Out := atomicOp x.g x.d x.a x.b x.w .add s
def execAxchg (x : SAlu) (s : State) : Out := atomicOp x.g x.d x.a x.b x.w .xchg s
def execAcas (x : SAlu) (s : State) : Out := atomicOp x.g x.d x.a x.b x.w .cas s
def execAmin (x : SAmin) (s : State) : Out := atomicOp x.g x.d x.a x.b x.w (if x.u then .minu else .min) s
def execAmax (x : SAmin) (s : State) : Out := atomicOp x.g x.d x.a x.b x.w (if x.u then .maxu else .max) s
def execAand (x : SAlu) (s : State) : Out := atomicOp x.g x.d x.a x.b x.w .and s
def execAor (x : SAlu) (s : State) : Out := atomicOp x.g x.d x.a x.b x.w .or s
def execAfadd (x : SAlu) (s : State) : Out := atomicOp x.g x.d x.a x.b x.w .fadd s

/-! Moves (R156, R157). -/
def execScalarGetm (x : SGetm) (s : State) : Out :=
  runSlot 2 x.g s fun s => do
    let m ← s.rdM x.j
    s.wrS x.d (chunk m x.k.val) 2
/-- Chunk k of a main-file register: value and mask. -/
def chunkMask (k : Nat) : Nat := ones64 * 2 ^ (64 * k)
def execScalarPutm (x : SPutm) (s : State) : Out :=
  runSlot 2 x.g s fun s => do
    let a ← s.rdS x.a
    s.wr (some (.m x.j)) (a * 2 ^ (64 * x.k.val)) (chunkMask x.k.val) 0 2
/-- Lanes 0 and 1, or every lane, of a vector register from a scalar (R157). -/
def State.xferLanes (s : State) (u : VUnit) (i : Nat) (all : Bool) (v : Nat) (cls : Fin 5) : Res State :=
  if all then s.wr (some (vReg u i)) (vlanes fun _ => v) allLanes cls 3 else s.wr (some (vReg u i)) (v % 2 ^ 64) ones64 cls 3
def execScalarXfer (x : SXfer) (s : State) : Out :=
  runSlot 2 x.g s fun s => do
    let a ← s.rdS x.a
    match x.s.val with
    | 3 => s.xferLanes .a x.d.val x.l a 0
    | 4 => s.xferLanes .b x.d.val x.l a 0
    | _ => s.wr (some (.md (Fin.ofNat 8 x.d.val))) (a % 2 ^ 64) ones64 0 3

end Sys2Proof.Machine
end

