-- ==== Sys2Proof/Machine/System.lean ====
section
/-!
DEFINITION. Machine/System.lean: MFS and MTS (R158, R280-R285) and the privileged forms (10: R255-R279). The end of an
asynchronous form is an event (EventsSystem.lean).
-/
namespace Sys2Proof.Machine

/-! Special registers. -/
/-- The state before the bundle, which every slot reads (R83). -/
def State.prior (s : State) : State := match s.opened with | some o => { s with toWorld := o.saved } | none => s
def execMfs (x : SMfs) (s : State) : Out := runSlot 2 x.g s fun s => s.wrS x.d (s.prior.special s.me x.n.val) 1

def execMts (x : SMts) (s : State) : Out :=
  runSlot 2 x.g s fun s => do
    let v ← s.rdS x.a
    let n := x.n.val
    if (n = 20 ∨ n = 21) ∧ v % 4 = 3 then .error (.trap 2 0)
    else if n = 26 ∧ isMesh s.me then .error (.trap 2 0)
    else if 32 ≤ n ∧ !fmtLegal (BitVec.ofNat 32 v) then .error (.trap 4 0)
    else if n = 30 ∧ isStream s.me then .ok s
    else .ok ((s.modMe fun c => c.modSys fun y => y.setSpecial n v).note 3 8 v)

/-! Conventions of the privileged forms (R255-R259). -/
def refused : Nat := 2 ^ 64 - 1
/-- A privileged form: outside a stream or management context it traps ILLEGAL_OP, in an open segment SEG_ORDER. -/
def runPriv (g : Guard) (s : State) (body : State → Res State) : Out :=
  runSlot 2 g s fun s => if isMesh s.me then .error (.trap 2 0) else s.noSeg body
/-- A status or value in Sd, by the bound of R257. -/
def State.sd (s : State) (d : Dst) (v : Nat) : Res State := s.wrS d v 4
/-- The issuer may act on a partition (R255). -/
def State.mine (s : State) (p : Nat) : Bool := isMgmt s.me || s.pre.part == p
/-- An accepted asynchronous form takes a ticket (R258). -/
def State.accept (s : State) (d : Dst) (op : SysOp) : Res State :=
  let t := s.pre.tickets + 1
  let s := s.modMe fun c => { c with tickets := t }
  let s : State := { s with ops := s.ops ++ [{ op with issuer := some s.me, life := s.pre.life, ticket := t }] }
  s.sd d (t % 2 ^ 40 * 256)
/-- A form that reads memory reads it after the stores of the issuer's earlier bundles (R259). -/
def State.forForm (s : State) : State := (s.settleAll s.me).flushStores s.me false
/-- Bytes at a virtual address of a context. -/
def State.readVirt (s : State) (k a n : Nat) : Nat → Option (List Byte)
  | 0 => none
  | fuel + 1 =>
    if n = 0 then some []
    else
      let len := min n (65536 - a % 65536)
      match s.locate k a .read with
      | .ok key _ t => (State.readVirt t k (a + len) (n - len) fuel).map fun r => s.getBytes key len ++ r
      | _ => none
/-- The same, or why a slot's read of them has none: UNMAPPED outside the partition's memory (R30), a wait for a pending page,
or TRANSLATION when it has been too long (R384). -/
def State.readVirtR (s : State) (k a n : Nat) : Nat → Res (List Byte)
  | 0 => .error (.trap 6 a)
  | fuel + 1 =>
    if n = 0 then .ok []
    else
      let len := min n (65536 - a % 65536)
      match s.locate k a .read with
      | .ok key _ t => do
        let r ← State.readVirtR t k (a + len) (n - len) fuel
        .ok (s.getBytes key len ++ r)
      | .pending page leaf => .error (s.pre.pageStop s.now page leaf a)
      | .fault _ => .error (.trap 6 a)
def mkOp (kind : OpKind) (opcode : Nat) (flag : Fin 16) (target a b due : Nat) (data : List Byte) : SysOp :=
  ⟨kind, none, 0, opcode, 0, flag, target, a, b, due, data⟩

/-- A context handle (R261). -/
def handle (v : Nat) : Option Nat :=
  if 2 ^ 13 ≤ v then none
  else if 4096 ≤ v then (if v % 256 < 4 then some v else none)
  else if v / 256 < 4 then some v else none
/-- The partition that a context is granted to. -/
def State.granted (s : State) (k : Nat) : Option Nat := (List.range 64).find? fun p => (s.part p).exist && (s.part p).grants k
/-- The partition that a handle's context belongs to: the one it runs for, else the one it is granted to. -/
def State.ownerOf (s : State) (k : Nat) : Option Nat := if (s.ctx k).status = .free then s.granted k else some (s.ctx k).part
def State.mineCtx (s : State) (k : Nat) : Bool := isMgmt s.me || s.ownerOf k == some s.pre.part
/-- A save or load is in progress on a context. -/
def State.opOn (s : State) (k : Nat) : Bool := s.ops.any fun o => (o.kind == .save || o.kind == .load) && o.target == k

/-- A unit identifier (R260). -/
def unitOk (v : Nat) : Bool :=
  decide (v < 2 ^ 32) && bitsOf v 16 12 == 0 &&
    (match v / 2 ^ 28 with
     | 0 => decide (v % 65536 < 256) | 1 => decide (v % 65536 < 4) | 2 => decide (v % 65536 < 18)
     | 3 => decide (v % 65536 < 256) | 4 => decide (v % 65536 < 16) | _ => false)
def isCoreUnit (u : Nat) : Bool := decide (u < 256)
/-- The state of a unit (R272). DESIGN CHOICE: one that a power-on test took out of service reads as leased until patrol returns it (log 26). -/
def State.unitState (s : State) (u : Nat) : Nat :=
  let x := s.unit u
  if x.retired then 4 else if x.lease then 1
  else if isCoreUnit u && (s.core u).health.fenced then 2
  else if isCoreUnit u && (s.core u).health.probation then 3 else if x.failed then 1 else 0
/-- TDISP state that locks a partition against its manager (R434). -/
def State.locked (s : State) (p : Nat) : Bool := match (s.part p).tdi with | .locked => true | .run => true | _ => false

/-! Translation (R262, R263). -/
/-- TLBINV of a range of a partition; its entries go by the end that TLBSYNC waits for. -/
def State.tlbinv (s : State) (d : Dst) (a base n : Nat) : Res State :=
  if 2 ^ 63 ≤ a then s.sd d 3
  else
    let p := bitsOf a 57 6
    if !s.mine p then s.sd d 2
    else if n = 0 then s.sd d 0
    else ({ s with dying := s.dying ++ [(s.me, p, base, n, s.now + 65536)] } : State).sd d 0
def execTlbinvPage (x : PDA) (s : State) : Out :=
  runPriv x.g s fun s => do
    let a ← s.rdS x.a
    s.tlbinv x.d a (a % 2 ^ 57) 1
def execTlbinvRange (x : PDAB) (s : State) : Out :=
  runPriv x.g s fun s => do
    let a ← s.rdS x.a
    let b ← s.rdS x.b
    s.tlbinv x.d a (a % 2 ^ 57) b
def execTlbinvAll (x : PDA) (s : State) : Out :=
  runPriv x.g s fun s => do
    let a ← s.rdS x.a
    s.tlbinv x.d a 0 (2 ^ 57)
def execTlbsync (x : PD) (s : State) : Out :=
  runPriv x.g s fun s => if s.dying.any fun y => y.1 == s.me then .error .stall else s.sd x.d 0

/-! Contexts (R264-R266). -/
/-- The device's own save of a context, with a full image or an epilogue image (R378, R379). A pair is saved in its lead. -/
def State.askSave (s : State) (k kind : Nat) : State :=
  if s.opOn k ∨ (s.ctx k).regs.sys.rmode.getLsbD 1 then s
  else { (s.modCtx k fun c => { c with saving := true, forced := false, stopAt := s.now }) with
         ops := s.ops ++ [mkOp .save 102 0 k kind 0 (s.now + (s.ctx k).ctl.drain + 2 ^ 22) []] }
/-- The other contexts of a deterministic node, which stops as a whole (R355). -/
def State.restOf (s : State) (k : Nat) : List Nat :=
  let c := s.ctx k
  if c.regs.sys.dmode ∧ c.node ≠ 0 then (s.node c.node).ctxs.filter fun j => j ≠ k && (s.ctx j).node = c.node && (s.ctx j).status != .free else []
def execCtxsave (x : PDAn) (s : State) : Out :=
  runPriv x.g s fun s => do
    let a ← s.rdS x.a
    match handle a with
    | none => s.sd x.d 3
    | some k =>
      if !s.mineCtx k then s.sd x.d 2
      else if s.opOn k then s.sd x.d 1
      else if (s.ctx k).status = .free then s.sd x.d 4
      else ((s.restOf k).foldl (fun s j => s.askSave j 0) (s.modCtx k fun c => { c with saving := true, stopAt := s.now })).accept x.d (mkOp .save 102 x.n k 0 0 (s.now + (s.ctx k).ctl.drain + 2 ^ 22) [])
def execCtxload (x : PDABn) (s : State) : Out :=
  runPriv x.g s fun s => do
    let a ← s.rdS x.a
    let b ← s.rdS x.b
    match handle a with
    | none => s.sd x.d 3
    | some k =>
      if !isMgmt s.me && (s.ctx k).status != .free && !s.mineCtx k then s.sd x.d 2
      else if s.opOn k then s.sd x.d 1
      else s.forForm.accept x.d (mkOp .load 103 x.n k b (if isMgmt s.me then (s.granted k).getD s.pre.part else s.pre.part) (s.now + 2 ^ 22) [])
/-- A kill meets a save or load in progress: that form ends FAILED (R266). -/
def State.failOps (s : State) (k : Nat) : State :=
  let mine : SysOp → Bool := fun o => (o.kind == .save || o.kind == .load) && o.target == k
  let s' := (s.ops.filter mine).foldl (fun s o => s.finishOp o 6) s
  { s' with ops := s'.ops.filter fun o => !mine o }
def execCtxkill (x : PDAB) (s : State) : Out :=
  runPriv x.g s fun s => do
    let a ← s.rdS x.a
    let b ← s.rdS x.b
    match handle a with
    | none => s.sd x.d 3
    | some k =>
      if !s.mineCtx k then s.sd x.d 2
      else if (s.ctx k).status = .free then (if s.opOn k then (s.failOps k).sd x.d 0 else s.sd x.d 4)
      else (((s.failOps k).killCtx k (b % 65536)).modCtx k fun c => { c with cmds := [], saving := false }).sd x.d 0

/-! Partitions (R267-R270). -/
def le (l : List Byte) (o n : Nat) : Nat := ofBytes ((l.drop o).take n)
/-- Reserved bits of a descriptor are zero (Table 10-5). -/
def descOk (l : List Byte) : Bool :=
  le l 0 8 / 64 == 0 && le l 8 8 / 16 == 0 && le l 0x10 8 / 65536 == 0 && le l 0x60 8 / 2 ^ 22 == 0 && bitsOf (le l 0x60 8) 14 2 == 0 &&
    le l 0x78 8 == 0 && le l 0x108 248 == 0 && le l 0x20 8 % 2 ^ 30 == 0
/-- The slots that the grants of a descriptor take in the context region (R381). -/
def descSlots (l : List Byte) : Nat := popFrom (le l 0x80 128) 1024 * 0x340000 + popFrom (le l 0x100 8) 64 * 0x140000
def overlap (a b : Nat × Nat) : Bool := a.2 != 0 && b.2 != 0 && decide (a.1 < b.1 + b.2) && decide (b.1 < a.1 + a.2)
/-- Grants and pools that a descriptor asks for. -/
def Part.asked (l : List Byte) : Part :=
  { Part.absent with
    hbm := (le l 0x20 8, le l 0x28 8), carr := (le l 0x30 8, le l 0x38 8), ctxr := (le l 0x40 8, le l 0x48 8),
    cgrant := BitVec.ofNat 1024 (le l 0x80 128), sgrant := BitVec.ofNat 64 (le l 0x100 8) }
/-- Two partitions share no context and no memory. -/
def Part.apart (x y : Part) : Bool :=
  x.cgrant &&& y.cgrant == 0 && x.sgrant &&& y.sgrant == 0 && !overlap x.carr y.carr &&
    !overlap x.hbm y.hbm && !overlap x.hbm y.ctxr && !overlap x.ctxr y.hbm && !overlap x.ctxr y.ctxr
/-- CREATE is accepted (R268): a free number, contexts not granted, pools and context region in memory that is free (R383), of no CREATE in
progress either, the package not in its safe state. -/
def State.createState (s : State) (l : List Byte) : Bool :=
  let p := le l 0 8
  let x := Part.asked l
  !(s.part p).exist && s.boot.state != 2 &&
    ((s.parts.filter fun y => y.2.exist && y.1 != p).all fun y => y.2.apart x) &&
    ((s.ops.filter fun o => o.kind == .create).all fun o => (Part.asked o.data).apart x) &&
    decide (x.hbm.1 + x.hbm.2 ≤ Config.hbmBytes) && decide (x.ctxr.1 + x.ctxr.2 ≤ Config.hbmBytes) &&
    (x.carr.2 == 0 || (s.product == 1 && decide (x.carr.1 + x.carr.2 ≤ Config.carrierBytes)))

/-- The common part of PARTSET: the issuer, the descriptor and BUSY (R267). -/
def partset (x : PDAn) (s : State) (body : State → List Byte → Nat → Res State) : Out :=
  runPriv x.g s fun s => do
    let a ← s.rdS x.a
    if !isMgmt s.me then s.sd x.d 2
    else if a % 512 ≠ 0 then s.sd x.d 3
    else
      let s := s.forForm
      match s.readVirt s.me a 512 3 with
      | none => s.sd x.d 3
      | some l => if !descOk l then s.sd x.d 3
                  else if (s.part (le l 0 8)).busy then s.sd x.d 1
                  else body s l (le l 0 8)
def execPartsetCreate (x : PDAn) (s : State) : Out :=
  partset x s fun s l p =>
    if !s.createState l then s.sd x.d 4
    else (s.modPart p fun y => { y with busy := true }).accept x.d (mkOp .create 105 x.n p 0 0 (s.now + 50 * Config.perMs) l)
/-- UPDATE replaces FLAGS, WAYS, PERIOD and BUDGET (R268); it ends at once. -/
def execPartsetUpdate (x : PDAn) (s : State) : Out :=
  partset x s fun s l p =>
    if s.locked p then s.sd x.d 2
    else if !(s.part p).exist then s.sd x.d 4
    else
      let fl := le l 8 8
      let t := s.pre.tickets + 1
      let old := (s.part p).desc
      let s := s.modPart p fun y => { y with
        debug := bitsOf fl 0 1 == 1, inject := bitsOf fl 1 1 == 1, detok := bitsOf fl 2 1 == 1, migdest := bitsOf fl 3 1 == 1,
        ways := BitVec.ofNat 16 (le l 0x10 8), period := le l 0x68 8, budget := le l 0x70 8,
        desc := old.take 8 ++ (l.drop 8).take 16 ++ (old.drop 0x18).take 0x50 ++ (l.drop 0x68).take 16 ++ old.drop 0x78 }
      let s := s.modMe fun c => { c with tickets := t }
      (s.finishOp { mkOp (.zero 0) 105 x.n p 0 0 0 [] with issuer := some s.me, life := s.pre.life, ticket := t } 0).sd x.d (t % 2 ^ 40 * 256)
def execPartsetStop (x : PDAn) (s : State) : Out :=
  partset x s fun s _ p =>
    if !(s.part p).exist || (s.part p).stopped || s.ctxs.any (fun c => c.2.status != .free && c.2.part == p) then s.sd x.d 4
    else
      let s := s.modPart p fun y => { y with busy := true, tdi := if s.locked p then .error else y.tdi }
      s.accept x.d (mkOp .stop 105 x.n p 0 0 (s.now + 50 * Config.perMs) [])
def execPartsetDestroy (x : PDAn) (s : State) : Out :=
  partset x s fun s _ p =>
    if !(s.part p).exist || !(s.part p).stopped then s.sd x.d 4
    else (s.modPart p fun y => { y with busy := true }).accept x.d (mkOp .destroy 105 x.n p 0 0 (s.now + 50 * Config.perMs) [])
def execWayset (x : PDAB) (s : State) : Out :=
  runPriv x.g s fun s => do
    let a ← s.rdS x.a
    let b ← s.rdS x.b
    if !isMgmt s.me then s.sd x.d 2
    else if 64 ≤ a ∨ 65536 ≤ b then s.sd x.d 3
    else if s.locked a then s.sd x.d 2
    else if !(s.part a).exist then s.sd x.d 4
    else (s.modPart a fun y => { y with ways := BitVec.ofNat 16 b }).sd x.d 0

/-- The owner of a bank of a core (R270): the partition of a bound context whose mask holds it, else its last owner. -/
def State.bankOwner (s : State) (core b : Nat) : Option Nat :=
  match (s.bound core).find? fun k => (s.ctx k).ctl.banks.getLsbD b with
  | some k => some (s.ctx k).part
  | none => ((s.core core).owners.find? fun x => x.1 = b).map Prod.snd
/-- ZERO.MEM and ZERO.CARR: the arguments of R270. -/
def State.zeroPages (s : State) (x : PDABn) (cls : Nat) : Res State := do
  let a ← s.rdS x.a
  let b ← s.rdS x.b
  let p := bitsOf a 57 6
  let base := a % 2 ^ 57
  if 2 ^ 63 ≤ a ∨ base % 65536 ≠ 0 ∨ b % 65536 ≠ 0 then s.sd x.d 3
  else if !s.mine p ∨ (isMgmt s.me ∧ s.locked p) then s.sd x.d 2
  else if !(s.part p).exist then s.sd x.d 4
  else s.accept x.d (mkOp (.zero cls) 107 x.n p base b (s.now + 50 * Config.perMs) [])
def execZeroMem (x : PDABn) (s : State) : Out := runPriv x.g s fun s => s.zeroPages x 0
def execZeroCarr (x : PDABn) (s : State) : Out := runPriv x.g s fun s => s.zeroPages x 2
def execZeroBanks (x : PDABn) (s : State) : Out :=
  runPriv x.g s fun s => do
    let a ← s.rdS x.a
    let b ← s.rdS x.b
    match handle a with
    | none => s.sd x.d 3
    | some k =>
      let core := coreOf k
      let banks := (List.range 24).filter fun i => b / 2 ^ i % 2 = 1
      if 2 ^ (if isMesh k then 24 else 8) ≤ b then s.sd x.d 3
      else match s.granted k with
        | none => s.sd x.d 4
        | some p =>
          if !s.mine p ∨ (isMgmt s.me ∧ s.locked p) then s.sd x.d 2
          else if banks.any fun i => match s.bankOwner core i with | some q => q != p | none => false then s.sd x.d 2
          else if banks.any fun i => (s.bound core).any fun j => (s.ctx j).ctl.banks.getLsbD i then s.sd x.d 1
          else s.accept x.d (mkOp (.zero 1) 107 x.n core b p (s.now + 50 * Config.perMs) [])
def execZeroL2 (x : PDABn) (s : State) : Out :=
  runPriv x.g s fun s => do
    let a ← s.rdS x.a
    let b ← s.rdS x.b
    if 64 ≤ a ∨ b ≠ 0 then s.sd x.d 3
    else if !s.mine a ∨ (isMgmt s.me ∧ s.locked a) then s.sd x.d 2
    else if !(s.part a).exist then s.sd x.d 4
    else s.accept x.d (mkOp (.zero 3) 107 x.n a 0 0 (s.now + 50 * Config.perMs) [])

/-! Patrol and health (R271-R275). -/
/-- Without carrier memory the carrier channels take no leases (R2), nor do channels of a stack, or of the carrier, of which one has retired
(R408). -/
def State.leasable (s : State) (u : Nat) : Bool :=
  let whole (b n : Nat) : Bool := (List.range n).all fun i => !(s.unit (b + i)).retired
  match u / 2 ^ 28 with
  | 3 => whole (3 * 2 ^ 28 + u % 65536 / 32 * 32) 32
  | 4 => s.product == 1 && whole (4 * 2 ^ 28) 16
  | _ => true
def execLease (x : PDAn) (s : State) : Out :=
  runPriv x.g s fun s => do
    let u ← s.rdS x.a
    if !isMgmt s.me then s.sd x.d 2
    else if !unitOk u then s.sd x.d 3
    else if (s.unit u).retired ∨ !s.leasable u then s.sd x.d 4
    else if (s.unit u).lease then s.sd x.d 1
    else (s.modUnit u fun y => { y with lease := true, out := false, stop := false, last := s.before + s.now }).accept x.d (mkOp .lease 108 x.n u 0 0 (s.now + 7 * Config.perDay) [])
def execUnlease (x : PDA) (s : State) : Out :=
  runPriv x.g s fun s => do
    let u ← s.rdS x.a
    if !isMgmt s.me then s.sd x.d 2
    else if !unitOk u then s.sd x.d 3
    else if !(s.unit u).lease then s.sd x.d 4
    else if (s.unit u).out then (s.modUnit u fun y => { y with stop := true }).sd x.d 0
    else (s.endLease u 4).sd x.d 0
def State.scoreView (s : State) (u : Nat) : Nat := (s.unit u).score % 65536 + s.unitState u * 65536
def execScore (x : PDA) (s : State) : Out :=
  runPriv x.g s fun s => do
    let u ← s.rdS x.a
    if !unitOk u then s.sd x.d refused else s.sd x.d (s.scoreView u)
/-- SCORE.ADD: the management context alone, as Table 10-1 lists the form; R393 lets "stream contexts" report with
it and no rule gives one of the two way (DEDUCED, log entry 16). -/
def execScoreAdd (x : PDAB) (s : State) : Out :=
  runPriv x.g s fun s => do
    let u ← s.rdS x.a
    let n ← s.rdS x.b
    if !isMgmt s.me ∨ !unitOk u then s.sd x.d refused
    else
      let s := (s.addScore u (n % 65536)).settleScores
      s.sd x.d (s.scoreView u)
/-- Reason codes below 0x100 other than 3 are recorded as 3 (R409). -/
def reasonOf (b : Nat) : Nat := if b % 65536 < 0x100 then 3 else b % 65536
/-- RETIRE: the unit leaves service at commit and the outcome follows its record (R273). -/
def State.retireForm (s : State) (x : PDABn) (force : Bool) : Res State := do
  let u ← s.rdS x.a
  let b ← s.rdS x.b
  if !isMgmt s.me then s.sd x.d 2
  else if !unitOk u then s.sd x.d 3
  else if (s.unit u).retired then s.sd x.d 4
  else if !force && isCoreUnit u && (s.bound u).any (fun k => (s.ctx k).node != 0) then s.sd x.d 1
  else
    let t := s.pre.tickets + 1
    let s := s.modMe fun c => { c with tickets := t }
    let s := s.retireUnit u (reasonOf b) { mkOp .retire 111 x.n u 0 0 0 [] with issuer := some s.me, life := s.pre.life, ticket := t } 4
    s.sd x.d (t % 2 ^ 40 * 256)
def execRetire (x : PDABn) (s : State) : Out := runPriv x.g s fun s => s.retireForm x false
def execRetireForce (x : PDABn) (s : State) : Out := runPriv x.g s fun s => s.retireForm x true
/-- FENCEQ (Table 10-6). -/
def State.fenceView (s : State) (c : Nat) : Nat :=
  let h := (s.core c).health
  let st := if (s.unit c).retired then 3 else if h.fenced then (if h.barred then 4 else 1) else if h.probation then 2 else 0
  (h.fences.filter fun t => decide (s.before + s.now < t + Config.perDay)).length % 256 * 2 ^ 32 + h.clean % 1024 * 2 ^ 12 + h.accusers.toNat * 2 ^ 8 + st
def execFenceq (x : PDA) (s : State) : Out :=
  runPriv x.g s fun s => do
    let u ← s.rdS x.a
    if !unitOk u || !isCoreUnit u then s.sd x.d refused else s.sd x.d (s.fenceView u)
/-- A core's test island starts its self test (R275, R400). -/
def execAppeal (x : PDAn) (s : State) : Out :=
  runPriv x.g s fun s => do
    let u ← s.rdS x.a
    if !isMgmt s.me then s.sd x.d 2
    else if !unitOk u || !isCoreUnit u then s.sd x.d 3
    else if !(s.core u).health.fenced || (s.unit u).retired then s.sd x.d 4
    else if s.ops.any fun o => o.kind == .appeal && o.target == u then s.sd x.d 1
    else (s.modCore u fun c => { c with health := { c.health with barred := false, testing := some s.now } }).accept x.d (mkOp .appeal 113 x.n u 0 0 (s.now + 2 ^ 24) [])
def execAppealBar (x : PDAn) (s : State) : Out :=
  runPriv x.g s fun s => do
    let u ← s.rdS x.a
    if !isMgmt s.me then s.sd x.d 2
    else if !unitOk u || !isCoreUnit u then s.sd x.d 3
    else if !(s.core u).health.fenced || (s.unit u).retired then s.sd x.d 4
    else
      let t := s.pre.tickets + 1
      let s := s.modCore u fun c => { c with health := { c.health with barred := true } }
      let s := s.modMe fun c => { c with tickets := t }
      (s.finishOp { mkOp .appeal 113 x.n u 0 0 0 [] with issuer := some s.me, life := s.pre.life, ticket := t } 0).sd x.d (t % 2 ^ 40 * 256)

/-! Meters, signing, power and injection (R276-R279). -/
def meterIndex (i : Nat) : Bool := decide (i ≤ 8) || (decide (0x100 ≤ i) && decide (i < 0x140)) || (decide (0x400 ≤ i) && decide (i < 0x840))
def execMeter (x : PDAB) (s : State) : Out :=
  runPriv x.g s fun s => do
    let p ← s.rdS x.a
    let i ← s.rdS x.b
    if 64 ≤ p ∨ !meterIndex i ∨ !s.mine p ∨ !(s.part p).exist then s.sd x.d refused
    else s.sd x.d (Tbl.getD (s.part p).meters i 0)
/-- SIGNQ: the record is made now and its bytes are written when the form ends (R277, R441). -/
def State.signForm (s : State) (x : PDABn) (kind p b : Nat) : Res State := do
  let a ← s.rdS x.a
  if a % 64 ≠ 0 then s.sd x.d 3
  else if kind ≠ 1 ∧ !s.mine p then s.sd x.d 2
  else s.forForm.accept x.d { mkOp (.sign kind) 115 x.n p a b (s.now + 50 * Config.perMs) [] with
    data := if kind = 2 then bytesOf ((s.part p).useq - 1) 8 else [] }
def execSignqUsage (x : PDABn) (s : State) : Out :=
  runPriv x.g s fun s => do
    let b ← s.rdS x.b
    if 64 ≤ b then s.sd x.d 3 else s.signForm x 0 b b
def execSignqRetired (x : PDABn) (s : State) : Out :=
  runPriv x.g s fun s => do
    let b ← s.rdS x.b
    if 65536 ≤ b then s.sd x.d 3 else s.signForm x 1 s.pre.part b
def execSignqQuote (x : PDABn) (s : State) : Out :=
  runPriv x.g s fun s => do
    let b ← s.rdS x.b
    if bitsOf b 6 2 ≠ 0 then s.sd x.d 3 else s.signForm x 2 (b % 64) b
/-- The token lease left, in ms. -/
def State.leaseLeft (s : State) : Nat := match s.power.leaseEnd with | some t => (t - s.now) / Config.perMs | none => 0
/-- The package budget: what the token or the floor sets, lowered for hot dies but not below the safe floor (R451, R452). -/
def State.packageBudget (s : State) : Nat := max (min s.power.budget s.power.floor) (s.power.budget * (100 - s.power.cut) / 100)
def State.powerView (s : State) : Nat :=
  s.packageBudget % 2 ^ 32 + s.power.seq.getD 0 % 65536 * 2 ^ 32 + min s.leaseLeft 32767 * 2 ^ 48 + b2n s.power.atFloor * 2 ^ 63
def execPowqPkg (x : PDAB) (s : State) : Out :=
  runPriv x.g s fun s => do
    let a ← s.rdS x.a
    let b ← s.rdS x.b
    if a ≠ 0 ∨ b ≠ 0 then s.sd x.d refused else s.sd x.d s.powerView
/-- The grant of a core: the EGRANT of its contexts that are not Free (R278, R447). -/
def State.coreGrant (s : State) (core : Nat) : Nat := (s.bound core).foldl (fun n k => n + (s.ctx k).regs.sys.egrant.toNat) 0
/-- The charge of the window at hand, once the windows that have ended are passed over (R447). -/
def State.chargeNow (s : State) (core : Nat) : Nat :=
  let e := (s.core core).energy
  let n := if s.now < e.fin then 0 else (s.now - e.fin) / (256 * (s.core core).div[(0 : Fin 5)]) + 1
  if n = 0 then e.charge else e.charge - e.grant - (n - 1) * s.coreGrant core
def execPowqCore (x : PDA) (s : State) : Out :=
  runPriv x.g s fun s => do
    let a ← s.rdS x.a
    match handle a with
    | none => s.sd x.d refused
    | some k =>
      let core := coreOf k
      if !isMgmt s.me && !(List.range (ctxCount core)).any fun n => (s.part s.pre.part).grants (keyOf core n) then s.sd x.d refused
      else s.sd x.d (s.coreGrant core % 2 ^ 32 + min (s.chargeNow core) (2 ^ 32 - 1) * 2 ^ 32)
def execPowqGrant (x : PDAB) (s : State) : Out :=
  runPriv x.g s fun s => do
    let a ← s.rdS x.a
    let b ← s.rdS x.b
    if !isMgmt s.me then s.sd x.d 2
    else match handle a with
      | none => s.sd x.d 3
      | some k =>
        let c := s.ctx k
        if c.status = .free ∨ (c.regs.sys.dmode ∧ b % 2 ^ 32 < c.ctl.emax) then s.sd x.d 4
        else (s.modCtx k fun c => c.modSys fun y => { y with egrant := BitVec.ofNat 32 b }).sd x.d 0
/-- INJ: who may act on the partition (R279, R434). -/
def injForm (x : PDAB) (s : State) (body : State → Nat → Nat → Res State) : Out :=
  runPriv x.g s fun s => do
    let p ← s.rdS x.a
    let b ← s.rdS x.b
    if 64 ≤ p then s.sd x.d 3
    else if !s.mine p ∨ (isStream s.me ∧ !(s.part p).inject) ∨ (isMgmt s.me ∧ s.locked p) then s.sd x.d 2
    else if !(s.part p).exist then s.sd x.d 4
    else body s p b
def execInjOff (x : PDAB) (s : State) : Out :=
  injForm x s fun s p b => if b ≠ 0 then s.sd x.d 3 else (s.modPart p fun y => { y with minj := false }).sd x.d 0
def execInjOn (x : PDAB) (s : State) : Out :=
  injForm x s fun s p b => if b ≠ 0 then s.sd x.d 3 else (s.modPart p fun y => { y with minj := true }).sd x.d 0
def execInjPoison (x : PDAB) (s : State) : Out :=
  injForm x s fun s p b =>
    if b < 0x1000000 ∨ 2 ^ 57 ≤ b then s.sd x.d 3
    else match walkFrom s.mem b levels (s.part p).root with
      | .leaf e _ base _ =>
        if s.physOk e (pteAddr e + (b - base)) then
          ({ s with poison := insertSorted (mkey (leafSpace e) (pteAddr e + (b - base)) / 64) s.poison } : State).sd x.d 0
        else s.sd x.d 3
      | _ => s.sd x.d 3

end Sys2Proof.Machine
end

