-- ==== Sys2Proof/Machine/Vector.lean ====
section
/-!
DEFINITION. Machine/Vector.lean: the vector instructions of slots a and b (08: R160-R185). Bounds are those of Table 8-1.
-/
namespace Sys2Proof.Machine

def execVectorNop (_ : VUnit) (s : State) : Out := s.inBundle id

/-- A result in the active lanes of a vector register. -/
def State.wrV (s : State) (u : VUnit) (d : Dst) (mask L : Nat) (f : Nat → Nat) : Res State := s.wr (vLoc u d) (vlanes f) (laneMask mask) 1 L
/-- Lane i of the result is f of lane i of one, two or three sources, the third being the destination (R162). -/
def lanes1 (u : VUnit) (g : Guard) (d : Dst) (a : Src) (L : Nat) (f : Nat → Nat) (s : State) : Out :=
  runLanes u g s fun s mask => do
    let va ← s.rdV u a
    s.wrV u d mask L fun i => f (lane va i)
def lanes2 (u : VUnit) (g : Guard) (d : Dst) (a b : Src) (L : Nat) (f : Nat → Nat → Nat) (s : State) : Out :=
  runLanes u g s fun s mask => do
    let va ← s.rdV u a
    let vb ← s.rdV u b
    s.wrV u d mask L fun i => f (lane va i) (lane vb i)
def lanes3 (u : VUnit) (g : Guard) (d : Dst) (a b : Src) (L : Nat) (f : Nat → Nat → Nat → Nat) (s : State) : Out :=
  runLanes u g s fun s mask => do
    let va ← s.rdV u a
    let vb ← s.rdV u b
    let vd ← s.rdVD u d
    s.wrV u d mask L fun i => f (lane va i) (lane vb i) (lane vd i)

def VType.pick {α : Type} (t : VType) (int flt : α) : α := match t with | .f32 => flt | _ => int
/-- A rounded FP32 result. -/
def rnd32 (r : Rnd) (v : FVal) : Nat := fp32.round v r

/-! Arithmetic (R164-R166). -/
def vaddLane (t : VType) (r : Rnd) (a b : Nat) : Nat := VType.pick t ((a + b) % 2 ^ 32) (rnd32 r ((f32 a).add (f32 b) r))
def vsubLane (t : VType) (r : Rnd) (a b : Nat) : Nat := VType.pick t (subW 32 a b) (rnd32 r ((f32 a).add (f32 b).neg r))
def vmulLane (t : VType) (r : Rnd) (a b : Nat) : Nat := VType.pick t (a * b % 2 ^ 32) (rnd32 r ((f32 a).mul (f32 b)))
def vfmaLane (t : VType) (r : Rnd) (a b d : Nat) : Nat := VType.pick t ((a * b + d) % 2 ^ 32) (fma32 a b d r)
def vfmsLane (t : VType) (r : Rnd) (a b d : Nat) : Nat :=
  VType.pick t (subW 32 d (a * b % 2 ^ 32)) (rnd32 r ((f32 d).add ((f32 a).mul (f32 b)).neg r))
def vminLane (t : VType) (a b : Nat) : Nat :=
  match t with | .i32 => minS 32 a b | .u32 => min a b | .f32 => rne ((f32 a).min (f32 b))
def vmaxLane (t : VType) (a b : Nat) : Nat :=
  match t with | .i32 => maxS 32 a b | .u32 => max a b | .f32 => rne ((f32 a).max (f32 b))
def vdivLane (t : VType) (r : Rnd) (a b : Nat) : Nat :=
  match t with
  | .i32 => if b = 0 then 0 else quoS 32 a b
  | .u32 => if b = 0 then 0 else a / b
  | .f32 => rnd32 r ((f32 a).div (f32 b))
def vabsLane (t : VType) (a : Nat) : Nat :=
  VType.pick t (ofSigned 32 (toSigned 32 a).natAbs) (if (f32 a).sgn then fneg32 a else rne (f32 a))
def vnegLane (t : VType) (a : Nat) : Nat := VType.pick t (subW 32 0 a) (fneg32 a)

def execVadd (u : VUnit) (x : VTyp3) (s : State) : Out := lanes2 u x.g x.d x.a x.b (VType.pick x.t 1 4) (vaddLane x.t x.r) s
def execVsub (u : VUnit) (x : VTyp3) (s : State) : Out := lanes2 u x.g x.d x.a x.b (VType.pick x.t 1 4) (vsubLane x.t x.r) s
def execVmul (u : VUnit) (x : VTyp3) (s : State) : Out := lanes2 u x.g x.d x.a x.b (VType.pick x.t 3 4) (vmulLane x.t x.r) s
def execVfma (u : VUnit) (x : VTyp3) (s : State) : Out := lanes3 u x.g x.d x.a x.b (VType.pick x.t 3 4) (vfmaLane x.t x.r) s
def execVfms (u : VUnit) (x : VTyp3) (s : State) : Out := lanes3 u x.g x.d x.a x.b (VType.pick x.t 3 4) (vfmsLane x.t x.r) s
def execVmin (u : VUnit) (x : VTyp3) (s : State) : Out := lanes2 u x.g x.d x.a x.b (VType.pick x.t 1 2) (vminLane x.t) s
def execVmax (u : VUnit) (x : VTyp3) (s : State) : Out := lanes2 u x.g x.d x.a x.b (VType.pick x.t 1 2) (vmaxLane x.t) s
def execVabs (u : VUnit) (x : VTyp2) (s : State) : Out := lanes1 u x.g x.d x.a (VType.pick x.t 1 2) (vabsLane x.t) s
def execVneg (u : VUnit) (x : VTyp2) (s : State) : Out := lanes1 u x.g x.d x.a (VType.pick x.t 1 2) (vnegLane x.t) s
def execVrcp (u : VUnit) (x : VFun) (s : State) : Out := lanes1 u x.g x.d x.a 8 (fun a => rnd32 x.r ((FVal.fin false 1 0).div (f32 a))) s
def execVrsq (u : VUnit) (x : VFun) (s : State) : Out := lanes1 u x.g x.d x.a 8 (fun a => rnd32 x.r (f32 a).rsqrt) s
def execVexp2 (u : VUnit) (x : VFun) (s : State) : Out := lanes1 u x.g x.d x.a 10 (fun a => rnd32 x.r (f32 a).exp2) s
def execVlog2 (u : VUnit) (x : VFun) (s : State) : Out := lanes1 u x.g x.d x.a 10 (fun a => rnd32 x.r (f32 a).log2) s
def execVdiv (u : VUnit) (x : VTyp3) (s : State) : Out := lanes2 u x.g x.d x.a x.b (VType.pick x.t 12 14) (vdivLane x.t x.r) s

/-! Compares and select (R167, R168). -/
def ltLane (t : VType) (a b : Nat) : Bool :=
  match t with | .i32 => decide (toSigned 32 a < toSigned 32 b) | .u32 => decide (a < b) | .f32 => fcond 2 (f32 a) (f32 b)
def eqLane (t : VType) (a b : Nat) : Bool := VType.pick t (a == b) (fcond 0 (f32 a) (f32 b))
/-- The 64-bit mask whose bit i is f i. -/
def maskOf (f : Nat → Bool) : Nat := (List.range 64).foldl (fun m i => m + b2n (f i) * 2 ^ i) 0
def vcmp (u : VUnit) (x : VCmp) (f : Nat → Nat → Bool) (s : State) : Out :=
  runLanes u x.g s fun s mask => do
    let va ← s.rdV u x.a
    let vb ← s.rdV u x.b
    s.wrP x.d (maskOf fun i => f (lane va i) (lane vb i)) mask 1 (VType.pick x.t 1 2)
def execVcmpeq (u : VUnit) (x : VCmp) (s : State) : Out := vcmp u x (eqLane x.t) s
def execVcmpne (u : VUnit) (x : VCmp) (s : State) : Out := vcmp u x (fun a b => !eqLane x.t a b) s
def execVcmplt (u : VUnit) (x : VCmp) (s : State) : Out := vcmp u x (ltLane x.t) s
def execVcmple (u : VUnit) (x : VCmp) (s : State) : Out := vcmp u x (fun a b => ltLane x.t a b || eqLane x.t a b) s
def execVsel (u : VUnit) (x : VSel) (s : State) : Out :=
  runLanes u x.g s fun s mask => do
    let va ← s.rdV u x.a
    let vb ← s.rdV u x.b
    let q := predBits s.pre x.q
    s.wrV u x.d mask 1 fun i => if bitAt q i then lane va i else lane vb i

/-! Logic and bits (R169). -/
def vfieldLen (b : Nat) : Nat := min (bitsOf b 8 6) (32 - bitsOf b 0 5)
def vbfxLane (signed : Bool) (a b : Nat) : Nat :=
  let f := vfieldLen b
  let v := bitsOf a (bitsOf b 0 5) f
  if signed ∧ f ≠ 0 then sext f v 32 else v
def vbfiLane (a b d : Nat) : Nat := mergeBits d (a * 2 ^ bitsOf b 0 5) ((2 ^ vfieldLen b - 1) * 2 ^ bitsOf b 0 5)
def execVand (u : VUnit) (x : VRR) (s : State) : Out := lanes2 u x.g x.d x.a x.b 1 (fun a b => a &&& b) s
def execVor (u : VUnit) (x : VRR) (s : State) : Out := lanes2 u x.g x.d x.a x.b 1 (fun a b => a ||| b) s
def execVxor (u : VUnit) (x : VRR) (s : State) : Out := lanes2 u x.g x.d x.a x.b 1 (fun a b => a ^^^ b) s
def execVandn (u : VUnit) (x : VRR) (s : State) : Out := lanes2 u x.g x.d x.a x.b 1 (fun a b => a &&& notW 32 b) s
def execVshl (u : VUnit) (x : VRR) (s : State) : Out := lanes2 u x.g x.d x.a x.b 1 (fun a b => a * 2 ^ (b % 32) % 2 ^ 32) s
def execVshr (u : VUnit) (x : VRR) (s : State) : Out := lanes2 u x.g x.d x.a x.b 1 (fun a b => a / 2 ^ (b % 32)) s
def execVsar (u : VUnit) (x : VRR) (s : State) : Out := lanes2 u x.g x.d x.a x.b 1 (sarW 32) s
def execVbfx (u : VUnit) (x : VBfx) (s : State) : Out := lanes2 u x.g x.d x.a x.b 1 (vbfxLane x.s) s
def execVbfi (u : VUnit) (x : VRR) (s : State) : Out := lanes3 u x.g x.d x.a x.b 1 vbfiLane s
def execVfsh (u : VUnit) (x : VRR) (s : State) : Out := lanes3 u x.g x.d x.a x.b 1 (fshW 32) s
def execVpopc (u : VUnit) (x : VR) (s : State) : Out := lanes1 u x.g x.d x.a 1 (popW 32) s
def execVclz (u : VUnit) (x : VR) (s : State) : Out := lanes1 u x.g x.d x.a 1 (clzW 32) s

/-! Conversion and packing (R170-R173). -/
/-- The value of a lane under a source code. -/
def cvtRead (c v : Nat) : FVal := codeRead c 0 (if c = 6 then sext 32 v 64 else v)
/-- The lane that a converted code fills. -/
def cvtLane (c v : Nat) : Nat := (if codeSigned c then sext (codeWidth c) v 64 else v) % 2 ^ 32
/-- A conversion with EF writes results and residues (R74). -/
def State.wrEf (s : State) (u : VUnit) (n : Rnd) (mask : Nat) (f : Nat → Nat) : State :=
  (s.writeNow s.me (.ve u (Fin.ofNat 4 n.enc)) (vlanes f) (laneMask mask)).note 3 256 (vlanes f)
def State.rdE (s : State) (u : VUnit) (n : Nat) : Nat := s.pre.regs.dat.get (.ve u (Fin.ofNat 4 n))
def execVcvt (u : VUnit) (x : VCvt) (s : State) : Out :=
  runLanes u x.g s fun s mask => do
    let va ← s.rdV u x.a
    if x.e then
      let e := s.rdE u x.r.enc
      let F := codeFmt x.t.val 0
      let out := (List.range 64).map fun i => F.roundEf (cvtRead x.s.val (lane va i)) (lane e i)
      (s.wrEf u x.r mask fun i => (out.getD i (0, 0)).2).wrV u x.d mask 3 fun i => (out.getD i (0, 0)).1
    else s.wrV u x.d mask 3 fun i => cvtLane x.t.val (codeWrite x.t.val 0 (cvtRead x.s.val (lane va i)) x.r).1

/-- Element width of a pack code (Table 8-5). -/
def packWidth (y : SysRegs) (c : Nat) : Nat := if c < 2 then 8 else if c < 6 then 16 else fmtWidth (vget y.fmt (c - 8) 0)
/-- Parts that a string of the code has. -/
def packParts (w : Nat) : Nat := if container w = 6 then 5 else 2048 / container w / 64
def packFmt (y : SysRegs) (c : Nat) : Fmt := if c = 4 then fp16 else if c = 5 then bf16 else miniFmt (vget y.fmt (c - 8) 0)
def packBS (y : SysRegs) (c : Nat) : Bool := decide (8 ≤ c) && fmtBS (vget y.fmt (c - 8) 0)
/-- Bit place of element e of a packed string (R76, R171). -/
def packBit (w e : Nat) : Nat := elemBit (container w) e
/-- Element codes and new residues of the active lanes (R172). -/
def packLane (y : SysRegs) (x : VPack) (scale : Nat → Nat) (v e : Nat) (i : Nat) : Nat × Nat :=
  let c := x.c.val
  if c < 4 then
    let w := if c < 2 then 8 else 16
    (ofSigned w (saturate w (c % 2 == 0) (toSigned 32 v)), 0)
  else
    let F := packFmt y c
    let bs := packBS y c
    let sc := scale (i / 32)
    if bs ∧ sc = 255 then (0, 0)
    else
      let val := if bs then (f32 v).scale (127 - sc) else f32 v
      if x.e then F.roundEf val e else (F.round val x.r, 0)
/-- DESIGN CHOICE: of a block-scaled pack whose Vd is near register 3, elements and scale codes go to one register: as two results of which the
scale codes are the later (R98; log 33). -/
def execVpack (u : VUnit) (x : VPack) (s : State) : Out :=
  runLanes u x.g s fun s mask => do
    let y := s.pre.regs.sys
    let w := packWidth y x.c.val
    if packParts w ≤ x.q.val then .error (.trap 2 0)
    else do
      let va ← s.rdV u x.a
      let _ ← s.rdVD u x.d
      let act := activeLanes mask
      let scale (b : Nat) : Nat := blockScale (packFmt y x.c.val) ((act.filter fun i => i / 32 = b).map fun i => f32 (lane va i))
      let sc0 := scale 0
      let sc1 := scale 1
      let e := s.rdE u x.r.enc
      let out := act.map fun i => (i, packLane y x (fun b => if b = 0 then sc0 else sc1) (lane va i) (lane e i) i)
      let c := container w
      let v := out.foldl (fun a o => a + o.2.1 * 2 ^ packBit w (64 * x.q.val + o.1)) 0
      let m := act.foldl (fun a i => a + (2 ^ c - 1) * 2 ^ packBit w (64 * x.q.val + i)) 0
      let s := if x.e then s.wrEf u x.r mask fun i => ((out.find? fun o => o.1 = i).map fun o => o.2.2).getD 0 else s
      let s ← s.wr (vLoc u x.d) v m 1 4
      if packBS y x.c.val then
        let has (b : Nat) : Bool := act.any fun i => i / 32 == b
        let bit (b : Nat) : Nat := 8 * (2 * x.q.val + b)
        let v := (if has 0 then sc0 * 2 ^ bit 0 else 0) + (if has 1 then sc1 * 2 ^ bit 1 else 0)
        let m := (if has 0 then 255 * 2 ^ bit 0 else 0) + (if has 1 then 255 * 2 ^ bit 1 else 0)
        s.wr (some (.vn u 3)) v m 1 4
      else .ok s
def execVunpack (u : VUnit) (x : VUnpack) (s : State) : Out :=
  runLanes u x.g s fun s mask => do
    let y := s.pre.regs.sys
    let c := x.c.val
    let w := packWidth y c
    if packParts w ≤ x.q.val then .error (.trap 2 0)
    else do
      let va ← s.rdV u x.a
      let sc ← if packBS y c then s.pre.read (.vn u 3) else .ok 0
      s.wrV u x.d mask 3 fun i =>
        let e := 64 * x.q.val + i
        let v := bitsOf va (packBit w e) w
        if c < 4 then (if c % 2 = 0 then sext w v 32 else v)
        else
          let val := (packFmt y c).read v
          rne (if packBS y c then unscale (bitsOf sc (8 * (e / 32)) 8) val else val)

/-! Lane movement (R174, R175). -/
def execVperm (u : VUnit) (x : VRR) (s : State) : Out :=
  runLanes u x.g s fun s mask => do
    let va ← s.rdV u x.a
    let vb ← s.rdV u x.b
    s.wrV u x.d mask 2 fun i => lane va (lane vb i % 64)
def execVbcast (u : VUnit) (x : VBcast) (s : State) : Out :=
  runLanes u x.g s fun s mask => do
    let va ← s.rdV u x.a
    s.wrV u x.d mask 1 fun _ => lane va x.k.val
def execVslide (u : VUnit) (x : VSlide) (s : State) : Out :=
  runLanes u x.g s fun s mask => do
    let va ← s.rdV u x.a
    let vb ← s.rdV u x.b
    s.wrV u x.d mask 2 fun i => if i + x.n.val < 64 then lane va (i + x.n.val) else lane vb (i + x.n.val - 64)
def execViota (u : VUnit) (x : VD) (s : State) : Out := runLanes u x.g s fun s mask => s.wrV u x.d mask 1 id
/-- The generator of R175. -/
def randLane (seed n i : Nat) : Nat :=
  let z := (seed + (64 * n + i + 1) * 0x9E3779B97F4A7C15) % 2 ^ 64
  let z := (z ^^^ (z / 2 ^ 30)) * 0xBF58476D1CE4E5B9 % 2 ^ 64
  let z := (z ^^^ (z / 2 ^ 27)) * 0x94D049BB133111EB % 2 ^ 64
  (z ^^^ (z / 2 ^ 31)) / 2 ^ 32
def execViotaRand (u : VUnit) (x : VD) (s : State) : Out :=
  runLanes u x.g s fun s mask =>
    let c := s.pre
    let n := c.regs.dat.draws.toNat + (match s.opened with | some o => o.draws | none => 0)
    (s.modOpen fun o => { o with draws := o.draws + 1 }).wrV u x.d mask 3 fun i => randLane c.regs.sys.seed.toNat n i

/-! Reductions (R176, R177). -/
/-- One level of the tree: neighbours combine. -/
def pairUp (f : Nat → Nat → Nat) : List Nat → List Nat
  | a :: b :: r => f a b :: pairUp f r
  | l => l
def reduceTree (f : Nat → Nat → Nat) (l : List Nat) : Nat := ((List.range 6).foldl (fun l _ => pairUp f l) l).headD 0
def addIdentity (t : VType) : Nat := VType.pick t 0 0x80000000
def maxIdentity (t : VType) : Nat := match t with | .i32 => 0x80000000 | .u32 => 0 | .f32 => 0xFF800000
def vreduce (u : VUnit) (x : VTyp2) (L ident : Nat) (f : Nat → Nat → Nat) (s : State) : Out :=
  runLanes u x.g s fun s mask => do
    let va ← s.rdV u x.a
    s.wr (vLoc u x.d) (reduceTree f ((List.range 64).map fun i => if bitAt mask i then lane va i else ident)) allLanes 1 L
def execVredadd (u : VUnit) (x : VTyp2) (s : State) : Out :=
  vreduce u x (VType.pick x.t 6 12) (addIdentity x.t) (vaddLane x.t x.r) s
def execVredmax (u : VUnit) (x : VTyp2) (s : State) : Out := vreduce u x 6 (maxIdentity x.t) (vmaxLane x.t) s
/-- Inclusive prefix sums from lane i up. -/
def scanFrom (f : Nat → Nat → Nat) (acc : Nat) : List Nat → List Nat
  | [] => []
  | a :: r => f acc a :: scanFrom f (f acc a) r
def execVscan (u : VUnit) (x : VTyp2) (s : State) : Out :=
  runLanes u x.g s fun s mask => do
    let va ← s.rdV u x.a
    let id0 := addIdentity x.t
    let l := scanFrom (vaddLane x.t x.r) id0 ((List.range 64).map fun i => if bitAt mask i then lane va i else id0)
    s.wrV u x.d mask 16 fun i => l.getD i 0

/-! Scratchpad access and atomics (R178-R182). -/
def State.vaddr (s : State) (u : VUnit) (a b : Src) (f : Nat → Nat → Nat → Nat) : Res (Nat → Nat) := do
  let va ← s.rdV u a
  let vb ← s.rdV u b
  .ok fun i => f va vb i % 2 ^ 32
/-- Addresses of unit, strided and indexed accesses (Table 8-7). -/
def unitAddr (va vb i : Nat) : Nat := lane va 0 + lane vb 0 + 4 * i
def stridedAddr (va vb i : Nat) : Nat := lane va 0 + i * lane vb 0
def indexedAddr (va vb i : Nat) : Nat := lane va 0 + lane vb i
def vloadOp (u : VUnit) (x : VRR) (f : Nat → Nat → Nat → Nat) (s : State) : Out :=
  runLanes u x.g s fun s mask => do
    let addr ← s.vaddr u x.a x.b f
    s.vload u x.d mask addr
def vstoreOp (u : VUnit) (x : VRR) (f : Nat → Nat → Nat → Nat) (s : State) : Out :=
  runLanes u x.g s fun s mask => do
    let addr ← s.vaddr u x.a x.b f
    let vd ← s.rdVD u x.d
    s.vstore mask addr (lane vd)
def execVld (u : VUnit) (x : VRR) (s : State) : Out := vloadOp u x unitAddr s
def execVst (u : VUnit) (x : VRR) (s : State) : Out := vstoreOp u x unitAddr s
def execVlds (u : VUnit) (x : VRR) (s : State) : Out := vloadOp u x stridedAddr s
def execVsts (u : VUnit) (x : VRR) (s : State) : Out := vstoreOp u x stridedAddr s
def execVgath (u : VUnit) (x : VRR) (s : State) : Out := vloadOp u x indexedAddr s
def execVscat (u : VUnit) (x : VRR) (s : State) : Out := vstoreOp u x indexedAddr s
def execVtbl (u : VUnit) (x : VTbl) (s : State) : Out :=
  runLanes u x.g s fun s mask => do
    let addr ← s.vaddr u x.a x.b fun va vb i => lane vb 0 + 4 * (lane va i % 2 ^ x.k.val)
    s.vload u x.d mask addr
def vatomicOp (u : VUnit) (g : Guard) (d : Dst) (a b : Src) (op : AtomOp) (s : State) : Out :=
  runLanes u g s fun s mask => do
    let va ← s.rdV u a
    let vb ← s.rdV u b
    s.vatomic u d mask (lane va) (lane vb) op
def execVaadd (u : VUnit) (x : VAtom) (s : State) : Out := vatomicOp u x.g x.d x.a x.b .add s
def execVafadd (u : VUnit) (x : VRR) (s : State) : Out := vatomicOp u x.g x.d x.a x.b .fadd s

/-! Moves, residues and formats (R183-R185). -/
def execVectorGetm (u : VUnit) (x : VGetm) (s : State) : Out :=
  runLanes u x.g s fun s mask => do
    let m ← s.rdM x.j
    s.wr (vLoc u x.d) m (laneMask mask) 1 2
def execVectorPutm (u : VUnit) (x : VPutm) (s : State) : Out :=
  runLanes u x.g s fun s mask => do
    let va ← s.rdV u x.a
    s.wr (some (.m x.j)) va (laneMask mask) 1 2
/-- Receivers s and m take lanes 1:0 under bit 0 of the guard; the other vector slot takes the active lanes. -/
def execVectorXfer (u : VUnit) (x : VXfer) (s : State) : Out :=
  s.inBundle fun s =>
    match x.s.val with
    | 2 => if x.g.on s.pre then s.slotDo u.slot fun s => do
        let va ← s.rdV u x.a
        s.wr (some (sReg x.d.val)) (va % 2 ^ 64) ones64 1 3
      else s
    | 5 => if x.g.on s.pre then s.slotDo u.slot fun s => do
        let va ← s.rdV u x.a
        s.wr (some (.md (Fin.ofNat 8 x.d.val))) (va % 2 ^ 64) ones64 1 3
      else s
    | n =>
      let mask := x.g.lanes s.pre
      if mask = 0 then s else s.slotDo u.slot fun s => do
        let va ← s.rdV u x.a
        s.wr (some (vReg (if n = 3 then .a else .b) x.d.val)) va (laneMask mask) 1 3
def execVmovs (u : VUnit) (x : VR) (s : State) : Out := lanes1 u x.g x.d x.a 1 id s
def execVpmovToPredicate (u : VUnit) (x : VToP) (s : State) : Out :=
  runLanes u x.g s fun s mask => do
    let va ← s.rdV u x.a
    s.wrP x.d (maskOf fun i => bitAt va (32 * i)) mask 1 1
def execVpmovFromPredicate (u : VUnit) (x : VFromP) (s : State) : Out :=
  runLanes u x.g s fun s mask =>
    let p := predBits s.pre x.a
    s.wrV u x.d mask 1 fun i => if bitAt p i then 2 ^ 32 - 1 else 0
def execVefclr (u : VUnit) (x : VEf) (s : State) : Out := runLanes u x.g s fun s mask => s.wr (some (.ve u x.n)) 0 (laneMask mask) 1 1
def execVefget (u : VUnit) (x : VEfg) (s : State) : Out :=
  runLanes u x.g s fun s mask => s.wr (vLoc u x.d) (s.rdE u x.n.val) (laneMask mask) 1 1
def execVefput (u : VUnit) (x : VEfp) (s : State) : Out :=
  runLanes u x.g s fun s mask => do
    let va ← s.rdV u x.a
    s.wr (some (.ve u x.n)) va (laneMask mask) 1 1
def execVfmtset (u : VUnit) (x : VFmt) (s : State) : Out :=
  runSlot u.slot x.g s fun s => do
    let va ← s.rdV u x.a
    let v := lane va 0
    if !fmtLegal (BitVec.ofNat 32 v) then .error (.trap 4 0)
    else .ok ((s.modMe fun c => c.modSys fun y => y.setSpecial (32 + x.n.val) v).note 3 4 v)

end Sys2Proof.Machine
end

