-- ==== Sys2Proof/Machine/Series.lean ====
section
/-!
DEFINITION. Machine/Series.lean: the series unit of slot b (08: R186-R197). Every complex operation is one FP32 RNE operation
a step (R189); a number is its FP32 code.
-/
namespace Sys2Proof.Machine

/-- A complex pair of FP32 codes. -/
abbrev Cx := Nat × Nat
def one32 : Nat := 0x3F800000
def two32 : Nat := 0x40000000
def half32 : Nat := 0x3F000000
def cadd (a b : Cx) : Cx := (fadd32 a.1 b.1, fadd32 a.2 b.2)
def csub (a b : Cx) : Cx := (fsub32 a.1 b.1, fsub32 a.2 b.2)
def cscale (a : Cx) (s : Nat) : Cx := (fmul32 a.1 s, fmul32 a.2 s)
def cmul (a b : Cx) : Cx :=
  (fsub32 (fmul32 a.1 b.1) (fmul32 a.2 b.2), fadd32 (fmul32 a.1 b.2) (fmul32 a.2 b.1))
/-- The sign of a code inverted. -/
def flip32 (a : Nat) : Nat := a % 2 ^ 32 ^^^ 2 ^ 31
def cconj (a : Cx) : Cx := (a.1, flip32 a.2)
def cneg (a : Cx) : Cx := (flip32 a.1, flip32 a.2)
/-- rne(a / b) for natural numbers. -/
def ratio32 (a b : Nat) : Nat := rne ((FVal.fin false a 0).div (.fin false b 0))
/-- The exact binomial coefficient. -/
def choose (a b : Nat) : Nat := (List.range b).foldl (fun r i => r * (a - i) / (i + 1)) 1
def binom32 (a b : Int) : Nat := if b < 0 ∨ a < b then 0 else f32OfNat (choose a.toNat b.toNat)

/-- Coefficients of an X register (R186). -/
def coefAt (x n m : Nat) : Cx :=
  if m = 0 then (lane x (n * n), 0) else (lane x (n * n + 2 * m - 1), lane x (n * n + 2 * m))
def coefS (x : Nat) (n : Nat) (m : Int) : Cx :=
  if 0 ≤ m then coefAt x n m.toNat
  else
    let z := cconj (coefAt x n m.natAbs)
    if m.natAbs % 2 = 1 then cneg z else z
/-- The pairs (n, m) with m ≤ n ≤ p, in order. -/
def degrees (p : Nat) : List (Nat × Nat) := (List.range (p + 1)).flatMap fun n => (List.range (n + 1)).map fun m => (n, m)
/-- The register whose coefficients are f n m; the indices from (p+1)² are +0 (R186, R187). -/
def putAll (p : Nat) (f : Nat → Nat → Cx) : Nat :=
  (degrees p).foldl (fun r x =>
    let z := f x.1 x.2
    let n2 := x.1 * x.1
    if x.2 = 0 then r + z.1 % 2 ^ 32 * 2 ^ (32 * n2)
    else r + z.1 % 2 ^ 32 * 2 ^ (32 * (n2 + 2 * x.2 - 1)) + z.2 % 2 ^ 32 * 2 ^ (32 * (n2 + 2 * x.2))) 0

/-- Column m of the solid harmonics above degree m (R189): h1 and h2 are the two entries below. -/
def harmCol (dz rsq m : Nat) : Nat → Nat → Cx → Cx → List Cx
  | 0, _, _, _ => []
  | k + 1, n, h1, h2 =>
    let d := (n - m) * (n + m)
    let u := cscale (cscale h1 dz) (ratio32 (2 * n - 1) d)
    let v := if m + 2 ≤ n then cscale (cscale h2 rsq) (ratio32 1 d) else (0, 0)
    let h := csub u v
    h :: harmCol dz rsq m k (n + 1) h h1
def harmDiag (dxy : Cx) : Nat → Nat → Cx → List Cx
  | 0, _, _ => []
  | k + 1, m, h => h :: harmDiag dxy k (m + 1) (cscale (cmul dxy h) (ratio32 1 (2 * (m + 1))))
/-- harm(d, p): column m holds H[m..p][m]. -/
def harm (dx dy dz p : Nat) : List (List Cx) :=
  let rsq := fadd32 (fadd32 (fmul32 dx dx) (fmul32 dy dy)) (fmul32 dz dz)
  (List.zip (List.range (p + 1)) (harmDiag (dx, dy) (p + 1) 0 (one32, 0))).map fun x =>
    x.2 :: harmCol dz rsq x.1 (p - x.1) (x.1 + 1) x.2 (0, 0)
def harmAt (h : List (List Cx)) (n m : Nat) : Cx := if n < m then (0, 0) else (h.getD m []).getD (n - m) (0, 0)
/-- hext: H by its symmetry in m. -/
def hext (h : List (List Cx)) (n : Nat) (m : Int) : Cx :=
  let z := harmAt h n m.natAbs
  if 0 ≤ m then z else
    let y := cconj z
    if m.natAbs % 2 = 1 then cneg y else y
/-- The orders -n..n. -/
def orders (n : Nat) : List Int := (List.range (2 * n + 1)).map fun (i : Nat) => (i : Int) - n

/-- Powers c^0..c^k, each from the one before. -/
def powers (c : Nat) : Nat → Nat → List Nat
  | 0, r => [r]
  | k + 1, r => r :: powers c k (fmul32 r c)
/-- T[n][m][m2] of rot(c, s, p) (R189). -/
def rotT (cp sp : List Nat) (n : Nat) (m m2 : Int) : Nat :=
  let lo : Int := max 0 (m2 - m)
  let hi : Int := min (n + m2) (n - m)
  (List.range (hi - lo + 1).toNat).foldl (fun t (i : Nat) =>
    let k : Int := lo + i
    let w := fmul32 (fmul32 (binom32 (n + m2) k) (binom32 (n - m2) (n - m - k)))
                    (fmul32 (cp.getD (2 * n - m + m2 - 2 * k).toNat 0) (sp.getD (m - m2 + 2 * k).toNat 0))
    fadd32 t (if k % 2 = 1 then flip32 w else w)) 0

/-! Reads, and results of the unit (R187, R188). -/
def State.order (s : State) : Nat := s.pre.regs.dat.xo.toNat % 16
def State.rdX (s : State) (i : Fin 16) : Res Nat := s.pre.read (.x i)
def State.wrX (s : State) (d : Fin 16) (v L : Nat) : Res State := s.wr (some (.x d)) v (fullMask (.x d)) 2 L
/-- The engine charge of a long operation (Table 26-1). -/
def State.longCharge (s : State) : State := s.charge (coreOf s.me) s.pre.part 8
def State.wrXLong (s : State) (d : Fin 16) (v L : Nat) : Res State := s.longCharge.wrLock (some (.x d)) v (fullMask (.x d)) 2 L true
def runX (g : Guard) (s : State) (body : State → Res State) : Out := runSlot 4 g s body

def execXclr (x : XD) (s : State) : Out := runX x.g s fun s => s.wrX x.d 0 2
def execXseto (x : XSeto) (s : State) : Out :=
  runX x.g s fun s => do
    let a ← s.rdV .b x.a
    .ok ((s.modMe fun c => c.modDat fun d => { d with xo := BitVec.ofNat 64 (lane a 0 * 2 ^ 32 + x.o.val) }).note 3 8 (lane a 0 * 2 ^ 32 + x.o.val))
/-- XFORM (R192). -/
def xformAll (p c src : Nat) (x : Nat) : Nat :=
  let hs := (List.range c).map fun j => (harm (lane src (4 * j)) (lane src (4 * j + 1)) (lane src (4 * j + 2)) p, lane src (4 * j + 3))
  putAll p fun n m => hs.foldl (fun a h => cadd a (cscale (harmAt h.1 n m) h.2)) (coefAt x n m)
def execXform (x : XForm) (s : State) : Out :=
  runX x.g s fun s => do
    let a ← s.rdV .b x.a
    let d ← s.rdX x.d
    let p := s.order
    s.wrXLong x.d (xformAll p x.c.val a d) (16 + 4 * (p + 1) ^ 2 * x.c.val)
/-- XM2M (R193). -/
def xm2mAll (p xa xd t : Nat) : Nat :=
  let h := harm (lane t 0) (lane t 1) (lane t 2) p
  putAll p fun n m =>
    cadd (coefAt xd n m) ((List.range (n + 1)).foldl (fun a k => (orders k).foldl (fun a l =>
      if ((m : Int) - l).natAbs ≤ n - k then cadd a (cmul (coefS xa k l) (hext h (n - k) (m - l))) else a) a) (0, 0))
def execXm2m (x : XXB) (s : State) : Out :=
  runX x.g s fun s => do
    let a ← s.rdX x.a
    let d ← s.rdX x.d
    let t ← s.rdV .b x.b
    let p := s.order
    s.wrXLong x.d (xm2mAll p a d t) (16 + (p + 1) ^ 4)
/-- XL2L (R194). -/
def xl2lAll (p xa xd t : Nat) : Nat :=
  let h := harm (lane t 0) (lane t 1) (lane t 2) p
  putAll p fun k l =>
    cadd (coefAt xd k l) ((List.range (p + 1 - k)).foldl (fun a i =>
      let n := k + i
      (orders n).foldl (fun a m =>
        if (m - (l : Int)).natAbs ≤ n - k then cadd a (cmul (coefS xa n m) (cconj (hext h (n - k) (m - l)))) else a) a) (0, 0))
def execXl2l (x : XXB) (s : State) : Out :=
  runX x.g s fun s => do
    let a ← s.rdX x.a
    let d ← s.rdX x.d
    let t ← s.rdV .b x.b
    let p := s.order
    s.wrXLong x.d (xl2lAll p a d t) (16 + (p + 1) ^ 4)
/-- A triangle of intermediates, row n holding m = 0..n; aext reads it by symmetry. -/
def triangle (p : Nat) (f : Nat → Nat → Cx) : List (List Cx) := (List.range (p + 1)).map fun n => (List.range (n + 1)).map (f n)
def aext (y : List (List Cx)) (n : Nat) (m : Int) : Cx :=
  let z := (y.getD n []).getD m.natAbs (0, 0)
  if 0 ≤ m then z else
    let w := cconj z
    if m.natAbs % 2 = 1 then cneg w else w
def phases (e : Cx) : Nat → Cx → List Cx
  | 0, r => [r]
  | k + 1, r => r :: phases e k (cmul r (cconj e))
def fallOff (inv : Nat) : Nat → Nat → Nat → List Nat
  | 0, _, g => [g]
  | k + 1, j, g => g :: fallOff inv k (j + 1) (fmul32 (fmul32 g (f32OfNat (j + 1))) inv)
/-- XM2L (R195). -/
def xm2lAll (p xa xd w : Nat) : Nat :=
  let wx := lane w 0
  let wy := lane w 1
  let wz := lane w 2
  let hsq := fadd32 (fmul32 wx wx) (fmul32 wy wy)
  let rho := fsqrt32 (fadd32 hsq (fmul32 wz wz))
  if (f32 rho).isZero || !(f32 rho).isFin then (List.range ((p + 1) ^ 2)).foldl (fun r j => r + nan32 * 2 ^ (32 * j)) 0
  else
    let inv := fdiv32 one32 rho
    let h := fsqrt32 hsq
    let e : Cx := if (f32 h).isZero then (one32, 0) else (fdiv32 wx h, fdiv32 wy h)
    let ct := fmul32 wz inv
    let c := fsqrt32 (fmul32 (fadd32 one32 ct) half32)
    let s := flip32 (fsqrt32 (fmul32 (fsub32 one32 ct) half32))
    let cp := powers c (2 * p) one32
    let sp := powers s (2 * p) one32
    let E := phases e p (one32, 0)
    let A := triangle p fun n m => cmul (E.getD m (0, 0)) (coefAt xa n m)
    let B := triangle p fun n m => (orders n).foldl (fun a m2 => cadd a (cscale (aext A n m2) (rotT cp sp n m m2))) (0, 0)
    let g := fallOff inv (2 * p) 0 inv
    let C := triangle p fun k l =>
      let a := (List.range (p + 1 - l)).foldl (fun a i => cadd a (cscale ((B.getD (l + i) []).getD l (0, 0)) (g.getD (l + i + k) 0))) (0, 0)
      if (k + l) % 2 = 1 then cneg a else a
    putAll p fun k l2 =>
      let a := (orders k).foldl (fun a l => cadd a (cscale (aext C k l) (rotT cp sp k l l2))) (0, 0)
      cadd (coefAt xd k l2) (cmul (cconj (E.getD l2 (0, 0))) a)
def execXm2l (x : XXB) (s : State) : Out :=
  runX x.g s fun s => do
    let a ← s.rdX x.a
    let d ← s.rdX x.d
    let w ← s.rdV .b x.b
    let p := s.order
    s.wrXLong x.d (xm2lAll p a d w) (32 + 6 * (p + 1) ^ 3)
/-- XEVAL at one target (R196): potential and gradient. -/
def xevalAt (p xa dx dy dz : Nat) : Nat × Cx × Nat :=
  let h := harm dx dy dz p
  let dot (n m i : Nat) : Nat :=
    let l := coefAt xa n m
    let y := harmAt h i m
    fmul32 two32 (fadd32 (fmul32 l.1 y.1) (fmul32 l.2 y.2))
  (List.range (p + 1)).foldl (fun (acc : Nat × Cx × Nat) n =>
    let (f, gp, gz) := acc
    let f := fadd32 f (fmul32 (coefAt xa n 0).1 (harmAt h n 0).1)
    let f := (List.range n).foldl (fun f i => fadd32 f (dot n (i + 1) n)) f
    if n = 0 then (f, gp, gz)
    else
      let gz := fadd32 gz (fmul32 (coefAt xa n 0).1 (harmAt h (n - 1) 0).1)
      let gz := (List.range (n - 1)).foldl (fun g i => fadd32 g (dot n (i + 1) (n - 1))) gz
      let gp := (List.range n).foldl (fun g i => cadd g (cmul (coefAt xa n (i + 1)) (cconj (harmAt h (n - 1) i)))) gp
      let gp := (List.range (n - 1)).foldl (fun g m => csub g (cmul (cconj (coefAt xa n m)) (harmAt h (n - 1) (m + 1)))) gp
      (f, gp, gz)) (0, (0, 0), 0)
def xevalAll (p c xa b : Nat) : Nat :=
  (List.range c).foldl (fun r j =>
    let v := xevalAt p xa (lane b (4 * j)) (lane b (4 * j + 1)) (lane b (4 * j + 2))
    r + (v.1 + v.2.1.1 * 2 ^ 32 + v.2.1.2 * 2 ^ 64 + v.2.2 * 2 ^ 96) * 2 ^ (128 * j)) 0
def execXeval (x : XEval) (s : State) : Out :=
  runX x.g s fun s => do
    let a ← s.rdX x.a
    let b ← s.rdV .b x.b
    let p := s.order
    s.longCharge.wrLock (vLoc .b x.d) (xevalAll p x.c.val a b) (2 ^ (128 * x.c.val) - 1) 2 (16 + 8 * (p + 1) ^ 2 * x.c.val) true
/-- XADM on one pair of boxes (R197). -/
def admissible (theta a b j : Nat) : Bool :=
  let d (i : Nat) : Nat := fsub32 (lane a (4 * j + i)) (lane b (4 * j + i))
  let dist := fsqrt32 (fadd32 (fadd32 (fmul32 (d 0) (d 0)) (fmul32 (d 1) (d 1))) (fmul32 (d 2) (d 2)))
  fcond 3 (f32 (fadd32 (lane a (4 * j + 3)) (lane b (4 * j + 3)))) (f32 (fmul32 theta dist))
def execXadm (x : XAdm) (s : State) : Out :=
  runX x.g s fun s => do
    let a ← s.rdV .b x.a
    let b ← s.rdV .b x.b
    let th := s.pre.regs.dat.xo.toNat / 2 ^ 32
    s.wrP x.d ((List.range x.c.val).foldl (fun m j => m + (if admissible th a b j then 15 * 2 ^ (4 * j) else 0)) 0) ones64 2 6
def execXadd (x : XXX) (s : State) : Out :=
  runX x.g s fun s => do
    let a ← s.rdX x.a
    let b ← s.rdX x.b
    s.wrX x.d (packLanes (fun j => fadd32 (lane a j) (lane b j)) ((s.order + 1) ^ 2)) 8
def State.xaddr (s : State) (a b : Src) : Res Nat := do
  let a ← s.rdV .b a
  let b ← s.rdV .b b
  .ok ((lane a 0 + lane b 0) % 2 ^ 32)
def execXld (x : XMem) (s : State) : Out :=
  runX x.g s fun s => do
    let a ← s.xaddr x.a x.b
    s.longCharge.xload x.d a
def execXst (x : XMem) (s : State) : Out :=
  runX x.g s fun s => do
    let a ← s.xaddr x.a x.b
    let v ← s.rdX x.d
    s.xstore v a
/-- σ_0..σ_p of XNORM. -/
def execXnorm (x : XXB) (s : State) : Out :=
  runX x.g s fun s => do
    let a ← s.rdX x.a
    let b ← s.rdV .b x.b
    let p := s.order
    let sg := powers (lane b 0) p one32
    s.wrXLong x.d (putAll p fun n m => cscale (coefAt a n m) (sg.getD n 0)) 80
def execXget (x : XGet) (s : State) : Out :=
  runX x.g s fun s => do
    let a ← s.rdX x.a
    s.wr (vLoc .b x.d) (bitsOf a (2048 * x.k.val) 2048) allLanes 2 3

end Sys2Proof.Machine
end

