-- ==== Sys2Proof/Machine/Engine.lean ====
section
/-!
DEFINITION. Machine/Engine.lean: issue of engine commands (09: R199-R202), scratchpad operands of the matrix engine (R203-R206)
and the arithmetic of a k-tile (04: R77-R80; 09: R211-R213).
-/
namespace Sys2Proof.Machine

def Cmd.blank (e : Fin 3) (op : CmdOp) : Cmd :=
  { eng := e, num := 0, op := op, scope := 0, issued := 0, order := 0, start := none, due := 0, limit := none, done := 0, final := 0,
    snap := none, hold := [], susp := none, suspAt := 0, sent := false, landed := [], split := [], taint := [], data := [], bad := false, lastLand := 0, gone := 0, past := none, seqAt := 0, lat := 0, page := none, hop := none, rows := [],
    tag := 0 }
/-- Commands of an engine that have not performed. -/
def Ctx.pendingOf (c : Ctx) (e : Fin 3) : Nat := (c.cmds.filter fun m => m.eng = e).length
def State.takeNumber (s : State) (e : Fin 3) : State := s.modMe fun c => c.modDat fun d => { d with issued := d.issued.set e (d.issued[e] + 1) }
/-- The operands that a command reads at issue enter the signature of a pair (R201, R391). -/
def State.noteCmd (s : State) (op : CmdOp) : State :=
  let pair (s : State) (p : MPair) : State := (s.note 6 8 p.even.toNat).note 6 8 p.odd.toNat
  match op with
  | .mldt _ _ _ p => pair s p
  | .mstz _ p _ => pair s p
  | .mul c =>
    let s := match c.a with | .mem p => pair s p | _ => s
    match c.b with | .mem p => pair s p | _ => s
  | .mfix _ v _ _ => s.note 6 256 v.toNat
  | .mbias _ v => s.note 6 256 v.toNat
  | .copy c =>
    match c.op with
    | .cwait _ _ => s
    | .cfence _ => s
    | .czero => s.note 6 128 c.dst.toNat
    | .cfill v => (s.note 6 128 c.dst.toNat).note 6 4 v.toNat
    | .cpref => s.note 6 128 c.src.toNat
    | .cpyb _ (some _) => s.note 6 128 c.src.toNat
    | .cpyt _ _ _ => s.note 6 128 c.src.toNat
    | _ => (s.note 6 128 c.dst.toNat).note 6 128 c.src.toNat
  | _ => s
/-- A command takes its number and its place (R200). A command that writes an accumulator sets its watermark to 0 (R99). -/
def State.enqueue (s : State) (m : Cmd) : State :=
  let k := s.me
  let core := coreOf k
  let s := (s.noteCmd m.op).takeNumber m.eng
  let m := { m with num := (s.ctx k).regs.dat.issued[m.eng], scope := s.scope, issued := s.now, seqAt := s.pre.seq, order := (s.core core).order }
  let s := s.modCore core fun c => { c with order := c.order + 1 }
  s.modCtx k fun c => { c with cmds := c.cmds ++ [m], wz := match m.writesZ with | some z => c.wz.set z 0 | none => c.wz }
/-- An engine command: guarded off it takes its number and completes at once (R96); 64 unperformed commands stall (R200). -/
def runCmd (slot : Nat) (e : Fin 3) (g : Guard) (s : State) (body : State → Res Cmd) : Out :=
  s.inBundle fun s =>
    if g.on s.pre then s.slotDo slot fun s =>
      if 64 ≤ s.pre.pendingOf e then .error .stall
      else do
        let m ← body s
        .ok (s.enqueue m)
    else s.takeNumber e

/-! Scratchpad operands. -/
/-- The runs of n bytes from a scratchpad address, bank by bank, or none where a byte is refused (R178, R18). -/
def State.padRuns (s : State) (k a n : Nat) : Nat → Option (List (Nat × Nat))
  | 0 => some []
  | fuel + 1 =>
    if n = 0 then some []
    else
      let len := min n (0x20000 - a % 0x20000)
      match s.padKey k a with
      | none => none
      | some key => (State.padRuns s k (a + len) (n - len) fuel).map fun r => (key, len) :: r
def State.padRead (s : State) (k a n : Nat) : Nat :=
  match s.padRuns k a n (n / 0x20000 + 2) with
  | none => 0
  | some r => (r.foldl (fun (acc : Nat × Nat) x => (acc.1 + s.getN x.1 x.2 * 2 ^ (8 * acc.2), acc.2 + x.2)) (0, 0)).1
def State.padWrite (s : State) (k a n v : Nat) : State :=
  match s.padRuns k a n (n / 0x20000 + 2) with
  | none => s
  | some r => (r.foldl (fun (acc : State × Nat) x => ((acc.1.putN x.1 x.2 (acc.2 % 2 ^ (8 * x.2))).clearPoison x.1 x.2, acc.2 / 2 ^ (8 * x.2))) (s, v)).1
/-- The check of a range at issue (R204): no access faults as unmapped memory. -/
def State.padCheck (s : State) (k a n : Nat) : Res Unit :=
  match s.padRuns k a n (n / 0x20000 + 2) with
  | none => .error (.trap 6 a)
  | some _ => .ok ()
/-- The units that hold the marked lines which a range reads (R375). -/
def State.padPoison (s : State) (k a n : Nat) : List Nat :=
  (((s.padRuns k a n (n / 0x20000 + 2)).getD []).filter fun x => s.poisoned x.1 x.2).map fun x => holderUnit x.1

def MPair.base (p : MPair) : Nat := p.even.toNat % 2 ^ 32
def MPair.stride (p : MPair) : Nat := bitsOf p.even.toNat 32 16
def MPair.rot (p : MPair) : Nat := bitsOf p.even.toNat 51 5
def MPair.aux (p : MPair) : Nat := p.odd.toNat / 2 ^ 32
/-- The pair at a k-tile's step (R212). -/
def MPair.shift (p : MPair) (n : Int) : MPair :=
  { p with even := BitVec.ofNat 64 (p.even.toNat / 2 ^ 32 * 2 ^ 32 + ofSigned 32 ((p.base : Int) + n * toSigned 32 p.odd.toNat)) }
/-- Reserved bits and ROT (R203). -/
def MPair.ok (p : MPair) : Bool := bitsOf p.even.toNat 56 8 == 0 && bitsOf p.even.toNat 48 3 == 0 && decide (p.rot ≤ 23)
/-- ROWSTRIDE and ROT of a ladder-block operand (R205). -/
def MPair.packed (p : MPair) : Bool := p.stride == 0 && p.rot == 0
/-- The address of a row (R204). -/
def MPair.row (p : MPair) (r : Nat) : Nat :=
  let a := (p.base + r * p.stride) % 2 ^ 32
  if p.rot = 0 then a
  else
    let w := if 0x400000 ≤ a ∧ a < 0x1000000 then 0x400000 + (a - 0x400000) / 0x300000 * 0x300000 else 0
    let o := a - w
    if 0x300000 ≤ o then a else w + (o / 0x20000 + r * p.rot) % 24 * 0x20000 + o % 0x20000

def isLadder (code : Nat) : Bool := code == 12 || code == 13 || code == 14
/-- Element width of a matrix format. -/
def opWidth (code : Nat) (fmt : BitVec 32) : Nat := if code = 15 then fmtWidth fmt else codeWidth code
/-- Bytes of a row (R205). -/
def rowBytes (code : Nat) (fmt : BitVec 32) : Nat :=
  match container (opWidth code fmt) with
  | 2 => 32 | 4 => 32 | 6 => 48 | 8 => 64 | 16 => 128 | _ => 256
/-- Bytes of a 4096-element ladder-block tensor (R69). -/
def ladderBytes (code : Nat) : Nat := if code = 12 then 8320 else if code = 13 then 4224 else 2176
def blockScaled (code : Nat) (fmt : BitVec 32) : Bool := code == 15 && fmtBS fmt

def rowsOk (s : State) (k : Nat) (p : MPair) (bytes : Nat) : List Nat → Res Unit
  | [] => .ok ()
  | r :: l => do
    let _ ← s.padCheck k (p.row r) bytes
    rowsOk s k p bytes l
/-- The issue check of a scratchpad operand (R203-R205). -/
def State.pairOk (s : State) (k : Nat) (p : MPair) (code : Nat) (fmt : BitVec 32) : Res Unit :=
  if !p.ok then .error (.trap 16 0)
  else if isLadder code then
    if !p.packed then .error (.trap 16 0)
    else if p.base % 64 ≠ 0 then .error (.trap 5 p.base)
    else s.padCheck k p.base (ladderBytes code)
  else if p.base % 16 ≠ 0 then .error (.trap 5 p.base)
  else if p.stride % 16 ≠ 0 then .error (.trap 5 ((p.base + p.stride) % 2 ^ 32))
  else do
    rowsOk s k p (rowBytes code fmt) (List.range 64)
    if blockScaled code fmt then s.padCheck k p.aux 128 else .ok ()
/-- A pair as a command reads it at issue (R201). -/
def State.rdPair (s : State) (q : Fin 4) : Res MPair := do
  let e ← s.pre.read (.md (Fin.ofNat 8 (2 * q.val)))
  let o ← s.pre.read (.md (Fin.ofNat 8 (2 * q.val + 1)))
  .ok ⟨BitVec.ofNat 64 e, BitVec.ofNat 64 o⟩
/-- The address lies in another core's scratchpad through the glen window (R14). -/
def isGlen (k a : Nat) : Bool :=
  decide (0x400000 ≤ a) && decide (a < 0x1000000) && glenCore (coreOf k) ((a - 0x400000) / 0x300000) != coreOf k

/-! Reading operands at an intake (R201, R205). -/
def rowElems (code : Nat) (fmt : BitVec 32) (bits : Nat) : List FVal :=
  let w := opWidth code fmt
  let c := container w
  (List.range 64).map fun q => codeRead code fmt (bitsOf bits (elemBit c q) w)
/-- Element e of a ladder-block tensor held as one number (R68, R69): n elements in all. -/
def ladderElem (code n bits e : Nat) : FVal :=
  let up (b : Nat) : Nat := (b + 63) / 64 * 64
  let o1 := up (n / 32)
  let o2 := o1 + up (n / 2)
  let o3 := o2 + up (n / 2)
  let X := bitsOf bits (8 * (e / 32)) 8
  let hi := bitsOf bits (8 * o1 + elemBit 4 e) 4
  let mid := bitsOf bits (8 * o2 + elemBit 4 e) 4
  let lo := bitsOf bits (8 * (o3 + e)) 8
  let m := hi % 8
  ladRead code X (hi / 8 == 1) (if code = 12 then m * 4096 + mid * 256 + lo else if code = 13 then m * 16 + mid else m)
def tileRow (t : Vector Tile 8) (i : Fin 8) (code : Nat) (row : Nat) : Nat :=
  if code = 10 then
    let v := vget t (if row < 32 then i.val else i.val + 1) 0
    bitsOf v.toNat (2048 * (row % 32)) 2048
  else bitsOf (t[i]).toNat (1024 * row) 1024
/-- The 64 rows of an operand's values. -/
def State.operandRows (s : State) (k : Nat) (o : MOpnd) (code : Nat) (fmt : BitVec 32) : List (List FVal) :=
  match o with
  | .zero => List.replicate 64 (List.replicate 64 (.fin false 0 0))
  | .tile i => (List.range 64).map fun r => rowElems code fmt (tileRow (s.ctx k).regs.dat.t i code r)
  | .mem p =>
    if isLadder code then
      let v := s.padRead k p.base (ladderBytes code)
      (List.range 64).map fun r => (List.range 64).map fun q => ladderElem code 4096 v (64 * r + q)
    else
      let rb := rowBytes code fmt
      (List.range 64).map fun r =>
        let l := rowElems code fmt (s.padRead k (p.row r) rb)
        if blockScaled code fmt then
          (List.zip (List.range 64) l).map fun x => unscale (s.padRead k (p.aux + 2 * r + x.1 / 32) 1) x.2
        else l
/-- The units of an operand's marked data, each once: rows or arrays as the code reads them, block scales, and tile rows (R375). -/
def State.operandPoison (s : State) (k : Nat) (o : MOpnd) (code : Nat) (fmt : BitVec 32) : List Nat :=
  (match o with
  | .mem p =>
    if isLadder code then s.padPoison k p.base (ladderBytes code)
    else ((List.range 64).flatMap fun r => s.padPoison k (p.row r) (rowBytes code fmt)) ++ (if blockScaled code fmt then s.padPoison k p.aux 128 else [])
  | .tile i => if (s.ctx k).marks.any fun x => x = i.val || (code = 10 && x = i.val + 1) then [coreUnit (coreOf k)] else []
  | .zero => []).eraseDups

/-! Narrowing (R77, R78, Table 4-9). -/
/-- The narrower ladder form that a relief owner reads in place of a stored one (R70, R321). -/
def reliefCode (p : Pitch) (code : Nat) : Option Nat :=
  let l := (vget p.ladder p.cur ⟨0, 0⟩).code
  if p.relief && (code == 12 || code == 13) && isLadder l && decide (code < l) then some l else none
def narrowBlock (l : Ladder) (b : List FVal) : List FVal :=
  if isLadder l.code then
    let X := ladScale b
    b.map fun x => let (s, m) := ladElem l.code X x .rne
                   ladRead l.code X s m
  else
    let F := miniFmt l.fmt
    let v := blockScale F b
    b.map fun x => unscale v (F.read (blockElem F v x .rne))
def narrowRow (l : Ladder) (row : List FVal) : List FVal :=
  if isLadder l.code || (l.code == 15 && fmtBS l.fmt) then narrowBlock l (row.take 32) ++ narrowBlock l (row.drop 32)
  else
    let F := codeFmt l.code l.fmt
    row.map fun x => F.read (F.round x .rne)

/-! The k-tile (R211, R213). -/
/-- Accumulator lanes as values. -/
def zval (z : Accum) (i j : Nat) : FVal := f32 (lane (vget z.rows i 0).toNat j)
def columns (b : List (List FVal)) : List (List FVal) := (List.range 64).map fun j => b.map fun r => r.getD j (.fin false 0 0)
def addTile (z : Accum) (mrows ncols : Nat) (A B : List (List FVal)) : Accum :=
  let cols := columns B
  (List.range mrows).foldl (fun z i =>
    let a := A.getD i []
    let old := (vget z.rows i 0).toNat
    let v := vlanes fun j => if j < ncols then rne (exactSum (List.zipWith FVal.mul a (cols.getD j []) ++ [f32 (lane old j)])) else lane old j
    { z with rows := vset z.rows i (BitVec.ofNat 2048 v) }) z
def addChecks (z : Accum) (mrows ncols : Nat) (A B : List (List FVal)) : Accum :=
  let cols := columns B
  let acols := columns A
  let bsum := (List.range 64).map fun k => f32 (rne (exactSum ((B.getD k []).take ncols)))
  let asum := (List.range 64).map fun k => f32 (rne (exactSum ((acols.getD k []).take mrows)))
  let zs := vlanes fun i => if i < mrows then rne (exactSum (List.zipWith FVal.mul (A.getD i []) bsum ++ [f32 (lane z.zs.toNat i)])) else lane z.zs.toNat i
  let zc := vlanes fun j => if j < ncols then rne (exactSum (List.zipWith FVal.mul asum (cols.getD j []) ++ [f32 (lane z.zc.toNat j)])) else lane z.zc.toNat j
  { z with zs := BitVec.ofNat 2048 zs, zc := BitVec.ofNat 2048 zc }
/-- The pitch tag after a k-tile (R77, R80). -/
def tagAfter (t : BitVec 16) (g r ceil : Nat) : BitVec 16 :=
  let low := max (t.toNat / 16384) (max g r)
  let cnt := t.toNat % 16384
  BitVec.ofNat 16 (low * 16384 + (if ceil < g then min (cnt + 1) 16383 else cnt))
/-- K(g) of R211. -/
def intakeCycles (g : Nat) : Nat := match g with | 0 => 256 | 1 => 64 | 2 => 32 | _ => 16
/-- Engine charge of an intake (Table 26-1). -/
def intakeCharge (g : Nat) : Nat := match g with | 0 => 256 | 1 => 96 | 2 => 56 | _ => 32

end Sys2Proof.Machine
end

