-- ==== Sys2Proof/Machine/Matrix.lean ====
section
/-!
DEFINITION. Machine/Matrix.lean: the instructions of the matrix slot (09: R207-R223). A command issues here; what it does comes about
in the events of its engine (EventsEngine.lean).
-/
namespace Sys2Proof.Machine

def execMatrixNop (s : State) : Out := s.inBundle id
def runM (g : Guard) (s : State) (body : State → Res State) : Out := runSlot 5 g s body

/-! Descriptors and moves (R208). -/
def execMdset (x : MMdset) (s : State) : Out :=
  runM x.g s fun s => do
    let v ← x.s.rd s
    let old ← s.pre.read (.md x.n)
    let w := match x.t.val with
      | 0 => v
      | 1 => old / 2 ^ 32 * 2 ^ 32 + v % 2 ^ 32
      | _ => old % 2 ^ 32 + v % 2 ^ 32 * 2 ^ 32
    .ok ((s.writeNow s.me (.md x.n) w ones64).note 3 8 w)
/-- A 64-bit value into chunk k of a main-file register. -/
def State.toChunk (s : State) (j : Fin 64) (k v : Nat) (cls : Fin 5) : Res State := s.wr (some (.m j)) (v * 2 ^ (64 * k)) (chunkMask k) cls 2
def execMdget (x : MMove) (s : State) : Out :=
  runM x.g s fun s => do
    let v ← s.pre.read (.md x.n)
    s.toChunk x.j x.k.val v 3
def execMatrixPutm (x : MMove) (s : State) : Out :=
  runM x.g s fun s => do
    let v ← s.pre.read (.md x.n)
    s.toChunk x.j x.k.val v 3
def execMatrixGetm (x : MGetm) (s : State) : Out :=
  runM x.g s fun s => do
    let m ← s.rdM x.j
    s.wr (some (.md x.n)) (chunk m x.k.val) ones64 3 2
def execMatrixXfer (x : MXfer) (s : State) : Out :=
  runM x.g s fun s => do
    let v ← s.pre.read (.md x.n)
    match x.s.val with
    | 2 => s.wr (some (sReg x.r.val)) v ones64 3 3
    | 3 => s.wr (some (vReg .a x.r.val)) v ones64 3 3
    | _ => s.wr (some (vReg .b x.r.val)) v ones64 3 3

/-! Multiply and accumulate (R209-R213). -/
def State.fmtReg (s : State) (n : Nat) : BitVec 32 := vget s.pre.regs.sys.fmt n 0
/-- A tile read at issue blocks while it is busy (R99); a pair of FP32 is two tiles. -/
def State.tileFree (s : State) (i : Nat) (pair : Bool) : Res Unit :=
  if s.pre.busyT i || (pair && s.pre.busyT (i + 1)) then .error .block else .ok ()
/-- What an operand waits for: its tile, or the descriptor registers (R99, R106). -/
def State.operandFree (s : State) (o : MOp) (code : Nat) : Res Unit :=
  match o with
  | .t i => s.tileFree i.val (code == 10)
  | .pair q => do
    let _ ← s.rdPair q
    .ok ()
  | .zero => .ok ()
def State.rdOperand (s : State) (o : MOp) (code : Nat) (fmt : BitVec 32) : Res MOpnd :=
  match o with
  | .t i => do
    s.tileFree i.val (code == 10)
    if blockScaled code fmt then .error (.trap 4 0) else .ok (.tile i)
  | .pair q => do
    let p ← s.rdPair q
    s.pairOk s.me p code fmt
    .ok (.mem p)
  | .zero => .ok .zero
/-- Start-up cycles of an operand (R211). DESIGN CHOICE: one in memory is a glen-window operand by its pair's BASE alone, wherever its rows, its
scales and later k-tiles lie (log 33). -/
def MOpnd.lat (k : Nat) (o : MOpnd) : Nat := match o with | .mem p => if isGlen k p.base then 22 else 16 | _ => 0
def MOpnd.tiles (o : MOpnd) (code : Nat) : List (Fin 8) :=
  match o with
  | .tile i => if code = 10 then [i, Fin.ofNat 8 (i.val + 1)] else [i]
  | _ => []
/-- A governed command with its deadline (R322). -/
def State.mulCmd (s : State) (k : Fin 4) (clr chk : Bool) (a b : MOpnd) (code : Nat) (fmt : BitVec 32) (steps : List (Int × Int)) : Cmd :=
  let c := s.pre
  let core := coreOf s.me
  let p := c.pitch
  let op : MulCmd := { k := k, clr := clr, chk := chk, a := a, b := b, code := code, fmt := fmt, rows := c.regs.dat.rows,
                       cols := c.regs.dat.cols, mirror := c.regs.dat.mirror, steps := steps }
  { Cmd.blank 0 (.mul op) with
    lat := max (a.lat s.me) (b.lat s.me), hold := a.tiles code ++ b.tiles code,
    limit := if p.lat0 = 0 ∨ steps = [] then none else some (s.after core 3 (p.lat0 + b2n chk * 8 + (steps.length - 1) * p.latk)) }
def mulOp (x : MMul) (clr chk : Bool) (s : State) : Out :=
  runCmd 5 0 x.g s fun s => do
    let code := x.c.val
    let fmt := s.fmtReg x.f.val
    s.operandFree x.a code
    s.operandFree x.b code
    let a ← s.rdOperand x.a code fmt
    let b ← s.rdOperand x.b code fmt
    .ok (s.mulCmd x.k clr chk a b code fmt [(0, 0)])
def execMma (x : MMul) (s : State) : Out := mulOp x false false s
def execMmaz (x : MMul) (s : State) : Out := mulOp x true false s
def execMchk (x : MMul) (s : State) : Out := mulOp x false true s
def execMchkz (x : MMul) (s : State) : Out := mulOp x true true s

/-- A nest table of Table 9-4 obeys its rules. DEDUCED: a bad format code in the table, 11 among them, is a bad field of the table and
traps BAD_DESC (R212), although R52 and R206 say ILLEGAL_OP of codes in general. -/
def nestOk (m : Nat) : Bool :=
  let n := lane m 0
  let f := lane m 1
  let code := f % 16
  let freg := f / 16
  decide (1 ≤ n) && decide (n ≤ 6) && decide (freg < 8) &&
    (code == 15 || (freg == 0 && (code == 8 || code == 9 || code == 10 || isLadder code))) &&
    ((List.range 6).all fun d => if d < n then decide (lane m (2 + d) < 65536) else lane m (2 + d) == 0 && lane m (8 + d) == 0 && lane m (14 + d) == 0) &&
    ((List.range 44).all fun i => lane m (20 + i) == 0)
def nestCount (m : Nat) : Nat := (List.range (lane m 0)).foldl (fun n d => n * lane m (2 + d)) 1
/-- The A and B steps of the k-tiles, i0 varying fastest (R212). -/
def nestSteps (m : Nat) : List (Int × Int) :=
  (List.range (lane m 0)).reverse.foldl (fun l d => l.flatMap fun p => (List.range (lane m (2 + d))).map fun (i : Nat) =>
    (p.1 + (i : Int) * toSigned 32 (lane m (8 + d)), p.2 + (i : Int) * toSigned 32 (lane m (14 + d)))) [((0 : Int), (0 : Int))]
def State.nestCheck (s : State) (p q : MPair) (code : Nat) (fmt : BitVec 32) : List (Int × Int) → Res Unit
  | [] => .ok ()
  | t :: r => do
    s.pairOk s.me (p.shift t.1) code fmt
    s.pairOk s.me (q.shift t.2) code fmt
    State.nestCheck s p q code fmt r
/-- MNEST: the address check takes a sequencer cycle per 64 k-tiles, during which the bundle stalls (R212). -/
def nestOp (x : MNest) (clr : Bool) (s : State) : Out :=
  s.inBundle fun s =>
    if !x.g.on s.pre then s.takeNumber 0
    else s.slotDo 5 fun s => do
      let m ← s.rdM x.j
      let a ← s.rdPair x.a
      let b ← s.rdPair x.b
      if 64 ≤ s.pre.pendingOf 0 then .error .stall
      else if !nestOk m ∨ 2 ^ 24 < nestCount m ∨ !a.ok ∨ !b.ok ∨ (isLadder (lane m 1 % 16) ∧ !(a.packed && b.packed)) then .error (.trap 16 0)
      else
        let code := lane m 1 % 16
        let fmt := s.fmtReg (lane m 1 / 16)
        let steps := nestSteps m
        let cyc := (steps.length + 63) / 64
        let waits := match s.pre.checkAt with | none => decide (0 < cyc) | some t => decide (s.now < t)
        if waits then .ok ((s.modOpen fun o => { o with nest := if s.pre.checkAt.isNone then cyc else 0 }).holdSlot 5 false none)
        else do
          s.nestCheck a b code fmt steps
          .ok ((s.note 6 256 m).enqueue (s.mulCmd x.k clr false (.mem a) (.mem b) code fmt steps))
def execMnest (x : MNest) (s : State) : Out := nestOp x false s
def execMnestz (x : MNest) (s : State) : Out := nestOp x true s

/-! Commands of the accumulator port: each waits while its accumulator is busy (R99). -/
def zOp (g : Guard) (k : Fin 4) (lat : Nat) (op : State → Res CmdOp) (s : State) : Out :=
  runCmd 5 0 g s fun s => do
    if s.pre.busyZ k then .error .block
    else
      let o ← op s
      .ok { Cmd.blank 0 o with lat := lat }
def execMzero (x : MZ) (s : State) : Out := zOp x.g x.k 8 (fun _ => .ok (.mzero x.k)) s
def execMfix (x : MZM) (s : State) : Out :=
  zOp x.g x.k 72 (fun s => do
    let m ← s.rdM x.j
    .ok (.mfix x.k (BitVec.ofNat 2048 m) s.pre.regs.dat.rows s.pre.regs.dat.cols)) s
def execMbias (x : MZM) (s : State) : Out :=
  zOp x.g x.k 72 (fun s => do
    let m ← s.rdM x.j
    .ok (.mbias x.k (BitVec.ofNat 2048 m))) s
def execMactRelu (x : MZ) (s : State) : Out := zOp x.g x.k 72 (fun _ => .ok (.mact x.k 0 0)) s
def execMactAbs (x : MZ) (s : State) : Out := zOp x.g x.k 72 (fun _ => .ok (.mact x.k 1 0)) s
def execMactScale (x : MScale) (s : State) : Out := zOp x.g x.k 72 (fun _ => .ok (.mact x.k 2 x.n.toInt)) s
/-- MINJ is legal only under injection (R220). -/
def execMinj (x : MInj) (s : State) : Out :=
  zOp x.g x.k 4 (fun s => if (s.part s.pre.part).minj then .ok (.minj x.k x.i x.j x.t.val x.b.val) else .error (.trap 2 0)) s

/-! Commands of the tile port (R214-R216). -/
/-- Whether a command that writes an accumulator has its result. -/
def Cmd.zDone (m : Cmd) : Bool :=
  m.start.isSome && match m.op with | .mul x => decide (x.steps.length ≤ m.done) | _ => true
/-- A row reader takes the rows of the latest command that writes its accumulator: at once when it has them, and else when it
has (R216). It waits for that command's last row. -/
def State.readRows (s : State) (m : Cmd) (z : Fin 4) : Cmd :=
  let c := s.ctx s.me
  let acc := c.regs.dat.z[z]
  match (c.cmds.filter fun w => w.writesZ = some z).getLast? with
  | some w =>
    let m := if w.zDone then { m with rows := acc.rows.toList, tag := acc.tag } else m
    if 64 ≤ w.final then m else { m with snap := some w.num }
  | none => { m with rows := acc.rows.toList, tag := acc.tag }
def execMldt (x : MLoad) (s : State) : Out :=
  runCmd 5 0 x.g s fun s => do
    let code := x.c.val
    let fmt := s.fmtReg x.f.val
    s.tileFree x.n.val (code == 10)
    let p ← s.rdPair x.q
    if blockScaled code fmt then .error (.trap 4 0)
    else
      s.pairOk s.me p code fmt
      .ok { Cmd.blank 0 (.mldt x.n code fmt p) with lat := if isGlen s.me p.base then 78 else 72 }
def storeOp (x : MStore) (tag : Bool) (s : State) : Out :=
  runCmd 5 0 x.g s fun s => do
    let p ← s.rdPair x.q
    s.pairOk s.me p 10 0
    if tag ∧ p.aux % 2 ≠ 0 then .error (.trap 5 p.aux)
    else
      if tag then s.padCheck s.me p.aux 2 else .ok ()
      .ok (s.readRows { Cmd.blank 0 (.mstz x.k p tag) with lat := if isGlen s.me p.base then 86 else 80 } x.k)
def execMstz (x : MStore) (s : State) : Out := storeOp x false s
def execMstzTag (x : MStore) (s : State) : Out := storeOp x true s
def execMtr (x : MTrans) (s : State) : Out :=
  runCmd 5 0 x.g s fun s => do
    s.tileFree x.a.val (x.c.val == 2)
    s.tileFree x.d.val (x.c.val == 2)
    .ok { Cmd.blank 0 (.mtr x.d x.a x.c.val) with
      lat := 72, hold := if x.c.val = 2 then [x.a, Fin.ofNat 8 (x.a.val + 1)] else [x.a] }
def execMcvt (x : MCvt) (s : State) : Out :=
  runCmd 5 0 x.g s fun s => do
    let code := x.c.val
    let fmt := s.fmtReg x.f.val
    s.tileFree x.d.val (code == 10)
    if blockScaled code fmt then .error (.trap 4 0)
    else
      .ok (s.readRows { Cmd.blank 0 (.mcvt x.d x.k x.r code fmt) with lat := 72 } x.k)

/-! Reading accumulators (R216, R217, R222). -/
/-- MRDZ (R216, R222): after a wait its bound runs from the cycle in which the row became final (R224). -/
def execMrdz (x : MRead) (s : State) : Out :=
  runM x.g s fun s =>
    if s.pre.wz[x.k] ≤ x.r.val then .error .block
    else
      let v := (vget s.pre.regs.dat.z[x.k].rows x.r.val 0).toNat
      match s.pre.finals.find? fun f => f.1 = x.k && decide (f.2.1 ≤ x.r.val) && decide (x.r.val < f.2.2.1) with
      | some f => s.wrBy (.m x.j) v allLanes 3 (f.2.2.2 + 4 * (s.core (coreOf s.me)).div[(3 : Fin 5)])
      | none => s.wr (some (.m x.j)) v allLanes 3 4
def execMwm (x : MWm) (s : State) : Out :=
  runM x.g s fun s => s.wrP x.d (truth (decide (x.r.val < s.pre.wz[x.k]))) ones64 3 1
/-- A residue is out of tolerance (R217). -/
def outOfTol (tol v : Nat) : Bool := (f32 v).isNan || fcond 2 (f32 tol) (f32 (v % 2 ^ 31))
/-- First index and number of the residues out of tolerance. -/
def residueStats (tol : Nat) (l : List Nat) : Nat × Nat :=
  ((l.findIdx? (outOfTol tol)).getD 0, (l.filter (outOfTol tol)).length)
def mresLanes (z : Accum) (mrows ncols tol : Nat) : Nat :=
  let rho := (List.range mrows).map fun i => rne (exactSum (f32 (lane z.zs.toNat i) :: (List.range ncols).map fun j => (zval z i j).neg))
  let gam := (List.range ncols).map fun j => rne (exactSum (f32 (lane z.zc.toNat j) :: (List.range mrows).map fun i => (zval z i j).neg))
  let (fi, nr) := residueStats tol rho
  let (fj, nc) := residueStats tol gam
  let st := if !z.valid then 3 else if nr = 0 ∧ nc = 0 then 0 else if nr = 1 ∧ nc = 1 then 1 else 2
  packLanes (fun i => [st, nr, nc, fi, fj, rho.getD fi 0, gam.getD fj 0].getD i 0) 7
def execMres (x : MZM) (s : State) : Out :=
  runM x.g s fun s =>
    if s.pre.busyZ x.k then .error .block
    else
      let d := s.pre.regs.dat
      s.wr (some (.m x.j)) (mresLanes d.z[x.k] d.rows d.cols s.pre.regs.sys.tol.toNat) allLanes 3 72
def execMtag (x : MTag) (s : State) : Out :=
  runM x.g s fun s =>
    if s.pre.busyZ x.k then .error .block else s.wr (some (.md x.n)) s.pre.regs.dat.z[x.k].tag.toNat ones64 3 2

/-! Shape and trace (R210, R223). -/
def execMmir (x : MMir) (s : State) : Out :=
  runM x.g s fun s => .ok (s.modMe fun c => c.modDat fun d => { d with rows := x.r.val + 1, cols := x.c.val + 1, mirror := x.e })
def execMpitch (x : MN) (s : State) : Out :=
  runM x.g s fun s => do
    let v ← s.pre.read (.md x.n)
    let base := v % 2 ^ 32
    let cap := bitsOf v 32 24
    if v / 2 ^ 56 ≠ 0 then .error (.trap 16 0)
    else
      if cap = 0 then .ok () else s.padCheck s.me base cap
      .ok (s.modMe fun c => c.modDat fun d => { d with trace := ⟨base, cap, 0⟩ })

end Sys2Proof.Machine
end

