-- ==== Sys2Proof/Machine/Copy.lean ====
section
/-!
DEFINITION. Machine/Copy.lean: copy descriptors and the instructions of the copy slots (09: R225-R245). A command issues here;
what it does comes about in the events of its engine (EventsCopy.lean).
-/
namespace Sys2Proof.Machine

/-! Descriptors (Table 9-5). -/
/-- Lowest bit and width of a field code. -/
def fieldPlace (f : Nat) : Nat × Nat :=
  match f with
  | 0 => (0, 64) | 1 => (64, 32) | 2 => (128, 32) | 3 => (320, 64) | 4 => (160, 32) | 5 => (384, 64) | 6 => (192, 32)
  | 7 => (448, 64) | 8 => (224, 32) | 9 => (512, 64) | 10 => (256, 32) | 11 => (576, 64) | 12 => (32, 32) | 13 => (96, 32)
  | 14 => (640, 64) | _ => (288, 32)
def Desc.field (d : Desc) (f : Nat) : Nat := bitsOf d.toNat (fieldPlace f).1 (fieldPlace f).2
def Desc.setField (d : Desc) (f v : Nat) : Desc :=
  BitVec.ofNat 1024 (mergeBits d.toNat (v % 2 ^ (fieldPlace f).2 * 2 ^ (fieldPlace f).1) ((2 ^ (fieldPlace f).2 - 1) * 2 ^ (fieldPlace f).1))
def Desc.base (d : Desc) : Nat := Desc.field d 0
def Desc.len (d : Desc) : Nat := Desc.field d 1
/-- Count and stride of dimension i, 1 to 5. -/
def Desc.count (d : Desc) (i : Nat) : Nat := Desc.field d (2 * i)
def Desc.stride (d : Desc) (i : Nat) : Int := toSigned 64 (Desc.field d (2 * i + 1))
def Desc.aux (d : Desc) : Nat := Desc.field d 14
def Desc.node (d : Desc) : Nat := Desc.field d 15
def Desc.code (d : Desc) : Nat := bitsOf (Desc.field d 13) 0 4
def Desc.freg (d : Desc) : Nat := bitsOf (Desc.field d 13) 4 3
def Desc.rnd (d : Desc) : Rnd := match bitsOf (Desc.field d 13) 8 2 with | 0 => .rne | 1 => .rz | 2 => .rdn | _ => .rup
def Desc.iw (d : Desc) : Nat := if bitsOf (Desc.field d 13) 12 1 = 1 then 8 else 4
/-- A reserved bit of the image or of FMT is set (R230). -/
def Desc.reserved (d : Desc) : Bool := d.toNat / 2 ^ 704 != 0 || Desc.field d 13 &&& 0xFFFFEC80 != 0
def Desc.runs (d : Desc) : Nat := Desc.count d 1 * Desc.count d 2 * Desc.count d 3 * Desc.count d 4 * Desc.count d 5
def Desc.flat (d : Desc) : Bool := Desc.count d 1 == 1 && Desc.count d 2 == 1 && Desc.count d 3 == 1 && Desc.count d 4 == 1 && Desc.count d 5 == 1
/-- Bytes of the stream (R226). -/
def Desc.bytes (d : Desc) : Nat := Desc.len d * Desc.runs d
/-- The address of run r of the walk (R226). -/
def Desc.runAddr (d : Desc) (r : Nat) : Nat :=
  let c (i : Nat) := Desc.count d i
  ofSigned 64 ((Desc.base d : Int) + (r % c 1 : Nat) * Desc.stride d 1 + (r / c 1 % c 2 : Nat) * Desc.stride d 2 +
    (r / (c 1 * c 2) % c 3 : Nat) * Desc.stride d 3 + (r / (c 1 * c 2 * c 3) % c 4 : Nat) * Desc.stride d 4 +
    (r / (c 1 * c 2 * c 3 * c 4) : Nat) * Desc.stride d 5)

/-! Descriptor instructions (R227, R228). -/
def execCopyNop (_ : CUnit) (s : State) : Out := s.inBundle id
def State.rdCd (s : State) (e : CUnit) (i : Fin 8) : Res Desc := do
  let v ← s.pre.read (.cd e i)
  .ok (BitVec.ofNat 1024 v)
def runC (e : CUnit) (g : Guard) (s : State) (body : State → Res State) : Out := runSlot e.slot g s body
/-- A write of code 0 also sets the other fields to their defaults (R227). -/
def Desc.write (d : Desc) (f v : Nat) : Desc :=
  if f = 0 then
    let z : Desc := BitVec.ofNat 1024 (d.toNat / 2 ^ 704 * 2 ^ 704)
    Desc.setField ((List.range 5).foldl (fun (d : Desc) i => Desc.setField d (2 * (i + 1)) 1) (Desc.setField z 13 1)) 0 v
  else Desc.setField d f v
def State.cdset (s : State) (e : CUnit) (n : Fin 8) (f v : Nat) : Res State := do
  let d ← s.rdCd e n
  .ok ((s.writeNow s.me (.cd e n) (Desc.write d f v).toNat (2 ^ 1024 - 1)).note 3 128 (Desc.write d f v).toNat)
def execCdsetImmediate (e : CUnit) (x : CSetI) (s : State) : Out := runC e x.g s fun s => s.cdset e x.n x.f.val x.i.toNat
def execCdsetRegister (e : CUnit) (x : CSetR) (s : State) : Out :=
  runC e x.g s fun s => do
    let v ← x.s.rd s
    s.cdset e x.n x.f.val v
def execCdget (e : CUnit) (x : CGet) (s : State) : Out :=
  runC e x.g s fun s => do
    let d ← s.rdCd e x.n
    s.wr (some (.m x.j)) (Desc.field d x.f.val * 2 ^ (64 * x.k.val)) (chunkMask x.k.val) 4 2
def execCopyGetm (e : CUnit) (x : CGetm) (s : State) : Out :=
  runC e x.g s fun s => do
    let m ← s.rdM x.j
    s.wr (some (.cd e x.n)) (m % 2 ^ 1024) (2 ^ 1024 - 1) 4 2
def execCopyPutm (e : CUnit) (x : CPutm) (s : State) : Out :=
  runC e x.g s fun s => do
    let d ← s.rdCd e x.n
    s.wr (some (.m x.j)) d.toNat (2 ^ 1024 - 1) 4 2
def execCopyXfer (e : CUnit) (x : CXfer) (s : State) : Out :=
  runC e x.g s fun s => do
    let d ← s.rdCd e x.n
    let v := Desc.field d x.f.val
    if x.s.val = 2 then s.wr (some (sReg x.r.val)) v ones64 4 3
    else s.wr (some (.md (Fin.ofNat 8 x.r.val))) v ones64 4 3
/-- The timeline state of an engine (R245). -/
def execCtlr (e : CUnit) (x : CJ) (s : State) : Out :=
  runC e x.g s fun s =>
    let c := s.pre
    let susp := (c.cmds.filter fun m => m.eng = e.eng && m.susp.isSome).length
    s.wr (some (.m x.j)) (c.performedTo e.eng + c.regs.dat.issued[e.eng] * 2 ^ 64 + susp * 2 ^ 128) (2 ^ 192 - 1) 4 2

/-! Commands. -/
def badDesc {α : Type} : Res α := .error (.trap 16 0)
def must (b : Bool) : Res Unit := if b then .ok () else badDesc
/-- A descriptor as a command reads it at issue, its reserved bits checked (R201, R230). -/
def State.takeCd (s : State) (e : CUnit) (i : Fin 8) : Res Desc := do
  let d ← s.rdCd e i
  must (!Desc.reserved d)
  .ok d
/-- Two descriptors; a register that blocks comes before a check that traps (R106). -/
def State.takeTwo (s : State) (e : CUnit) (i j : Fin 8) : Res (Desc × Desc) := do
  let _ ← s.rdCd e i
  let _ ← s.rdCd e j
  let d ← s.takeCd e i
  let c ← s.takeCd e j
  .ok (d, c)
/-- The bytes of a walk, at most 2^40 (R230). -/
def streamOk (d : Desc) : Res Nat := if 2 ^ 40 < Desc.bytes d then badDesc else .ok (Desc.bytes d)
def State.copyCmd (s : State) (e : CUnit) (op : CopyOp) (dst src : Desc) : Cmd :=
  Cmd.blank e.eng (.copy { op := op, dst := dst, src := src, fmts := s.pre.regs.sys.fmt, coll := 0 })
def runCopy (e : CUnit) (g : Guard) (s : State) (body : State → Res Cmd) : Out := runCmd e.slot e.eng g s body
/-- Two equal streams of bytes. -/
def twoStreams (e : CUnit) (x : CTwo) (s : State) (op : CopyOp) : Res Cmd := do
  let (d, c) ← s.takeTwo e x.d x.s
  let n ← streamOk d
  let m ← streamOk c
  must (n == m)
  .ok (s.copyCmd e op d c)

/-- The run [a, a + len) meets [lo, lo + n), addresses modulo 2^64. -/
def meets (a len lo n : Nat) : Bool := (decide (a < lo + n) && decide (lo < a + len) && len != 0) || decide (lo + 2 ^ 64 < a + len)
/-- Every glen part that a walk writes belongs to a context of the node (R233). -/
def State.glenWalkOk (s : State) (k : Nat) (d : Desc) : Bool :=
  !isMesh k || (List.range 4).all fun g => glenPos (coreOf k) == g || (s.receiver k g).isSome ||
    !(List.range (Desc.runs d)).any fun r => meets (Desc.runAddr d r) (Desc.len d) (0x400000 + g * 0x300000) 0x300000

def execCpy (e : CUnit) (x : CTwo) (s : State) : Out := runCopy e x.g s fun s => twoStreams e x s .cpy
def execCpyb (e : CUnit) (x : CBar) (s : State) : Out :=
  runCopy e x.g s fun s => do
    if x.t then
      let _ ← s.rdCd e x.s
      s.tileFree x.d.val false
      let c ← s.takeCd e x.s
      let m ← streamOk c
      must (m == 8192)
      .ok (s.copyCmd e (.cpyb x.n (some x.d)) 0 c)
    else
      let (d, c) ← s.takeTwo e x.d x.s
      let n ← streamOk d
      let m ← streamOk c
      must (n == m)
      if s.glenWalkOk s.me d then .ok (s.copyCmd e (.cpyb x.n none) d c) else .error (.trap 15 0)
def execCpyt (e : CUnit) (x : CTile) (s : State) : Out :=
  runCopy e x.g s fun s => do
    let fmt := s.fmtReg x.f.val
    let code := x.c.val
    let _ ← s.rdCd e x.s
    s.tileFree x.n.val (code == 10)
    let c ← s.takeCd e x.s
    if blockScaled code fmt then .error (.trap 4 0)
    else
      must (Desc.len c == rowBytes code fmt && Desc.runs c == 64)
      .ok (s.copyCmd e (.cpyt x.n code fmt) 0 c)
/-- Gather and scatter: the indexed descriptor has one dimension of runs (R236). -/
def indexedCmd (e : CUnit) (x : CTwo) (s : State) (op : CopyOp) (ixd : Bool) : Res Cmd := do
  let (d, c) ← s.takeTwo e x.d x.s
  let ix := if ixd then d else c
  must (Desc.count ix 2 == 1 && Desc.count ix 3 == 1 && Desc.count ix 4 == 1 && Desc.count ix 5 == 1)
  let n ← streamOk d
  let m ← streamOk c
  must (n == m)
  .ok (s.copyCmd e op d c)
def execCgath (e : CUnit) (x : CTwo) (s : State) : Out := runCopy e x.g s fun s => indexedCmd e x s .cgath false
def execCscat (e : CUnit) (x : CTwo) (s : State) : Out := runCopy e x.g s fun s => indexedCmd e x s .cscat true
def execCzero (e : CUnit) (x : COne) (s : State) : Out :=
  runCopy e x.g s fun s => do
    let d ← s.takeCd e x.d
    let _ ← streamOk d
    .ok (s.copyCmd e .czero d 0)
def execCfill (e : CUnit) (x : CFill) (s : State) : Out :=
  runCopy e x.g s fun s => do
    let _ ← s.rdCd e x.d
    let v ← x.v.rd s
    let d ← s.takeCd e x.d
    let n ← streamOk d
    must (n % 4 == 0)
    .ok (s.copyCmd e (.cfill (BitVec.ofNat 32 v)) d 0)

/-- Arrival order is refused in deterministic operation (R239). -/
def nondet (s : State) (b : Bool) : Res Unit := if b && s.pre.regs.sys.dmode then .error (.trap 20 0) else .ok ()
def elemBytes (code : Nat) : Nat := codeWidth code / 8
/-- The element format and shapes of CRED and CALLRED (R239). DEDUCED: a code outside 4–10, 11 among them, traps BAD_DESC as R230 has it
for a bad descriptor field; R52 says ILLEGAL_OP of codes in general. -/
def redStreams (e : CUnit) (x : CRed) (s : State) : Res (Desc × Desc × Nat) := do
  let (d, c) ← s.takeTwo e x.d x.s
  nondet s (!x.e)
  let n ← streamOk d
  let m ← streamOk c
  let code := Desc.code d
  must (decide (4 ≤ code) && decide (code ≤ 10) && Desc.code c == code && n == m)
  must (Desc.len d % elemBytes code == 0 && Desc.len c % elemBytes code == 0)
  .ok (d, c, n)
/-- NODE of a DET contribution: LOG, LVL, KEY (R240). -/
def nodeLog (v : Nat) : Nat := bitsOf v 27 5
def nodeLvl (v : Nat) : Nat := bitsOf v 22 5
def nodeKey (v : Nat) : Nat := bitsOf v 0 22
def nodeOk (v : Nat) : Bool := decide (nodeLog v ≤ 20) && decide (nodeLvl v ≤ nodeLog v) && decide (nodeKey v < 2 ^ (nodeLog v - nodeLvl v))
def segFree (s : State) : Res Unit := if s.pre.seg.isSome then .error (.trap 18 0) else .ok ()
def execCred (e : CUnit) (x : CRed) (s : State) : Out :=
  runCopy e x.g s fun s => do
    let _ ← s.rdCd e x.d
    let _ ← s.rdCd e x.s
    segFree s
    let (d, c, n) ← redStreams e x s
    must (!x.e || (nodeOk (Desc.node d) && decide (0 < n) && decide (n ≤ 2 ^ 20)))
    .ok (s.copyCmd e (.cred x.o.val x.e) d c)
/-- A collective takes its number among those of the context (R242). DESIGN CHOICE: one that is guarded off takes none, nor a sequence number
of DIGEST_MISMATCH (log 33). -/
def runColl (e : CUnit) (g : Guard) (s : State) (body : State → Res Cmd) : Out :=
  s.inBundle fun s =>
    if g.on s.pre then s.slotDo e.slot fun s =>
      if 64 ≤ s.pre.pendingOf e.eng then .error .stall
      else do
        let m ← body s
        let n := (s.ctx s.me).colls + 1
        let op := match m.op with | .copy c => .copy { c with coll := n } | o => o
        .ok ((s.enqueue { m with op := op }).modMe fun c => { c with colls := n })
    else s.takeNumber e.eng
def execCallred (e : CUnit) (x : CRed) (s : State) : Out :=
  runColl e x.g s fun s => do
    let _ ← s.rdCd e x.d
    let _ ← s.rdCd e x.s
    segFree s
    let (d, c, _) ← redStreams e x s
    .ok (s.copyCmd e (.callred x.o.val x.e) d c)
def execCdigest (e : CUnit) (x : CTwo) (s : State) : Out :=
  runColl e x.g s fun s => do
    let _ ← s.rdCd e x.d
    let _ ← s.rdCd e x.s
    segFree s
    let (d, c) ← s.takeTwo e x.d x.s
    let n ← streamOk d
    let m ← streamOk c
    must (n == 8 && decide (1 ≤ m))
    .ok (s.copyCmd e .cdigest d c)
/-- The targets that NODE<7:0> names (R241). -/
def castTargets (d : Desc) : List Nat := (List.range 8).filter fun b => bitsOf (Desc.node d) b 1 == 1
def execCbcast (e : CUnit) (x : CBar) (s : State) : Out :=
  runCopy e x.g s fun s => do
    let _ ← s.rdCd e x.d
    let _ ← s.rdCd e x.s
    segFree s
    let (d, c) ← s.takeTwo e x.d x.s
    let n ← streamOk d
    let m ← streamOk c
    must (n == m)
    must (n == 0 || (List.range (Desc.runs d)).all fun r => decide (Desc.runAddr d r + Desc.len d ≤ 0x300000))
    let here (b : Nat) : Bool := match tgtCore (coreOf s.me) b with
      | some core => isMesh s.me && s.pre.node != 0 && (s.bound core).any fun j => (s.ctx j).node == s.pre.node
      | none => false
    if (castTargets d).all here then .ok (s.copyCmd e (.cbcast x.n x.t) d c) else .error (.trap 15 0)
def execCpull (e : CUnit) (x : CTwo) (s : State) : Out :=
  runCopy e x.g s fun s => do
    if isMesh s.me then .error (.trap 2 0)
    else
      segFree s
      let d ← s.takeCd e x.d
      let c ← s.takeCd e x.s
      must (Desc.len d == 65536 && Desc.runs d == 1 && Desc.base d % 65536 == 0 && Desc.len c == 65536 && Desc.runs c == 1 && Desc.base c % 65536 == 0)
      .ok (s.copyCmd e .cpull d c)
def execCpost (e : CUnit) (x : CPost) (s : State) : Out :=
  runCopy e x.g s fun s => do
    let _ ← s.rdCd e x.d
    let _ ← s.rdCd e x.s
    segFree s
    let (d, c) ← s.takeTwo e x.d x.s
    let n ← streamOk d
    let m ← streamOk c
    must (n == m)
    if s.glenWalkOk s.me d then .ok (s.copyCmd e (.cpost x.n) d c) else .error (.trap 15 0)
def execChostTo (e : CUnit) (x : CTwo) (s : State) : Out := runCopy e x.g s fun s => twoStreams e x s (.chost true)
def execChostFrom (e : CUnit) (x : CTwo) (s : State) : Out :=
  runCopy e x.g s fun s => do
    nondet s true
    twoStreams e x s (.chost false)
def execCcarrTo (e : CUnit) (x : CTwo) (s : State) : Out := runCopy e x.g s fun s => twoStreams e x s (.ccarr true)
def execCcarrFrom (e : CUnit) (x : CTwo) (s : State) : Out := runCopy e x.g s fun s => twoStreams e x s (.ccarr false)
def execCwait (e : CUnit) (x : CWait) (s : State) : Out :=
  runCopy e x.g s fun s => do
    segFree s
    .ok (s.copyCmd e (.cwait x.n x.i.toNat) 0 0)
def execCfence (e : CUnit) (x : CFence) (s : State) : Out := runCopy e x.g s fun s => .ok (s.copyCmd e (.cfence x.s.val) 0 0)
/-- A late event of a deterministic context, to be posted at its next bundle boundary (R354). -/
def Ctx.addLate (c : Ctx) (kind amount : Nat) : Ctx := if c.regs.sys.dmode then { c with late := c.late ++ [(kind, min amount (2 ^ 48 - 1))] } else c
/-- The suspended commands of an engine are discarded (R245). -/
def State.discardSusp (s : State) (k : Nat) (e : Fin 3) : State :=
  s.modCtx k fun c =>
    let gone := c.cmds.filter fun m => m.eng = e && m.susp.isSome
    gone.foldl (fun c m => c.addLate 4 (s.now - m.suspAt)) { c with cmds := c.cmds.filter fun m => !(m.eng = e && m.susp.isSome) }
def execCfenceA (e : CUnit) (x : CFence) (s : State) : Out :=
  s.inBundle fun s =>
    if x.g.on s.pre then s.slotDo e.slot fun s =>
      let s := s.discardSusp s.me e.eng
      if 64 ≤ (s.ctx s.me).pendingOf e.eng then .error .stall
      else .ok (s.enqueue (s.copyCmd e (.cfence x.s.val) 0 0))
    else s.takeNumber e.eng

/-! Conversion (R238). -/
/-- A format register as a descriptor of CCVT names it. -/
def Desc.fmtOf (d : Desc) (fmts : Vector (BitVec 32) 8) : BitVec 32 := vget fmts (Desc.freg d) 0
/-- The elements of a CCVT stream, or why it has no such number. -/
def cvtCount (d : Desc) (fmts : Vector (BitVec 32) 8) : Res Nat :=
  let code := Desc.code d
  if code = 11 then .error (.trap 2 0)
  else if isLadder code then
    if !Desc.flat d || Desc.len d % 32 != 0 || Desc.base d % 64 != 0 then badDesc else .ok (Desc.len d)
  else
    let c := container (opWidth code (Desc.fmtOf d fmts))
    if 2 ^ 40 < Desc.bytes d then badDesc
    else if c < 8 then
      if !Desc.flat d || Desc.len d % (groupSize c * c / 8) != 0 then badDesc else .ok (Desc.len d * 8 / c)
    else if Desc.len d % (c / 8) != 0 then badDesc else .ok (Desc.bytes d / (c / 8))
def execCcvt (e : CUnit) (x : CTwo) (s : State) : Out :=
  runCopy e x.g s fun s => do
    let (d, c) ← s.takeTwo e x.d x.s
    let n ← cvtCount d s.pre.regs.sys.fmt
    let m ← cvtCount c s.pre.regs.sys.fmt
    must (n == m)
    .ok (s.copyCmd e (.ccvt (reliefCode s.pre.pitch (Desc.code c))) d c)
def execCpref (e : CUnit) (x : CSrc) (s : State) : Out :=
  runCopy e x.g s fun s => do
    let c ← s.takeCd e x.s
    let _ ← streamOk c
    .ok (s.copyCmd e .cpref 0 c)
def execCswp (e : CUnit) (x : CTwo) (s : State) : Out := runCopy e x.g s fun s => twoStreams e x s .cswp

end Sys2Proof.Machine
end

