-- ==== Sys2Proof/Machine/Walk.lean ====
section
/-!
DEFINITION. Machine/Walk.lean: the walks of copy commands (09: R226, R231, R236), what a batch of each command does (R232-R243),
suspension (R248), the reduction store (R240), the combiner of collectives (R242), and the bound of a copy (R247).
-/
namespace Sys2Proof.Machine

/-- An event: it leaves the state as it is where its condition does not hold, or inside an open bundle. -/
def occur (s : State) (f : State → Option State) : Out := .next (if s.opened.isSome then s else (f s).getD s)

/-- Why a walk does not go on: a reason of Table 9-12 with its address, or a pending page (R384). -/
inductive WalkStop where
  | susp (reason va : Nat) | hold (page leaf : Nat)
deriving DecidableEq, Repr

/-- Part of a walk: address, length, memory key. -/
structure Piece where
  va : Nat
  len : Nat
  key : Nat
  uc : Bool
deriving DecidableEq, Repr

/-- The core that a scratchpad address names, where the issuer has that window (R178). -/
def padCore (k va : Nat) : Option Nat :=
  if !isMesh k then none
  else if va < 0x300000 then some (coreOf k)
  else if 0x400000 ≤ va ∧ va < 0x1000000 then some (glenCore (coreOf k) ((va - 0x400000) / 0x300000))
  else none
/-- Translation during a walk (R230, R231), where a fenced core stops it (Table 9-12); a fenced issuer's batches may have left its own
scratchpad before the fence, and still land (R252). `sp` is the memory beyond the ordinary spaces that the walk may reach. -/
def State.copyLoc (s : State) (k sp va : Nat) (m : AccMode) : Except WalkStop ((Nat × Bool) × State) :=
  if (padCore k va).any fun c => (s.core c).health.fenced && (c != coreOf k || m == .write) then .error (.susp 4 va)
  else match s.locate k va m with
    | .ok key uc s => if (spaceOf key = 1 ∨ spaceOf key = 2) ∧ spaceOf key ≠ sp then .error (.susp 9 va) else .ok ((key, uc), s)
    | .fault c => .error (.susp (match c with | 7 => 0 | 8 => 1 | _ => 2) va)
    | .pending page leaf => .error (.hold page leaf)
def engScope (sc key : Nat) : Nat := if spaceOf key = 2 then 5 else if 3 ≤ spaceOf key ∧ !isPad key then max sc 4 else sc
/-- DESIGN CHOICE: a read of an exact context takes the home copy and what its plain has changed (R356). -/
def State.engRead (s : State) (k sc key n : Nat) (uc : Bool) : Nat :=
  s.readAt s.mem (plainOf (coreOf k)) (s.ctx k).part (if (s.ctx k).exact then max 3 (engScope sc key) else engScope sc key) uc key n
def State.engWrite (s : State) (k sc key n v : Nat) (uc : Bool) : State :=
  (((s.fillNarrow (s.ctx k).exact (plainOf (coreOf k)) (s.ctx k).part (engScope sc key) uc key n).writeAt (plainOf (coreOf k)) (s.ctx k).part (engScope sc key) uc key n v).clearPoison key n).noteNarrow k (engScope sc key) uc key n true
/-- The L2s and resources that a piece of a walk comes by (R294, R329). -/
def State.reach (s : State) (k sc key n : Nat) (uc : Bool) : State :=
  let plain := plainOf (coreOf k)
  let part := (s.ctx k).part
  (s.ask k plain part (engScope sc key) uc key n).touchHome plain part (engScope sc key) uc key n

/-- The address of byte o of a stream; an indexed one reads its index (R236). -/
def State.streamAt (s : State) (k sc sp : Nat) (d : Desc) (ix : Bool) (o : Nat) : Except WalkStop (Nat × State) :=
  let r := o / Desc.len d
  let q := o % Desc.len d
  if ix then
    let w := Desc.iw d
    if Desc.aux d % w ≠ 0 then .error (.susp 3 (Desc.aux d))
    else do
      let ((key, uc), s) ← s.copyLoc k sp ((Desc.aux d + w * r) % 2 ^ 64) .read
      let s := s.reach k sc key w uc
      .ok (ofSigned 64 ((Desc.base d : Int) + (s.engRead k sc key w uc : Nat) * Desc.stride d 1 + (q : Nat)), s)
  else .ok ((Desc.runAddr d r + q) % 2 ^ 64, s)
/-- The pieces of n bytes of a stream from byte o on: within one run and one 64 KiB page each. -/
def State.walk (s : State) (k sc sp : Nat) (d : Desc) (ix : Bool) (m : AccMode) (o n : Nat) : Nat → Except WalkStop ((List Piece) × State)
  | 0 => .ok ([], s)
  | fuel + 1 =>
    if n = 0 then .ok ([], s)
    else do
      let (va, s) ← s.streamAt k sc sp d ix o
      let len := min n (min (Desc.len d - o % Desc.len d) (65536 - va % 65536))
      let ((key, uc), s) ← s.copyLoc k sp va m
      let (r, s) ← State.walk (s.reach k sc key len uc) k sc sp d ix m (o + len) (n - len) fuel
      .ok (⟨va, len, key, uc⟩ :: r, s)
def State.getPieces (s : State) (k sc : Nat) (l : List Piece) : List Byte :=
  l.flatMap fun p => bytesOf (s.engRead k sc p.key p.len p.uc) p.len
def State.putPieces (s : State) (k sc : Nat) : List Piece → List Byte → State
  | [], _ => s
  | p :: r, l => State.putPieces (s.engWrite k sc p.key p.len (ofBytes (l.take p.len)) p.uc) k sc r (l.drop p.len)
/-- The pieces that hold marked lines. -/
def State.marked (s : State) (l : List Piece) : List Piece := l.filter fun p => s.poisoned p.key p.len
def State.poisonPieces (s : State) (l : List Piece) : State :=
  l.foldl (fun s p => { s with poison := (linesOf p.key p.len).foldl (fun l i => insertSorted i l) s.poison }) s
/-- Marked source pieces: the destination's lines are marked and the units that held them score (R375). -/
def State.mark (s : State) (bad dst : List Piece) : State :=
  if bad.isEmpty then s
  else ((bad.foldl (fun s p => s.addScore (holderUnit p.key) 256) s).poisonPieces dst).settleScores
/-- Bytes o to o + n of a walk. -/
def slice : List Piece → Nat → Nat → List Piece
  | [], _, _ => []
  | p :: r, o, n =>
    if p.len ≤ o then slice r (o - p.len) n
    else if n = 0 then []
    else let len := min (p.len - o) n
         ⟨p.va + o, len, p.key + o, p.uc⟩ :: slice r 0 (n - len)
/-- The marked index words that bytes o to o + n of an indexed stream go by (R236, R375). -/
def State.badIndex (s : State) (k sp : Nat) (d : Desc) (o n : Nat) : List Piece :=
  if n = 0 then []
  else ((List.range ((o + n - 1) / Desc.len d - o / Desc.len d + 1)).map (o / Desc.len d + ·)).filterMap fun r =>
    let va := (Desc.aux d + Desc.iw d * r) % 2 ^ 64
    match s.copyLoc k sp va .read with
    | .ok ((key, uc), _) => if s.poisoned key (Desc.iw d) then some ⟨va, Desc.iw d, key, uc⟩ else none
    | .error _ => none
/-- A result to which marked batches contributed. -/
def State.markAt (s : State) (dst : List Piece) (taint : List Nat) : State := s.poisonPieces (taint.flatMap fun b => slice dst (64 * b) 64)
/-- The byte meters and link flits of what a batch moved. -/
def State.meterPieces (s : State) (k : Nat) (l : List Piece) : State :=
  l.foldl (fun s p => (s.meterBytes (plainOf (coreOf k)) (s.ctx k).part p.key p.len).padFlits k p.key p.len) s
/-- Charges (Table 26-1) and byte meters of what a batch moved. -/
def State.account (s : State) (k : Nat) (l : List Piece) : State :=
  (s.meterPieces k l).charge (coreOf k) (s.ctx k).part (if l.all fun p => isPad p.key then 1 else 4)

/-! Overlap (R232, R237). -/
def chunksOf (va n : Nat) : Nat → List (Nat × Nat)
  | 0 => []
  | fuel + 1 => if n = 0 then [] else let len := min n (65536 - va % 65536)
                                      (va, len) :: chunksOf (va + len) (n - len) fuel
/-- Where a whole walk lies in memory, as far as it translates. -/
def State.allKeys (s : State) (k : Nat) (d : Desc) : List (Nat × Nat) :=
  (List.range (Desc.runs d)).flatMap fun r => (chunksOf (Desc.runAddr d r) (Desc.len d) (Desc.len d / 65536 + 2)).filterMap fun c =>
    match s.locate k (c.1 % 2 ^ 64) .read with | .ok key _ _ => some (key, c.2) | _ => none
def covers (l : List (Nat × Nat)) (key : Nat) : Bool := l.any fun x => decide (x.1 ≤ key) && decide (key < x.1 + x.2)
/-- The data that lands: free values in the bytes that the other walk overlaps. -/
def State.blur (s : State) (other : List (Nat × Nat)) (dst : List Piece) (data : List Byte) : List Byte × State :=
  let keys := dst.flatMap fun p => (List.range p.len).map fun i => p.key + i
  if keys.any (covers other) then
    let (v, s) := s.free
    ((List.zip keys (List.zip data (bytesOf v data.length))).map fun x => if covers other x.1 then x.2.2 else x.2.1, s)
  else (data, s)

/-! Elements. -/
/-- One element of a reduction (R239): OP 0 ADD, 1 MAX, 2 MIN. -/
def combineElem (code op a b : Nat) : Nat :=
  let w := codeWidth code
  if codeInt code then
    match op with
    | 0 => (a + b) % 2 ^ w
    | 1 => if codeSigned code then (if toSigned w a < toSigned w b then b else a) else max a b
    | _ => if codeSigned code then (if toSigned w b < toSigned w a then b else a) else min a b
  else
    let F := codeFmt code 0
    match op with
    | 0 => F.round ((F.read a).add (F.read b) .rne) .rne
    | 1 => F.round ((F.read a).max (F.read b)) .rne
    | _ => F.round ((F.read a).min (F.read b)) .rne
/-- Two byte strings element by element, the left operand first. -/
def combineBytes (code op : Nat) (a b : List Byte) : List Byte :=
  let e := elemBytes code
  (List.range (a.length / e)).flatMap fun i => bytesOf (combineElem code op (le a (e * i) e) (le b (e * i) e)) e

/-! Tiles. -/
def rowPut (t row bits w : Nat) : Tile := BitVec.ofNat 65536 (mergeBits t (bits % 2 ^ w * 2 ^ (w * row)) ((2 ^ w - 1) * 2 ^ (w * row)))
/-- Row `row` of tile i, or of the pair for FP32 (R205). -/
def setTileRow (t : Vector Tile 8) (i : Fin 8) (code row bits : Nat) : Vector Tile 8 :=
  if code = 10 then
    let j := if row < 32 then i.val else i.val + 1
    vset t j (rowPut (vget t j 0).toNat (row % 32) bits 2048)
  else vset t i.val (rowPut (vget t i.val 0).toNat row bits 1024)
/-- Byte o of a tile write (R235): of a CPYB the byte of that number, of a CPYT byte o mod RB of row o / RB. -/
def putTileByte (t : Vector Tile 8) (i : Fin 8) (code rb o : Nat) (b : Byte) : Vector Tile 8 :=
  let row := o / rb
  let j := if code = 10 ∧ 32 ≤ row then i.val + 1 else i.val
  let bit := (if code = 10 then 2048 * (row % 32) else 1024 * row) + 8 * (o % rb)
  vset t j (BitVec.ofNat 65536 (mergeBits (vget t j 0).toNat (b.toNat * 2 ^ bit) (255 * 2 ^ bit)))
/-- The bytes of row `row` of tile i from rb on are zero (R235). -/
def clearTail (t : Vector Tile 8) (i : Fin 8) (code rb row : Nat) : Vector Tile 8 :=
  if code = 10 then t
  else vset t i.val (BitVec.ofNat 65536 (mergeBits (vget t i.val 0).toNat 0 ((2 ^ (1024 - 8 * rb) - 1) * 2 ^ (1024 * row + 8 * rb))))
/-- A batch of a tile copy: its first clears the tiles' marks, and one with marked source bytes sets them (R375). -/
def Ctx.markTiles (c : Ctx) (first bad : Bool) (tiles : List Nat) : Ctx :=
  { c with marks := (if first then c.marks.filter fun x => !tiles.contains x else c.marks) ++ (if bad then tiles else []) }
/-- An earlier command of the context still reads a tile (R201). -/
def Ctx.tileHeld (c : Ctx) (now order i : Nat) : Bool :=
  c.cmds.any fun m => decide (m.order < order) && m.hold.any (fun h => h.val == i) &&
    !(match m.op with | .mul x => decide (x.steps.length ≤ m.done) && decide (m.lastLand ≤ now) | _ => false)
/-- The tiles that a command writes are free of earlier readers. -/
def Ctx.tilesClear (c : Ctx) (now : Nat) (m : Cmd) : Bool := (List.range 8).all fun i => !m.writesT i || !c.tileHeld now m.order i

/-! Size of a command. -/
/-- Elements that a batch of CCVT converts: a whole number of groups and blocks (R76, R67, R69). -/
def cvtUnit : Nat := 128
def CopyCmd.elems (c : CopyCmd) : Nat := match cvtCount c.dst c.fmts with | .ok n => n | _ => 0
/-- Bytes of a stream of CCVT: of a ladder-block one, its arrays (R69). -/
def cvtBytes (d : Desc) : Nat :=
  let up (b : Nat) : Nat := (b + 63) / 64 * 64
  let n := Desc.len d
  if isLadder (Desc.code d) then
    up (n / 32) + up (n / 2) + (if Desc.code d = 14 then 0 else up (n / 2)) + (if Desc.code d = 12 then n else 0)
  else Desc.bytes d
/-- Bytes of the stream that a command moves. DESIGN CHOICE: of a CCVT, whose two streams may differ, the larger number (log 33). -/
def CopyCmd.size (c : CopyCmd) : Nat :=
  match c.op with
  | .cpyb _ (some _) => Desc.bytes c.src
  | .cpyt _ _ _ => Desc.bytes c.src
  | .cpref => Desc.bytes c.src
  | .cdigest => Desc.bytes c.src
  | .cwait _ _ => 0
  | .cfence _ => 0
  | .ccvt _ => max (cvtBytes c.dst) (cvtBytes c.src)
  | _ => Desc.bytes c.dst
/-- Batches of a command; an empty CALLRED still takes part in its collective (R242), and a CCARR on a product without carrier memory meets that at its first (R231). -/
def State.batches (s : State) (c : CopyCmd) : Nat :=
  match c.op with
  | .ccvt _ => (CopyCmd.elems c + cvtUnit - 1) / cvtUnit
  | .callred _ _ => max 1 ((CopyCmd.size c + 63) / 64)
  | .ccarr _ => if s.product = 1 then (CopyCmd.size c + 63) / 64 else max 1 ((CopyCmd.size c + 63) / 64)
  | _ => (CopyCmd.size c + 63) / 64
/-- Of a copy of a fenced core the batches below this have passed their first hop; of others all may land (R252). -/
def State.passed (s : State) (m : Cmd) (c : CopyCmd) : Nat :=
  match m.hop with
  | none => s.batches c
  | some (lo, i) => min (s.batches c) (lo + i % (s.batches c - lo + 1))
/-- Batches that land in stream order (R236, R240-R243). -/
def CopyOp.ordered : CopyOp → Bool
  | .cscat => true | .cdigest => true | .callred _ _ => true | .cred _ det => det | _ => false
def CopyOp.noMove : CopyOp → Bool
  | .cwait _ _ => true | .cfence _ => true | _ => false
def CopyOp.isColl : CopyOp → Bool
  | .callred _ _ => true | .cdigest => true | _ => false
def Cmd.copy? (m : Cmd) : Option CopyCmd := match m.op with | .copy c => some c | _ => none

/-! The bound (R247). -/
def spaceTerms (own key : Nat) : Nat × Nat :=
  match spaceOf key with
  | 0 => (1600, 2)
  | 1 => (3200, 4)
  | 2 => (66000, 8)
  | sp => if 20000 ≤ sp then (if sp = padSpace own then (8, 1) else (14, 1)) else (44000, 8)
/-- The row of Table 9-8 of an address; one that does not translate is priced as device memory. -/
def State.addrTerms (s : State) (k va : Nat) : Nat × Nat :=
  match s.locate k va .probe with | .ok key _ _ => spaceTerms (coreOf k) key | _ => (1600, 2)
def State.walkTerms (s : State) (k sc : Nat) (d : Desc) (ix : Bool) : Nat × Nat :=
  if Desc.bytes d = 0 then s.addrTerms k (Desc.base d)
  else match s.streamAt k sc 0 d ix 0 with | .ok (va, _) => s.addrTerms k va | .error _ => (1600, 2)
def clog2 (n : Nat) : Nat := if n ≤ 1 then 0 else Nat.log2 (n - 1) + 1
/-- Cycles by which the last byte has moved, and the bound. -/
def State.copyBound (s : State) (k : Nat) (m : Cmd) (c : CopyCmd) : Nat × Nat :=
  let nb := (CopyCmd.size c + 63) / 64
  let src := s.walkTerms k m.scope c.src (match c.op with | .cgath => true | _ => false)
  let dst := s.walkTerms k m.scope c.dst (match c.op with | .cscat => true | _ => false)
  let two (a b : Nat × Nat) := 16 + a.1 + b.1 + max a.2 b.2 * nb
  match c.op with
  | .cpyb _ (some _) => (two src (4, 1), two src (4, 1))
  | .cpyt _ _ _ => (two src (4, 1), two src (4, 1))
  | .czero => (two (0, 1) dst, two (0, 1) dst)
  | .cfill _ => (two (0, 1) dst, two (0, 1) dst)
  | .cpref => (two src (0, 1), two src (0, 1))
  | .cwait _ _ => (16, 16)
  | .cfence _ => (16, 16)
  | .cpull => (two (44000, 8) (1600, 2), two (44000, 8) (1600, 2))
  | .cbcast _ _ =>
    let ts := (castTargets c.dst).map fun b => if 4 ≤ b then (28, 1) else if b = glenPos (coreOf k) then (8, 1) else (14, 1)
    let t := ts.foldl (fun (x y : Nat × Nat) => (max x.1 y.1, max x.2 y.2)) (0, 1)
    (two src t, two src t)
  | .cred _ true => (two src dst, two src dst + 2 * (nodeLog (Desc.node c.dst) + 1) * nb)
  | .callred _ _ =>
    let n := (s.ctx k).regs.sys.ident[7].toNat
    (16 + src.1 + src.2 * nb, max (16 + src.1 + src.2 * nb) (16 + src.1 + 2 * (clog2 n + 1) * (44000 + 8 * nb)))
  | .cdigest =>
    let n := (s.ctx k).regs.sys.ident[7].toNat
    (16 + src.1 + src.2 * nb, max (16 + src.1 + src.2 * nb) (16 + src.1 + 2 * (clog2 n + 1) * (44000 + 8 * nb)))
  | .cgath =>
    let i := s.addrTerms k (Desc.aux c.src)
    let x := two src dst + i.1 + i.2 * ((Desc.count c.src 1 * Desc.iw c.src + 63) / 64)
    (x, x)
  | .cscat =>
    let i := s.addrTerms k (Desc.aux c.dst)
    let x := two src dst + i.1 + i.2 * ((Desc.count c.dst 1 * Desc.iw c.dst + 63) / 64)
    (x, x)
  | _ => (two src dst, two src dst)

/-! Suspension (R248). -/
def Ctx.modCmd (c : Ctx) (i : Nat) (f : Cmd → Cmd) : Ctx := { c with cmds := c.cmds.modify i f }
def State.modCmd (s : State) (k i : Nat) (f : Cmd → Cmd) : State := s.modCtx k fun c => c.modCmd i f
def engBit (e : Fin 3) : Nat := if e.val = 2 then 1 else 0
/-- A command is suspended and reported; one of a context that is Free is discarded instead (R248, R249). -/
def State.suspend (s : State) (k i reason va : Nat) : State :=
  match (s.ctx k).cmds[i]? with
  | none => s
  | some m =>
    if (s.ctx k).status = .free then s.modCtx k fun c => { c with cmds := c.cmds.eraseIdx i }
    else
      (s.modCmd k i fun m => { m with susp := some (reason, va), suspAt := s.now, page := none }).postQ k 2
        (element 0x10 (engBit m.eng * 2 ^ 55 + reason * 2 ^ 48 + m.num % 2 ^ 48))
/-- A walk stops: it is suspended, or holds at a pending page and asks for it (R384). -/
def State.walkStop (s : State) (k i : Nat) (e : WalkStop) : State :=
  match e with
  | .susp r va => s.suspend k i r va
  | .hold page leaf =>
    (s.askPage (s.ctx k).part page leaf).modCmd k i fun m => if m.page.isSome then m else { m with page := some (page, leaf, s.now) }

/-! Owners of destination bytes (R233). -/
def State.pieceOwner (s : State) (k va : Nat) : Option Nat :=
  if isMesh k ∧ 0x400000 ≤ va ∧ va < 0x1000000 then
    let g := (va - 0x400000) / 0x300000
    if g = glenPos (coreOf k) then some k else s.receiver k g
  else some k

/-- The owner of byte o of a destination that is not indexed, and how many of n bytes from there are its own (R233). -/
def State.ownerAt (s : State) (k : Nat) (d : Desc) (o : Nat) : Option Nat :=
  s.pieceOwner k ((Desc.runAddr d (o / Desc.len d) + o % Desc.len d) % 2 ^ 64)
def State.ownerRun (s : State) (k : Nat) (d : Desc) (o n : Nat) : Nat :=
  ((List.range n).takeWhile fun j => s.ownerAt k d (o + j) == s.ownerAt k d o).length
/-- The stream bytes that batch b lands next: offset and number. A batch of CPYB never spans two owners. -/
def State.batchBytes (s : State) (k : Nat) (m : Cmd) (c : CopyCmd) (b : Nat) : Nat × Nat :=
  let sub := ((m.split.find? fun x => x.1 = b).map Prod.snd).getD 0
  let o := 64 * b + sub
  let n := min (64 - sub) (CopyCmd.size c - o)
  (o, match c.op with | .cpyb _ none => s.ownerRun k c.dst o n | _ => n)
/-- The owners of the bytes of a destination that is not indexed. -/
def State.ownersOf (s : State) (k : Nat) (d : Desc) : List Nat :=
  let runs (f : Nat → Bool) : Bool := (List.range (Desc.runs d)).any fun r => f (Desc.runAddr d r)
  let part (g : Nat) : Bool := runs fun a => meets a (Desc.len d) (0x400000 + g * 0x300000) 0x300000
  let rest := runs fun a => decide (0 < Desc.len d) && (decide (a < 0x400000) || decide (0x1000000 < a + Desc.len d))
  if !isMesh k then [k]
  else ((if rest then [k] else []) ++
    (List.range 4).filterMap fun g => if !part g then none else if g = glenPos (coreOf k) then some k else s.receiver k g).eraseDups

/-! What a batch moves. -/
/-- An element of a CCVT source or scale array, one read of memory at a time. -/
def State.cvtByte (s : State) (k sc va : Nat) (n : Nat) : Except WalkStop ((Nat × List Piece) × State) := do
  let (p, s) ← s.walk k sc 0 (Desc.write (Desc.write 0 0 va) 1 n) false .read 0 n n
  .ok ((ofBytes (s.getPieces k sc p), p), s)
def State.cvtRead (s : State) (k sc : Nat) (d : Desc) (fmt : BitVec 32) (relief : Option Nat) (n e : Nat) : Except WalkStop ((FVal × List Piece) × State) :=
  let code := Desc.code d
  if isLadder code then do
    let c := relief.getD code
    let up (b : Nat) : Nat := (b + 63) / 64 * 64
    let o1 := up (n / 32)
    let o2 := o1 + up (n / 2)
    let o3 := o2 + up (n / 2)
    let nib (v : Nat) : Nat := bitsOf v (elemBit 4 e % 8) 4
    let ((X, p), s) ← s.cvtByte k sc (Desc.base d + e / 32) 1
    let ((hi, p1), s) ← s.cvtByte k sc (Desc.base d + o1 + elemBit 4 e / 8) 1
    let ((mid, p2), s) ← if c = 14 then .ok ((0, []), s) else s.cvtByte k sc (Desc.base d + o2 + elemBit 4 e / 8) 1
    let ((lo, p3), s) ← if c = 12 then s.cvtByte k sc (Desc.base d + o3 + e) 1 else .ok ((0, []), s)
    let h := nib hi
    let mg := h % 8
    .ok ((ladRead c X (h / 8 == 1) (if c = 12 then mg * 4096 + nib mid * 256 + lo else if c = 13 then mg * 16 + nib mid else mg), p ++ p1 ++ p2 ++ p3), s)
  else do
    let w := opWidth code fmt
    let c := container w
    let bit := if c < 8 then elemBit c e else e * c
    let nb := (bit % 8 + w + 7) / 8
    let o := bit / 8
    let (p, s) ← s.walk k sc 0 d false .read o nb nb
    if decide (8 ≤ c) && (p.take 1).any (fun q => q.va % (c / 8) != 0) then .error (.susp 3 ((p.head?.map (·.va)).getD 0))
    else
      let v := codeRead code fmt (bitsOf (ofBytes (s.getPieces k sc p)) (bit % 8) w)
      if blockScaled code fmt then do
        let ((x, px), s) ← s.cvtByte k sc ((Desc.aux d + e / 32) % 2 ^ 64) 1
        .ok ((unscale x v, p ++ px), s)
      else .ok ((v, p), s)
def State.cvtReads (s : State) (k sc : Nat) (d : Desc) (fmt : BitVec 32) (relief : Option Nat) (n e : Nat) : Nat → Except WalkStop ((List FVal × List Piece) × State)
  | 0 => .ok (([], []), s)
  | m + 1 => do
    let ((v, p), s) ← s.cvtRead k sc d fmt relief n e
    let ((r, q), s) ← State.cvtReads s k sc d fmt relief n (e + 1) m
    .ok ((v :: r, p ++ q), s)
/-- Bytes to be written at addresses: the same bytes of every byte at once. -/
def State.cvtStore (s : State) (k sc va : Nat) (l : List Byte) : Except WalkStop ((List Piece) × State) := do
  let (p, s) ← s.walk k sc 0 (Desc.write (Desc.write 0 0 va) 1 l.length) false .write 0 l.length l.length
  .ok (p, s.putPieces k sc p l)
def blocks32 (l : List FVal) : Nat → List (List FVal)
  | 0 => []
  | n + 1 => if l.isEmpty then [] else l.take 32 :: blocks32 (l.drop 32) n
/-- Elements packed into their containers as they lie from byte 0 of a group on (R76). -/
def packElems (c : Nat) (l : List Nat) : Nat :=
  ((List.zip (List.range l.length) l).foldl (fun v x => v + x.2 * 2 ^ (if c < 8 then elemBit c x.1 else c * x.1)) 0)
/-- The destination of a CCVT batch: elements e to e + l.length (R238). -/
def State.cvtWrite (s : State) (k sc : Nat) (d : Desc) (fmt : BitVec 32) (n e : Nat) (l : List FVal) : Except WalkStop ((List Piece) × State) :=
  let code := Desc.code d
  let bl := blocks32 l 4
  if isLadder code then do
    let up (b : Nat) : Nat := (b + 63) / 64 * 64
    let o1 := up (n / 32)
    let o2 := o1 + up (n / 2)
    let o3 := o2 + up (n / 2)
    let el : List (Bool × Nat) := bl.flatMap fun b => b.map fun x => ladElem code (ladScale b) x (Desc.rnd d)
    let top := if code = 12 then 4096 else if code = 13 then 16 else 1
    let hi := packElems 4 (el.map fun x => b2n x.1 * 8 + x.2 / top)
    let mid := packElems 4 (el.map fun x => x.2 / (if code = 12 then 256 else 1) % 16)
    let pb := (l.length + 63) / 64 * 32
    let (p, s) ← s.cvtStore k sc (Desc.base d + e / 32) (bl.map fun b => BitVec.ofNat 8 (ladScale b))
    let (p1, s) ← s.cvtStore k sc (Desc.base d + o1 + e / 2) (bytesOf hi pb)
    let (p2, s) ← if code = 14 then .ok ([], s) else s.cvtStore k sc (Desc.base d + o2 + e / 2) (bytesOf mid pb)
    let (p3, s) ← if code = 12 then s.cvtStore k sc (Desc.base d + o3 + e) (el.map fun x => BitVec.ofNat 8 x.2) else .ok ([], s)
    .ok (p ++ p1 ++ p2 ++ p3, s)
  else do
    let w := opWidth code fmt
    let c := container w
    let vals : List Nat :=
      if blockScaled code fmt then bl.flatMap fun b => b.map fun x => blockElem (miniFmt fmt) (blockScale (miniFmt fmt) b) x (Desc.rnd d)
      else l.map fun x => (codeWrite code fmt x (Desc.rnd d)).1
    let o := if c < 8 then e / groupSize c * (groupSize c * c / 8) else e * (c / 8)
    let nb := if c < 8 then (l.length + groupSize c - 1) / groupSize c * (groupSize c * c / 8) else l.length * (c / 8)
    let (p, s) ← s.walk k sc 0 d false .write o nb nb
    match (if 8 ≤ c then p.find? fun q => q.va % (c / 8) != 0 else none) with
    | some q => .error (.susp 3 q.va)
    | none =>
      let s := s.putPieces k sc p (bytesOf (packElems c vals) nb)
      if blockScaled code fmt then do
        let (px, s) ← s.cvtStore k sc ((Desc.aux d + e / 32) % 2 ^ 64) (bl.map fun b => BitVec.ofNat 8 (blockScale (miniFmt fmt) b))
        .ok (p ++ px, s)
      else .ok (p, s)
/-- A batch of CCVT. The whole batch is one landing: its marks and charges follow its source elements' spaces. -/
def State.cvtBatch (s : State) (k : Nat) (m : Cmd) (c : CopyCmd) (relief : Option Nat) (b : Nat) : Except WalkStop (Unit × State) := do
  let n := CopyCmd.elems c
  let e := cvtUnit * b
  let cnt := min cvtUnit (n - e)
  let ((l, p), s) ← s.cvtReads k m.scope c.src (Desc.fmtOf c.src c.fmts) relief n e cnt
  let bad := s.marked p
  let (q, s) ← s.cvtWrite k m.scope c.dst (Desc.fmtOf c.dst c.fmts) n e l
  let s := (s.mark bad q).meterPieces k (p ++ q)
  let far := (s.addrTerms k (Desc.base c.src)).2 != 1 || (s.addrTerms k (Desc.base c.dst)).2 != 1
  .ok ((), s.charge (coreOf k) (s.ctx k).part ((cnt * 4 + 63) / 64 * (if far then 4 else 1)))

/-- The migration page that a CPULL writes: partition, and key through its pending or present leaf (R384). -/
def State.pullPart (s : State) (k page : Nat) : Nat :=
  if isMgmt k then
    ((List.range 64).find? fun p => (s.part p).migdest && (s.part p).pages.any fun x => x.1 == page).getD
      (((List.range 64).find? fun p => (s.part p).exist && (s.part p).migdest &&
        (match walkFrom s.mem (page * 65536) levels (s.part p).root with | .pending _ _ => true | _ => false)).getD (s.ctx k).part)
  else (s.ctx k).part
def State.pullKey (s : State) (p va : Nat) : Except WalkStop Nat :=
  let go (e base : Nat) : Except WalkStop Nat :=
    if s.physOk e (pteAddr e + (va - base)) then .ok (mkey (leafSpace e) (pteAddr e + (va - base))) else .error (.susp 2 va)
  match walkFrom s.mem va levels (s.part p).root with
  | .leaf e _ base _ => go e base
  | .pending pk _ => if (s.part p).migdest then go (s.getN pk 8) (va / 65536 * 65536) else .error (.susp 0 va)
  | .none => .error (.susp 0 va)
/-- The source bytes of a CPULL (R244): of the package itself through the source partition's tables, for a migration destination alone (R383,
R384), and of a peer whatever it sends. -/
def State.pullBytes (s : State) (p : Nat) (c : CopyCmd) (va n : Nat) : Except WalkStop ((List Byte × List Piece) × State) :=
  let id := Desc.node c.src % 2 ^ 14
  if id = s.fabric ∧ !(s.part p).migdest then .error (.susp 0 va)
  else if id = s.fabric then
    match walkFrom s.mem va levels (s.part (bitsOf (s.part p).migsrc 16 6)).root with
    | .leaf e _ base _ =>
      let a := pteAddr e + (va - base)
      let key := mkey (leafSpace e) a
      if s.physOk e a then .ok ((s.getBytes key n, [⟨va, n, key, false⟩]), s) else .error (.susp 2 va)
    | _ => .error (.susp 0 va)
  else let (v, s) := s.free
       .ok ((bytesOf v n, []), s)

/-- Lower the barriers of the owners of the bytes written (R233). -/
def State.lowerOwners (s : State) (k : Nat) (bb : Fin 8) (l : List Piece) : State :=
  l.foldl (fun s p => match s.pieceOwner k p.va with | some j => s.lowerBar j bb p.len | none => s) s

/-- The targets of a broadcast: each key, where R18 grants the bank: the issuer's own by its mask (R241). -/
def State.castPieces (s : State) (k : Nat) (t : Nat) (l : List (Nat × Nat)) : Except WalkStop (List Piece) :=
  match tgtCore (coreOf k) t with
  | none => .error (.susp 2 0)
  | some core =>
    if (s.core core).health.fenced then .error (.susp 4 ((l.head?.map Prod.fst).getD 0))
    else match l.find? fun x => !s.bankOk k core (x.1 / 0x20000) with
      | some x => .error (.susp 2 x.1)
      | none => .ok (l.map fun x => ⟨x.1, x.2, mkey (padSpace core) x.1, false⟩)
def State.castAll (s : State) (k : Nat) (l : List (Nat × Nat)) : List Nat → Except WalkStop (List Piece)
  | [] => .ok []
  | t :: r => do
    let p ← s.castPieces k t l
    let q ← State.castAll s k l r
    .ok (p ++ q)
/-- The destination ranges of n stream bytes, by local address. -/
def castRanges (d : Desc) (o n : Nat) : Nat → List (Nat × Nat)
  | 0 => []
  | fuel + 1 =>
    if n = 0 then []
    else
      let a := Desc.runAddr d (o / Desc.len d) + o % Desc.len d
      let len := min n (min (Desc.len d - o % Desc.len d) (65536 - a % 65536))
      (a, len) :: castRanges d (o + len) (n - len) fuel

/-- What the batch of stream bytes from 64 b on does; m is command i of context k. DESIGN CHOICE: of a broadcast with B = 1, a target without
a context at the issuer's declared index gets its bytes, and no barrier is lowered there (log 33). -/
def State.moveBatch (s : State) (k i : Nat) (m : Cmd) (c : CopyCmd) (b : Nat) : Except WalkStop (Unit × State) :=
  let sc := m.scope
  let (o, n) := s.batchBytes k m c b
  let first := m.done == 0 && m.landed.isEmpty
  let read (s : State) (sp : Nat) (ix : Bool) : Except WalkStop ((List Piece) × State) := s.walk k sc sp c.src ix .read o n n
  let write (s : State) (sp : Nat) (ix : Bool) : Except WalkStop ((List Piece) × State) := s.walk k sc sp c.dst ix .write o n n
  /- a copy from pieces to pieces; `other` is what the walk must not overlap -/
  let copy (s : State) (ssp dsp : Nat) (six dix blur : Bool) : Except WalkStop ((List Piece) × State) := do
    let (p, s) ← read s ssp six
    let (q, s) ← write s dsp dix
    let data := s.getPieces k sc p
    let (data, s) := if blur then s.blur (s.allKeys k c.src) q data else (data, s)
    let bad := s.marked p ++ (if six then s.badIndex k ssp c.src o n else []) ++ (if dix then s.badIndex k dsp c.dst o n else [])
    .ok (q, ((s.putPieces k sc q data).mark bad q).account k (p ++ q))
  match c.op with
  | .cpy => do
    let (_, s) ← copy s 0 0 false false true
    .ok ((), s)
  | .cpost _ => do
    let (_, s) ← copy s 0 0 false false true
    .ok ((), s)
  | .chost out => do
    let (_, s) ← copy s (if out then 0 else 2) (if out then 2 else 0) false false true
    .ok ((), s)
  | .ccarr out =>
    if s.product ≠ 1 then .error (.susp 2 (if out then Desc.base c.dst else Desc.base c.src))
    else do
      let (_, s) ← copy s (if out then 0 else 1) (if out then 1 else 0) false false true
      .ok ((), s)
  | .cpyb bb none => do
    let (q, s) ← copy s 0 0 false false true
    .ok ((), s.lowerOwners k bb q)
  | .cgath => do
    let (_, s) ← copy s 0 0 true false false
    .ok ((), s)
  | .cscat => do
    let (_, s) ← copy s 0 0 false true false
    .ok ((), s)
  | .cpyb bb (some t) => do
    let (p, s) ← read s 0 false
    let data := s.getPieces k sc p
    let s := s.modCtx k fun x => (x.markTiles first (!(s.marked p).isEmpty) [t.val]).modDat fun d =>
      { d with t := (List.zip (List.range n) data).foldl (fun v y => putTileByte v t 8 128 (o + y.1) y.2) d.t }
    .ok ((), (((s.mark (s.marked p) []).account k p).lowerBar k bb n).mirror k)
  | .cpyt t code _ => do
    let (p, s) ← read s 0 false
    let data := s.getPieces k sc p
    let rb := Desc.len c.src
    let tiles := if code = 10 then [t.val, t.val + 1] else [t.val]
    let s := s.modCtx k fun x => (x.markTiles first (!(s.marked p).isEmpty) tiles).modDat fun d =>
      { d with t := (List.zip (List.range n) data).foldl (fun v y =>
          clearTail (putTileByte v t code rb (o + y.1) y.2) t code rb ((o + y.1) / rb)) d.t }
    .ok ((), ((s.mark (s.marked p) []).account k p).mirror k)
  | .czero => do
    let (q, s) ← write s 0 false
    .ok ((), (s.putPieces k sc q (List.replicate n 0)).account k q)
  | .cfill v => do
    let (q, s) ← write s 0 false
    .ok ((), (s.putPieces k sc q ((List.range n).map fun j => BitVec.ofNat 8 (bitsOf v.toNat (8 * ((o + j) % 4)) 8))).account k q)
  | .cswp => do
    let (p, s) ← s.walk k sc 0 c.src false .write o n n
    let (q, s) ← write s 0 false
    let (_, s) ← read s 0 false
    let (_, s) ← s.walk k sc 0 c.dst false .read o n n
    let a := s.getPieces k sc p
    let z := s.getPieces k sc q
    let ka := s.allKeys k c.src
    let kz := s.allKeys k c.dst
    let (a, s) := s.blur ka q a
    let (z, s) := s.blur kz p z
    .ok ((), ((((s.putPieces k sc q a).putPieces k sc p z).mark (s.marked p) q).mark (s.marked q) p).account k (p ++ q))
  | .cpref =>
    /- the line of stream byte o + j, unless an earlier byte has named it -/
    let line (s : State) (j : Nat) : State :=
      match s.streamAt k sc 0 c.src false (o + j) with
      | .error _ => s
      | .ok (va, s) =>
        if j ≠ 0 ∧ (o + j) % Desc.len c.src ≠ 0 ∧ va % 64 ≠ 0 then s
        else match s.copyLoc k 0 va .read with
          | .ok ((key, uc), s) =>
            if spaceOf key = 0 ∧ !uc then (s.reach k 3 (key / 64 * 64) 64 uc).fillLine (plainOf (coreOf k)) (s.ctx k).part key else s
          | .error _ => s
    .ok ((), (List.range n).foldl line s)
  | .cred op false => do
    let (p, s) ← read s 0 false
    let (q, s) ← write s 0 false
    let (_, s) ← s.walk k sc 0 c.dst false .read o n n
    match (p ++ q).find? fun x => x.va % elemBytes (Desc.code c.dst) != 0 with
    | some x => .error (.susp 3 x.va)
    | none =>
      let data := combineBytes (Desc.code c.dst) op (s.getPieces k sc q) (s.getPieces k sc p)
      .ok ((), ((s.putPieces k sc q data).mark (s.marked (p ++ q)) q).account k (p ++ q))
  | .cbcast bb low => do
    let (p, s) ← read s 0 false
    let l := castRanges c.dst o n n
    let q ← s.castAll k l (castTargets c.dst)
    let data := s.getPieces k sc p
    let bad := s.marked p
    let s := (castTargets c.dst).foldl (fun s t =>
      match s.castPieces k t l with
      | .ok q => s.putPieces k sc q data
      | .error _ => s) s
    let s := (s.mark bad q).account k (p ++ q)
    .ok ((), if low then (castTargets c.dst).foldl (fun s t => match s.receiver k t with | some j => s.lowerBar j bb n | none => s) s else s)
  | .cpull =>
    let page := Desc.base c.dst / 65536
    let pt := s.pullPart k page
    do
      let ((data, p), s) ← s.pullBytes pt c (Desc.base c.src + o) n
      let key ← s.pullKey pt (Desc.base c.dst + o)
      let q : List Piece := [⟨0, n, key, false⟩]
      .ok ((), ((((s.writeAt 0 pt 3 false key n (ofBytes data)).clearPoison key n).touchHome 0 pt 3 false key n).mark (s.marked p) q).account k (p ++ q))
  | .ccvt relief => s.cvtBatch k m c relief b
  | .cwait _ _ => .ok ((), s)
  | .cfence _ => .ok ((), s)
  | _ => do
    let (p, s) ← read s 0 false
    let code := Desc.code c.dst
    let red := match c.op with | .cdigest => false | _ => true
    match (if red then p.find? fun x => x.va % elemBytes code != 0 else none) with
    | some x => .error (.susp 3 x.va)
    | none =>
      let bad := s.marked p
      .ok ((), ((s.modCmd k i fun y => { y with
        data := y.data ++ s.getPieces k sc p, taint := if bad.isEmpty then y.taint else b :: y.taint }).mark bad []).account k p)

end Sys2Proof.Machine
end

