-- ==== Sys2Proof/Machine/Windows.lean ====
section
/-!
DEFINITION. Machine/Windows.lean: the energy window of a core (26: R447) and the windows of the core and plain governors
(14: R325-R333). A window with nothing to do is passed over when its core or plain is next used.
-/
namespace Sys2Proof.Machine

/-! Energy. -/
/-- The energy windows of a core up to now have ended: the excess carries over and the grant is set anew (R447). -/
def State.rollEnergy (s : State) (core : Nat) : State :=
  let e := (s.core core).energy
  let len := 256 * (s.core core).div[(0 : Fin 5)]
  let n := if s.now < e.fin then 0 else (s.now - e.fin) / len + 1
  if n = 0 then s
  else
    let g := s.coreGrant core
    s.modCore core fun c => { c with energy := { e with fin := e.fin + n * len, grant := g, charge := e.charge - e.grant - (n - 1) * g } }
/-- A context that becomes Ready adds its grant to the window at hand (R447). -/
def State.addGrant (s : State) (k : Nat) : State :=
  s.modCore (coreOf k) fun c => { c with energy := { c.energy with grant := c.energy.grant + (s.ctx k).regs.sys.egrant.toNat } }

/-! Governors. -/
/-- The narrowing choice: lowest rank, then the first identifier after the rank's pointer (R326). -/
def Governor.choose (g : Governor) (cand : List (Nat × Nat)) : Option (Nat × Nat) :=
  match cand with
  | [] => none
  | _ =>
    let r := cand.foldl (fun r x => min r x.1) 7
    let ids := cand.filter fun x => x.1 = r
    (ids.find? fun x => decide (vget g.ptr r 0 < x.2)).or ids.head?
/-- Table 14-2: the governor after a window, and the owner narrowed or widened. -/
def Governor.tick (g : Governor) (exceeded quiet : Bool) (cand : List (Nat × Nat)) : Governor × Option Nat × Option Nat :=
  if exceeded then
    match g.choose cand with
    | some (r, i) => ({ g with ptr := vset g.ptr r i, stack := i :: g.stack, quiet := 0 }, some i, none)
    | none => ({ g with quiet := 0 }, none, none)
  else if !quiet then ({ g with quiet := 0 }, none, none)
  else if g.quiet < 3 then ({ g with quiet := g.quiet + 1 }, none, none)
  else match g.stack with
    | i :: r => ({ g with stack := r, quiet := 0 }, none, some i)
    | [] => (g, none, none)

/-- The multiplying commands of a core with their contexts. -/
def State.mulCmds (s : State) (core : Nat) : List (Nat × Cmd × MulCmd) :=
  ((List.range (ctxCount core)).map (keyOf core)).flatMap fun k => (s.ctx k).cmds.filterMap fun m => match m.op with | .mul x => some (k, m, x) | _ => none
/-- The k-tile at hand of some command begins before a time: its rung is fixed before a governor decides in the cycle that precedes
it (R78). -/
def State.intakeBy (s : State) (core t : Nat) : Bool :=
  (s.mulCmds core).any fun x => x.2.1.start.isSome && decide (x.2.1.done < x.2.2.steps.length) && decide (x.2.1.lastLand < t)

/-- One window of a core governor ends (R325-R327). -/
def State.coreWindow (s : State) (core : Nat) : State :=
  let y := s.core core
  let g := y.gov
  let lo := g.win * 2048
  let hi := lo + 2048
  let d := y.div[(3 : Fin 5)]
  let cmds := s.mulCmds core
  let busy := cmds.foldl (fun t x => if 0 < x.2.1.done ∧ x.2.1.gone = 0 then max t x.2.1.lastLand else t) 0
  let beyond := (busy - hi) / d
  let waiting := cmds.foldl (fun n x => n + (x.2.2.steps.length - x.2.1.done) * intakeCycles (max (s.ctx x.1).pitch.cur (rungOf x.2.2.code x.2.2.fmt))) 0
  let demand := g.used - beyond + waiting
  let cap := y.matrixCycles hi
  let late := g.late || cmds.any fun x => match x.2.1.limit with | some t => decide (lo ≤ t) && decide (t < hi) | none => false
  let cand := (s.bound core).filterMap fun k =>
    let c := s.ctx k
    if c.pitch.core < c.pitch.floor ∧ !c.regs.sys.dmode then some (c.pitch.rank, numOf k) else none
  let (g', down, up) := g.tick (decide (cap < demand) || late) (decide (demand ≤ cap * 9 / 10) && !late) cand
  let s := s.modCore core fun c => { c with gov := { g' with win := g.win + 1, used := min g.used beyond, late := false, cap := 0 } }
  let set (s : State) (i : Option Nat) (f : Nat → Nat) : State :=
    match i with
    | some i => s.modCtx (keyOf core i) fun c => { c with pitch := { c.pitch with core := f c.pitch.core } }
    | none => s
  set (set s down (· + 1)) up (· - 1)

/-- Quiet windows of a governor without owners. -/
def Governor.idle (g : Governor) (now : Nat) : Governor :=
  if now / 2048 ≤ g.win then g
  else { g with win := now / 2048, quiet := min 3 (g.quiet + (now / 2048 - g.win)), used := 0, late := false, cap := 0 }
/-- Contexts of a plain's cores that are not Free. -/
def State.plainOwners (s : State) (pl : Nat) : List Nat := s.ctxKeys.filter fun k => plainOf (coreOf k) = pl && !isMgmt k && (s.ctx k).status != .free
/-- The plain's resources have something to deliver, or an owner is bound to it: its windows end (R329, R333). -/
def State.plainBusy (s : State) (pl : Nat) : Bool := s.plainOwners pl != [] || s.traffic.any fun t => t.plain == pl
/-- The governor's windows that end by a time have ended: a k-tile that begins then takes what they decided (R78). -/
def State.windowsOver (s : State) (core t : Nat) : Bool :=
  (s.bound core == [] || decide (t < ((s.core core).gov.win + 1) * 2048)) &&
    (!s.plainBusy (plainOf core) || decide (t < ((vget s.plains (plainOf core) Governor.resetPlain).win + 1) * 2048))
/-- The windows of an unused core have passed. -/
def State.rollCore (s : State) (core : Nat) : State :=
  let s := s.rollEnergy core
  let s := if (s.bound core) = [] then
      let s := if (s.core core).gov.win < s.now / 2048 then s.coreWindow core else s
      s.modCore core fun c => { c with gov := c.gov.idle s.now }
    else s
  let pl := plainOf core
  if !s.plainBusy pl then { s with plains := vset s.plains pl ((vget s.plains pl Governor.resetPlain).idle s.now) } else s

/-- A bandwidth breach of an owner at a resource (R333, R334). -/
def State.breachBandwidth (s : State) (k res short win : Nat) : State :=
  (s.meter (s.ctx k).part 7 1).postQ k 2
    (element 0x30 (2 ^ 55 + res * 2 ^ 52 + min (short / 256) 0xFFFFFF * 2 ^ 24 + win % 2 ^ 24))
/-- Serve wishes in order until the capacity is spent: the owner, what it has got, and what is left. -/
def serveIn (wish : Nat → Nat) : List Nat → Nat → List (Nat × Nat) × Nat
  | [], c => ([], c)
  | k :: r, c =>
    let g := min (wish k) c
    let (l, d) := serveIn wish r (c - g)
    ((k, g) :: l, d)
/-- The service of one resource in a window (R331): deterministic owners up to their share, the others up to theirs scaled by the
rate, then the rest by rank. DESIGN CHOICE: within each of the three, by ascending handle. -/
def State.serve (s : State) (cap full : Nat) (need : Nat → Nat) (owners : List Nat) : Nat → Nat :=
  let c (k : Nat) : Ctx := s.ctx k
  let share (k : Nat) : Nat := (c k).pitch.bwg * 256
  let (a, left) := serveIn (fun k => min (need k) (share k)) (owners.filter fun k => (c k).regs.sys.dmode) cap
  let (b, left) := serveIn (fun k => min (need k) (share k * cap / max 1 full)) (owners.filter fun k => !(c k).regs.sys.dmode) left
  let got (l : List (Nat × Nat)) (k : Nat) : Nat := ((l.find? fun x => x.1 = k).map Prod.snd).getD 0
  let byRank := (List.range 8).reverse.flatMap fun r => owners.filter fun k => (c k).pitch.rank = r
  let (d, _) := serveIn (fun k => need k - got a k - got b k) byRank left
  fun k => got a k + got b k + got d k
/-- One window of a plain governor ends (R329-R331, R333). What is not served waits for the next. -/
def State.plainWindow (s : State) (pl : Nat) : State :=
  let g := vget s.plains pl Governor.resetPlain
  let use (r : Nat) : List Traffic := s.traffic.filter fun t => t.plain == pl && t.res == r
  let demand (r : Nat) : Nat := (use r).foldl (fun n t => n + t.asked) 0
  let cap (r : Nat) : Nat := s.capacityIn pl r g.win
  let isOver (r : Nat) : Bool := decide (cap r < demand r)
  let need (r k : Nat) : Nat := (use r).foldl (fun n t => if t.owner = k then n + t.asked + t.waiting else n) 0
  let owners (r : Nat) : List Nat := s.ctxKeys.filter fun k => (use r).any fun t => t.owner == k
  let served (r : Nat) : Nat → Nat := s.serve (cap r) (s.capacity pl r).2 (need r) (owners r)
  let breaches := (List.range 4).flatMap fun r => (owners r).filterMap fun k =>
    let short := min (need r k) ((s.ctx k).pitch.bwg * 256) - served r k
    if 0 < short ∧ (s.ctx k).status ≠ .free then some (k, r, short) else none
  let exceeded := (List.range 4).any isOver || breaches != []
  let quiet := breaches == [] && (List.range 4).all fun r => decide (10 * demand r < 9 * cap r) || demand r == 0
  let cand := (s.plainOwners pl).filterMap fun k =>
    let c := s.ctx k
    if c.pitch.relief ∧ c.pitch.plain < c.pitch.floor ∧ !c.regs.sys.dmode ∧
        (List.range 4).any (fun r => isOver r && (use r).any fun t => t.owner == k && decide (0 < t.asked)) then
      some (c.pitch.rank, k) else none
  let (g', down, up) := g.tick exceeded quiet cand
  let s' := breaches.foldl (fun s b => s.breachBandwidth b.1 b.2.1 b.2.2 g.win) s
  let s' : State := { s' with
    plains := vset s'.plains pl { g' with win := g.win + 1 }, rates := s.rates.filter (fun x => !(x.1 == pl && decide (x.2.2.1 ≤ g.win))),
    traffic := s.traffic.filterMap fun t =>
      if t.plain ≠ pl then some t
      else
        let left := need t.res t.owner - served t.res t.owner
        if left = 0 then none else some { t with asked := 0, waiting := left } }
  let set (s : State) (i : Option Nat) (f : Nat → Nat) : State :=
    match i with
    | some k => s.modCtx k fun c => { c with pitch := { c.pitch with plain := f c.pitch.plain } }
    | none => s
  set (set s' down (· + 1)) up (· - 1)

end Sys2Proof.Machine
end

