-- ==== Sys2Proof/Machine/EventsEngine.lean ====
section
/-!
DEFINITION. Machine/EventsEngine.lean: the steps of the engines: COMMAND_START (R202), KTILE_INTAKE (R77, R211), ACCUMULATOR_ROW_FINAL
(R211, R216, R323) and COMMAND_PERFORM (R200).
-/
namespace Sys2Proof.Machine

/-! Starting (R202). -/
inductive Resource where
  | array | tilePort | accPort | engine
deriving DecidableEq, Repr
def CmdOp.resource : CmdOp → Resource
  | .mul _ => .array
  | .mldt _ _ _ _ => .tilePort | .mstz _ _ _ => .tilePort | .mtr _ _ _ => .tilePort | .mcvt _ _ _ _ _ => .tilePort
  | .copy _ => .engine
  | _ => .accPort
/-- Commands of an engine of a core, with the contexts that issued them. Those of a context that has become Free go on. -/
def State.engineCmds (s : State) (core : Nat) (e : Fin 3) : List (Nat × Cmd) :=
  ((List.range (ctxCount core)).map (keyOf core)).flatMap fun k => ((s.ctx k).cmds.filter fun m => m.eng = e).map fun m => (k, m)
/-- The command stands behind a suspended command or fence or wait of its own context (R245, R248). -/
def Ctx.heldBehind (c : Ctx) (m : Cmd) : Bool :=
  c.cmds.any fun w => w.eng = m.eng && decide (w.order < m.order) && (w.susp.isSome ||
    match w.copy? with | some x => x.op.noMove | none => false)
/-- A started command that still holds its resource. -/
def State.holds (s : State) (m : Cmd) (r : Resource) : Bool :=
  m.start.isSome && m.op.resource = r && match m.copy? with
    | some c => m.susp.isNone && decide (m.done < s.batches c)
    | none => r != .array
/-- The command is next and its resource is free (R202) but for the array's intake at hand. -/
def State.couldStart (s : State) (k : Nat) (m : Cmd) : Bool :=
  let core := coreOf k
  let all := s.engineCmds core m.eng
  m.start.isNone && m.susp.isNone && m.hop.isNone && !(s.ctx k).heldBehind m &&
    decide (m.issued ≤ s.now) &&
    (all.all fun x => decide (m.order ≤ x.2.order) || x.2.start.isSome || x.2.susp.isSome || (s.ctx x.1).heldBehind x.2) &&
    (match m.op.resource with
     | .array => all.all fun x => !(x.2.start.isSome && x.2.op.resource = .array && match x.2.op with | .mul y => decide (x.2.done < y.steps.length) | _ => false)
     | .accPort => (all.all fun x => !s.holds x.2 .accPort) &&
         (s.ctx k).cmds.all fun w => !(decide (w.order < m.order) && w.writesZ.isSome && w.writesZ = m.writesZ)
     | r => all.all fun x => !s.holds x.2 r)
/-- When the array is free for it. -/
def State.freeAt (s : State) (core : Nat) (m : Cmd) : Nat := if m.op.resource = .array then (s.core core).free[0] else 0
/-- The command may start now; it does at the next edge of its engine. -/
def State.mayStart (s : State) (k : Nat) (m : Cmd) : Bool := s.couldStart k m && decide (s.freeAt (coreOf k) m ≤ s.now)

/-! Commands of the accumulator port take effect at their start; their result is seen when they perform. -/
def Accum.lanesMap (z : Accum) (f : Nat → Nat → Nat) : Accum :=
  { z with rows := z.rows.map fun r => BitVec.ofNat 2048 (vlanes fun j => f j (lane r.toNat j)), valid := false }
def flipBit (v bit : Nat) : Nat := v ^^^ 2 ^ bit
/-- MFIX (R218). -/
def fixAccum (z : Accum) (v : VReg) (rows cols : Nat) : Accum :=
  let i := lane v.toNat 3
  let j := lane v.toNat 4
  if lane v.toNat 0 = 1 ∧ i < rows ∧ j < cols then
    let x := rne (exactSum (f32 (lane z.zs.toNat i) :: (((List.range cols).filter (· ≠ j)).map fun q => (zval z i q).neg)))
    { z with rows := vset z.rows i (BitVec.ofNat 2048 (mergeBits (vget z.rows i 0).toNat (x * 2 ^ (32 * j)) ((2 ^ 32 - 1) * 2 ^ (32 * j)))) }
  else z
/-- MINJ (R220). -/
def injAccum (z : Accum) (i j t b : Nat) : Accum :=
  match t with
  | 0 => { z with rows := vset z.rows i (BitVec.ofNat 2048 (flipBit (vget z.rows i 0).toNat (32 * j + b))) }
  | 1 => { z with zs := BitVec.ofNat 2048 (flipBit z.zs.toNat (32 * i + b)) }
  | _ => { z with zc := BitVec.ofNat 2048 (flipBit z.zc.toNat (32 * j + b)) }
/-- MACT (R221). -/
def actElem (fn : Nat) (n : Int) (v : Nat) : Nat :=
  let x := f32 v
  match fn with
  | 0 => if x.isNan || x.isZero || x.sgn then 0 else v
  | 1 => if x.isNan then nan32 else v % 2 ^ 31
  | _ => if x.isNan then nan32 else rne (x.scale n)
def CmdOp.onAccum (op : CmdOp) (z : Accum) : Accum :=
  match op with
  | .mzero _ => Accum.zero
  | .mfix _ v rows cols => fixAccum z v rows cols
  | .minj _ i j t b => injAccum z i.val j.val t b
  | .mbias _ v => z.lanesMap fun j x => fadd32 x (lane v.toNat j)
  | .mact _ fn n => z.lanesMap fun _ x => actElem fn n x
  | _ => z
def State.modZ (s : State) (k : Nat) (z : Fin 4) (f : Accum → Accum) : State :=
  s.modCtx k fun c => c.modDat fun d => { d with z := d.z.set z (f d.z[z]) }
/-- Readers of the latest rows of a writer take them (R216). -/
def State.takeRows (s : State) (k num : Nat) (z : Fin 4) : State :=
  s.modCtx k fun c =>
    let a := c.regs.dat.z[z]
    { c with cmds := c.cmds.map fun r => if r.snap = some num then { r with rows := a.rows.toList, tag := a.tag } else r }
/-- The last row of a writer is final: its readers' bounds run from now on (R216). -/
def State.freeReaders (s : State) (k num : Nat) : State :=
  let d := (s.core (coreOf k)).div[(3 : Fin 5)]
  s.modCtx k fun c => { c with cmds := c.cmds.map fun r => if r.snap = some num then
    { r with snap := none, due := if r.start.isSome then s.now + r.lat * d else r.due } else r }

/-- A command starts (R202). Each row of MSTZ, MCVT, MBIAS and MACT is charged in the window in which it begins (R447). DEDUCED: the rows begin
one in each matrix cycle from the start on, those of a reader as they become final (log 29). -/
def execCommandStart (k i : Nat) (s : State) : Out :=
  occur s fun s => do
    let m ← (s.ctx k).cmds[i]?
    if !s.mayStart k m || (s.core (coreOf k)).edge (cmdClass m.eng) s.now != s.now then none
    else
      let core := coreOf k
      let cls := cmdClass m.eng
      let d := (s.core core).div[cls]
      let s := s.settleOwn k m.seqAt
      match m.op with
      | .copy c =>
        let (lat, bound) := s.copyBound k m c
        let due := s.now + bound * d
        some (s.modCmd k i fun m => { m with start := some s.now, lat := lat, final := bound, due := due, limit := m.limit.or (some due), lastLand := s.now })
      | .mul x =>
        let s := if x.clr ∧ x.steps.isEmpty then s.modZ k x.k fun _ => Accum.zero else s
        let first := s.now + m.lat * d
        let bound := m.lat + 72 + x.steps.length * intakeCycles (rungOf x.code x.fmt) + b2n x.chk * 8
        let s := s.modCmd k i fun m => { m with start := some s.now, due := s.now + bound * d, lastLand := first }
        let s := s.modCore core fun c => { c with free := c.free.set 0 first }
        some (if x.steps.isEmpty then s.takeRows k m.num x.k else s)
      | op =>
        let s := s.modCmd k i fun m => { m with start := some s.now, due := s.now + m.lat * d }
        let p := (s.ctx k).part
        match m.writesZ with
        | some z =>
          let s := (s.modZ k z op.onAccum).takeRows k m.num z
          some (match op with | .mbias _ _ => s.chargeRows core p 64 | .mact _ _ _ => s.chargeRows core p 64 | _ => s)
        | none =>
          let ready := match m.snap with
            | none => 64
            | some n => (((s.ctx k).cmds.find? fun w => w.eng = m.eng && w.num = n).map (·.final)).getD 64
          some (match op with | .mstz _ _ _ => s.chargeRows core p ready | .mcvt _ _ _ _ _ => s.chargeRows core p ready | _ => s)

/-! The k-tile (R77, R211-R213, R219, R223, R337). -/
def MOpnd.at (o : MOpnd) (n : Int) : MOpnd := match o with | .mem p => .mem (p.shift n) | x => x
/-- The matrix engine consumed marked data of these units (R375). -/
def State.engineError (s : State) (k : Nat) (units : List Nat) : State :=
  let s := units.foldl (fun s u => s.addScore u 256) s
  if units.isEmpty then s
  else (if (s.ctx k).seg.isSome then s.modCtx k fun c => { c with rolling := true } else s.pend k 24).settleScores
def State.intake (s : State) (k i : Nat) (m : Cmd) (x : MulCmd) (st : Int × Int) (bad : Bool) : State :=
  let core := coreOf k
  let c := s.ctx k
  let g := c.pitch.cur
  let r := rungOf x.code x.fmt
  let l := vget c.pitch.ladder g ⟨10, 0⟩
  let cyc := intakeCycles (max g r)
  let d := (s.core core).div[(3 : Fin 5)]
  let s := if m.done = 0 ∧ x.clr then s.modZ k x.k fun _ => Accum.zero else s
  let a := x.a.at st.1
  let b := x.b.at st.2
  let code := if r < g then (reliefCode c.pitch x.code).getD x.code else x.code
  let conv (rows : List (List FVal)) : List (List FVal) := if r < g ∧ code = x.code then rows.map (narrowRow l) else rows
  let A := conv (s.operandRows k a code x.fmt)
  let B := conv (s.operandRows k b code x.fmt)
  let err := s.operandPoison k a code x.fmt ++ s.operandPoison k b code x.fmt
  let s := s.modZ k x.k fun z =>
    let z := if x.chk then addChecks z x.rows x.cols A B else { z with valid := false }
    let z := addTile z x.rows x.cols A B
    { z with tag := tagAfter z.tag g r c.pitch.ceil }
  let s := s.meter c.part (if r < g then 0x100 + 16 * g + l.code else 0x100 + 16 * r + x.code) (x.rows * x.cols * 64)
  let s := if c.pitch.ceil < g then s.meter c.part 6 1 else s
  let t := c.regs.dat.trace
  let s := if t.cursor < t.cap then
      (s.padWrite k (t.base + t.cursor) 1 (g + 4 * x.k.val)).modCtx k fun c => c.modDat fun y => { y with trace := { t with cursor := t.cursor + 1 } }
    else s
  let fin := m.lastLand + cyc * d
  let s := (s.charge core c.part (intakeCharge g)).modCore core fun y => { y with free := y.free.set 0 fin, gov := { y.gov with used := y.gov.used + cyc } }
  let hit := bad && x.mirror && (decide (x.rows ≤ 32) || decide (x.cols ≤ 32)) && !m.bad
  let s := s.modCmd k i fun m => { m with done := m.done + 1, lastLand := fin, bad := m.bad || hit }
  let s := if m.done + 1 = x.steps.length then s.takeRows k m.num x.k else s
  let s := s.engineError k err
  if hit then
    let s := (s.addScore (coreUnit core) 64).settleScores
    if (s.ctx k).seg.isSome then s.modCtx k fun c => { c with rolling := true } else s.modCmd k i fun m => { m with sent := true }
  else s
/-- The unit whose scratchpad a range begins in. -/
def State.padUnit (s : State) (k a : Nat) : Nat := (((s.padRuns k a 1 1).getD []).head?).elim (coreUnit (coreOf k)) fun x => holderUnit x.1
/-- The unit that held an operand: of a tile the core. -/
def State.operandUnit (s : State) (k : Nat) (o : MOpnd) : Nat :=
  match o with
  | .mem p => s.padUnit k p.base
  | _ => coreUnit (coreOf k)
/-- A corrected error of an operand scores for the unit that held it (R407). -/
def State.corrected (s : State) (u : Nat) : State := (s.addScore u 1).settleScores
def execKtileIntake (k i : Nat) (t : Intake) (s : State) : Out :=
  occur s fun s => do
    let m ← (s.ctx k).cmds[i]?
    match m.op with
    | .mul x =>
      let st ← x.steps[m.done]?
      if m.start.isSome ∧ m.lastLand ≤ s.now ∧ s.windowsOver (coreOf k) m.lastLand then
        let s := s.intake k i m x st t.bad
        some (match t.ecc with
          | some right => s.corrected (s.operandUnit k (if right then x.b.at st.2 else x.a.at st.1))
          | none => s)
      else none
    | _ => none

/-! Rows (R211, R216, R323). -/
/-- When n matrix cycles from the last intake on have passed (R211). -/
def Cmd.afterIntake (m : Cmd) (n d : Nat) : Nat := m.lastLand + (n - m.gone) * d
/-- The command has a deadline that holds its rows: it is on time, and its owner is not in deterministic operation (R335). -/
def State.onTime (s : State) (k : Nat) (m : Cmd) : Option Nat :=
  match m.limit with
  | some D => if !(s.ctx k).regs.sys.dmode ∧ m.afterIntake 72 (s.core (coreOf k)).div[(3 : Fin 5)] ≤ D then some D else none
  | none => none
/-- When row `m.final` becomes final: the first and the last cycle. -/
def State.rowTime (s : State) (k : Nat) (m : Cmd) : Nat × Nat :=
  let d := (s.core (coreOf k)).div[(3 : Fin 5)]
  match s.onTime k m with
  | some D => (D - 64 * d + m.final * d, D - 64 * d + m.final * d)
  | none => (if (s.ctx k).exact ∨ m.limit.isSome then m.afterIntake (8 + m.final) d else m.lastLand, m.afterIntake (8 + m.final) d)
/-- The latest command that writes an accumulator. -/
def Ctx.lastWriter (c : Ctx) (z : Fin 4) : Option Nat := ((c.cmds.filter fun w => w.writesZ = some z).getLast?).map (·.num)
/-- The next row of a row command moves: MLDT and MTR read it (R201), MSTZ writes it (R216). -/
def State.moveRow (s : State) (k i : Nat) (m : Cmd) : State :=
  let took (s : State) (bits : Nat) (bad : List Nat) : State :=
    let bad := if m.bad then [] else bad
    (s.modCmd k i fun m => { m with
      done := m.done + 1, rows := m.rows ++ [BitVec.ofNat 2048 bits], bad := m.bad || !bad.isEmpty, hold := if m.done = 63 then [] else m.hold }).engineError k bad
  match m.op with
  | .mldt _ code fmt p => took s (s.padRead k (p.row m.done) (rowBytes code fmt)) (s.padPoison k (p.row m.done) (rowBytes code fmt))
  | .mtr _ a c =>
    let code := if c = 2 then 10 else 8
    took s (tileRow (s.ctx k).regs.dat.t a code m.done) (s.operandPoison k (.tile a) code 0)
  | .mstz _ p _ => (if m.bad then s else s.padWrite k (p.row m.done) 256 (m.rows.getD m.done 0).toNat).modCmd k i fun m => { m with done := m.done + 1 }
  | _ => s
/-- Up to n more rows. -/
def State.moveRows (s : State) (k i : Nat) : Nat → State
  | 0 => s
  | n + 1 => match (s.ctx k).cmds[i]? with
    | some m => if m.done < 64 then State.moveRows (s.moveRow k i m) k i n else s
    | none => s
/-- The next row of a row command may move: MSTZ waits until its row is final (R216). -/
def Ctx.rowReady (c : Ctx) (m : Cmd) : Bool :=
  match m.op with
  | .mldt _ _ _ _ => true
  | .mtr _ _ _ => true
  | .mstz _ _ _ => match m.snap with
    | none => true
    | some n => c.cmds.any fun w => w.eng = m.eng && w.num = n && decide (m.done < w.final)
  | _ => false
/-- A row that an MSTZ of a pair writes differs between its cores (R392): neither it nor the rows of later commands perform, and the pair rolls
back or dies. -/
def State.rowMismatch (s : State) (k : Nat) (m : Cmd) : State :=
  let s := (s.addScore (coreUnit (coreOf k)) 64).addScore (coreUnit (coreOf k + 1)) 64
  let s := s.modCtx k fun c => { c with cmds := c.cmds.map fun w => if w.eng = m.eng ∧ m.num ≤ w.num then
    (match w.op with | .mstz _ _ _ => { w with bad := true } | _ => w) else w }
  ((if (s.ctx k).seg.isSome then s.modCtx k fun c => { c with rolling := true } else s.killCtx k 27).mirror k).settleScores
/-- A row becomes final and the watermark advances (R211, R216, R323), or the next row of a row command moves (R201). In deterministic
operation a row command moves its rows when it performs. The rows of a pair's MSTZ are compared as they become final (R391). -/
def execAccumulatorRowFinal (k : Nat) (r : RowFinal) (s : State) : Out :=
  occur s fun s => do
    let i := r.cmd
    let m ← (s.ctx k).cmds[i]?
    match m.op with
    | .mul x =>
      if m.start.isSome ∧ x.steps.length ≤ m.done ∧ m.final < 64 ∧ (s.rowTime k m).1 ≤ s.now then
        let f := if x.rows ≤ m.final + 1 then 64 else m.final + 1
        let s := s.modCmd k i fun m => { m with final := f }
        let s := s.modCtx k fun c => { c with finals := c.finals ++ [(x.k, m.final, f, s.now)] }
        let waiting := (s.ctx k).cmds.filter fun r => r.snap = some m.num && r.start.isSome
        let s := s.chargeRows (coreOf k) (s.ctx k).part ((f - m.final) * waiting.length)
        let s := if (s.ctx k).lastWriter x.k = some m.num then s.modCtx k fun c => { c with wz := c.wz.set x.k f } else s
        some (if f = 64 then s.freeReaders k m.num else s)
      else none
    | .mstz _ _ _ =>
      if !(m.start.isSome && decide (m.done < 64) && (s.ctx k).rowReady m) then none
      else if r.differs && (s.ctx k).regs.sys.rmode.getLsbD 0 then (if m.bad then none else some (s.rowMismatch k m))
      else if (s.ctx k).exact then none else some (s.moveRow k i m)
    | .mldt _ _ _ p =>
      if m.start.isSome && decide (m.done < 64) && !(s.ctx k).exact then
        (let s := s.moveRow k i m; some (if r.ecc then s.corrected (s.padUnit k (p.row m.done)) else s))
      else none
    | _ => if m.start.isSome && decide (m.done < 64) && (s.ctx k).rowReady m && !(s.ctx k).exact then some (s.moveRow k i m) else none

/-! Performing (R200). -/
/-- A multiplying command: when it performs, and what a late one brings about (R211, R323, R332). -/
def State.mulTime (s : State) (k : Nat) (m : Cmd) (x : MulCmd) : Nat × Nat :=
  let d := (s.core (coreOf k)).div[(3 : Fin 5)]
  let t := m.afterIntake (72 + b2n x.chk * 8) d
  match s.onTime k m with
  | some D => (D, D)
  | none => (if (s.ctx k).exact ∨ m.limit.isSome then t else m.lastLand, t)
def State.breachLatency (s : State) (k : Nat) (m : Cmd) : State :=
  match m.limit with
  | some D =>
    if D < s.now then
      let d := (s.core (coreOf k)).div[(3 : Fin 5)]
      let s := s.meter (s.ctx k).part 7 1
      let s := s.modCore (coreOf k) fun c => { c with gov := { c.gov with late := c.gov.late || decide (c.gov.win * 2048 ≤ D) } }
      s.postQ k 2 (element 0x30 (min (m.lateCycles d s.now) 0xFFFFFF * 2 ^ 24 + m.num % 2 ^ 24))
    else s
  | none => s
/-- MTR: the transpose of a tile's elements of w bits (R214). -/
def transposed (f : Nat → Nat → Nat) (w row : Nat) : Nat := (List.range 64).foldl (fun v q => v + f q row % 2 ^ w * 2 ^ (w * q)) 0
def transposeRows (c : Nat) (rows : List VReg) : List Nat :=
  let w := match c with | 0 => 16 | 1 => 8 | _ => 32
  (List.range 64).map fun row => transposed (fun p q => bitsOf (rows.getD p 0).toNat (w * q) w) w row
/-- All the rows of tile i, or of the pair: whatever marks it held are gone (R375). -/
def State.fillTile (s : State) (k : Nat) (i : Fin 8) (code : Nat) (rows : List Nat) : State :=
  s.modCtx k fun c =>
    ({ c with marks := c.marks.filter fun x => !(x = i.val || (code = 10 && x = i.val + 1)) } : Ctx).modDat fun d =>
      { d with t := (List.zip (List.range 64) rows).foldl (fun t x => setTileRow t i code x.1 x.2) d.t }
/-- A row of an accumulator in a tile format (R216). -/
def cvtRow (code : Nat) (fmt : BitVec 32) (r : Rnd) (row : Nat) : Nat :=
  let c := container (opWidth code fmt)
  (List.range 64).foldl (fun v q => v + (codeWrite code fmt (f32 (lane row q)) r).1 * 2 ^ elemBit' c q) 0
where
  elemBit' (c q : Nat) : Nat := if c < 8 then elemBit c q else c * q
/-- What a matrix command does when it performs, the rows that have not moved among it; none while it may not. -/
def State.matrixPerform (s : State) (k i : Nat) (m : Cmd) : Option State :=
  let exact := (s.ctx k).exact
  let timely := !exact || decide (m.due ≤ s.now)
  let clear := (s.ctx k).tilesClear s.now m
  let rows (s : State) : List Nat := (((s.ctx k).cmds[i]?.map (·.rows)).getD []).map BitVec.toNat
  match m.op with
  | .mul x =>
    if x.steps.length ≤ m.done ∧ m.final = 64 ∧ (s.mulTime k m x).1 ≤ s.now then
      let s := s.breachLatency k m
      some (if m.sent then s.pend k 26 else s)
    else none
  | .mldt n code _ _ => if timely && clear then (let s := s.moveRows k i 64; some (s.fillTile k n code (rows s))) else none
  | .mstz _ p tag =>
    if timely && m.snap.isNone then
      let s := s.moveRows k i 64
      some (if tag && !m.bad then s.padWrite k p.aux 2 m.tag.toNat else s)
    else none
  | .mtr d _ c =>
    if timely && clear then
      let s := s.moveRows k i 64
      some (s.fillTile k d (if c = 2 then 10 else 8) (transposeRows c (((s.ctx k).cmds[i]?.map (·.rows)).getD [])))
    else none
  | .mcvt d _ r code fmt =>
    if timely && m.snap.isNone && clear then
      some (s.fillTile k d code (m.rows.map fun x => cvtRow code fmt r x.toNat))
    else none
  | .nop => some s
  | .copy _ => none
  | _ =>
    if timely then
      match m.writesZ with
      | some z => some ((if (s.ctx k).lastWriter z = some m.num then
          s.modCtx k fun c => { c with wz := c.wz.set z 64, finals := c.finals ++ [(z, 0, 64, s.now)] } else s).freeReaders k m.num)
      | none => some s
    else none

/-! Collectives (R242, R243). -/
def State.collKey (s : State) (k : Nat) (c : CopyCmd) : (Nat × Nat) × Nat × Nat × Nat :=
  let x := s.ctx k
  ((1, x.node), x.regs.sys.ident[2].toNat, x.idx, c.coll)
def Coll.key (c : Coll) : (Nat × Nat) × Nat × Nat × Nat := (c.group, c.lcore, c.idx, c.seq)
def State.coll (s : State) (key : (Nat × Nat) × Nat × Nat × Nat) : Option Coll := s.colls.find? fun c => c.key = key
def State.setColl (s : State) (c : Coll) : State :=
  { s with colls := c :: s.colls.filter fun x => x.key ≠ c.key }
def CopyCmd.what (c : CopyCmd) : Bool × Bool × Nat × Nat × Nat :=
  match c.op with
  | .callred op det => (false, det, op, Desc.code c.dst, CopyCmd.size c)
  | _ => (true, false, 0, 0, CopyCmd.size c)
/-- Pair up the nodes of a level, left operand first; a lone left child stands for its node (R242). -/
def joinPairs (code op : Nat) : List (List Byte) → List (List Byte)
  | a :: b :: r => combineBytes code op a b :: joinPairs code op r
  | l => l
def treeUp (code op : Nat) (l : List (List Byte)) : Nat → List (List Byte)
  | 0 => l
  | n + 1 => treeUp code op (joinPairs code op l) n
/-- The contributions by rank. -/
def Coll.byRank (c : Coll) : List (List Byte) :=
  (List.range c.want).filterMap fun r => (c.got.find? fun x => x.1 = r).map Prod.snd
def Coll.result (c : Coll) : List Byte :=
  let (_, det, op, code, _) := c.what
  if det then ((treeUp code op c.byRank (clog2 c.want)).head?).getD []
  else match c.got with
    | [] => []
    | x :: r => r.foldl (fun a y => combineBytes code op a y.2) x.2
def Coll.full (c : Coll) : Bool := decide (c.want ≤ c.got.length)
/-- The lowest rank whose digest differs from that of rank 0. -/
def Coll.differs (c : Coll) : Option Nat :=
  match c.byRank with
  | [] => none
  | a :: r => (r.findIdx? (· ≠ a)).map (· + 1)
/-- A participant has performed; the last of them closes the collective. -/
def State.leaveColl (s : State) (c : Coll) (rank : Nat) : State :=
  let c := { c with finished := rank :: c.finished }
  if c.full ∧ c.own.all (fun r => c.finished.contains r) then { s with colls := s.colls.filter fun x => x.key ≠ c.key } else s.setColl c
/-- Every participant of the package is suspended with reason MISMATCH (R242). -/
def State.suspendColl (s : State) (key : (Nat × Nat) × Nat × Nat × Nat) : State :=
  s.ctxKeys.foldl (fun s k => (List.range (s.ctx k).cmds.length).foldl (fun s i =>
    match (s.ctx k).cmds[i]? with
    | some m => match m.copy? with
      | some c => if c.op.isColl && m.susp.isNone && m.start.isSome && s.collKey k c == key
                  then s.suspend k i 7 0 else s
      | none => s
    | none => s) s) s

/-- The own contribution of a collective reaches the combiner once its source has been read (R242); a digest is first
written to its destination (R243). -/
def State.joinColl (s : State) (k i : Nat) (m : Cmd) (c : CopyCmd) : State :=
  let key := s.collKey k c
  let y := (s.ctx k).regs.sys
  let rank := y.ident[6].toNat
  let go (s : State) (data : List Byte) : State :=
    let s := s.modCmd k i fun m => { m with sent := true }
    match s.coll key with
    | none => s.setColl ⟨key.1, key.2.1, key.2.2.1, key.2.2.2, max 1 y.ident[7].toNat, CopyCmd.what c, [(rank, data)], [rank], [], m.taint, false⟩
    | some x =>
      if x.what ≠ CopyCmd.what c ∨ x.bad then (s.setColl { x with bad := true, own := rank :: x.own }).suspendColl key
      else s.setColl { x with got := x.got ++ [(rank, data)], own := rank :: x.own, taint := m.taint ++ x.taint }
  match c.op with
  | .cdigest =>
    let data := bytesOf (crc64 m.data) 8
    match s.walk k m.scope 0 c.dst false .write 0 8 8 with
    | .ok (p, t) => go ((t.putPieces k m.scope p data).markAt p (if m.taint.isEmpty then [] else [0])) data
    | .error e => s.walkStop k i e
  | _ => go s m.data

/-! Copies. -/
/-- The present bit of a pulled page is set and the accesses held on it go on (R384); a deterministic context's copy was late by the
time it was held. DEDUCED: with kind ACCESS of Table 16-2. -/
def State.pulled (s : State) (k : Nat) (c : CopyCmd) : State :=
  let va := Desc.base c.dst
  let page := va / 65536
  let p := s.pullPart k page
  let s := match walkFrom s.mem va levels (s.part p).root with | .pending pk _ => s.writeAt 0 p 3 false pk 8 (s.getN pk 8 ||| 1) | _ => s
  let s := s.modPart p fun x => { x with pages := x.pages.filter fun y => y.1 ≠ page }
  s.ctxKeys.foldl (fun s j => if (s.ctx j).part = p then s.modCtx j fun x =>
    let x := x.cmds.foldl (fun x m => match m.page with | some (g, _, t) => if g = page then x.addLate 0 (s.now - t) else x | none => x) x
    { x with cmds := x.cmds.map fun m =>
      match m.page with | some (g, _, t) => if g = page then { m with page := none, due := m.due + (s.now - t) } else m | none => m } else s) s
/-- What a copy does beyond its batches, when it performs; none while it may not. A digest mismatch is told once to the management
core of the package, which counts it (R353). -/
def State.copyPerform (s : State) (k i : Nat) (m : Cmd) (c : CopyCmd) : Option State :=
  match c.op with
  | .cwait n v => if v ≤ ((s.ctx k).f[n]).toNat then some (s.modCtx k fun x => { x with f := x.f.set n (x.f[n] - BitVec.ofNat 32 v) }) else none
  | .cpost n =>
    match s.pieceOwner k (Desc.base c.dst) with
    | some j => some (s.postFlag j n 1)
    | none => some s
  | .cred _ true => if m.sent then some s else none
  | .callred _ _ =>
    match s.coll (s.collKey k c) with
    | some x =>
      if x.bad then some (s.suspend k i 7 0)
      else if !x.full || !m.sent then none
      else match s.walk k 4 0 c.dst false .write 0 (CopyCmd.size c) (CopyCmd.size c) with
        | .ok (p, t) => some ((((t.putPieces k 4 p x.result).markAt p x.taint).account k p).leaveColl x (s.ctx k).regs.sys.ident[6].toNat)
        | .error e => some (s.walkStop k i e)
    | none => none
  | .cdigest =>
    match s.coll (s.collKey k c) with
    | some x =>
      if x.bad then some (s.suspend k i 7 0)
      else if !x.full || !m.sent then none
      else
        let s := match x.differs with
          | some r =>
            let s := s.postQ k 2 (element 0x12 (r % 65536 * 2 ^ 40 + c.coll % 2 ^ 40))
            if x.finished.isEmpty then (s.answer (.digest (s.ctx k).part)).modPart (s.ctx k).part fun p => { p with digests := p.digests + 1 } else s
          | none => s
        some (s.leaveColl x (s.ctx k).regs.sys.ident[6].toNat)
    | none => none
  | .cpull => some (s.pulled k c)
  | .cfence sc => some (if 3 ≤ sc then s.flushStores k true else s)
  | _ => some s

/-- The command leaves its timeline (R200); a copy leaves its record and a late event (R251, R354). -/
def State.retireCmd (s : State) (k i : Nat) (m : Cmd) : State :=
  match (s.ctx k).cmds[i]? with
  | none => s
  | some x =>
    if x.susp.isSome ∨ x.page.isSome ∨ x.num ≠ m.num ∨ x.eng ≠ m.eng then s
    else
      let s := s.modCtx k fun c => { c with cmds := c.cmds.eraseIdx i }
      match m.copy? with
      | none => s
      | some _ =>
        let s := if (s.ctx k).status = .free then s else s.postQ k 1 (element 0x13 (engBit m.eng * 2 ^ 55 + m.num % 2 ^ 48))
        if m.suspAt = 0 then s else s.modCtx k fun c => c.addLate 4 (s.now - m.limit.getD s.now)
def execCommandPerform (k i : Nat) (s : State) : Out :=
  occur s fun s => do
    let m ← (s.ctx k).cmds[i]?
    if m.start.isNone ∨ m.susp.isSome ∨ ((s.ctx k).cmds.take i).any (fun w => w.eng = m.eng) then none
    else match m.op with
      | .copy c =>
        if (m.done < s.batches c ∧ !(c.op == .cpref && decide (m.due < s.now))) ∨ ((s.ctx k).exact ∧ !(match c.op with | .cwait _ _ => true | _ => false) ∧ s.now < m.due) then none
        else if c.op.isColl && !m.sent then some (s.joinColl k i m c)
        else (s.copyPerform k i m c).map fun s => s.retireCmd k i m
      | _ => (s.matrixPerform k i m).map fun s => s.retireCmd k i m

end Sys2Proof.Machine
end

