-- ==== Sys2Proof/Machine/EventsCopy.lean ====
section
/-!
DEFINITION. Machine/EventsCopy.lean: the steps of copy commands beside their start and perform: COPY_BATCH_LAND (R232, R233, R248),
COPY_TIMEOUT (R202), DET_CONTRIBUTION_ACCEPT (R240), COLLECTIVE_EXCHANGE (R242, R243), SOURCE_FENCED (R252) and
UNREACHABLE_NACK (R438).
-/
namespace Sys2Proof.Machine

/-- When batch b lands in deterministic operation: the batches are spread evenly over the time of the last one. -/
def State.batchTime (s : State) (k : Nat) (m : Cmd) (nb b : Nat) : Nat :=
  let d := (s.core (coreOf k)).div[(4 : Fin 5)]
  m.due - (m.final - (m.lat * (b + 1) + nb - 1) / max 1 nb) * d
/-- Batch b has landed. -/
def Cmd.landedAt (m : Cmd) (b : Nat) : Bool := decide (b < m.done) || m.landed.contains b
def skipLanded (done : Nat) (l : List Nat) : Nat → Nat × List Nat
  | 0 => (done, l)
  | n + 1 => if l.contains done then skipLanded (done + 1) (l.filter (· ≠ done)) n else (done, l)
def Cmd.land (m : Cmd) (b now : Nat) : Cmd :=
  let x := if b = m.done then skipLanded (m.done + 1) m.landed m.landed.length else (m.done, b :: m.landed)
  { m with done := x.1, landed := x.2, lastLand := now,
           due := m.due + (match m.page with | some (_, _, t) => now - t | none => 0), page := none }

/-! Messages to other packages (R435-R437). -/
/-- LCRC: over header bits 63:16 and the payload. -/
def flitCrc (v : Nat) : Nat := crc16 (bytesOf (bitsOf v 16 48) 6 ++ bytesOf (bitsOf v 64 448) 56)
/-- A flit of a request or of data, with its header (Table 25-3). -/
def mkFlit (dst src type seq payload : Nat) (last : Bool) : BitVec 512 :=
  let v := payload % 2 ^ 448 * 2 ^ 64 + dst % 2 ^ 14 * 2 ^ 50 + src % 2 ^ 14 * 2 ^ 36 + type * 2 ^ 31 + b2n last * 2 ^ 30 + seq % 256 * 2 ^ 16
  BitVec.ofNat 512 (v + flitCrc v)
/-- Message `idx` of a command leaves by its port and stays in the replay buffer. DESIGN CHOICE: a batch is one message of two flits; what they
hold before the CRC-32 is a free value, for the spec gives no layout (log 32). -/
def State.sendMessage (s : State) (dst type idx : Nat) : State :=
  let live := (List.finRange 18).filter s.portLive
  let start := (s.fabric + dst) % 18
  let order := live.filter (fun i => decide (start ≤ i.val)) ++ live.filter (fun i => decide (i.val < start))
  match order[idx % order.length]? with
  | none => s
  | some i =>
    let (x, s) := s.free
    let p := s.ports[i]
    let body := bytesOf x 108
    let all := ofBytes body + crc32 body * 2 ^ 864
    let l := p.replay ++ [mkFlit dst s.fabric type p.tx all false, mkFlit dst s.fabric type (p.tx + 1) (all / 2 ^ 448) true]
    { s with ports := s.ports.set i { p with tx := (p.tx + 2) % 256, replay := l.drop (l.length - 256) } }
/-- Where byte o of a stream lies, as far as it translates. -/
def State.streamKey (s : State) (k : Nat) (m : Cmd) (d : Desc) (ix : Bool) (o : Nat) : Option (Nat × Bool) :=
  match s.streamAt k m.scope 0 d ix o with
  | .ok (va, _) => match s.locate k va .probe with | .ok key uc _ => some (key, uc) | _ => none
  | .error _ => none
/-- The messages of a batch to peers: a read request for its source, or data for its destination. -/
def State.sendBatch (s : State) (k : Nat) (m : Cmd) (c : CopyCmd) (b : Nat) : State :=
  let go (s : State) (key : Option (Nat × Bool)) (type : Nat) : State :=
    match key with
    | some (q, _) => if 3 ≤ spaceOf q ∧ !isPad q then s.sendMessage (spaceOf q - 3) type b else s
    | none => s
  match c.op with
  | .cpull => if Desc.node c.src % 2 ^ 14 = s.fabric then s else s.sendMessage (Desc.node c.src % 2 ^ 14) 1 b
  | _ =>
    let s := go s (s.streamKey k m c.src (match c.op with | .cgath => true | _ => false) (64 * b)) 1
    go s (s.streamKey k m c.dst (match c.op with | .cscat => true | _ => false) (64 * b)) 0
/-- A corrected error in a byte that a batch read scores for the unit that held it, or for the core beside the home slice (R407). -/
def State.correctBatch (s : State) (k : Nat) (m : Cmd) (c : CopyCmd) (b : BatchLand) : State :=
  match b.ecc with
  | none => s
  | some (o, slice) => match s.streamKey k m c.src (match c.op with | .cgath => true | _ => false) (64 * b.num + o) with
    | some (key, uc) => s.corrected (if slice ∧ cachable key uc then coreUnit (sliceCore key) else holderUnit key)
    | none => s

/-- A batch of up to 64 bytes lands (R232). -/
def execCopyBatchLand (k i : Nat) (w : BatchLand) (s : State) : Out :=
  occur s fun s => do
    let b := w.num
    let m ← (s.ctx k).cmds[i]?
    let c ← m.copy?
    let nb := s.batches c
    if m.start.isNone || m.susp.isSome || decide (s.passed m c ≤ b) || m.landedAt b || (c.op.ordered || (s.ctx k).exact) && b != m.done ||
       ((s.ctx k).exact && decide (s.now < s.batchTime k m nb b)) || (m.page.isNone && decide (m.due < s.now)) ||
       !(s.ctx k).tilesClear s.now m then none
    else match s.moveBatch k i m c b with
      | .error e => some (s.walkStop k i e)
      | .ok ((), t) =>
        let (o, n) := s.batchBytes k m c b
        let s := match m.page with | some (_, _, since) => t.modCtx k fun x => x.addLate 0 (s.now - since) | none => t
        let s := s.modCmd k i fun m =>
          if o + n < min (64 * b + 64) (CopyCmd.size c) then { m with split := (b, o + n - 64 * b) :: m.split.filter (·.1 ≠ b), lastLand := s.now }
          else { m with split := m.split.filter (·.1 ≠ b) }.land b s.now
        let s := (s.sendBatch k m c b).correctBatch k m c w
        match (s.ctx k).cmds[i]? with
        | some m => if c.op.isColl && decide (nb ≤ m.done) then some (s.joinColl k i m c) else some s
        | none => some s

/-- A copy command past its bound is suspended (R202), but a CPREF, which raises nothing (R237), a DET contribution not accepted with reason CAPACITY (R240). -/
def execCopyTimeout (k i : Nat) (s : State) : Out :=
  occur s fun s => do
    let m ← (s.ctx k).cmds[i]?
    let c ← m.copy?
    if m.start.isNone || m.susp.isSome || c.op.noMove || c.op == .cpref || m.page.isSome || (m.hop.isSome && decide (m.done < s.batches c)) || decide (s.now ≤ m.due) then none
    else
      let full := (match c.op with | .cred _ true => true | _ => false) && decide (s.batches c ≤ m.done) && !m.sent
      some (s.suspend k i (if full then 8 else 5) 0)

/-! The reduction store (R240). -/
def rangesMeet (a b : List (Nat × Nat)) : Bool := a.any fun x => b.any fun y => decide (x.1 < y.1 + y.2) && decide (y.1 < x.1 + x.2)
/-- Leaves of a node. -/
def leafLo (lvl key : Nat) : Nat := key * 2 ^ lvl
def nodesMeet (a b : Nat × Nat) : Bool := decide (leafLo a.1 a.2 < leafLo b.1 (b.2 + 1)) && decide (leafLo b.1 b.2 < leafLo a.1 (a.2 + 1))
/-- A node joins the tree and combines with its sibling as far as it can. -/
def joinNode (code op : Nat) (l : List (Nat × Nat × List Byte)) (lvl key : Nat) (data : List Byte) : Nat → List (Nat × Nat × List Byte)
  | 0 => (lvl, key, data) :: l
  | n + 1 =>
    let sib := if key % 2 = 0 then key + 1 else key - 1
    match l.find? fun x => x.1 = lvl && x.2.1 = sib with
    | none => (lvl, key, data) :: l
    | some x =>
      let d := if key % 2 = 0 then combineBytes code op data x.2.2 else combineBytes code op x.2.2 data
      joinNode code op (l.filter fun y => !(y.1 = lvl && y.2.1 = sib)) (lvl + 1) (key / 2) d n
/-- Runs of memory, adjacent ones joined: two walks over one range have one key (R240). -/
def joinRuns : List (Nat × Nat) → List (Nat × Nat)
  | [] => []
  | a :: r => match joinRuns r with
    | b :: l => if a.1 + a.2 = b.1 then (a.1, a.2 + b.2) :: l else a :: b :: l
    | [] => [a]
/-- The store that holds a reduction: of the home plain, or of a plain of the peer package that holds the destination (R240). -/
def storeOf (key : Nat) : Nat :=
  let sp := spaceOf key
  if 3 ≤ sp ∧ sp < 20000 then 4 * sp + addrOf key / 65536 % 8 / 2 else homePlain key
/-- A contribution enters the reduction store or completes its tree (R240). DESIGN CHOICE: the store is that of the home of the destination's
first byte, though its lines may have several homes (log 33). -/
def execDetContributionAccept (k i : Nat) (s : State) : Out :=
  occur s fun s => do
    let m ← (s.ctx k).cmds[i]?
    let c ← m.copy?
    match c.op with
    | .cred op true =>
      if m.start.isNone ∨ m.susp.isSome ∨ m.sent ∨ m.done < s.batches c ∨ ((s.ctx k).exact ∧ s.now < m.due) then none
      else
        let n := CopyCmd.size c
        match s.walk k m.scope 0 c.dst false .write 0 n n with
        | .error e => some (s.walkStop k i e)
        | .ok (p, s) =>
          let keys := joinRuns (p.map fun x => (x.key, x.len))
          match p.find? fun x => x.va % elemBytes (Desc.code c.dst) != 0 with
          | some x => some (s.suspend k i 3 x.va)
          | none =>
          let v := Desc.node c.dst
          let log := nodeLog v
          let code := Desc.code c.dst
          let home := storeOf ((keys.head?.map Prod.fst).getD 0)
          let store := s.reds.filter fun r => r.home == home
          let held := store.foldl (fun a r => r.nodes.foldl (fun a x => a + x.2.2.length) a) 0
          match s.reds.find? fun r => rangesMeet r.keys keys with
          | some r =>
            if r.keys ≠ keys ∨ r.log ≠ log ∨ r.code ≠ code ∨ r.op ≠ op then some (s.suspend k i 7 0)
            else if r.nodes.any fun x => nodesMeet (x.1, x.2.1) (nodeLvl v, nodeKey v) then some (s.suspend k i 6 0)
            else if 2 ^ 24 < held + n then none
            else
              let l := joinNode code op r.nodes (nodeLvl v) (nodeKey v) m.data (log + 1)
              let rest := s.reds.filter (· ≠ r)
              let s := s.modCmd k i fun m => { m with sent := true }
              match l.find? fun x => x.1 = log with
              | some x => some ((({ s with reds := rest } : State).putPieces k m.scope p x.2.2).markAt p (m.taint ++ r.taint))
              | none => some { s with reds := { r with nodes := l, taint := m.taint ++ r.taint } :: rest }
          | none =>
            if 256 ≤ store.length ∨ 2 ^ 24 < held + n then none
            else
              let s := s.modCmd k i fun m => { m with sent := true }
              if nodeLvl v = log then some ((s.putPieces k m.scope p m.data).markAt p m.taint)
              else some { s with reds := ⟨c.dst, keys, (s.ctx k).part, log, code, op, m.scope, [(nodeLvl v, nodeKey v, m.data)], m.taint, home⟩ :: s.reds }
    | _ => none

/-- A peer's contribution or digest arrives at the combiner of command i's collective (R242). -/
def execCollectiveExchange (k i : Nat) (peer : Peer) (s : State) : Out :=
  occur s fun s => do
    let m ← (s.ctx k).cmds[i]?
    let c ← m.copy?
    let y := (s.ctx k).regs.sys
    let want := max 1 y.ident[7].toNat
    if m.start.isNone ∨ !c.op.isColl ∨ (s.node (s.ctx k).node).group = 0 ∨ want ≤ peer.rank then none
    else
      let key := s.collKey k c
      let what := if peer.digest then (true, false, 0, 0, peer.len) else (false, peer.det, peer.op, peer.code, peer.len)
      match s.coll key with
      | none =>
        if what ≠ CopyCmd.what c then some ((s.setColl ⟨key.1, key.2.1, key.2.2.1, key.2.2.2, want, CopyCmd.what c, [], [], [], [], true⟩).suspendColl key)
        else some (s.setColl ⟨key.1, key.2.1, key.2.2.1, key.2.2.2, want, what, [(peer.rank, peer.data)], [], [], [], false⟩)
      | some x =>
        if x.got.any (fun g => g.1 = peer.rank) ∨ x.full then none
        else if x.what ≠ what then some ((s.setColl { x with bad := true }).suspendColl key)
        else some (s.setColl { x with got := x.got ++ [(peer.rank, peer.data)] })

/-- The barrier or flag that a command changes, and the contexts that own it (R233). -/
def State.signalOf (s : State) (k : Nat) (c : CopyCmd) : Option (Nat × List Nat) :=
  match c.op with
  | .cpyb bb none => some (bb.val, s.ownersOf k c.dst)
  | .cpyb bb (some _) => some (bb.val, [k])
  | .cpost _ => some (15, (s.pieceOwner k (Desc.base c.dst)).toList)
  | .cbcast bb true => some (bb.val, (castTargets c.dst).filterMap (s.receiver k))
  | _ => none
/-- No batch of a copy of a fenced core is still to land (R252). -/
def State.spent (s : State) (m : Cmd) (c : CopyCmd) : Bool :=
  m.hop.isSome && (m.start.isNone || decide (m.done < s.batches c)) && decide (s.passed m c ≤ m.done)
/-- A copy of a fenced core of which no further batch lands goes. If it was to change a barrier or flag, 2^20 cycles pass first, and the owners
learn the bytes of the command that landed (R252). An owner that is Free has no queue. -/
def execSourceFenced (k i : Nat) (s : State) : Out :=
  occur s fun s => do
    let m ← (s.ctx k).cmds[i]?
    let c ← m.copy?
    if !s.spent m c then none
    else
      let gone (s : State) : State := s.modCtx k fun x => { x with cmds := x.cmds.eraseIdx i }
      match s.signalOf k c with
      | none => some (gone s)
      | some (who, owners) =>
        if s.now < max m.lastLand m.issued + 2 ^ 20 then none
        else
          let bytes := min (64 * (m.done + m.landed.length)) (CopyCmd.size c) + m.split.foldl (fun n x => n + x.2) 0
          some (gone ((owners.filter fun j => (s.ctx j).status != .free).foldl (fun s j =>
            s.postQ j 2 (element 0x11 (who * 2 ^ 52 + coreOf k % 256 * 2 ^ 44 + min bytes 0xFFFFFFFF))) s))

/-- Some of n bytes from an address lie in the memory of a peer package. -/
def State.peerRange (s : State) (k va n : Nat) : Bool :=
  (chunksOf va n (n / 65536 + 2)).any fun c => match s.locate k (c.1 % 2 ^ 64) .probe with
    | .ok key _ _ => decide (3 ≤ spaceOf key) && !isPad key
    | _ => false
/-- The walk of a descriptor, with its indexes, reaches a peer. -/
def State.peerWalk (s : State) (k sc : Nat) (d : Desc) (ix : Bool) : Bool :=
  (ix && s.peerRange k (Desc.aux d) (Desc.iw d * Desc.runs d)) || (List.range (Desc.runs d)).any fun r =>
    match (if ix then s.streamAt k sc 0 d true (r * Desc.len d) else .ok (Desc.runAddr d r, s)) with
    | .ok (va, _) => s.peerRange k va (Desc.len d)
    | .error _ => false
/-- A command sends flits to another package. -/
def State.reachesPeer (s : State) (k : Nat) (m : Cmd) (c : CopyCmd) : Bool :=
  let src (ix : Bool) : Bool := s.peerWalk k m.scope c.src ix
  let dst (ix : Bool) : Bool := s.peerWalk k m.scope c.dst ix
  match c.op with
  | .cpref => false
  | .cwait _ _ => false
  | .cfence _ => false
  | .cpull => decide (Desc.node c.src % 2 ^ 14 ≠ s.fabric)
  | .callred _ _ => decide (1 < (s.ctx k).regs.sys.ident[7].toNat) || src false || dst false
  | .cdigest => decide (1 < (s.ctx k).regs.sys.ident[7].toNat) || src false || dst false
  | .cgath => src true || dst false
  | .cscat => src false || dst true
  | .czero => dst false
  | .cfill _ => dst false
  | .cbcast _ _ => src false
  | .cpyb _ (some _) => src false
  | .cpyt _ _ _ => src false
  | .ccvt _ =>
    s.peerRange k (Desc.base c.src) (cvtBytes c.src) || s.peerRange k (Desc.base c.dst) (cvtBytes c.dst) || src false || dst false ||
      (blockScaled (Desc.code c.src) (Desc.fmtOf c.src c.fmts) && s.peerRange k (Desc.aux c.src) ((CopyCmd.elems c + 31) / 32)) ||
      (blockScaled (Desc.code c.dst) (Desc.fmtOf c.dst c.fmts) && s.peerRange k (Desc.aux c.dst) ((CopyCmd.elems c + 31) / 32))
  | _ => src false || dst false
/-- A switch returns UNREACHABLE for a flit of a command that reaches a peer (R438). -/
def execUnreachableNack (k i : Nat) (s : State) : Out :=
  occur s fun s => do
    let m ← (s.ctx k).cmds[i]?
    let c ← m.copy?
    if m.start.isNone || m.susp.isSome || !s.reachesPeer k m c then none else some (s.suspend k i 2 0)

end Sys2Proof.Machine
end

