-- ==== Sys2Proof/Machine/Launch.lean ====
section
/-!
DEFINITION. Machine/Launch.lean: LAUNCH (07: R134, R135; 02: R29-R31, R43; 14: R315, R316; 16: R339, R340; 20: R388, R389).
-/
namespace Sys2Proof.Machine

/-- A control block (Table 2-5) as bytes, and where its context runs. -/
structure Block where
  bytes : List Byte
  core : Nat
  ctx : Nat
  lcore : Nat
  dmode : Bool
  rmode : Bool
  pos : Nat
  banks : Nat
  pitch : Nat
def Block.of (l : List Byte) : Block :=
  { bytes := l, core := le l 0x0E 2, ctx := le l 0x0C 2, lcore := le l 0x10 4, dmode := le l 8 1 == 1, rmode := le l 9 1 == 1,
    pos := le l 0x18 2, banks := le l 0x1C 4, pitch := le l 0x38 8 }
def Block.key (b : Block) : Nat := keyOf b.core b.ctx
/-- Fields in their ranges and reserved bytes zero (R30). Bits 4:0 of ENTRY and TVEC read as zero whatever they hold (R82). -/
def Block.ok (b : Block) : Bool :=
  let l := b.bytes
  let clen := le l 0x1A 2
  decide (le l 8 1 ≤ 1) && decide (le l 9 1 ≤ 1) && le l 0x0A 2 == 0 && decide (b.ctx < 4) && decide (b.core < 256) &&
    decide (b.lcore < le l 0x14 4) && decide (le l 0x14 4 ≤ 256) && (clen == 0 || (decide (2 ≤ clen) && decide (clen ≤ 64) && b.dmode)) &&
    (b.pos == 0 || decide (b.pos < clen)) && decide (b.banks < 2 ^ 24) && le l 0x28 8 % 512 == 0 &&
    decide (le l 0x54 4 < le l 0x58 4) && (!b.rmode || glenPos b.core % 2 == 0) && le l 0x60 32 == 0
/-- A ladder entry names a format that Table 4-11 admits at its rung. -/
def ladderOk (r : Nat) (e : Nat) (relief : Bool) : Bool :=
  let code := e % 256
  let fmt := BitVec.ofNat 32 (e / 2 ^ 32)
  bitsOf e 8 24 == 0 && (code == 15 || fmt == 0) &&
    (match r with
     | 0 => code == 10
     | 1 => (code == 8 || code == 9) && !relief || code == 12
     | 2 => (code == 15 && fmtLegal fmt && decide (5 ≤ fmtWidth fmt) && decide (fmtWidth fmt ≤ 8)) && !relief || code == 13
     | _ => (code == 15 && fmtLegal fmt && decide (2 ≤ fmtWidth fmt) && decide (fmtWidth fmt ≤ 4)) && !relief || code == 14)
/-- A contract record obeys R316. -/
def contractOk (l : List Byte) (dmode : Bool) : Bool :=
  let ceil := le l 1 1
  let floor := le l 2 1
  let lat0 := le l 8 4
  let latk := le l 4 2
  let relief := le l 3 1 == 1
  decide (le l 0 1 ≤ 7) && decide (ceil ≤ floor) && decide (floor ≤ 3) && decide (le l 3 1 ≤ 1) && le l 0x0C 4 == 0 && le l 0x30 16 == 0 &&
    ((List.range 4).all fun r => if ceil ≤ r ∧ r ≤ floor then ladderOk r (le l (0x10 + 8 * r) 8) relief else le l (0x10 + 8 * r) 8 == 0) &&
    ((lat0 == 0 && latk == 0) || (decide (94 + intakeCycles ceil ≤ lat0) && decide (intakeCycles ceil ≤ latk))) &&
    (!dmode || (ceil == floor && lat0 == 0))
def contractOf (l : List Byte) : Pitch :=
  let e (r : Nat) : Ladder := ⟨le l (0x10 + 8 * r) 1, BitVec.ofNat 32 (le l (0x14 + 8 * r) 4)⟩
  { rank := le l 0 1, ceil := le l 1 1, floor := le l 2 1, relief := le l 3 1 == 1, latk := le l 4 2, bwg := le l 6 2, lat0 := le l 8 4,
    ladder := #v[e 0, e 1, e 2, e 3], core := le l 1 1, plain := le l 1 1 }

/-- The blocks and their contracts, read from memory: a trap where one lies outside it. -/
def State.readBlocks (s : State) (k a : Nat) : Nat → Res (List (Block × Option (List Byte)))
  | 0 => .ok []
  | n + 1 =>
    do
      let l ← s.readVirtR k a 128 3
      let b := Block.of l
      let c ← if b.pitch = 0 ∨ b.pitch % 64 ≠ 0 then .ok none
              else do
                let r ← s.readVirtR k b.pitch 64 3
                .ok (some r)
      let r ← State.readBlocks s k (a + 128) n
      .ok ((b, c) :: r)
/-- The slot of a context in its partition's context region (R381): its base and size. -/
def Part.slot (p : Part) (k : Nat) : Nat × Nat :=
  let mesh := (List.range 1024).filter fun i => p.cgrant.getLsbD i
  let str := (List.range 64).filter fun i => p.sgrant.getLsbD i
  if isMesh k then (p.ctxr.1 + 0x340000 * (mesh.filter fun i => decide (i < coreOf k * 4 + numOf k)).length, 0x340000)
  else (p.ctxr.1 + 0x340000 * mesh.length + 0x140000 * (str.filter fun i => decide (i < (coreOf k - 256) * 16 + numOf k)).length, 0x140000)
/-- The first block that the first stage refuses (R29). DEDUCED: a CTXREG that is not the slot of a granted context is a field
outside its range (R381). -/
def badBlock (p : Part) (l : List (Block × Option (List Byte))) : Option Nat :=
  let d := match l with | [] => false | x :: _ => x.1.dmode
  (l.find? fun x => !(x.1.ok && (!x.1.dmode || p.detok) && (!p.grants x.1.key || le x.1.bytes 0x40 8 == (p.slot x.1.key).1) && x.1.dmode == d && x.1.pitch % 64 == 0 &&
    (match x.2 with | some r => contractOk r x.1.dmode | none => true))).map fun x => x.1.lcore

/-- One context of a launch: where it runs and the block it runs from; a paired block has two (R388). -/
structure Seat where
  key : Nat
  blk : Block
  pitch : Pitch
  idx : Nat
  lead : Nat
  trailer : Bool
/-- The core at position i of a course of width w whose corner is the lead's core: serpentine, row by row (R39); of a course of pairs the
steps are the pairs. -/
def coursePlace (lead w i : Nat) (paired : Bool) : Option Nat :=
  let x := coreX lead + (if paired then 2 else 1) * (if i / w % 2 = 0 then i % w else w - 1 - i % w)
  let y := coreY lead + i / w
  if x < 8 ∧ y < 8 then some (lead / 64 * 64 + 8 * y + x) else none
/-- The block leads a course in which another block has its place: of some width, every position of the rectangle has its block. -/
def Block.leads (a : Block) (all : List Block) (b : Block) : Bool :=
  let clen := le a.bytes 0x1A 2
  a.pos == 0 && le b.bytes 0x1A 2 == clen && a.rmode == b.rmode && (List.range (clen + 1)).any fun w =>
    decide (0 < w) && clen % w == 0 && coursePlace a.core w b.pos a.rmode == some b.core &&
      (List.range clen).all fun i => all.any fun x => x.pos == i && le x.bytes 0x1A 2 == clen && coursePlace a.core w i a.rmode == some x.core
/-- Declared context index: the position among the blocks of the same logical core. The lead of a course is the block at position 0 of
the rectangle that holds the block (R39). DEDUCED: blocks that fill no rectangle follow the nearest block before with POS 0; R30
calls no such block malformed. -/
def seatsFrom (all : List Block) (seen : List Nat) (lead : Nat) : List (Block × Option (List Byte)) → List Seat
  | [] => []
  | (b, c) :: r =>
    let k := b.key
    let lead := if b.pos = 0 then k else lead
    let p := match c with | some l => contractOf l | none => Pitch.default
    let x : Seat := ⟨k, b, p, (seen.filter (· = b.lcore)).length, if b.pos = 0 then k else ((all.find? fun a => a.leads all b).map Block.key).getD lead, false⟩
    (if b.rmode then [x, { x with key := keyOf (b.core + 1) b.ctx, lead := k, trailer := true }] else [x]) ++ seatsFrom all (b.lcore :: seen) lead r
def seatsOf (l : List (Block × Option (List Byte))) : List Seat := seatsFrom (l.map Prod.fst) [] 0 l

/-- A context passes the second stage (R29, R43, R339, R340, R389). -/
def State.seatOk (s : State) (p : Nat) (l : List Seat) (x : Seat) : Bool :=
  let core := coreOf x.key
  let other := (l.filter fun y => y.key ≠ x.key && coreOf y.key == core)
  let mate := if core % 2 = 0 then core + 1 else core - 1
  let bound := s.bound core ++ s.bound mate
  (s.ctx x.key).status == .free && (l.filter fun y => y.key = x.key).length == 1 &&
    (s.part p).grants x.key && s.eligible core &&
    (s.bound core).all (fun j => (s.ctx j).part == p || (s.ctx j).ctl.banks &&& BitVec.ofNat 24 x.blk.banks == 0) &&
    (s.bound core).all (fun j => !(s.ctx j).regs.sys.dmode) && (!x.blk.dmode || ((s.bound core).isEmpty && other.isEmpty)) &&
    (if x.blk.rmode then bound.all (fun j => (s.ctx j).regs.sys.rmode.getLsbD 0) && l.all (fun y => y.blk.rmode || (coreOf y.key != core && coreOf y.key != mate))
     else bound.all (fun j => !(s.ctx j).regs.sys.rmode.getLsbD 0))

/-- A context as its control block starts it (R31); RANK and NRANK are 0 and 1 where the header names no group (Table 2-3). -/
def Seat.ctx (x : Seat) (p node : Nat) (group : Bool) : Ctx :=
  let l := x.blk.bytes
  let w (o n : Nat) : Word := BitVec.ofNat 64 (le l o n)
  let z := Ctx.zero
  { z with
    status := .ready, part := p, node := node, idx := x.idx, lead := x.lead, pitch := x.pitch,
    ctl := { drain := le l 0x48 8, ctxreg := le l 0x40 8, emax := le l 0x5C 4, clen := le l 0x1A 2, banks := BitVec.ofNat 24 x.blk.banks,
             egrant := BitVec.ofNat 32 (le l 0x50 4), entry := le l 0 8 / 32 * 32 },
    regs := { z.regs with
      flow := { z.regs.flow with pc := codeAddr (le l 0 8) },
      sys := { z.regs.sys with
        ident := #v[w 0x0C 2, BitVec.ofNat 64 (coreOf x.key), w 0x10 4, w 0x18 2, w 0x14 4, BitVec.ofNat 64 p, if group then w 0x54 4 else 0, if group then w 0x58 4 else 1],
        seed := w 0x20 8, tvec := codeAddr (le l 0x30 8), tsave := w 0x28 8, egrant := BitVec.ofNat 32 (le l 0x50 4), dmode := x.blk.dmode,
        rmode := if x.blk.rmode then (if x.trailer then 3 else 1) else 0 } } }
/-- The context starts; its banks pass to the partition, its instruction cache is empty (R314), and the clocks of a
deterministic core have an edge now (R281, R446). -/
def State.seat (s : State) (p node : Nat) (group : Bool) (x : Seat) : State :=
  let core := coreOf x.key
  let s := ((s.rollCore core).leaveGovernors x.key).takeBanks core p (BitVec.ofNat 24 x.blk.banks)
  let s := (s.setCtx x.key { x.ctx p node group with life := node }).addGrant x.key
  s.modCore core fun c =>
    let c := { c with icache := c.icache.filter fun l => l.1 ≠ numOf x.key }
    if x.blk.dmode then { c.rebaseAll s.now with next := s.now } else c

/-- A header's fields (Table 7-6). -/
def headerOk (a : Nat) (l : List Byte) : Bool :=
  a % 64 == 0 && le l 0 8 % 128 == 0 && decide (1 ≤ le l 8 4) && decide (le l 8 4 ≤ 1024) && le l 0x0C 4 == 0 && le l 0x10 8 % 8 == 0 && le l 0x20 32 == 0

/-- LAUNCH stalls until it has written the status word (R134). DEDUCED: it waits for commands that an earlier life of a named
context left (R33); they have their bounds. DESIGN CHOICE: a status word whose address does not translate or may not be written
traps UNMAPPED with that address, before the header is checked, and the status of a header that names an unaligned word is written
at the word below. -/
def State.launch (s : State) (a : Nat) (flag : Fin 16) : Res State := do
  let k := s.me
  let p := s.pre.part
  let s := s.forForm
  match s.readVirtR k a 64 3 with
  | .error e => .error e
  | .ok h =>
    let st := le h 0x10 8
    match s.locate k (st / 8 * 8) .write with
    | .fault _ => .error (.trap 6 st)
    | .pending page leaf => .error (s.pre.pageStop s.now page leaf st)
    | .ok key uc s =>
      let refuse (s : State) (state who : Nat) : Res State := .ok ((s.writeStatus key uc state 0 who).postFlag k flag 1)
      if !headerOk a h then refuse s 7 0
      else do
        let l ← s.readBlocks k (le h 0 8) (le h 8 4)
        match badBlock (s.part p) l with
        | some who => refuse s 7 who
        | none =>
          let seats := seatsOf l
          if !seats.all (s.seatOk p seats) then refuse s 6 0
          else if seats.any fun x => (s.ctx x.key).cmds != [] then .error .stall
          else
            let n := s.nextNode
            let s : State := { s with nextNode := n + 1 }
            let s := seats.foldl (fun s x => s.seat p n (le h 0x18 8 != 0) x) s
            let node : Node := { Node.none with run := true, part := p, ctxs := seats.map (·.key), status := key, owner := k, flag := flag,
                                                group := le h 0x18 8, dmode := l.any (fun x => x.1.dmode), rank := if le h 0x18 8 = 0 then 0 else (l.head?.map fun x => le x.1.bytes 0x54 4).getD 0,
                                                nrank := if le h 0x18 8 = 0 then 1 else (l.head?.map fun x => le x.1.bytes 0x58 4).getD 1, launched := s.now, uc := uc }
            .ok ((s.setNode n node).writeStatus key uc 1 0 0)

def execLaunch (x : FFlagM) (s : State) : Out :=
  runSlot 1 x.g s fun s => if !isStream s.me then .error (.trap 2 0) else s.noSeg fun s => do
    if (s.part s.pre.part).overrun then .ok ((s.modOpen fun o => { o with park := true }).holdSlot 1 false none) else do
    let m ← s.rdM x.j
    s.launch (chunk m 0) x.n

end Sys2Proof.Machine
end

