-- ==== Sys2Proof/Machine/EventsNode.lean ====
section
/-!
DEFINITION. Machine/EventsNode.lean: the steps of contexts and nodes: the end of a bundle, asynchronous traps, waits that end, results
and accesses that land, messages, the ridge, the ends of contexts and nodes, rollback, and translation removals (02, 07, 12, 18).
-/
namespace Sys2Proof.Machine

/-! Pairs and courses. -/
/-- The members of a context's course, itself among them and no trailer of a pair; outside a course, itself (R39, R388). -/
def State.course (s : State) (k : Nat) : List Nat :=
  let c := s.ctx k
  if c.ctl.clen < 2 then [k]
  else (s.node c.node).ctxs.filter fun j => (s.ctx j).node = c.node && (s.ctx j).lead = c.lead && (s.ctx j).status != .free &&
    !(s.ctx j).regs.sys.rmode.getLsbD 1

/-! Bundles. -/
/-- The open bundle ends (R83, R359); `sigBad`: the trailer's signature differs (R392). -/
def execBundleCommit (sigBad : Bool) (s : State) : Out :=
  .next (match s.opened with | some o => (s.close sigBad).mirror o.ctx | none => s)

/-- An asynchronous trap at a boundary of level 0 (R365); in a course every member takes one (R41). -/
def execAsynchronousTrap (k : Nat) (s : State) : Out :=
  occur s fun s =>
    let c := s.ctx k
    let run (j : Nat) : Bool := (s.ctx j).status == .running || (s.ctx j).status == .ready
    match c.async with
    | [] => none
    | a :: _ =>
      if c.regs.sys.tl ≠ 0 ∨ !run k ∨ c.kill.isSome then none
      else some ((s.course k).foldl (fun s j =>
        let x := s.ctx j
        let s := match x.async with
          | b :: r => if b = a ∨ j = k then (s.modCtx j fun c => { c with async := if j = k then c.async.drop 1 else r }).takeTrap j b 0 0 true else s.takeTrap j 22 0 0 true
          | [] => s.takeTrap j 22 0 0 true
        let s := s.modCtx j fun c => if c.wdPend.isSome then { c with wdHeld := c.wdPend, wdPend := none } else c
        (s.stepCore (coreOf j)).mirror j) s)

/-- A context that has issued 4096 bundles yields to another that is Ready (R24). -/
def execFairnessYield (c : Nat) (s : State) : Out :=
  occur s fun s => do
    let k ← (s.core c).cur
    if 4096 ≤ (s.ctx k).run ∧ s.otherReady k ∧ !(s.ctx k).regs.sys.dmode then
      some ((s.modCtx k fun x => { x with status := .ready, run := 0 }).leaveCore k)
    else none

/-- The watchdog of a Blocked context (R50). -/
def execWatchdogExpiry (k : Nat) (s : State) : Out :=
  occur s fun s =>
    let c := s.ctx k
    if c.status = .blocked ∧ c.wait.since + 2 ^ 26 ≤ s.now then
      some ((s.modCtx k fun c => { c with status := .ready, wdPend := some c.wait.mask, wdSeen := true, ridging := false, wait := Wait.none }).rouse k)
    else none
/-- A SLEEP ends (R132), after an inserted stall (R448). -/
def execSleepEnd (k : Nat) (s : State) : Out :=
  occur s fun s => do
    let t ← (s.ctx k).wait.sleep
    if (s.ctx k).status = .blocked ∧ t ≤ s.now ∧ !s.energyHeld (coreOf k) then some (s.ready k) else none

/-! Results and accesses. -/
def landIf (k i : Nat) (long : Bool) (s : State) : Option State := do
  let f ← (s.ctx k).flights[i]?
  if f.long = long ∧ (!(s.ctx k).exact ∨ f.due ≤ s.now) then some (s.landFlight k i) else none
def execExposedResultLand (k i : Nat) (s : State) : Out := occur s (landIf k i false)
def execLongSeriesOperationLand (k i : Nat) (s : State) : Out := occur s (landIf k i true)
/-- Of the accesses of exact contexts that touch the same bytes, the one due first acts first, and in one cycle that of the lower
handle: no choice of the agenda enters a deterministic run (R356). -/
def State.inTurn (s : State) (k : Nat) (a : Access) : Bool :=
  !(s.ctx k).exact || s.ctxKeys.all fun j => j == k || !(s.ctx j).exact || (s.ctx j).accs.all fun b =>
    b.kind == .done || !b.overlaps a || decide (s.accDue k a < s.accDue j b ∨ (s.accDue k a = s.accDue j b ∧ k < j))
/-- An access performs (R297). The plain's L2 may take its line (R294); DESIGN CHOICE: not for an exact context. A corrected error in
its data is charged to the unit that held them, or to the core beside the home slice (R407, R455). -/
def execMemoryAccessPerform (k i : Nat) (v : Evict) (s : State) : Out :=
  occur s fun s => do
    let c := s.ctx k
    let a ← c.accs[i]?
    if (!c.exact ∨ s.accDue k a ≤ s.now) ∧ s.inTurn k a then
      let s := s.performIdx k i
      let s := s.padFlits k a.key a.n
      some (match v with
        | .none => s
        | .fill => if a.kind != .done && cachable a.key a.uc && !c.exact then s.fillLine (plainOf (coreOf k)) a.part a.key else s
        | .corrected slice => s.corrected (if slice ∧ cachable a.key a.uc then coreUnit (sliceCore a.key) else holderUnit a.key))
    else none
/-- The cache takes a bundle as memory holds it now (R314); that of an exact context keeps what it fetched first (R356). -/
def execInstructionFetch (k a : Nat) (s : State) : Out :=
  occur s fun s =>
    if (s.ctx k).status = .free ∨ a % 32 ≠ 0 ∨ (s.ctx k).exact then none
    else
      let t := s.modCore (coreOf k) fun c => { c with icache := c.icache.filter fun l => !(l.1 == numOf k && l.2.1 == a) }
      match t.fetchAt k a with
      | .ok _ t => some t
      | _ => none

/-! Messages (R122, R136). -/
/-- When a message arrives at the latest: of an exact sender, at the receiver's first sequencer edge from its padded time on (R342). -/
def State.msgAt (s : State) (m : Msg) : Nat := if (s.ctx m.src).exact then (s.core (coreOf m.dst)).edge 0 m.due else m.due
def State.msgReady (s : State) (m : Msg) : Bool := !(s.ctx m.src).exact || decide (s.msgAt m ≤ s.now)
def execMessageDelivery (i : Nat) (s : State) : Out :=
  occur s fun s => do
    let m ← s.msgs[i]?
    match m.kind with
    | .send q v =>
      let first := (s.msgs.take i).all fun x => !(x.src == m.src && x.dst == m.dst && match x.kind with | .send p _ => p == q | _ => false)
      if first ∧ s.msgReady m ∧ !(s.core (coreOf m.dst)).health.fenced then
        let s : State := { s with msgs := s.msgs.eraseIdx i }
        let s := s.linkFlits (coreOf m.src) (coreOf m.dst) 1
        some (if (s.ctx m.dst).status = .free then s else s.modCtx m.dst fun c => { c with q := c.q.set q (c.q[q] ++ [v]) })
      else none
    | .post _ _ => none
def execRemotePostApply (i : Nat) (s : State) : Out :=
  occur s fun s => do
    let m ← s.msgs[i]?
    match m.kind with
    | .post f n =>
      if s.msgReady m ∧ (s.ctx m.src).accs.all (fun a => decide (m.after ≤ a.seq)) ∧ !(s.core (coreOf m.dst)).health.fenced then
        let s : State := { s with msgs := s.msgs.eraseIdx i }
        let s := s.linkFlits (coreOf m.src) (coreOf m.dst) 1
        some (if (s.ctx m.dst).status = .free then s else s.postFlag m.dst f n)
      else none
    | .send _ _ => none
def execFencedNack (i : Nat) (s : State) : Out :=
  occur s fun s => do
    let m ← s.msgs[i]?
    if (s.core (coreOf m.dst)).health.fenced then
      let s : State := { s with msgs := s.msgs.eraseIdx i }
      some (if (s.ctx m.src).kill.isSome then s else s.pend m.src 25)
    else none

/-! The ridge (R35-R38). -/
/-- Contexts of a node that take part in its ridge: not Free, and of a pair the lead. -/
def State.live (s : State) (n : Nat) : List Nat :=
  (s.node n).ctxs.filter fun k => (s.ctx k).node = n && (s.ctx k).status != .free && !(s.ctx k).regs.sys.rmode.getLsbD 1
/-- Every live participant on another package has arrived at the generation at hand (R35). -/
def State.peersIn (s : State) (n : Nat) : Bool :=
  let x := s.node n
  (List.range x.nrank).all fun r => r == x.rank || match x.peers.find? fun y => y.1 = r with
    | some (_, g, gone) => gone || decide (x.gen < g)
    | none => false
/-- An arrival at the ridge (R35). The other packages learn when all of the package's participants have arrived. -/
def execRidgeArrival (w : Arriver) (s : State) : Out :=
  occur s fun s =>
    match w with
    | .here k =>
      let c := s.ctx k
      if c.ridging ∧ !c.arrived ∧ !c.passes.contains c.ridgeKey ∧ c.status = .blocked ∧ c.cmds = [] ∧ c.accs = [] then
        let s := ((s.flushStores k false).modCtx k fun c => { c with arrived := true, ridgeAt := c.ridgeKey }).modNode c.node fun n => { n with arrivedAt := s.now }
        let nd := s.node c.node
        some (if nd.group ≠ 0 ∧ (s.live c.node).all (fun j => (s.ctx j).arrived) then
            s.answer (.arrived nd.group nd.rank (nd.gen + 1)) else s)
      else none
    | .peer n r =>
      let nd := s.node n
      match nd.peers.find? fun x => x.1 = r with
      | some (_, g, gone) =>
        if nd.run ∧ !gone ∧ g ≤ nd.gen then
          some (s.modNode n fun x => { x with arrivedAt := s.now, peers := x.peers.map fun y => if y.1 = r then (r, g + 1, gone) else y })
        else none
      | none =>
        if nd.run ∧ r < nd.nrank ∧ r ≠ nd.rank then some (s.modNode n fun x => { x with arrivedAt := s.now, peers := (r, nd.gen + 1, false) :: x.peers }) else none
/-- Padded time of a release (Table 16-1). -/
def State.ridgeTime (s : State) (n : Nat) : Nat :=
  if 1 < (s.node n).nrank then 264000
  else match (s.node n).ctxs with
    | [] => 512
    | k :: r => if r.all fun j => plainOf (coreOf j) = plainOf (coreOf k) then 512 else 2048
/-- A message of a node, under way (R36). -/
def State.msgOf (s : State) (n : Nat) (m : Msg) : Bool := (s.ctx m.src).node == n || (s.ctx m.dst).node == n
/-- A release: the arrival is over, and a context that waits at the RIDGE of it is Ready (R35). -/
def State.release (s : State) (k : Nat) : State :=
  let c := s.ctx k
  let s := s.modCtx k fun c => { c with arrived := false, passes := c.ridgeAt :: c.passes, gen := c.gen + 1 }
  if c.ridging ∧ c.ridgeKey = c.ridgeAt then s.ready k else s
/-- The ridge releases once every live participant has arrived and what any of them sent before is there (R35, R36), at the padded
time at the latest (R456). In deterministic operation it does so at the first sequencer edge at or after the padded time (R342). -/
def execRidgeRelease (n : Nat) (s : State) : Out :=
  occur s fun s =>
    let live := s.live n
    let t := (s.node n).arrivedAt + s.ridgeTime n
    if live ≠ [] ∧ live.all (fun k => (s.ctx k).arrived) ∧ (s.node n).saved.isEmpty ∧ s.peersIn n ∧
       (s.msgs.all fun m => !s.msgOf n m) ∧ (live.all (fun k => !(s.ctx k).exact || decide ((s.core (coreOf k)).edge 0 t ≤ s.now))) then
      let ks := (s.node n).ctxs.filter fun k => (s.ctx k).node = n && (s.ctx k).status != .free
      some ((ks.foldl State.release s).modNode n fun x => { x with gen := x.gen + 1 })
    else none

/-! Ends (R32-R34). -/
def execEndComplete (k : Nat) (s : State) : Out :=
  occur s fun s =>
    let c := s.ctx k
    if c.status = .ending ∧ c.cmds = [] ∧ c.accs = [] ∧ !c.regs.sys.rmode.getLsbD 1 then
      let s := s.freeCtx k false
      some (if c.regs.sys.rmode = 1 then s.freeCtx (keyOf (coreOf k + 1) (numOf k)) true else s)
    else none
def execNodeEnd (w : Ender) (s : State) : Out :=
  occur s fun s =>
    match w with
    | .here n =>
      let nd := s.node n
      if nd.run ∧ (nd.saved = [] ∨ nd.cause.isSome) ∧ nd.ctxs.all (fun k => (s.ctx k).node ≠ n || ((s.ctx k).status == .free && (s.ctx k).cmds.isEmpty)) then
        some (((nd.ctxs.foldl (fun s k => s.flushStores k false) s).dropLines fun l => l.part == nd.part && l.dirty != 0).endNode n)
      else none
    | .peer n r done =>
      let nd := s.node n
      if nd.run ∧ r < nd.nrank ∧ r ≠ nd.rank then
        let g := ((nd.peers.find? fun x => x.1 = r).map (·.2.1)).getD 0
        let s := s.modNode n fun x => { x with peers := (r, g, true) :: x.peers.filter fun y => y.1 ≠ r }
        some (if done then s else s.abortNode n)
      else none
/-- A kill takes effect at a bundle boundary (R34, R266), of a pair in both its cores at once (R388). -/
def execContextKill (k : Nat) (s : State) : Out :=
  occur s fun s => do
    let c := s.ctx k
    let _ ← c.kill
    let lead := s.ctx (keyOf (coreOf k - 1) (numOf k))
    if c.regs.sys.rmode.getLsbD 1 ∧ lead.node = c.node ∧ lead.regs.sys.rmode = 1 ∧ lead.status ≠ .free ∧ lead.kill.isSome then none
    else
      let s := ((s.failOps k).modCtx k fun c => { c with seg := none }).freeCtx k false
      let mate := keyOf (coreOf k + 1) (numOf k)
      some (if c.regs.sys.rmode = 1 ∧ (s.ctx mate).lead = k ∧ (s.ctx mate).node = c.node then s.freeCtx mate true else s)

/-! Rollback (R372, R373). -/
/-- An older command of its engine is suspended: the command does not perform (R248). -/
def Ctx.behind (c : Ctx) (m : Cmd) : Bool := c.cmds.any fun w => w.eng = m.eng && decide (w.order < m.order) && w.susp.isSome
/-- Commands of a segment that cannot perform are discarded: suspended ones, and those behind an older suspended one; a deterministic context records a COPY event (R354). -/
def State.discardStuck (s : State) (k : Nat) (since : Cmd → Bool) : State :=
  let c := s.ctx k
  let stuck : Cmd → Bool := fun m => since m && (m.susp.isSome || c.behind m)
  let s := (c.cmds.filter fun m => stuck m && m.susp.isSome).foldl (fun s m => s.modCtx k fun c => c.addLate 4 (s.now - m.suspAt)) s
  s.modCtx k fun c => { c with cmds := c.cmds.filter fun m => !stuck m }
def execSegmentRollback (k : Nat) (s : State) : Out :=
  occur s fun s =>
    let c := s.ctx k
    if !c.rolling ∨ c.status = .free ∨ c.kill.isSome then none
    else match c.seg with
      | none => some (s.modCtx k fun c => { c with rolling := false })
      | some g =>
        let since : Cmd → Bool := fun m => decide (vget g.base m.eng.val 0 < m.num)
        if g.replayed ∨ g.irrevocable then
          some (((s.addScore (coreUnit (coreOf k)) 64).settleScores.modCtx k fun c => { c with rolling := false }).killCtx k 28)
        else
          let s := s.discardStuck k since
          /- the timelines end where they were issued up to: earlier commands that can perform do so too (DEDUCED, log 15) -/
          if (s.ctx k).cmds.any fun m => m.susp.isNone && !(s.ctx k).behind m then (if (s.ctx k).cmds = c.cmds then none else some s)
          else
            let s := (s.landAll k).settleOwn k (s.ctx k).seq
            let s := g.log.foldl (fun s x => s.putN x.1 x.2.1 x.2.2) s
            let s := s.modCtx k fun c => { c.addLate 2 (s.now - g.since) with
              regs := g.shadow, rolling := false, rdv := g.gen, rdvAt := false,
              seg := some { g with log := [], logged := 0, buf := [], used := 0, atoms := 0, replayed := true, irrevocable := false },
              status := if c.status = .blocked then .ready else c.status, wait := Wait.none, held := none, checkAt := none }
            some (((s.meter c.part 8 1).stepCore (coreOf k)).mirror k)

/-! Translation (R262, R263) and migration (R384). -/
/-- A store that an open segment holds, translated through a removed entry, goes by the page tables as they stand. DEDUCED: where they give it no
memory it is dropped (log 12). -/
def State.relocateBuf (s : State) (k base n : Nat) : State :=
  match (s.ctx k).seg with
  | none => s
  | some g =>
    let old (a : Access) : Bool := decide (0x1000000 ≤ a.va) && decide (base ≤ a.va) && decide (a.va < base + n)
    if !g.buf.any old then s
    else
      let (buf, s) := g.buf.foldl (fun (x : List Access × State) a =>
        if !old a then (x.1 ++ [a], x.2)
        else match x.2.locate k a.va .write with
          | .ok key uc s => (x.1 ++ [{ a with key := key, uc := uc }], s)
          | _ => x) ([], s)
      s.modCtx k fun c => { c with seg := some { g with buf := buf } }
/-- Entries of a removed range go, and what was translated through them has performed at package scope by then; a result still
lands, and a store still completes, at its own time (R342). -/
def execTlbinvRemovalEnd (i : Nat) (s : State) : Out :=
  occur s fun s => do
    let (_, p, base, n, _) ← s.dying[i]?
    let s : State := { s with
      dying := s.dying.eraseIdx i,
      tlb := s.tlb.filter fun t => !(t.part == p && decide (t.base < base + n) && decide (base < t.base + t.size)) }
    let s := s.ctxKeys.foldl (fun s k => if (s.ctx k).part = p then ((s.settleAll k).flushStores k false).relocateBuf k base n else s) s
    some (s.dropLines fun l => l.part == p && l.dirty != 0)
/-- An access or a copy is held at a pending page. -/
def State.pageHeld (s : State) (p page : Nat) : Bool :=
  s.ctxs.any fun x => x.2.part == p && ((x.2.status != .free && match x.2.held with | some (q, g, _) => q == p && g == page | none => false) ||
    x.2.cmds.any fun m => m.susp.isNone && match m.page with | some (g, _, _) => g == page | none => false)
/-- A MIGPULL element that found Q2 full is posted again after 2^16 cycles, and again until Q2 accepts it, while an
access is still held at the page (R137). -/
def execMigpullRepost (p page : Nat) (s : State) : Out :=
  occur s fun s => do
    let x ← (s.part p).pages.find? fun x => x.1 = page
    let next ← x.2.2.2
    if next ≤ s.now ∧ s.pageHeld p page then some (s.postPull p page) else none
/-- A copy held too long on a page is suspended (R384); a slot access traps when it issues again. -/
def execMigrationHoldTimeout (p page : Nat) (s : State) : Out :=
  occur s fun s =>
    let old : Cmd → Bool := fun m => match m.page with | some (g, _, t) => g = page && decide (t + 2 ^ 26 ≤ s.now) | none => false
    let hits := (s.ctxKeys.filter fun k => (s.ctx k).part = p).flatMap fun k =>
      ((List.range (s.ctx k).cmds.length).filter fun i => match (s.ctx k).cmds[i]? with | some m => old m | none => false).map fun i => (k, i)
    if hits = [] then none else some (hits.reverse.foldl (fun s x => s.suspend x.1 x.2 0 (page * 65536)) s)

end Sys2Proof.Machine
end

