-- ==== Sys2Proof/Machine/Image.lean ====
section
/-!
DEFINITION. Machine/Image.lean: the context image of Table 10-4, its saving and loading (R264, R265), and late events (R354).
The spec gives the regions and what each holds; the order of the fields inside a region is the model's own (log entry 10).
-/
namespace Sys2Proof.Machine

/-- A field of an image: its bytes, its value in a context, and the context with that value. -/
structure Fld where
  n : Nat
  get : Ctx → Nat
  set : Ctx → Nat → Ctx
def Fld.pad (n : Nat) : Fld := ⟨n, fun _ => 0, fun c _ => c⟩
def fieldsLen (l : List Fld) : Nat := l.foldl (fun n f => n + f.n) 0
/-- A region of a fixed size. -/
def regionOf (n : Nat) (l : List Fld) : List Fld := l ++ [Fld.pad (n - fieldsLen l)]
def putFields (l : List Fld) (c : Ctx) : List Byte := l.flatMap fun f => bytesOf (f.get c) f.n
def takeFields : List Fld → Ctx → List Byte → Ctx
  | [], c, _ => c
  | f :: r, c, l => takeFields r (f.set c (ofBytes (l.take f.n))) (l.drop f.n)

def fFlow (n : Nat) (g : FlowRegs → Nat) (p : FlowRegs → Nat → FlowRegs) : Fld := ⟨n, fun c => g c.regs.flow, fun c v => c.modFlow fun f => p f v⟩
def fSys (n : Nat) (g : SysRegs → Nat) (p : SysRegs → Nat → SysRegs) : Fld := ⟨n, fun c => g c.regs.sys, fun c v => c.modSys fun f => p f v⟩
def fDat (n : Nat) (g : DataRegs → Nat) (p : DataRegs → Nat → DataRegs) : Fld := ⟨n, fun c => g c.regs.dat, fun c v => c.modDat fun f => p f v⟩
def fLoc (n : Nat) (l : Loc) : Fld := fDat n (fun d => d.get l) (fun d v => d.set l v)
def fLocs (n count : Nat) (l : Nat → Loc) : List Fld := (List.range count).map fun i => fLoc n (l i)
def bit0 (v : Nat) : Bool := v % 2 == 1
def w64 (v : Nat) : Word := BitVec.ofNat 64 v

/-- Loop state as a number of 103 bytes: the number of levels, then counter, first and last address of each. -/
def loopsNum (l : List Level) : Nat :=
  ofBytes (BitVec.ofNat 8 l.length :: l.flatMap fun v => bytesOf v.n.val 1 ++ bytesOf v.first 8 ++ bytesOf v.last 8)
def numLoops (v : Nat) : List Level :=
  (List.range (v % 256)).map fun i =>
    let w := v / 256 ^ (1 + 17 * i)
    ⟨Fin.ofNat 6 w, w / 256 % 2 ^ 64, w / 256 ^ 9 % 2 ^ 64, []⟩

def flowFields : List Fld :=
  [fFlow 8 (·.pc.toNat) (fun f v => { f with pc := codeAddr v }),
   fFlow 1 (·.dly.count) (fun f v => { f with dly := { f.dly with count := v } }),
   fFlow 8 (·.dly.target.toNat) (fun f v => { f with dly := { f.dly with target := codeAddr v } }),
   fFlow 1 (·.dly.rtt) (fun f v => { f with dly := { f.dly with rtt := v } }),
   fFlow 8 (·.lk.toNat) (fun f v => { f with lk := codeAddr v }),
   fFlow 103 (fun f => loopsNum f.loops) (fun f v => { f with loops := numLoops v }),
   fFlow 1 (fun f => b2n f.epi.armed) (fun f v => { f with epi := { f.epi with armed := bit0 v } }),
   fFlow 8 (·.epi.pro.toNat) (fun f v => { f with epi := { f.epi with pro := codeAddr v } }),
   fFlow 1 (·.epi.k.val) (fun f v => { f with epi := { f.epi with k := Fin.ofNat 6 v } }),
   fFlow 4 (·.epi.iter.toNat) (fun f v => { f with epi := { f.epi with iter := BitVec.ofNat 32 v } }),
   fFlow 1 (fun f => b2n f.epi.used) (fun f v => { f with epi := { f.epi with used := bit0 v } }),
   fFlow 1 (fun f => b2n f.epi.resuming) (fun f v => { f with epi := { f.epi with resuming := bit0 v } })] ++
  ((List.range 4).map fun i => fFlow 8 (fun f => (vget f.w i 0).toNat) (fun f v => { f with w := vset f.w i (codeAddr v) })) ++
  ((List.range 6).map fun i => fFlow 4 (fun f => (vget f.lc i 0).toNat) (fun f v => { f with lc := vset f.lc i (BitVec.ofNat 32 v) })) ++
  ((List.range 8).map fun i => fFlow 4 (fun f => (vget f.bb i 0).toNat) (fun f v => { f with bb := vset f.bb i (BitVec.ofNat 32 v) }))

def bankFields (i : Nat) : List Fld :=
  let f (n : Nat) (g : Bank → Nat) (p : Bank → Nat → Bank) : Fld :=
    fSys n (fun y => g (vget y.banks i Bank.zero)) (fun y v => { y with banks := vset y.banks i (p (vget y.banks i Bank.zero) v) })
  [f 8 (·.cause.toNat) (fun b v => { b with cause := w64 v }), f 8 (·.tpc.toNat) (fun b v => { b with tpc := codeAddr v }),
   f 8 (·.tval.toNat) (fun b v => { b with tval := w64 v }), f 1 (·.tmask.toNat) (fun b v => { b with tmask := BitVec.ofNat 8 v }),
   f 8 (·.tdly.toNat) (fun b v => { b with tdly := w64 v }), f 1 (·.rtt) (fun b v => { b with rtt := v }),
   f 103 (fun b => loopsNum b.loops) (fun b v => { b with loops := numLoops v })]

def sysFields : List Fld :=
  [fSys 8 (·.seed.toNat) (fun y v => { y with seed := w64 v }), fSys 1 (·.tl) (fun y v => { y with tl := v }),
   fSys 8 (·.tvec.toNat) (fun y v => { y with tvec := codeAddr v }), fSys 8 (·.tsave.toNat) (fun y v => { y with tsave := w64 v }),
   fSys 2 (·.sstat.toNat) (fun y v => { y with sstat := BitVec.ofNat 9 v }), fSys 4 (·.egrant.toNat) (fun y v => { y with egrant := BitVec.ofNat 32 v }),
   fSys 1 (fun y => b2n y.dmode) (fun y v => { y with dmode := bit0 v }), fSys 1 (·.rmode.toNat) (fun y v => { y with rmode := BitVec.ofNat 2 v }),
   fSys 4 (·.tol.toNat) (fun y v => { y with tol := BitVec.ofNat 32 v })] ++
  ((List.range 8).map fun i => fSys 8 (fun y => (vget y.ident i 0).toNat) (fun y v => { y with ident := vset y.ident i (w64 v) })) ++
  ((List.range 8).map fun i => fSys 4 (fun y => (vget y.fmt i 0).toNat) (fun y v => { y with fmt := vset y.fmt i (BitVec.ofNat 32 v) })) ++
  bankFields 0 ++ bankFields 1

/-- XO, predicates, MD, shape, draw count, timelines, trace and signature. -/
def shapeFields : List Fld :=
  [fDat 8 (·.xo.toNat) (fun d v => { d with xo := w64 v }), fDat 8 (·.draws.toNat) (fun d v => { d with draws := w64 v }),
   fDat 1 (·.rows) (fun d v => { d with rows := v }), fDat 1 (·.cols) (fun d v => { d with cols := v }),
   fDat 1 (fun d => b2n d.mirror) (fun d v => { d with mirror := bit0 v }), fDat 8 (·.sig.toNat) (fun d v => { d with sig := w64 v }),
   fDat 8 (·.trace.base) (fun d v => { d with trace := { d.trace with base := v } }),
   fDat 8 (·.trace.cap) (fun d v => { d with trace := { d.trace with cap := v } }),
   fDat 8 (·.trace.cursor) (fun d v => { d with trace := { d.trace with cursor := v } })] ++
  ((List.range 3).map fun i => fDat 8 (fun d => vget d.issued i 0) (fun d v => { d with issued := vset d.issued i v })) ++
  fLocs 8 8 (fun i => .p (Fin.ofNat 8 i)) ++ fLocs 8 8 (fun i => .md (Fin.ofNat 8 i))

/-- The RIDGEs whose release a context has still to take, one of each trap level at most: level and address, 9 bytes each. -/
def passesNum (l : List (Nat × Word)) : Nat := ofBytes ((l.take 3).flatMap fun x => bytesOf (x.1 + 1) 1 ++ bytesOf x.2.toNat 8)
def numPasses (v : Nat) : List (Nat × Word) :=
  (List.range 3).filterMap fun i =>
    let w := v / 2 ^ (72 * i)
    if w % 256 = 0 then none else some (w % 256 - 1, codeAddr (w / 256 % 2 ^ 64))
/-- Flags, contract, control block, ridge and collective counts, pending causes and the watchdog record. -/
def holdFields : List Fld :=
  let g (n : Nat) (a : Ctx → Nat) (b : Ctx → Nat → Ctx) : Fld := ⟨n, a, b⟩
  let p (n : Nat) (a : Pitch → Nat) (b : Pitch → Nat → Pitch) : Fld := ⟨n, fun c => a c.pitch, fun c v => { c with pitch := b c.pitch v }⟩
  let t (n : Nat) (a : Control → Nat) (b : Control → Nat → Control) : Fld := ⟨n, fun c => a c.ctl, fun c v => { c with ctl := b c.ctl v }⟩
  [p 1 (·.rank) (fun x v => { x with rank := v }), p 1 (·.ceil) (fun x v => { x with ceil := v, core := v, plain := v }),
   p 1 (·.floor) (fun x v => { x with floor := v }), p 1 (fun x => b2n x.relief) (fun x v => { x with relief := bit0 v }),
   p 2 (·.latk) (fun x v => { x with latk := v }), p 2 (·.bwg) (fun x v => { x with bwg := v }), p 4 (·.lat0) (fun x v => { x with lat0 := v }),
   t 8 (·.drain) (fun x v => { x with drain := v }), t 8 (·.ctxreg) (fun x v => { x with ctxreg := v }), t 4 (·.emax) (fun x v => { x with emax := v }),
   t 2 (·.clen) (fun x v => { x with clen := v }), t 4 (·.banks.toNat) (fun x v => { x with banks := BitVec.ofNat 24 v }),
   t 4 (·.egrant.toNat) (fun x v => { x with egrant := BitVec.ofNat 32 v }), t 8 (·.entry) (fun x v => { x with entry := v / 32 * 32 }), g 8 (·.stopAt) (fun c v => { c with stopAt := v }),
   g 4 (·.idx) (fun c v => { c with idx := v }), g 4 (·.lead) (fun c v => { c with lead := v }), g 8 (·.gen) (fun c v => { c with gen := v }),
   g 8 (·.colls) (fun c v => { c with colls := v }), g 8 (·.tickets) (fun c v => { c with tickets := v }), g 8 (·.rdv) (fun c v => { c with rdv := v }),
   g 8 (·.seq) (fun c v => { c with seq := v }), g 8 (·.life) (fun c v => { c with life := v }), g 1 (fun c => b2n c.rdvAt) (fun c v => { c with rdvAt := bit0 v }),
   g 27 (fun c => passesNum c.passes) (fun c v => { c with passes := numPasses v }), g 1 (fun c => b2n c.abort) (fun c v => { c with abort := bit0 v }),
   g 1 (fun c => b2n c.wdSeen) (fun c v => { c with wdSeen := bit0 v }),
   g 2 (fun c => match c.wdPend with | some m => m.toNat + 1 | none => 0) (fun c v => { c with wdPend := if v = 0 then none else some (BitVec.ofNat 8 (v - 1)) }),
   g 2 (fun c => match c.wdHeld with | some m => m.toNat + 1 | none => 0) (fun c v => { c with wdHeld := if v = 0 then none else some (BitVec.ofNat 8 (v - 1)) }),
   g 4 (fun c => c.async.foldl (fun n a => n + 2 ^ a) 0) (fun c v => { c with async := (List.range 32).filter fun i => v / 2 ^ i % 2 = 1 })] ++
  ((List.range 4).map fun i => p 8 (fun x => let e := vget x.ladder i ⟨0, 0⟩; e.code + e.fmt.toNat * 2 ^ 32)
    (fun x v => { x with ladder := vset x.ladder i ⟨v % 256, BitVec.ofNat 32 (v / 2 ^ 32)⟩ })) ++
  ((List.range 16).map fun i => g 4 (fun c => (vget c.f i 0).toNat) (fun c v => { c with f := vset c.f i (BitVec.ofNat 32 v) }))

def queueField (i : Nat) : Fld :=
  ⟨520, fun c => (vget c.q i []).length + 2 ^ 64 * ofBytes ((vget c.q i []).flatMap fun e => bytesOf e.toNat 8),
   fun c v => { c with q := vset c.q i ((List.range (v % 2 ^ 64)).map fun j => w64 (v / 2 ^ 64 / 2 ^ (64 * j))) }⟩

def controlRegion : List Fld := regionOf 4023 (flowFields ++ sysFields ++ shapeFields ++ holdFields)
def queueRegion : List Fld :=
  regionOf 8184 (((List.range 4).map queueField) ++ fLocs 128 8 (fun i => .cd .c (Fin.ofNat 8 i)) ++
    fLocs 128 8 (fun i => .cd .d (Fin.ofNat 8 i)))
def unitFields (u : VUnit) : List Fld :=
  fLocs 256 16 (fun i => .v u (Fin.ofNat 16 i)) ++ fLocs 256 4 (fun i => .vn u (Fin.ofNat 4 i)) ++ fLocs 256 4 (fun i => .ve u (Fin.ofNat 4 i))
def accumFields (k : Nat) : List Fld :=
  let f (n : Nat) (g : Accum → Nat) (p : Accum → Nat → Accum) : Fld :=
    fDat n (fun d => g (vget d.z k Accum.zero)) (fun d v => { d with z := vset d.z k (p (vget d.z k Accum.zero) v) })
  regionOf 17408 (((List.range 64).map fun i => f 256 (fun z => (vget z.rows i 0).toNat) (fun z v => { z with rows := vset z.rows i (BitVec.ofNat 2048 v) })) ++
    [f 256 (·.zs.toNat) (fun z v => { z with zs := BitVec.ofNat 2048 v }), f 256 (·.zc.toNat) (fun z v => { z with zc := BitVec.ofNat 2048 v }),
     f 2 (·.tag.toNat) (fun z v => { z with tag := BitVec.ofNat 16 v }), f 1 (fun z => b2n z.valid) (fun z v => { z with valid := bit0 v })])
/-- The register regions from 0x3000 to 0x3FFFF. -/
def registerRegions : List Fld :=
  regionOf 16384 (fLocs 256 64 fun i => .m (Fin.ofNat 64 i)) ++
  regionOf 16384 (fLocs 8 16 (fun i => .s (Fin.ofNat 16 i)) ++ fLocs 8 4 (fun i => .sn (Fin.ofNat 4 i)) ++ unitFields .a ++ unitFields .b) ++
  regionOf 16384 (fLocs 1024 16 fun i => .x (Fin.ofNat 16 i)) ++
  regionOf 65536 ((List.range 8).map fun i => fDat 8192 (fun d => (vget d.t i 0).toNat) (fun d v => { d with t := vset d.t i (BitVec.ofNat 65536 v) })) ++
  accumFields 0 ++ accumFields 1 ++ accumFields 2 ++ accumFields 3 ++ [Fld.pad 65536]

def banksOf (mask : BitVec 24) : List Nat := (List.range 24).filter fun b => mask.getLsbD b
def bankBytes : Nat := 0x20000
/-- The header of an image. -/
def headerBytes (kind node count banks crc : Nat) : List Byte :=
  bytesOf 0x43474C32 4 ++ bytesOf 1 1 ++ bytesOf kind 1 ++ bytesOf 0 2 ++ bytesOf node 8 ++ bytesOf count 4 ++ bytesOf banks 4 ++ bytesOf crc 8 ++ bytesOf 0 32

/-- Late events are posted at a bundle boundary (R354). -/
def State.postLate (s : State) (k : Nat) : State :=
  ((s.ctx k).late.foldl (fun s e => s.postQ k 2 (element 0x40 (e.1 % 16 * 2 ^ 52 + min e.2 (2 ^ 48 - 1)))) s).modCtx k fun c => { c with late := [] }

/-- What a save stops: results land, the segment's held stores perform and its log goes, copy commands stop at their
cursors (R264). -/
def State.quiesce (s : State) (k : Nat) : State :=
  let s := ((s.postLate k).performAll k).landAllFlights k
  s.closeSeg k

/-- The bytes of a context's banks. -/
def State.bankImage (s : State) (k : Nat) : List Byte :=
  (banksOf (s.ctx k).ctl.banks).flatMap fun b => s.getBytes (mkey (padSpace (coreOf k)) (b * bankBytes)) bankBytes

/-- The image goes to the context's CTXREG, of a pair that of its lead, and the context becomes Free; none where the region has no room (R264, R378). -/
def State.saveImage (s : State) (k kind : Nat) : Option State :=
  let c := s.ctx k
  let p := s.part c.part
  let nb := (banksOf c.ctl.banks).length
  let size := 0x40000 + bankBytes * nb
  if c.ctl.ctxreg < p.ctxr.1 ∨ p.ctxr.1 + p.ctxr.2 < c.ctl.ctxreg + size ∨ (p.slot k).2 < size then none
  else
    let copies := c.cmds.filter fun m => m.eng ≠ 0
    let id := if copies = [] then 0 else s.stash.length + 1
    let control := putFields controlRegion c ++ bytesOf (match c.status with | .ending => 1 | .halted => 2 | _ => 0) 1 ++ bytesOf (if c.status = .blocked then s.now - c.wait.since else 0) 8
    let rest := if kind = 1 then [] else putFields queueRegion c ++ bytesOf id 8 ++ putFields registerRegions c
    let banks := s.bankImage k
    let count := if c.node = 0 then 1 else ((s.node c.node).ctxs.filter fun j => !(s.ctx j).regs.sys.rmode.getLsbD 1).length
    let head := headerBytes kind c.node count nb (crc64 (control ++ rest ++ banks))
    let base := mkey 0 c.ctl.ctxreg
    let put (s : State) (o : Nat) (l : List Byte) : State := s.writeAt 0 0 3 false (base + o) l.length (ofBytes l)
    let s := put (put s 0 (head ++ control ++ rest)) 0x40000 banks
    let s : State := if id = 0 then s else { s with stash := Tbl.put s.stash id copies }
    let s := if c.node = 0 then s else s.modNode c.node fun n => { n with saved := (k, c.ctl.ctxreg) :: n.saved.filter fun x => x.1 ≠ k, leftAt := s.now }
    let s := s.freeCtx k true
    some (if c.regs.sys.rmode = 1 then s.freeCtx (keyOf (coreOf k + 1) (numOf k)) true else s)

/-- A copy command goes on from its cursor (R253, R265): it starts anew in its turn, with a fresh bound. -/
def Cmd.again (m : Cmd) (order : Nat) : Cmd := { m with start := none, order := order, page := none }

/-- A range lies in a pool. -/
def inside (a n : Nat) (pool : Nat × Nat) : Bool := decide (pool.1 ≤ a) && decide (a + n ≤ pool.1 + pool.2)
/-- n bytes of an image can be read for a partition: they lie in memory of its own (R383), and their header is not marked. -/
def State.imageAt (s : State) (part addr n : Nat) : Bool :=
  (inside addr n (s.part part).ctxr || inside addr n (s.part part).hbm) && decide (addr + n ≤ Config.hbmBytes) && !s.poisoned (mkey 0 addr) 64
/-- The loading of an image (R265), of a pair into both its cores (R388): the outcome that refuses it, or the state with the context held at the
restore gate; the lead of a course is found when the gate opens. DEDUCED: an image outside the partition's own memory, and one of a node
that is over, are FAILED (log 24). On a core in reset no context is loaded (R454). -/
def State.loadImage (s : State) (k part addr : Nat) : Except Nat State :=
  let core := coreOf k
  let base := mkey 0 addr
  let h := s.getBytes base 64
  let kind := le h 5 1
  let nb := le h 20 4
  let control := s.getBytes (base + 0x40) 4032
  let rest := if kind = 1 then [] else s.getBytes (base + 0x1000) 0x3F000
  let banks := s.getBytes (base + 0x40000) (bankBytes * nb)
  let mate := keyOf (core + 1) (numOf k)
  if (s.ctx k).status ≠ .free ∨ (s.part part).stopped ∨ (s.boot.state = 2 ∧ !isMgmt k) ∨ (s.bound core).any fun j => (s.ctx j).regs.sys.dmode then .error 4
  else if !(s.part part).grants k then .error 2
  else
    let readable := s.imageAt part addr (0x40000 + bankBytes * nb)
    let sound := readable && le h 0 4 == 0x43474C32 && le h 4 1 == 1 && decide (kind ≤ 1) && decide (nb ≤ 24) && le h 24 8 == crc64 (control ++ rest ++ banks)
    let c := takeFields controlRegion Ctx.zero control
    let mask := banksOf c.ctl.banks
    let room := decide (nb ≤ if isMesh k then 24 else 8) && (isMesh k || mask.all fun b => decide (b < 8)) &&
      (s.bound core).all fun j => (s.ctx j).part == part || (s.ctx j).ctl.banks &&& c.ctl.banks == 0
    if readable ∧ nb ≤ 24 ∧ !room then .error 5
    else if !sound ∨ (le h 8 8 ≠ 0 ∧ (!(s.node (le h 8 8)).run ∨ (s.node (le h 8 8)).cause.isSome)) then .error 6
    else if (c.regs.sys.dmode ∧ s.bound core ≠ []) ∨ (c.regs.sys.rmode = 1 ∧ (glenPos core % 2 = 1 ∨ (s.ctx mate).status ≠ .free)) then .error 4
    else
      let c := takeFields (queueRegion ++ [Fld.pad 8] ++ registerRegions) c (if kind = 1 then List.replicate 0x3F000 0 else rest)
      let id := le rest 8184 8
      let node := le h 8 8
      let taken (v : Nat) : Bool := s.ctxs.any fun x => x.2.status != .free && x.2.life == v
      let life := if c.life = 0 ∨ taken c.life then s.nextNode else c.life
      let cmds := if kind = 1 then [] else (Tbl.getD s.stash id [])
      let old := (s.node node).saved.find? fun x => x.2 = addr
      let c := { c with
        status := .blocked, wait := ⟨2, s.now - le control 4024 8, none, some (match le control 4023 1 with | 1 => Status.ending | 2 => .halted | _ => .ready)⟩, part := part, node := node,
        lead := if 2 ≤ c.ctl.clen then c.lead else k, life := life,
        cmds := cmds.zipIdx.map fun x => x.1.again ((s.core core).order + x.2),
        regs := { c.regs with sys := { c.regs.sys with
          ident := ((c.regs.sys.ident.set 0 (w64 (numOf k))).set 1 (w64 core)).set 5 (w64 part) } } }
      let s := ((s.rollCore core).leaveGovernors k).takeBanks core part c.ctl.banks
      let s := mask.zipIdx.foldl (fun s x => s.putBytes (mkey (padSpace core) (x.1 * bankBytes)) ((banks.drop (x.2 * bankBytes)).take bankBytes)) s
      let s := s.setCtx k c
      let s := if c.regs.sys.rmode = 1 then
          (s.takeBanks (core + 1) part c.ctl.banks).setCtx mate { c with
            lead := k, cmds := [],
            regs := { c.regs with sys := { c.regs.sys with rmode := 3, ident := c.regs.sys.ident.set 1 (w64 (core + 1)) } } }
        else s
      let s := s.modCore core fun y => { y with order := y.order + cmds.length, icache := y.icache.filter fun l => l.1 ≠ numOf k }
      let s : State := { s with nextNode := s.nextNode + 1 }
      .ok (s.modNode node fun n => { n with
        gate := n.gate + 1, expect := le h 16 4, saved := n.saved.filter fun x => x.2 ≠ addr,
        ctxs := match old with
          | some x => n.ctxs.map fun j => if j = x.1 then k else if c.regs.sys.rmode = 1 ∧ j = keyOf (coreOf x.1 + 1) (numOf x.1) then mate else j
          | none => if n.ctxs.contains k then n.ctxs else n.ctxs ++ [k] })

end Sys2Proof.Machine
end

