-- ==== Sys2Proof/Machine/EventsTime.lean ====
section
/-!
DEFINITION. Machine/EventsTime.lean: time sharing (18: R376-R380), the restore gate (10: R265; 16: R355), and the ends of energy and
governor windows (14, 26).
-/
namespace Sys2Proof.Machine

/-! Forced epilogue and hard pre-emption. -/
/-- The bundle that a context issues next holds a SEG or an END (R378). -/
def State.atStop (s : State) (k : Nat) : Bool :=
  match s.fetch k with
  | .ok b _ => bitsOf b 58 6 == 17 || bitsOf b 58 6 == 21
  | _ => false

/-- The contexts of a node that are bound. -/
def State.nodeCtxs (s : State) (n : Nat) : List Nat := (s.node n).ctxs.filter fun k => (s.ctx k).node = n && (s.ctx k).status != .free
/-- The device's own load of a context (R380). -/
def State.askLoad (s : State) (k addr part : Nat) : State := { s with ops := s.ops ++ [mkOp .load 103 0 k addr part (s.now + 2 ^ 22) []] }
/-- A node pre-empted by its partition's budget resumes as a whole, once its period has begun and all of it is saved. -/
def State.tryResume (s : State) (n : Nat) : State :=
  let nd := s.node n
  if nd.out = 2 ∧ nd.run ∧ (s.nodeCtxs n) = [] then
    ((nd.saved.filter fun x => nd.mine.contains x.1).foldl (fun s x => s.askLoad x.1 x.2 nd.part) s).modNode n fun x => { x with out := 0, mine := [] }
  else s
/-- The device's own loads of a node's images are called off: their number and images stay. -/
def State.dropLoads (s : State) (n : Nat) : State :=
  { s with ops := s.ops.filter fun o => !(o.kind == .load && o.issuer.isNone && (s.node n).saved.any fun x => x.2 == o.a) }
/-- Pre-empt a node: by forced epilogue when every context has a drain bound, else hard (R377). What of it was being restored stays out. -/
def State.preempt (s : State) (n : Nat) : State :=
  let own := (s.node n).saved.filter fun x => s.ops.any fun o => o.kind == .load && o.issuer.isNone && o.a == x.2
  let s := s.dropLoads n
  let ks := s.nodeCtxs n
  let drain := ks.foldl (fun d k => min d (s.ctx k).ctl.drain) (2 ^ 64)
  let s := s.modNode n fun x => { x with out := 1, mine := ks ++ own.map Prod.fst, drainAt := if drain = 0 then none else some (s.now + drain) }
  if drain = 0 then ks.foldl (fun s k => s.askSave k 0) s
  else ks.foldl (fun s k => s.modCtx k fun c => { c with forced := true }) s

/-- A marked context stops before its next SEG or END, when its engine commands have performed, and its epilogue image is
asked for, in its turn (R376); a used record makes it resume at PRO (R120, R378). -/
def execEpilogueStop (k : Nat) (s : State) : Out :=
  occur s fun s =>
    let c := s.ctx k
    if !c.forced ∨ c.saving ∨ c.regs.sys.rmode.getLsbD 1 ∨ c.kill.isSome ∨ c.status = .free ∨ c.status = .ending ∨ c.cmds ≠ [] ∨ !s.atStop k then none
    else
      let s := s.quiesce k
      let s := s.modCtx k fun c => c.modFlow fun f =>
        if f.epi.used then { f with pc := f.epi.pro, epi := { f.epi with armed := false, used := false, resuming := true } } else f
      some (s.askSave k 1)
/-- The drain bound passes: unless every context of the node has stopped, all that are not saved are pre-empted hard (R378, R379). -/
def execDrainBoundExpiry (n : Nat) (s : State) : Out :=
  occur s fun s => do
    let t ← (s.node n).drainAt
    if s.now < t then none
    else
      let s := s.modNode n fun x => { x with drainAt := none }
      if (s.nodeCtxs n).all fun k => (s.ctx k).saving then some s
      else
        let hard (o : SysOp) : SysOp := if o.kind = .save ∧ o.issuer.isNone ∧ (s.nodeCtxs n).contains o.target then { o with a := 0 } else o
        some ((s.nodeCtxs n).foldl (fun s k => s.askSave k 0) { s with ops := s.ops.map hard })

/-- Every context of the node has been loaded: all become Ready in one cycle (R265). A deterministic node's clocks start anew
(R446), its time away does not count (R281) and each context records a late event (R355). A node of a partition over its budget is pre-empted again (R376). -/
def execRestoreGateRelease (n : Nat) (s : State) : Out :=
  occur s fun s =>
    let nd := s.node n
    if (if n = 0 then 0 < nd.gate else 0 < nd.gate ∧ nd.gate = nd.expect) then
      let held := s.ctxKeys.filter fun k => (s.ctx k).node = n && ((s.ctx k).wait.gate.isSome || (n ≠ 0 && nd.ctxs.contains k && (s.ctx k).status ≠ .free))
      let away := s.now - nd.leftAt
      /- the lead of a restored course: of the contexts that were led by one context, that at position 0 (R39) -/
      let leadOf (k : Nat) : Nat := (held.find? fun j => (s.ctx j).lead = (s.ctx k).lead && (s.ctx j).regs.sys.ident[3] = 0 &&
        !(s.ctx j).regs.sys.rmode.getLsbD 1).getD k
      let leads := (held.filter fun k => decide (2 ≤ (s.ctx k).ctl.clen) && (s.ctx k).wait.gate.isSome && !(s.ctx k).regs.sys.rmode.getLsbD 1).map fun k => (k, leadOf k)
      let s := leads.foldl (fun s x => s.modCtx x.1 fun c => { c with lead := x.2 }) s
      let s := held.foldl (fun s k =>
        let s := s.modCtx k fun c => (if n = 0 then c else c.addLate 3 (s.now - c.stopAt))
        let s := s.modCtx k fun c => match c.wait.gate with | some st => { c with status := st, wait := Wait.none } | none => c
        let s := s.addGrant k
        let (l, s) := s.refetch k (s.ctx k).regs.flow.loops
        let s := s.modCtx k fun c => c.modFlow fun f => { f with loops := l }
        if (s.ctx k).regs.sys.dmode then s.modCore (coreOf k) fun c => { c.rebaseAll s.now with next := s.now } else s) s
      let s := s.modNode n fun x => { x with gate := 0, drainAt := none, away := if n = 0 then 0 else x.away + away }
      some (if n ≠ 0 ∧ (s.part nd.part).overrun then s.preempt n else s)
    else none

/-! Periods (R376). -/
/-- The end of a partition's period; a partition without a budget has none. -/
def State.periodEnd (s : State) (p : Nat) : Nat :=
  let x := s.part p
  if x.budget = 0 ∨ x.period = 0 then 2 ^ 200 else x.created + ((x.periodAt - x.created) / x.period + 1) * x.period
/-- The count of a period has reached the budget. -/
def execBudgetOverrun (p : Nat) (s : State) : Out :=
  occur s fun s =>
    let x := s.part p
    if x.exist ∧ x.budget ≠ 0 ∧ !x.overrun ∧ x.budget ≤ x.charged then
      let s := s.modPart p fun x => { x with overrun := true }
      let s := (s.postQ mgmtKey 2 (element 0x31 (p % 64))).pend mgmtKey 30
      some (((s.nodes.map Prod.fst).filter fun n => (s.node n).run && (s.node n).part == p && (s.node n).out == 0).foldl State.preempt s)
    else none
/-- A period begins: its count is 0, the stream contexts stopped before a LAUNCH go on with what was saved of them, and the
pre-empted nodes resume (R376, R377); so it is when a budget ends that has overrun. A stopped context that has taken a trap meanwhile goes on in its
handler. -/
def execPartitionPeriodStart (p : Nat) (s : State) : Out :=
  occur s fun s =>
    let x := s.part p
    let free := x.overrun && (x.budget == 0 || x.period == 0)
    if x.exist ∧ (s.periodEnd p ≤ s.now ∨ free) then
      let s := s.modPart p fun x => { x with charged := 0, overrun := false, periodAt := if free then s.now else s.periodEnd p }
      let s := (s.part p).parked.foldl (fun s y => s.modCtx y.1 fun c =>
        if c.status = .free ∨ c.regs.flow.pc ≠ y.2.1 then c else (c.modFlow fun f => { f with pc := y.2.1 }).modDat fun d => { d with s := y.2.2 }) s
      let s := s.modPart p fun x => { x with parked := [] }
      let mine := (s.nodes.map Prod.fst).filter fun n => (s.node n).run && (s.node n).part == p && (s.node n).out == 1
      some (mine.foldl (fun s n => (s.modNode n fun y => { y with out := 2 }).tryResume n) s)
    else none

/-! Windows. -/
def execEnergyWindowEnd (c : Nat) (s : State) : Out :=
  occur s fun s => if (s.core c).energy.fin ≤ s.now then some (s.rollEnergy c) else none
def execCoreGovernorWindowEnd (c : Nat) (s : State) : Out :=
  occur s fun s =>
    let t := ((s.core c).gov.win + 1) * 2048
    if c < 256 ∧ t ≤ s.now ∧ !s.intakeBy c t then some (s.coreWindow c) else none
/-- Window `w` of the governor of plain `pl` ends. -/
def execPlainGovernorWindowEnd (pl : Nat) (w : Nat) (s : State) : Out :=
  occur s fun s =>
    if pl < 4 ∧ w = (vget s.plains pl Governor.resetPlain).win ∧ (w + 1) * 2048 ≤ s.now ∧
       !(List.range 256).any (fun c => plainOf c = pl && s.intakeBy c ((w + 1) * 2048)) then
      some (s.plainWindow pl)
    else none

end Sys2Proof.Machine
end

