-- ==== Sys2Proof/Machine/EventsSystem.lean ====
section
/-!
DEFINITION. Machine/EventsSystem.lean: the ends of the asynchronous privileged forms (10: R258, R264-R270, R273, R277; 18: R376,
R380-R387; 20: R409) and usage records (25: R441-R445).
-/
namespace Sys2Proof.Machine

def State.dropOp (s : State) (i : Nat) : State := { s with ops := s.ops.eraseIdx i }
/-- Bytes at a virtual address of a context become those of a list. -/
def State.writeVirt (s : State) (k a : Nat) (l : List Byte) : Nat → Option State
  | 0 => none
  | fuel + 1 =>
    if l = [] then some s
    else
      let len := min l.length (65536 - a % 65536)
      match s.locate k a .write with
      | .ok key uc s => State.writeVirt ((s.writeAt (plainOf (coreOf k)) (s.ctx k).part 3 uc key len (ofBytes (l.take len))).clearPoison key len) k (a + len) (l.drop len) fuel
      | _ => none

/-! Saves and loads (R264, R265, R376, R380). -/
/-- The partition whose period orders a save or load. -/
def State.opPart (s : State) (o : SysOp) : Nat := match o.kind with | .load => o.b | _ => (s.ctx o.target).part
/-- The copy engine could serve the operation now. -/
def State.opReady (s : State) (o : SysOp) : Bool :=
  match o.kind with
  | .save => let c := s.ctx o.target
             c.status == .free || (c.cmds.all (fun m => m.eng != 0) && c.kill.isNone && !c.rolling)
  | .load => true
  | _ => false
/-- No waiting save or load belongs to a partition whose period ends earlier. -/
def State.opTurn (s : State) (o : SysOp) : Bool :=
  let p := s.opPart o
  s.ops.all fun x => !s.opReady x || decide (s.periodEnd p < s.periodEnd (s.opPart x)) ||
    (s.periodEnd p == s.periodEnd (s.opPart x) && decide (p ≤ s.opPart x))

def execCtxsaveDone (i : Nat) (s : State) : Out :=
  occur s fun s => do
    let o ← s.ops[i]?
    if o.kind ≠ .save ∨ !s.opReady o ∨ !s.opTurn o then none
    else
      let k := o.target
      let n := (s.ctx k).node
      let s := s.dropOp i
      some (if (s.ctx k).status = .free then s.finishOp o 4
        else match (s.quiesce k).saveImage k o.a with
          | some t =>
            let t := t.finishOp o 0
            (if t.nodeCtxs n = [] then t.modNode n fun x => { x with drainAt := none } else t).tryResume n
          | none => (s.modCtx k fun c => { c with saving := false }).finishOp o 5)
def execCtxloadDone (i : Nat) (s : State) : Out :=
  occur s fun s => do
    let o ← s.ops[i]?
    if o.kind ≠ .load ∨ !s.opTurn o then none
    else
      let s := s.dropOp i
      some (match s.loadImage o.target o.b o.a with
        | .ok t => t.finishOp o 0
        | .error e =>
          let s := s.finishOp o e
          if o.issuer.isSome then s
          else match (s.nodes.map Prod.fst).find? fun n => (s.node n).run && (s.node n).saved.any fun x => x.2 = o.a with
            | some n =>
              /- the node's other images are not restored (R380) -/
              let s : State := { s with ops := s.ops.filter fun x => !(x.kind == .load && x.issuer.isNone && (s.node n).saved.any fun y => y.2 == x.a) }
              s.killNode n 3 (if s.imageAt o.b o.a 0x40000 then 6 else 7) 0
            | none => s)

/-! Creating a partition (R381, R382, R385). -/
/-- Entries of a template's tables, relocated: what stands at each offset of the image, or none where it is refused. -/
def relocate (rd : Nat → Nat) (hbm carr : Nat × Nat) (pend : Bool) : List (Nat × Nat × Nat) → Nat → Option (List (Nat × Nat))
  | [], _ => some []
  | (lo, w, next) :: r, tbl =>
    (List.range (2 ^ w)).foldl (fun (acc : Option (List (Nat × Nat))) i => do
      let l ← acc
      let o := tbl + 8 * i
      let e := rd o
      let move (b : Nat) : Nat := e - pteAddr e + (pteAddr e + b) % 2 ^ 48
      if bitsOf e 0 1 = 0 then some l
      else if bitsOf e 1 1 = 1 then
        if 30 < lo then some l
        else
          let hide (v : Nat) : Nat := if pend then v - 1 else v
          match bitsOf e 62 2 with
          | 0 => if pteAddr e + 2 ^ lo ≤ hbm.2 then some ((o, hide (move hbm.1)) :: l) else none
          | 1 => if pteAddr e + 2 ^ lo ≤ carr.2 then some ((o, hide (move carr.1)) :: l) else none
          | _ => some l
      else if next = 0 then some l
      else if pteAddr e + next ≤ hbm.2 then do
        let r ← relocate rd hbm carr pend r (pteAddr e)
        some ((o, move hbm.1) :: (r ++ l))
      else none) (some [])

/-- Indices of the meters of Table 10-7. -/
def meterIndices : List Nat := List.range 9 ++ (List.range 64).map (· + 0x100) ++ (List.range 1024).map (· + 0x400) ++ (List.range 64).map (· + 0x800)
/-- What a migration source reports of itself: a stopped partition of this package, or a peer's, whose values are not known here. -/
def State.sourceOf (s : State) (src : Nat) : (Tbl Nat × Nat × BitVec 512) × State :=
  if src % 2 ^ 14 = s.fabric then
    let x := s.part (src / 2 ^ 16 % 64)
    ((x.meters, x.useq, x.uprev), s)
  else
    let (v, s) := (List.range 10).foldl (fun (a : List Nat × State) _ => let (x, s) := a.2.free; (a.1 ++ [x], s)) ([], s)
    let all := v.flatMap fun x => (List.range 128).map fun j => bitsOf x (64 * j) 64
    let (q, s) := s.free
    (((meterIndices.zip all), q % 2 ^ 64, BitVec.ofNat 512 (q / 2 ^ 64)), s)
/-- The steps of CREATE: the outcome, and the state. -/
def State.create (s : State) (p : Nat) (l : List Byte) : Nat × State :=
  let fl := le l 8 8
  let hbm := (le l 0x20 8, le l 0x28 8)
  let carr := (le l 0x30 8, le l 0x38 8)
  let ptt := mkey 2 (le l 0x18 8 % 2 ^ 48)
  let size := s.getN (ptt + 8) 8
  let root := s.getN (ptt + 16) 8
  let idle (s : State) : State := s.modPart p fun x => { x with busy := false }
  let rd (o : Nat) : Nat := if o + 8 ≤ size then s.getN (ptt + 64 + o) 8 else 0
  if le l 0x48 8 < descSlots l then (5, idle s)
  else if s.getN ptt 4 ≠ 0x50540001 ∨ size % 4096 ≠ 0 ∨ 2 ^ 28 < size ∨ hbm.2 < size ∨ root % 4096 ≠ 0 ∨ size < root + 4096 then (6, idle s)
  else match relocate rd hbm carr (bitsOf fl 3 1 == 1) levels root with
    | none => (6, idle s)
    | some entries =>
      let s := s.putBytes (mkey 0 hbm.1) (s.getBytes (ptt + 64) size)
      let s := entries.reverse.foldl (fun s x => s.putN (mkey 0 (hbm.1 + x.1)) 8 x.2) s
      let (m, s) := if bitsOf fl 3 1 = 1 then s.sourceOf (le l 0x60 8) else (([], 0, 0), s)
      let m := if s.product = 1 then m else (m.1.filter fun x => x.1 ≠ 2, m.2)
      (0, s.setPart p { Part.absent with
        exist := true, debug := bitsOf fl 0 1 == 1, inject := bitsOf fl 1 1 == 1, detok := bitsOf fl 2 1 == 1, migdest := bitsOf fl 3 1 == 1, migborn := bitsOf fl 3 1 == 1,
        ways := BitVec.ofNat 16 (le l 0x10 8), hbm := hbm, carr := carr, ctxr := (le l 0x40 8, le l 0x48 8), stopw := le l 0x50 8, dirty := le l 0x58 8,
        migsrc := le l 0x60 8, period := le l 0x68 8, budget := le l 0x70 8, cgrant := BitVec.ofNat 1024 (le l 0x80 128),
        sgrant := BitVec.ofNat 64 (le l 0x100 8), root := hbm.1 + root, meters := m.1, useq := m.2.1, uprev := m.2.2, created := s.now, periodAt := s.now,
        desc := l })
def execPartitionCreateDone (i : Nat) (s : State) : Out :=
  occur s fun s => do
    let o ← s.ops[i]?
    if o.kind ≠ .create then none
    else
      let (r, s) := (s.dropOp i).create o.target o.data
      some (s.finishOp o r)

/-! Signed records (R440, R441). -/
def signedBytes (kind : Nat) (body : List Byte) : List Byte :=
  let l := bytesOf 0x474C5352 4 ++ bytesOf kind 2 ++ bytesOf 1 2 ++ bytesOf body.length 4 ++ List.replicate 52 0 ++ body
  l ++ beBytes (Config.signature l).toNat 512
def usageBody (s : State) (p : Nat) (fin : Bool) : List Byte :=
  let x := s.part p
  let m (i : Nat) : Nat := Tbl.getD x.meters i 0
  bytesOf x.useq 8 ++ bytesOf (s.before + s.now) 8 ++ bytesOf p 8 ++ bytesOf (b2n fin + 2 * b2n (x.migborn && x.usage.isNone)) 8 ++ bytesOf x.uprev.toNat 64 ++
    (List.range 9).flatMap (fun i => bytesOf (m i) 8) ++ (List.range 64).flatMap (fun i => bytesOf (m (0x100 + i)) 8) ++
    (List.range 256).flatMap (fun c => bytesOf (m (0x400 + 4 * c) + m (0x401 + 4 * c) + m (0x402 + 4 * c) + m (0x403 + 4 * c)) 8) ++
    (List.range 64).flatMap (fun i => bytesOf (m (0x800 + i)) 8)
/-- One more usage record of a partition (R443, R444). -/
def State.emitUsage (s : State) (p : Nat) (fin : Bool) : State :=
  let r := signedBytes 0 (usageBody s p fin)
  s.modPart p fun x => { x with usage := some r, useq := x.useq + 1, uprev := BitVec.ofNat 512 (ofBytes (sha512 r)), final := x.final || fin, emitted := x.emitted + 1 }
def execUsageRecordEmit (p : Nat) (s : State) : Out :=
  occur s fun s =>
    let x := s.part p
    if x.exist ∧ !x.final ∧ x.created + (x.emitted + 1) * Config.usagePeriod ≤ s.now then some (s.emitUsage p false) else none

/-- The record of a retirement (R409): it is written before the outcome is posted, and after the nodes that ended with the core (R407). -/
def State.retireRecord (s : State) (o : SysOp) : List Byte :=
  let n := s.flash.length
  signedBytes 1 (bytesOf n 4 ++ bytesOf o.target 4 ++ bytesOf o.a 2 ++ bytesOf o.b 2 ++ bytesOf 0 4 ++ bytesOf (s.before + s.now) 8 ++
    (match s.flash[n - 1]? with | some r => sha512 r | none => List.replicate 64 0))
def execRetirementRecord (i : Nat) (s : State) : Out :=
  occur s fun s => do
    let o ← s.ops[i]?
    if o.kind ≠ .retire ∨ s.nodes.any (fun x => x.2.run && x.2.cause.isSome && decide (o.target < 256) && x.2.ctxs.any fun k => coreOf k == o.target) then none
    else
      let s := s.dropOp i
      some (if 8192 ≤ s.flash.length then s.finishOp o 5
        else ({ s with flash := s.flash ++ [s.retireRecord o] } : State).finishOp o 0)

def tdiCode (t : Tdi) : Nat := match t with | .unlocked => 0 | .locked => 1 | .run => 2 | .error => 3
def quoteBody (s : State) (p nonce seq : Nat) : List Byte :=
  bytesOf (nonce % 2 ^ 56) 8 ++ bytesOf p 1 ++ bytesOf (tdiCode (s.part p).tdi) 1 ++ List.replicate 6 0 ++ bytesOf seq 8 ++
    (List.range 4).flatMap (fun i => bytesOf (vget s.meas i 0).toNat 64) ++ sha512 (s.part p).desc
def execSignedRecordDone (i : Nat) (s : State) : Out :=
  occur s fun s => do
    let o ← s.ops[i]?
    let k := o.issuer.getD mgmtKey
    match o.kind with
    | .sign kind =>
      let s := s.dropOp i
      let x := s.part o.target
      let r : Except Nat (List Byte) :=
        match kind with
        | 0 => if x.exist then (match x.usage with | some l => .ok l | none => .error 4) else .error 4
        | 1 => match s.flash[o.b]? with | some l => .ok l | none => .error 3
        | _ => if x.exist then .ok (signedBytes 2 (quoteBody s o.target (o.b / 256) (ofBytes o.data))) else .error 4
      some (match r with
        | .error e => s.finishOp o e
        | .ok l => match s.writeVirt k o.a (l ++ List.replicate (4096 - l.length) 0) 4 with
          | some t => t.finishOp o 0
          | none => s.finishOp o 3)
    | _ => none

/-! Stopping and destroying (R386, R387, R383). -/
/-- The leaves of a partition's tables. -/
def leavesOf (m : Memory) : List (Nat × Nat × Nat) → Nat → List (Nat × Nat)
  | [], _ => []
  | (lo, w, next) :: r, tbl =>
    (List.range (2 ^ w)).flatMap fun i =>
      let e := m.getN (mkey 0 (tbl + 8 * i)) 8
      if bitsOf e 0 1 = 0 then []
      else if bitsOf e 1 1 = 1 then (if lo ≤ 30 ∧ leafOk e (2 ^ lo) then [(e, 2 ^ lo)] else [])
      else if next = 0 ∨ !tableOk e next then []
      else leavesOf m r (pteAddr e)
/-- The dirty-page report: one bit per 64 KiB page of a pool. -/
def dirtyMap (leaves : List (Nat × Nat)) (ty : Nat) (pool : Nat × Nat) : List Byte :=
  let pages := pool.2 / 65536
  let v := leaves.foldl (fun v x =>
    if bitsOf x.1 62 2 = ty ∧ bitsOf x.1 7 1 = 1 ∧ pool.1 ≤ pteAddr x.1 ∧ pteAddr x.1 < pool.1 + pool.2 then
      v ||| (2 ^ (x.2 / 65536) - 1) * 2 ^ ((pteAddr x.1 - pool.1) / 65536) else v) 0
  bytesOf (v % 2 ^ pages) ((pages + 7) / 8)
/-- A write of the device into a partition's memory at host scope, page by page; pages that do not translate are not written. -/
def State.partPages (s : State) (p va : Nat) (l : List Byte) : Nat → State
  | 0 => s
  | fuel + 1 =>
    if l = [] then s
    else
      let len := min l.length (65536 - va % 65536)
      let s := match s.hostRuns 0 p va len .write 2 with
        | .ok (runs, s) => s.writeRuns 0 p runs (l.take len)
        | .error _ => s
      State.partPages s p (va + len) (l.drop len) fuel
def State.partWrite (s : State) (p va : Nat) (l : List Byte) : State := s.partPages p va l (l.length / 65536 + 2)
def State.stopPart (s : State) (p : Nat) : State :=
  let x := s.part p
  let lost := x.eave.length
  let s := (s.modPart p fun x => { x with eave := [] }).dropLines fun l => l.part == p
  let s := s.emitUsage p true
  let leaves := leavesOf s.mem levels x.root
  let a := dirtyMap leaves 0 x.hbm
  let b := dirtyMap leaves 1 x.carr
  let s := s.partWrite p x.dirty (a ++ List.replicate ((64 - a.length % 64) % 64) 0 ++ b)
  let s := s.partWrite p x.stopw (bytesOf (1 + min lost (2 ^ 32 - 1) * 2 ^ 32) 8)
  let s : State := { s with
    tlb := s.tlb.filter (fun t => t.part != p), reds := s.reds.filter (fun r => r.part != p),
    cores := s.cores.map fun c => (c.1, { c.2 with l1 := c.2.l1.filter fun l => l.part != p }) }
  s.modPart p fun x => { x with stopped := true, busy := false }
def execPartitionStopDone (i : Nat) (s : State) : Out :=
  occur s fun s => do
    let o ← s.ops[i]?
    /- the partition's zeroing that was asked for earlier has been done (R386) -/
    let zeroing (x : SysOp) : Bool := match x.kind with | .zero cls => (if cls = 1 then x.b else x.target) == o.target | _ => false
    if o.kind ≠ .stop ∨ s.ctxs.any (fun c => c.2.part == o.target && (c.2.status != .free || c.2.cmds != [])) ∨ (s.ops.take i).any zeroing then none
    else some (((s.dropOp i).stopPart o.target).finishOp o 0)

def State.wipe (s : State) (key n : Nat) : State := (s.zero key n).clearPoison key n
def State.destroy (s : State) (p : Nat) : State :=
  let x := s.part p
  let s : State := { s with l2 := s.l2.filter fun l => l.part != p }
  let s := (s.cores.map Prod.fst).foldl (fun s c =>
    ((s.core c).owners.filter fun b => b.2 = p).foldl (fun s b =>
      (s.wipe (mkey (padSpace c) (b.1 * 0x20000)) 0x20000).modCore c fun y => { y with owners := y.owners.filter fun z => z.1 ≠ b.1 }) s) s
  let s := (s.ctxKeys.filter fun k => x.grants k).foldl (fun s k => s.setCtx k Ctx.zero) s
  let s := ((s.wipe (mkey 0 x.hbm.1) x.hbm.2).wipe (mkey 1 x.carr.1) x.carr.2).wipe (mkey 0 x.ctxr.1) x.ctxr.2
  s.setPart p Part.absent
def execPartitionDestroyDone (i : Nat) (s : State) : Out :=
  occur s fun s => do
    let o ← s.ops[i]?
    if o.kind ≠ .destroy then none else some (((s.dropOp i).destroy o.target).finishOp o 0)

/-! ZERO (R270). -/
/-- The pages of one memory type that a range of a partition maps become zero. -/
def State.zeroMapped (s : State) (p ty base n : Nat) : State :=
  (List.range (n / 65536)).foldl (fun s i =>
    let va := base + 65536 * i
    match walkFrom s.mem va levels (s.part p).root with
    | .leaf e pk lo _ =>
      let pa := pteAddr e + (va - lo)
      if bitsOf e 62 2 = ty ∧ s.physOk e pa then
        let key := mkey (leafSpace e) pa
        let s := (s.toHome (pk / 64)).modMem fun m => m.putN pk 8 (m.getN pk 8 ||| 192)
        ({ s with l2 := s.l2.filter fun l => !(decide (key / 64 ≤ l.key) && decide (l.key < key / 64 + 1024)) } : State).wipe key 65536
      else s
    | _ => s) s
/-- Every L2 line tagged with a partition becomes zero, at its home too, and every other copy of it goes. -/
def State.zeroL2 (s : State) (p : Nat) : State :=
  (s.l2.filter fun l => l.part == p).foldl (fun s l => (s.dropLines fun x => x.key == l.key && !x.isHome).wipe (l.key * 64) 64) s
def execZeroDone (i : Nat) (s : State) : Out :=
  occur s fun s => do
    let o ← s.ops[i]?
    match o.kind with
    | .zero cls =>
      let s := s.dropOp i
      let s := match cls with
        | 0 => s.zeroMapped o.target 0 o.a o.b
        | 2 => s.zeroMapped o.target 1 o.a o.b
        | 1 => ((List.range 24).filter fun b => o.a / 2 ^ b % 2 = 1).foldl (fun s b =>
            (s.wipe (mkey (padSpace o.target) (b * 0x20000)) 0x20000).modCore o.target fun c => { c with owners := c.owners.filter fun x => x.1 ≠ b }) s
        | _ => s.zeroL2 o.target
      some (s.finishOp o 0)
    | _ => none

end Sys2Proof.Machine
end

