-- ==== Sys2Proof/Machine/EventsHealth.lean ====
section
/-!
DEFINITION. Machine/EventsHealth.lean: heartbeats, votes and fencing (20: R394-R401), patrol (R402-R406) and the halving of scores
(R407). The heartbeat network runs once bring-up has ended.
-/
namespace Sys2Proof.Machine

/-! Heartbeats (R394). -/
/-- MODE of Table 20-1. -/
def State.beatMode (s : State) (c : Nat) : Nat := if (s.unit (coreUnit c)).out then 2 else b2n (s.core c).health.probation
def State.beatPayload (s : State) (c n : Nat) : Nat :=
  let h := (s.core c).health
  let k := (s.core c).cur.getD (keyOf c (s.core c).last)
  let g := if (s.ctx k).regs.sys.rmode.getLsbD 0 then (s.ctx k).regs.dat.sig.toNat else 0
  let acc := (List.range 4).foldl (fun a i => a + b2n (vget h.views i View.live).acc * 2 ^ i) 0
  g * 2 ^ 64 + min (vget h.dlv n 0) 0xFFFFFF * 2 ^ 40 + acc * 2 ^ 36 + s.beatMode c * 2 ^ 32 + h.seq % 2 ^ 32
/-- A core's neighbours but one get a message about it, by the way of Table 20-2, within some cycles. -/
def State.tell (s : State) (x but : Nat) (kind : Nat → LinkMsg) (within : Nat) : State :=
  { s with wires := s.wires ++ (List.range 4).filterMap fun m => (neighbour x m).bind fun y =>
      if y = but then none else some ⟨y, Fin.ofNat 4 (m + 2), kind m, s.now + within⟩ }
/-- A message on the way to core c about its neighbour n arrives. -/
def State.takeWire (s : State) (c n : Nat) (kind : LinkMsg) : Option State :=
  (s.wires.find? fun w => w.dst == c && w.dir.val == n && w.kind == kind).map fun w => { s with wires := s.wires.erase w }
/-- A core in service, on probation or on a lease sends one heartbeat to each neighbour in the first cycle of each period; they arrive within 256
(R394). DESIGN CHOICE: a core may fail to send in a period; Config.silent says in which (log 25). -/
def execHeartbeatSend (c : Nat) (s : State) : Out :=
  occur s fun s =>
    let h := (s.core c).health
    if c < 256 ∧ s.boot.state = 1 ∧ s.now % 65536 = 0 ∧ !h.fenced ∧ !(s.unit (coreUnit c)).retired ∧ !(s.unit (coreUnit c)).failed ∧
       h.sentAt.all fun t => decide (t < s.now) then
      if Config.silent c ((s.before + s.now) / 65536) then some (s.modCore c fun y => { y with health := { y.health with sentAt := some s.now } })
      else
        let s := s.tell c 256 (fun n => .beat (BitVec.ofNat 128 (s.beatPayload c n))) 256
        some (s.modCore c fun y => { y with health := { y.health with seq := (y.health.seq + 1) % 2 ^ 32, sentAt := some s.now, dlv := Vector.replicate 4 0 } })
    else none

/-! Views and votes (R395-R397). -/
def State.view (s : State) (c n : Nat) : View := vget (s.core c).health.views n View.live
def State.modView (s : State) (c n : Nat) (f : View → View) : State :=
  s.modCore c fun y => { y with health := { y.health with views := vset y.health.views n (f (vget y.health.views n View.live)) } }
/-- The neighbours of a core that are in service. -/
def State.inCount (s : State) (x : Nat) : Nat := ((List.range 4).filter fun n => match neighbour x n with | some y => s.inService y | none => false).length
/-- The set of a view has reached its majority. -/
def State.majority (s : State) (c n x : Nat) : Bool :=
  (s.view c n).set != [] && (s.view c n).view != 3 && s.inCount x != 0 && decide (s.inCount x / 2 + 1 ≤ (s.view c n).set.length)
/-- The core is then fenced and notices go out. -/
def State.vote (s : State) (c n x : Nat) : State :=
  if s.majority c n x then (s.fenceCore x).tell x c (fun _ => .fence) 512 else s
/-- The bit of ACCD that a neighbour sets while it accuses the core (Table 10-6). -/
def State.setAccused (s : State) (x n : Nat) (on : Bool) : State :=
  s.modCore x fun y => { y with health := { y.health with
    accusers := if on then y.health.accusers ||| BitVec.ofNat 4 (2 ^ n) else y.health.accusers &&& ~~~ (BitVec.ofNat 4 (2 ^ n)) } }
/-- A core accuses its neighbour n: view, set, message, score, vote (Table 20-2). -/
def State.accuse (s : State) (c n x view : Nat) : State :=
  if (s.unit (coreUnit x)).out then s
  else
    let s := s.modView c n fun v => { v with view := view, acc := true, clean := 0, set := insertSorted c v.set }
    let s := ((s.setAccused x ((n + 2) % 4) true).tell x c (fun _ => .accuse c) 512).addScore (coreUnit x) 16
    (s.vote c n x).settleScores
def State.unaccuse (s : State) (c n x : Nat) : State :=
  ((s.modView c n fun v => { v with view := 0, acc := false, missed := 0, clean := 0, set := v.set.filter (· ≠ c) }).setAccused x ((n + 2) % 4) false).tell x c
    (fun _ => .withdraw c) 512
/-- A babbling condition of neighbour n (R395). -/
def State.babble (s : State) (c n x : Nat) : State :=
  let s := s.modView c n fun v => { v with fine := false, clean := 0 }
  if (s.view c n).view = 0 then s.accuse c n x 2 else s
/-- Every neighbour in service has had one heartbeat of the core in this period, and nothing else. -/
def State.cleanBeat (s : State) (x : Nat) : Bool :=
  (List.range 4).all fun m => match neighbour x m with
    | none => true
    | some y => !s.inService y || ((s.view y ((m + 2) % 4)).beats == 1 && (s.view y ((m + 2) % 4)).fine)
/-- A clean heartbeat of a core on probation; the thousandth readmits it (R401). -/
def State.probationBeat (s : State) (x : Nat) : State :=
  if (s.core x).health.probation ∧ s.cleanBeat x then
    let s := s.modCore x fun y => { y with health := { y.health with clean := y.health.clean + 1 } }
    if (s.core x).health.clean < 1000 then s
    else (s.modCore x fun y => { y with health := { y.health with probation := false } }).postCapacity x 3
  else s
/-- Of a core and of its neighbours the period at hand has begun. -/
def State.inPeriod (s : State) (x : Nat) : Bool :=
  (x :: (List.range 4).filterMap (neighbour x)).all fun c => (s.core c).health.periods == s.now / 65536
/-- A heartbeat arrives, or an extra one of a babbling core (R394, R395). -/
def execHeartbeatReceive (c : Nat) (n : Fin 4) (h : BitVec 128) (s : State) : Out :=
  occur s fun s => do
    let x ← neighbour c n.val
    if 256 ≤ c ∨ s.boot.state ≠ 1 ∨ !s.inPeriod c ∨ !s.inPeriod x then none
    else
      let came := s.takeWire c n.val (.beat h)
      let v := s.view c n.val
      if !s.inService c ∨ v.view = 3 then came
      else
        let dlv := bitsOf h.toNat 40 24
        let bad := decide (2 < v.beats + 1) || decide (v.accepted + 64 < dlv) || decide (dlv + 64 < v.accepted)
        let s := (came.getD s).modView c n.val fun v => { v with beats := v.beats + 1, missed := 0, accepted := 0 }
        let s := if v.view = 1 then s.unaccuse c n.val x else s
        let s := if bad then s.babble c n.val x else s
        some (s.probationBeat x)
/-- A period of a receiver ends (R395). One that had begun before bring-up ended is not judged. -/
def execHeartbeatPeriodEnd (c : Nat) (s : State) : Out :=
  occur s fun s =>
    if 256 ≤ c ∨ s.boot.state ≠ 1 ∨ s.now / 65536 ≤ (s.core c).health.periods then none
    else
      let whole := decide (s.boot.readyAt ≤ (s.now / 65536 - 1) * 65536)
      let s := s.modCore c fun y => { y with health := { y.health with periods := s.now / 65536 } }
      some ((List.range 4).foldl (fun s n => match neighbour c n with
        | none => s
        | some x =>
          let v := s.view c n
          if v.view = 3 ∨ !s.inService c ∨ !whole then s.modView c n fun v => { v with beats := 0, fine := true }
          else
            let s := s.modView c n fun v => { v with
              missed := if v.beats = 0 then v.missed + 1 else 0, clean := if v.beats = 1 ∧ v.fine then v.clean + 1 else 0, beats := 0, fine := true }
            let w := s.view c n
            if w.view = 0 ∧ 3 ≤ w.missed then s.accuse c n x 1
            else if w.view = 2 ∧ 8 ≤ w.clean then s.unaccuse c n x
            else s) s)
/-- A window of 4096 cycles ends in which the neighbour injected at least this many flits (R395): those that the model counts, or more. Windows
without a flit go by unnamed. -/
def execFlitWindowEnd (c : Nat) (n : Fin 4) (flits : Nat) (s : State) : Out :=
  occur s fun s => do
    let x ← neighbour c n.val
    let v := s.view c n.val
    let past := s.now / 4096
    let (w, got) := match v.flits with | y :: _ => if y.1 < past then y else (past - 1, 0) | [] => (past - 1, 0)
    if 256 ≤ c ∨ s.boot.state ≠ 1 ∨ past ≤ v.window then none
    else
      let more := flits - got
      let m := if v.view = 3 ∨ !s.inService c then 0 else max flits got
      let s := s.modView c n.val fun v => { v with
        accepted := v.accepted + more, flits := v.flits.filter fun y => decide (w < y.1), window := w + 1,
        beyond := if 2048 < m then (if w = v.window then v.beyond else 0) + 1 else 0 }
      let s := s.modCore x fun y => { y with health := { y.health with dlv := vset y.health.dlv ((n.val + 2) % 4) (vget y.health.dlv ((n.val + 2) % 4) 0 + more) } }
      some (if 8 ≤ (s.view c n.val).beyond then s.babble c n.val x else s)
/-- An accusation, withdrawal or notice reaches a core that views its neighbour as neither Fenced nor Absent, where it counts; elsewhere it is
ignored (R396). -/
def State.hear (s : State) (c n : Nat) (kind : LinkMsg) (f : State → State) : Option State :=
  if 256 ≤ c then none
  else (s.takeWire c n kind).map fun s => if !s.inService c ∨ (s.view c n).view = 3 then s else f s
def execAccusationReceive (c : Nat) (n : Fin 4) (w : Nat) (s : State) : Out :=
  occur s fun s => do
    let x ← neighbour c n.val
    s.hear c n.val (.accuse w) fun s => (s.modView c n.val fun v => { v with set := insertSorted w v.set }).vote c n.val x
def execWithdrawalReceive (c : Nat) (n : Fin 4) (w : Nat) (s : State) : Out :=
  occur s fun s => s.hear c n.val (.withdraw w) fun s => s.modView c n.val fun v => { v with set := v.set.filter (· ≠ w) }
/-- A fence notice arrives; or the set has its majority because a neighbour has left service (Table 20-2). -/
def execFenceNoticeReceive (c : Nat) (n : Fin 4) (s : State) : Out :=
  occur s fun s => do
    let x ← neighbour c n.val
    if c < 256 ∧ s.inService c ∧ s.majority c n.val x then some (s.vote c n.val x)
    else s.hear c n.val .fence fun s => s.fenceCore x
/-- An APPEAL of neighbour n arrives (R400). -/
def execReadmissionReceive (c : Nat) (n : Fin 4) (s : State) : Out :=
  occur s fun s => do
    let x ← neighbour c n.val
    let t ← s.takeWire c n.val .appeal
    if 256 ≤ c then none
    else
      some (if !s.inService c ∨ (s.view c n.val).view ≠ 3 ∨ !(s.core x).health.probation ∨ (s.core x).health.fenced ∨
       (s.unit (coreUnit x)).retired ∨ (s.unit (coreUnit x)).out then t
      else t.modView c n.val fun v => { View.live with accepted := v.accepted, window := v.window, flits := v.flits })
/-- What stays of a context of a core that its test island zeroes: the commands of it that still perform (R252, R400). -/
def Ctx.remains (c : Ctx) : Ctx :=
  if c.cmds.isEmpty then Ctx.zero else { Ctx.zero with node := c.node, part := c.part, idx := c.idx, lead := c.lead, cmds := c.cmds }
/-- The result of a core's self test (R400). -/
def execBistResult (c : Nat) (pass : Bool) (s : State) : Out :=
  occur s fun s => do
    let _ ← (s.core c).health.testing
    let u := coreUnit c
    if 256 ≤ c ∨ (s.unit u).retired then none
    else
      let mine : SysOp → Bool := fun o => o.kind == .appeal && o.target == c
      let done (s : State) (r : Nat) : State :=
        let s' := (s.ops.filter mine).foldl (fun s o => s.finishOp o r) s
        { s' with ops := s'.ops.filter fun o => !mine o }
      let s := s.modCore c fun y => { y with health := { y.health with testing := none } }
      some (if pass then
          let s := s.wipe (mkey (padSpace c) 0) 0x300000
          let s := ((List.range 4).map (keyOf c)).foldl (fun s k => s.setCtx k (s.ctx k).remains) s
          let s := s.modCore c fun y => { y with owners := [], l1 := [], icache := [], health := { y.health with fenced := false, probation := true, clean := 0, accusers := 0 } }
          done (s.tell c 256 (fun _ => .appeal) 512) 0
        else (done (s.addScore u 1024) 6).settleScores)

/-! Patrol (R402-R406). -/
def allUnits : List Nat :=
  List.range 256 ++ (List.range 4).map (· + 2 ^ 28) ++ (List.range 18).map (· + 2 * 2 ^ 28) ++ (List.range 256).map (· + 3 * 2 ^ 28) ++ (List.range 16).map (· + 4 * 2 ^ 28)
/-- Two units share a limit of R402. -/
def leaseGroup (u v : Nat) : Bool :=
  u / 2 ^ 28 == v / 2 ^ 28 && match u / 2 ^ 28 with
  | 0 => plainOf u == plainOf v
  | 3 => u % 65536 / 32 == v % 65536 / 32
  | _ => true
def leaseLimit (u : Nat) : Nat := match u / 2 ^ 28 with | 0 => 2 | 2 => 2 | _ => 1
def State.mayLease (s : State) (u : Nat) : Bool :=
  s.leasable u && !(s.unit u).retired && !(s.unit u).lease && decide ((s.units.filter fun v => v.2.lease && leaseGroup u v.1).length < leaseLimit u)
/-- A core without a neighbour in service is leased at the first chance (R397). -/
def State.lonely (s : State) (u : Nat) : Bool := decide (u < 256) && s.inService u && s.inCount u == 0
/-- DESIGN CHOICE: a unit whose last lease is six days old comes before the order of scores, so that each is leased in every 7 (log 25). -/
def State.leaseTime (s : State) (u : Nat) : Nat := if s.lonely u then s.now else (s.unit u).last + 6 * Config.perDay - s.before
/-- The order of the schedule: what R397 and the 7 days call for, then score, then time since the last lease, then identifier (R402). -/
def State.leaseBefore (s : State) (u v : Nat) : Bool :=
  let rank (u : Nat) : Nat × Nat × Nat × Nat × Nat :=
    (b2n (!s.lonely u), b2n (decide (s.now < s.leaseTime u)), 0x10000 - (s.unit u).score, (s.unit u).last, u)
  let less : Nat × Nat × Nat × Nat × Nat → Nat × Nat × Nat × Nat × Nat → Bool := fun a b =>
    decide (a.1 < b.1 ∨ (a.1 = b.1 ∧ (a.2.1 < b.2.1 ∨ (a.2.1 = b.2.1 ∧ (a.2.2.1 < b.2.2.1 ∨ (a.2.2.1 = b.2.2.1 ∧
      (a.2.2.2.1 < b.2.2.2.1 ∨ (a.2.2.2.1 = b.2.2.2.1 ∧ a.2.2.2.2 < b.2.2.2.2))))))))
  less (rank u) (rank v)
/-- The management core places a lease. -/
def State.placeLease (s : State) (u : Nat) : State :=
  let s := s.modUnit u fun y => { y with lease := true, out := false, stop := false, last := s.before + s.now }
  { s with ops := s.ops ++ [mkOp .lease 108 0 u 0 0 (s.now + 7 * Config.perDay) []] }
def execLeasePlacement (u : Nat) (s : State) : Out :=
  occur s fun s =>
    if unitOk u ∧ s.boot.state = 1 ∧ s.mayLease u ∧ allUnits.all (fun v => v == u || !s.mayLease v || s.leaseBefore u v) then some (s.placeLease u)
    else none
/-- The plains whose deterministic nodes keep a channel or pass in use (R349). -/
def unitPlains (u : Nat) : List Nat :=
  match u / 2 ^ 28 with
  | 1 => [u % 65536 % 4, (u % 65536 + 1) % 4]
  | 3 => [u % 65536 / 64]
  | 4 => [u % 65536 / 4]
  | _ => []
/-- Partitions with a running node that uses a unit of those classes (Table 20-3): one bound in the unit's plains, or for a port one whose ridge
group spans packages. -/
def State.usersOf (s : State) (u : Nat) : List Nat :=
  (s.nodes.filter fun x => x.2.run && if u / 2 ^ 28 = 2 then decide (1 < x.2.nrank)
    else x.2.ctxs.any fun k => (s.ctx k).node == x.1 && (s.ctx k).status != .free && (unitPlains u).contains (plainOf (coreOf k))).map fun x => x.2.part
/-- A pending lease may withdraw its unit (R349, R403, R405). A core must have no context bound. Of a channel, pass or port every partition that
uses it with a running node must be in a declared window, which its runtime gives the management core. -/
def State.mayWithdraw (s : State) (u : Nat) (windows : List Nat) : Bool :=
  let det (k : Nat) : Bool := (s.ctx k).regs.sys.dmode && (s.ctx k).status != .free
  let still := (s.usersOf u).all windows.contains
  match u / 2 ^ 28 with
  | 0 => (s.bound u).isEmpty && !(s.core u).health.probation && !(s.core u).health.fenced
  | 2 => still && !s.ctxKeys.any fun k => det k && decide (1 < (s.node (s.ctx k).node).nrank)
  | _ => still && !s.ctxKeys.any fun k => det k && (unitPlains u).contains (plainOf (coreOf k))
/-- A pending lease withdraws its unit (R404, R405). -/
def execLeaseWithdrawal (w : Withdrawal) (s : State) : Out :=
  occur s fun s =>
    let u := w.unit
    if (s.unit u).lease ∧ !(s.unit u).out ∧ s.mayWithdraw u w.windows then
      let s := s.latchRates.modUnit u fun y => { y with out := true, since := s.now, pat := s.now }
      some (if u < 256 then
          ((s.setViews u fun v => { v with view := 3, acc := false, set := [] }).modCore u fun y => { y with health := { y.health with accusers := 0 } }).postCapacity u 0
        else s)
    else none
/-- A unit returns from its lease (R405, R406). -/
def State.returnUnit (s : State) (u outcome : Nat) : State :=
  let s := (s.latchRates.modUnit u fun y => { y with out := false, failed := false }).endLease u outcome
  let s : State := if u / 2 ^ 28 = 2 then { s with ports := vset s.ports (u % 65536) { vget s.ports (u % 65536) Port.up0 with up := true, fails := 0, nakAt := none } } else s
  if u < 256 then (s.setViews u fun v => { v with view := 0, missed := 0 }).postCapacity u 1 else s
/-- The longest that a pattern of a unit, and its whole list, may take (R406). -/
def patternBounds (u : Nat) : Nat × Nat :=
  match u / 2 ^ 28 with
  | 0 => (Config.perMs, 40 * Config.perMs)
  | 1 => (Config.perMs, 20 * Config.perMs)
  | 2 => (Config.perMs, 20 * Config.perMs)
  | _ => (10 * Config.perMs, 200 * Config.perMs)
/-- A pattern of a withdrawn unit ends (R271, R406); the one at hand when the list's bound is reached is its last. -/
def execPatternEnd (u : Nat) (pass : Bool) (last : Bool) (s : State) : Out :=
  occur s fun s =>
    let x := s.unit u
    if !x.lease ∨ !x.out then none
    else
      let last := last || decide (x.since + (patternBounds u).2 ≤ s.now)
      some (if !pass then (s.addScore u 1024).retireUnit u 1 SysOp.none 6
      else if x.stop then s.returnUnit u 4
      else if last then s.returnUnit u 0
      else s.modUnit u fun y => { y with pat := s.now })

/-- Every hour each score is halved (R407). -/
def execScoreHalving (s : State) : Out :=
  occur s fun s => if (s.hours + 1) * Config.perHour ≤ s.now then some s.halve else none

end Sys2Proof.Machine
end

