-- ==== Sys2Proof/Machine/EventsHost.lean ====
section
/-!
DEFINITION. Machine/EventsHost.lean: what reaches the package from outside: power and heat (26: R449-R452), bring-up (R446, R453,
R454; 25: R439), the host links (25: R428-R434), the security processor (R440) and the Bamed ports (R435, R436).
-/
namespace Sys2Proof.Machine

/-! Power (R348, R449-R451). -/
/-- Weight of a grant: nJ in a window of 256 cycles at the core's divisor, so that 13,977,600 is 1 W (R447, R451). -/
def State.grantWeight (s : State) (k nJ : Nat) : Nat := nJ * (360360 / (s.core (coreOf k)).div[(0 : Fin 5)])
/-- The budget has changed: deterministic grants stand, the others share what is left by one factor; deterministic nodes are
killed when their grants alone exceed it (R348, R451). -/
def State.budgetChange (s : State) : State :=
  let live := s.ctxKeys.filter fun k => (s.ctx k).status != .free
  let det := live.filter fun k => (s.ctx k).regs.sys.dmode
  let other := live.filter fun k => !(s.ctx k).regs.sys.dmode
  let cap := (s.packageBudget - Config.overhead) * 13977600
  let d := det.foldl (fun n k => n + s.grantWeight k (s.ctx k).regs.sys.egrant.toNat) 0
  let all := other.foldl (fun n k => n + s.grantWeight k (s.ctx k).ctl.egrant.toNat) 0
  let left := cap - d
  let s := other.foldl (fun s k => s.modCtx k fun c => c.modSys fun y =>
    { y with egrant := if all ≤ left then c.ctl.egrant else BitVec.ofNat 32 (c.ctl.egrant.toNat * left / all) }) s
  if cap < d then
    ((s.nodes.filter fun x => x.2.run && x.2.dmode).map Prod.fst).foldl (fun s n =>
      s.killNode n 3 29 ((det.find? fun k => (s.ctx k).node = n).elim 0 fun k => (s.ctx k).regs.sys.ident[2].toNat)) s
  else s
def execPowerToken (t : BitVec 192) (s : State) : Out :=
  occur s fun s =>
    let v := t.toNat
    let seq := bitsOf v 0 64
    if bitsOf v 128 64 ≠ 0 ∨ s.power.seq.any (fun q => decide (seq ≤ q)) then none
    else some ({ s with power := { s.power with
      seq := some seq, budget := min (bitsOf v 64 32) Config.maxBudget, leaseEnd := some (s.now + bitsOf v 96 32 * Config.perMs), atFloor := false } } : State).budgetChange
/-- The lease ended and no token came in that cycle (R450). -/
def execTokenLeaseExpiry (s : State) : Out :=
  occur s fun s => do
    let t ← s.power.leaseEnd
    if t < s.now then
      some ({ s with power := { s.power with budget := s.power.floor, leaseEnd := none, atFloor := true } } : State).budgetChange
    else none

/-! Heat (R452) and the safe state (R454). -/
/-- The compute dies are held in reset; the management core stays live. -/
def State.safeState (s : State) (code detail : Nat) : State :=
  { s with
    boot := { s.boot with state := 2, code := code, detail := detail }, ctxs := s.ctxs.filter (fun x => x.1 = mgmtKey),
    cores := s.cores.filter (fun x => x.1 = 260), nodes := [], msgs := [], reds := [], colls := [], l2 := [], tlb := [], dying := [],
    wires := [], ops := s.ops.filter fun o => o.kind == .retire || (o.issuer == some mgmtKey && match o.kind with | .sign _ => true | .lease => true | _ => false) }
def execHbmThermalMeasurement (st : Fin 8) (temp : Int) (s : State) : Out :=
  occur s fun s =>
    let x := s.hbmStacks[st]
    let y : Thermal := ⟨if 85 ≤ temp then true else if temp < 83 then false else x.refresh2, if 95 ≤ temp then true else if temp < 93 then false else x.cap, x.off || decide (105 ≤ temp)⟩
    let s : State := { s.latchRates with hbmStacks := s.hbmStacks.set st y }
    some (if 105 ≤ temp then s.safeState 0x31 st.val else s)
/-- A die is measured: 10 % off for each millisecond in which some die is above 100 °C (R452). -/
def execDieThermalMeasurement (pl : Fin 4) (temp : Int) (s : State) : Out :=
  occur s fun s =>
    if 110 ≤ temp then some (s.safeState 0x32 pl.val)
    else if 100 < temp then
      let ms := s.now / Config.perMs + 1
      let power := if s.power.cutMs = ms then s.power else { s.power with cut := min 100 (s.power.cut + 10), cutMs := ms }
      some ({ s with dies := s.dies.set pl true, power := power } : State).budgetChange
    else if temp < 95 ∧ s.dies[pl] then
      let dies := s.dies.set pl false
      some ({ s with dies := dies, power := { s.power with cut := if dies.toList.any id then s.power.cut else 0 } } : State).budgetChange
    else some s

/-! Bring-up. -/
/-- Power-on reset (R446): everything starts anew but scores and states of units, retirements, the flash and the count of cycles since first
power-on (R407, R409), and the module's floor (R450); memories outside the package keep their contents. DEDUCED: the state of a unit is its lease,
fence or probation with what they rest on, times counted on; a form that waited for it has no issuer left (log 21). -/
def execPowerOnReset (s : State) : Out :=
  occur s fun s =>
    let core (c : Core) : Core :=
      let h := c.health
      { Core.reset with health := { Health.zero with
        probation := h.probation, clean := h.clean, barred := h.barred, fenced := h.fenced, accusers := 0, testing := h.testing.map fun _ => 0, fences := h.fences,
        views := h.views.map fun v => if v.view = 3 then { View.live with view := 3 } else View.live } }
    some { State.reset with
      before := s.before + s.now, product := s.product, flash := s.flash, fresh := s.fresh, agenda := s.agenda, answers := s.answers,
      power := { State.reset.power with floor := s.power.floor, budget := s.power.floor },
      units := s.units.map (fun u => (u.1, { u.2 with failed := false, since := 0, pat := 0 })),
      cores := (s.cores.filter fun x => decide (x.1 < 256)).map fun x => (x.1, core x.2),
      ops := (s.units.filter fun u => u.2.lease).map fun u => mkOp .lease 108 0 u.1 0 0 (7 * Config.perDay) [],
      mem := s.mem.filter fun c => decide (2 ≤ spaceOf c.1) && decide (spaceOf c.1 < 20000) }
/-- The tests of Table 26-3 in order: code, and the unit of a unit test. -/
def bootTests : List (Nat × Option Nat) :=
  [1, 2, 3, 4, 5, 0x10, 0x11, 0x12].map (fun c => (c, none)) ++ (List.range 256).map (fun u => (0x20, some u)) ++
    (List.range 256).map (fun i => (0x21, some (3 * 2 ^ 28 + i))) ++ (List.range 16).map (fun i => (0x21, some (4 * 2 ^ 28 + i))) ++
    (List.range 18).map (fun i => (0x22, some (2 * 2 ^ 28 + i))) ++ [(0x23, none)]
/-- A power-on test ends (R453); a firmware image is verified and measured (R439). DETAIL of a failure is the index of the image, or what the test
names (Table 26-4). With the last test the device is ready, and the management core sets its fabric identifier (R435, log 32). DESIGN CHOICE: the
neighbours of a core that failed view it as Absent until it returns (log 26). -/
def execSelfTest (code : Nat) (unit : Nat) (pass : Bool) (data : List (BitVec 8)) (s : State) : Out :=
  occur s fun s => do
    let (c, u) ← bootTests[s.boot.next]?
    if s.boot.state ≠ 0 ∨ c ≠ code ∨ u.any (· ≠ unit) then none
    else
      let fw := decide (2 ≤ c) && decide (c ≤ 5)
      let ok := if fw then Config.firmwareSigned data && decide (Config.fusedVersion ≤ Config.firmwareVersion data)
        else if c = 0x23 then s.links.toList.any (· ≠ 0) else pass
      let next := s.boot.next + 1
      let s : State := if next = bootTests.length ∧ ok then
          { s with boot := { s.boot with next := next, state := 1, readyAt := s.now }, fabric := Config.fabricId.toNat }
        else { s with boot := { s.boot with next := next } }
      some (match u with
        | some v => if ok then s
                    else
                      let s := (({ s.latchRates with boot := { s.boot with units := min 255 (s.boot.units + 1) } } : State).addScore v 1024).modUnit v fun y => { y with failed := true }
                      (if v < 256 then s.setViews v fun w => { w with view := 3, acc := false, set := [] } else s).settleScores
        | none => if ok then (if fw then { s with meas := vset s.meas (c - 2) (BitVec.ofNat 512 (ofBytes (sha512 data))) } else s)
                  else s.safeState c (if fw then c - 2 else if c = 1 ∨ c = 0x23 then 0 else unit % 65536))

/-! The host links (R428-R434). -/
def execLinkTraining (l : Fin 2) (width : Nat) (s : State) : Out :=
  occur s fun s => if [0, 4, 8, 16].contains width then some { s with links := s.links.set l width } else none
/-! Virtual function p mod 64 + 1 of link p / 64, for p below 128, serves partition p mod 64 (R429). -/
def vfPart (p : Nat) : Nat := p % 64
def vfLink (p : Nat) : Fin 2 := Fin.ofNat 2 (p / 64)
/-- The link of the function is up. -/
def State.vfUp (s : State) (p : Nat) : Bool := decide (p < 128) && s.links[vfLink p] != 0
/-- The partition of a virtual function answers memory requests. -/
def State.vfLive (s : State) (p : Nat) : Bool := (s.part (vfPart p)).exist && s.boot.state != 2
def State.modVf (s : State) (p : Nat) (f : VfRegs → VfRegs) : State := s.modPart (vfPart p) fun x => x.modVf (vfLink p) f
def Part.eaveUsed (x : Part) : Nat := x.eave.foldl (fun n w => n + eaveSpace w.data.length) 0
/-- FREE and PEND of Table 25-2. -/
def State.vfFree (s : State) (p : Nat) : Nat := 0x40000 - (s.part (vfPart p)).eaveUsed
def State.vfPend (s : State) (p : Nat) : Nat := (s.part (vfPart p)).eave.length
/-- The register block of a function (Table 25-2). -/
def State.vfBlock (s : State) (p : Nat) : List (BitVec 8) :=
  let v := (s.part (vfPart p)).vf[vfLink p]
  bytesOf v.winbase.toNat 8 ++ bytesOf (s.vfFree p) 4 ++ bytesOf (s.vfPend p) 4 ++ bytesOf v.drop.toNat 8 ++ bytesOf v.wfault.toNat 8 ++ bytesOf v.status.toNat 4
/-- BRINGUP (Table 26-4). -/
def State.bringup (s : State) : Nat :=
  s.boot.state % 256 + s.boot.code % 256 * 2 ^ 8 + s.boot.detail % 65536 * 2 ^ 16 + s.boot.units % 256 * 2 ^ 32
def execHostWrite (p : Nat) (off : Nat) (data : List (BitVec 8)) (s : State) : Out :=
  occur s fun s =>
    let x := s.part (vfPart p)
    if !s.vfUp p ∨ 2 ^ 40 < off + data.length then none
    else if !s.vfLive p then some (s.answer (.unsupported p))
    else if x.stopped then none
    else if s.vfFree p < eaveSpace data.length then
      some ((s.modVf p fun v => { v with drop := satAdd1 v.drop, status := v.status ||| 1 }).answer (.advisory p))
    else some (s.modPart (vfPart p) fun x => { x with eave := x.eave ++ [⟨vfLink p, x.vf[vfLink p].winbase.toNat + off, data⟩] })
/-- A host read: of BAR2 of a function below 128; from there to 255 of its BAR0; 256 and 257 of BAR0 of PF0 on a link, where the spec gives eight
bytes. Of a stopped partition Config.readsStopped says which of R387 and R433 holds (log 18). -/
def execHostRead (p : Nat) (off : Nat) (n : Nat) (s : State) : Out :=
  occur s fun s =>
    if 256 ≤ p then
      if 258 ≤ p ∨ s.links[Fin.ofNat 2 p] = 0 then none
      else if 8 < off + n then some (s.answer (.unsupported p))
      else some (s.answer (.hostRead p (some (((bytesOf s.bringup 8).drop off).take n))))
    else
      let v := p % 128
      if !s.vfUp v then none
      else if !s.vfLive v then some (s.answer (.unsupported p))
      else if 128 ≤ p then
        if 0x10000 < off + n then none
        else some (s.answer (.hostRead p (some ((List.range n).map fun i => (s.vfBlock v).getD (off + i) 0))))
      else if 2 ^ 40 < off + n then none
      else if (s.part (vfPart v)).stopped ∧ !Config.readsStopped then some (s.answer (.unsupported p))
      else match s.hostRuns 0 (vfPart v) ((s.part (vfPart v)).vf[vfLink v].winbase.toNat + off) n .read (n / 65536 + 2) with
        | .ok (runs, s) => some (s.answer (.hostRead p (some (runs.flatMap fun r => s.getBytes r.1 r.2.1))))
        | .error _ => some (s.answer (.hostRead p none))
def execWinbase (p : Nat) (v : BitVec 64) (ide : Bool) (s : State) : Out :=
  occur s fun s =>
    let base := v.toNat / 2 ^ 40 * 2 ^ 40
    if !s.vfUp p then none
    else if !s.vfLive p then some (s.answer (.unsupported p))
    else if (s.locked (vfPart p) ∧ !ide) ∨ base < 0x1000000 ∨ 2 ^ 57 ≤ base then none
    else some (s.modVf p fun r => { r with winbase := BitVec.ofNat 64 base })
/-- STATUS is cleared by writing ones. -/
def execStatus (p : Nat) (v : BitVec 32) (s : State) : Out :=
  occur s fun s =>
    if !s.vfUp p then none
    else if !s.vfLive p then some (s.answer (.unsupported p))
    else some (s.modVf p fun r => { r with status := r.status &&& ~~~ (BitVec.ofNat 2 v.toNat) })
def execSpdmRequest (f : Nat) (msg : List (BitVec 8)) (s : State) : Out :=
  occur s fun s => if f ≤ 64 then some (s.answer (.spdm f (Config.spdmAnswer f msg))) else none
/-- A TDISP message: lock, start and stop of the interface. -/
def execTdispRequest (p : Nat) (want : Tdi) (s : State) : Out :=
  occur s fun s =>
    if !(s.part p).exist then none
    else match (s.part p).tdi, want with
      | .unlocked, .locked => some (s.modPart p fun x => { x with tdi := .locked })
      | .locked, .run => some (s.modPart p fun x => { x with tdi := .run })
      | _, .unlocked => some (s.modPart p fun x => { x with tdi := .unlocked })
      | _, _ => none

/-! Bamed ports (R435, R436). -/
def State.modPort (s : State) (i : Fin 18) (f : Port → Port) : State := { s with ports := s.ports.set i (f s.ports[i]) }
/-- What a whole message does where it arrives is not given by its flits: it is handed on as it came (log 32). A flit with a reserved TYPE, with bits
29:24 set or for another package is no good flit. -/
def execFlitReceive (port : Fin 18) (flit : BitVec 512) (s : State) : Out :=
  occur s fun s =>
    let x := s.ports[port]
    let v := flit.toNat
    if !s.portLive port then none
    else if flitCrc v ≠ bitsOf v 0 16 ∨ bitsOf v 16 8 ≠ x.rx then
      some ((s.modPort port fun y => { y with retry := true }).answer (.nak port.val x.rx))
    else
      let s := if x.retry then (s.addScore (portUnit port) 1).settleScores else s
      let all := x.inbox ++ bytesOf (bitsOf v 64 448) 56
      let good := decide (bitsOf v 24 6 = 0) && decide (bitsOf v 31 3 < 6) && decide (bitsOf v 50 14 = s.fabric)
      let s := s.modPort port fun y => { y with rx := (x.rx + 1) % 256, retry := false, inbox := if bitsOf v 30 1 = 1 ∨ !good then [] else all }
      if bitsOf v 30 1 = 0 ∨ !good then some s
      else
        let body := all.take (all.length - 4)
        some (if all.length ≤ 64 * 56 ∧ crc32 body = ofBytes (all.drop (all.length - 4)) then
            s.answer (.took (bitsOf v 36 14) (bitsOf v 34 2) (bitsOf v 31 3) body)
          else s.answer (.resend port.val))
/-- A NAK: the flits from the named one on are sent again. A replay has failed when the NAK after it names the same flit; the sixteenth failed
replay in a row takes the port down, and the management core leases it at once (R436). -/
def execNakReceive (port : Fin 18) (lseq : BitVec 8) (s : State) : Out :=
  occur s fun s =>
    let x := s.ports[port]
    let u := portUnit port
    if !s.portLive port then none
    else
      let again := x.replay.dropWhile fun f => bitsOf f.toNat 16 8 ≠ lseq.toNat
      let fails := if x.nakAt = some lseq.toNat then x.fails + 1 else 0
      let s := (s.modPort port fun y => { y with replay := again, nakAt := some lseq.toNat, fails := fails }).answer (.replay port.val again)
      if fails < 16 then some (s.addScore u 1).settleScores
      else
        let s := s.modPort port fun y => { y with up := false }
        some (if (s.unit u).lease ∨ (s.unit u).retired then s else s.placeLease u)

end Sys2Proof.Machine
end

