-- ==== Sys2Proof/Machine/Dispatch.lean ====
section
/-! DEFINITION. Dispatch.lean: one arm per instruction, each one call of its meaning. -/
namespace Sys2Proof.Machine
def exec (i : Instr) (s : State) : Host.Outcome State Fault Refusal :=
  match i with
  | .nopF => Sys2Proof.Machine.execNopF s
  | .prep x => Sys2Proof.Machine.execPrep x s
  | .prepm x => Sys2Proof.Machine.execPrepm x s
  | .bt x => Sys2Proof.Machine.execBt x s
  | .j x => Sys2Proof.Machine.execJ x s
  | .call x => Sys2Proof.Machine.execCall x s
  | .ret x => Sys2Proof.Machine.execRet x s
  | .loop x => Sys2Proof.Machine.execLoop x s
  | .setlc x => Sys2Proof.Machine.execSetlc x s
  | .spl x => Sys2Proof.Machine.execSpl x s
  | .wait x => Sys2Proof.Machine.execWait x s
  | .post x => Sys2Proof.Machine.execPost x s
  | .postr x => Sys2Proof.Machine.execPostr x s
  | .tlw x => Sys2Proof.Machine.execTlw x s
  | .bbset x => Sys2Proof.Machine.execBbset x s
  | .bbwait x => Sys2Proof.Machine.execBbwait x s
  | .ridge x => Sys2Proof.Machine.execRidge x s
  | .seg x => Sys2Proof.Machine.execSeg x s
  | .rdv x => Sys2Proof.Machine.execRdv x s
  | .trap x => Sys2Proof.Machine.execTrap x s
  | .rtt x => Sys2Proof.Machine.execRtt x s
  | .endF x => Sys2Proof.Machine.execEndF x s
  | .yield x => Sys2Proof.Machine.execYield x s
  | .drain x => Sys2Proof.Machine.execDrain x s
  | .drainE x => Sys2Proof.Machine.execDrainE x s
  | .clkdiv x => Sys2Proof.Machine.execClkdiv x s
  | .launch x => Sys2Proof.Machine.execLaunch x s
  | .send x => Sys2Proof.Machine.execSend x s
  | .getmF x => Sys2Proof.Machine.execGetmF x s
  | .epi x => Sys2Proof.Machine.execEpi x s
  | .wdog x => Sys2Proof.Machine.execWdog x s
  | .hbeat x => Sys2Proof.Machine.execHbeat x s
  | .capq x => Sys2Proof.Machine.execCapq x s
  | .pitchq x => Sys2Proof.Machine.execPitchq x s
  | .sleep x => Sys2Proof.Machine.execSleep x s
  | .brk x => Sys2Proof.Machine.execBrk x s
  | .scalarNop => Sys2Proof.Machine.execScalarNop s
  | .add x => Sys2Proof.Machine.execAdd x s
  | .sub x => Sys2Proof.Machine.execSub x s
  | .addi x => Sys2Proof.Machine.execAddi x s
  | .movi x => Sys2Proof.Machine.execMovi x s
  | .movhi x => Sys2Proof.Machine.execMovhi x s
  | .mul x => Sys2Proof.Machine.execMul x s
  | .mulh x => Sys2Proof.Machine.execMulh x s
  | .mulhu x => Sys2Proof.Machine.execMulhu x s
  | .div x => Sys2Proof.Machine.execDiv x s
  | .divu x => Sys2Proof.Machine.execDivu x s
  | .rem x => Sys2Proof.Machine.execRem x s
  | .remu x => Sys2Proof.Machine.execRemu x s
  | .and x => Sys2Proof.Machine.execAnd x s
  | .or x => Sys2Proof.Machine.execOr x s
  | .xor x => Sys2Proof.Machine.execXor x s
  | .andn x => Sys2Proof.Machine.execAndn x s
  | .not x => Sys2Proof.Machine.execNot x s
  | .shl x => Sys2Proof.Machine.execShl x s
  | .shr x => Sys2Proof.Machine.execShr x s
  | .sar x => Sys2Proof.Machine.execSar x s
  | .rot x => Sys2Proof.Machine.execRot x s
  | .fsh x => Sys2Proof.Machine.execFsh x s
  | .bfx x => Sys2Proof.Machine.execBfx x s
  | .bfxs x => Sys2Proof.Machine.execBfxs x s
  | .bfi x => Sys2Proof.Machine.execBfi x s
  | .clz x => Sys2Proof.Machine.execClz x s
  | .ctz x => Sys2Proof.Machine.execCtz x s
  | .popc x => Sys2Proof.Machine.execPopc x s
  | .min x => Sys2Proof.Machine.execMin x s
  | .max x => Sys2Proof.Machine.execMax x s
  | .minu x => Sys2Proof.Machine.execMinu x s
  | .maxu x => Sys2Proof.Machine.execMaxu x s
  | .sel x => Sys2Proof.Machine.execSel x s
  | .cmpeq x => Sys2Proof.Machine.execCmpeq x s
  | .cmpne x => Sys2Proof.Machine.execCmpne x s
  | .cmplt x => Sys2Proof.Machine.execCmplt x s
  | .cmple x => Sys2Proof.Machine.execCmple x s
  | .cmpltu x => Sys2Proof.Machine.execCmpltu x s
  | .cmpleu x => Sys2Proof.Machine.execCmpleu x s
  | .cmpi x => Sys2Proof.Machine.execCmpi x s
  | .pand x => Sys2Proof.Machine.execPand x s
  | .por x => Sys2Proof.Machine.execPor x s
  | .pxor x => Sys2Proof.Machine.execPxor x s
  | .pnot x => Sys2Proof.Machine.execPnot x s
  | .pmov x => Sys2Proof.Machine.execPmov x s
  | .fadd x => Sys2Proof.Machine.execFadd x s
  | .fsub x => Sys2Proof.Machine.execFsub x s
  | .fmul x => Sys2Proof.Machine.execFmul x s
  | .fma x => Sys2Proof.Machine.execFma x s
  | .fdiv x => Sys2Proof.Machine.execFdiv x s
  | .fsqrt x => Sys2Proof.Machine.execFsqrt x s
  | .fcvt x => Sys2Proof.Machine.execFcvt x s
  | .fcmp x => Sys2Proof.Machine.execFcmp x s
  | .fmin x => Sys2Proof.Machine.execFmin x s
  | .fmax x => Sys2Proof.Machine.execFmax x s
  | .ld x => Sys2Proof.Machine.execLd x s
  | .lds x => Sys2Proof.Machine.execLds x s
  | .st x => Sys2Proof.Machine.execSt x s
  | .ldl x => Sys2Proof.Machine.execLdl x s
  | .invl x => Sys2Proof.Machine.execInvl x s
  | .fll1 x => Sys2Proof.Machine.execFll1 x s
  | .aadd x => Sys2Proof.Machine.execAadd x s
  | .axchg x => Sys2Proof.Machine.execAxchg x s
  | .acas x => Sys2Proof.Machine.execAcas x s
  | .amin x => Sys2Proof.Machine.execAmin x s
  | .amax x => Sys2Proof.Machine.execAmax x s
  | .aand x => Sys2Proof.Machine.execAand x s
  | .aor x => Sys2Proof.Machine.execAor x s
  | .afadd x => Sys2Proof.Machine.execAfadd x s
  | .scalarGetm x => Sys2Proof.Machine.execScalarGetm x s
  | .scalarPutm x => Sys2Proof.Machine.execScalarPutm x s
  | .scalarXfer x => Sys2Proof.Machine.execScalarXfer x s
  | .mfs x => Sys2Proof.Machine.execMfs x s
  | .mts x => Sys2Proof.Machine.execMts x s
  | .tlbinvPage x => Sys2Proof.Machine.execTlbinvPage x s
  | .tlbinvRange x => Sys2Proof.Machine.execTlbinvRange x s
  | .tlbinvAll x => Sys2Proof.Machine.execTlbinvAll x s
  | .tlbsync x => Sys2Proof.Machine.execTlbsync x s
  | .ctxsave x => Sys2Proof.Machine.execCtxsave x s
  | .ctxload x => Sys2Proof.Machine.execCtxload x s
  | .ctxkill x => Sys2Proof.Machine.execCtxkill x s
  | .partsetCreate x => Sys2Proof.Machine.execPartsetCreate x s
  | .partsetUpdate x => Sys2Proof.Machine.execPartsetUpdate x s
  | .partsetStop x => Sys2Proof.Machine.execPartsetStop x s
  | .partsetDestroy x => Sys2Proof.Machine.execPartsetDestroy x s
  | .wayset x => Sys2Proof.Machine.execWayset x s
  | .zeroMem x => Sys2Proof.Machine.execZeroMem x s
  | .zeroBanks x => Sys2Proof.Machine.execZeroBanks x s
  | .zeroCarr x => Sys2Proof.Machine.execZeroCarr x s
  | .zeroL2 x => Sys2Proof.Machine.execZeroL2 x s
  | .lease x => Sys2Proof.Machine.execLease x s
  | .unlease x => Sys2Proof.Machine.execUnlease x s
  | .score x => Sys2Proof.Machine.execScore x s
  | .scoreAdd x => Sys2Proof.Machine.execScoreAdd x s
  | .retire x => Sys2Proof.Machine.execRetire x s
  | .retireForce x => Sys2Proof.Machine.execRetireForce x s
  | .fenceq x => Sys2Proof.Machine.execFenceq x s
  | .appeal x => Sys2Proof.Machine.execAppeal x s
  | .appealBar x => Sys2Proof.Machine.execAppealBar x s
  | .meter x => Sys2Proof.Machine.execMeter x s
  | .signqUsage x => Sys2Proof.Machine.execSignqUsage x s
  | .signqRetired x => Sys2Proof.Machine.execSignqRetired x s
  | .signqQuote x => Sys2Proof.Machine.execSignqQuote x s
  | .powqPkg x => Sys2Proof.Machine.execPowqPkg x s
  | .powqCore x => Sys2Proof.Machine.execPowqCore x s
  | .powqGrant x => Sys2Proof.Machine.execPowqGrant x s
  | .injOff x => Sys2Proof.Machine.execInjOff x s
  | .injOn x => Sys2Proof.Machine.execInjOn x s
  | .injPoison x => Sys2Proof.Machine.execInjPoison x s
  | .vectorNop u => Sys2Proof.Machine.execVectorNop u s
  | .vadd u x => Sys2Proof.Machine.execVadd u x s
  | .vsub u x => Sys2Proof.Machine.execVsub u x s
  | .vmul u x => Sys2Proof.Machine.execVmul u x s
  | .vfma u x => Sys2Proof.Machine.execVfma u x s
  | .vfms u x => Sys2Proof.Machine.execVfms u x s
  | .vmin u x => Sys2Proof.Machine.execVmin u x s
  | .vmax u x => Sys2Proof.Machine.execVmax u x s
  | .vabs u x => Sys2Proof.Machine.execVabs u x s
  | .vneg u x => Sys2Proof.Machine.execVneg u x s
  | .vrcp u x => Sys2Proof.Machine.execVrcp u x s
  | .vrsq u x => Sys2Proof.Machine.execVrsq u x s
  | .vexp2 u x => Sys2Proof.Machine.execVexp2 u x s
  | .vlog2 u x => Sys2Proof.Machine.execVlog2 u x s
  | .vdiv u x => Sys2Proof.Machine.execVdiv u x s
  | .vcmpeq u x => Sys2Proof.Machine.execVcmpeq u x s
  | .vcmpne u x => Sys2Proof.Machine.execVcmpne u x s
  | .vcmplt u x => Sys2Proof.Machine.execVcmplt u x s
  | .vcmple u x => Sys2Proof.Machine.execVcmple u x s
  | .vsel u x => Sys2Proof.Machine.execVsel u x s
  | .vand u x => Sys2Proof.Machine.execVand u x s
  | .vor u x => Sys2Proof.Machine.execVor u x s
  | .vxor u x => Sys2Proof.Machine.execVxor u x s
  | .vandn u x => Sys2Proof.Machine.execVandn u x s
  | .vshl u x => Sys2Proof.Machine.execVshl u x s
  | .vshr u x => Sys2Proof.Machine.execVshr u x s
  | .vsar u x => Sys2Proof.Machine.execVsar u x s
  | .vbfx u x => Sys2Proof.Machine.execVbfx u x s
  | .vbfi u x => Sys2Proof.Machine.execVbfi u x s
  | .vfsh u x => Sys2Proof.Machine.execVfsh u x s
  | .vpopc u x => Sys2Proof.Machine.execVpopc u x s
  | .vclz u x => Sys2Proof.Machine.execVclz u x s
  | .vcvt u x => Sys2Proof.Machine.execVcvt u x s
  | .vpack u x => Sys2Proof.Machine.execVpack u x s
  | .vunpack u x => Sys2Proof.Machine.execVunpack u x s
  | .vperm u x => Sys2Proof.Machine.execVperm u x s
  | .vbcast u x => Sys2Proof.Machine.execVbcast u x s
  | .vslide u x => Sys2Proof.Machine.execVslide u x s
  | .viota u x => Sys2Proof.Machine.execViota u x s
  | .viotaRand u x => Sys2Proof.Machine.execViotaRand u x s
  | .vredadd u x => Sys2Proof.Machine.execVredadd u x s
  | .vredmax u x => Sys2Proof.Machine.execVredmax u x s
  | .vscan u x => Sys2Proof.Machine.execVscan u x s
  | .vld u x => Sys2Proof.Machine.execVld u x s
  | .vst u x => Sys2Proof.Machine.execVst u x s
  | .vlds u x => Sys2Proof.Machine.execVlds u x s
  | .vsts u x => Sys2Proof.Machine.execVsts u x s
  | .vgath u x => Sys2Proof.Machine.execVgath u x s
  | .vscat u x => Sys2Proof.Machine.execVscat u x s
  | .vtbl u x => Sys2Proof.Machine.execVtbl u x s
  | .vaadd u x => Sys2Proof.Machine.execVaadd u x s
  | .vafadd u x => Sys2Proof.Machine.execVafadd u x s
  | .vectorGetm u x => Sys2Proof.Machine.execVectorGetm u x s
  | .vectorPutm u x => Sys2Proof.Machine.execVectorPutm u x s
  | .vectorXfer u x => Sys2Proof.Machine.execVectorXfer u x s
  | .vmovs u x => Sys2Proof.Machine.execVmovs u x s
  | .vpmovToPredicate u x => Sys2Proof.Machine.execVpmovToPredicate u x s
  | .vpmovFromPredicate u x => Sys2Proof.Machine.execVpmovFromPredicate u x s
  | .vefclr u x => Sys2Proof.Machine.execVefclr u x s
  | .vefget u x => Sys2Proof.Machine.execVefget u x s
  | .vefput u x => Sys2Proof.Machine.execVefput u x s
  | .vfmtset u x => Sys2Proof.Machine.execVfmtset u x s
  | .xclr x => Sys2Proof.Machine.execXclr x s
  | .xseto x => Sys2Proof.Machine.execXseto x s
  | .xform x => Sys2Proof.Machine.execXform x s
  | .xm2m x => Sys2Proof.Machine.execXm2m x s
  | .xm2l x => Sys2Proof.Machine.execXm2l x s
  | .xl2l x => Sys2Proof.Machine.execXl2l x s
  | .xeval x => Sys2Proof.Machine.execXeval x s
  | .xadm x => Sys2Proof.Machine.execXadm x s
  | .xadd x => Sys2Proof.Machine.execXadd x s
  | .xld x => Sys2Proof.Machine.execXld x s
  | .xst x => Sys2Proof.Machine.execXst x s
  | .xnorm x => Sys2Proof.Machine.execXnorm x s
  | .xget x => Sys2Proof.Machine.execXget x s
  | .matrixNop => Sys2Proof.Machine.execMatrixNop s
  | .mdset x => Sys2Proof.Machine.execMdset x s
  | .mdget x => Sys2Proof.Machine.execMdget x s
  | .mldt x => Sys2Proof.Machine.execMldt x s
  | .mstz x => Sys2Proof.Machine.execMstz x s
  | .mstzTag x => Sys2Proof.Machine.execMstzTag x s
  | .mma x => Sys2Proof.Machine.execMma x s
  | .mmaz x => Sys2Proof.Machine.execMmaz x s
  | .mnest x => Sys2Proof.Machine.execMnest x s
  | .mnestz x => Sys2Proof.Machine.execMnestz x s
  | .mzero x => Sys2Proof.Machine.execMzero x s
  | .mtr x => Sys2Proof.Machine.execMtr x s
  | .mrdz x => Sys2Proof.Machine.execMrdz x s
  | .mwm x => Sys2Proof.Machine.execMwm x s
  | .mchk x => Sys2Proof.Machine.execMchk x s
  | .mchkz x => Sys2Proof.Machine.execMchkz x s
  | .mres x => Sys2Proof.Machine.execMres x s
  | .mfix x => Sys2Proof.Machine.execMfix x s
  | .mmir x => Sys2Proof.Machine.execMmir x s
  | .minj x => Sys2Proof.Machine.execMinj x s
  | .mtag x => Sys2Proof.Machine.execMtag x s
  | .mcvt x => Sys2Proof.Machine.execMcvt x s
  | .mbias x => Sys2Proof.Machine.execMbias x s
  | .mactRelu x => Sys2Proof.Machine.execMactRelu x s
  | .mactAbs x => Sys2Proof.Machine.execMactAbs x s
  | .mactScale x => Sys2Proof.Machine.execMactScale x s
  | .mpitch x => Sys2Proof.Machine.execMpitch x s
  | .matrixGetm x => Sys2Proof.Machine.execMatrixGetm x s
  | .matrixPutm x => Sys2Proof.Machine.execMatrixPutm x s
  | .matrixXfer x => Sys2Proof.Machine.execMatrixXfer x s
  | .copyNop e => Sys2Proof.Machine.execCopyNop e s
  | .cdsetImmediate e x => Sys2Proof.Machine.execCdsetImmediate e x s
  | .cdsetRegister e x => Sys2Proof.Machine.execCdsetRegister e x s
  | .cdget e x => Sys2Proof.Machine.execCdget e x s
  | .cpy e x => Sys2Proof.Machine.execCpy e x s
  | .cpyb e x => Sys2Proof.Machine.execCpyb e x s
  | .cpyt e x => Sys2Proof.Machine.execCpyt e x s
  | .cgath e x => Sys2Proof.Machine.execCgath e x s
  | .cscat e x => Sys2Proof.Machine.execCscat e x s
  | .czero e x => Sys2Proof.Machine.execCzero e x s
  | .cfill e x => Sys2Proof.Machine.execCfill e x s
  | .cred e x => Sys2Proof.Machine.execCred e x s
  | .cbcast e x => Sys2Proof.Machine.execCbcast e x s
  | .callred e x => Sys2Proof.Machine.execCallred e x s
  | .cdigest e x => Sys2Proof.Machine.execCdigest e x s
  | .cpull e x => Sys2Proof.Machine.execCpull e x s
  | .cpost e x => Sys2Proof.Machine.execCpost e x s
  | .chostTo e x => Sys2Proof.Machine.execChostTo e x s
  | .chostFrom e x => Sys2Proof.Machine.execChostFrom e x s
  | .ccarrTo e x => Sys2Proof.Machine.execCcarrTo e x s
  | .ccarrFrom e x => Sys2Proof.Machine.execCcarrFrom e x s
  | .ctlr e x => Sys2Proof.Machine.execCtlr e x s
  | .cwait e x => Sys2Proof.Machine.execCwait e x s
  | .cfence e x => Sys2Proof.Machine.execCfence e x s
  | .cfenceA e x => Sys2Proof.Machine.execCfenceA e x s
  | .ccvt e x => Sys2Proof.Machine.execCcvt e x s
  | .cpref e x => Sys2Proof.Machine.execCpref e x s
  | .cswp e x => Sys2Proof.Machine.execCswp e x s
  | .copyGetm e x => Sys2Proof.Machine.execCopyGetm e x s
  | .copyPutm e x => Sys2Proof.Machine.execCopyPutm e x s
  | .copyXfer e x => Sys2Proof.Machine.execCopyXfer e x s
  | .bundleCommit sigBad => Sys2Proof.Machine.execBundleCommit sigBad s
  | .asynchronousTrap k => Sys2Proof.Machine.execAsynchronousTrap k s
  | .fairnessYield c => Sys2Proof.Machine.execFairnessYield c s
  | .watchdogExpiry k => Sys2Proof.Machine.execWatchdogExpiry k s
  | .sleepEnd k => Sys2Proof.Machine.execSleepEnd k s
  | .exposedResultLand k j => Sys2Proof.Machine.execExposedResultLand k j s
  | .memoryAccessPerform k j v => Sys2Proof.Machine.execMemoryAccessPerform k j v s
  | .migpullRepost p page => Sys2Proof.Machine.execMigpullRepost p page s
  | .migrationHoldTimeout p page => Sys2Proof.Machine.execMigrationHoldTimeout p page s
  | .messageDelivery j => Sys2Proof.Machine.execMessageDelivery j s
  | .remotePostApply j => Sys2Proof.Machine.execRemotePostApply j s
  | .fencedNack j => Sys2Proof.Machine.execFencedNack j s
  | .ridgeArrival w => Sys2Proof.Machine.execRidgeArrival w s
  | .ridgeRelease n => Sys2Proof.Machine.execRidgeRelease n s
  | .endComplete k => Sys2Proof.Machine.execEndComplete k s
  | .nodeEnd w => Sys2Proof.Machine.execNodeEnd w s
  | .contextKill k => Sys2Proof.Machine.execContextKill k s
  | .restoreGateRelease n => Sys2Proof.Machine.execRestoreGateRelease n s
  | .commandStart k j => Sys2Proof.Machine.execCommandStart k j s
  | .ktileIntake k j bad => Sys2Proof.Machine.execKtileIntake k j bad s
  | .accumulatorRowFinal k j => Sys2Proof.Machine.execAccumulatorRowFinal k j s
  | .commandPerform k j => Sys2Proof.Machine.execCommandPerform k j s
  | .copyBatchLand k j b => Sys2Proof.Machine.execCopyBatchLand k j b s
  | .copyTimeout k j => Sys2Proof.Machine.execCopyTimeout k j s
  | .detContributionAccept k j => Sys2Proof.Machine.execDetContributionAccept k j s
  | .collectiveExchange k j peer => Sys2Proof.Machine.execCollectiveExchange k j peer s
  | .sourceFenced k j => Sys2Proof.Machine.execSourceFenced k j s
  | .segmentRollback k => Sys2Proof.Machine.execSegmentRollback k s
  | .budgetOverrun p => Sys2Proof.Machine.execBudgetOverrun p s
  | .partitionPeriodStart p => Sys2Proof.Machine.execPartitionPeriodStart p s
  | .epilogueStop k => Sys2Proof.Machine.execEpilogueStop k s
  | .drainBoundExpiry n => Sys2Proof.Machine.execDrainBoundExpiry n s
  | .coreGovernorWindowEnd c => Sys2Proof.Machine.execCoreGovernorWindowEnd c s
  | .plainGovernorWindowEnd pl w => Sys2Proof.Machine.execPlainGovernorWindowEnd pl w s
  | .energyWindowEnd c => Sys2Proof.Machine.execEnergyWindowEnd c s
  | .usageRecordEmit p => Sys2Proof.Machine.execUsageRecordEmit p s
  | .ctxsaveDone j => Sys2Proof.Machine.execCtxsaveDone j s
  | .ctxloadDone j => Sys2Proof.Machine.execCtxloadDone j s
  | .partitionCreateDone j => Sys2Proof.Machine.execPartitionCreateDone j s
  | .partitionStopDone j => Sys2Proof.Machine.execPartitionStopDone j s
  | .partitionDestroyDone j => Sys2Proof.Machine.execPartitionDestroyDone j s
  | .zeroDone j => Sys2Proof.Machine.execZeroDone j s
  | .retirementRecord j => Sys2Proof.Machine.execRetirementRecord j s
  | .signedRecordDone j => Sys2Proof.Machine.execSignedRecordDone j s
  | .heartbeatSend c => Sys2Proof.Machine.execHeartbeatSend c s
  | .heartbeatReceive c n h => Sys2Proof.Machine.execHeartbeatReceive c n h s
  | .heartbeatPeriodEnd c => Sys2Proof.Machine.execHeartbeatPeriodEnd c s
  | .flitWindowEnd c n flits => Sys2Proof.Machine.execFlitWindowEnd c n flits s
  | .accusationReceive c n w => Sys2Proof.Machine.execAccusationReceive c n w s
  | .withdrawalReceive c n w => Sys2Proof.Machine.execWithdrawalReceive c n w s
  | .fenceNoticeReceive c n => Sys2Proof.Machine.execFenceNoticeReceive c n s
  | .readmissionReceive c n => Sys2Proof.Machine.execReadmissionReceive c n s
  | .bistResult c pass => Sys2Proof.Machine.execBistResult c pass s
  | .leasePlacement u => Sys2Proof.Machine.execLeasePlacement u s
  | .leaseWithdrawal w => Sys2Proof.Machine.execLeaseWithdrawal w s
  | .patternEnd u pass last => Sys2Proof.Machine.execPatternEnd u pass last s
  | .scoreHalving => Sys2Proof.Machine.execScoreHalving s
  | .powerOnReset => Sys2Proof.Machine.execPowerOnReset s
  | .selfTest code unit pass data => Sys2Proof.Machine.execSelfTest code unit pass data s
  | .powerToken t => Sys2Proof.Machine.execPowerToken t s
  | .tokenLeaseExpiry => Sys2Proof.Machine.execTokenLeaseExpiry s
  | .hbmThermalMeasurement st temp => Sys2Proof.Machine.execHbmThermalMeasurement st temp s
  | .dieThermalMeasurement pl temp => Sys2Proof.Machine.execDieThermalMeasurement pl temp s
  | .hostWrite p off data => Sys2Proof.Machine.execHostWrite p off data s
  | .hostRead p off n => Sys2Proof.Machine.execHostRead p off n s
  | .winbase p v ide => Sys2Proof.Machine.execWinbase p v ide s
  | .status p v => Sys2Proof.Machine.execStatus p v s
  | .spdmRequest f msg => Sys2Proof.Machine.execSpdmRequest f msg s
  | .tdispRequest p want => Sys2Proof.Machine.execTdispRequest p want s
  | .flitReceive port flit => Sys2Proof.Machine.execFlitReceive port flit s
  | .nakReceive port lseq => Sys2Proof.Machine.execNakReceive port lseq s
  | .unreachableNack k j => Sys2Proof.Machine.execUnreachableNack k j s
  | .instructionFetch k a => Sys2Proof.Machine.execInstructionFetch k a s
  | .longSeriesOperationLand k j => Sys2Proof.Machine.execLongSeriesOperationLand k j s
  | .tlbinvRemovalEnd j => Sys2Proof.Machine.execTlbinvRemovalEnd j s
  | .linkTraining l width => Sys2Proof.Machine.execLinkTraining l width s
end Sys2Proof.Machine
end

