-- ==== Sys2Proof/Machine/Encoding.lean ====
section
/-!
DEFINITION. Machine/Encoding.lean: the check of a bundle's encoding at each issue (06: R84, R89, R90, R97, R105-R107). What a word
reads and writes is told from its opcode and fields, so that a word with one bad field is still held to the bundle's rules.
-/
namespace Sys2Proof.Machine

def bundleWord (b i : Nat) : Nat := bitsOf b (32 * i) 32
def slotAt (i : Nat) : Slot :=
  match i with | 1 => .f | 2 => .s | 3 => .a | 4 => .b | 5 => .m | 6 => .c | _ => .d
/-- The opcode of a slot's word (R91, R93). -/
def opAt (i w : Nat) : Nat := if i = 1 then w / 67108864 else w / 33554432
def within (n : Nat) (l : List (Nat × Nat)) : Bool := l.any fun x => decide (x.1 ≤ n) && decide (n ≤ x.2)

/-- Main-file registers that an opcode reads and writes (R89). -/
def portsOf (i op : Nat) : Nat × Nat :=
  match i with
  | 1 => if op = 2 ∨ (25 ≤ op ∧ op ≤ 27) then (1, 0) else if op = 28 then (0, 1) else (0, 0)
  | 2 => if op = 70 then (1, 0) else if op = 71 then (0, 1) else (0, 0)
  | 3 => if op = 51 then (1, 0) else if op = 52 then (0, 1) else (0, 0)
  | 4 => if op = 51 then (1, 0) else if op = 52 then (0, 1) else (0, 0)
  | 5 => if [7, 14, 19, 22].contains op then (1, 0) else if [2, 10, 13, 23].contains op then (0, 1) else (0, 0)
  | _ => if op = 24 then (1, 0) else if [2, 18, 25].contains op then (0, 1) else (0, 0)

/-- Whether fields SA and SB of a word are operands (R94). -/
def operandFields (i w : Nat) : Bool × Bool :=
  let op := opAt i w
  match i with
  | 2 =>
    let b := within op [(1, 2), (6, 16), (18, 25), (29, 39), (46, 50), (53, 58), (60, 60), (62, 69), (103, 104), (106, 107), (111, 111), (114, 115), (117, 117)] ||
      ((op == 100 || op == 110) && w % 64 == 1) || (op == 116 && w % 64 != 1)
    (b || within op [(17, 17), (26, 28), (51, 52), (71, 72), (74, 74), (100, 100), (102, 102), (105, 105), (108, 110), (112, 113)] || (op == 116 && w % 64 == 1), b)
  | 3 => vec op
  | 4 => if op < 64 then vec op else (within op [(65, 66), (71, 71), (73, 74)], within op [(67, 71), (73, 75)])
  | 5 => (op == 1, false)
  | 6 => cpy op
  | 7 => cpy op
  | _ => (false, false)
where
  vec (op : Nat) : Bool × Bool :=
    let b := within op [(1, 7), (14, 29), (35, 35), (37, 37), (42, 50)]
    (b || within op [(8, 13), (30, 34), (36, 36), (39, 41), (52, 54), (58, 59)] || (op == 55 && w % 2 == 0), b)
  cpy (op : Nat) : Bool × Bool := (op == 9 || (op == 1 && bitsOf w 20 1 == 0), false)
/-- A word that reads the bundle's literal (R94, R109). -/
def readsLit (i w : Nat) : Bool :=
  if i = 1 then
    let op := opAt i w
    (within op [(8, 8), (10, 12), (14, 14)] && bitsOf w 17 1 == 1) || (op == 13 && bitsOf w 18 1 == 1)
  else
    let f := operandFields i w
    (f.1 && bitsOf w 11 5 == 24) || (f.2 && bitsOf w 6 5 == 24)

/-- A register that a word writes, for the same-bundle rule (R97). -/
inductive Target where
  | pred (n : Nat) | main (n : Nat) | fmt (n : Nat) | reg (slot n : Nat) | near3 (slot : Nat)
deriving DecidableEq, Repr

/-- The predicate that a word writes. -/
def predTarget (i w : Nat) : Option Nat :=
  let op := opAt i w
  match i with
  | 1 => if op = 28 then some (bitsOf w 16 3) else if within op [(29, 32)] then some (bitsOf w 19 3) else none
  | 2 => if within op [(34, 39), (41, 45), (53, 53)] then some (bitsOf w 16 5) else if op = 40 then some (bitsOf w 17 3) else none
  | 3 => if within op [(15, 18)] ∨ (op = 55 ∧ w % 2 = 0) then some (bitsOf w 16 5) else none
  | 4 => if within op [(15, 18), (71, 71)] ∨ (op = 55 ∧ w % 2 = 0) then some (bitsOf w 16 5) else none
  | 5 => if op = 11 then some (bitsOf w 18 3) else none
  | _ => none
/-- The operand or near register, or MD register, that a word of slots s, a, b and m writes itself. -/
def ownTarget (i w : Nat) : Option Nat :=
  let op := opAt i w
  let d := bitsOf w 16 5
  let reg (b : Bool) : Option Nat := if b ∧ d < 20 then some d else none
  match i with
  | 2 => if within op [(3, 5), (59, 59)] then some (bitsOf w 16 4) else reg (within op [(1, 2), (6, 33), (46, 52), (54, 57), (62, 70), (73, 73), (100, 117)])
  | 3 => reg (vec op)
  | 4 => reg (vec op || op == 70 || op == 76)
  | 5 => if op = 1 ∨ op = 17 ∨ op = 22 then some d else none
  | _ => none
where
  vec (op : Nat) : Bool := within op [(1, 14), (19, 42), (44, 44), (46, 46), (48, 51), (54, 54), (57, 57)] || (op == 55 && w % 2 == 1)
def isXfer (i w : Nat) : Bool :=
  let op := opAt i w
  match i with | 2 => op == 72 | 3 => op == 53 | 4 => op == 53 | 5 => op == 24 | 6 => op == 26 | 7 => op == 26 | _ => false
/-- Slots that an XFER of a slot may name as its receiver (R157, R185, R208, R228). -/
def receiversOf (i : Nat) : List Nat :=
  match i with | 2 => [3, 4, 5] | 3 => [2, 4, 5] | 4 => [2, 3, 5] | 5 => [2, 3, 4] | 6 => [2, 5] | 7 => [2, 5] | _ => []
/-- The register that an XFER writes; with another slot, or an index that the receiver does not have, it names none (R157). -/
def xferTarget (i w : Nat) : Option (Nat × Nat) :=
  let r := w % 8
  let n := bitsOf w 16 5
  if isXfer i w && (receiversOf i).contains r && decide (n < if r = 5 then 8 else 20) then some (r, n) else none
/-- What a word writes, for the same-bundle rule. DESIGN CHOICE: an MTS of FMTn in slot s beside a VFMTSET of the same FMTn in slot a or
b is no conflict, since the list of R97 names slots a and b alone, and the later slot's write stands (log 33). -/
def targetsOf (i w : Nat) : List Target :=
  (match predTarget i w with | some n => if 0 < n ∧ n < 8 then [.pred n] else [] | none => []) ++
  (if (portsOf i (opAt i w)).2 = 1 then [.main (w % 64)] else []) ++
  (if (i = 3 ∨ i = 4) ∧ opAt i w = 59 then [.fmt (w % 8)] else []) ++
  (match ownTarget i w with | some n => if i = 5 ∧ 8 ≤ n then [] else [.reg i n] | none => []) ++
  (if (i = 3 ∨ i = 4) ∧ opAt i w = 33 ∧ 8 ≤ bitsOf w 2 4 then [.near3 i] else []) ++
  (match xferTarget i w with | some (r, n) => .reg r n :: (if n = 19 then [.near3 r] else []) | none => [])
/-- Slots that write what another slot writes. Two XFERs into near register 3 count once, by their register. -/
def clashes (l : List (Nat × Nat)) : List Nat :=
  let all := l.flatMap fun x => (targetsOf x.1 x.2).map fun t => (x.1, t)
  (l.map Prod.fst).filter fun i => all.any fun x => x.1 = i && all.any fun y => y.1 ≠ i && y.2 = x.2

/-- Words of slot s that only a stream or management context may issue: the privileged forms, and MTS of EGRANT (R101, R158). -/
def privilegedWord (w : Nat) : Bool := within (opAt 2 w) [(100, 117)] || (opAt 2 w == 74 && w % 64 == 26)
/-- CLKDIV of a clock class that a stream core does not have (R133). -/
def meshClock (w : Nat) : Bool := opAt 1 w == 24 && within (bitsOf w 19 3) [(1, 3)]

/-- The first encoding condition that a bundle meets (R105, R106): cause, TVAL, TMASK. -/
noncomputable def encodingTrap (k : Nat) (inDelay : Bool) (b : Nat) : Option (Nat × Nat × Nat) :=
  let h := bundleWord b 0
  let lit := hdrLit h
  let live := (List.range 8).filter fun i => i ≠ 0 && !(decide (2 ≤ lit) && i == lit)
  let shut (i : Nat) : Bool := !isMesh k && decide (3 ≤ i) && decide (i ≤ 5)
  let known (i : Nat) : Bool :=
    opAt i (bundleWord b i) == 0 || (slotAt i).assigned (opAt i (bundleWord b i))
  let count (n : Nat) (l : List Nat) : Nat := (l.filter (· = n)).length
  let rp := [9, 12, 15, 18].map fun o => bitsOf h o 3
  let wp := [3, 6].map fun o => bitsOf h o 3
  let badLit := if lit = 0 then live.filter fun i => known i && readsLit i (bundleWord b i) else []
  let badPort := live.filter fun i => known i && (count i rp, count i wp) != portsOf i (opAt i (bundleWord b i))
  let clash := clashes ((live.filter known).map fun i => (i, bundleWord b i))
  let head := decide (6 ≤ hdrScope h) || lit == 1 || (decide (2 ≤ lit) && (rp ++ wp).contains lit)
  let badBundle := badLit ++ badPort ++ clash
  let badOp := live.filter fun i => bundleWord b i ≠ 0 && (shut i || (decodeOpt (slotAt i) (bundleWord b i)).isNone ||
    (isMesh k && i == 2 && privilegedWord (bundleWord b i)) || (!isMesh k && i == 1 && meshClock (bundleWord b i)))
  let badDelay := inDelay && known 1 && [3, 4, 5, 6, 20].contains (opAt 1 (bundleWord b 1))
  let mask (l : List Nat) : Nat := (slotMask l).toNat
  if head ∨ badBundle ≠ [] then some (1, h, mask (0 :: badBundle))
  else match badOp with
    | i :: _ => some (2, bundleWord b i, mask badOp)
    | [] => if badDelay then some (3, bundleWord b 1, 2) else none

end Sys2Proof.Machine
end

