-- ==== Sys2Proof/Machine/Bundle.lean ====
section
/-!
DEFINITION. Machine/Bundle.lean: how a core issues (02: R17-R26, R40, R41, R50; 06: R83; 18: R365; 26: R448): selection, what
comes before a bundle at its boundary, the bundle of a context or a course, and waking.
-/
namespace Sys2Proof.Machine
noncomputable section

/-! One context's bundle. -/
/-- The effect of an instruction inside the open bundle. -/
def State.doInstr (s : State) (i : Instr) : State := match exec i s with | .next t => t | _ => s
/-- The slots of a bundle in order (R83); a member of a course takes the lead's flow decisions and its CLKDIV, and leaves them out
(R40, R346). -/
def State.runSlots (s : State) (b : Nat) (member : Bool) : List Nat → State
  | [] => s
  | i :: r =>
    let w := bundleWord b i
    let led := member && i == 1 && within (opAt 1 w) [(1, 9), (20, 20), (24, 24)]
    let s := if hdrLit (bundleWord b 0) = i ∨ led then s
             else match decodeOpt (slotAt i) w with | some x => s.doInstr x | none => s
    State.runSlots s b member r
def slotOrder : List Nat := [1, 2, 3, 4, 5, 6, 7]
/-- A bundle opens for a context and its slots act. -/
def State.openRun (s : State) (k b : Nat) (member : Bool) : State :=
  let word (i : Nat) : BitVec 32 := BitVec.ofNat 32 (bundleWord b i)
  let lit := hdrLit (bundleWord b 0)
  (s.openBundle k (word 0) (if lit = 0 then 0 else word lit) ((List.range 8).map word)).runSlots b member slotOrder

/-- What a context meets where it would issue. -/
inductive Meets where
  | fetchTrap (cause : Nat) | poison (unit : Nat) | page (part page leaf : Nat) | badBundle (cause val mask : Nat) | bundle (b : Nat)
/-- Fetch and encoding check (R105, R106, R314). -/
def State.meet (s : State) (k : Nat) : Meets × State :=
  match s.fetch k with
  | .fault c => (.fetchTrap c, s)
  | .poison u => (.poison u, s)
  | .wait p g l => (.page p g l, s)
  | .ok b s =>
    match encodingTrap k ((s.ctx k).regs.flow.dly.count != 0) b with
    | some (c, v, m) => (.badBundle c v m, s)
    | none => (.bundle b, s)

/-- A deterministic context records that an access of its bundle came late (R354). -/
def State.lateAccess (s : State) (k : Nat) (held : Option (Nat × Nat × Nat)) : State :=
  match held with
  | some (_, _, t) => if (s.ctx k).held.isNone then s.modCtx k fun c => c.addLate 0 (s.now - t) else s
  | none => s
/-- The bundle of a context that is in no course. -/
def State.issueAlone (s : State) (k : Nat) (sigBad : Bool) : State :=
  let held := (s.ctx k).held
  let trap (s : State) (c v m : Nat) (u : Option Nat) : State := s.trapBundle k [⟨0, c, v, u⟩] ⟨0, c, v, u⟩ (BitVec.ofNat 8 m)
  match s.meet k with
  | (.fetchTrap c, s) => (trap s c (s.ctx k).regs.flow.pc.toNat 0 none).mirror k
  | (.poison u, s) => (trap s 24 (s.ctx k).regs.flow.pc.toNat 0 (some u)).mirror k
  | (.page p g l, s) => s.stall k 0 [(p, g, l)]
  | (.badBundle c v m, s) => (trap s c v m none).mirror k
  | (.bundle b, s) => (match (s.openRun k b false).doInstr (.bundleCommit sigBad) with | t => t.lateAccess k held)

/-! Courses (R40, R41). -/
/-- The flow registers that the lead's decision of a word writes: W n, LK, LC n, the epilogue record (R40). -/
def leadWrites (w : Nat) (c : Ctx) : Option (Fin 4) × Bool × Option (Fin 6) × Bool :=
  match decodeOpt .f w with
  | some (.prep x) => (if x.g.on c then some x.n else none, false, none, false)
  | some (.prepm x) => (if x.g.on c then some x.n else none, false, none, false)
  | some (.call x) => (none, x.g.on c, none, false)
  | some (.setlc x) => (none, false, if x.g.on c then some x.n else none, false)
  | some (.spl x) => (none, false, none, x.g.on c)
  | _ => (none, false, none, false)
/-- The loop counters that the end-of-body check at an address writes: of the levels that end there, the innermost first. -/
def bodyEnds (forced : Bool) (pc : Nat) : List Level → FlowRegs → List (Fin 6)
  | [], _ => []
  | v :: r, f =>
    if v.last ≠ pc then []
    else v.n :: if (forced && f.epi.armed && !f.epi.used && f.epi.k == v.n) || decide ((f.lc[v.n]).toNat ≤ 1) then bodyEnds forced pc r f else []
/-- A member's flow registers before its bundle ends, its slots having acted (R40): the loop levels, and what the lead's decision wrote,
are the lead's, and so are the counters that its end-of-body check goes by. What GETM.F or EPI writes is the member's own. -/
def State.followLead (s : State) (lead : Open) (f : FlowRegs) (k : Nat) : State :=
  let c := Tbl.getD lead.saved.ctxs lead.ctx Ctx.zero
  let w := leadWrites (lead.words.getD 1 0).toNat c
  let ends := if c.regs.flow.dly.count = 0 ∧ lead.jump.isNone ∧ lead.skip.isNone then bodyEnds c.forced c.regs.flow.pc.toNat f.loops f else []
  s.modCtx k fun x => x.modFlow fun g =>
    let g := { g with
      loops := f.loops, w := match w.1 with | some n => g.w.set n f.w[n] | none => g.w, lk := if w.2.1 then f.lk else g.lk,
      lc := match w.2.2.1 with | some n => g.lc.set n f.lc[n] | none => g.lc, epi := if w.2.2.2 then f.epi else g.epi }
    ends.foldl (fun (g : FlowRegs) (n : Fin 6) => { g with lc := g.lc.set n f.lc[n] }) g
/-- A bundle of no-ops. -/
def Open.blank (k : Nat) (w : World) : Open :=
  { ctx := k, hdr := 0, lit := 0, words := [], saved := w, mem := w.mem, raised := [], holds := [], jump := none, skip := none, ends := false,
    sleep := 0, yield := false, halt := none, pops := 0, clk := none, draws := 0, nest := 0, ridge := false, park := false, rdv := false, seg := none, acted := false, undo := [], sigs := [] }
/-- One member's bundle up to its end, with the lead's transfer and flow registers; what it met, and the state if it commits. -/
def State.memberRun (s : State) (b : Nat) (k : Nat) (led : Option (Open × FlowRegs)) : Open × State :=
  let t := s.openRun k b led.isSome
  let t := match led with
    | some (l, f) => ({ t with opened := t.opened.map fun o => { o with jump := l.jump, skip := l.skip, clk := l.clk } } : State).followLead l f k
    | none => t
  (t.opened.getD (Open.blank k s.toWorld), t)
/-- Every member's bundle in order of position, while all commit; what each met. -/
def State.courseRun (s : State) (b : Nat) (led : Option (Open × FlowRegs)) : List Nat → List (Nat × Open) × State
  | [] => ([], s)
  | k :: r =>
    let (o, t) := s.memberRun b k led
    let u := if o.verdict = .commit then t.doInstr (.bundleCommit false) else s
    let (rest, u) := State.courseRun u b (some (led.getD (o, (t.ctx k).regs.flow))) r
    ((k, o) :: rest, u)
/-- The trap of each member at one bundle: its own cause, or COURSE. -/
def State.courseTraps (s : State) (own : List (Nat × Raise × BitVec 8)) (all : List Nat) : State :=
  all.foldl (fun s k => match own.find? fun x => x.1 = k with
    | some (_, r, m) => (s.trapBundle k [r] r m).mirror k
    | none => ((s.takeTrap k 22 0 0 false).stepCore (coreOf k)).mirror k) s
/-- The bundle of a course: all commit, or all halt before it, or all trap at it. A fetch is the lead's alone; a bundle that is no
bundle is so in every member. Where the signatures of a member's pair differ, the bundle commits in no member (R392). -/
def State.issueCourse (s : State) (lead : Nat) (bad : Option Nat) : State :=
  let all := s.course lead
  let trap (s : State) (c v m : Nat) (u : Option Nat) : State := s.courseTraps (all.map fun k => (k, ⟨0, c, v, u⟩, BitVec.ofNat 8 m)) all
  let pc := (s.ctx lead).regs.flow.pc.toNat
  match s.meet lead with
  | (.fetchTrap c, s) => s.courseTraps [(lead, ⟨0, c, pc, none⟩, 0)] all
  | (.poison u, s) => s.courseTraps [(lead, ⟨0, 24, pc, some u⟩, 0)] all
  | (.page p g l, s) => s.stall lead 0 [(p, g, l)]
  | (.badBundle c v m, s) => trap s c v m none
  | (.bundle b, s) =>
    let (met, t) := s.courseRun b none all
    let differs := met.find? fun x => bad == some x.1 && (s.ctx x.1).regs.sys.rmode.getLsbD 0
    if met.all fun x => x.2.verdict = .commit then match differs with
      | some x => ((s.openRun x.1 b false).mismatch x.2).stepCore (coreOf lead)
      | none => met.foldl (fun t x => t.lateAccess x.1 (s.ctx x.1).held) t
    else
      let blocks := met.filterMap fun x => match x.2.verdict with | .block m => some (x.1, m, x.2) | _ => none
      let stalls := met.filterMap fun x => match x.2.verdict with | .stall l => some (x.1, l, x.2) | _ => none
      let traps := met.filterMap fun x => match x.2.verdict with | .trap r m => some (x.1, r, m) | _ => none
      let halts := met.filterMap fun x => match x.2.verdict with | .halt c => some (x.1, c) | _ => none
      if blocks ≠ [] then blocks.foldl (fun s x => (s.block x.1 x.2.1 x.2.2.ridge x.2.2.rdv).mirror x.1) s
      else if stalls ≠ [] then (stalls.foldl (fun s x => s.stall x.1 x.2.2.nest x.2.1) s).stepCore (coreOf lead)
      else if traps ≠ [] then s.courseTraps traps all
      else halts.foldl (fun s x => (s.haltCtx x.1 x.2).mirror x.1) s

/-! Issue. -/
/-- A context that the sequencer may run: not a trailer, not a member behind its lead, not stopped before a LAUNCH (R377). -/
def State.leads (s : State) (k : Nat) : Bool :=
  let c := s.ctx k
  !c.regs.sys.rmode.getLsbD 1 && !(s.part c.part).parked.any (fun x => x.1 == k) && (decide (c.ctl.clen < 2) || c.lead == k)
def runs (st : Status) : Bool := st == .running || st == .ready
/-- What the boundary before a context's next bundle brings first (R34, R50, R354, R365, R372, R378), or the bundle. -/
def State.atBoundary (s : State) (k : Nat) (bad : Option Nat) : State :=
  let s := s.postLate k
  let c := s.ctx k
  /- a deterministic context holds while a copy of it waits for a page, and its course with it (R354) -/
  let paged (j : Nat) : Bool := (s.ctx j).regs.sys.dmode && (s.ctx j).cmds.any fun m => m.page.isSome
  let course := decide (2 ≤ c.ctl.clen)
  if c.kill.isSome then s.doInstr (.contextKill k)
  else if c.rolling then (s.doInstr (.segmentRollback k)).stepCore (coreOf k)
  else if c.saving ∨ (c.forced && s.atStop k) ∨ (s.course k).any paged then s.stepCore (coreOf k)
  else if c.regs.sys.tl = 0 ∧ c.async ≠ [] then s.doInstr (.asynchronousTrap k)
  else
    let due := match c.wdPend with | some m => some m | none => if c.regs.sys.tl = 0 then c.wdHeld else none
    match due with
    | some _ =>
      let held := c.wdPend.isNone
      let own (j : Nat) : Option (BitVec 8) := if held then (s.ctx j).wdHeld else (s.ctx j).wdPend
      (s.course k).foldl (fun s j =>
        let m := own j
        let s := s.modCtx j fun c => if held then { c with wdHeld := none } else { c with wdPend := none }
        ((s.takeTrap j (if m.isSome then 21 else 22) 0 (m.getD 0) false).stepCore (coreOf j)).mirror j) s
    | none => if course then s.issueCourse k bad else s.issueAlone k (bad == some k)
/-- A course issues when every member has the issue width (R17); a member's kill, rollback or pending trap comes before the lead's
bundle, an asynchronous trap of any member before a watchdog trap (R41, R50). `bad`: the pair whose signatures differ. -/
def State.issueCtx (s : State) (k : Nat) (bad : Option Nat) : State :=
  let first (j : Nat) : Bool := let c := s.ctx j; c.kill.isSome || c.rolling || c.saving
  let async (j : Nat) : Bool := let c := s.ctx j; c.regs.sys.tl == 0 && c.async != []
  let dog (j : Nat) : Bool := let c := s.ctx j; c.wdPend.isSome || (c.regs.sys.tl == 0 && c.wdHeld.isSome)
  let all := s.course k
  if all.length < 2 then s.atBoundary k bad
  else if !all.all fun j => runs (s.ctx j).status then s.stepCore (coreOf k)
  else
    let s := all.foldl (fun s j => (s.modCtx j fun c => { c with status := .running }).modCore (coreOf j) fun y => { y with cur := some j, last := numOf j }) s
    match ((all.find? first).or (all.find? async)).or (all.find? dog) with
    | some j => (s.atBoundary j bad).stepCore (coreOf k)
    | none => s.atBoundary k bad

/-- The context that a core issues from: the Running one, or the first Ready one after the last (R23). -/
def State.choose (s : State) (core : Nat) : Option Nat :=
  match (s.core core).cur with
  | some k => if (s.ctx k).status = .running && s.leads k then some k else none
  | none =>
    let n := ctxCount core
    ((List.range n).map fun i => keyOf core (((s.core core).last + 1 + i) % n)).find? fun k => (s.ctx k).status = .ready && s.leads k
/-- The energy governor fills the rest of a window with stall bundles (R447, R448). -/
def State.energyStall (s : State) (core : Nat) : State :=
  let y := s.core core
  let d := y.div[(0 : Fin 5)]
  let fin := y.energy.fin
  let n := (fin - y.edge 0 s.now) / d
  let s := s.modCore core fun y => { y with next := fin, energy := { y.energy with stalls := y.energy.stalls + n } }
  (s.bound core).foldl (fun s k => (s.course k).foldl (fun s j => s.modCtx j fun c => c.addLate 1 (fin - s.now)) s) s

/-- A Blocked context's bundle would no longer block. -/
def State.wakes (s : State) (k : Nat) : Bool :=
  let c := s.ctx k
  if c.status ≠ .blocked ∨ c.wait.gate.isSome ∨ c.wait.sleep.isSome then false
  else
    let lead := if 2 ≤ c.ctl.clen then c.lead else k
    match s.meet lead with
    | (.bundle b, t) =>
      match ((t.openRun k b (lead != k)).opened.map Open.verdict).getD .commit with
      | .block _ => false
      | _ => true
    | _ => true
def State.wakeCore (s : State) (core : Nat) : State :=
  if s.overGrant core then s else ((s.bound core).filter s.wakes).foldl State.ready s

/-- The cores of the course that a core's contexts are in, and the core itself. -/
def State.courseCores (s : State) (core : Nat) : List Nat := (core :: ((s.bound core).flatMap s.course).map coreOf).eraseDups
/-- A core issues once, at a sequencer edge, if its next cycle has come. What was due by then has landed, what no longer blocks is Ready, and a context
that has issued 4096 bundles gives way to it (R24). A core of the course over its grant holds the whole course (R347, R354). -/
def State.issueCore (s : State) (core : Nat) (sigBad : Bool) : State :=
  if s.opened.isSome ∨ s.now < (s.core core).next ∨ (s.core core).health.fenced then s
  else if (s.core core).edge 0 s.now ≠ s.now then s.modCore core fun y => { y with next := y.edge 0 s.now }
  else match (s.courseCores core).find? s.energyHeld with
  | some c => if c = core then s.energyStall core else (s.energyStall c).modCore core fun y => { y with next := ((s.energyStall c).core c).next }
  | none =>
    let s := (s.bound core).foldl (fun s k => s.landDue k s.now) (s.wakeCore core)
    let s := match (s.core core).cur with
      | some k => if 4096 ≤ (s.ctx k).run then s.doInstr (.fairnessYield core) else s
      | none => s
    if s.now < (s.core core).next then s
    else match s.choose core with
    | none =>
      /- a member of a course whose pair's signatures differ: the course issues from its lead -/
      match (s.bound core).find? fun j => sigBad && decide (2 ≤ (s.ctx j).ctl.clen) && !(s.ctx j).regs.sys.rmode.getLsbD 1 with
      | some j =>
        let l := (s.ctx j).lead
        if (s.core (coreOf l)).next ≤ s.now ∧ s.choose (coreOf l) = some l ∧ (s.ctx l).status = .running then s.issueCtx l (some j) else s
      | none => s
    | some k =>
      let bad := if sigBad then some k else none
      if (s.ctx k).status = .running then s.issueCtx k bad
      else
        let idle := decide (numOf k ≠ (s.core core).last) && !(s.ctx k).regs.sys.dmode
        let s := (s.modCtx k fun c => { c with status := .running }).modCore core fun y => { y with cur := some k, last := numOf k }
        if idle then s.stepCore core else s.issueCtx k bad

end
end Sys2Proof.Machine
end

