-- ==== Sys2Proof/Machine/Agenda.lean ====
section
/-!
DEFINITION. Machine/Agenda.lean: what becomes due and when (02, 12, 14, 16, 18, 26), the passing of time, and what the package does
when its agenda says nothing. The agenda decides between the orders that the spec leaves open; no order of it passes a bound.
-/
namespace Sys2Proof.Machine
noncomputable section

/-! Dues: events with the first cycle at which they have to occur. -/
/-- A command's next event (R200, R202, R211, R216, R232, R240). -/
def State.cmdDues (s : State) (k i : Nat) (m : Cmd) : List (Nat × Instr) :=
  if m.susp.isSome then []
  else if m.copy?.any (s.spent m) then
    [(if m.copy?.any fun c => (s.signalOf k c).isSome then max m.lastLand m.issued + 2 ^ 20 else s.now, .sourceFenced k i)]
  else if m.start.isNone then
    (if s.couldStart k m then [((s.core (coreOf k)).edge (cmdClass m.eng) (max s.now (s.freeAt (coreOf k) m)), .commandStart k i)] else [])
  else match m.op with
    | .mul x =>
      if m.done < x.steps.length then [(m.lastLand, .ktileIntake k i ⟨false, none⟩)]
      else if m.final < 64 then [((s.rowTime k m).2, .accumulatorRowFinal k ⟨i, false, false⟩)]
      else [((s.mulTime k m x).2, .commandPerform k i)]
    | .copy c =>
      if m.page.isSome then [(s.now, .copyBatchLand k i ⟨m.done, none⟩)]
      else
        let step : Nat × Instr :=
          if m.done < s.batches c then
            (if (s.ctx k).exact then s.batchTime k m (s.batches c) m.done else m.due, .copyBatchLand k i ⟨m.done, none⟩)
          else match c.op with
            | .cred _ true => if m.sent then (m.due, .commandPerform k i) else (m.due, .detContributionAccept k i)
            | .cwait _ _ => (s.now, .commandPerform k i)
            | _ => (m.due, .commandPerform k i)
        if c.op.noMove then [step] else [step, (m.due + 1, .copyTimeout k i)]
    | _ => [(m.due, .commandPerform k i)]
def State.ctxDues (s : State) (k : Nat) : List (Nat × Instr) :=
  let c := s.ctx k
  let at0 (b : Bool) (i : Instr) : List (Nat × Instr) := if b then [(s.now, i)] else []
  at0 c.kill.isSome (.contextKill k) ++ at0 (c.status == .ending) (.endComplete k) ++ at0 c.ridging (.ridgeArrival (.here k)) ++
  at0 c.rolling (.segmentRollback k) ++ at0 c.forced (.epilogueStop k) ++
  (match c.wait.sleep with | some t => if c.status = .blocked then [(t, .sleepEnd k)] else [] | none => []) ++
  (if c.status = .blocked then [(c.wait.since + 2 ^ 26, .watchdogExpiry k)] else []) ++
  ((c.flights.zipIdx).map fun x => (x.1.due, if x.1.long then .longSeriesOperationLand k x.2 else .exposedResultLand k x.2)) ++
  ((c.accs.zipIdx).map fun x => (s.accDue k x.1, .memoryAccessPerform k x.2 .none)) ++
  ((c.cmds.zipIdx).flatMap fun x => s.cmdDues k x.2 x.1)
/-- Contexts in an order that no physical position enters: node, logical core, declared index (R356). -/
def State.logical (s : State) (k : Nat) : Nat :=
  let c := s.ctx k
  (c.node * 2 ^ 32 + (c.regs.sys.ident[2]).toNat % 2 ^ 32) * 2 ^ 16 + c.idx
/-- Put in by a key, behind the equal ones. -/
def insertBy {α : Type} (f : α → Nat) (x : α) : List α → List α
  | [] => [x]
  | y :: r => if f x < f y then x :: y :: r else y :: insertBy f x r
def sortBy {α : Type} (f : α → Nat) (l : List α) : List α := l.foldl (fun r x => insertBy f x r) []
/-- Messages of exact senders come in the logical order of these, the others in the order of issue. -/
def State.msgDues (s : State) : List (Nat × Instr) :=
  (sortBy (fun x => if (s.ctx x.1.src).exact then s.logical x.1.src else 0) s.msgs.zipIdx).map fun x =>
    if (s.core (coreOf x.1.dst)).health.fenced then (s.now, .fencedNack x.2)
    else
      let t := s.msgAt x.1
      match x.1.kind with | .send _ _ => (t, .messageDelivery x.2) | .post _ _ => (t, .remotePostApply x.2)
/-- The last cycle at which a ridge releases: for deterministic participants the first sequencer edge of each (R342). -/
def State.releaseTime (s : State) (n : Nat) : Nat :=
  let t := (s.node n).arrivedAt + s.ridgeTime n
  (s.live n).foldl (fun u k => if (s.ctx k).exact then max u ((s.core (coreOf k)).edge 0 t) else u) t
def State.nodeDues (s : State) (n : Nat) : List (Nat × Instr) :=
  let x := s.node n
  (if x.run then [(s.now, .nodeEnd (.here n)), (s.releaseTime n, .ridgeRelease n)] else []) ++
  (match x.drainAt with | some t => [(t, .drainBoundExpiry n)] | none => []) ++
  (if x.gate = 0 then [] else [(s.now, .restoreGateRelease n)])
def State.opDues (s : State) : List (Nat × Instr) :=
  (s.ops.zipIdx).filterMap fun x =>
    let i := x.2
    match x.1.kind with
    | .save => some (x.1.due, .ctxsaveDone i)
    | .load => some (x.1.due, .ctxloadDone i)
    | .create => some (x.1.due, .partitionCreateDone i)
    | .stop => some (x.1.due, .partitionStopDone i)
    | .destroy => some (x.1.due, .partitionDestroyDone i)
    | .zero _ => some (x.1.due, .zeroDone i)
    | .retire => some (x.1.due, .retirementRecord i)
    | .sign _ => some (x.1.due, .signedRecordDone i)
    | .lease => if (s.unit x.1.target).out then none else some (s.now, .leaseWithdrawal ⟨x.1.target, []⟩)
    | .appeal => none
/-- Mesh cores on which a partition has a context. -/
def State.meshCores (s : State) (p : Nat) : List Nat :=
  (List.range 256).filter fun c => (s.bound c).any fun k => (s.ctx k).part == p
def State.partDues (s : State) (p : Nat) : List (Nat × Instr) :=
  let x := s.part p
  if !x.exist then []
  else
    (if x.final then [] else [(x.created + (x.emitted + 1) * Config.usagePeriod, .usageRecordEmit p)]) ++
    (if x.budget = 0 ∨ x.period = 0 then (if x.overrun then [(s.now, .partitionPeriodStart p)] else [])
     else
      let n := (s.meshCores p).length
      (s.periodEnd p, .partitionPeriodStart p) ::
        (if x.overrun ∨ n = 0 then [] else [(s.now + (x.budget - x.charged + n - 1) / n, .budgetOverrun p)])) ++
    x.pages.flatMap fun y => [(y.2.2.2.getD (2 ^ 200), .migpullRepost p y.1), (y.2.2.1 + 2 ^ 26, .migrationHoldTimeout p y.1)]
/-- Windows, after everything else of their cycle. -/
def State.windowDues (s : State) : List (Nat × Instr) :=
  (s.cores.map Prod.fst).flatMap (fun c =>
    let y := s.core c
    if (s.bound c).isEmpty && y.energy.rows.isEmpty && !((List.range (ctxCount c)).map (keyOf c)).any (fun k => (s.ctx k).cmds != []) then []
    else
      (match y.cur with | some k => if 4096 ≤ (s.ctx k).run then [(s.now, .fairnessYield c)] else [] | none => []) ++
      [(y.energy.fin, .energyWindowEnd c)] ++
      (if c < 256 then [((y.gov.win + 1) * 2048, .coreGovernorWindowEnd c)] else [])) ++
  (List.range 4).flatMap fun pl =>
    if !s.plainBusy pl then []
    else [(((vget s.plains pl Governor.resetPlain).win + 1) * 2048, .plainGovernorWindowEnd pl (vget s.plains pl Governor.resetPlain).win)]
/-- What is due of exact contexts, whose order no agenda changes: by context in logical order, then their messages (R356). -/
def State.exactDues (s : State) : List (Nat × Instr) :=
  let exact := s.ctxKeys.filter fun k => (s.ctx k).exact
  if exact.isEmpty then []
  else (sortBy s.logical exact).flatMap s.ctxDues ++ s.msgDues.filter fun x => match x.2 with
    | .messageDelivery i => s.msgs[i]?.any fun m => (s.ctx m.src).exact
    | .remotePostApply i => s.msgs[i]?.any fun m => (s.ctx m.src).exact
    | _ => false
/-! What is due of the heartbeat network and of patrol. -/
def State.beatDues (s : State) : List (Nat × Instr) :=
  if s.boot.state ≠ 1 then []
  else
    ((List.range 256).map fun c => (((s.core c).health.periods + 1) * 65536, .heartbeatPeriodEnd c)) ++
    ((List.range 256).map fun c => ((s.now + 65535) / 65536 * 65536, .heartbeatSend c)) ++
    (s.wires.map fun w => (w.due, match w.kind with
      | .beat h => .heartbeatReceive w.dst w.dir h
      | .accuse a => .accusationReceive w.dst w.dir a
      | .withdraw a => .withdrawalReceive w.dst w.dir a
      | .fence => .fenceNoticeReceive w.dst w.dir
      | .appeal => .readmissionReceive w.dst w.dir)) ++
    (s.cores.map Prod.fst).flatMap fun c => if 256 ≤ c then [] else
      (match (s.core c).health.testing with | some t => [(t + 2 ^ 24, .bistResult c true)] | none => []) ++
      (List.finRange 4).flatMap fun n =>
        let v := s.view c n.val
        (match v.flits with
          | y :: _ => [((y.1 + 1) * 4096, .flitWindowEnd c n y.2)]
          | [] => if v.beyond = 0 then [] else [((v.window + 1) * 4096, .flitWindowEnd c n 0)]) ++
        (if (neighbour c n.val).any (s.majority c n.val) then [(s.now, .fenceNoticeReceive c n)] else [])
def State.patrolDues (s : State) : List (Nat × Instr) :=
  (s.units.filter fun u => u.2.lease && u.2.out).map (fun u =>
    let b := patternBounds u.1
    (min (u.2.pat + b.1) (u.2.since + b.2), .patternEnd u.1 true (decide (u.2.since + b.2 ≤ u.2.pat + b.1)))) ++
  if s.boot.state ≠ 1 then []
  else allUnits.filterMap fun u => if s.mayLease u then some (s.leaseTime u, .leasePlacement u) else none

/-! All that is due. -/
def State.dues (s : State) : List (Nat × Instr) :=
  s.ctxKeys.flatMap s.ctxDues ++ s.msgDues ++
  (s.nodes.map Prod.fst).flatMap s.nodeDues ++ s.opDues ++
  ((s.dying.zipIdx).map fun x => (x.1.2.2.2.2, .tlbinvRemovalEnd x.2)) ++
  (s.parts.map Prod.fst).flatMap s.partDues ++
  (match s.power.leaseEnd with | some t => [(t + 1, .tokenLeaseExpiry)] | none => []) ++
  [((s.hours + 1) * Config.perHour, .scoreHalving)] ++ s.beatDues ++ s.patrolDues ++ s.windowDues

/-- The first event that is due and changes something. -/
def firstDue (s : State) : List (Nat × Instr) → Option State
  | [] => none
  | (t, i) :: r =>
    if t ≤ s.now then
      match exec i s with
      | .next u => if u = s then firstDue s r else some u
      | _ => firstDue s r
    else firstDue s r

/-! Time. -/
/-- Core-cycles of the contexts bound to a core (R276), which the management context has none of, over the reference cycles from now up to t. -/
def State.meterCore (s : State) (t c : Nat) : State :=
  let n := (s.core c).edgesIn 0 s.now t
  if 260 ≤ c then s else (s.bound c).foldl (fun s k =>
    let p := (s.ctx k).part
    let s := s.meter p 0 n
    if c < 256 then s.meter p (0x400 + 4 * c + numOf k) n
    else s.meter p (0x800 + 16 * (c - 256) + numOf k) n) s
/-- A partition with a budget pays for each mesh core on which it is bound (R376). -/
def State.chargePart (s : State) (t p : Nat) : State :=
  let n := (s.meshCores p).length
  if (s.part p).budget = 0 ∨ n = 0 then s else s.modPart p fun x => { x with charged := x.charged + (t - s.now) * n }
/-- The cycles up to t pass; a CLKDIV divides the span at the boundary where it takes effect (R8, R133). -/
def State.advance (s : State) (t : Nat) : State :=
  if t ≤ s.now then s
  else
    let s := (s.cores.map Prod.fst).foldl (fun s c => match (s.core c).clk with
      | some (_, _, b) => if b ≤ t then
          let u := ((s.meterCore b c).beginRows c b).applyClk c
          { ({ u with now := b } : State).meterCore t c with now := s.now }.beginRows c t
        else (s.meterCore t c).beginRows c t
      | none => (s.meterCore t c).beginRows c t) s
    let s := (s.parts.map Prod.fst).foldl (fun s p => s.chargePart t p) s
    { s with now := t }

/-- The core has a bundle to issue, now or from its next cycle on. -/
def State.mayIssue (s : State) (c : Nat) : Bool :=
  !(s.core c).health.fenced && (s.energyHeld c || (s.choose c).isSome || (s.bound c).any s.wakes)
/-- A deterministic core issues as soon as it can (R339, R341), and the energy governor inserts its stall bundles (R447). -/
def State.mustIssue (s : State) (c : Nat) : Bool :=
  s.mayIssue c && (s.energyHeld c || (s.bound c).any fun k => (s.ctx k).exact)
/-- The next cycle after now at which something is due. -/
def State.nextTime (s : State) (cores : List Nat) : Nat :=
  let later (m t : Nat) : Nat := if s.now < t then min m t else m
  let m := s.dues.foldl (fun m x => later m x.1) (2 ^ 200)
  let m := (s.cores.filterMap fun c => c.2.clk).foldl (fun m x => later m x.2.2) m
  cores.foldl (fun m c => later m (s.core c).next) m

/-- A span of the agenda passes as far as nothing has to happen in it. -/
def State.waitFor (s : State) (n : Nat) (rest : List Move) : State :=
  let due := (s.cores.map Prod.fst).filter s.mustIssue
  match due.find? fun c => (s.core c).next ≤ s.now with
  | some c => s.issueCore c false
  | none =>
    let t := min (s.now + n) (s.nextTime due)
    { s.advance t with agenda := if t < s.now + n then .wait (s.now + n - t) :: rest else rest }
/-- Without an agenda the lowest core that can issue does so, and else time passes to the next event. -/
def State.idle (s : State) : State :=
  let can := (s.cores.map Prod.fst).filter s.mayIssue
  match can.find? fun c => (s.core c).next ≤ s.now with
  | some c => s.issueCore c false
  | none =>
    let t := s.nextTime can
    s.advance (if t = 2 ^ 200 then s.now + 1 else t)

end
end Sys2Proof.Machine
end

