-- ==== Sys2Proof/Machine/Step.lean ====
section
/-!
DEFINITION. Machine/Step.lean: one step, as the agenda says, and the state in which a given word is the next to run.
-/
namespace Sys2Proof.Machine
noncomputable section

/-- What is due of exact contexts comes first, in an order of their own (R356). Then an event that the agenda names happens. Otherwise
what is due comes first; then a core issues or a span of time passes, as the agenda says, and without an agenda the package goes on
by itself. -/
def step (s : State) : Host.Outcome State Fault Refusal :=
  match firstDue s s.exactDues with
  | some t => .next t
  | none =>
  match s.agenda with
  | .event i :: r => exec i { s with agenda := r }
  | l =>
    match firstDue s s.dues with
    | some t => .next t
    | none =>
      match l with
      | .issue c bad :: r => .next (({ s with agenda := r } : State).issueCore c bad)
      | .wait n :: r => .next (s.waitFor n r)
      | _ => .next s.idle

/-! A program comes to run when it lies in memory and a context stands at its entry; what follows stands for the load of one
bundle from outside. -/
/-- A bundle that holds one slot's word, with the header fields that the word needs: its register port, and a literal in
slot d where it reads one. -/
def placeBundle (sl : Slot) (w : Nat) : Nat :=
  let i := match sl with | .f => 1 | .s => 2 | .a => 3 | .b => 4 | .m => 5 | .c => 6 | .d => 7
  let p := portsOf i (opAt i w)
  let lit := if readsLit i w ∧ w ≠ 0 then (if i = 7 then 6 else 7) else 0
  (if w = 0 then 0 else lit + 8 * i * p.2 + 512 * i * p.1) + w * 2 ^ (32 * i)
/-- The context that the word is placed in: of stream core 0 for LAUNCH and the privileged forms, of mesh core 0 for others. -/
def placeCtx (sl : Slot) (w : Nat) : Nat :=
  match sl with
  | .f => if opAt 1 w = 25 then 4096 else 0
  | .s => if 100 ≤ opAt 2 w ∧ opAt 2 w ≤ 117 then 4096 else 0
  | _ => 0
def placeVa : Nat := 0x40000000
/-- Tables of three levels at 4096, with a leaf of 1 GiB for the bundle's page. -/
def placeTables (m : Memory) : Memory :=
  ((m.putN (mkey 0 0x1000) 8 0x2001).putN (mkey 0 0x2000) 8 0x3001).putN (mkey 0 0x3008) 8 (0x40000000 + 0xDF)
def placeCore (now : Nat) (k : Nat) (c : Core) : Core :=
  { c with cur := some k, last := numOf k, next := now, origin := c.origin.set 0 now, icache := [], energy := ⟨now + 256 * c.div[(0 : Fin 5)], 0, 0, 0, []⟩,
           gov := { c.gov with win := now / 2048 } }
def placedCtx (c : Ctx) : Ctx :=
  { c with status := .running, kill := none, saving := false, rolling := false, forced := false, async := [], wdPend := none, wdHeld := none,
           held := none, late := [], ctl := { c.ctl with clen := 0 },
           regs := { c.regs with flow := { c.regs.flow with pc := BitVec.ofNat 64 placeVa, dly := Delay.none, loops := [] },
                                 sys := { c.regs.sys with rmode := 0 } } }
/-- The state in which the next step issues a bundle with the word, in its slot, and nothing else in it. A word that no slot
takes is placed in the flow slot; an opcode row without a word is an event, and its index names no word. -/
def State.withFetchWord (s : State) (nbits w : Nat) : State :=
  let sl := (if nbits ≤ 32 then tableSlot w else none).getD .f
  let k := placeCtx sl w
  let s : State := { s with
    opened := none, tlb := [], mem := (placeTables s.mem).putN (mkey 0 placeVa) 32 (placeBundle sl w),
    agenda := [.issue (coreOf k) false] }
  ((s.modPart (s.ctx k).part fun p => { p with root := 0x1000 }).modCtx k placedCtx).modCore (coreOf k) (placeCore s.now k)

end
end Sys2Proof.Machine
end

