-- ==== Sys2Proof/Laws/Encode.lean ====
section
/-!
SUPPORT. Laws/Encode.lean: every field and every layout read back what was written: the decoder of a layout undoes its encoder,
under any opcode.
-/
namespace Sys2Proof

theorem decFin_val {n : Nat} (i : Fin n) : decFin n i.val = some i := by simp [decFin]
theorem encBool_lt (b : Bool) : encBool b < 2 := by cases b <;> decide
theorem decBool_enc (b : Bool) : decBool (encBool b) = some b := by cases b <;> rfl
theorem ite_some {α : Type} {P : Prop} [Decidable P] {x y : α} (h : (if P then some x else none) = some y) : P ∧ x = y := by
  split at h
  · exact ⟨‹P›, Option.some.inj h⟩
  · cases h
theorem bv_back {w : Nat} (v : BitVec w) : BitVec.ofNat w v.toNat = v := by simp
theorem Guard.enc_lt (g : Guard) : g.enc < 16 := by have := encBool_lt g.neg; have := g.p.isLt; unfold Guard.enc; omega
theorem Guard.dec_enc (g : Guard) : Guard.dec g.enc = some g := by
  obtain ⟨n, p⟩ := g
  have h1 : (encBool n * 8 + p.val) % 8 = p.val := by have := p.isLt; omega
  have h2 : (encBool n * 8 + p.val) / 8 = encBool n := by have := p.isLt; omega
  simp only [Guard.dec, Guard.enc, h1, h2, decFin_val, Option.map_some]
  cases n <;> rfl
theorem Src.enc_lt (o : Src) : o.enc < 32 := by
  cases o <;> simp only [Src.enc] <;> omega
theorem Src.dec_enc (o : Src) : Src.dec o.enc = some o := by
  cases o with
  | r i => revert i; decide
  | n i => revert i; decide
  | q i => revert i; decide
  | lit => rfl
  | zero => rfl
theorem Dst.enc_lt (o : Dst) : o.enc < 32 := by
  cases o <;> simp only [Dst.enc] <;> omega
theorem Dst.dec_enc (o : Dst) : Dst.dec o.enc = some o := by
  cases o with
  | r i => revert i; decide
  | n i => revert i; decide
  | void => rfl
theorem LSrc.enc_lt (o : LSrc) : o.enc < 32 := by
  cases o <;> simp only [LSrc.enc] <;> omega
theorem LSrc.dec_enc (o : LSrc) : LSrc.dec o.enc = some o := by
  cases o with
  | q i => revert i; decide
  | lit => rfl
  | zero => rfl
theorem MOp.enc_lt (o : MOp) : o.enc < 32 := by
  cases o <;> simp only [MOp.enc] <;> omega
theorem MOp.dec_enc (o : MOp) : MOp.dec o.enc = some o := by
  cases o with
  | t i => revert i; decide
  | pair i => revert i; decide
  | zero => rfl
theorem Pair.enc_lt (i : Fin 4) : Pair.enc i < 32 := by have := i.isLt; unfold Pair.enc; omega
theorem Pair.dec_enc (i : Fin 4) : Pair.dec (Pair.enc i) = some i := by simp [Pair.dec, Pair.enc, decFin_val]
theorem Count.enc_lt (c : Count) : c.enc < 262144 := by
  cases c <;> simp only [Count.enc] <;> omega
theorem Count.dec_enc (c : Count) : Count.dec c.enc = some c := by
  cases c with
  | imm v => have := v.isLt; simp [Count.dec, Count.enc]; omega
  | lit => rfl
theorem TlwVal.enc_lt (c : TlwVal) : c.enc < 524288 := by
  cases c <;> simp only [TlwVal.enc] <;> omega
theorem TlwVal.dec_enc (c : TlwVal) : TlwVal.dec c.enc = some c := by
  cases c with
  | imm v => have := v.isLt; simp [TlwVal.dec, TlwVal.enc]; omega
  | lit v =>
    have h := v.isLt
    have h1 : ¬ 262144 + v.toNat < 65536 := by omega
    have h2 : 262144 ≤ 262144 + v.toNat ∧ 262144 + v.toNat < 327680 := by omega
    simp only [TlwVal.dec, TlwVal.enc, h1, h2, if_false, if_true, and_self]
    congr 2
    apply BitVec.eq_of_toNat_eq
    simp only [BitVec.toNat_ofNat]
    omega
theorem Rnd.enc_lt (r : Rnd) : r.enc < 4 := by cases r <;> decide
theorem Rnd.dec_enc (r : Rnd) : Rnd.dec r.enc = some r := by cases r <;> rfl
theorem VType.enc_lt (t : VType) : t.enc < 16 := by cases t <;> decide
theorem VType.dec_enc (t : VType) : VType.dec t.enc = some t := by cases t <;> rfl
/-- The count of POSTR, beside a target in bits 14 to 16 (R123). -/
theorem CountR.enc_lt (c : Count) : CountR.enc c < 262144 := Count.enc_lt c
theorem CountR.dec_enc (t : Fin 8) (c : Count) : CountR.dec (t.val * 16384 + CountR.enc c) = some c := by
  have ht := t.isLt
  have h : (t.val * 16384 + CountR.enc c) / 131072 * 131072 + (t.val * 16384 + CountR.enc c) % 16384 = c.enc := by
    unfold CountR.enc
    cases c with
    | imm v => have := v.isLt; simp only [Count.enc]; omega
    | lit => simp only [Count.enc]; omega
  unfold CountR.dec
  rw [h, Count.dec_enc]

theorem FNone.enc_lt (x : FNone) : x.enc < 67108864 := by
  obtain ⟨g⟩ := x
  have := Guard.enc_lt g
  simp only [FNone.enc]; omega
theorem FNone.dec_enc (n h : Nat) (x : FNone) (e : n = h * 67108864 + x.enc) : FNone.dec 0 n = some x := by
  obtain ⟨g⟩ := x
  have := Guard.enc_lt g
  have et : FNone.enc ⟨g⟩ + 0 = n % 67108864 := by simp only [FNone.enc] at e ⊢; omega
  simp only [FNone.enc] at e
  have eg : n / 4194304 % 16 = g.enc := by omega
  unfold FNone.dec
  rw [eg, Guard.dec_enc]; try rw [Option.bind_eq_bind]
  rw [Option.bind_some]
  exact if_pos et
theorem FPrep.enc_lt (x : FPrep) : x.enc < 67108864 := by
  obtain ⟨g, xn, xo⟩ := x
  have := Guard.enc_lt g; have := xn.isLt; have := xo.isLt
  simp only [FPrep.enc]; omega
theorem FPrep.dec_enc (n h : Nat) (x : FPrep) (e : n = h * 67108864 + x.enc) : FPrep.dec 0 n = some x := by
  obtain ⟨g, xn, xo⟩ := x
  have := Guard.enc_lt g; have := xn.isLt; have := xo.isLt
  have et : FPrep.enc ⟨g, xn, xo⟩ + 0 = n % 67108864 := by simp only [FPrep.enc] at e ⊢; omega
  simp only [FPrep.enc] at e
  have eg : n / 4194304 % 16 = g.enc := by omega
  have e0 : n / 1048576 % 4 = xn.val := by omega
  have e1 : n % 1048576 = xo.toNat := by omega
  unfold FPrep.dec
  rw [eg, Guard.dec_enc]; try rw [Option.bind_eq_bind]
  rw [Option.bind_some]
  rw [e0, decFin_val]; try rw [Option.bind_eq_bind]
  rw [Option.bind_some]
  rw [e1, bv_back]; try rw [Option.bind_eq_bind]
  rw [Option.bind_some]
  exact if_pos et
theorem FPrepM.enc_lt (x : FPrepM) : x.enc < 67108864 := by
  obtain ⟨g, xn, xj⟩ := x
  have := Guard.enc_lt g; have := xn.isLt; have := xj.isLt
  simp only [FPrepM.enc]; omega
theorem FPrepM.dec_enc (n h : Nat) (x : FPrepM) (e : n = h * 67108864 + x.enc) : FPrepM.dec 0 n = some x := by
  obtain ⟨g, xn, xj⟩ := x
  have := Guard.enc_lt g; have := xn.isLt; have := xj.isLt
  have et : FPrepM.enc ⟨g, xn, xj⟩ + 0 = n % 67108864 := by simp only [FPrepM.enc] at e ⊢; omega
  simp only [FPrepM.enc] at e
  have eg : n / 4194304 % 16 = g.enc := by omega
  have e0 : n / 1048576 % 4 = xn.val := by omega
  have e1 : n % 64 = xj.val := by omega
  unfold FPrepM.dec
  rw [eg, Guard.dec_enc]; try rw [Option.bind_eq_bind]
  rw [Option.bind_some]
  rw [e0, decFin_val]; try rw [Option.bind_eq_bind]
  rw [Option.bind_some]
  rw [e1, decFin_val]; try rw [Option.bind_eq_bind]
  rw [Option.bind_some]
  exact if_pos et
theorem FBt.enc_lt (x : FBt) : x.enc < 67108864 := by
  obtain ⟨g, xs, xt1, xt2, xt3, xt4⟩ := x
  have := Guard.enc_lt g; have := xs.isLt; have := xt1.isLt; have := xt2.isLt; have := xt3.isLt; have := xt4.isLt
  simp only [FBt.enc]; omega
theorem FBt.dec_enc (n h : Nat) (x : FBt) (e : n = h * 67108864 + x.enc) : FBt.dec 0 n = some x := by
  obtain ⟨g, xs, xt1, xt2, xt3, xt4⟩ := x
  have := Guard.enc_lt g; have := xs.isLt; have := xt1.isLt; have := xt2.isLt; have := xt3.isLt; have := xt4.isLt
  have et : FBt.enc ⟨g, xs, xt1, xt2, xt3, xt4⟩ + 0 = n % 67108864 := by simp only [FBt.enc] at e ⊢; omega
  simp only [FBt.enc] at e
  have eg : n / 4194304 % 16 = g.enc := by omega
  have e0 : n / 65536 % 16 = xs.val := by omega
  have e1 : n / 4096 % 16 = xt1.val := by omega
  have e2 : n / 256 % 16 = xt2.val := by omega
  have e3 : n / 16 % 16 = xt3.val := by omega
  have e4 : n % 16 = xt4.val := by omega
  unfold FBt.dec
  rw [eg, Guard.dec_enc]; try rw [Option.bind_eq_bind]
  rw [Option.bind_some]
  rw [e0, decFin_val]; try rw [Option.bind_eq_bind]
  rw [Option.bind_some]
  rw [e1, decFin_val]; try rw [Option.bind_eq_bind]
  rw [Option.bind_some]
  rw [e2, decFin_val]; try rw [Option.bind_eq_bind]
  rw [Option.bind_some]
  rw [e3, decFin_val]; try rw [Option.bind_eq_bind]
  rw [Option.bind_some]
  rw [e4, decFin_val]; try rw [Option.bind_eq_bind]
  rw [Option.bind_some]
  exact if_pos et
theorem FJump.enc_lt (x : FJump) : x.enc < 67108864 := by
  obtain ⟨g, xo⟩ := x
  have := Guard.enc_lt g; have := xo.isLt
  simp only [FJump.enc]; omega
theorem FJump.dec_enc (n h : Nat) (x : FJump) (e : n = h * 67108864 + x.enc) : FJump.dec 0 n = some x := by
  obtain ⟨g, xo⟩ := x
  have := Guard.enc_lt g; have := xo.isLt
  have et : FJump.enc ⟨g, xo⟩ + 0 = n % 67108864 := by simp only [FJump.enc] at e ⊢; omega
  simp only [FJump.enc] at e
  have eg : n / 4194304 % 16 = g.enc := by omega
  have e0 : n % 4194304 = xo.toNat := by omega
  unfold FJump.dec
  rw [eg, Guard.dec_enc]; try rw [Option.bind_eq_bind]
  rw [Option.bind_some]
  rw [e0, bv_back]; try rw [Option.bind_eq_bind]
  rw [Option.bind_some]
  exact if_pos et
theorem FTgt.enc_lt (x : FTgt) : x.enc < 67108864 := by
  obtain ⟨g, xn⟩ := x
  have := Guard.enc_lt g; have := xn.isLt
  simp only [FTgt.enc]; omega
theorem FTgt.dec_enc (n h : Nat) (x : FTgt) (e : n = h * 67108864 + x.enc) : FTgt.dec 0 n = some x := by
  obtain ⟨g, xn⟩ := x
  have := Guard.enc_lt g; have := xn.isLt
  have et : FTgt.enc ⟨g, xn⟩ + 0 = n % 67108864 := by simp only [FTgt.enc] at e ⊢; omega
  simp only [FTgt.enc] at e
  have eg : n / 4194304 % 16 = g.enc := by omega
  have e0 : n / 1048576 % 4 = xn.val := by omega
  unfold FTgt.dec
  rw [eg, Guard.dec_enc]; try rw [Option.bind_eq_bind]
  rw [Option.bind_some]
  rw [e0, decFin_val]; try rw [Option.bind_eq_bind]
  rw [Option.bind_some]
  exact if_pos et
theorem FLoop.enc_lt (x : FLoop) : x.enc < 67108864 := by
  obtain ⟨g, xn, xlen⟩ := x
  have := Guard.enc_lt g; have := xn.isLt; have := xlen.isLt
  simp only [FLoop.enc]; omega
theorem FLoop.dec_enc (n h : Nat) (x : FLoop) (e : n = h * 67108864 + x.enc) : FLoop.dec 0 n = some x := by
  obtain ⟨g, xn, xlen⟩ := x
  have := Guard.enc_lt g; have := xn.isLt; have := xlen.isLt
  have et : FLoop.enc ⟨g, xn, xlen⟩ + 0 = n % 67108864 := by simp only [FLoop.enc] at e ⊢; omega
  simp only [FLoop.enc] at e
  have eg : n / 4194304 % 16 = g.enc := by omega
  have e0 : n / 524288 % 8 = xn.val := by omega
  have e1 : n % 64 = xlen.val := by omega
  unfold FLoop.dec
  rw [eg, Guard.dec_enc]; try rw [Option.bind_eq_bind]
  rw [Option.bind_some]
  rw [e0, decFin_val]; try rw [Option.bind_eq_bind]
  rw [Option.bind_some]
  rw [e1, decFin_val]; try rw [Option.bind_eq_bind]
  rw [Option.bind_some]
  exact if_pos et
theorem FCountLc.enc_lt (x : FCountLc) : x.enc < 67108864 := by
  obtain ⟨g, xn, xk⟩ := x
  have := Guard.enc_lt g; have := xn.isLt; have := Count.enc_lt xk
  simp only [FCountLc.enc]; omega
theorem FCountLc.dec_enc (n h : Nat) (x : FCountLc) (e : n = h * 67108864 + x.enc) : FCountLc.dec 0 n = some x := by
  obtain ⟨g, xn, xk⟩ := x
  have := Guard.enc_lt g; have := xn.isLt; have := Count.enc_lt xk
  have et : FCountLc.enc ⟨g, xn, xk⟩ + 0 = n % 67108864 := by simp only [FCountLc.enc] at e ⊢; omega
  simp only [FCountLc.enc] at e
  have eg : n / 4194304 % 16 = g.enc := by omega
  have e0 : n / 262144 % 16 = xn.val := by omega
  have e1 : n % 262144 = xk.enc := by omega
  unfold FCountLc.dec
  rw [eg, Guard.dec_enc]; try rw [Option.bind_eq_bind]
  rw [Option.bind_some]
  rw [e0, decFin_val]; try rw [Option.bind_eq_bind]
  rw [Option.bind_some]
  rw [e1, Count.dec_enc]; try rw [Option.bind_eq_bind]
  rw [Option.bind_some]
  exact if_pos et
theorem FCountF.enc_lt (x : FCountF) : x.enc < 67108864 := by
  obtain ⟨g, xn, xk⟩ := x
  have := Guard.enc_lt g; have := xn.isLt; have := Count.enc_lt xk
  simp only [FCountF.enc]; omega
theorem FCountF.dec_enc (n h : Nat) (x : FCountF) (e : n = h * 67108864 + x.enc) : FCountF.dec 0 n = some x := by
  obtain ⟨g, xn, xk⟩ := x
  have := Guard.enc_lt g; have := xn.isLt; have := Count.enc_lt xk
  have et : FCountF.enc ⟨g, xn, xk⟩ + 0 = n % 67108864 := by simp only [FCountF.enc] at e ⊢; omega
  simp only [FCountF.enc] at e
  have eg : n / 4194304 % 16 = g.enc := by omega
  have e0 : n / 262144 % 16 = xn.val := by omega
  have e1 : n % 262144 = xk.enc := by omega
  unfold FCountF.dec
  rw [eg, Guard.dec_enc]; try rw [Option.bind_eq_bind]
  rw [Option.bind_some]
  rw [e0, decFin_val]; try rw [Option.bind_eq_bind]
  rw [Option.bind_some]
  rw [e1, Count.dec_enc]; try rw [Option.bind_eq_bind]
  rw [Option.bind_some]
  exact if_pos et
theorem FCountBb.enc_lt (x : FCountBb) : x.enc < 67108864 := by
  obtain ⟨g, xn, xk⟩ := x
  have := Guard.enc_lt g; have := xn.isLt; have := Count.enc_lt xk
  simp only [FCountBb.enc]; omega
theorem FCountBb.dec_enc (n h : Nat) (x : FCountBb) (e : n = h * 67108864 + x.enc) : FCountBb.dec 0 n = some x := by
  obtain ⟨g, xn, xk⟩ := x
  have := Guard.enc_lt g; have := xn.isLt; have := Count.enc_lt xk
  have et : FCountBb.enc ⟨g, xn, xk⟩ + 0 = n % 67108864 := by simp only [FCountBb.enc] at e ⊢; omega
  simp only [FCountBb.enc] at e
  have eg : n / 4194304 % 16 = g.enc := by omega
  have e0 : n / 262144 % 16 = xn.val := by omega
  have e1 : n % 262144 = xk.enc := by omega
  unfold FCountBb.dec
  rw [eg, Guard.dec_enc]; try rw [Option.bind_eq_bind]
  rw [Option.bind_some]
  rw [e0, decFin_val]; try rw [Option.bind_eq_bind]
  rw [Option.bind_some]
  rw [e1, Count.dec_enc]; try rw [Option.bind_eq_bind]
  rw [Option.bind_some]
  exact if_pos et
theorem FSpl.enc_lt (x : FSpl) : x.enc < 67108864 := by
  obtain ⟨g, xn, xk⟩ := x
  have := Guard.enc_lt g; have := xn.isLt; have := xk.isLt
  simp only [FSpl.enc]; omega
theorem FSpl.dec_enc (n h : Nat) (x : FSpl) (e : n = h * 67108864 + x.enc) : FSpl.dec 0 n = some x := by
  obtain ⟨g, xn, xk⟩ := x
  have := Guard.enc_lt g; have := xn.isLt; have := xk.isLt
  have et : FSpl.enc ⟨g, xn, xk⟩ + 0 = n % 67108864 := by simp only [FSpl.enc] at e ⊢; omega
  simp only [FSpl.enc] at e
  have eg : n / 4194304 % 16 = g.enc := by omega
  have e0 : n / 1048576 % 4 = xn.val := by omega
  have e1 : n / 131072 % 8 = xk.val := by omega
  unfold FSpl.dec
  rw [eg, Guard.dec_enc]; try rw [Option.bind_eq_bind]
  rw [Option.bind_some]
  rw [e0, decFin_val]; try rw [Option.bind_eq_bind]
  rw [Option.bind_some]
  rw [e1, decFin_val]; try rw [Option.bind_eq_bind]
  rw [Option.bind_some]
  exact if_pos et
theorem FPostr.enc_lt (x : FPostr) : x.enc < 67108864 := by
  obtain ⟨g, xn, xt, xk⟩ := x
  have := Guard.enc_lt g; have := xn.isLt; have := xt.isLt; have := CountR.enc_lt xk; have : CountR.enc xk % 131072 / 16384 = 0 := by cases xk <;> simp only [CountR.enc, Count.enc] <;> omega
  simp only [FPostr.enc]; omega
theorem FPostr.dec_enc (n h : Nat) (x : FPostr) (e : n = h * 67108864 + x.enc) : FPostr.dec 0 n = some x := by
  obtain ⟨g, xn, xt, xk⟩ := x
  have := Guard.enc_lt g; have := xn.isLt; have := xt.isLt; have := CountR.enc_lt xk; have : CountR.enc xk % 131072 / 16384 = 0 := by cases xk <;> simp only [CountR.enc, Count.enc] <;> omega
  have et : FPostr.enc ⟨g, xn, xt, xk⟩ + 0 = n % 67108864 := by simp only [FPostr.enc] at e ⊢; omega
  simp only [FPostr.enc] at e
  have eg : n / 4194304 % 16 = g.enc := by omega
  have e0 : n / 262144 % 16 = xn.val := by omega
  have e1 : n / 16384 % 8 = xt.val := by omega
  have e2 : n % 262144 = xt.val * 16384 + CountR.enc xk := by omega
  unfold FPostr.dec
  rw [eg, Guard.dec_enc]; try rw [Option.bind_eq_bind]
  rw [Option.bind_some]
  rw [e0, decFin_val]; try rw [Option.bind_eq_bind]
  rw [Option.bind_some]
  rw [e1, decFin_val]; try rw [Option.bind_eq_bind]
  rw [Option.bind_some]
  rw [e2, CountR.dec_enc]; try rw [Option.bind_eq_bind]
  rw [Option.bind_some]
  exact if_pos et
theorem FTlw.enc_lt (x : FTlw) : x.enc < 67108864 := by
  obtain ⟨g, xt, xrel, xv⟩ := x
  have := Guard.enc_lt g; have := xt.isLt; have := encBool_lt xrel; have := TlwVal.enc_lt xv
  simp only [FTlw.enc]; omega
theorem FTlw.dec_enc (n h : Nat) (x : FTlw) (e : n = h * 67108864 + x.enc) : FTlw.dec 0 n = some x := by
  obtain ⟨g, xt, xrel, xv⟩ := x
  have := Guard.enc_lt g; have := xt.isLt; have := encBool_lt xrel; have := TlwVal.enc_lt xv
  have et : FTlw.enc ⟨g, xt, xrel, xv⟩ + 0 = n % 67108864 := by simp only [FTlw.enc] at e ⊢; omega
  simp only [FTlw.enc] at e
  have eg : n / 4194304 % 16 = g.enc := by omega
  have e0 : n / 1048576 % 4 = xt.val := by omega
  have e1 : n / 524288 % 2 = encBool xrel := by omega
  have e2 : n % 524288 = xv.enc := by omega
  unfold FTlw.dec
  rw [eg, Guard.dec_enc]; try rw [Option.bind_eq_bind]
  rw [Option.bind_some]
  rw [e0, decFin_val]; try rw [Option.bind_eq_bind]
  rw [Option.bind_some]
  rw [e1, decBool_enc]; try rw [Option.bind_eq_bind]
  rw [Option.bind_some]
  rw [e2, TlwVal.dec_enc]; try rw [Option.bind_eq_bind]
  rw [Option.bind_some]
  exact if_pos et
theorem FBb.enc_lt (x : FBb) : x.enc < 67108864 := by
  obtain ⟨g, xn⟩ := x
  have := Guard.enc_lt g; have := xn.isLt
  simp only [FBb.enc]; omega
theorem FBb.dec_enc (n h : Nat) (x : FBb) (e : n = h * 67108864 + x.enc) : FBb.dec 0 n = some x := by
  obtain ⟨g, xn⟩ := x
  have := Guard.enc_lt g; have := xn.isLt
  have et : FBb.enc ⟨g, xn⟩ + 0 = n % 67108864 := by simp only [FBb.enc] at e ⊢; omega
  simp only [FBb.enc] at e
  have eg : n / 4194304 % 16 = g.enc := by omega
  have e0 : n / 262144 % 16 = xn.val := by omega
  unfold FBb.dec
  rw [eg, Guard.dec_enc]; try rw [Option.bind_eq_bind]
  rw [Option.bind_some]
  rw [e0, decFin_val]; try rw [Option.bind_eq_bind]
  rw [Option.bind_some]
  exact if_pos et
theorem FSeg.enc_lt (x : FSeg) : x.enc < 67108864 := by
  obtain ⟨g, xm⟩ := x
  have := Guard.enc_lt g; have := xm.isLt
  simp only [FSeg.enc]; omega
theorem FSeg.dec_enc (n h : Nat) (x : FSeg) (e : n = h * 67108864 + x.enc) : FSeg.dec 0 n = some x := by
  obtain ⟨g, xm⟩ := x
  have := Guard.enc_lt g; have := xm.isLt
  have et : FSeg.enc ⟨g, xm⟩ + 0 = n % 67108864 := by simp only [FSeg.enc] at e ⊢; omega
  simp only [FSeg.enc] at e
  have eg : n / 4194304 % 16 = g.enc := by omega
  have e0 : n % 256 = xm.toNat := by omega
  unfold FSeg.dec
  rw [eg, Guard.dec_enc]; try rw [Option.bind_eq_bind]
  rw [Option.bind_some]
  rw [e0, bv_back]; try rw [Option.bind_eq_bind]
  rw [Option.bind_some]
  exact if_pos et
theorem FImm.enc_lt (x : FImm) : x.enc < 67108864 := by
  obtain ⟨g, xc⟩ := x
  have := Guard.enc_lt g; have := xc.isLt
  simp only [FImm.enc]; omega
theorem FImm.dec_enc (n h : Nat) (x : FImm) (e : n = h * 67108864 + x.enc) : FImm.dec 0 n = some x := by
  obtain ⟨g, xc⟩ := x
  have := Guard.enc_lt g; have := xc.isLt
  have et : FImm.enc ⟨g, xc⟩ + 0 = n % 67108864 := by simp only [FImm.enc] at e ⊢; omega
  simp only [FImm.enc] at e
  have eg : n / 4194304 % 16 = g.enc := by omega
  have e0 : n % 65536 = xc.toNat := by omega
  unfold FImm.dec
  rw [eg, Guard.dec_enc]; try rw [Option.bind_eq_bind]
  rw [Option.bind_some]
  rw [e0, bv_back]; try rw [Option.bind_eq_bind]
  rw [Option.bind_some]
  exact if_pos et
theorem FScope.enc_lt (x : FScope) : x.enc < 67108864 := by
  obtain ⟨g, xs⟩ := x
  have := Guard.enc_lt g; have := xs.isLt
  simp only [FScope.enc]; omega
theorem FScope.dec_enc (n h : Nat) (x : FScope) (e : n = h * 67108864 + x.enc) : FScope.dec 0 n = some x := by
  obtain ⟨g, xs⟩ := x
  have := Guard.enc_lt g; have := xs.isLt
  have et : FScope.enc ⟨g, xs⟩ + 0 = n % 67108864 := by simp only [FScope.enc] at e ⊢; omega
  simp only [FScope.enc] at e
  have eg : n / 4194304 % 16 = g.enc := by omega
  have e0 : n / 524288 % 8 = xs.val := by omega
  unfold FScope.dec
  rw [eg, Guard.dec_enc]; try rw [Option.bind_eq_bind]
  rw [Option.bind_some]
  rw [e0, decFin_val]; try rw [Option.bind_eq_bind]
  rw [Option.bind_some]
  exact if_pos et
theorem FScope.enc_lt_262144 (x : FScope) : 262144 + x.enc < 67108864 := by
  obtain ⟨g, xs⟩ := x
  have := Guard.enc_lt g; have := xs.isLt
  simp only [FScope.enc]; omega
theorem FScope.dec_enc_262144 (n h : Nat) (x : FScope) (e : n = h * 67108864 + 262144 + x.enc) : FScope.dec 262144 n = some x := by
  obtain ⟨g, xs⟩ := x
  have := Guard.enc_lt g; have := xs.isLt
  have et : FScope.enc ⟨g, xs⟩ + 262144 = n % 67108864 := by simp only [FScope.enc] at e ⊢; omega
  simp only [FScope.enc] at e
  have eg : n / 4194304 % 16 = g.enc := by omega
  have e0 : n / 524288 % 8 = xs.val := by omega
  unfold FScope.dec
  rw [eg, Guard.dec_enc]; try rw [Option.bind_eq_bind]
  rw [Option.bind_some]
  rw [e0, decFin_val]; try rw [Option.bind_eq_bind]
  rw [Option.bind_some]
  exact if_pos et
theorem FClk.enc_lt (x : FClk) : x.enc < 67108864 := by
  obtain ⟨g, xc, xd⟩ := x
  have := Guard.enc_lt g; have := xc.isLt; have := xd.isLt
  simp only [FClk.enc]; omega
theorem FClk.dec_enc (n h : Nat) (x : FClk) (e : n = h * 67108864 + x.enc) : FClk.dec 0 n = some x := by
  obtain ⟨g, xc, xd⟩ := x
  have := Guard.enc_lt g; have := xc.isLt; have := xd.isLt
  have et : FClk.enc ⟨g, xc, xd⟩ + 0 = n % 67108864 := by simp only [FClk.enc] at e ⊢; omega
  simp only [FClk.enc] at e
  have eg : n / 4194304 % 16 = g.enc := by omega
  have e0 : n / 524288 % 8 = xc.val := by omega
  have e1 : n % 16 = xd.val := by omega
  unfold FClk.dec
  rw [eg, Guard.dec_enc]; try rw [Option.bind_eq_bind]
  rw [Option.bind_some]
  rw [e0, decFin_val]; try rw [Option.bind_eq_bind]
  rw [Option.bind_some]
  rw [e1, decFin_val]; try rw [Option.bind_eq_bind]
  rw [Option.bind_some]
  exact if_pos et
theorem FFlagM.enc_lt (x : FFlagM) : x.enc < 67108864 := by
  obtain ⟨g, xn, xj⟩ := x
  have := Guard.enc_lt g; have := xn.isLt; have := xj.isLt
  simp only [FFlagM.enc]; omega
theorem FFlagM.dec_enc (n h : Nat) (x : FFlagM) (e : n = h * 67108864 + x.enc) : FFlagM.dec 0 n = some x := by
  obtain ⟨g, xn, xj⟩ := x
  have := Guard.enc_lt g; have := xn.isLt; have := xj.isLt
  have et : FFlagM.enc ⟨g, xn, xj⟩ + 0 = n % 67108864 := by simp only [FFlagM.enc] at e ⊢; omega
  simp only [FFlagM.enc] at e
  have eg : n / 4194304 % 16 = g.enc := by omega
  have e0 : n / 262144 % 16 = xn.val := by omega
  have e1 : n % 64 = xj.val := by omega
  unfold FFlagM.dec
  rw [eg, Guard.dec_enc]; try rw [Option.bind_eq_bind]
  rw [Option.bind_some]
  rw [e0, decFin_val]; try rw [Option.bind_eq_bind]
  rw [Option.bind_some]
  rw [e1, decFin_val]; try rw [Option.bind_eq_bind]
  rw [Option.bind_some]
  exact if_pos et
theorem FSendS.enc_lt (x : FSendS) : x.enc < 67108864 := by
  obtain ⟨g, xt, xj⟩ := x
  have := Guard.enc_lt g; have := xt.isLt; have := xj.isLt
  simp only [FSendS.enc]; omega
theorem FSendS.dec_enc (n h : Nat) (x : FSendS) (e : n = h * 67108864 + x.enc) : FSendS.dec 0 n = some x := by
  obtain ⟨g, xt, xj⟩ := x
  have := Guard.enc_lt g; have := xt.isLt; have := xj.isLt
  have et : FSendS.enc ⟨g, xt, xj⟩ + 0 = n % 67108864 := by simp only [FSendS.enc] at e ⊢; omega
  simp only [FSendS.enc] at e
  have eg : n / 4194304 % 16 = g.enc := by omega
  have e0 : n / 524288 % 8 = xt.val := by omega
  have e1 : n % 64 = xj.val := by omega
  unfold FSendS.dec
  rw [eg, Guard.dec_enc]; try rw [Option.bind_eq_bind]
  rw [Option.bind_some]
  rw [e0, decFin_val]; try rw [Option.bind_eq_bind]
  rw [Option.bind_some]
  rw [e1, decFin_val]; try rw [Option.bind_eq_bind]
  rw [Option.bind_some]
  exact if_pos et
theorem FGetm.enc_lt (x : FGetm) : x.enc < 67108864 := by
  obtain ⟨g, xc, xn, xj⟩ := x
  have := Guard.enc_lt g; have := xc.isLt; have := xn.isLt; have := xj.isLt
  simp only [FGetm.enc]; omega
theorem FGetm.dec_enc (n h : Nat) (x : FGetm) (e : n = h * 67108864 + x.enc) : FGetm.dec 0 n = some x := by
  obtain ⟨g, xc, xn, xj⟩ := x
  have := Guard.enc_lt g; have := xc.isLt; have := xn.isLt; have := xj.isLt
  have et : FGetm.enc ⟨g, xc, xn, xj⟩ + 0 = n % 67108864 := by simp only [FGetm.enc] at e ⊢; omega
  simp only [FGetm.enc] at e
  have eg : n / 4194304 % 16 = g.enc := by omega
  have e0 : n / 524288 % 8 = xc.val := by omega
  have e1 : n / 32768 % 16 = xn.val := by omega
  have e2 : n % 64 = xj.val := by omega
  unfold FGetm.dec
  rw [eg, Guard.dec_enc]; try rw [Option.bind_eq_bind]
  rw [Option.bind_some]
  rw [e0, decFin_val]; try rw [Option.bind_eq_bind]
  rw [Option.bind_some]
  rw [e1, decFin_val]; try rw [Option.bind_eq_bind]
  rw [Option.bind_some]
  rw [e2, decFin_val]; try rw [Option.bind_eq_bind]
  rw [Option.bind_some]
  exact if_pos et
theorem FEpi.enc_lt (x : FEpi) : x.enc < 67108864 := by
  obtain ⟨g, xk, xn, xj⟩ := x
  have := Guard.enc_lt g; have := xk.isLt; have := xn.isLt; have := xj.isLt
  simp only [FEpi.enc]; omega
theorem FEpi.dec_enc (n h : Nat) (x : FEpi) (e : n = h * 67108864 + x.enc) : FEpi.dec 0 n = some x := by
  obtain ⟨g, xk, xn, xj⟩ := x
  have := Guard.enc_lt g; have := xk.isLt; have := xn.isLt; have := xj.isLt
  have et : FEpi.enc ⟨g, xk, xn, xj⟩ + 0 = n % 67108864 := by simp only [FEpi.enc] at e ⊢; omega
  simp only [FEpi.enc] at e
  have eg : n / 4194304 % 16 = g.enc := by omega
  have e0 : n / 524288 % 8 = xk.val := by omega
  have e1 : n / 65536 % 8 = xn.val := by omega
  have e2 : n % 64 = xj.val := by omega
  unfold FEpi.dec
  rw [eg, Guard.dec_enc]; try rw [Option.bind_eq_bind]
  rw [Option.bind_some]
  rw [e0, decFin_val]; try rw [Option.bind_eq_bind]
  rw [Option.bind_some]
  rw [e1, decFin_val]; try rw [Option.bind_eq_bind]
  rw [Option.bind_some]
  rw [e2, decFin_val]; try rw [Option.bind_eq_bind]
  rw [Option.bind_some]
  exact if_pos et
theorem FPred.enc_lt (x : FPred) : x.enc < 67108864 := by
  obtain ⟨g, xn⟩ := x
  have := Guard.enc_lt g; have := xn.isLt
  simp only [FPred.enc]; omega
theorem FPred.dec_enc (n h : Nat) (x : FPred) (e : n = h * 67108864 + x.enc) : FPred.dec 0 n = some x := by
  obtain ⟨g, xn⟩ := x
  have := Guard.enc_lt g; have := xn.isLt
  have et : FPred.enc ⟨g, xn⟩ + 0 = n % 67108864 := by simp only [FPred.enc] at e ⊢; omega
  simp only [FPred.enc] at e
  have eg : n / 4194304 % 16 = g.enc := by omega
  have e0 : n / 524288 % 8 = xn.val := by omega
  unfold FPred.dec
  rw [eg, Guard.dec_enc]; try rw [Option.bind_eq_bind]
  rw [Option.bind_some]
  rw [e0, decFin_val]; try rw [Option.bind_eq_bind]
  rw [Option.bind_some]
  exact if_pos et
theorem FCapq.enc_lt (x : FCapq) : x.enc < 67108864 := by
  obtain ⟨g, xn, xi⟩ := x
  have := Guard.enc_lt g; have := xn.isLt; have := xi.isLt
  simp only [FCapq.enc]; omega
theorem FCapq.dec_enc (n h : Nat) (x : FCapq) (e : n = h * 67108864 + x.enc) : FCapq.dec 0 n = some x := by
  obtain ⟨g, xn, xi⟩ := x
  have := Guard.enc_lt g; have := xn.isLt; have := xi.isLt
  have et : FCapq.enc ⟨g, xn, xi⟩ + 0 = n % 67108864 := by simp only [FCapq.enc] at e ⊢; omega
  simp only [FCapq.enc] at e
  have eg : n / 4194304 % 16 = g.enc := by omega
  have e0 : n / 524288 % 8 = xn.val := by omega
  have e1 : n % 65536 = xi.toNat := by omega
  unfold FCapq.dec
  rw [eg, Guard.dec_enc]; try rw [Option.bind_eq_bind]
  rw [Option.bind_some]
  rw [e0, decFin_val]; try rw [Option.bind_eq_bind]
  rw [Option.bind_some]
  rw [e1, bv_back]; try rw [Option.bind_eq_bind]
  rw [Option.bind_some]
  exact if_pos et
theorem FPitchq.enc_lt (x : FPitchq) : x.enc < 67108864 := by
  obtain ⟨g, xn, xr⟩ := x
  have := Guard.enc_lt g; have := xn.isLt; have := xr.isLt
  simp only [FPitchq.enc]; omega
theorem FPitchq.dec_enc (n h : Nat) (x : FPitchq) (e : n = h * 67108864 + x.enc) : FPitchq.dec 0 n = some x := by
  obtain ⟨g, xn, xr⟩ := x
  have := Guard.enc_lt g; have := xn.isLt; have := xr.isLt
  have et : FPitchq.enc ⟨g, xn, xr⟩ + 0 = n % 67108864 := by simp only [FPitchq.enc] at e ⊢; omega
  simp only [FPitchq.enc] at e
  have eg : n / 4194304 % 16 = g.enc := by omega
  have e0 : n / 524288 % 8 = xn.val := by omega
  have e1 : n % 4 = xr.val := by omega
  unfold FPitchq.dec
  rw [eg, Guard.dec_enc]; try rw [Option.bind_eq_bind]
  rw [Option.bind_some]
  rw [e0, decFin_val]; try rw [Option.bind_eq_bind]
  rw [Option.bind_some]
  rw [e1, decFin_val]; try rw [Option.bind_eq_bind]
  rw [Option.bind_some]
  exact if_pos et
theorem SAlu.enc_lt (x : SAlu) : x.enc < 33554432 := by
  obtain ⟨g, xd, xa, xb, xw⟩ := x
  have := Guard.enc_lt g; have := Dst.enc_lt xd; have := Src.enc_lt xa; have := Src.enc_lt xb; have := encBool_lt xw
  simp only [SAlu.enc]; omega
theorem SAlu.dec_enc (n h : Nat) (x : SAlu) (e : n = h * 33554432 + x.enc) : SAlu.dec 0 n = some x := by
  obtain ⟨g, xd, xa, xb, xw⟩ := x
  have := Guard.enc_lt g; have := Dst.enc_lt xd; have := Src.enc_lt xa; have := Src.enc_lt xb; have := encBool_lt xw
  have et : SAlu.enc ⟨g, xd, xa, xb, xw⟩ + 0 = n % 33554432 := by simp only [SAlu.enc] at e ⊢; omega
  simp only [SAlu.enc] at e
  have eg : n / 2097152 % 16 = g.enc := by omega
  have e0 : n / 65536 % 32 = xd.enc := by omega
  have e1 : n / 2048 % 32 = xa.enc := by omega
  have e2 : n / 64 % 32 = xb.enc := by omega
  have e3 : n % 2 = encBool xw := by omega
  unfold SAlu.dec
  rw [eg, Guard.dec_enc]; try rw [Option.bind_eq_bind]
  rw [Option.bind_some]
  rw [e0, Dst.dec_enc]; try rw [Option.bind_eq_bind]
  rw [Option.bind_some]
  rw [e1, Src.dec_enc]; try rw [Option.bind_eq_bind]
  rw [Option.bind_some]
  rw [e2, Src.dec_enc]; try rw [Option.bind_eq_bind]
  rw [Option.bind_some]
  rw [e3, decBool_enc]; try rw [Option.bind_eq_bind]
  rw [Option.bind_some]
  exact if_pos et
theorem SUn.enc_lt (x : SUn) : x.enc < 33554432 := by
  obtain ⟨g, xd, xa, xw⟩ := x
  have := Guard.enc_lt g; have := Dst.enc_lt xd; have := Src.enc_lt xa; have := encBool_lt xw
  simp only [SUn.enc]; omega
theorem SUn.dec_enc (n h : Nat) (x : SUn) (e : n = h * 33554432 + x.enc) : SUn.dec 0 n = some x := by
  obtain ⟨g, xd, xa, xw⟩ := x
  have := Guard.enc_lt g; have := Dst.enc_lt xd; have := Src.enc_lt xa; have := encBool_lt xw
  have et : SUn.enc ⟨g, xd, xa, xw⟩ + 0 = n % 33554432 := by simp only [SUn.enc] at e ⊢; omega
  simp only [SUn.enc] at e
  have eg : n / 2097152 % 16 = g.enc := by omega
  have e0 : n / 65536 % 32 = xd.enc := by omega
  have e1 : n / 2048 % 32 = xa.enc := by omega
  have e2 : n % 2 = encBool xw := by omega
  unfold SUn.dec
  rw [eg, Guard.dec_enc]; try rw [Option.bind_eq_bind]
  rw [Option.bind_some]
  rw [e0, Dst.dec_enc]; try rw [Option.bind_eq_bind]
  rw [Option.bind_some]
  rw [e1, Src.dec_enc]; try rw [Option.bind_eq_bind]
  rw [Option.bind_some]
  rw [e2, decBool_enc]; try rw [Option.bind_eq_bind]
  rw [Option.bind_some]
  exact if_pos et
theorem SImm.enc_lt (x : SImm) : x.enc < 33554432 := by
  obtain ⟨g, xw, xd, xi⟩ := x
  have := Guard.enc_lt g; have := encBool_lt xw; have := xd.isLt; have := xi.isLt
  simp only [SImm.enc]; omega
theorem SImm.dec_enc (n h : Nat) (x : SImm) (e : n = h * 33554432 + x.enc) : SImm.dec 0 n = some x := by
  obtain ⟨g, xw, xd, xi⟩ := x
  have := Guard.enc_lt g; have := encBool_lt xw; have := xd.isLt; have := xi.isLt
  have et : SImm.enc ⟨g, xw, xd, xi⟩ + 0 = n % 33554432 := by simp only [SImm.enc] at e ⊢; omega
  simp only [SImm.enc] at e
  have eg : n / 2097152 % 16 = g.enc := by omega
  have e0 : n / 1048576 % 2 = encBool xw := by omega
  have e1 : n / 65536 % 16 = xd.val := by omega
  have e2 : n % 65536 = xi.toNat := by omega
  unfold SImm.dec
  rw [eg, Guard.dec_enc]; try rw [Option.bind_eq_bind]
  rw [Option.bind_some]
  rw [e0, decBool_enc]; try rw [Option.bind_eq_bind]
  rw [Option.bind_some]
  rw [e1, decFin_val]; try rw [Option.bind_eq_bind]
  rw [Option.bind_some]
  rw [e2, bv_back]; try rw [Option.bind_eq_bind]
  rw [Option.bind_some]
  exact if_pos et
theorem SSel.enc_lt (x : SSel) : x.enc < 33554432 := by
  obtain ⟨g, xd, xa, xb, xq, xw⟩ := x
  have := Guard.enc_lt g; have := Dst.enc_lt xd; have := Src.enc_lt xa; have := Src.enc_lt xb; have := xq.isLt; have := encBool_lt xw
  simp only [SSel.enc]; omega
theorem SSel.dec_enc (n h : Nat) (x : SSel) (e : n = h * 33554432 + x.enc) : SSel.dec 0 n = some x := by
  obtain ⟨g, xd, xa, xb, xq, xw⟩ := x
  have := Guard.enc_lt g; have := Dst.enc_lt xd; have := Src.enc_lt xa; have := Src.enc_lt xb; have := xq.isLt; have := encBool_lt xw
  have et : SSel.enc ⟨g, xd, xa, xb, xq, xw⟩ + 0 = n % 33554432 := by simp only [SSel.enc] at e ⊢; omega
  simp only [SSel.enc] at e
  have eg : n / 2097152 % 16 = g.enc := by omega
  have e0 : n / 65536 % 32 = xd.enc := by omega
  have e1 : n / 2048 % 32 = xa.enc := by omega
  have e2 : n / 64 % 32 = xb.enc := by omega
  have e3 : n / 2 % 8 = xq.val := by omega
  have e4 : n % 2 = encBool xw := by omega
  unfold SSel.dec
  rw [eg, Guard.dec_enc]; try rw [Option.bind_eq_bind]
  rw [Option.bind_some]
  rw [e0, Dst.dec_enc]; try rw [Option.bind_eq_bind]
  rw [Option.bind_some]
  rw [e1, Src.dec_enc]; try rw [Option.bind_eq_bind]
  rw [Option.bind_some]
  rw [e2, Src.dec_enc]; try rw [Option.bind_eq_bind]
  rw [Option.bind_some]
  rw [e3, decFin_val]; try rw [Option.bind_eq_bind]
  rw [Option.bind_some]
  rw [e4, decBool_enc]; try rw [Option.bind_eq_bind]
  rw [Option.bind_some]
  exact if_pos et
theorem SCmp.enc_lt (x : SCmp) : x.enc < 33554432 := by
  obtain ⟨g, xd, xa, xb, xw⟩ := x
  have := Guard.enc_lt g; have := xd.isLt; have := Src.enc_lt xa; have := Src.enc_lt xb; have := encBool_lt xw
  simp only [SCmp.enc]; omega
theorem SCmp.dec_enc (n h : Nat) (x : SCmp) (e : n = h * 33554432 + x.enc) : SCmp.dec 0 n = some x := by
  obtain ⟨g, xd, xa, xb, xw⟩ := x
  have := Guard.enc_lt g; have := xd.isLt; have := Src.enc_lt xa; have := Src.enc_lt xb; have := encBool_lt xw
  have et : SCmp.enc ⟨g, xd, xa, xb, xw⟩ + 0 = n % 33554432 := by simp only [SCmp.enc] at e ⊢; omega
  simp only [SCmp.enc] at e
  have eg : n / 2097152 % 16 = g.enc := by omega
  have e0 : n / 65536 % 32 = xd.val := by omega
  have e1 : n / 2048 % 32 = xa.enc := by omega
  have e2 : n / 64 % 32 = xb.enc := by omega
  have e3 : n % 2 = encBool xw := by omega
  unfold SCmp.dec
  rw [eg, Guard.dec_enc]; try rw [Option.bind_eq_bind]
  rw [Option.bind_some]
  rw [e0, decFin_val]; try rw [Option.bind_eq_bind]
  rw [Option.bind_some]
  rw [e1, Src.dec_enc]; try rw [Option.bind_eq_bind]
  rw [Option.bind_some]
  rw [e2, Src.dec_enc]; try rw [Option.bind_eq_bind]
  rw [Option.bind_some]
  rw [e3, decBool_enc]; try rw [Option.bind_eq_bind]
  rw [Option.bind_some]
  exact if_pos et
theorem SCmpi.enc_lt (x : SCmpi) : x.enc < 33554432 := by
  obtain ⟨g, xw, xd, xa, xc, xi⟩ := x
  have := Guard.enc_lt g; have := encBool_lt xw; have := xd.isLt; have := xa.isLt; have := xc.isLt; have := xi.isLt
  simp only [SCmpi.enc]; omega
theorem SCmpi.dec_enc (n h : Nat) (x : SCmpi) (e : n = h * 33554432 + x.enc) : SCmpi.dec 0 n = some x := by
  obtain ⟨g, xw, xd, xa, xc, xi⟩ := x
  have := Guard.enc_lt g; have := encBool_lt xw; have := xd.isLt; have := xa.isLt; have := xc.isLt; have := xi.isLt
  have et : SCmpi.enc ⟨g, xw, xd, xa, xc, xi⟩ + 0 = n % 33554432 := by simp only [SCmpi.enc] at e ⊢; omega
  simp only [SCmpi.enc] at e
  have eg : n / 2097152 % 16 = g.enc := by omega
  have e0 : n / 1048576 % 2 = encBool xw := by omega
  have e1 : n / 131072 % 8 = xd.val := by omega
  have e2 : n / 8192 % 16 = xa.val := by omega
  have e3 : n / 1024 % 8 = xc.val := by omega
  have e4 : n % 1024 = xi.toNat := by omega
  unfold SCmpi.dec
  rw [eg, Guard.dec_enc]; try rw [Option.bind_eq_bind]
  rw [Option.bind_some]
  rw [e0, decBool_enc]; try rw [Option.bind_eq_bind]
  rw [Option.bind_some]
  rw [e1, decFin_val]; try rw [Option.bind_eq_bind]
  rw [Option.bind_some]
  rw [e2, decFin_val]; try rw [Option.bind_eq_bind]
  rw [Option.bind_some]
  rw [e3, decFin_val]; try rw [Option.bind_eq_bind]
  rw [Option.bind_some]
  rw [e4, bv_back]; try rw [Option.bind_eq_bind]
  rw [Option.bind_some]
  exact if_pos et
theorem SPred3.enc_lt (x : SPred3) : x.enc < 33554432 := by
  obtain ⟨g, xd, xa, xb⟩ := x
  have := Guard.enc_lt g; have := xd.isLt; have := xa.isLt; have := xb.isLt
  simp only [SPred3.enc]; omega
theorem SPred3.dec_enc (n h : Nat) (x : SPred3) (e : n = h * 33554432 + x.enc) : SPred3.dec 0 n = some x := by
  obtain ⟨g, xd, xa, xb⟩ := x
  have := Guard.enc_lt g; have := xd.isLt; have := xa.isLt; have := xb.isLt
  have et : SPred3.enc ⟨g, xd, xa, xb⟩ + 0 = n % 33554432 := by simp only [SPred3.enc] at e ⊢; omega
  simp only [SPred3.enc] at e
  have eg : n / 2097152 % 16 = g.enc := by omega
  have e0 : n / 65536 % 32 = xd.val := by omega
  have e1 : n / 2048 % 32 = xa.val := by omega
  have e2 : n / 64 % 32 = xb.val := by omega
  unfold SPred3.dec
  rw [eg, Guard.dec_enc]; try rw [Option.bind_eq_bind]
  rw [Option.bind_some]
  rw [e0, decFin_val]; try rw [Option.bind_eq_bind]
  rw [Option.bind_some]
  rw [e1, decFin_val]; try rw [Option.bind_eq_bind]
  rw [Option.bind_some]
  rw [e2, decFin_val]; try rw [Option.bind_eq_bind]
  rw [Option.bind_some]
  exact if_pos et
theorem SPred2.enc_lt (x : SPred2) : x.enc < 33554432 := by
  obtain ⟨g, xd, xa⟩ := x
  have := Guard.enc_lt g; have := xd.isLt; have := xa.isLt
  simp only [SPred2.enc]; omega
theorem SPred2.dec_enc (n h : Nat) (x : SPred2) (e : n = h * 33554432 + x.enc) : SPred2.dec 0 n = some x := by
  obtain ⟨g, xd, xa⟩ := x
  have := Guard.enc_lt g; have := xd.isLt; have := xa.isLt
  have et : SPred2.enc ⟨g, xd, xa⟩ + 0 = n % 33554432 := by simp only [SPred2.enc] at e ⊢; omega
  simp only [SPred2.enc] at e
  have eg : n / 2097152 % 16 = g.enc := by omega
  have e0 : n / 65536 % 32 = xd.val := by omega
  have e1 : n / 2048 % 32 = xa.val := by omega
  unfold SPred2.dec
  rw [eg, Guard.dec_enc]; try rw [Option.bind_eq_bind]
  rw [Option.bind_some]
  rw [e0, decFin_val]; try rw [Option.bind_eq_bind]
  rw [Option.bind_some]
  rw [e1, decFin_val]; try rw [Option.bind_eq_bind]
  rw [Option.bind_some]
  exact if_pos et
theorem SFlt3.enc_lt (x : SFlt3) : x.enc < 33554432 := by
  obtain ⟨g, xd, xa, xb, xr, xf⟩ := x
  have := Guard.enc_lt g; have := Dst.enc_lt xd; have := Src.enc_lt xa; have := Src.enc_lt xb; have := Rnd.enc_lt xr; have := encBool_lt xf
  simp only [SFlt3.enc]; omega
theorem SFlt3.dec_enc (n h : Nat) (x : SFlt3) (e : n = h * 33554432 + x.enc) : SFlt3.dec 0 n = some x := by
  obtain ⟨g, xd, xa, xb, xr, xf⟩ := x
  have := Guard.enc_lt g; have := Dst.enc_lt xd; have := Src.enc_lt xa; have := Src.enc_lt xb; have := Rnd.enc_lt xr; have := encBool_lt xf
  have et : SFlt3.enc ⟨g, xd, xa, xb, xr, xf⟩ + 0 = n % 33554432 := by simp only [SFlt3.enc] at e ⊢; omega
  simp only [SFlt3.enc] at e
  have eg : n / 2097152 % 16 = g.enc := by omega
  have e0 : n / 65536 % 32 = xd.enc := by omega
  have e1 : n / 2048 % 32 = xa.enc := by omega
  have e2 : n / 64 % 32 = xb.enc := by omega
  have e3 : n / 2 % 8 = xr.enc := by omega
  have e4 : n % 2 = encBool xf := by omega
  unfold SFlt3.dec
  rw [eg, Guard.dec_enc]; try rw [Option.bind_eq_bind]
  rw [Option.bind_some]
  rw [e0, Dst.dec_enc]; try rw [Option.bind_eq_bind]
  rw [Option.bind_some]
  rw [e1, Src.dec_enc]; try rw [Option.bind_eq_bind]
  rw [Option.bind_some]
  rw [e2, Src.dec_enc]; try rw [Option.bind_eq_bind]
  rw [Option.bind_some]
  rw [e3, Rnd.dec_enc]; try rw [Option.bind_eq_bind]
  rw [Option.bind_some]
  rw [e4, decBool_enc]; try rw [Option.bind_eq_bind]
  rw [Option.bind_some]
  exact if_pos et
theorem SFlt2.enc_lt (x : SFlt2) : x.enc < 33554432 := by
  obtain ⟨g, xd, xa, xr, xf⟩ := x
  have := Guard.enc_lt g; have := Dst.enc_lt xd; have := Src.enc_lt xa; have := Rnd.enc_lt xr; have := encBool_lt xf
  simp only [SFlt2.enc]; omega
theorem SFlt2.dec_enc (n h : Nat) (x : SFlt2) (e : n = h * 33554432 + x.enc) : SFlt2.dec 0 n = some x := by
  obtain ⟨g, xd, xa, xr, xf⟩ := x
  have := Guard.enc_lt g; have := Dst.enc_lt xd; have := Src.enc_lt xa; have := Rnd.enc_lt xr; have := encBool_lt xf
  have et : SFlt2.enc ⟨g, xd, xa, xr, xf⟩ + 0 = n % 33554432 := by simp only [SFlt2.enc] at e ⊢; omega
  simp only [SFlt2.enc] at e
  have eg : n / 2097152 % 16 = g.enc := by omega
  have e0 : n / 65536 % 32 = xd.enc := by omega
  have e1 : n / 2048 % 32 = xa.enc := by omega
  have e2 : n / 2 % 8 = xr.enc := by omega
  have e3 : n % 2 = encBool xf := by omega
  unfold SFlt2.dec
  rw [eg, Guard.dec_enc]; try rw [Option.bind_eq_bind]
  rw [Option.bind_some]
  rw [e0, Dst.dec_enc]; try rw [Option.bind_eq_bind]
  rw [Option.bind_some]
  rw [e1, Src.dec_enc]; try rw [Option.bind_eq_bind]
  rw [Option.bind_some]
  rw [e2, Rnd.dec_enc]; try rw [Option.bind_eq_bind]
  rw [Option.bind_some]
  rw [e3, decBool_enc]; try rw [Option.bind_eq_bind]
  rw [Option.bind_some]
  exact if_pos et
theorem SFcvt.enc_lt (x : SFcvt) : x.enc < 33554432 := by
  obtain ⟨g, xd, xa, xt, xs, xr⟩ := x
  have := Guard.enc_lt g; have := Dst.enc_lt xd; have := Src.enc_lt xa; have := xt.isLt; have := xs.isLt; have := Rnd.enc_lt xr
  simp only [SFcvt.enc]; omega
theorem SFcvt.dec_enc (n h : Nat) (x : SFcvt) (e : n = h * 33554432 + x.enc) : SFcvt.dec 0 n = some x := by
  obtain ⟨g, xd, xa, xt, xs, xr⟩ := x
  have := Guard.enc_lt g; have := Dst.enc_lt xd; have := Src.enc_lt xa; have := xt.isLt; have := xs.isLt; have := Rnd.enc_lt xr
  have et : SFcvt.enc ⟨g, xd, xa, xt, xs, xr⟩ + 0 = n % 33554432 := by simp only [SFcvt.enc] at e ⊢; omega
  simp only [SFcvt.enc] at e
  have eg : n / 2097152 % 16 = g.enc := by omega
  have e0 : n / 65536 % 32 = xd.enc := by omega
  have e1 : n / 2048 % 32 = xa.enc := by omega
  have e2 : n / 64 % 16 = xt.val := by omega
  have e3 : n / 4 % 16 = xs.val := by omega
  have e4 : n % 4 = xr.enc := by omega
  unfold SFcvt.dec
  rw [eg, Guard.dec_enc]; try rw [Option.bind_eq_bind]
  rw [Option.bind_some]
  rw [e0, Dst.dec_enc]; try rw [Option.bind_eq_bind]
  rw [Option.bind_some]
  rw [e1, Src.dec_enc]; try rw [Option.bind_eq_bind]
  rw [Option.bind_some]
  rw [e2, decFin_val]; try rw [Option.bind_eq_bind]
  rw [Option.bind_some]
  rw [e3, decFin_val]; try rw [Option.bind_eq_bind]
  rw [Option.bind_some]
  rw [e4, Rnd.dec_enc]; try rw [Option.bind_eq_bind]
  rw [Option.bind_some]
  exact if_pos et
theorem SFcmp.enc_lt (x : SFcmp) : x.enc < 33554432 := by
  obtain ⟨g, xd, xa, xb, xc, xf⟩ := x
  have := Guard.enc_lt g; have := xd.isLt; have := Src.enc_lt xa; have := Src.enc_lt xb; have := xc.isLt; have := encBool_lt xf
  simp only [SFcmp.enc]; omega
theorem SFcmp.dec_enc (n h : Nat) (x : SFcmp) (e : n = h * 33554432 + x.enc) : SFcmp.dec 0 n = some x := by
  obtain ⟨g, xd, xa, xb, xc, xf⟩ := x
  have := Guard.enc_lt g; have := xd.isLt; have := Src.enc_lt xa; have := Src.enc_lt xb; have := xc.isLt; have := encBool_lt xf
  have et : SFcmp.enc ⟨g, xd, xa, xb, xc, xf⟩ + 0 = n % 33554432 := by simp only [SFcmp.enc] at e ⊢; omega
  simp only [SFcmp.enc] at e
  have eg : n / 2097152 % 16 = g.enc := by omega
  have e0 : n / 65536 % 32 = xd.val := by omega
  have e1 : n / 2048 % 32 = xa.enc := by omega
  have e2 : n / 64 % 32 = xb.enc := by omega
  have e3 : n / 2 % 8 = xc.val := by omega
  have e4 : n % 2 = encBool xf := by omega
  unfold SFcmp.dec
  rw [eg, Guard.dec_enc]; try rw [Option.bind_eq_bind]
  rw [Option.bind_some]
  rw [e0, decFin_val]; try rw [Option.bind_eq_bind]
  rw [Option.bind_some]
  rw [e1, Src.dec_enc]; try rw [Option.bind_eq_bind]
  rw [Option.bind_some]
  rw [e2, Src.dec_enc]; try rw [Option.bind_eq_bind]
  rw [Option.bind_some]
  rw [e3, decFin_val]; try rw [Option.bind_eq_bind]
  rw [Option.bind_some]
  rw [e4, decBool_enc]; try rw [Option.bind_eq_bind]
  rw [Option.bind_some]
  exact if_pos et
theorem SFmin.enc_lt (x : SFmin) : x.enc < 33554432 := by
  obtain ⟨g, xd, xa, xb, xf⟩ := x
  have := Guard.enc_lt g; have := Dst.enc_lt xd; have := Src.enc_lt xa; have := Src.enc_lt xb; have := encBool_lt xf
  simp only [SFmin.enc]; omega
theorem SFmin.dec_enc (n h : Nat) (x : SFmin) (e : n = h * 33554432 + x.enc) : SFmin.dec 0 n = some x := by
  obtain ⟨g, xd, xa, xb, xf⟩ := x
  have := Guard.enc_lt g; have := Dst.enc_lt xd; have := Src.enc_lt xa; have := Src.enc_lt xb; have := encBool_lt xf
  have et : SFmin.enc ⟨g, xd, xa, xb, xf⟩ + 0 = n % 33554432 := by simp only [SFmin.enc] at e ⊢; omega
  simp only [SFmin.enc] at e
  have eg : n / 2097152 % 16 = g.enc := by omega
  have e0 : n / 65536 % 32 = xd.enc := by omega
  have e1 : n / 2048 % 32 = xa.enc := by omega
  have e2 : n / 64 % 32 = xb.enc := by omega
  have e3 : n % 2 = encBool xf := by omega
  unfold SFmin.dec
  rw [eg, Guard.dec_enc]; try rw [Option.bind_eq_bind]
  rw [Option.bind_some]
  rw [e0, Dst.dec_enc]; try rw [Option.bind_eq_bind]
  rw [Option.bind_some]
  rw [e1, Src.dec_enc]; try rw [Option.bind_eq_bind]
  rw [Option.bind_some]
  rw [e2, Src.dec_enc]; try rw [Option.bind_eq_bind]
  rw [Option.bind_some]
  rw [e3, decBool_enc]; try rw [Option.bind_eq_bind]
  rw [Option.bind_some]
  exact if_pos et
theorem SMem.enc_lt (x : SMem) : x.enc < 33554432 := by
  obtain ⟨g, xd, xa, xb, xz⟩ := x
  have := Guard.enc_lt g; have := Dst.enc_lt xd; have := Src.enc_lt xa; have := Src.enc_lt xb; have := xz.isLt
  simp only [SMem.enc]; omega
theorem SMem.dec_enc (n h : Nat) (x : SMem) (e : n = h * 33554432 + x.enc) : SMem.dec 0 n = some x := by
  obtain ⟨g, xd, xa, xb, xz⟩ := x
  have := Guard.enc_lt g; have := Dst.enc_lt xd; have := Src.enc_lt xa; have := Src.enc_lt xb; have := xz.isLt
  have et : SMem.enc ⟨g, xd, xa, xb, xz⟩ + 0 = n % 33554432 := by simp only [SMem.enc] at e ⊢; omega
  simp only [SMem.enc] at e
  have eg : n / 2097152 % 16 = g.enc := by omega
  have e0 : n / 65536 % 32 = xd.enc := by omega
  have e1 : n / 2048 % 32 = xa.enc := by omega
  have e2 : n / 64 % 32 = xb.enc := by omega
  have e3 : n % 4 = xz.val := by omega
  unfold SMem.dec
  rw [eg, Guard.dec_enc]; try rw [Option.bind_eq_bind]
  rw [Option.bind_some]
  rw [e0, Dst.dec_enc]; try rw [Option.bind_eq_bind]
  rw [Option.bind_some]
  rw [e1, Src.dec_enc]; try rw [Option.bind_eq_bind]
  rw [Option.bind_some]
  rw [e2, Src.dec_enc]; try rw [Option.bind_eq_bind]
  rw [Option.bind_some]
  rw [e3, decFin_val]; try rw [Option.bind_eq_bind]
  rw [Option.bind_some]
  exact if_pos et
theorem SInv.enc_lt (x : SInv) : x.enc < 33554432 := by
  obtain ⟨g, xa, xb⟩ := x
  have := Guard.enc_lt g; have := Src.enc_lt xa; have := Src.enc_lt xb
  simp only [SInv.enc]; omega
theorem SInv.dec_enc (n h : Nat) (x : SInv) (e : n = h * 33554432 + x.enc) : SInv.dec 0 n = some x := by
  obtain ⟨g, xa, xb⟩ := x
  have := Guard.enc_lt g; have := Src.enc_lt xa; have := Src.enc_lt xb
  have et : SInv.enc ⟨g, xa, xb⟩ + 0 = n % 33554432 := by simp only [SInv.enc] at e ⊢; omega
  simp only [SInv.enc] at e
  have eg : n / 2097152 % 16 = g.enc := by omega
  have e0 : n / 2048 % 32 = xa.enc := by omega
  have e1 : n / 64 % 32 = xb.enc := by omega
  unfold SInv.dec
  rw [eg, Guard.dec_enc]; try rw [Option.bind_eq_bind]
  rw [Option.bind_some]
  rw [e0, Src.dec_enc]; try rw [Option.bind_eq_bind]
  rw [Option.bind_some]
  rw [e1, Src.dec_enc]; try rw [Option.bind_eq_bind]
  rw [Option.bind_some]
  exact if_pos et
theorem SNone.enc_lt (x : SNone) : x.enc < 33554432 := by
  obtain ⟨g⟩ := x
  have := Guard.enc_lt g
  simp only [SNone.enc]; omega
theorem SNone.dec_enc (n h : Nat) (x : SNone) (e : n = h * 33554432 + x.enc) : SNone.dec 0 n = some x := by
  obtain ⟨g⟩ := x
  have := Guard.enc_lt g
  have et : SNone.enc ⟨g⟩ + 0 = n % 33554432 := by simp only [SNone.enc] at e ⊢; omega
  simp only [SNone.enc] at e
  have eg : n / 2097152 % 16 = g.enc := by omega
  unfold SNone.dec
  rw [eg, Guard.dec_enc]; try rw [Option.bind_eq_bind]
  rw [Option.bind_some]
  exact if_pos et
theorem SAmin.enc_lt (x : SAmin) : x.enc < 33554432 := by
  obtain ⟨g, xd, xa, xb, xu, xw⟩ := x
  have := Guard.enc_lt g; have := Dst.enc_lt xd; have := Src.enc_lt xa; have := Src.enc_lt xb; have := encBool_lt xu; have := encBool_lt xw
  simp only [SAmin.enc]; omega
theorem SAmin.dec_enc (n h : Nat) (x : SAmin) (e : n = h * 33554432 + x.enc) : SAmin.dec 0 n = some x := by
  obtain ⟨g, xd, xa, xb, xu, xw⟩ := x
  have := Guard.enc_lt g; have := Dst.enc_lt xd; have := Src.enc_lt xa; have := Src.enc_lt xb; have := encBool_lt xu; have := encBool_lt xw
  have et : SAmin.enc ⟨g, xd, xa, xb, xu, xw⟩ + 0 = n % 33554432 := by simp only [SAmin.enc] at e ⊢; omega
  simp only [SAmin.enc] at e
  have eg : n / 2097152 % 16 = g.enc := by omega
  have e0 : n / 65536 % 32 = xd.enc := by omega
  have e1 : n / 2048 % 32 = xa.enc := by omega
  have e2 : n / 64 % 32 = xb.enc := by omega
  have e3 : n / 2 % 2 = encBool xu := by omega
  have e4 : n % 2 = encBool xw := by omega
  unfold SAmin.dec
  rw [eg, Guard.dec_enc]; try rw [Option.bind_eq_bind]
  rw [Option.bind_some]
  rw [e0, Dst.dec_enc]; try rw [Option.bind_eq_bind]
  rw [Option.bind_some]
  rw [e1, Src.dec_enc]; try rw [Option.bind_eq_bind]
  rw [Option.bind_some]
  rw [e2, Src.dec_enc]; try rw [Option.bind_eq_bind]
  rw [Option.bind_some]
  rw [e3, decBool_enc]; try rw [Option.bind_eq_bind]
  rw [Option.bind_some]
  rw [e4, decBool_enc]; try rw [Option.bind_eq_bind]
  rw [Option.bind_some]
  exact if_pos et
theorem SGetm.enc_lt (x : SGetm) : x.enc < 33554432 := by
  obtain ⟨g, xd, xk, xj⟩ := x
  have := Guard.enc_lt g; have := Dst.enc_lt xd; have := xk.isLt; have := xj.isLt
  simp only [SGetm.enc]; omega
theorem SGetm.dec_enc (n h : Nat) (x : SGetm) (e : n = h * 33554432 + x.enc) : SGetm.dec 0 n = some x := by
  obtain ⟨g, xd, xk, xj⟩ := x
  have := Guard.enc_lt g; have := Dst.enc_lt xd; have := xk.isLt; have := xj.isLt
  have et : SGetm.enc ⟨g, xd, xk, xj⟩ + 0 = n % 33554432 := by simp only [SGetm.enc] at e ⊢; omega
  simp only [SGetm.enc] at e
  have eg : n / 2097152 % 16 = g.enc := by omega
  have e0 : n / 65536 % 32 = xd.enc := by omega
  have e1 : n / 64 % 32 = xk.val := by omega
  have e2 : n % 64 = xj.val := by omega
  unfold SGetm.dec
  rw [eg, Guard.dec_enc]; try rw [Option.bind_eq_bind]
  rw [Option.bind_some]
  rw [e0, Dst.dec_enc]; try rw [Option.bind_eq_bind]
  rw [Option.bind_some]
  rw [e1, decFin_val]; try rw [Option.bind_eq_bind]
  rw [Option.bind_some]
  rw [e2, decFin_val]; try rw [Option.bind_eq_bind]
  rw [Option.bind_some]
  exact if_pos et
theorem SPutm.enc_lt (x : SPutm) : x.enc < 33554432 := by
  obtain ⟨g, xk, xa, xj⟩ := x
  have := Guard.enc_lt g; have := xk.isLt; have := Src.enc_lt xa; have := xj.isLt
  simp only [SPutm.enc]; omega
theorem SPutm.dec_enc (n h : Nat) (x : SPutm) (e : n = h * 33554432 + x.enc) : SPutm.dec 0 n = some x := by
  obtain ⟨g, xk, xa, xj⟩ := x
  have := Guard.enc_lt g; have := xk.isLt; have := Src.enc_lt xa; have := xj.isLt
  have et : SPutm.enc ⟨g, xk, xa, xj⟩ + 0 = n % 33554432 := by simp only [SPutm.enc] at e ⊢; omega
  simp only [SPutm.enc] at e
  have eg : n / 2097152 % 16 = g.enc := by omega
  have e0 : n / 65536 % 32 = xk.val := by omega
  have e1 : n / 2048 % 32 = xa.enc := by omega
  have e2 : n % 64 = xj.val := by omega
  unfold SPutm.dec
  rw [eg, Guard.dec_enc]; try rw [Option.bind_eq_bind]
  rw [Option.bind_some]
  rw [e0, decFin_val]; try rw [Option.bind_eq_bind]
  rw [Option.bind_some]
  rw [e1, Src.dec_enc]; try rw [Option.bind_eq_bind]
  rw [Option.bind_some]
  rw [e2, decFin_val]; try rw [Option.bind_eq_bind]
  rw [Option.bind_some]
  exact if_pos et
theorem SXfer.enc_lt (x : SXfer) : x.enc < 33554432 := by
  obtain ⟨g, xd, xa, xl, xs⟩ := x
  have := Guard.enc_lt g; have := xd.isLt; have := Src.enc_lt xa; have := encBool_lt xl; have := xs.isLt
  simp only [SXfer.enc]; omega
theorem SXfer.dec_enc (n h : Nat) (x : SXfer) (e : n = h * 33554432 + x.enc) : SXfer.dec 0 n = some x := by
  obtain ⟨g, xd, xa, xl, xs⟩ := x
  have := Guard.enc_lt g; have := xd.isLt; have := Src.enc_lt xa; have := encBool_lt xl; have := xs.isLt
  have et : SXfer.enc ⟨g, xd, xa, xl, xs⟩ + 0 = n % 33554432 := by simp only [SXfer.enc] at e ⊢; omega
  simp only [SXfer.enc] at e
  have eg : n / 2097152 % 16 = g.enc := by omega
  have e0 : n / 65536 % 32 = xd.val := by omega
  have e1 : n / 2048 % 32 = xa.enc := by omega
  have e2 : n / 16 % 2 = encBool xl := by omega
  have e3 : n % 8 = xs.val := by omega
  unfold SXfer.dec
  rw [eg, Guard.dec_enc]; try rw [Option.bind_eq_bind]
  rw [Option.bind_some]
  rw [e0, decFin_val]; try rw [Option.bind_eq_bind]
  rw [Option.bind_some]
  rw [e1, Src.dec_enc]; try rw [Option.bind_eq_bind]
  rw [Option.bind_some]
  rw [e2, decBool_enc]; try rw [Option.bind_eq_bind]
  rw [Option.bind_some]
  rw [e3, decFin_val]; try rw [Option.bind_eq_bind]
  rw [Option.bind_some]
  exact if_pos et
theorem SMfs.enc_lt (x : SMfs) : x.enc < 33554432 := by
  obtain ⟨g, xd, xn⟩ := x
  have := Guard.enc_lt g; have := Dst.enc_lt xd; have := xn.isLt
  simp only [SMfs.enc]; omega
theorem SMfs.dec_enc (n h : Nat) (x : SMfs) (e : n = h * 33554432 + x.enc) : SMfs.dec 0 n = some x := by
  obtain ⟨g, xd, xn⟩ := x
  have := Guard.enc_lt g; have := Dst.enc_lt xd; have := xn.isLt
  have et : SMfs.enc ⟨g, xd, xn⟩ + 0 = n % 33554432 := by simp only [SMfs.enc] at e ⊢; omega
  simp only [SMfs.enc] at e
  have eg : n / 2097152 % 16 = g.enc := by omega
  have e0 : n / 65536 % 32 = xd.enc := by omega
  have e1 : n % 64 = xn.val := by omega
  unfold SMfs.dec
  rw [eg, Guard.dec_enc]; try rw [Option.bind_eq_bind]
  rw [Option.bind_some]
  rw [e0, Dst.dec_enc]; try rw [Option.bind_eq_bind]
  rw [Option.bind_some]
  rw [e1, decFin_val]; try rw [Option.bind_eq_bind]
  rw [Option.bind_some]
  exact if_pos et
theorem SMts.enc_lt (x : SMts) : x.enc < 33554432 := by
  obtain ⟨g, xa, xn⟩ := x
  have := Guard.enc_lt g; have := Src.enc_lt xa; have := xn.isLt
  simp only [SMts.enc]; omega
theorem SMts.dec_enc (n h : Nat) (x : SMts) (e : n = h * 33554432 + x.enc) : SMts.dec 0 n = some x := by
  obtain ⟨g, xa, xn⟩ := x
  have := Guard.enc_lt g; have := Src.enc_lt xa; have := xn.isLt
  have et : SMts.enc ⟨g, xa, xn⟩ + 0 = n % 33554432 := by simp only [SMts.enc] at e ⊢; omega
  simp only [SMts.enc] at e
  have eg : n / 2097152 % 16 = g.enc := by omega
  have e0 : n / 2048 % 32 = xa.enc := by omega
  have e1 : n % 64 = xn.val := by omega
  unfold SMts.dec
  rw [eg, Guard.dec_enc]; try rw [Option.bind_eq_bind]
  rw [Option.bind_some]
  rw [e0, Src.dec_enc]; try rw [Option.bind_eq_bind]
  rw [Option.bind_some]
  rw [e1, decFin_val]; try rw [Option.bind_eq_bind]
  rw [Option.bind_some]
  exact if_pos et
theorem PD.enc_lt (x : PD) : x.enc < 33554432 := by
  obtain ⟨g, xd⟩ := x
  have := Guard.enc_lt g; have := Dst.enc_lt xd
  simp only [PD.enc]; omega
theorem PD.dec_enc (n h : Nat) (x : PD) (e : n = h * 33554432 + x.enc) : PD.dec 0 n = some x := by
  obtain ⟨g, xd⟩ := x
  have := Guard.enc_lt g; have := Dst.enc_lt xd
  have et : PD.enc ⟨g, xd⟩ + 0 = n % 33554432 := by simp only [PD.enc] at e ⊢; omega
  simp only [PD.enc] at e
  have eg : n / 2097152 % 16 = g.enc := by omega
  have e0 : n / 65536 % 32 = xd.enc := by omega
  unfold PD.dec
  rw [eg, Guard.dec_enc]; try rw [Option.bind_eq_bind]
  rw [Option.bind_some]
  rw [e0, Dst.dec_enc]; try rw [Option.bind_eq_bind]
  rw [Option.bind_some]
  exact if_pos et
theorem PDA.enc_lt (x : PDA) : x.enc < 33554432 := by
  obtain ⟨g, xd, xa⟩ := x
  have := Guard.enc_lt g; have := Dst.enc_lt xd; have := Src.enc_lt xa
  simp only [PDA.enc]; omega
theorem PDA.dec_enc (n h : Nat) (x : PDA) (e : n = h * 33554432 + x.enc) : PDA.dec 0 n = some x := by
  obtain ⟨g, xd, xa⟩ := x
  have := Guard.enc_lt g; have := Dst.enc_lt xd; have := Src.enc_lt xa
  have et : PDA.enc ⟨g, xd, xa⟩ + 0 = n % 33554432 := by simp only [PDA.enc] at e ⊢; omega
  simp only [PDA.enc] at e
  have eg : n / 2097152 % 16 = g.enc := by omega
  have e0 : n / 65536 % 32 = xd.enc := by omega
  have e1 : n / 2048 % 32 = xa.enc := by omega
  unfold PDA.dec
  rw [eg, Guard.dec_enc]; try rw [Option.bind_eq_bind]
  rw [Option.bind_some]
  rw [e0, Dst.dec_enc]; try rw [Option.bind_eq_bind]
  rw [Option.bind_some]
  rw [e1, Src.dec_enc]; try rw [Option.bind_eq_bind]
  rw [Option.bind_some]
  exact if_pos et
theorem PDA.enc_lt_1 (x : PDA) : 1 + x.enc < 33554432 := by
  obtain ⟨g, xd, xa⟩ := x
  have := Guard.enc_lt g; have := Dst.enc_lt xd; have := Src.enc_lt xa
  simp only [PDA.enc]; omega
theorem PDA.dec_enc_1 (n h : Nat) (x : PDA) (e : n = h * 33554432 + 1 + x.enc) : PDA.dec 1 n = some x := by
  obtain ⟨g, xd, xa⟩ := x
  have := Guard.enc_lt g; have := Dst.enc_lt xd; have := Src.enc_lt xa
  have et : PDA.enc ⟨g, xd, xa⟩ + 1 = n % 33554432 := by simp only [PDA.enc] at e ⊢; omega
  simp only [PDA.enc] at e
  have eg : n / 2097152 % 16 = g.enc := by omega
  have e0 : n / 65536 % 32 = xd.enc := by omega
  have e1 : n / 2048 % 32 = xa.enc := by omega
  unfold PDA.dec
  rw [eg, Guard.dec_enc]; try rw [Option.bind_eq_bind]
  rw [Option.bind_some]
  rw [e0, Dst.dec_enc]; try rw [Option.bind_eq_bind]
  rw [Option.bind_some]
  rw [e1, Src.dec_enc]; try rw [Option.bind_eq_bind]
  rw [Option.bind_some]
  exact if_pos et
theorem PDA.enc_lt_2 (x : PDA) : 2 + x.enc < 33554432 := by
  obtain ⟨g, xd, xa⟩ := x
  have := Guard.enc_lt g; have := Dst.enc_lt xd; have := Src.enc_lt xa
  simp only [PDA.enc]; omega
theorem PDA.dec_enc_2 (n h : Nat) (x : PDA) (e : n = h * 33554432 + 2 + x.enc) : PDA.dec 2 n = some x := by
  obtain ⟨g, xd, xa⟩ := x
  have := Guard.enc_lt g; have := Dst.enc_lt xd; have := Src.enc_lt xa
  have et : PDA.enc ⟨g, xd, xa⟩ + 2 = n % 33554432 := by simp only [PDA.enc] at e ⊢; omega
  simp only [PDA.enc] at e
  have eg : n / 2097152 % 16 = g.enc := by omega
  have e0 : n / 65536 % 32 = xd.enc := by omega
  have e1 : n / 2048 % 32 = xa.enc := by omega
  unfold PDA.dec
  rw [eg, Guard.dec_enc]; try rw [Option.bind_eq_bind]
  rw [Option.bind_some]
  rw [e0, Dst.dec_enc]; try rw [Option.bind_eq_bind]
  rw [Option.bind_some]
  rw [e1, Src.dec_enc]; try rw [Option.bind_eq_bind]
  rw [Option.bind_some]
  exact if_pos et
theorem PDAB.enc_lt (x : PDAB) : x.enc < 33554432 := by
  obtain ⟨g, xd, xa, xb⟩ := x
  have := Guard.enc_lt g; have := Dst.enc_lt xd; have := Src.enc_lt xa; have := Src.enc_lt xb
  simp only [PDAB.enc]; omega
theorem PDAB.dec_enc (n h : Nat) (x : PDAB) (e : n = h * 33554432 + x.enc) : PDAB.dec 0 n = some x := by
  obtain ⟨g, xd, xa, xb⟩ := x
  have := Guard.enc_lt g; have := Dst.enc_lt xd; have := Src.enc_lt xa; have := Src.enc_lt xb
  have et : PDAB.enc ⟨g, xd, xa, xb⟩ + 0 = n % 33554432 := by simp only [PDAB.enc] at e ⊢; omega
  simp only [PDAB.enc] at e
  have eg : n / 2097152 % 16 = g.enc := by omega
  have e0 : n / 65536 % 32 = xd.enc := by omega
  have e1 : n / 2048 % 32 = xa.enc := by omega
  have e2 : n / 64 % 32 = xb.enc := by omega
  unfold PDAB.dec
  rw [eg, Guard.dec_enc]; try rw [Option.bind_eq_bind]
  rw [Option.bind_some]
  rw [e0, Dst.dec_enc]; try rw [Option.bind_eq_bind]
  rw [Option.bind_some]
  rw [e1, Src.dec_enc]; try rw [Option.bind_eq_bind]
  rw [Option.bind_some]
  rw [e2, Src.dec_enc]; try rw [Option.bind_eq_bind]
  rw [Option.bind_some]
  exact if_pos et
theorem PDAB.enc_lt_1 (x : PDAB) : 1 + x.enc < 33554432 := by
  obtain ⟨g, xd, xa, xb⟩ := x
  have := Guard.enc_lt g; have := Dst.enc_lt xd; have := Src.enc_lt xa; have := Src.enc_lt xb
  simp only [PDAB.enc]; omega
theorem PDAB.dec_enc_1 (n h : Nat) (x : PDAB) (e : n = h * 33554432 + 1 + x.enc) : PDAB.dec 1 n = some x := by
  obtain ⟨g, xd, xa, xb⟩ := x
  have := Guard.enc_lt g; have := Dst.enc_lt xd; have := Src.enc_lt xa; have := Src.enc_lt xb
  have et : PDAB.enc ⟨g, xd, xa, xb⟩ + 1 = n % 33554432 := by simp only [PDAB.enc] at e ⊢; omega
  simp only [PDAB.enc] at e
  have eg : n / 2097152 % 16 = g.enc := by omega
  have e0 : n / 65536 % 32 = xd.enc := by omega
  have e1 : n / 2048 % 32 = xa.enc := by omega
  have e2 : n / 64 % 32 = xb.enc := by omega
  unfold PDAB.dec
  rw [eg, Guard.dec_enc]; try rw [Option.bind_eq_bind]
  rw [Option.bind_some]
  rw [e0, Dst.dec_enc]; try rw [Option.bind_eq_bind]
  rw [Option.bind_some]
  rw [e1, Src.dec_enc]; try rw [Option.bind_eq_bind]
  rw [Option.bind_some]
  rw [e2, Src.dec_enc]; try rw [Option.bind_eq_bind]
  rw [Option.bind_some]
  exact if_pos et
theorem PDAB.enc_lt_2 (x : PDAB) : 2 + x.enc < 33554432 := by
  obtain ⟨g, xd, xa, xb⟩ := x
  have := Guard.enc_lt g; have := Dst.enc_lt xd; have := Src.enc_lt xa; have := Src.enc_lt xb
  simp only [PDAB.enc]; omega
theorem PDAB.dec_enc_2 (n h : Nat) (x : PDAB) (e : n = h * 33554432 + 2 + x.enc) : PDAB.dec 2 n = some x := by
  obtain ⟨g, xd, xa, xb⟩ := x
  have := Guard.enc_lt g; have := Dst.enc_lt xd; have := Src.enc_lt xa; have := Src.enc_lt xb
  have et : PDAB.enc ⟨g, xd, xa, xb⟩ + 2 = n % 33554432 := by simp only [PDAB.enc] at e ⊢; omega
  simp only [PDAB.enc] at e
  have eg : n / 2097152 % 16 = g.enc := by omega
  have e0 : n / 65536 % 32 = xd.enc := by omega
  have e1 : n / 2048 % 32 = xa.enc := by omega
  have e2 : n / 64 % 32 = xb.enc := by omega
  unfold PDAB.dec
  rw [eg, Guard.dec_enc]; try rw [Option.bind_eq_bind]
  rw [Option.bind_some]
  rw [e0, Dst.dec_enc]; try rw [Option.bind_eq_bind]
  rw [Option.bind_some]
  rw [e1, Src.dec_enc]; try rw [Option.bind_eq_bind]
  rw [Option.bind_some]
  rw [e2, Src.dec_enc]; try rw [Option.bind_eq_bind]
  rw [Option.bind_some]
  exact if_pos et
theorem PDAn.enc_lt (x : PDAn) : x.enc < 33554432 := by
  obtain ⟨g, xd, xa, xn⟩ := x
  have := Guard.enc_lt g; have := Dst.enc_lt xd; have := Src.enc_lt xa; have := xn.isLt
  simp only [PDAn.enc]; omega
theorem PDAn.dec_enc (n h : Nat) (x : PDAn) (e : n = h * 33554432 + x.enc) : PDAn.dec 0 n = some x := by
  obtain ⟨g, xd, xa, xn⟩ := x
  have := Guard.enc_lt g; have := Dst.enc_lt xd; have := Src.enc_lt xa; have := xn.isLt
  have et : PDAn.enc ⟨g, xd, xa, xn⟩ + 0 = n % 33554432 := by simp only [PDAn.enc] at e ⊢; omega
  simp only [PDAn.enc] at e
  have eg : n / 2097152 % 16 = g.enc := by omega
  have e0 : n / 65536 % 32 = xd.enc := by omega
  have e1 : n / 2048 % 32 = xa.enc := by omega
  have e2 : n % 16 = xn.val := by omega
  unfold PDAn.dec
  rw [eg, Guard.dec_enc]; try rw [Option.bind_eq_bind]
  rw [Option.bind_some]
  rw [e0, Dst.dec_enc]; try rw [Option.bind_eq_bind]
  rw [Option.bind_some]
  rw [e1, Src.dec_enc]; try rw [Option.bind_eq_bind]
  rw [Option.bind_some]
  rw [e2, decFin_val]; try rw [Option.bind_eq_bind]
  rw [Option.bind_some]
  exact if_pos et
theorem PDAn.enc_lt_16 (x : PDAn) : 16 + x.enc < 33554432 := by
  obtain ⟨g, xd, xa, xn⟩ := x
  have := Guard.enc_lt g; have := Dst.enc_lt xd; have := Src.enc_lt xa; have := xn.isLt
  simp only [PDAn.enc]; omega
theorem PDAn.dec_enc_16 (n h : Nat) (x : PDAn) (e : n = h * 33554432 + 16 + x.enc) : PDAn.dec 16 n = some x := by
  obtain ⟨g, xd, xa, xn⟩ := x
  have := Guard.enc_lt g; have := Dst.enc_lt xd; have := Src.enc_lt xa; have := xn.isLt
  have et : PDAn.enc ⟨g, xd, xa, xn⟩ + 16 = n % 33554432 := by simp only [PDAn.enc] at e ⊢; omega
  simp only [PDAn.enc] at e
  have eg : n / 2097152 % 16 = g.enc := by omega
  have e0 : n / 65536 % 32 = xd.enc := by omega
  have e1 : n / 2048 % 32 = xa.enc := by omega
  have e2 : n % 16 = xn.val := by omega
  unfold PDAn.dec
  rw [eg, Guard.dec_enc]; try rw [Option.bind_eq_bind]
  rw [Option.bind_some]
  rw [e0, Dst.dec_enc]; try rw [Option.bind_eq_bind]
  rw [Option.bind_some]
  rw [e1, Src.dec_enc]; try rw [Option.bind_eq_bind]
  rw [Option.bind_some]
  rw [e2, decFin_val]; try rw [Option.bind_eq_bind]
  rw [Option.bind_some]
  exact if_pos et
theorem PDAn.enc_lt_32 (x : PDAn) : 32 + x.enc < 33554432 := by
  obtain ⟨g, xd, xa, xn⟩ := x
  have := Guard.enc_lt g; have := Dst.enc_lt xd; have := Src.enc_lt xa; have := xn.isLt
  simp only [PDAn.enc]; omega
theorem PDAn.dec_enc_32 (n h : Nat) (x : PDAn) (e : n = h * 33554432 + 32 + x.enc) : PDAn.dec 32 n = some x := by
  obtain ⟨g, xd, xa, xn⟩ := x
  have := Guard.enc_lt g; have := Dst.enc_lt xd; have := Src.enc_lt xa; have := xn.isLt
  have et : PDAn.enc ⟨g, xd, xa, xn⟩ + 32 = n % 33554432 := by simp only [PDAn.enc] at e ⊢; omega
  simp only [PDAn.enc] at e
  have eg : n / 2097152 % 16 = g.enc := by omega
  have e0 : n / 65536 % 32 = xd.enc := by omega
  have e1 : n / 2048 % 32 = xa.enc := by omega
  have e2 : n % 16 = xn.val := by omega
  unfold PDAn.dec
  rw [eg, Guard.dec_enc]; try rw [Option.bind_eq_bind]
  rw [Option.bind_some]
  rw [e0, Dst.dec_enc]; try rw [Option.bind_eq_bind]
  rw [Option.bind_some]
  rw [e1, Src.dec_enc]; try rw [Option.bind_eq_bind]
  rw [Option.bind_some]
  rw [e2, decFin_val]; try rw [Option.bind_eq_bind]
  rw [Option.bind_some]
  exact if_pos et
theorem PDAn.enc_lt_48 (x : PDAn) : 48 + x.enc < 33554432 := by
  obtain ⟨g, xd, xa, xn⟩ := x
  have := Guard.enc_lt g; have := Dst.enc_lt xd; have := Src.enc_lt xa; have := xn.isLt
  simp only [PDAn.enc]; omega
theorem PDAn.dec_enc_48 (n h : Nat) (x : PDAn) (e : n = h * 33554432 + 48 + x.enc) : PDAn.dec 48 n = some x := by
  obtain ⟨g, xd, xa, xn⟩ := x
  have := Guard.enc_lt g; have := Dst.enc_lt xd; have := Src.enc_lt xa; have := xn.isLt
  have et : PDAn.enc ⟨g, xd, xa, xn⟩ + 48 = n % 33554432 := by simp only [PDAn.enc] at e ⊢; omega
  simp only [PDAn.enc] at e
  have eg : n / 2097152 % 16 = g.enc := by omega
  have e0 : n / 65536 % 32 = xd.enc := by omega
  have e1 : n / 2048 % 32 = xa.enc := by omega
  have e2 : n % 16 = xn.val := by omega
  unfold PDAn.dec
  rw [eg, Guard.dec_enc]; try rw [Option.bind_eq_bind]
  rw [Option.bind_some]
  rw [e0, Dst.dec_enc]; try rw [Option.bind_eq_bind]
  rw [Option.bind_some]
  rw [e1, Src.dec_enc]; try rw [Option.bind_eq_bind]
  rw [Option.bind_some]
  rw [e2, decFin_val]; try rw [Option.bind_eq_bind]
  rw [Option.bind_some]
  exact if_pos et
theorem PDABn.enc_lt (x : PDABn) : x.enc < 33554432 := by
  obtain ⟨g, xd, xa, xb, xn⟩ := x
  have := Guard.enc_lt g; have := Dst.enc_lt xd; have := Src.enc_lt xa; have := Src.enc_lt xb; have := xn.isLt
  simp only [PDABn.enc]; omega
theorem PDABn.dec_enc (n h : Nat) (x : PDABn) (e : n = h * 33554432 + x.enc) : PDABn.dec 0 n = some x := by
  obtain ⟨g, xd, xa, xb, xn⟩ := x
  have := Guard.enc_lt g; have := Dst.enc_lt xd; have := Src.enc_lt xa; have := Src.enc_lt xb; have := xn.isLt
  have et : PDABn.enc ⟨g, xd, xa, xb, xn⟩ + 0 = n % 33554432 := by simp only [PDABn.enc] at e ⊢; omega
  simp only [PDABn.enc] at e
  have eg : n / 2097152 % 16 = g.enc := by omega
  have e0 : n / 65536 % 32 = xd.enc := by omega
  have e1 : n / 2048 % 32 = xa.enc := by omega
  have e2 : n / 64 % 32 = xb.enc := by omega
  have e3 : n % 16 = xn.val := by omega
  unfold PDABn.dec
  rw [eg, Guard.dec_enc]; try rw [Option.bind_eq_bind]
  rw [Option.bind_some]
  rw [e0, Dst.dec_enc]; try rw [Option.bind_eq_bind]
  rw [Option.bind_some]
  rw [e1, Src.dec_enc]; try rw [Option.bind_eq_bind]
  rw [Option.bind_some]
  rw [e2, Src.dec_enc]; try rw [Option.bind_eq_bind]
  rw [Option.bind_some]
  rw [e3, decFin_val]; try rw [Option.bind_eq_bind]
  rw [Option.bind_some]
  exact if_pos et
theorem PDABn.enc_lt_16 (x : PDABn) : 16 + x.enc < 33554432 := by
  obtain ⟨g, xd, xa, xb, xn⟩ := x
  have := Guard.enc_lt g; have := Dst.enc_lt xd; have := Src.enc_lt xa; have := Src.enc_lt xb; have := xn.isLt
  simp only [PDABn.enc]; omega
theorem PDABn.dec_enc_16 (n h : Nat) (x : PDABn) (e : n = h * 33554432 + 16 + x.enc) : PDABn.dec 16 n = some x := by
  obtain ⟨g, xd, xa, xb, xn⟩ := x
  have := Guard.enc_lt g; have := Dst.enc_lt xd; have := Src.enc_lt xa; have := Src.enc_lt xb; have := xn.isLt
  have et : PDABn.enc ⟨g, xd, xa, xb, xn⟩ + 16 = n % 33554432 := by simp only [PDABn.enc] at e ⊢; omega
  simp only [PDABn.enc] at e
  have eg : n / 2097152 % 16 = g.enc := by omega
  have e0 : n / 65536 % 32 = xd.enc := by omega
  have e1 : n / 2048 % 32 = xa.enc := by omega
  have e2 : n / 64 % 32 = xb.enc := by omega
  have e3 : n % 16 = xn.val := by omega
  unfold PDABn.dec
  rw [eg, Guard.dec_enc]; try rw [Option.bind_eq_bind]
  rw [Option.bind_some]
  rw [e0, Dst.dec_enc]; try rw [Option.bind_eq_bind]
  rw [Option.bind_some]
  rw [e1, Src.dec_enc]; try rw [Option.bind_eq_bind]
  rw [Option.bind_some]
  rw [e2, Src.dec_enc]; try rw [Option.bind_eq_bind]
  rw [Option.bind_some]
  rw [e3, decFin_val]; try rw [Option.bind_eq_bind]
  rw [Option.bind_some]
  exact if_pos et
theorem PDABn.enc_lt_32 (x : PDABn) : 32 + x.enc < 33554432 := by
  obtain ⟨g, xd, xa, xb, xn⟩ := x
  have := Guard.enc_lt g; have := Dst.enc_lt xd; have := Src.enc_lt xa; have := Src.enc_lt xb; have := xn.isLt
  simp only [PDABn.enc]; omega
theorem PDABn.dec_enc_32 (n h : Nat) (x : PDABn) (e : n = h * 33554432 + 32 + x.enc) : PDABn.dec 32 n = some x := by
  obtain ⟨g, xd, xa, xb, xn⟩ := x
  have := Guard.enc_lt g; have := Dst.enc_lt xd; have := Src.enc_lt xa; have := Src.enc_lt xb; have := xn.isLt
  have et : PDABn.enc ⟨g, xd, xa, xb, xn⟩ + 32 = n % 33554432 := by simp only [PDABn.enc] at e ⊢; omega
  simp only [PDABn.enc] at e
  have eg : n / 2097152 % 16 = g.enc := by omega
  have e0 : n / 65536 % 32 = xd.enc := by omega
  have e1 : n / 2048 % 32 = xa.enc := by omega
  have e2 : n / 64 % 32 = xb.enc := by omega
  have e3 : n % 16 = xn.val := by omega
  unfold PDABn.dec
  rw [eg, Guard.dec_enc]; try rw [Option.bind_eq_bind]
  rw [Option.bind_some]
  rw [e0, Dst.dec_enc]; try rw [Option.bind_eq_bind]
  rw [Option.bind_some]
  rw [e1, Src.dec_enc]; try rw [Option.bind_eq_bind]
  rw [Option.bind_some]
  rw [e2, Src.dec_enc]; try rw [Option.bind_eq_bind]
  rw [Option.bind_some]
  rw [e3, decFin_val]; try rw [Option.bind_eq_bind]
  rw [Option.bind_some]
  exact if_pos et
theorem PDABn.enc_lt_48 (x : PDABn) : 48 + x.enc < 33554432 := by
  obtain ⟨g, xd, xa, xb, xn⟩ := x
  have := Guard.enc_lt g; have := Dst.enc_lt xd; have := Src.enc_lt xa; have := Src.enc_lt xb; have := xn.isLt
  simp only [PDABn.enc]; omega
theorem PDABn.dec_enc_48 (n h : Nat) (x : PDABn) (e : n = h * 33554432 + 48 + x.enc) : PDABn.dec 48 n = some x := by
  obtain ⟨g, xd, xa, xb, xn⟩ := x
  have := Guard.enc_lt g; have := Dst.enc_lt xd; have := Src.enc_lt xa; have := Src.enc_lt xb; have := xn.isLt
  have et : PDABn.enc ⟨g, xd, xa, xb, xn⟩ + 48 = n % 33554432 := by simp only [PDABn.enc] at e ⊢; omega
  simp only [PDABn.enc] at e
  have eg : n / 2097152 % 16 = g.enc := by omega
  have e0 : n / 65536 % 32 = xd.enc := by omega
  have e1 : n / 2048 % 32 = xa.enc := by omega
  have e2 : n / 64 % 32 = xb.enc := by omega
  have e3 : n % 16 = xn.val := by omega
  unfold PDABn.dec
  rw [eg, Guard.dec_enc]; try rw [Option.bind_eq_bind]
  rw [Option.bind_some]
  rw [e0, Dst.dec_enc]; try rw [Option.bind_eq_bind]
  rw [Option.bind_some]
  rw [e1, Src.dec_enc]; try rw [Option.bind_eq_bind]
  rw [Option.bind_some]
  rw [e2, Src.dec_enc]; try rw [Option.bind_eq_bind]
  rw [Option.bind_some]
  rw [e3, decFin_val]; try rw [Option.bind_eq_bind]
  rw [Option.bind_some]
  exact if_pos et
theorem VTyp3.enc_lt (x : VTyp3) : x.enc < 33554432 := by
  obtain ⟨g, xd, xa, xb, xt, xr⟩ := x
  have := Guard.enc_lt g; have := Dst.enc_lt xd; have := Src.enc_lt xa; have := Src.enc_lt xb; have := VType.enc_lt xt; have := Rnd.enc_lt xr
  simp only [VTyp3.enc]; omega
theorem VTyp3.dec_enc (n h : Nat) (x : VTyp3) (e : n = h * 33554432 + x.enc) : VTyp3.dec 0 n = some x := by
  obtain ⟨g, xd, xa, xb, xt, xr⟩ := x
  have := Guard.enc_lt g; have := Dst.enc_lt xd; have := Src.enc_lt xa; have := Src.enc_lt xb; have := VType.enc_lt xt; have := Rnd.enc_lt xr
  have et : VTyp3.enc ⟨g, xd, xa, xb, xt, xr⟩ + 0 = n % 33554432 := by simp only [VTyp3.enc] at e ⊢; omega
  simp only [VTyp3.enc] at e
  have eg : n / 2097152 % 16 = g.enc := by omega
  have e0 : n / 65536 % 32 = xd.enc := by omega
  have e1 : n / 2048 % 32 = xa.enc := by omega
  have e2 : n / 64 % 32 = xb.enc := by omega
  have e3 : n / 4 % 16 = xt.enc := by omega
  have e4 : n % 4 = xr.enc := by omega
  unfold VTyp3.dec
  rw [eg, Guard.dec_enc]; try rw [Option.bind_eq_bind]
  rw [Option.bind_some]
  rw [e0, Dst.dec_enc]; try rw [Option.bind_eq_bind]
  rw [Option.bind_some]
  rw [e1, Src.dec_enc]; try rw [Option.bind_eq_bind]
  rw [Option.bind_some]
  rw [e2, Src.dec_enc]; try rw [Option.bind_eq_bind]
  rw [Option.bind_some]
  rw [e3, VType.dec_enc]; try rw [Option.bind_eq_bind]
  rw [Option.bind_some]
  rw [e4, Rnd.dec_enc]; try rw [Option.bind_eq_bind]
  rw [Option.bind_some]
  exact if_pos et
theorem VTyp2.enc_lt (x : VTyp2) : x.enc < 33554432 := by
  obtain ⟨g, xd, xa, xt, xr⟩ := x
  have := Guard.enc_lt g; have := Dst.enc_lt xd; have := Src.enc_lt xa; have := VType.enc_lt xt; have := Rnd.enc_lt xr
  simp only [VTyp2.enc]; omega
theorem VTyp2.dec_enc (n h : Nat) (x : VTyp2) (e : n = h * 33554432 + x.enc) : VTyp2.dec 0 n = some x := by
  obtain ⟨g, xd, xa, xt, xr⟩ := x
  have := Guard.enc_lt g; have := Dst.enc_lt xd; have := Src.enc_lt xa; have := VType.enc_lt xt; have := Rnd.enc_lt xr
  have et : VTyp2.enc ⟨g, xd, xa, xt, xr⟩ + 0 = n % 33554432 := by simp only [VTyp2.enc] at e ⊢; omega
  simp only [VTyp2.enc] at e
  have eg : n / 2097152 % 16 = g.enc := by omega
  have e0 : n / 65536 % 32 = xd.enc := by omega
  have e1 : n / 2048 % 32 = xa.enc := by omega
  have e2 : n / 4 % 16 = xt.enc := by omega
  have e3 : n % 4 = xr.enc := by omega
  unfold VTyp2.dec
  rw [eg, Guard.dec_enc]; try rw [Option.bind_eq_bind]
  rw [Option.bind_some]
  rw [e0, Dst.dec_enc]; try rw [Option.bind_eq_bind]
  rw [Option.bind_some]
  rw [e1, Src.dec_enc]; try rw [Option.bind_eq_bind]
  rw [Option.bind_some]
  rw [e2, VType.dec_enc]; try rw [Option.bind_eq_bind]
  rw [Option.bind_some]
  rw [e3, Rnd.dec_enc]; try rw [Option.bind_eq_bind]
  rw [Option.bind_some]
  exact if_pos et
theorem VFun.enc_lt_40 (x : VFun) : 40 + x.enc < 33554432 := by
  obtain ⟨g, xd, xa, xr⟩ := x
  have := Guard.enc_lt g; have := Dst.enc_lt xd; have := Src.enc_lt xa; have := Rnd.enc_lt xr
  simp only [VFun.enc]; omega
theorem VFun.dec_enc_40 (n h : Nat) (x : VFun) (e : n = h * 33554432 + 40 + x.enc) : VFun.dec 40 n = some x := by
  obtain ⟨g, xd, xa, xr⟩ := x
  have := Guard.enc_lt g; have := Dst.enc_lt xd; have := Src.enc_lt xa; have := Rnd.enc_lt xr
  have et : VFun.enc ⟨g, xd, xa, xr⟩ + 40 = n % 33554432 := by simp only [VFun.enc] at e ⊢; omega
  simp only [VFun.enc] at e
  have eg : n / 2097152 % 16 = g.enc := by omega
  have e0 : n / 65536 % 32 = xd.enc := by omega
  have e1 : n / 2048 % 32 = xa.enc := by omega
  have e2 : n % 4 = xr.enc := by omega
  unfold VFun.dec
  rw [eg, Guard.dec_enc]; try rw [Option.bind_eq_bind]
  rw [Option.bind_some]
  rw [e0, Dst.dec_enc]; try rw [Option.bind_eq_bind]
  rw [Option.bind_some]
  rw [e1, Src.dec_enc]; try rw [Option.bind_eq_bind]
  rw [Option.bind_some]
  rw [e2, Rnd.dec_enc]; try rw [Option.bind_eq_bind]
  rw [Option.bind_some]
  exact if_pos et
theorem VCmp.enc_lt (x : VCmp) : x.enc < 33554432 := by
  obtain ⟨g, xd, xa, xb, xt⟩ := x
  have := Guard.enc_lt g; have := xd.isLt; have := Src.enc_lt xa; have := Src.enc_lt xb; have := VType.enc_lt xt
  simp only [VCmp.enc]; omega
theorem VCmp.dec_enc (n h : Nat) (x : VCmp) (e : n = h * 33554432 + x.enc) : VCmp.dec 0 n = some x := by
  obtain ⟨g, xd, xa, xb, xt⟩ := x
  have := Guard.enc_lt g; have := xd.isLt; have := Src.enc_lt xa; have := Src.enc_lt xb; have := VType.enc_lt xt
  have et : VCmp.enc ⟨g, xd, xa, xb, xt⟩ + 0 = n % 33554432 := by simp only [VCmp.enc] at e ⊢; omega
  simp only [VCmp.enc] at e
  have eg : n / 2097152 % 16 = g.enc := by omega
  have e0 : n / 65536 % 32 = xd.val := by omega
  have e1 : n / 2048 % 32 = xa.enc := by omega
  have e2 : n / 64 % 32 = xb.enc := by omega
  have e3 : n / 4 % 16 = xt.enc := by omega
  unfold VCmp.dec
  rw [eg, Guard.dec_enc]; try rw [Option.bind_eq_bind]
  rw [Option.bind_some]
  rw [e0, decFin_val]; try rw [Option.bind_eq_bind]
  rw [Option.bind_some]
  rw [e1, Src.dec_enc]; try rw [Option.bind_eq_bind]
  rw [Option.bind_some]
  rw [e2, Src.dec_enc]; try rw [Option.bind_eq_bind]
  rw [Option.bind_some]
  rw [e3, VType.dec_enc]; try rw [Option.bind_eq_bind]
  rw [Option.bind_some]
  exact if_pos et
theorem VSel.enc_lt (x : VSel) : x.enc < 33554432 := by
  obtain ⟨g, xd, xa, xb, xq⟩ := x
  have := Guard.enc_lt g; have := Dst.enc_lt xd; have := Src.enc_lt xa; have := Src.enc_lt xb; have := xq.isLt
  simp only [VSel.enc]; omega
theorem VSel.dec_enc (n h : Nat) (x : VSel) (e : n = h * 33554432 + x.enc) : VSel.dec 0 n = some x := by
  obtain ⟨g, xd, xa, xb, xq⟩ := x
  have := Guard.enc_lt g; have := Dst.enc_lt xd; have := Src.enc_lt xa; have := Src.enc_lt xb; have := xq.isLt
  have et : VSel.enc ⟨g, xd, xa, xb, xq⟩ + 0 = n % 33554432 := by simp only [VSel.enc] at e ⊢; omega
  simp only [VSel.enc] at e
  have eg : n / 2097152 % 16 = g.enc := by omega
  have e0 : n / 65536 % 32 = xd.enc := by omega
  have e1 : n / 2048 % 32 = xa.enc := by omega
  have e2 : n / 64 % 32 = xb.enc := by omega
  have e3 : n % 8 = xq.val := by omega
  unfold VSel.dec
  rw [eg, Guard.dec_enc]; try rw [Option.bind_eq_bind]
  rw [Option.bind_some]
  rw [e0, Dst.dec_enc]; try rw [Option.bind_eq_bind]
  rw [Option.bind_some]
  rw [e1, Src.dec_enc]; try rw [Option.bind_eq_bind]
  rw [Option.bind_some]
  rw [e2, Src.dec_enc]; try rw [Option.bind_eq_bind]
  rw [Option.bind_some]
  rw [e3, decFin_val]; try rw [Option.bind_eq_bind]
  rw [Option.bind_some]
  exact if_pos et
theorem VRR.enc_lt (x : VRR) : x.enc < 33554432 := by
  obtain ⟨g, xd, xa, xb⟩ := x
  have := Guard.enc_lt g; have := Dst.enc_lt xd; have := Src.enc_lt xa; have := Src.enc_lt xb
  simp only [VRR.enc]; omega
theorem VRR.dec_enc (n h : Nat) (x : VRR) (e : n = h * 33554432 + x.enc) : VRR.dec 0 n = some x := by
  obtain ⟨g, xd, xa, xb⟩ := x
  have := Guard.enc_lt g; have := Dst.enc_lt xd; have := Src.enc_lt xa; have := Src.enc_lt xb
  have et : VRR.enc ⟨g, xd, xa, xb⟩ + 0 = n % 33554432 := by simp only [VRR.enc] at e ⊢; omega
  simp only [VRR.enc] at e
  have eg : n / 2097152 % 16 = g.enc := by omega
  have e0 : n / 65536 % 32 = xd.enc := by omega
  have e1 : n / 2048 % 32 = xa.enc := by omega
  have e2 : n / 64 % 32 = xb.enc := by omega
  unfold VRR.dec
  rw [eg, Guard.dec_enc]; try rw [Option.bind_eq_bind]
  rw [Option.bind_some]
  rw [e0, Dst.dec_enc]; try rw [Option.bind_eq_bind]
  rw [Option.bind_some]
  rw [e1, Src.dec_enc]; try rw [Option.bind_eq_bind]
  rw [Option.bind_some]
  rw [e2, Src.dec_enc]; try rw [Option.bind_eq_bind]
  rw [Option.bind_some]
  exact if_pos et
theorem VR.enc_lt (x : VR) : x.enc < 33554432 := by
  obtain ⟨g, xd, xa⟩ := x
  have := Guard.enc_lt g; have := Dst.enc_lt xd; have := Src.enc_lt xa
  simp only [VR.enc]; omega
theorem VR.dec_enc (n h : Nat) (x : VR) (e : n = h * 33554432 + x.enc) : VR.dec 0 n = some x := by
  obtain ⟨g, xd, xa⟩ := x
  have := Guard.enc_lt g; have := Dst.enc_lt xd; have := Src.enc_lt xa
  have et : VR.enc ⟨g, xd, xa⟩ + 0 = n % 33554432 := by simp only [VR.enc] at e ⊢; omega
  simp only [VR.enc] at e
  have eg : n / 2097152 % 16 = g.enc := by omega
  have e0 : n / 65536 % 32 = xd.enc := by omega
  have e1 : n / 2048 % 32 = xa.enc := by omega
  unfold VR.dec
  rw [eg, Guard.dec_enc]; try rw [Option.bind_eq_bind]
  rw [Option.bind_some]
  rw [e0, Dst.dec_enc]; try rw [Option.bind_eq_bind]
  rw [Option.bind_some]
  rw [e1, Src.dec_enc]; try rw [Option.bind_eq_bind]
  rw [Option.bind_some]
  exact if_pos et
theorem VBfx.enc_lt (x : VBfx) : x.enc < 33554432 := by
  obtain ⟨g, xd, xa, xb, xs⟩ := x
  have := Guard.enc_lt g; have := Dst.enc_lt xd; have := Src.enc_lt xa; have := Src.enc_lt xb; have := encBool_lt xs
  simp only [VBfx.enc]; omega
theorem VBfx.dec_enc (n h : Nat) (x : VBfx) (e : n = h * 33554432 + x.enc) : VBfx.dec 0 n = some x := by
  obtain ⟨g, xd, xa, xb, xs⟩ := x
  have := Guard.enc_lt g; have := Dst.enc_lt xd; have := Src.enc_lt xa; have := Src.enc_lt xb; have := encBool_lt xs
  have et : VBfx.enc ⟨g, xd, xa, xb, xs⟩ + 0 = n % 33554432 := by simp only [VBfx.enc] at e ⊢; omega
  simp only [VBfx.enc] at e
  have eg : n / 2097152 % 16 = g.enc := by omega
  have e0 : n / 65536 % 32 = xd.enc := by omega
  have e1 : n / 2048 % 32 = xa.enc := by omega
  have e2 : n / 64 % 32 = xb.enc := by omega
  have e3 : n % 2 = encBool xs := by omega
  unfold VBfx.dec
  rw [eg, Guard.dec_enc]; try rw [Option.bind_eq_bind]
  rw [Option.bind_some]
  rw [e0, Dst.dec_enc]; try rw [Option.bind_eq_bind]
  rw [Option.bind_some]
  rw [e1, Src.dec_enc]; try rw [Option.bind_eq_bind]
  rw [Option.bind_some]
  rw [e2, Src.dec_enc]; try rw [Option.bind_eq_bind]
  rw [Option.bind_some]
  rw [e3, decBool_enc]; try rw [Option.bind_eq_bind]
  rw [Option.bind_some]
  exact if_pos et
theorem VCvt.enc_lt (x : VCvt) : x.enc < 33554432 := by
  obtain ⟨g, xd, xa, xe, xt, xs, xr⟩ := x
  have := Guard.enc_lt g; have := Dst.enc_lt xd; have := Src.enc_lt xa; have := encBool_lt xe; have := xt.isLt; have := xs.isLt; have := Rnd.enc_lt xr
  simp only [VCvt.enc]; omega
theorem VCvt.dec_enc (n h : Nat) (x : VCvt) (e : n = h * 33554432 + x.enc) : VCvt.dec 0 n = some x := by
  obtain ⟨g, xd, xa, xe, xt, xs, xr⟩ := x
  have := Guard.enc_lt g; have := Dst.enc_lt xd; have := Src.enc_lt xa; have := encBool_lt xe; have := xt.isLt; have := xs.isLt; have := Rnd.enc_lt xr
  have et : VCvt.enc ⟨g, xd, xa, xe, xt, xs, xr⟩ + 0 = n % 33554432 := by simp only [VCvt.enc] at e ⊢; omega
  simp only [VCvt.enc] at e
  have eg : n / 2097152 % 16 = g.enc := by omega
  have e0 : n / 65536 % 32 = xd.enc := by omega
  have e1 : n / 2048 % 32 = xa.enc := by omega
  have e2 : n / 1024 % 2 = encBool xe := by omega
  have e3 : n / 64 % 16 = xt.val := by omega
  have e4 : n / 4 % 16 = xs.val := by omega
  have e5 : n % 4 = xr.enc := by omega
  unfold VCvt.dec
  rw [eg, Guard.dec_enc]; try rw [Option.bind_eq_bind]
  rw [Option.bind_some]
  rw [e0, Dst.dec_enc]; try rw [Option.bind_eq_bind]
  rw [Option.bind_some]
  rw [e1, Src.dec_enc]; try rw [Option.bind_eq_bind]
  rw [Option.bind_some]
  rw [e2, decBool_enc]; try rw [Option.bind_eq_bind]
  rw [Option.bind_some]
  rw [e3, decFin_val]; try rw [Option.bind_eq_bind]
  rw [Option.bind_some]
  rw [e4, decFin_val]; try rw [Option.bind_eq_bind]
  rw [Option.bind_some]
  rw [e5, Rnd.dec_enc]; try rw [Option.bind_eq_bind]
  rw [Option.bind_some]
  exact if_pos et
theorem VPack.enc_lt (x : VPack) : x.enc < 33554432 := by
  obtain ⟨g, xd, xa, xe, xq, xc, xr⟩ := x
  have := Guard.enc_lt g; have := Dst.enc_lt xd; have := Src.enc_lt xa; have := encBool_lt xe; have := xq.isLt; have := xc.isLt; have := Rnd.enc_lt xr
  simp only [VPack.enc]; omega
theorem VPack.dec_enc (n h : Nat) (x : VPack) (e : n = h * 33554432 + x.enc) : VPack.dec 0 n = some x := by
  obtain ⟨g, xd, xa, xe, xq, xc, xr⟩ := x
  have := Guard.enc_lt g; have := Dst.enc_lt xd; have := Src.enc_lt xa; have := encBool_lt xe; have := xq.isLt; have := xc.isLt; have := Rnd.enc_lt xr
  have et : VPack.enc ⟨g, xd, xa, xe, xq, xc, xr⟩ + 0 = n % 33554432 := by simp only [VPack.enc] at e ⊢; omega
  simp only [VPack.enc] at e
  have eg : n / 2097152 % 16 = g.enc := by omega
  have e0 : n / 65536 % 32 = xd.enc := by omega
  have e1 : n / 2048 % 32 = xa.enc := by omega
  have e2 : n / 1024 % 2 = encBool xe := by omega
  have e3 : n / 64 % 16 = xq.val := by omega
  have e4 : n / 4 % 16 = xc.val := by omega
  have e5 : n % 4 = xr.enc := by omega
  unfold VPack.dec
  rw [eg, Guard.dec_enc]; try rw [Option.bind_eq_bind]
  rw [Option.bind_some]
  rw [e0, Dst.dec_enc]; try rw [Option.bind_eq_bind]
  rw [Option.bind_some]
  rw [e1, Src.dec_enc]; try rw [Option.bind_eq_bind]
  rw [Option.bind_some]
  rw [e2, decBool_enc]; try rw [Option.bind_eq_bind]
  rw [Option.bind_some]
  rw [e3, decFin_val]; try rw [Option.bind_eq_bind]
  rw [Option.bind_some]
  rw [e4, decFin_val]; try rw [Option.bind_eq_bind]
  rw [Option.bind_some]
  rw [e5, Rnd.dec_enc]; try rw [Option.bind_eq_bind]
  rw [Option.bind_some]
  exact if_pos et
theorem VUnpack.enc_lt (x : VUnpack) : x.enc < 33554432 := by
  obtain ⟨g, xd, xa, xq, xc⟩ := x
  have := Guard.enc_lt g; have := Dst.enc_lt xd; have := Src.enc_lt xa; have := xq.isLt; have := xc.isLt
  simp only [VUnpack.enc]; omega
theorem VUnpack.dec_enc (n h : Nat) (x : VUnpack) (e : n = h * 33554432 + x.enc) : VUnpack.dec 0 n = some x := by
  obtain ⟨g, xd, xa, xq, xc⟩ := x
  have := Guard.enc_lt g; have := Dst.enc_lt xd; have := Src.enc_lt xa; have := xq.isLt; have := xc.isLt
  have et : VUnpack.enc ⟨g, xd, xa, xq, xc⟩ + 0 = n % 33554432 := by simp only [VUnpack.enc] at e ⊢; omega
  simp only [VUnpack.enc] at e
  have eg : n / 2097152 % 16 = g.enc := by omega
  have e0 : n / 65536 % 32 = xd.enc := by omega
  have e1 : n / 2048 % 32 = xa.enc := by omega
  have e2 : n / 64 % 16 = xq.val := by omega
  have e3 : n / 4 % 16 = xc.val := by omega
  unfold VUnpack.dec
  rw [eg, Guard.dec_enc]; try rw [Option.bind_eq_bind]
  rw [Option.bind_some]
  rw [e0, Dst.dec_enc]; try rw [Option.bind_eq_bind]
  rw [Option.bind_some]
  rw [e1, Src.dec_enc]; try rw [Option.bind_eq_bind]
  rw [Option.bind_some]
  rw [e2, decFin_val]; try rw [Option.bind_eq_bind]
  rw [Option.bind_some]
  rw [e3, decFin_val]; try rw [Option.bind_eq_bind]
  rw [Option.bind_some]
  exact if_pos et
theorem VBcast.enc_lt (x : VBcast) : x.enc < 33554432 := by
  obtain ⟨g, xd, xa, xk⟩ := x
  have := Guard.enc_lt g; have := Dst.enc_lt xd; have := Src.enc_lt xa; have := xk.isLt
  simp only [VBcast.enc]; omega
theorem VBcast.dec_enc (n h : Nat) (x : VBcast) (e : n = h * 33554432 + x.enc) : VBcast.dec 0 n = some x := by
  obtain ⟨g, xd, xa, xk⟩ := x
  have := Guard.enc_lt g; have := Dst.enc_lt xd; have := Src.enc_lt xa; have := xk.isLt
  have et : VBcast.enc ⟨g, xd, xa, xk⟩ + 0 = n % 33554432 := by simp only [VBcast.enc] at e ⊢; omega
  simp only [VBcast.enc] at e
  have eg : n / 2097152 % 16 = g.enc := by omega
  have e0 : n / 65536 % 32 = xd.enc := by omega
  have e1 : n / 2048 % 32 = xa.enc := by omega
  have e2 : n % 64 = xk.val := by omega
  unfold VBcast.dec
  rw [eg, Guard.dec_enc]; try rw [Option.bind_eq_bind]
  rw [Option.bind_some]
  rw [e0, Dst.dec_enc]; try rw [Option.bind_eq_bind]
  rw [Option.bind_some]
  rw [e1, Src.dec_enc]; try rw [Option.bind_eq_bind]
  rw [Option.bind_some]
  rw [e2, decFin_val]; try rw [Option.bind_eq_bind]
  rw [Option.bind_some]
  exact if_pos et
theorem VSlide.enc_lt (x : VSlide) : x.enc < 33554432 := by
  obtain ⟨g, xd, xa, xb, xn⟩ := x
  have := Guard.enc_lt g; have := Dst.enc_lt xd; have := Src.enc_lt xa; have := Src.enc_lt xb; have := xn.isLt
  simp only [VSlide.enc]; omega
theorem VSlide.dec_enc (n h : Nat) (x : VSlide) (e : n = h * 33554432 + x.enc) : VSlide.dec 0 n = some x := by
  obtain ⟨g, xd, xa, xb, xn⟩ := x
  have := Guard.enc_lt g; have := Dst.enc_lt xd; have := Src.enc_lt xa; have := Src.enc_lt xb; have := xn.isLt
  have et : VSlide.enc ⟨g, xd, xa, xb, xn⟩ + 0 = n % 33554432 := by simp only [VSlide.enc] at e ⊢; omega
  simp only [VSlide.enc] at e
  have eg : n / 2097152 % 16 = g.enc := by omega
  have e0 : n / 65536 % 32 = xd.enc := by omega
  have e1 : n / 2048 % 32 = xa.enc := by omega
  have e2 : n / 64 % 32 = xb.enc := by omega
  have e3 : n % 64 = xn.val := by omega
  unfold VSlide.dec
  rw [eg, Guard.dec_enc]; try rw [Option.bind_eq_bind]
  rw [Option.bind_some]
  rw [e0, Dst.dec_enc]; try rw [Option.bind_eq_bind]
  rw [Option.bind_some]
  rw [e1, Src.dec_enc]; try rw [Option.bind_eq_bind]
  rw [Option.bind_some]
  rw [e2, Src.dec_enc]; try rw [Option.bind_eq_bind]
  rw [Option.bind_some]
  rw [e3, decFin_val]; try rw [Option.bind_eq_bind]
  rw [Option.bind_some]
  exact if_pos et
theorem VD.enc_lt_16 (x : VD) : 16 + x.enc < 33554432 := by
  obtain ⟨g, xd⟩ := x
  have := Guard.enc_lt g; have := Dst.enc_lt xd
  simp only [VD.enc]; omega
theorem VD.dec_enc_16 (n h : Nat) (x : VD) (e : n = h * 33554432 + 16 + x.enc) : VD.dec 16 n = some x := by
  obtain ⟨g, xd⟩ := x
  have := Guard.enc_lt g; have := Dst.enc_lt xd
  have et : VD.enc ⟨g, xd⟩ + 16 = n % 33554432 := by simp only [VD.enc] at e ⊢; omega
  simp only [VD.enc] at e
  have eg : n / 2097152 % 16 = g.enc := by omega
  have e0 : n / 65536 % 32 = xd.enc := by omega
  unfold VD.dec
  rw [eg, Guard.dec_enc]; try rw [Option.bind_eq_bind]
  rw [Option.bind_some]
  rw [e0, Dst.dec_enc]; try rw [Option.bind_eq_bind]
  rw [Option.bind_some]
  exact if_pos et
theorem VD.enc_lt_17 (x : VD) : 17 + x.enc < 33554432 := by
  obtain ⟨g, xd⟩ := x
  have := Guard.enc_lt g; have := Dst.enc_lt xd
  simp only [VD.enc]; omega
theorem VD.dec_enc_17 (n h : Nat) (x : VD) (e : n = h * 33554432 + 17 + x.enc) : VD.dec 17 n = some x := by
  obtain ⟨g, xd⟩ := x
  have := Guard.enc_lt g; have := Dst.enc_lt xd
  have et : VD.enc ⟨g, xd⟩ + 17 = n % 33554432 := by simp only [VD.enc] at e ⊢; omega
  simp only [VD.enc] at e
  have eg : n / 2097152 % 16 = g.enc := by omega
  have e0 : n / 65536 % 32 = xd.enc := by omega
  unfold VD.dec
  rw [eg, Guard.dec_enc]; try rw [Option.bind_eq_bind]
  rw [Option.bind_some]
  rw [e0, Dst.dec_enc]; try rw [Option.bind_eq_bind]
  rw [Option.bind_some]
  exact if_pos et
theorem VTbl.enc_lt (x : VTbl) : x.enc < 33554432 := by
  obtain ⟨g, xd, xa, xb, xk⟩ := x
  have := Guard.enc_lt g; have := Dst.enc_lt xd; have := Src.enc_lt xa; have := Src.enc_lt xb; have := xk.isLt
  simp only [VTbl.enc]; omega
theorem VTbl.dec_enc (n h : Nat) (x : VTbl) (e : n = h * 33554432 + x.enc) : VTbl.dec 0 n = some x := by
  obtain ⟨g, xd, xa, xb, xk⟩ := x
  have := Guard.enc_lt g; have := Dst.enc_lt xd; have := Src.enc_lt xa; have := Src.enc_lt xb; have := xk.isLt
  have et : VTbl.enc ⟨g, xd, xa, xb, xk⟩ + 0 = n % 33554432 := by simp only [VTbl.enc] at e ⊢; omega
  simp only [VTbl.enc] at e
  have eg : n / 2097152 % 16 = g.enc := by omega
  have e0 : n / 65536 % 32 = xd.enc := by omega
  have e1 : n / 2048 % 32 = xa.enc := by omega
  have e2 : n / 64 % 32 = xb.enc := by omega
  have e3 : n % 32 = xk.val := by omega
  unfold VTbl.dec
  rw [eg, Guard.dec_enc]; try rw [Option.bind_eq_bind]
  rw [Option.bind_some]
  rw [e0, Dst.dec_enc]; try rw [Option.bind_eq_bind]
  rw [Option.bind_some]
  rw [e1, Src.dec_enc]; try rw [Option.bind_eq_bind]
  rw [Option.bind_some]
  rw [e2, Src.dec_enc]; try rw [Option.bind_eq_bind]
  rw [Option.bind_some]
  rw [e3, decFin_val]; try rw [Option.bind_eq_bind]
  rw [Option.bind_some]
  exact if_pos et
theorem VAtom.enc_lt (x : VAtom) : x.enc < 33554432 := by
  obtain ⟨g, xd, xa, xb, xt⟩ := x
  have := Guard.enc_lt g; have := Dst.enc_lt xd; have := Src.enc_lt xa; have := Src.enc_lt xb; have := VType.enc_lt xt
  simp only [VAtom.enc]; omega
theorem VAtom.dec_enc (n h : Nat) (x : VAtom) (e : n = h * 33554432 + x.enc) : VAtom.dec 0 n = some x := by
  obtain ⟨g, xd, xa, xb, xt⟩ := x
  have := Guard.enc_lt g; have := Dst.enc_lt xd; have := Src.enc_lt xa; have := Src.enc_lt xb; have := VType.enc_lt xt
  have et : VAtom.enc ⟨g, xd, xa, xb, xt⟩ + 0 = n % 33554432 := by simp only [VAtom.enc] at e ⊢; omega
  simp only [VAtom.enc] at e
  have eg : n / 2097152 % 16 = g.enc := by omega
  have e0 : n / 65536 % 32 = xd.enc := by omega
  have e1 : n / 2048 % 32 = xa.enc := by omega
  have e2 : n / 64 % 32 = xb.enc := by omega
  have e3 : n / 4 % 16 = xt.enc := by omega
  unfold VAtom.dec
  rw [eg, Guard.dec_enc]; try rw [Option.bind_eq_bind]
  rw [Option.bind_some]
  rw [e0, Dst.dec_enc]; try rw [Option.bind_eq_bind]
  rw [Option.bind_some]
  rw [e1, Src.dec_enc]; try rw [Option.bind_eq_bind]
  rw [Option.bind_some]
  rw [e2, Src.dec_enc]; try rw [Option.bind_eq_bind]
  rw [Option.bind_some]
  rw [e3, VType.dec_enc]; try rw [Option.bind_eq_bind]
  rw [Option.bind_some]
  exact if_pos et
theorem VGetm.enc_lt (x : VGetm) : x.enc < 33554432 := by
  obtain ⟨g, xd, xj⟩ := x
  have := Guard.enc_lt g; have := Dst.enc_lt xd; have := xj.isLt
  simp only [VGetm.enc]; omega
theorem VGetm.dec_enc (n h : Nat) (x : VGetm) (e : n = h * 33554432 + x.enc) : VGetm.dec 0 n = some x := by
  obtain ⟨g, xd, xj⟩ := x
  have := Guard.enc_lt g; have := Dst.enc_lt xd; have := xj.isLt
  have et : VGetm.enc ⟨g, xd, xj⟩ + 0 = n % 33554432 := by simp only [VGetm.enc] at e ⊢; omega
  simp only [VGetm.enc] at e
  have eg : n / 2097152 % 16 = g.enc := by omega
  have e0 : n / 65536 % 32 = xd.enc := by omega
  have e1 : n % 64 = xj.val := by omega
  unfold VGetm.dec
  rw [eg, Guard.dec_enc]; try rw [Option.bind_eq_bind]
  rw [Option.bind_some]
  rw [e0, Dst.dec_enc]; try rw [Option.bind_eq_bind]
  rw [Option.bind_some]
  rw [e1, decFin_val]; try rw [Option.bind_eq_bind]
  rw [Option.bind_some]
  exact if_pos et
theorem VPutm.enc_lt (x : VPutm) : x.enc < 33554432 := by
  obtain ⟨g, xa, xj⟩ := x
  have := Guard.enc_lt g; have := Src.enc_lt xa; have := xj.isLt
  simp only [VPutm.enc]; omega
theorem VPutm.dec_enc (n h : Nat) (x : VPutm) (e : n = h * 33554432 + x.enc) : VPutm.dec 0 n = some x := by
  obtain ⟨g, xa, xj⟩ := x
  have := Guard.enc_lt g; have := Src.enc_lt xa; have := xj.isLt
  have et : VPutm.enc ⟨g, xa, xj⟩ + 0 = n % 33554432 := by simp only [VPutm.enc] at e ⊢; omega
  simp only [VPutm.enc] at e
  have eg : n / 2097152 % 16 = g.enc := by omega
  have e0 : n / 2048 % 32 = xa.enc := by omega
  have e1 : n % 64 = xj.val := by omega
  unfold VPutm.dec
  rw [eg, Guard.dec_enc]; try rw [Option.bind_eq_bind]
  rw [Option.bind_some]
  rw [e0, Src.dec_enc]; try rw [Option.bind_eq_bind]
  rw [Option.bind_some]
  rw [e1, decFin_val]; try rw [Option.bind_eq_bind]
  rw [Option.bind_some]
  exact if_pos et
theorem VXfer.enc_lt (x : VXfer) : x.enc < 33554432 := by
  obtain ⟨g, xd, xa, xs⟩ := x
  have := Guard.enc_lt g; have := xd.isLt; have := Src.enc_lt xa; have := xs.isLt
  simp only [VXfer.enc]; omega
theorem VXfer.dec_enc (n h : Nat) (x : VXfer) (e : n = h * 33554432 + x.enc) : VXfer.dec 0 n = some x := by
  obtain ⟨g, xd, xa, xs⟩ := x
  have := Guard.enc_lt g; have := xd.isLt; have := Src.enc_lt xa; have := xs.isLt
  have et : VXfer.enc ⟨g, xd, xa, xs⟩ + 0 = n % 33554432 := by simp only [VXfer.enc] at e ⊢; omega
  simp only [VXfer.enc] at e
  have eg : n / 2097152 % 16 = g.enc := by omega
  have e0 : n / 65536 % 32 = xd.val := by omega
  have e1 : n / 2048 % 32 = xa.enc := by omega
  have e2 : n % 8 = xs.val := by omega
  unfold VXfer.dec
  rw [eg, Guard.dec_enc]; try rw [Option.bind_eq_bind]
  rw [Option.bind_some]
  rw [e0, decFin_val]; try rw [Option.bind_eq_bind]
  rw [Option.bind_some]
  rw [e1, Src.dec_enc]; try rw [Option.bind_eq_bind]
  rw [Option.bind_some]
  rw [e2, decFin_val]; try rw [Option.bind_eq_bind]
  rw [Option.bind_some]
  exact if_pos et
theorem VToP.enc_lt (x : VToP) : x.enc < 33554432 := by
  obtain ⟨g, xd, xa⟩ := x
  have := Guard.enc_lt g; have := xd.isLt; have := Src.enc_lt xa
  simp only [VToP.enc]; omega
theorem VToP.dec_enc (n h : Nat) (x : VToP) (e : n = h * 33554432 + x.enc) : VToP.dec 0 n = some x := by
  obtain ⟨g, xd, xa⟩ := x
  have := Guard.enc_lt g; have := xd.isLt; have := Src.enc_lt xa
  have et : VToP.enc ⟨g, xd, xa⟩ + 0 = n % 33554432 := by simp only [VToP.enc] at e ⊢; omega
  simp only [VToP.enc] at e
  have eg : n / 2097152 % 16 = g.enc := by omega
  have e0 : n / 65536 % 32 = xd.val := by omega
  have e1 : n / 2048 % 32 = xa.enc := by omega
  unfold VToP.dec
  rw [eg, Guard.dec_enc]; try rw [Option.bind_eq_bind]
  rw [Option.bind_some]
  rw [e0, decFin_val]; try rw [Option.bind_eq_bind]
  rw [Option.bind_some]
  rw [e1, Src.dec_enc]; try rw [Option.bind_eq_bind]
  rw [Option.bind_some]
  exact if_pos et
theorem VFromP.enc_lt_1 (x : VFromP) : 1 + x.enc < 33554432 := by
  obtain ⟨g, xd, xa⟩ := x
  have := Guard.enc_lt g; have := Dst.enc_lt xd; have := xa.isLt
  simp only [VFromP.enc]; omega
theorem VFromP.dec_enc_1 (n h : Nat) (x : VFromP) (e : n = h * 33554432 + 1 + x.enc) : VFromP.dec 1 n = some x := by
  obtain ⟨g, xd, xa⟩ := x
  have := Guard.enc_lt g; have := Dst.enc_lt xd; have := xa.isLt
  have et : VFromP.enc ⟨g, xd, xa⟩ + 1 = n % 33554432 := by simp only [VFromP.enc] at e ⊢; omega
  simp only [VFromP.enc] at e
  have eg : n / 2097152 % 16 = g.enc := by omega
  have e0 : n / 65536 % 32 = xd.enc := by omega
  have e1 : n / 2048 % 32 = xa.val := by omega
  unfold VFromP.dec
  rw [eg, Guard.dec_enc]; try rw [Option.bind_eq_bind]
  rw [Option.bind_some]
  rw [e0, Dst.dec_enc]; try rw [Option.bind_eq_bind]
  rw [Option.bind_some]
  rw [e1, decFin_val]; try rw [Option.bind_eq_bind]
  rw [Option.bind_some]
  exact if_pos et
theorem VEf.enc_lt (x : VEf) : x.enc < 33554432 := by
  obtain ⟨g, xn⟩ := x
  have := Guard.enc_lt g; have := xn.isLt
  simp only [VEf.enc]; omega
theorem VEf.dec_enc (n h : Nat) (x : VEf) (e : n = h * 33554432 + x.enc) : VEf.dec 0 n = some x := by
  obtain ⟨g, xn⟩ := x
  have := Guard.enc_lt g; have := xn.isLt
  have et : VEf.enc ⟨g, xn⟩ + 0 = n % 33554432 := by simp only [VEf.enc] at e ⊢; omega
  simp only [VEf.enc] at e
  have eg : n / 2097152 % 16 = g.enc := by omega
  have e0 : n % 4 = xn.val := by omega
  unfold VEf.dec
  rw [eg, Guard.dec_enc]; try rw [Option.bind_eq_bind]
  rw [Option.bind_some]
  rw [e0, decFin_val]; try rw [Option.bind_eq_bind]
  rw [Option.bind_some]
  exact if_pos et
theorem VEfg.enc_lt (x : VEfg) : x.enc < 33554432 := by
  obtain ⟨g, xd, xn⟩ := x
  have := Guard.enc_lt g; have := Dst.enc_lt xd; have := xn.isLt
  simp only [VEfg.enc]; omega
theorem VEfg.dec_enc (n h : Nat) (x : VEfg) (e : n = h * 33554432 + x.enc) : VEfg.dec 0 n = some x := by
  obtain ⟨g, xd, xn⟩ := x
  have := Guard.enc_lt g; have := Dst.enc_lt xd; have := xn.isLt
  have et : VEfg.enc ⟨g, xd, xn⟩ + 0 = n % 33554432 := by simp only [VEfg.enc] at e ⊢; omega
  simp only [VEfg.enc] at e
  have eg : n / 2097152 % 16 = g.enc := by omega
  have e0 : n / 65536 % 32 = xd.enc := by omega
  have e1 : n % 4 = xn.val := by omega
  unfold VEfg.dec
  rw [eg, Guard.dec_enc]; try rw [Option.bind_eq_bind]
  rw [Option.bind_some]
  rw [e0, Dst.dec_enc]; try rw [Option.bind_eq_bind]
  rw [Option.bind_some]
  rw [e1, decFin_val]; try rw [Option.bind_eq_bind]
  rw [Option.bind_some]
  exact if_pos et
theorem VEfp.enc_lt (x : VEfp) : x.enc < 33554432 := by
  obtain ⟨g, xa, xn⟩ := x
  have := Guard.enc_lt g; have := Src.enc_lt xa; have := xn.isLt
  simp only [VEfp.enc]; omega
theorem VEfp.dec_enc (n h : Nat) (x : VEfp) (e : n = h * 33554432 + x.enc) : VEfp.dec 0 n = some x := by
  obtain ⟨g, xa, xn⟩ := x
  have := Guard.enc_lt g; have := Src.enc_lt xa; have := xn.isLt
  have et : VEfp.enc ⟨g, xa, xn⟩ + 0 = n % 33554432 := by simp only [VEfp.enc] at e ⊢; omega
  simp only [VEfp.enc] at e
  have eg : n / 2097152 % 16 = g.enc := by omega
  have e0 : n / 2048 % 32 = xa.enc := by omega
  have e1 : n % 4 = xn.val := by omega
  unfold VEfp.dec
  rw [eg, Guard.dec_enc]; try rw [Option.bind_eq_bind]
  rw [Option.bind_some]
  rw [e0, Src.dec_enc]; try rw [Option.bind_eq_bind]
  rw [Option.bind_some]
  rw [e1, decFin_val]; try rw [Option.bind_eq_bind]
  rw [Option.bind_some]
  exact if_pos et
theorem VFmt.enc_lt (x : VFmt) : x.enc < 33554432 := by
  obtain ⟨g, xa, xn⟩ := x
  have := Guard.enc_lt g; have := Src.enc_lt xa; have := xn.isLt
  simp only [VFmt.enc]; omega
theorem VFmt.dec_enc (n h : Nat) (x : VFmt) (e : n = h * 33554432 + x.enc) : VFmt.dec 0 n = some x := by
  obtain ⟨g, xa, xn⟩ := x
  have := Guard.enc_lt g; have := Src.enc_lt xa; have := xn.isLt
  have et : VFmt.enc ⟨g, xa, xn⟩ + 0 = n % 33554432 := by simp only [VFmt.enc] at e ⊢; omega
  simp only [VFmt.enc] at e
  have eg : n / 2097152 % 16 = g.enc := by omega
  have e0 : n / 2048 % 32 = xa.enc := by omega
  have e1 : n % 8 = xn.val := by omega
  unfold VFmt.dec
  rw [eg, Guard.dec_enc]; try rw [Option.bind_eq_bind]
  rw [Option.bind_some]
  rw [e0, Src.dec_enc]; try rw [Option.bind_eq_bind]
  rw [Option.bind_some]
  rw [e1, decFin_val]; try rw [Option.bind_eq_bind]
  rw [Option.bind_some]
  exact if_pos et
theorem XD.enc_lt (x : XD) : x.enc < 33554432 := by
  obtain ⟨g, xd⟩ := x
  have := Guard.enc_lt g; have := xd.isLt
  simp only [XD.enc]; omega
theorem XD.dec_enc (n h : Nat) (x : XD) (e : n = h * 33554432 + x.enc) : XD.dec 0 n = some x := by
  obtain ⟨g, xd⟩ := x
  have := Guard.enc_lt g; have := xd.isLt
  have et : XD.enc ⟨g, xd⟩ + 0 = n % 33554432 := by simp only [XD.enc] at e ⊢; omega
  simp only [XD.enc] at e
  have eg : n / 2097152 % 16 = g.enc := by omega
  have e0 : n / 65536 % 32 = xd.val := by omega
  unfold XD.dec
  rw [eg, Guard.dec_enc]; try rw [Option.bind_eq_bind]
  rw [Option.bind_some]
  rw [e0, decFin_val]; try rw [Option.bind_eq_bind]
  rw [Option.bind_some]
  exact if_pos et
theorem XSeto.enc_lt (x : XSeto) : x.enc < 33554432 := by
  obtain ⟨g, xa, xo⟩ := x
  have := Guard.enc_lt g; have := Src.enc_lt xa; have := xo.isLt
  simp only [XSeto.enc]; omega
theorem XSeto.dec_enc (n h : Nat) (x : XSeto) (e : n = h * 33554432 + x.enc) : XSeto.dec 0 n = some x := by
  obtain ⟨g, xa, xo⟩ := x
  have := Guard.enc_lt g; have := Src.enc_lt xa; have := xo.isLt
  have et : XSeto.enc ⟨g, xa, xo⟩ + 0 = n % 33554432 := by simp only [XSeto.enc] at e ⊢; omega
  simp only [XSeto.enc] at e
  have eg : n / 2097152 % 16 = g.enc := by omega
  have e0 : n / 2048 % 32 = xa.enc := by omega
  have e1 : n % 16 = xo.val := by omega
  unfold XSeto.dec
  rw [eg, Guard.dec_enc]; try rw [Option.bind_eq_bind]
  rw [Option.bind_some]
  rw [e0, Src.dec_enc]; try rw [Option.bind_eq_bind]
  rw [Option.bind_some]
  rw [e1, decFin_val]; try rw [Option.bind_eq_bind]
  rw [Option.bind_some]
  exact if_pos et
theorem XForm.enc_lt (x : XForm) : x.enc < 33554432 := by
  obtain ⟨g, xd, xa, xc⟩ := x
  have := Guard.enc_lt g; have := xd.isLt; have := Src.enc_lt xa; have := xc.isLt
  simp only [XForm.enc]; omega
theorem XForm.dec_enc (n h : Nat) (x : XForm) (e : n = h * 33554432 + x.enc) : XForm.dec 0 n = some x := by
  obtain ⟨g, xd, xa, xc⟩ := x
  have := Guard.enc_lt g; have := xd.isLt; have := Src.enc_lt xa; have := xc.isLt
  have et : XForm.enc ⟨g, xd, xa, xc⟩ + 0 = n % 33554432 := by simp only [XForm.enc] at e ⊢; omega
  simp only [XForm.enc] at e
  have eg : n / 2097152 % 16 = g.enc := by omega
  have e0 : n / 65536 % 32 = xd.val := by omega
  have e1 : n / 2048 % 32 = xa.enc := by omega
  have e2 : n % 32 = xc.val := by omega
  unfold XForm.dec
  rw [eg, Guard.dec_enc]; try rw [Option.bind_eq_bind]
  rw [Option.bind_some]
  rw [e0, decFin_val]; try rw [Option.bind_eq_bind]
  rw [Option.bind_some]
  rw [e1, Src.dec_enc]; try rw [Option.bind_eq_bind]
  rw [Option.bind_some]
  rw [e2, decFin_val]; try rw [Option.bind_eq_bind]
  rw [Option.bind_some]
  exact if_pos et
theorem XXB.enc_lt (x : XXB) : x.enc < 33554432 := by
  obtain ⟨g, xd, xa, xb⟩ := x
  have := Guard.enc_lt g; have := xd.isLt; have := xa.isLt; have := Src.enc_lt xb
  simp only [XXB.enc]; omega
theorem XXB.dec_enc (n h : Nat) (x : XXB) (e : n = h * 33554432 + x.enc) : XXB.dec 0 n = some x := by
  obtain ⟨g, xd, xa, xb⟩ := x
  have := Guard.enc_lt g; have := xd.isLt; have := xa.isLt; have := Src.enc_lt xb
  have et : XXB.enc ⟨g, xd, xa, xb⟩ + 0 = n % 33554432 := by simp only [XXB.enc] at e ⊢; omega
  simp only [XXB.enc] at e
  have eg : n / 2097152 % 16 = g.enc := by omega
  have e0 : n / 65536 % 32 = xd.val := by omega
  have e1 : n / 2048 % 32 = xa.val := by omega
  have e2 : n / 64 % 32 = xb.enc := by omega
  unfold XXB.dec
  rw [eg, Guard.dec_enc]; try rw [Option.bind_eq_bind]
  rw [Option.bind_some]
  rw [e0, decFin_val]; try rw [Option.bind_eq_bind]
  rw [Option.bind_some]
  rw [e1, decFin_val]; try rw [Option.bind_eq_bind]
  rw [Option.bind_some]
  rw [e2, Src.dec_enc]; try rw [Option.bind_eq_bind]
  rw [Option.bind_some]
  exact if_pos et
theorem XEval.enc_lt (x : XEval) : x.enc < 33554432 := by
  obtain ⟨g, xd, xa, xb, xc⟩ := x
  have := Guard.enc_lt g; have := Dst.enc_lt xd; have := xa.isLt; have := Src.enc_lt xb; have := xc.isLt
  simp only [XEval.enc]; omega
theorem XEval.dec_enc (n h : Nat) (x : XEval) (e : n = h * 33554432 + x.enc) : XEval.dec 0 n = some x := by
  obtain ⟨g, xd, xa, xb, xc⟩ := x
  have := Guard.enc_lt g; have := Dst.enc_lt xd; have := xa.isLt; have := Src.enc_lt xb; have := xc.isLt
  have et : XEval.enc ⟨g, xd, xa, xb, xc⟩ + 0 = n % 33554432 := by simp only [XEval.enc] at e ⊢; omega
  simp only [XEval.enc] at e
  have eg : n / 2097152 % 16 = g.enc := by omega
  have e0 : n / 65536 % 32 = xd.enc := by omega
  have e1 : n / 2048 % 32 = xa.val := by omega
  have e2 : n / 64 % 32 = xb.enc := by omega
  have e3 : n % 32 = xc.val := by omega
  unfold XEval.dec
  rw [eg, Guard.dec_enc]; try rw [Option.bind_eq_bind]
  rw [Option.bind_some]
  rw [e0, Dst.dec_enc]; try rw [Option.bind_eq_bind]
  rw [Option.bind_some]
  rw [e1, decFin_val]; try rw [Option.bind_eq_bind]
  rw [Option.bind_some]
  rw [e2, Src.dec_enc]; try rw [Option.bind_eq_bind]
  rw [Option.bind_some]
  rw [e3, decFin_val]; try rw [Option.bind_eq_bind]
  rw [Option.bind_some]
  exact if_pos et
theorem XAdm.enc_lt (x : XAdm) : x.enc < 33554432 := by
  obtain ⟨g, xd, xa, xb, xc⟩ := x
  have := Guard.enc_lt g; have := xd.isLt; have := Src.enc_lt xa; have := Src.enc_lt xb; have := xc.isLt
  simp only [XAdm.enc]; omega
theorem XAdm.dec_enc (n h : Nat) (x : XAdm) (e : n = h * 33554432 + x.enc) : XAdm.dec 0 n = some x := by
  obtain ⟨g, xd, xa, xb, xc⟩ := x
  have := Guard.enc_lt g; have := xd.isLt; have := Src.enc_lt xa; have := Src.enc_lt xb; have := xc.isLt
  have et : XAdm.enc ⟨g, xd, xa, xb, xc⟩ + 0 = n % 33554432 := by simp only [XAdm.enc] at e ⊢; omega
  simp only [XAdm.enc] at e
  have eg : n / 2097152 % 16 = g.enc := by omega
  have e0 : n / 65536 % 32 = xd.val := by omega
  have e1 : n / 2048 % 32 = xa.enc := by omega
  have e2 : n / 64 % 32 = xb.enc := by omega
  have e3 : n % 32 = xc.val := by omega
  unfold XAdm.dec
  rw [eg, Guard.dec_enc]; try rw [Option.bind_eq_bind]
  rw [Option.bind_some]
  rw [e0, decFin_val]; try rw [Option.bind_eq_bind]
  rw [Option.bind_some]
  rw [e1, Src.dec_enc]; try rw [Option.bind_eq_bind]
  rw [Option.bind_some]
  rw [e2, Src.dec_enc]; try rw [Option.bind_eq_bind]
  rw [Option.bind_some]
  rw [e3, decFin_val]; try rw [Option.bind_eq_bind]
  rw [Option.bind_some]
  exact if_pos et
theorem XXX.enc_lt (x : XXX) : x.enc < 33554432 := by
  obtain ⟨g, xd, xa, xb⟩ := x
  have := Guard.enc_lt g; have := xd.isLt; have := xa.isLt; have := xb.isLt
  simp only [XXX.enc]; omega
theorem XXX.dec_enc (n h : Nat) (x : XXX) (e : n = h * 33554432 + x.enc) : XXX.dec 0 n = some x := by
  obtain ⟨g, xd, xa, xb⟩ := x
  have := Guard.enc_lt g; have := xd.isLt; have := xa.isLt; have := xb.isLt
  have et : XXX.enc ⟨g, xd, xa, xb⟩ + 0 = n % 33554432 := by simp only [XXX.enc] at e ⊢; omega
  simp only [XXX.enc] at e
  have eg : n / 2097152 % 16 = g.enc := by omega
  have e0 : n / 65536 % 32 = xd.val := by omega
  have e1 : n / 2048 % 32 = xa.val := by omega
  have e2 : n / 64 % 32 = xb.val := by omega
  unfold XXX.dec
  rw [eg, Guard.dec_enc]; try rw [Option.bind_eq_bind]
  rw [Option.bind_some]
  rw [e0, decFin_val]; try rw [Option.bind_eq_bind]
  rw [Option.bind_some]
  rw [e1, decFin_val]; try rw [Option.bind_eq_bind]
  rw [Option.bind_some]
  rw [e2, decFin_val]; try rw [Option.bind_eq_bind]
  rw [Option.bind_some]
  exact if_pos et
theorem XMem.enc_lt (x : XMem) : x.enc < 33554432 := by
  obtain ⟨g, xd, xa, xb⟩ := x
  have := Guard.enc_lt g; have := xd.isLt; have := Src.enc_lt xa; have := Src.enc_lt xb
  simp only [XMem.enc]; omega
theorem XMem.dec_enc (n h : Nat) (x : XMem) (e : n = h * 33554432 + x.enc) : XMem.dec 0 n = some x := by
  obtain ⟨g, xd, xa, xb⟩ := x
  have := Guard.enc_lt g; have := xd.isLt; have := Src.enc_lt xa; have := Src.enc_lt xb
  have et : XMem.enc ⟨g, xd, xa, xb⟩ + 0 = n % 33554432 := by simp only [XMem.enc] at e ⊢; omega
  simp only [XMem.enc] at e
  have eg : n / 2097152 % 16 = g.enc := by omega
  have e0 : n / 65536 % 32 = xd.val := by omega
  have e1 : n / 2048 % 32 = xa.enc := by omega
  have e2 : n / 64 % 32 = xb.enc := by omega
  unfold XMem.dec
  rw [eg, Guard.dec_enc]; try rw [Option.bind_eq_bind]
  rw [Option.bind_some]
  rw [e0, decFin_val]; try rw [Option.bind_eq_bind]
  rw [Option.bind_some]
  rw [e1, Src.dec_enc]; try rw [Option.bind_eq_bind]
  rw [Option.bind_some]
  rw [e2, Src.dec_enc]; try rw [Option.bind_eq_bind]
  rw [Option.bind_some]
  exact if_pos et
theorem XGet.enc_lt (x : XGet) : x.enc < 33554432 := by
  obtain ⟨g, xd, xa, xk⟩ := x
  have := Guard.enc_lt g; have := Dst.enc_lt xd; have := xa.isLt; have := xk.isLt
  simp only [XGet.enc]; omega
theorem XGet.dec_enc (n h : Nat) (x : XGet) (e : n = h * 33554432 + x.enc) : XGet.dec 0 n = some x := by
  obtain ⟨g, xd, xa, xk⟩ := x
  have := Guard.enc_lt g; have := Dst.enc_lt xd; have := xa.isLt; have := xk.isLt
  have et : XGet.enc ⟨g, xd, xa, xk⟩ + 0 = n % 33554432 := by simp only [XGet.enc] at e ⊢; omega
  simp only [XGet.enc] at e
  have eg : n / 2097152 % 16 = g.enc := by omega
  have e0 : n / 65536 % 32 = xd.enc := by omega
  have e1 : n / 2048 % 32 = xa.val := by omega
  have e2 : n % 4 = xk.val := by omega
  unfold XGet.dec
  rw [eg, Guard.dec_enc]; try rw [Option.bind_eq_bind]
  rw [Option.bind_some]
  rw [e0, Dst.dec_enc]; try rw [Option.bind_eq_bind]
  rw [Option.bind_some]
  rw [e1, decFin_val]; try rw [Option.bind_eq_bind]
  rw [Option.bind_some]
  rw [e2, decFin_val]; try rw [Option.bind_eq_bind]
  rw [Option.bind_some]
  exact if_pos et
theorem MMdset.enc_lt (x : MMdset) : x.enc < 33554432 := by
  obtain ⟨g, xn, xs, xt⟩ := x
  have := Guard.enc_lt g; have := xn.isLt; have := LSrc.enc_lt xs; have := xt.isLt
  simp only [MMdset.enc]; omega
theorem MMdset.dec_enc (n h : Nat) (x : MMdset) (e : n = h * 33554432 + x.enc) : MMdset.dec 0 n = some x := by
  obtain ⟨g, xn, xs, xt⟩ := x
  have := Guard.enc_lt g; have := xn.isLt; have := LSrc.enc_lt xs; have := xt.isLt
  have et : MMdset.enc ⟨g, xn, xs, xt⟩ + 0 = n % 33554432 := by simp only [MMdset.enc] at e ⊢; omega
  simp only [MMdset.enc] at e
  have eg : n / 2097152 % 16 = g.enc := by omega
  have e0 : n / 65536 % 32 = xn.val := by omega
  have e1 : n / 2048 % 32 = xs.enc := by omega
  have e2 : n % 4 = xt.val := by omega
  unfold MMdset.dec
  rw [eg, Guard.dec_enc]; try rw [Option.bind_eq_bind]
  rw [Option.bind_some]
  rw [e0, decFin_val]; try rw [Option.bind_eq_bind]
  rw [Option.bind_some]
  rw [e1, LSrc.dec_enc]; try rw [Option.bind_eq_bind]
  rw [Option.bind_some]
  rw [e2, decFin_val]; try rw [Option.bind_eq_bind]
  rw [Option.bind_some]
  exact if_pos et
theorem MMove.enc_lt (x : MMove) : x.enc < 33554432 := by
  obtain ⟨g, xk, xn, xj⟩ := x
  have := Guard.enc_lt g; have := xk.isLt; have := xn.isLt; have := xj.isLt
  simp only [MMove.enc]; omega
theorem MMove.dec_enc (n h : Nat) (x : MMove) (e : n = h * 33554432 + x.enc) : MMove.dec 0 n = some x := by
  obtain ⟨g, xk, xn, xj⟩ := x
  have := Guard.enc_lt g; have := xk.isLt; have := xn.isLt; have := xj.isLt
  have et : MMove.enc ⟨g, xk, xn, xj⟩ + 0 = n % 33554432 := by simp only [MMove.enc] at e ⊢; omega
  simp only [MMove.enc] at e
  have eg : n / 2097152 % 16 = g.enc := by omega
  have e0 : n / 65536 % 32 = xk.val := by omega
  have e1 : n / 2048 % 32 = xn.val := by omega
  have e2 : n % 64 = xj.val := by omega
  unfold MMove.dec
  rw [eg, Guard.dec_enc]; try rw [Option.bind_eq_bind]
  rw [Option.bind_some]
  rw [e0, decFin_val]; try rw [Option.bind_eq_bind]
  rw [Option.bind_some]
  rw [e1, decFin_val]; try rw [Option.bind_eq_bind]
  rw [Option.bind_some]
  rw [e2, decFin_val]; try rw [Option.bind_eq_bind]
  rw [Option.bind_some]
  exact if_pos et
theorem MLoad.enc_lt (x : MLoad) : x.enc < 33554432 := by
  obtain ⟨g, xn, xq, xf, xc⟩ := x
  have := Guard.enc_lt g; have := xn.isLt; have := Pair.enc_lt xq; have := xf.isLt; have := xc.isLt
  simp only [MLoad.enc]; omega
theorem MLoad.dec_enc (n h : Nat) (x : MLoad) (e : n = h * 33554432 + x.enc) : MLoad.dec 0 n = some x := by
  obtain ⟨g, xn, xq, xf, xc⟩ := x
  have := Guard.enc_lt g; have := xn.isLt; have := Pair.enc_lt xq; have := xf.isLt; have := xc.isLt
  have et : MLoad.enc ⟨g, xn, xq, xf, xc⟩ + 0 = n % 33554432 := by simp only [MLoad.enc] at e ⊢; omega
  simp only [MLoad.enc] at e
  have eg : n / 2097152 % 16 = g.enc := by omega
  have e0 : n / 65536 % 32 = xn.val := by omega
  have e1 : n / 2048 % 32 = Pair.enc xq := by omega
  have e2 : n / 64 % 32 = xf.val := by omega
  have e3 : n / 4 % 16 = xc.val := by omega
  unfold MLoad.dec
  rw [eg, Guard.dec_enc]; try rw [Option.bind_eq_bind]
  rw [Option.bind_some]
  rw [e0, decFin_val]; try rw [Option.bind_eq_bind]
  rw [Option.bind_some]
  rw [e1, Pair.dec_enc]; try rw [Option.bind_eq_bind]
  rw [Option.bind_some]
  rw [e2, decFin_val]; try rw [Option.bind_eq_bind]
  rw [Option.bind_some]
  rw [e3, decFin_val]; try rw [Option.bind_eq_bind]
  rw [Option.bind_some]
  exact if_pos et
theorem MStore.enc_lt (x : MStore) : x.enc < 33554432 := by
  obtain ⟨g, xk, xq⟩ := x
  have := Guard.enc_lt g; have := xk.isLt; have := Pair.enc_lt xq
  simp only [MStore.enc]; omega
theorem MStore.dec_enc (n h : Nat) (x : MStore) (e : n = h * 33554432 + x.enc) : MStore.dec 0 n = some x := by
  obtain ⟨g, xk, xq⟩ := x
  have := Guard.enc_lt g; have := xk.isLt; have := Pair.enc_lt xq
  have et : MStore.enc ⟨g, xk, xq⟩ + 0 = n % 33554432 := by simp only [MStore.enc] at e ⊢; omega
  simp only [MStore.enc] at e
  have eg : n / 2097152 % 16 = g.enc := by omega
  have e0 : n / 65536 % 4 = xk.val := by omega
  have e1 : n / 2048 % 32 = Pair.enc xq := by omega
  unfold MStore.dec
  rw [eg, Guard.dec_enc]; try rw [Option.bind_eq_bind]
  rw [Option.bind_some]
  rw [e0, decFin_val]; try rw [Option.bind_eq_bind]
  rw [Option.bind_some]
  rw [e1, Pair.dec_enc]; try rw [Option.bind_eq_bind]
  rw [Option.bind_some]
  exact if_pos et
theorem MStore.enc_lt_1 (x : MStore) : 1 + x.enc < 33554432 := by
  obtain ⟨g, xk, xq⟩ := x
  have := Guard.enc_lt g; have := xk.isLt; have := Pair.enc_lt xq
  simp only [MStore.enc]; omega
theorem MStore.dec_enc_1 (n h : Nat) (x : MStore) (e : n = h * 33554432 + 1 + x.enc) : MStore.dec 1 n = some x := by
  obtain ⟨g, xk, xq⟩ := x
  have := Guard.enc_lt g; have := xk.isLt; have := Pair.enc_lt xq
  have et : MStore.enc ⟨g, xk, xq⟩ + 1 = n % 33554432 := by simp only [MStore.enc] at e ⊢; omega
  simp only [MStore.enc] at e
  have eg : n / 2097152 % 16 = g.enc := by omega
  have e0 : n / 65536 % 4 = xk.val := by omega
  have e1 : n / 2048 % 32 = Pair.enc xq := by omega
  unfold MStore.dec
  rw [eg, Guard.dec_enc]; try rw [Option.bind_eq_bind]
  rw [Option.bind_some]
  rw [e0, decFin_val]; try rw [Option.bind_eq_bind]
  rw [Option.bind_some]
  rw [e1, Pair.dec_enc]; try rw [Option.bind_eq_bind]
  rw [Option.bind_some]
  exact if_pos et
theorem MMul.enc_lt (x : MMul) : x.enc < 33554432 := by
  obtain ⟨g, xf, xk, xa, xb, xc⟩ := x
  have := Guard.enc_lt g; have := xf.isLt; have := xk.isLt; have := MOp.enc_lt xa; have := MOp.enc_lt xb; have := xc.isLt
  simp only [MMul.enc]; omega
theorem MMul.dec_enc (n h : Nat) (x : MMul) (e : n = h * 33554432 + x.enc) : MMul.dec 0 n = some x := by
  obtain ⟨g, xf, xk, xa, xb, xc⟩ := x
  have := Guard.enc_lt g; have := xf.isLt; have := xk.isLt; have := MOp.enc_lt xa; have := MOp.enc_lt xb; have := xc.isLt
  have et : MMul.enc ⟨g, xf, xk, xa, xb, xc⟩ + 0 = n % 33554432 := by simp only [MMul.enc] at e ⊢; omega
  simp only [MMul.enc] at e
  have eg : n / 2097152 % 16 = g.enc := by omega
  have e0 : n / 262144 % 8 = xf.val := by omega
  have e1 : n / 65536 % 4 = xk.val := by omega
  have e2 : n / 2048 % 32 = xa.enc := by omega
  have e3 : n / 64 % 32 = xb.enc := by omega
  have e4 : n / 4 % 16 = xc.val := by omega
  unfold MMul.dec
  rw [eg, Guard.dec_enc]; try rw [Option.bind_eq_bind]
  rw [Option.bind_some]
  rw [e0, decFin_val]; try rw [Option.bind_eq_bind]
  rw [Option.bind_some]
  rw [e1, decFin_val]; try rw [Option.bind_eq_bind]
  rw [Option.bind_some]
  rw [e2, MOp.dec_enc]; try rw [Option.bind_eq_bind]
  rw [Option.bind_some]
  rw [e3, MOp.dec_enc]; try rw [Option.bind_eq_bind]
  rw [Option.bind_some]
  rw [e4, decFin_val]; try rw [Option.bind_eq_bind]
  rw [Option.bind_some]
  exact if_pos et
theorem MMul.enc_lt_1 (x : MMul) : 1 + x.enc < 33554432 := by
  obtain ⟨g, xf, xk, xa, xb, xc⟩ := x
  have := Guard.enc_lt g; have := xf.isLt; have := xk.isLt; have := MOp.enc_lt xa; have := MOp.enc_lt xb; have := xc.isLt
  simp only [MMul.enc]; omega
theorem MMul.dec_enc_1 (n h : Nat) (x : MMul) (e : n = h * 33554432 + 1 + x.enc) : MMul.dec 1 n = some x := by
  obtain ⟨g, xf, xk, xa, xb, xc⟩ := x
  have := Guard.enc_lt g; have := xf.isLt; have := xk.isLt; have := MOp.enc_lt xa; have := MOp.enc_lt xb; have := xc.isLt
  have et : MMul.enc ⟨g, xf, xk, xa, xb, xc⟩ + 1 = n % 33554432 := by simp only [MMul.enc] at e ⊢; omega
  simp only [MMul.enc] at e
  have eg : n / 2097152 % 16 = g.enc := by omega
  have e0 : n / 262144 % 8 = xf.val := by omega
  have e1 : n / 65536 % 4 = xk.val := by omega
  have e2 : n / 2048 % 32 = xa.enc := by omega
  have e3 : n / 64 % 32 = xb.enc := by omega
  have e4 : n / 4 % 16 = xc.val := by omega
  unfold MMul.dec
  rw [eg, Guard.dec_enc]; try rw [Option.bind_eq_bind]
  rw [Option.bind_some]
  rw [e0, decFin_val]; try rw [Option.bind_eq_bind]
  rw [Option.bind_some]
  rw [e1, decFin_val]; try rw [Option.bind_eq_bind]
  rw [Option.bind_some]
  rw [e2, MOp.dec_enc]; try rw [Option.bind_eq_bind]
  rw [Option.bind_some]
  rw [e3, MOp.dec_enc]; try rw [Option.bind_eq_bind]
  rw [Option.bind_some]
  rw [e4, decFin_val]; try rw [Option.bind_eq_bind]
  rw [Option.bind_some]
  exact if_pos et
theorem MNest.enc_lt (x : MNest) : x.enc < 33554432 := by
  obtain ⟨g, xk, xa, xb, xj⟩ := x
  have := Guard.enc_lt g; have := xk.isLt; have := Pair.enc_lt xa; have := Pair.enc_lt xb; have := xj.isLt
  simp only [MNest.enc]; omega
theorem MNest.dec_enc (n h : Nat) (x : MNest) (e : n = h * 33554432 + x.enc) : MNest.dec 0 n = some x := by
  obtain ⟨g, xk, xa, xb, xj⟩ := x
  have := Guard.enc_lt g; have := xk.isLt; have := Pair.enc_lt xa; have := Pair.enc_lt xb; have := xj.isLt
  have et : MNest.enc ⟨g, xk, xa, xb, xj⟩ + 0 = n % 33554432 := by simp only [MNest.enc] at e ⊢; omega
  simp only [MNest.enc] at e
  have eg : n / 2097152 % 16 = g.enc := by omega
  have e0 : n / 65536 % 4 = xk.val := by omega
  have e1 : n / 2048 % 32 = Pair.enc xa := by omega
  have e2 : n / 64 % 32 = Pair.enc xb := by omega
  have e3 : n % 64 = xj.val := by omega
  unfold MNest.dec
  rw [eg, Guard.dec_enc]; try rw [Option.bind_eq_bind]
  rw [Option.bind_some]
  rw [e0, decFin_val]; try rw [Option.bind_eq_bind]
  rw [Option.bind_some]
  rw [e1, Pair.dec_enc]; try rw [Option.bind_eq_bind]
  rw [Option.bind_some]
  rw [e2, Pair.dec_enc]; try rw [Option.bind_eq_bind]
  rw [Option.bind_some]
  rw [e3, decFin_val]; try rw [Option.bind_eq_bind]
  rw [Option.bind_some]
  exact if_pos et
theorem MNest.enc_lt_262144 (x : MNest) : 262144 + x.enc < 33554432 := by
  obtain ⟨g, xk, xa, xb, xj⟩ := x
  have := Guard.enc_lt g; have := xk.isLt; have := Pair.enc_lt xa; have := Pair.enc_lt xb; have := xj.isLt
  simp only [MNest.enc]; omega
theorem MNest.dec_enc_262144 (n h : Nat) (x : MNest) (e : n = h * 33554432 + 262144 + x.enc) : MNest.dec 262144 n = some x := by
  obtain ⟨g, xk, xa, xb, xj⟩ := x
  have := Guard.enc_lt g; have := xk.isLt; have := Pair.enc_lt xa; have := Pair.enc_lt xb; have := xj.isLt
  have et : MNest.enc ⟨g, xk, xa, xb, xj⟩ + 262144 = n % 33554432 := by simp only [MNest.enc] at e ⊢; omega
  simp only [MNest.enc] at e
  have eg : n / 2097152 % 16 = g.enc := by omega
  have e0 : n / 65536 % 4 = xk.val := by omega
  have e1 : n / 2048 % 32 = Pair.enc xa := by omega
  have e2 : n / 64 % 32 = Pair.enc xb := by omega
  have e3 : n % 64 = xj.val := by omega
  unfold MNest.dec
  rw [eg, Guard.dec_enc]; try rw [Option.bind_eq_bind]
  rw [Option.bind_some]
  rw [e0, decFin_val]; try rw [Option.bind_eq_bind]
  rw [Option.bind_some]
  rw [e1, Pair.dec_enc]; try rw [Option.bind_eq_bind]
  rw [Option.bind_some]
  rw [e2, Pair.dec_enc]; try rw [Option.bind_eq_bind]
  rw [Option.bind_some]
  rw [e3, decFin_val]; try rw [Option.bind_eq_bind]
  rw [Option.bind_some]
  exact if_pos et
theorem MZ.enc_lt (x : MZ) : x.enc < 33554432 := by
  obtain ⟨g, xk⟩ := x
  have := Guard.enc_lt g; have := xk.isLt
  simp only [MZ.enc]; omega
theorem MZ.dec_enc (n h : Nat) (x : MZ) (e : n = h * 33554432 + x.enc) : MZ.dec 0 n = some x := by
  obtain ⟨g, xk⟩ := x
  have := Guard.enc_lt g; have := xk.isLt
  have et : MZ.enc ⟨g, xk⟩ + 0 = n % 33554432 := by simp only [MZ.enc] at e ⊢; omega
  simp only [MZ.enc] at e
  have eg : n / 2097152 % 16 = g.enc := by omega
  have e0 : n / 65536 % 4 = xk.val := by omega
  unfold MZ.dec
  rw [eg, Guard.dec_enc]; try rw [Option.bind_eq_bind]
  rw [Option.bind_some]
  rw [e0, decFin_val]; try rw [Option.bind_eq_bind]
  rw [Option.bind_some]
  exact if_pos et
theorem MZ.enc_lt_1 (x : MZ) : 1 + x.enc < 33554432 := by
  obtain ⟨g, xk⟩ := x
  have := Guard.enc_lt g; have := xk.isLt
  simp only [MZ.enc]; omega
theorem MZ.dec_enc_1 (n h : Nat) (x : MZ) (e : n = h * 33554432 + 1 + x.enc) : MZ.dec 1 n = some x := by
  obtain ⟨g, xk⟩ := x
  have := Guard.enc_lt g; have := xk.isLt
  have et : MZ.enc ⟨g, xk⟩ + 1 = n % 33554432 := by simp only [MZ.enc] at e ⊢; omega
  simp only [MZ.enc] at e
  have eg : n / 2097152 % 16 = g.enc := by omega
  have e0 : n / 65536 % 4 = xk.val := by omega
  unfold MZ.dec
  rw [eg, Guard.dec_enc]; try rw [Option.bind_eq_bind]
  rw [Option.bind_some]
  rw [e0, decFin_val]; try rw [Option.bind_eq_bind]
  rw [Option.bind_some]
  exact if_pos et
theorem MTrans.enc_lt (x : MTrans) : x.enc < 33554432 := by
  obtain ⟨g, xd, xa, xc⟩ := x
  have := Guard.enc_lt g; have := xd.isLt; have := xa.isLt; have := xc.isLt
  simp only [MTrans.enc]; omega
theorem MTrans.dec_enc (n h : Nat) (x : MTrans) (e : n = h * 33554432 + x.enc) : MTrans.dec 0 n = some x := by
  obtain ⟨g, xd, xa, xc⟩ := x
  have := Guard.enc_lt g; have := xd.isLt; have := xa.isLt; have := xc.isLt
  have et : MTrans.enc ⟨g, xd, xa, xc⟩ + 0 = n % 33554432 := by simp only [MTrans.enc] at e ⊢; omega
  simp only [MTrans.enc] at e
  have eg : n / 2097152 % 16 = g.enc := by omega
  have e0 : n / 65536 % 32 = xd.val := by omega
  have e1 : n / 2048 % 32 = xa.val := by omega
  have e2 : n % 4 = xc.val := by omega
  unfold MTrans.dec
  rw [eg, Guard.dec_enc]; try rw [Option.bind_eq_bind]
  rw [Option.bind_some]
  rw [e0, decFin_val]; try rw [Option.bind_eq_bind]
  rw [Option.bind_some]
  rw [e1, decFin_val]; try rw [Option.bind_eq_bind]
  rw [Option.bind_some]
  rw [e2, decFin_val]; try rw [Option.bind_eq_bind]
  rw [Option.bind_some]
  exact if_pos et
theorem MRead.enc_lt (x : MRead) : x.enc < 33554432 := by
  obtain ⟨g, xr, xk, xj⟩ := x
  have := Guard.enc_lt g; have := xr.isLt; have := xk.isLt; have := xj.isLt
  simp only [MRead.enc]; omega
theorem MRead.dec_enc (n h : Nat) (x : MRead) (e : n = h * 33554432 + x.enc) : MRead.dec 0 n = some x := by
  obtain ⟨g, xr, xk, xj⟩ := x
  have := Guard.enc_lt g; have := xr.isLt; have := xk.isLt; have := xj.isLt
  have et : MRead.enc ⟨g, xr, xk, xj⟩ + 0 = n % 33554432 := by simp only [MRead.enc] at e ⊢; omega
  simp only [MRead.enc] at e
  have eg : n / 2097152 % 16 = g.enc := by omega
  have e0 : n / 32768 % 64 = xr.val := by omega
  have e1 : n / 8192 % 4 = xk.val := by omega
  have e2 : n % 64 = xj.val := by omega
  unfold MRead.dec
  rw [eg, Guard.dec_enc]; try rw [Option.bind_eq_bind]
  rw [Option.bind_some]
  rw [e0, decFin_val]; try rw [Option.bind_eq_bind]
  rw [Option.bind_some]
  rw [e1, decFin_val]; try rw [Option.bind_eq_bind]
  rw [Option.bind_some]
  rw [e2, decFin_val]; try rw [Option.bind_eq_bind]
  rw [Option.bind_some]
  exact if_pos et
theorem MWm.enc_lt (x : MWm) : x.enc < 33554432 := by
  obtain ⟨g, xd, xk, xr⟩ := x
  have := Guard.enc_lt g; have := xd.isLt; have := xk.isLt; have := xr.isLt
  simp only [MWm.enc]; omega
theorem MWm.dec_enc (n h : Nat) (x : MWm) (e : n = h * 33554432 + x.enc) : MWm.dec 0 n = some x := by
  obtain ⟨g, xd, xk, xr⟩ := x
  have := Guard.enc_lt g; have := xd.isLt; have := xk.isLt; have := xr.isLt
  have et : MWm.enc ⟨g, xd, xk, xr⟩ + 0 = n % 33554432 := by simp only [MWm.enc] at e ⊢; omega
  simp only [MWm.enc] at e
  have eg : n / 2097152 % 16 = g.enc := by omega
  have e0 : n / 262144 % 8 = xd.val := by omega
  have e1 : n / 65536 % 4 = xk.val := by omega
  have e2 : n / 1024 % 64 = xr.val := by omega
  unfold MWm.dec
  rw [eg, Guard.dec_enc]; try rw [Option.bind_eq_bind]
  rw [Option.bind_some]
  rw [e0, decFin_val]; try rw [Option.bind_eq_bind]
  rw [Option.bind_some]
  rw [e1, decFin_val]; try rw [Option.bind_eq_bind]
  rw [Option.bind_some]
  rw [e2, decFin_val]; try rw [Option.bind_eq_bind]
  rw [Option.bind_some]
  exact if_pos et
theorem MZM.enc_lt (x : MZM) : x.enc < 33554432 := by
  obtain ⟨g, xk, xj⟩ := x
  have := Guard.enc_lt g; have := xk.isLt; have := xj.isLt
  simp only [MZM.enc]; omega
theorem MZM.dec_enc (n h : Nat) (x : MZM) (e : n = h * 33554432 + x.enc) : MZM.dec 0 n = some x := by
  obtain ⟨g, xk, xj⟩ := x
  have := Guard.enc_lt g; have := xk.isLt; have := xj.isLt
  have et : MZM.enc ⟨g, xk, xj⟩ + 0 = n % 33554432 := by simp only [MZM.enc] at e ⊢; omega
  simp only [MZM.enc] at e
  have eg : n / 2097152 % 16 = g.enc := by omega
  have e0 : n / 65536 % 4 = xk.val := by omega
  have e1 : n % 64 = xj.val := by omega
  unfold MZM.dec
  rw [eg, Guard.dec_enc]; try rw [Option.bind_eq_bind]
  rw [Option.bind_some]
  rw [e0, decFin_val]; try rw [Option.bind_eq_bind]
  rw [Option.bind_some]
  rw [e1, decFin_val]; try rw [Option.bind_eq_bind]
  rw [Option.bind_some]
  exact if_pos et
theorem MMir.enc_lt (x : MMir) : x.enc < 33554432 := by
  obtain ⟨g, xr, xc, xe⟩ := x
  have := Guard.enc_lt g; have := xr.isLt; have := xc.isLt; have := encBool_lt xe
  simp only [MMir.enc]; omega
theorem MMir.dec_enc (n h : Nat) (x : MMir) (e : n = h * 33554432 + x.enc) : MMir.dec 0 n = some x := by
  obtain ⟨g, xr, xc, xe⟩ := x
  have := Guard.enc_lt g; have := xr.isLt; have := xc.isLt; have := encBool_lt xe
  have et : MMir.enc ⟨g, xr, xc, xe⟩ + 0 = n % 33554432 := by simp only [MMir.enc] at e ⊢; omega
  simp only [MMir.enc] at e
  have eg : n / 2097152 % 16 = g.enc := by omega
  have e0 : n / 32768 % 64 = xr.val := by omega
  have e1 : n / 512 % 64 = xc.val := by omega
  have e2 : n % 2 = encBool xe := by omega
  unfold MMir.dec
  rw [eg, Guard.dec_enc]; try rw [Option.bind_eq_bind]
  rw [Option.bind_some]
  rw [e0, decFin_val]; try rw [Option.bind_eq_bind]
  rw [Option.bind_some]
  rw [e1, decFin_val]; try rw [Option.bind_eq_bind]
  rw [Option.bind_some]
  rw [e2, decBool_enc]; try rw [Option.bind_eq_bind]
  rw [Option.bind_some]
  exact if_pos et
theorem MInj.enc_lt (x : MInj) : x.enc < 33554432 := by
  obtain ⟨g, xk, xi, xj, xt, xb⟩ := x
  have := Guard.enc_lt g; have := xk.isLt; have := xi.isLt; have := xj.isLt; have := xt.isLt; have := xb.isLt
  simp only [MInj.enc]; omega
theorem MInj.dec_enc (n h : Nat) (x : MInj) (e : n = h * 33554432 + x.enc) : MInj.dec 0 n = some x := by
  obtain ⟨g, xk, xi, xj, xt, xb⟩ := x
  have := Guard.enc_lt g; have := xk.isLt; have := xi.isLt; have := xj.isLt; have := xt.isLt; have := xb.isLt
  have et : MInj.enc ⟨g, xk, xi, xj, xt, xb⟩ + 0 = n % 33554432 := by simp only [MInj.enc] at e ⊢; omega
  simp only [MInj.enc] at e
  have eg : n / 2097152 % 16 = g.enc := by omega
  have e0 : n / 524288 % 4 = xk.val := by omega
  have e1 : n / 8192 % 64 = xi.val := by omega
  have e2 : n / 128 % 64 = xj.val := by omega
  have e3 : n / 32 % 4 = xt.val := by omega
  have e4 : n % 32 = xb.val := by omega
  unfold MInj.dec
  rw [eg, Guard.dec_enc]; try rw [Option.bind_eq_bind]
  rw [Option.bind_some]
  rw [e0, decFin_val]; try rw [Option.bind_eq_bind]
  rw [Option.bind_some]
  rw [e1, decFin_val]; try rw [Option.bind_eq_bind]
  rw [Option.bind_some]
  rw [e2, decFin_val]; try rw [Option.bind_eq_bind]
  rw [Option.bind_some]
  rw [e3, decFin_val]; try rw [Option.bind_eq_bind]
  rw [Option.bind_some]
  rw [e4, decFin_val]; try rw [Option.bind_eq_bind]
  rw [Option.bind_some]
  exact if_pos et
theorem MTag.enc_lt (x : MTag) : x.enc < 33554432 := by
  obtain ⟨g, xn, xk⟩ := x
  have := Guard.enc_lt g; have := xn.isLt; have := xk.isLt
  simp only [MTag.enc]; omega
theorem MTag.dec_enc (n h : Nat) (x : MTag) (e : n = h * 33554432 + x.enc) : MTag.dec 0 n = some x := by
  obtain ⟨g, xn, xk⟩ := x
  have := Guard.enc_lt g; have := xn.isLt; have := xk.isLt
  have et : MTag.enc ⟨g, xn, xk⟩ + 0 = n % 33554432 := by simp only [MTag.enc] at e ⊢; omega
  simp only [MTag.enc] at e
  have eg : n / 2097152 % 16 = g.enc := by omega
  have e0 : n / 65536 % 32 = xn.val := by omega
  have e1 : n / 2048 % 32 = xk.val := by omega
  unfold MTag.dec
  rw [eg, Guard.dec_enc]; try rw [Option.bind_eq_bind]
  rw [Option.bind_some]
  rw [e0, decFin_val]; try rw [Option.bind_eq_bind]
  rw [Option.bind_some]
  rw [e1, decFin_val]; try rw [Option.bind_eq_bind]
  rw [Option.bind_some]
  exact if_pos et
theorem MCvt.enc_lt (x : MCvt) : x.enc < 33554432 := by
  obtain ⟨g, xf, xk, xd, xr, xc⟩ := x
  have := Guard.enc_lt g; have := xf.isLt; have := xk.isLt; have := xd.isLt; have := Rnd.enc_lt xr; have := xc.isLt
  simp only [MCvt.enc]; omega
theorem MCvt.dec_enc (n h : Nat) (x : MCvt) (e : n = h * 33554432 + x.enc) : MCvt.dec 0 n = some x := by
  obtain ⟨g, xf, xk, xd, xr, xc⟩ := x
  have := Guard.enc_lt g; have := xf.isLt; have := xk.isLt; have := xd.isLt; have := Rnd.enc_lt xr; have := xc.isLt
  have et : MCvt.enc ⟨g, xf, xk, xd, xr, xc⟩ + 0 = n % 33554432 := by simp only [MCvt.enc] at e ⊢; omega
  simp only [MCvt.enc] at e
  have eg : n / 2097152 % 16 = g.enc := by omega
  have e0 : n / 262144 % 8 = xf.val := by omega
  have e1 : n / 65536 % 4 = xk.val := by omega
  have e2 : n / 2048 % 32 = xd.val := by omega
  have e3 : n / 64 % 4 = xr.enc := by omega
  have e4 : n / 4 % 16 = xc.val := by omega
  unfold MCvt.dec
  rw [eg, Guard.dec_enc]; try rw [Option.bind_eq_bind]
  rw [Option.bind_some]
  rw [e0, decFin_val]; try rw [Option.bind_eq_bind]
  rw [Option.bind_some]
  rw [e1, decFin_val]; try rw [Option.bind_eq_bind]
  rw [Option.bind_some]
  rw [e2, decFin_val]; try rw [Option.bind_eq_bind]
  rw [Option.bind_some]
  rw [e3, Rnd.dec_enc]; try rw [Option.bind_eq_bind]
  rw [Option.bind_some]
  rw [e4, decFin_val]; try rw [Option.bind_eq_bind]
  rw [Option.bind_some]
  exact if_pos et
theorem MScale.enc_lt_2 (x : MScale) : 2 + x.enc < 33554432 := by
  obtain ⟨g, xk, xn⟩ := x
  have := Guard.enc_lt g; have := xk.isLt; have := xn.isLt
  simp only [MScale.enc]; omega
theorem MScale.dec_enc_2 (n h : Nat) (x : MScale) (e : n = h * 33554432 + 2 + x.enc) : MScale.dec 2 n = some x := by
  obtain ⟨g, xk, xn⟩ := x
  have := Guard.enc_lt g; have := xk.isLt; have := xn.isLt
  have et : MScale.enc ⟨g, xk, xn⟩ + 2 = n % 33554432 := by simp only [MScale.enc] at e ⊢; omega
  simp only [MScale.enc] at e
  have eg : n / 2097152 % 16 = g.enc := by omega
  have e0 : n / 65536 % 4 = xk.val := by omega
  have e1 : n / 4 % 16 = xn.toNat := by omega
  unfold MScale.dec
  rw [eg, Guard.dec_enc]; try rw [Option.bind_eq_bind]
  rw [Option.bind_some]
  rw [e0, decFin_val]; try rw [Option.bind_eq_bind]
  rw [Option.bind_some]
  rw [e1, bv_back]; try rw [Option.bind_eq_bind]
  rw [Option.bind_some]
  exact if_pos et
theorem MN.enc_lt (x : MN) : x.enc < 33554432 := by
  obtain ⟨g, xn⟩ := x
  have := Guard.enc_lt g; have := xn.isLt
  simp only [MN.enc]; omega
theorem MN.dec_enc (n h : Nat) (x : MN) (e : n = h * 33554432 + x.enc) : MN.dec 0 n = some x := by
  obtain ⟨g, xn⟩ := x
  have := Guard.enc_lt g; have := xn.isLt
  have et : MN.enc ⟨g, xn⟩ + 0 = n % 33554432 := by simp only [MN.enc] at e ⊢; omega
  simp only [MN.enc] at e
  have eg : n / 2097152 % 16 = g.enc := by omega
  have e0 : n / 2048 % 32 = xn.val := by omega
  unfold MN.dec
  rw [eg, Guard.dec_enc]; try rw [Option.bind_eq_bind]
  rw [Option.bind_some]
  rw [e0, decFin_val]; try rw [Option.bind_eq_bind]
  rw [Option.bind_some]
  exact if_pos et
theorem MGetm.enc_lt (x : MGetm) : x.enc < 33554432 := by
  obtain ⟨g, xn, xk, xj⟩ := x
  have := Guard.enc_lt g; have := xn.isLt; have := xk.isLt; have := xj.isLt
  simp only [MGetm.enc]; omega
theorem MGetm.dec_enc (n h : Nat) (x : MGetm) (e : n = h * 33554432 + x.enc) : MGetm.dec 0 n = some x := by
  obtain ⟨g, xn, xk, xj⟩ := x
  have := Guard.enc_lt g; have := xn.isLt; have := xk.isLt; have := xj.isLt
  have et : MGetm.enc ⟨g, xn, xk, xj⟩ + 0 = n % 33554432 := by simp only [MGetm.enc] at e ⊢; omega
  simp only [MGetm.enc] at e
  have eg : n / 2097152 % 16 = g.enc := by omega
  have e0 : n / 65536 % 32 = xn.val := by omega
  have e1 : n / 64 % 32 = xk.val := by omega
  have e2 : n % 64 = xj.val := by omega
  unfold MGetm.dec
  rw [eg, Guard.dec_enc]; try rw [Option.bind_eq_bind]
  rw [Option.bind_some]
  rw [e0, decFin_val]; try rw [Option.bind_eq_bind]
  rw [Option.bind_some]
  rw [e1, decFin_val]; try rw [Option.bind_eq_bind]
  rw [Option.bind_some]
  rw [e2, decFin_val]; try rw [Option.bind_eq_bind]
  rw [Option.bind_some]
  exact if_pos et
theorem MXfer.enc_lt (x : MXfer) : x.enc < 33554432 := by
  obtain ⟨g, xr, xn, xs⟩ := x
  have := Guard.enc_lt g; have := xr.isLt; have := xn.isLt; have := xs.isLt
  simp only [MXfer.enc]; omega
theorem MXfer.dec_enc (n h : Nat) (x : MXfer) (e : n = h * 33554432 + x.enc) : MXfer.dec 0 n = some x := by
  obtain ⟨g, xr, xn, xs⟩ := x
  have := Guard.enc_lt g; have := xr.isLt; have := xn.isLt; have := xs.isLt
  have et : MXfer.enc ⟨g, xr, xn, xs⟩ + 0 = n % 33554432 := by simp only [MXfer.enc] at e ⊢; omega
  simp only [MXfer.enc] at e
  have eg : n / 2097152 % 16 = g.enc := by omega
  have e0 : n / 65536 % 32 = xr.val := by omega
  have e1 : n / 2048 % 32 = xn.val := by omega
  have e2 : n % 8 = xs.val := by omega
  unfold MXfer.dec
  rw [eg, Guard.dec_enc]; try rw [Option.bind_eq_bind]
  rw [Option.bind_some]
  rw [e0, decFin_val]; try rw [Option.bind_eq_bind]
  rw [Option.bind_some]
  rw [e1, decFin_val]; try rw [Option.bind_eq_bind]
  rw [Option.bind_some]
  rw [e2, decFin_val]; try rw [Option.bind_eq_bind]
  rw [Option.bind_some]
  exact if_pos et
theorem CSetI.enc_lt_1048576 (x : CSetI) : 1048576 + x.enc < 33554432 := by
  obtain ⟨g, xn, xf, xi⟩ := x
  have := Guard.enc_lt g; have := xn.isLt; have := xf.isLt; have := xi.isLt
  simp only [CSetI.enc]; omega
theorem CSetI.dec_enc_1048576 (n h : Nat) (x : CSetI) (e : n = h * 33554432 + 1048576 + x.enc) : CSetI.dec 1048576 n = some x := by
  obtain ⟨g, xn, xf, xi⟩ := x
  have := Guard.enc_lt g; have := xn.isLt; have := xf.isLt; have := xi.isLt
  have et : CSetI.enc ⟨g, xn, xf, xi⟩ + 1048576 = n % 33554432 := by simp only [CSetI.enc] at e ⊢; omega
  simp only [CSetI.enc] at e
  have eg : n / 2097152 % 16 = g.enc := by omega
  have e0 : n / 131072 % 8 = xn.val := by omega
  have e1 : n / 16384 % 8 = xf.val := by omega
  have e2 : n % 16384 = xi.toNat := by omega
  unfold CSetI.dec
  rw [eg, Guard.dec_enc]; try rw [Option.bind_eq_bind]
  rw [Option.bind_some]
  rw [e0, decFin_val]; try rw [Option.bind_eq_bind]
  rw [Option.bind_some]
  rw [e1, decFin_val]; try rw [Option.bind_eq_bind]
  rw [Option.bind_some]
  rw [e2, bv_back]; try rw [Option.bind_eq_bind]
  rw [Option.bind_some]
  exact if_pos et
theorem CSetR.enc_lt (x : CSetR) : x.enc < 33554432 := by
  obtain ⟨g, xn, xs, xf⟩ := x
  have := Guard.enc_lt g; have := xn.isLt; have := LSrc.enc_lt xs; have := xf.isLt
  simp only [CSetR.enc]; omega
theorem CSetR.dec_enc (n h : Nat) (x : CSetR) (e : n = h * 33554432 + x.enc) : CSetR.dec 0 n = some x := by
  obtain ⟨g, xn, xs, xf⟩ := x
  have := Guard.enc_lt g; have := xn.isLt; have := LSrc.enc_lt xs; have := xf.isLt
  have et : CSetR.enc ⟨g, xn, xs, xf⟩ + 0 = n % 33554432 := by simp only [CSetR.enc] at e ⊢; omega
  simp only [CSetR.enc] at e
  have eg : n / 2097152 % 16 = g.enc := by omega
  have e0 : n / 131072 % 8 = xn.val := by omega
  have e1 : n / 2048 % 32 = xs.enc := by omega
  have e2 : n % 64 = xf.val := by omega
  unfold CSetR.dec
  rw [eg, Guard.dec_enc]; try rw [Option.bind_eq_bind]
  rw [Option.bind_some]
  rw [e0, decFin_val]; try rw [Option.bind_eq_bind]
  rw [Option.bind_some]
  rw [e1, LSrc.dec_enc]; try rw [Option.bind_eq_bind]
  rw [Option.bind_some]
  rw [e2, decFin_val]; try rw [Option.bind_eq_bind]
  rw [Option.bind_some]
  exact if_pos et
theorem CGet.enc_lt (x : CGet) : x.enc < 33554432 := by
  obtain ⟨g, xk, xn, xf, xj⟩ := x
  have := Guard.enc_lt g; have := xk.isLt; have := xn.isLt; have := xf.isLt; have := xj.isLt
  simp only [CGet.enc]; omega
theorem CGet.dec_enc (n h : Nat) (x : CGet) (e : n = h * 33554432 + x.enc) : CGet.dec 0 n = some x := by
  obtain ⟨g, xk, xn, xf, xj⟩ := x
  have := Guard.enc_lt g; have := xk.isLt; have := xn.isLt; have := xf.isLt; have := xj.isLt
  have et : CGet.enc ⟨g, xk, xn, xf, xj⟩ + 0 = n % 33554432 := by simp only [CGet.enc] at e ⊢; omega
  simp only [CGet.enc] at e
  have eg : n / 2097152 % 16 = g.enc := by omega
  have e0 : n / 65536 % 32 = xk.val := by omega
  have e1 : n / 8192 % 8 = xn.val := by omega
  have e2 : n / 64 % 32 = xf.val := by omega
  have e3 : n % 64 = xj.val := by omega
  unfold CGet.dec
  rw [eg, Guard.dec_enc]; try rw [Option.bind_eq_bind]
  rw [Option.bind_some]
  rw [e0, decFin_val]; try rw [Option.bind_eq_bind]
  rw [Option.bind_some]
  rw [e1, decFin_val]; try rw [Option.bind_eq_bind]
  rw [Option.bind_some]
  rw [e2, decFin_val]; try rw [Option.bind_eq_bind]
  rw [Option.bind_some]
  rw [e3, decFin_val]; try rw [Option.bind_eq_bind]
  rw [Option.bind_some]
  exact if_pos et
theorem CTwo.enc_lt (x : CTwo) : x.enc < 33554432 := by
  obtain ⟨g, xd, xs⟩ := x
  have := Guard.enc_lt g; have := xd.isLt; have := xs.isLt
  simp only [CTwo.enc]; omega
theorem CTwo.dec_enc (n h : Nat) (x : CTwo) (e : n = h * 33554432 + x.enc) : CTwo.dec 0 n = some x := by
  obtain ⟨g, xd, xs⟩ := x
  have := Guard.enc_lt g; have := xd.isLt; have := xs.isLt
  have et : CTwo.enc ⟨g, xd, xs⟩ + 0 = n % 33554432 := by simp only [CTwo.enc] at e ⊢; omega
  simp only [CTwo.enc] at e
  have eg : n / 2097152 % 16 = g.enc := by omega
  have e0 : n / 65536 % 32 = xd.val := by omega
  have e1 : n / 2048 % 32 = xs.val := by omega
  unfold CTwo.dec
  rw [eg, Guard.dec_enc]; try rw [Option.bind_eq_bind]
  rw [Option.bind_some]
  rw [e0, decFin_val]; try rw [Option.bind_eq_bind]
  rw [Option.bind_some]
  rw [e1, decFin_val]; try rw [Option.bind_eq_bind]
  rw [Option.bind_some]
  exact if_pos et
theorem CTwo.enc_lt_1 (x : CTwo) : 1 + x.enc < 33554432 := by
  obtain ⟨g, xd, xs⟩ := x
  have := Guard.enc_lt g; have := xd.isLt; have := xs.isLt
  simp only [CTwo.enc]; omega
theorem CTwo.dec_enc_1 (n h : Nat) (x : CTwo) (e : n = h * 33554432 + 1 + x.enc) : CTwo.dec 1 n = some x := by
  obtain ⟨g, xd, xs⟩ := x
  have := Guard.enc_lt g; have := xd.isLt; have := xs.isLt
  have et : CTwo.enc ⟨g, xd, xs⟩ + 1 = n % 33554432 := by simp only [CTwo.enc] at e ⊢; omega
  simp only [CTwo.enc] at e
  have eg : n / 2097152 % 16 = g.enc := by omega
  have e0 : n / 65536 % 32 = xd.val := by omega
  have e1 : n / 2048 % 32 = xs.val := by omega
  unfold CTwo.dec
  rw [eg, Guard.dec_enc]; try rw [Option.bind_eq_bind]
  rw [Option.bind_some]
  rw [e0, decFin_val]; try rw [Option.bind_eq_bind]
  rw [Option.bind_some]
  rw [e1, decFin_val]; try rw [Option.bind_eq_bind]
  rw [Option.bind_some]
  exact if_pos et
theorem CBar.enc_lt (x : CBar) : x.enc < 33554432 := by
  obtain ⟨g, xd, xs, xn, xt⟩ := x
  have := Guard.enc_lt g; have := xd.isLt; have := xs.isLt; have := xn.isLt; have := encBool_lt xt
  simp only [CBar.enc]; omega
theorem CBar.dec_enc (n h : Nat) (x : CBar) (e : n = h * 33554432 + x.enc) : CBar.dec 0 n = some x := by
  obtain ⟨g, xd, xs, xn, xt⟩ := x
  have := Guard.enc_lt g; have := xd.isLt; have := xs.isLt; have := xn.isLt; have := encBool_lt xt
  have et : CBar.enc ⟨g, xd, xs, xn, xt⟩ + 0 = n % 33554432 := by simp only [CBar.enc] at e ⊢; omega
  simp only [CBar.enc] at e
  have eg : n / 2097152 % 16 = g.enc := by omega
  have e0 : n / 65536 % 32 = xd.val := by omega
  have e1 : n / 2048 % 32 = xs.val := by omega
  have e2 : n / 64 % 32 = xn.val := by omega
  have e3 : n % 2 = encBool xt := by omega
  unfold CBar.dec
  rw [eg, Guard.dec_enc]; try rw [Option.bind_eq_bind]
  rw [Option.bind_some]
  rw [e0, decFin_val]; try rw [Option.bind_eq_bind]
  rw [Option.bind_some]
  rw [e1, decFin_val]; try rw [Option.bind_eq_bind]
  rw [Option.bind_some]
  rw [e2, decFin_val]; try rw [Option.bind_eq_bind]
  rw [Option.bind_some]
  rw [e3, decBool_enc]; try rw [Option.bind_eq_bind]
  rw [Option.bind_some]
  exact if_pos et
theorem CTile.enc_lt (x : CTile) : x.enc < 33554432 := by
  obtain ⟨g, xn, xs, xf, xc⟩ := x
  have := Guard.enc_lt g; have := xn.isLt; have := xs.isLt; have := xf.isLt; have := xc.isLt
  simp only [CTile.enc]; omega
theorem CTile.dec_enc (n h : Nat) (x : CTile) (e : n = h * 33554432 + x.enc) : CTile.dec 0 n = some x := by
  obtain ⟨g, xn, xs, xf, xc⟩ := x
  have := Guard.enc_lt g; have := xn.isLt; have := xs.isLt; have := xf.isLt; have := xc.isLt
  have et : CTile.enc ⟨g, xn, xs, xf, xc⟩ + 0 = n % 33554432 := by simp only [CTile.enc] at e ⊢; omega
  simp only [CTile.enc] at e
  have eg : n / 2097152 % 16 = g.enc := by omega
  have e0 : n / 65536 % 32 = xn.val := by omega
  have e1 : n / 2048 % 32 = xs.val := by omega
  have e2 : n / 64 % 32 = xf.val := by omega
  have e3 : n / 4 % 16 = xc.val := by omega
  unfold CTile.dec
  rw [eg, Guard.dec_enc]; try rw [Option.bind_eq_bind]
  rw [Option.bind_some]
  rw [e0, decFin_val]; try rw [Option.bind_eq_bind]
  rw [Option.bind_some]
  rw [e1, decFin_val]; try rw [Option.bind_eq_bind]
  rw [Option.bind_some]
  rw [e2, decFin_val]; try rw [Option.bind_eq_bind]
  rw [Option.bind_some]
  rw [e3, decFin_val]; try rw [Option.bind_eq_bind]
  rw [Option.bind_some]
  exact if_pos et
theorem COne.enc_lt (x : COne) : x.enc < 33554432 := by
  obtain ⟨g, xd⟩ := x
  have := Guard.enc_lt g; have := xd.isLt
  simp only [COne.enc]; omega
theorem COne.dec_enc (n h : Nat) (x : COne) (e : n = h * 33554432 + x.enc) : COne.dec 0 n = some x := by
  obtain ⟨g, xd⟩ := x
  have := Guard.enc_lt g; have := xd.isLt
  have et : COne.enc ⟨g, xd⟩ + 0 = n % 33554432 := by simp only [COne.enc] at e ⊢; omega
  simp only [COne.enc] at e
  have eg : n / 2097152 % 16 = g.enc := by omega
  have e0 : n / 65536 % 32 = xd.val := by omega
  unfold COne.dec
  rw [eg, Guard.dec_enc]; try rw [Option.bind_eq_bind]
  rw [Option.bind_some]
  rw [e0, decFin_val]; try rw [Option.bind_eq_bind]
  rw [Option.bind_some]
  exact if_pos et
theorem CFill.enc_lt (x : CFill) : x.enc < 33554432 := by
  obtain ⟨g, xd, xv⟩ := x
  have := Guard.enc_lt g; have := xd.isLt; have := LSrc.enc_lt xv
  simp only [CFill.enc]; omega
theorem CFill.dec_enc (n h : Nat) (x : CFill) (e : n = h * 33554432 + x.enc) : CFill.dec 0 n = some x := by
  obtain ⟨g, xd, xv⟩ := x
  have := Guard.enc_lt g; have := xd.isLt; have := LSrc.enc_lt xv
  have et : CFill.enc ⟨g, xd, xv⟩ + 0 = n % 33554432 := by simp only [CFill.enc] at e ⊢; omega
  simp only [CFill.enc] at e
  have eg : n / 2097152 % 16 = g.enc := by omega
  have e0 : n / 65536 % 32 = xd.val := by omega
  have e1 : n / 2048 % 32 = xv.enc := by omega
  unfold CFill.dec
  rw [eg, Guard.dec_enc]; try rw [Option.bind_eq_bind]
  rw [Option.bind_some]
  rw [e0, decFin_val]; try rw [Option.bind_eq_bind]
  rw [Option.bind_some]
  rw [e1, LSrc.dec_enc]; try rw [Option.bind_eq_bind]
  rw [Option.bind_some]
  exact if_pos et
theorem CRed.enc_lt (x : CRed) : x.enc < 33554432 := by
  obtain ⟨g, xd, xs, xe, xo⟩ := x
  have := Guard.enc_lt g; have := xd.isLt; have := xs.isLt; have := encBool_lt xe; have := xo.isLt
  simp only [CRed.enc]; omega
theorem CRed.dec_enc (n h : Nat) (x : CRed) (e : n = h * 33554432 + x.enc) : CRed.dec 0 n = some x := by
  obtain ⟨g, xd, xs, xe, xo⟩ := x
  have := Guard.enc_lt g; have := xd.isLt; have := xs.isLt; have := encBool_lt xe; have := xo.isLt
  have et : CRed.enc ⟨g, xd, xs, xe, xo⟩ + 0 = n % 33554432 := by simp only [CRed.enc] at e ⊢; omega
  simp only [CRed.enc] at e
  have eg : n / 2097152 % 16 = g.enc := by omega
  have e0 : n / 65536 % 32 = xd.val := by omega
  have e1 : n / 2048 % 32 = xs.val := by omega
  have e2 : n / 4 % 2 = encBool xe := by omega
  have e3 : n % 4 = xo.val := by omega
  unfold CRed.dec
  rw [eg, Guard.dec_enc]; try rw [Option.bind_eq_bind]
  rw [Option.bind_some]
  rw [e0, decFin_val]; try rw [Option.bind_eq_bind]
  rw [Option.bind_some]
  rw [e1, decFin_val]; try rw [Option.bind_eq_bind]
  rw [Option.bind_some]
  rw [e2, decBool_enc]; try rw [Option.bind_eq_bind]
  rw [Option.bind_some]
  rw [e3, decFin_val]; try rw [Option.bind_eq_bind]
  rw [Option.bind_some]
  exact if_pos et
theorem CPost.enc_lt (x : CPost) : x.enc < 33554432 := by
  obtain ⟨g, xd, xs, xn⟩ := x
  have := Guard.enc_lt g; have := xd.isLt; have := xs.isLt; have := xn.isLt
  simp only [CPost.enc]; omega
theorem CPost.dec_enc (n h : Nat) (x : CPost) (e : n = h * 33554432 + x.enc) : CPost.dec 0 n = some x := by
  obtain ⟨g, xd, xs, xn⟩ := x
  have := Guard.enc_lt g; have := xd.isLt; have := xs.isLt; have := xn.isLt
  have et : CPost.enc ⟨g, xd, xs, xn⟩ + 0 = n % 33554432 := by simp only [CPost.enc] at e ⊢; omega
  simp only [CPost.enc] at e
  have eg : n / 2097152 % 16 = g.enc := by omega
  have e0 : n / 65536 % 32 = xd.val := by omega
  have e1 : n / 2048 % 32 = xs.val := by omega
  have e2 : n / 64 % 32 = xn.val := by omega
  unfold CPost.dec
  rw [eg, Guard.dec_enc]; try rw [Option.bind_eq_bind]
  rw [Option.bind_some]
  rw [e0, decFin_val]; try rw [Option.bind_eq_bind]
  rw [Option.bind_some]
  rw [e1, decFin_val]; try rw [Option.bind_eq_bind]
  rw [Option.bind_some]
  rw [e2, decFin_val]; try rw [Option.bind_eq_bind]
  rw [Option.bind_some]
  exact if_pos et
theorem CJ.enc_lt (x : CJ) : x.enc < 33554432 := by
  obtain ⟨g, xj⟩ := x
  have := Guard.enc_lt g; have := xj.isLt
  simp only [CJ.enc]; omega
theorem CJ.dec_enc (n h : Nat) (x : CJ) (e : n = h * 33554432 + x.enc) : CJ.dec 0 n = some x := by
  obtain ⟨g, xj⟩ := x
  have := Guard.enc_lt g; have := xj.isLt
  have et : CJ.enc ⟨g, xj⟩ + 0 = n % 33554432 := by simp only [CJ.enc] at e ⊢; omega
  simp only [CJ.enc] at e
  have eg : n / 2097152 % 16 = g.enc := by omega
  have e0 : n % 64 = xj.val := by omega
  unfold CJ.dec
  rw [eg, Guard.dec_enc]; try rw [Option.bind_eq_bind]
  rw [Option.bind_some]
  rw [e0, decFin_val]; try rw [Option.bind_eq_bind]
  rw [Option.bind_some]
  exact if_pos et
theorem CWait.enc_lt (x : CWait) : x.enc < 33554432 := by
  obtain ⟨g, xn, xi⟩ := x
  have := Guard.enc_lt g; have := xn.isLt; have := xi.isLt
  simp only [CWait.enc]; omega
theorem CWait.dec_enc (n h : Nat) (x : CWait) (e : n = h * 33554432 + x.enc) : CWait.dec 0 n = some x := by
  obtain ⟨g, xn, xi⟩ := x
  have := Guard.enc_lt g; have := xn.isLt; have := xi.isLt
  have et : CWait.enc ⟨g, xn, xi⟩ + 0 = n % 33554432 := by simp only [CWait.enc] at e ⊢; omega
  simp only [CWait.enc] at e
  have eg : n / 2097152 % 16 = g.enc := by omega
  have e0 : n / 131072 % 16 = xn.val := by omega
  have e1 : n % 65536 = xi.toNat := by omega
  unfold CWait.dec
  rw [eg, Guard.dec_enc]; try rw [Option.bind_eq_bind]
  rw [Option.bind_some]
  rw [e0, decFin_val]; try rw [Option.bind_eq_bind]
  rw [Option.bind_some]
  rw [e1, bv_back]; try rw [Option.bind_eq_bind]
  rw [Option.bind_some]
  exact if_pos et
theorem CFence.enc_lt (x : CFence) : x.enc < 33554432 := by
  obtain ⟨g, xs⟩ := x
  have := Guard.enc_lt g; have := xs.isLt
  simp only [CFence.enc]; omega
theorem CFence.dec_enc (n h : Nat) (x : CFence) (e : n = h * 33554432 + x.enc) : CFence.dec 0 n = some x := by
  obtain ⟨g, xs⟩ := x
  have := Guard.enc_lt g; have := xs.isLt
  have et : CFence.enc ⟨g, xs⟩ + 0 = n % 33554432 := by simp only [CFence.enc] at e ⊢; omega
  simp only [CFence.enc] at e
  have eg : n / 2097152 % 16 = g.enc := by omega
  have e0 : n % 8 = xs.val := by omega
  unfold CFence.dec
  rw [eg, Guard.dec_enc]; try rw [Option.bind_eq_bind]
  rw [Option.bind_some]
  rw [e0, decFin_val]; try rw [Option.bind_eq_bind]
  rw [Option.bind_some]
  exact if_pos et
theorem CFence.enc_lt_8 (x : CFence) : 8 + x.enc < 33554432 := by
  obtain ⟨g, xs⟩ := x
  have := Guard.enc_lt g; have := xs.isLt
  simp only [CFence.enc]; omega
theorem CFence.dec_enc_8 (n h : Nat) (x : CFence) (e : n = h * 33554432 + 8 + x.enc) : CFence.dec 8 n = some x := by
  obtain ⟨g, xs⟩ := x
  have := Guard.enc_lt g; have := xs.isLt
  have et : CFence.enc ⟨g, xs⟩ + 8 = n % 33554432 := by simp only [CFence.enc] at e ⊢; omega
  simp only [CFence.enc] at e
  have eg : n / 2097152 % 16 = g.enc := by omega
  have e0 : n % 8 = xs.val := by omega
  unfold CFence.dec
  rw [eg, Guard.dec_enc]; try rw [Option.bind_eq_bind]
  rw [Option.bind_some]
  rw [e0, decFin_val]; try rw [Option.bind_eq_bind]
  rw [Option.bind_some]
  exact if_pos et
theorem CSrc.enc_lt (x : CSrc) : x.enc < 33554432 := by
  obtain ⟨g, xs⟩ := x
  have := Guard.enc_lt g; have := xs.isLt
  simp only [CSrc.enc]; omega
theorem CSrc.dec_enc (n h : Nat) (x : CSrc) (e : n = h * 33554432 + x.enc) : CSrc.dec 0 n = some x := by
  obtain ⟨g, xs⟩ := x
  have := Guard.enc_lt g; have := xs.isLt
  have et : CSrc.enc ⟨g, xs⟩ + 0 = n % 33554432 := by simp only [CSrc.enc] at e ⊢; omega
  simp only [CSrc.enc] at e
  have eg : n / 2097152 % 16 = g.enc := by omega
  have e0 : n / 2048 % 32 = xs.val := by omega
  unfold CSrc.dec
  rw [eg, Guard.dec_enc]; try rw [Option.bind_eq_bind]
  rw [Option.bind_some]
  rw [e0, decFin_val]; try rw [Option.bind_eq_bind]
  rw [Option.bind_some]
  exact if_pos et
theorem CGetm.enc_lt (x : CGetm) : x.enc < 33554432 := by
  obtain ⟨g, xn, xj⟩ := x
  have := Guard.enc_lt g; have := xn.isLt; have := xj.isLt
  simp only [CGetm.enc]; omega
theorem CGetm.dec_enc (n h : Nat) (x : CGetm) (e : n = h * 33554432 + x.enc) : CGetm.dec 0 n = some x := by
  obtain ⟨g, xn, xj⟩ := x
  have := Guard.enc_lt g; have := xn.isLt; have := xj.isLt
  have et : CGetm.enc ⟨g, xn, xj⟩ + 0 = n % 33554432 := by simp only [CGetm.enc] at e ⊢; omega
  simp only [CGetm.enc] at e
  have eg : n / 2097152 % 16 = g.enc := by omega
  have e0 : n / 65536 % 32 = xn.val := by omega
  have e1 : n % 64 = xj.val := by omega
  unfold CGetm.dec
  rw [eg, Guard.dec_enc]; try rw [Option.bind_eq_bind]
  rw [Option.bind_some]
  rw [e0, decFin_val]; try rw [Option.bind_eq_bind]
  rw [Option.bind_some]
  rw [e1, decFin_val]; try rw [Option.bind_eq_bind]
  rw [Option.bind_some]
  exact if_pos et
theorem CPutm.enc_lt (x : CPutm) : x.enc < 33554432 := by
  obtain ⟨g, xn, xj⟩ := x
  have := Guard.enc_lt g; have := xn.isLt; have := xj.isLt
  simp only [CPutm.enc]; omega
theorem CPutm.dec_enc (n h : Nat) (x : CPutm) (e : n = h * 33554432 + x.enc) : CPutm.dec 0 n = some x := by
  obtain ⟨g, xn, xj⟩ := x
  have := Guard.enc_lt g; have := xn.isLt; have := xj.isLt
  have et : CPutm.enc ⟨g, xn, xj⟩ + 0 = n % 33554432 := by simp only [CPutm.enc] at e ⊢; omega
  simp only [CPutm.enc] at e
  have eg : n / 2097152 % 16 = g.enc := by omega
  have e0 : n / 2048 % 32 = xn.val := by omega
  have e1 : n % 64 = xj.val := by omega
  unfold CPutm.dec
  rw [eg, Guard.dec_enc]; try rw [Option.bind_eq_bind]
  rw [Option.bind_some]
  rw [e0, decFin_val]; try rw [Option.bind_eq_bind]
  rw [Option.bind_some]
  rw [e1, decFin_val]; try rw [Option.bind_eq_bind]
  rw [Option.bind_some]
  exact if_pos et
theorem CXfer.enc_lt (x : CXfer) : x.enc < 33554432 := by
  obtain ⟨g, xr, xn, xf, xs⟩ := x
  have := Guard.enc_lt g; have := xr.isLt; have := xn.isLt; have := xf.isLt; have := xs.isLt
  simp only [CXfer.enc]; omega
theorem CXfer.dec_enc (n h : Nat) (x : CXfer) (e : n = h * 33554432 + x.enc) : CXfer.dec 0 n = some x := by
  obtain ⟨g, xr, xn, xf, xs⟩ := x
  have := Guard.enc_lt g; have := xr.isLt; have := xn.isLt; have := xf.isLt; have := xs.isLt
  have et : CXfer.enc ⟨g, xr, xn, xf, xs⟩ + 0 = n % 33554432 := by simp only [CXfer.enc] at e ⊢; omega
  simp only [CXfer.enc] at e
  have eg : n / 2097152 % 16 = g.enc := by omega
  have e0 : n / 65536 % 32 = xr.val := by omega
  have e1 : n / 8192 % 8 = xn.val := by omega
  have e2 : n / 64 % 32 = xf.val := by omega
  have e3 : n % 8 = xs.val := by omega
  unfold CXfer.dec
  rw [eg, Guard.dec_enc]; try rw [Option.bind_eq_bind]
  rw [Option.bind_some]
  rw [e0, decFin_val]; try rw [Option.bind_eq_bind]
  rw [Option.bind_some]
  rw [e1, decFin_val]; try rw [Option.bind_eq_bind]
  rw [Option.bind_some]
  rw [e2, decFin_val]; try rw [Option.bind_eq_bind]
  rw [Option.bind_some]
  rw [e3, decFin_val]; try rw [Option.bind_eq_bind]
  rw [Option.bind_some]
  exact if_pos et
theorem CBar.dec_sound (n : Nat) (x : CBar) (h : CBar.dec 0 n = some x) : x.enc + 0 = n % 33554432 := by
  unfold CBar.dec at h
  obtain ⟨_, _, h⟩ := Option.bind_eq_some_iff.1 h
  obtain ⟨_, _, h⟩ := Option.bind_eq_some_iff.1 h
  obtain ⟨_, _, h⟩ := Option.bind_eq_some_iff.1 h
  obtain ⟨_, _, h⟩ := Option.bind_eq_some_iff.1 h
  obtain ⟨_, _, h⟩ := Option.bind_eq_some_iff.1 h
  obtain ⟨e, e'⟩ := ite_some h
  subst e'; exact e
theorem CFence.dec_sound (n : Nat) (x : CFence) (h : CFence.dec 0 n = some x) : x.enc + 0 = n % 33554432 := by
  unfold CFence.dec at h
  obtain ⟨_, _, h⟩ := Option.bind_eq_some_iff.1 h
  obtain ⟨_, _, h⟩ := Option.bind_eq_some_iff.1 h
  obtain ⟨e, e'⟩ := ite_some h
  subst e'; exact e
theorem CFence.dec_sound_8 (n : Nat) (x : CFence) (h : CFence.dec 8 n = some x) : x.enc + 8 = n % 33554432 := by
  unfold CFence.dec at h
  obtain ⟨_, _, h⟩ := Option.bind_eq_some_iff.1 h
  obtain ⟨_, _, h⟩ := Option.bind_eq_some_iff.1 h
  obtain ⟨e, e'⟩ := ite_some h
  subst e'; exact e
theorem CFill.dec_sound (n : Nat) (x : CFill) (h : CFill.dec 0 n = some x) : x.enc + 0 = n % 33554432 := by
  unfold CFill.dec at h
  obtain ⟨_, _, h⟩ := Option.bind_eq_some_iff.1 h
  obtain ⟨_, _, h⟩ := Option.bind_eq_some_iff.1 h
  obtain ⟨_, _, h⟩ := Option.bind_eq_some_iff.1 h
  obtain ⟨e, e'⟩ := ite_some h
  subst e'; exact e
theorem CGet.dec_sound (n : Nat) (x : CGet) (h : CGet.dec 0 n = some x) : x.enc + 0 = n % 33554432 := by
  unfold CGet.dec at h
  obtain ⟨_, _, h⟩ := Option.bind_eq_some_iff.1 h
  obtain ⟨_, _, h⟩ := Option.bind_eq_some_iff.1 h
  obtain ⟨_, _, h⟩ := Option.bind_eq_some_iff.1 h
  obtain ⟨_, _, h⟩ := Option.bind_eq_some_iff.1 h
  obtain ⟨_, _, h⟩ := Option.bind_eq_some_iff.1 h
  obtain ⟨e, e'⟩ := ite_some h
  subst e'; exact e
theorem CGetm.dec_sound (n : Nat) (x : CGetm) (h : CGetm.dec 0 n = some x) : x.enc + 0 = n % 33554432 := by
  unfold CGetm.dec at h
  obtain ⟨_, _, h⟩ := Option.bind_eq_some_iff.1 h
  obtain ⟨_, _, h⟩ := Option.bind_eq_some_iff.1 h
  obtain ⟨_, _, h⟩ := Option.bind_eq_some_iff.1 h
  obtain ⟨e, e'⟩ := ite_some h
  subst e'; exact e
theorem CJ.dec_sound (n : Nat) (x : CJ) (h : CJ.dec 0 n = some x) : x.enc + 0 = n % 33554432 := by
  unfold CJ.dec at h
  obtain ⟨_, _, h⟩ := Option.bind_eq_some_iff.1 h
  obtain ⟨_, _, h⟩ := Option.bind_eq_some_iff.1 h
  obtain ⟨e, e'⟩ := ite_some h
  subst e'; exact e
theorem COne.dec_sound (n : Nat) (x : COne) (h : COne.dec 0 n = some x) : x.enc + 0 = n % 33554432 := by
  unfold COne.dec at h
  obtain ⟨_, _, h⟩ := Option.bind_eq_some_iff.1 h
  obtain ⟨_, _, h⟩ := Option.bind_eq_some_iff.1 h
  obtain ⟨e, e'⟩ := ite_some h
  subst e'; exact e
theorem CPost.dec_sound (n : Nat) (x : CPost) (h : CPost.dec 0 n = some x) : x.enc + 0 = n % 33554432 := by
  unfold CPost.dec at h
  obtain ⟨_, _, h⟩ := Option.bind_eq_some_iff.1 h
  obtain ⟨_, _, h⟩ := Option.bind_eq_some_iff.1 h
  obtain ⟨_, _, h⟩ := Option.bind_eq_some_iff.1 h
  obtain ⟨_, _, h⟩ := Option.bind_eq_some_iff.1 h
  obtain ⟨e, e'⟩ := ite_some h
  subst e'; exact e
theorem CPutm.dec_sound (n : Nat) (x : CPutm) (h : CPutm.dec 0 n = some x) : x.enc + 0 = n % 33554432 := by
  unfold CPutm.dec at h
  obtain ⟨_, _, h⟩ := Option.bind_eq_some_iff.1 h
  obtain ⟨_, _, h⟩ := Option.bind_eq_some_iff.1 h
  obtain ⟨_, _, h⟩ := Option.bind_eq_some_iff.1 h
  obtain ⟨e, e'⟩ := ite_some h
  subst e'; exact e
theorem CRed.dec_sound (n : Nat) (x : CRed) (h : CRed.dec 0 n = some x) : x.enc + 0 = n % 33554432 := by
  unfold CRed.dec at h
  obtain ⟨_, _, h⟩ := Option.bind_eq_some_iff.1 h
  obtain ⟨_, _, h⟩ := Option.bind_eq_some_iff.1 h
  obtain ⟨_, _, h⟩ := Option.bind_eq_some_iff.1 h
  obtain ⟨_, _, h⟩ := Option.bind_eq_some_iff.1 h
  obtain ⟨_, _, h⟩ := Option.bind_eq_some_iff.1 h
  obtain ⟨e, e'⟩ := ite_some h
  subst e'; exact e
theorem CSetI.dec_sound_1048576 (n : Nat) (x : CSetI) (h : CSetI.dec 1048576 n = some x) : x.enc + 1048576 = n % 33554432 := by
  unfold CSetI.dec at h
  obtain ⟨_, _, h⟩ := Option.bind_eq_some_iff.1 h
  obtain ⟨_, _, h⟩ := Option.bind_eq_some_iff.1 h
  obtain ⟨_, _, h⟩ := Option.bind_eq_some_iff.1 h
  obtain ⟨_, _, h⟩ := Option.bind_eq_some_iff.1 h
  obtain ⟨e, e'⟩ := ite_some h
  subst e'; exact e
theorem CSetR.dec_sound (n : Nat) (x : CSetR) (h : CSetR.dec 0 n = some x) : x.enc + 0 = n % 33554432 := by
  unfold CSetR.dec at h
  obtain ⟨_, _, h⟩ := Option.bind_eq_some_iff.1 h
  obtain ⟨_, _, h⟩ := Option.bind_eq_some_iff.1 h
  obtain ⟨_, _, h⟩ := Option.bind_eq_some_iff.1 h
  obtain ⟨_, _, h⟩ := Option.bind_eq_some_iff.1 h
  obtain ⟨e, e'⟩ := ite_some h
  subst e'; exact e
theorem CSrc.dec_sound (n : Nat) (x : CSrc) (h : CSrc.dec 0 n = some x) : x.enc + 0 = n % 33554432 := by
  unfold CSrc.dec at h
  obtain ⟨_, _, h⟩ := Option.bind_eq_some_iff.1 h
  obtain ⟨_, _, h⟩ := Option.bind_eq_some_iff.1 h
  obtain ⟨e, e'⟩ := ite_some h
  subst e'; exact e
theorem CTile.dec_sound (n : Nat) (x : CTile) (h : CTile.dec 0 n = some x) : x.enc + 0 = n % 33554432 := by
  unfold CTile.dec at h
  obtain ⟨_, _, h⟩ := Option.bind_eq_some_iff.1 h
  obtain ⟨_, _, h⟩ := Option.bind_eq_some_iff.1 h
  obtain ⟨_, _, h⟩ := Option.bind_eq_some_iff.1 h
  obtain ⟨_, _, h⟩ := Option.bind_eq_some_iff.1 h
  obtain ⟨_, _, h⟩ := Option.bind_eq_some_iff.1 h
  obtain ⟨e, e'⟩ := ite_some h
  subst e'; exact e
theorem CTwo.dec_sound (n : Nat) (x : CTwo) (h : CTwo.dec 0 n = some x) : x.enc + 0 = n % 33554432 := by
  unfold CTwo.dec at h
  obtain ⟨_, _, h⟩ := Option.bind_eq_some_iff.1 h
  obtain ⟨_, _, h⟩ := Option.bind_eq_some_iff.1 h
  obtain ⟨_, _, h⟩ := Option.bind_eq_some_iff.1 h
  obtain ⟨e, e'⟩ := ite_some h
  subst e'; exact e
theorem CTwo.dec_sound_1 (n : Nat) (x : CTwo) (h : CTwo.dec 1 n = some x) : x.enc + 1 = n % 33554432 := by
  unfold CTwo.dec at h
  obtain ⟨_, _, h⟩ := Option.bind_eq_some_iff.1 h
  obtain ⟨_, _, h⟩ := Option.bind_eq_some_iff.1 h
  obtain ⟨_, _, h⟩ := Option.bind_eq_some_iff.1 h
  obtain ⟨e, e'⟩ := ite_some h
  subst e'; exact e
theorem CWait.dec_sound (n : Nat) (x : CWait) (h : CWait.dec 0 n = some x) : x.enc + 0 = n % 33554432 := by
  unfold CWait.dec at h
  obtain ⟨_, _, h⟩ := Option.bind_eq_some_iff.1 h
  obtain ⟨_, _, h⟩ := Option.bind_eq_some_iff.1 h
  obtain ⟨_, _, h⟩ := Option.bind_eq_some_iff.1 h
  obtain ⟨e, e'⟩ := ite_some h
  subst e'; exact e
theorem CXfer.dec_sound (n : Nat) (x : CXfer) (h : CXfer.dec 0 n = some x) : x.enc + 0 = n % 33554432 := by
  unfold CXfer.dec at h
  obtain ⟨_, _, h⟩ := Option.bind_eq_some_iff.1 h
  obtain ⟨_, _, h⟩ := Option.bind_eq_some_iff.1 h
  obtain ⟨_, _, h⟩ := Option.bind_eq_some_iff.1 h
  obtain ⟨_, _, h⟩ := Option.bind_eq_some_iff.1 h
  obtain ⟨_, _, h⟩ := Option.bind_eq_some_iff.1 h
  obtain ⟨e, e'⟩ := ite_some h
  subst e'; exact e
theorem FBb.dec_sound (n : Nat) (x : FBb) (h : FBb.dec 0 n = some x) : x.enc + 0 = n % 67108864 := by
  unfold FBb.dec at h
  obtain ⟨_, _, h⟩ := Option.bind_eq_some_iff.1 h
  obtain ⟨_, _, h⟩ := Option.bind_eq_some_iff.1 h
  obtain ⟨e, e'⟩ := ite_some h
  subst e'; exact e
theorem FBt.dec_sound (n : Nat) (x : FBt) (h : FBt.dec 0 n = some x) : x.enc + 0 = n % 67108864 := by
  unfold FBt.dec at h
  obtain ⟨_, _, h⟩ := Option.bind_eq_some_iff.1 h
  obtain ⟨_, _, h⟩ := Option.bind_eq_some_iff.1 h
  obtain ⟨_, _, h⟩ := Option.bind_eq_some_iff.1 h
  obtain ⟨_, _, h⟩ := Option.bind_eq_some_iff.1 h
  obtain ⟨_, _, h⟩ := Option.bind_eq_some_iff.1 h
  obtain ⟨_, _, h⟩ := Option.bind_eq_some_iff.1 h
  obtain ⟨e, e'⟩ := ite_some h
  subst e'; exact e
theorem FCapq.dec_sound (n : Nat) (x : FCapq) (h : FCapq.dec 0 n = some x) : x.enc + 0 = n % 67108864 := by
  unfold FCapq.dec at h
  obtain ⟨_, _, h⟩ := Option.bind_eq_some_iff.1 h
  obtain ⟨_, _, h⟩ := Option.bind_eq_some_iff.1 h
  obtain ⟨_, _, h⟩ := Option.bind_eq_some_iff.1 h
  obtain ⟨e, e'⟩ := ite_some h
  subst e'; exact e
theorem FClk.dec_sound (n : Nat) (x : FClk) (h : FClk.dec 0 n = some x) : x.enc + 0 = n % 67108864 := by
  unfold FClk.dec at h
  obtain ⟨_, _, h⟩ := Option.bind_eq_some_iff.1 h
  obtain ⟨_, _, h⟩ := Option.bind_eq_some_iff.1 h
  obtain ⟨_, _, h⟩ := Option.bind_eq_some_iff.1 h
  obtain ⟨e, e'⟩ := ite_some h
  subst e'; exact e
theorem FCountBb.dec_sound (n : Nat) (x : FCountBb) (h : FCountBb.dec 0 n = some x) : x.enc + 0 = n % 67108864 := by
  unfold FCountBb.dec at h
  obtain ⟨_, _, h⟩ := Option.bind_eq_some_iff.1 h
  obtain ⟨_, _, h⟩ := Option.bind_eq_some_iff.1 h
  obtain ⟨_, _, h⟩ := Option.bind_eq_some_iff.1 h
  obtain ⟨e, e'⟩ := ite_some h
  subst e'; exact e
theorem FCountF.dec_sound (n : Nat) (x : FCountF) (h : FCountF.dec 0 n = some x) : x.enc + 0 = n % 67108864 := by
  unfold FCountF.dec at h
  obtain ⟨_, _, h⟩ := Option.bind_eq_some_iff.1 h
  obtain ⟨_, _, h⟩ := Option.bind_eq_some_iff.1 h
  obtain ⟨_, _, h⟩ := Option.bind_eq_some_iff.1 h
  obtain ⟨e, e'⟩ := ite_some h
  subst e'; exact e
theorem FCountLc.dec_sound (n : Nat) (x : FCountLc) (h : FCountLc.dec 0 n = some x) : x.enc + 0 = n % 67108864 := by
  unfold FCountLc.dec at h
  obtain ⟨_, _, h⟩ := Option.bind_eq_some_iff.1 h
  obtain ⟨_, _, h⟩ := Option.bind_eq_some_iff.1 h
  obtain ⟨_, _, h⟩ := Option.bind_eq_some_iff.1 h
  obtain ⟨e, e'⟩ := ite_some h
  subst e'; exact e
theorem FEpi.dec_sound (n : Nat) (x : FEpi) (h : FEpi.dec 0 n = some x) : x.enc + 0 = n % 67108864 := by
  unfold FEpi.dec at h
  obtain ⟨_, _, h⟩ := Option.bind_eq_some_iff.1 h
  obtain ⟨_, _, h⟩ := Option.bind_eq_some_iff.1 h
  obtain ⟨_, _, h⟩ := Option.bind_eq_some_iff.1 h
  obtain ⟨_, _, h⟩ := Option.bind_eq_some_iff.1 h
  obtain ⟨e, e'⟩ := ite_some h
  subst e'; exact e
theorem FFlagM.dec_sound (n : Nat) (x : FFlagM) (h : FFlagM.dec 0 n = some x) : x.enc + 0 = n % 67108864 := by
  unfold FFlagM.dec at h
  obtain ⟨_, _, h⟩ := Option.bind_eq_some_iff.1 h
  obtain ⟨_, _, h⟩ := Option.bind_eq_some_iff.1 h
  obtain ⟨_, _, h⟩ := Option.bind_eq_some_iff.1 h
  obtain ⟨e, e'⟩ := ite_some h
  subst e'; exact e
theorem FGetm.dec_sound (n : Nat) (x : FGetm) (h : FGetm.dec 0 n = some x) : x.enc + 0 = n % 67108864 := by
  unfold FGetm.dec at h
  obtain ⟨_, _, h⟩ := Option.bind_eq_some_iff.1 h
  obtain ⟨_, _, h⟩ := Option.bind_eq_some_iff.1 h
  obtain ⟨_, _, h⟩ := Option.bind_eq_some_iff.1 h
  obtain ⟨_, _, h⟩ := Option.bind_eq_some_iff.1 h
  obtain ⟨e, e'⟩ := ite_some h
  subst e'; exact e
theorem FImm.dec_sound (n : Nat) (x : FImm) (h : FImm.dec 0 n = some x) : x.enc + 0 = n % 67108864 := by
  unfold FImm.dec at h
  obtain ⟨_, _, h⟩ := Option.bind_eq_some_iff.1 h
  obtain ⟨_, _, h⟩ := Option.bind_eq_some_iff.1 h
  obtain ⟨e, e'⟩ := ite_some h
  subst e'; exact e
theorem FJump.dec_sound (n : Nat) (x : FJump) (h : FJump.dec 0 n = some x) : x.enc + 0 = n % 67108864 := by
  unfold FJump.dec at h
  obtain ⟨_, _, h⟩ := Option.bind_eq_some_iff.1 h
  obtain ⟨_, _, h⟩ := Option.bind_eq_some_iff.1 h
  obtain ⟨e, e'⟩ := ite_some h
  subst e'; exact e
theorem FLoop.dec_sound (n : Nat) (x : FLoop) (h : FLoop.dec 0 n = some x) : x.enc + 0 = n % 67108864 := by
  unfold FLoop.dec at h
  obtain ⟨_, _, h⟩ := Option.bind_eq_some_iff.1 h
  obtain ⟨_, _, h⟩ := Option.bind_eq_some_iff.1 h
  obtain ⟨_, _, h⟩ := Option.bind_eq_some_iff.1 h
  obtain ⟨e, e'⟩ := ite_some h
  subst e'; exact e
theorem FNone.dec_sound (n : Nat) (x : FNone) (h : FNone.dec 0 n = some x) : x.enc + 0 = n % 67108864 := by
  unfold FNone.dec at h
  obtain ⟨_, _, h⟩ := Option.bind_eq_some_iff.1 h
  obtain ⟨e, e'⟩ := ite_some h
  subst e'; exact e
theorem FPitchq.dec_sound (n : Nat) (x : FPitchq) (h : FPitchq.dec 0 n = some x) : x.enc + 0 = n % 67108864 := by
  unfold FPitchq.dec at h
  obtain ⟨_, _, h⟩ := Option.bind_eq_some_iff.1 h
  obtain ⟨_, _, h⟩ := Option.bind_eq_some_iff.1 h
  obtain ⟨_, _, h⟩ := Option.bind_eq_some_iff.1 h
  obtain ⟨e, e'⟩ := ite_some h
  subst e'; exact e
theorem FPostr.dec_sound (n : Nat) (x : FPostr) (h : FPostr.dec 0 n = some x) : x.enc + 0 = n % 67108864 := by
  unfold FPostr.dec at h
  obtain ⟨_, _, h⟩ := Option.bind_eq_some_iff.1 h
  obtain ⟨_, _, h⟩ := Option.bind_eq_some_iff.1 h
  obtain ⟨_, _, h⟩ := Option.bind_eq_some_iff.1 h
  obtain ⟨_, _, h⟩ := Option.bind_eq_some_iff.1 h
  obtain ⟨e, e'⟩ := ite_some h
  subst e'; exact e
theorem FPred.dec_sound (n : Nat) (x : FPred) (h : FPred.dec 0 n = some x) : x.enc + 0 = n % 67108864 := by
  unfold FPred.dec at h
  obtain ⟨_, _, h⟩ := Option.bind_eq_some_iff.1 h
  obtain ⟨_, _, h⟩ := Option.bind_eq_some_iff.1 h
  obtain ⟨e, e'⟩ := ite_some h
  subst e'; exact e
theorem FPrep.dec_sound (n : Nat) (x : FPrep) (h : FPrep.dec 0 n = some x) : x.enc + 0 = n % 67108864 := by
  unfold FPrep.dec at h
  obtain ⟨_, _, h⟩ := Option.bind_eq_some_iff.1 h
  obtain ⟨_, _, h⟩ := Option.bind_eq_some_iff.1 h
  obtain ⟨_, _, h⟩ := Option.bind_eq_some_iff.1 h
  obtain ⟨e, e'⟩ := ite_some h
  subst e'; exact e
theorem FPrepM.dec_sound (n : Nat) (x : FPrepM) (h : FPrepM.dec 0 n = some x) : x.enc + 0 = n % 67108864 := by
  unfold FPrepM.dec at h
  obtain ⟨_, _, h⟩ := Option.bind_eq_some_iff.1 h
  obtain ⟨_, _, h⟩ := Option.bind_eq_some_iff.1 h
  obtain ⟨_, _, h⟩ := Option.bind_eq_some_iff.1 h
  obtain ⟨e, e'⟩ := ite_some h
  subst e'; exact e
theorem FScope.dec_sound (n : Nat) (x : FScope) (h : FScope.dec 0 n = some x) : x.enc + 0 = n % 67108864 := by
  unfold FScope.dec at h
  obtain ⟨_, _, h⟩ := Option.bind_eq_some_iff.1 h
  obtain ⟨_, _, h⟩ := Option.bind_eq_some_iff.1 h
  obtain ⟨e, e'⟩ := ite_some h
  subst e'; exact e
theorem FScope.dec_sound_262144 (n : Nat) (x : FScope) (h : FScope.dec 262144 n = some x) : x.enc + 262144 = n % 67108864 := by
  unfold FScope.dec at h
  obtain ⟨_, _, h⟩ := Option.bind_eq_some_iff.1 h
  obtain ⟨_, _, h⟩ := Option.bind_eq_some_iff.1 h
  obtain ⟨e, e'⟩ := ite_some h
  subst e'; exact e
theorem FSeg.dec_sound (n : Nat) (x : FSeg) (h : FSeg.dec 0 n = some x) : x.enc + 0 = n % 67108864 := by
  unfold FSeg.dec at h
  obtain ⟨_, _, h⟩ := Option.bind_eq_some_iff.1 h
  obtain ⟨_, _, h⟩ := Option.bind_eq_some_iff.1 h
  obtain ⟨e, e'⟩ := ite_some h
  subst e'; exact e
theorem FSendS.dec_sound (n : Nat) (x : FSendS) (h : FSendS.dec 0 n = some x) : x.enc + 0 = n % 67108864 := by
  unfold FSendS.dec at h
  obtain ⟨_, _, h⟩ := Option.bind_eq_some_iff.1 h
  obtain ⟨_, _, h⟩ := Option.bind_eq_some_iff.1 h
  obtain ⟨_, _, h⟩ := Option.bind_eq_some_iff.1 h
  obtain ⟨e, e'⟩ := ite_some h
  subst e'; exact e
theorem FSpl.dec_sound (n : Nat) (x : FSpl) (h : FSpl.dec 0 n = some x) : x.enc + 0 = n % 67108864 := by
  unfold FSpl.dec at h
  obtain ⟨_, _, h⟩ := Option.bind_eq_some_iff.1 h
  obtain ⟨_, _, h⟩ := Option.bind_eq_some_iff.1 h
  obtain ⟨_, _, h⟩ := Option.bind_eq_some_iff.1 h
  obtain ⟨e, e'⟩ := ite_some h
  subst e'; exact e
theorem FTgt.dec_sound (n : Nat) (x : FTgt) (h : FTgt.dec 0 n = some x) : x.enc + 0 = n % 67108864 := by
  unfold FTgt.dec at h
  obtain ⟨_, _, h⟩ := Option.bind_eq_some_iff.1 h
  obtain ⟨_, _, h⟩ := Option.bind_eq_some_iff.1 h
  obtain ⟨e, e'⟩ := ite_some h
  subst e'; exact e
theorem FTlw.dec_sound (n : Nat) (x : FTlw) (h : FTlw.dec 0 n = some x) : x.enc + 0 = n % 67108864 := by
  unfold FTlw.dec at h
  obtain ⟨_, _, h⟩ := Option.bind_eq_some_iff.1 h
  obtain ⟨_, _, h⟩ := Option.bind_eq_some_iff.1 h
  obtain ⟨_, _, h⟩ := Option.bind_eq_some_iff.1 h
  obtain ⟨_, _, h⟩ := Option.bind_eq_some_iff.1 h
  obtain ⟨e, e'⟩ := ite_some h
  subst e'; exact e
theorem MCvt.dec_sound (n : Nat) (x : MCvt) (h : MCvt.dec 0 n = some x) : x.enc + 0 = n % 33554432 := by
  unfold MCvt.dec at h
  obtain ⟨_, _, h⟩ := Option.bind_eq_some_iff.1 h
  obtain ⟨_, _, h⟩ := Option.bind_eq_some_iff.1 h
  obtain ⟨_, _, h⟩ := Option.bind_eq_some_iff.1 h
  obtain ⟨_, _, h⟩ := Option.bind_eq_some_iff.1 h
  obtain ⟨_, _, h⟩ := Option.bind_eq_some_iff.1 h
  obtain ⟨_, _, h⟩ := Option.bind_eq_some_iff.1 h
  obtain ⟨e, e'⟩ := ite_some h
  subst e'; exact e
theorem MGetm.dec_sound (n : Nat) (x : MGetm) (h : MGetm.dec 0 n = some x) : x.enc + 0 = n % 33554432 := by
  unfold MGetm.dec at h
  obtain ⟨_, _, h⟩ := Option.bind_eq_some_iff.1 h
  obtain ⟨_, _, h⟩ := Option.bind_eq_some_iff.1 h
  obtain ⟨_, _, h⟩ := Option.bind_eq_some_iff.1 h
  obtain ⟨_, _, h⟩ := Option.bind_eq_some_iff.1 h
  obtain ⟨e, e'⟩ := ite_some h
  subst e'; exact e
theorem MInj.dec_sound (n : Nat) (x : MInj) (h : MInj.dec 0 n = some x) : x.enc + 0 = n % 33554432 := by
  unfold MInj.dec at h
  obtain ⟨_, _, h⟩ := Option.bind_eq_some_iff.1 h
  obtain ⟨_, _, h⟩ := Option.bind_eq_some_iff.1 h
  obtain ⟨_, _, h⟩ := Option.bind_eq_some_iff.1 h
  obtain ⟨_, _, h⟩ := Option.bind_eq_some_iff.1 h
  obtain ⟨_, _, h⟩ := Option.bind_eq_some_iff.1 h
  obtain ⟨_, _, h⟩ := Option.bind_eq_some_iff.1 h
  obtain ⟨e, e'⟩ := ite_some h
  subst e'; exact e
theorem MLoad.dec_sound (n : Nat) (x : MLoad) (h : MLoad.dec 0 n = some x) : x.enc + 0 = n % 33554432 := by
  unfold MLoad.dec at h
  obtain ⟨_, _, h⟩ := Option.bind_eq_some_iff.1 h
  obtain ⟨_, _, h⟩ := Option.bind_eq_some_iff.1 h
  obtain ⟨_, _, h⟩ := Option.bind_eq_some_iff.1 h
  obtain ⟨_, _, h⟩ := Option.bind_eq_some_iff.1 h
  obtain ⟨_, _, h⟩ := Option.bind_eq_some_iff.1 h
  obtain ⟨e, e'⟩ := ite_some h
  subst e'; exact e
theorem MMdset.dec_sound (n : Nat) (x : MMdset) (h : MMdset.dec 0 n = some x) : x.enc + 0 = n % 33554432 := by
  unfold MMdset.dec at h
  obtain ⟨_, _, h⟩ := Option.bind_eq_some_iff.1 h
  obtain ⟨_, _, h⟩ := Option.bind_eq_some_iff.1 h
  obtain ⟨_, _, h⟩ := Option.bind_eq_some_iff.1 h
  obtain ⟨_, _, h⟩ := Option.bind_eq_some_iff.1 h
  obtain ⟨e, e'⟩ := ite_some h
  subst e'; exact e
theorem MMir.dec_sound (n : Nat) (x : MMir) (h : MMir.dec 0 n = some x) : x.enc + 0 = n % 33554432 := by
  unfold MMir.dec at h
  obtain ⟨_, _, h⟩ := Option.bind_eq_some_iff.1 h
  obtain ⟨_, _, h⟩ := Option.bind_eq_some_iff.1 h
  obtain ⟨_, _, h⟩ := Option.bind_eq_some_iff.1 h
  obtain ⟨_, _, h⟩ := Option.bind_eq_some_iff.1 h
  obtain ⟨e, e'⟩ := ite_some h
  subst e'; exact e
theorem MMove.dec_sound (n : Nat) (x : MMove) (h : MMove.dec 0 n = some x) : x.enc + 0 = n % 33554432 := by
  unfold MMove.dec at h
  obtain ⟨_, _, h⟩ := Option.bind_eq_some_iff.1 h
  obtain ⟨_, _, h⟩ := Option.bind_eq_some_iff.1 h
  obtain ⟨_, _, h⟩ := Option.bind_eq_some_iff.1 h
  obtain ⟨_, _, h⟩ := Option.bind_eq_some_iff.1 h
  obtain ⟨e, e'⟩ := ite_some h
  subst e'; exact e
theorem MMul.dec_sound (n : Nat) (x : MMul) (h : MMul.dec 0 n = some x) : x.enc + 0 = n % 33554432 := by
  unfold MMul.dec at h
  obtain ⟨_, _, h⟩ := Option.bind_eq_some_iff.1 h
  obtain ⟨_, _, h⟩ := Option.bind_eq_some_iff.1 h
  obtain ⟨_, _, h⟩ := Option.bind_eq_some_iff.1 h
  obtain ⟨_, _, h⟩ := Option.bind_eq_some_iff.1 h
  obtain ⟨_, _, h⟩ := Option.bind_eq_some_iff.1 h
  obtain ⟨_, _, h⟩ := Option.bind_eq_some_iff.1 h
  obtain ⟨e, e'⟩ := ite_some h
  subst e'; exact e
theorem MMul.dec_sound_1 (n : Nat) (x : MMul) (h : MMul.dec 1 n = some x) : x.enc + 1 = n % 33554432 := by
  unfold MMul.dec at h
  obtain ⟨_, _, h⟩ := Option.bind_eq_some_iff.1 h
  obtain ⟨_, _, h⟩ := Option.bind_eq_some_iff.1 h
  obtain ⟨_, _, h⟩ := Option.bind_eq_some_iff.1 h
  obtain ⟨_, _, h⟩ := Option.bind_eq_some_iff.1 h
  obtain ⟨_, _, h⟩ := Option.bind_eq_some_iff.1 h
  obtain ⟨_, _, h⟩ := Option.bind_eq_some_iff.1 h
  obtain ⟨e, e'⟩ := ite_some h
  subst e'; exact e
theorem MN.dec_sound (n : Nat) (x : MN) (h : MN.dec 0 n = some x) : x.enc + 0 = n % 33554432 := by
  unfold MN.dec at h
  obtain ⟨_, _, h⟩ := Option.bind_eq_some_iff.1 h
  obtain ⟨_, _, h⟩ := Option.bind_eq_some_iff.1 h
  obtain ⟨e, e'⟩ := ite_some h
  subst e'; exact e
theorem MNest.dec_sound (n : Nat) (x : MNest) (h : MNest.dec 0 n = some x) : x.enc + 0 = n % 33554432 := by
  unfold MNest.dec at h
  obtain ⟨_, _, h⟩ := Option.bind_eq_some_iff.1 h
  obtain ⟨_, _, h⟩ := Option.bind_eq_some_iff.1 h
  obtain ⟨_, _, h⟩ := Option.bind_eq_some_iff.1 h
  obtain ⟨_, _, h⟩ := Option.bind_eq_some_iff.1 h
  obtain ⟨_, _, h⟩ := Option.bind_eq_some_iff.1 h
  obtain ⟨e, e'⟩ := ite_some h
  subst e'; exact e
theorem MNest.dec_sound_262144 (n : Nat) (x : MNest) (h : MNest.dec 262144 n = some x) : x.enc + 262144 = n % 33554432 := by
  unfold MNest.dec at h
  obtain ⟨_, _, h⟩ := Option.bind_eq_some_iff.1 h
  obtain ⟨_, _, h⟩ := Option.bind_eq_some_iff.1 h
  obtain ⟨_, _, h⟩ := Option.bind_eq_some_iff.1 h
  obtain ⟨_, _, h⟩ := Option.bind_eq_some_iff.1 h
  obtain ⟨_, _, h⟩ := Option.bind_eq_some_iff.1 h
  obtain ⟨e, e'⟩ := ite_some h
  subst e'; exact e
theorem MRead.dec_sound (n : Nat) (x : MRead) (h : MRead.dec 0 n = some x) : x.enc + 0 = n % 33554432 := by
  unfold MRead.dec at h
  obtain ⟨_, _, h⟩ := Option.bind_eq_some_iff.1 h
  obtain ⟨_, _, h⟩ := Option.bind_eq_some_iff.1 h
  obtain ⟨_, _, h⟩ := Option.bind_eq_some_iff.1 h
  obtain ⟨_, _, h⟩ := Option.bind_eq_some_iff.1 h
  obtain ⟨e, e'⟩ := ite_some h
  subst e'; exact e
theorem MScale.dec_sound_2 (n : Nat) (x : MScale) (h : MScale.dec 2 n = some x) : x.enc + 2 = n % 33554432 := by
  unfold MScale.dec at h
  obtain ⟨_, _, h⟩ := Option.bind_eq_some_iff.1 h
  obtain ⟨_, _, h⟩ := Option.bind_eq_some_iff.1 h
  obtain ⟨_, _, h⟩ := Option.bind_eq_some_iff.1 h
  obtain ⟨e, e'⟩ := ite_some h
  subst e'; exact e
theorem MStore.dec_sound (n : Nat) (x : MStore) (h : MStore.dec 0 n = some x) : x.enc + 0 = n % 33554432 := by
  unfold MStore.dec at h
  obtain ⟨_, _, h⟩ := Option.bind_eq_some_iff.1 h
  obtain ⟨_, _, h⟩ := Option.bind_eq_some_iff.1 h
  obtain ⟨_, _, h⟩ := Option.bind_eq_some_iff.1 h
  obtain ⟨e, e'⟩ := ite_some h
  subst e'; exact e
theorem MStore.dec_sound_1 (n : Nat) (x : MStore) (h : MStore.dec 1 n = some x) : x.enc + 1 = n % 33554432 := by
  unfold MStore.dec at h
  obtain ⟨_, _, h⟩ := Option.bind_eq_some_iff.1 h
  obtain ⟨_, _, h⟩ := Option.bind_eq_some_iff.1 h
  obtain ⟨_, _, h⟩ := Option.bind_eq_some_iff.1 h
  obtain ⟨e, e'⟩ := ite_some h
  subst e'; exact e
theorem MTag.dec_sound (n : Nat) (x : MTag) (h : MTag.dec 0 n = some x) : x.enc + 0 = n % 33554432 := by
  unfold MTag.dec at h
  obtain ⟨_, _, h⟩ := Option.bind_eq_some_iff.1 h
  obtain ⟨_, _, h⟩ := Option.bind_eq_some_iff.1 h
  obtain ⟨_, _, h⟩ := Option.bind_eq_some_iff.1 h
  obtain ⟨e, e'⟩ := ite_some h
  subst e'; exact e
theorem MTrans.dec_sound (n : Nat) (x : MTrans) (h : MTrans.dec 0 n = some x) : x.enc + 0 = n % 33554432 := by
  unfold MTrans.dec at h
  obtain ⟨_, _, h⟩ := Option.bind_eq_some_iff.1 h
  obtain ⟨_, _, h⟩ := Option.bind_eq_some_iff.1 h
  obtain ⟨_, _, h⟩ := Option.bind_eq_some_iff.1 h
  obtain ⟨_, _, h⟩ := Option.bind_eq_some_iff.1 h
  obtain ⟨e, e'⟩ := ite_some h
  subst e'; exact e
theorem MWm.dec_sound (n : Nat) (x : MWm) (h : MWm.dec 0 n = some x) : x.enc + 0 = n % 33554432 := by
  unfold MWm.dec at h
  obtain ⟨_, _, h⟩ := Option.bind_eq_some_iff.1 h
  obtain ⟨_, _, h⟩ := Option.bind_eq_some_iff.1 h
  obtain ⟨_, _, h⟩ := Option.bind_eq_some_iff.1 h
  obtain ⟨_, _, h⟩ := Option.bind_eq_some_iff.1 h
  obtain ⟨e, e'⟩ := ite_some h
  subst e'; exact e
theorem MXfer.dec_sound (n : Nat) (x : MXfer) (h : MXfer.dec 0 n = some x) : x.enc + 0 = n % 33554432 := by
  unfold MXfer.dec at h
  obtain ⟨_, _, h⟩ := Option.bind_eq_some_iff.1 h
  obtain ⟨_, _, h⟩ := Option.bind_eq_some_iff.1 h
  obtain ⟨_, _, h⟩ := Option.bind_eq_some_iff.1 h
  obtain ⟨_, _, h⟩ := Option.bind_eq_some_iff.1 h
  obtain ⟨e, e'⟩ := ite_some h
  subst e'; exact e
theorem MZ.dec_sound (n : Nat) (x : MZ) (h : MZ.dec 0 n = some x) : x.enc + 0 = n % 33554432 := by
  unfold MZ.dec at h
  obtain ⟨_, _, h⟩ := Option.bind_eq_some_iff.1 h
  obtain ⟨_, _, h⟩ := Option.bind_eq_some_iff.1 h
  obtain ⟨e, e'⟩ := ite_some h
  subst e'; exact e
theorem MZ.dec_sound_1 (n : Nat) (x : MZ) (h : MZ.dec 1 n = some x) : x.enc + 1 = n % 33554432 := by
  unfold MZ.dec at h
  obtain ⟨_, _, h⟩ := Option.bind_eq_some_iff.1 h
  obtain ⟨_, _, h⟩ := Option.bind_eq_some_iff.1 h
  obtain ⟨e, e'⟩ := ite_some h
  subst e'; exact e
theorem MZM.dec_sound (n : Nat) (x : MZM) (h : MZM.dec 0 n = some x) : x.enc + 0 = n % 33554432 := by
  unfold MZM.dec at h
  obtain ⟨_, _, h⟩ := Option.bind_eq_some_iff.1 h
  obtain ⟨_, _, h⟩ := Option.bind_eq_some_iff.1 h
  obtain ⟨_, _, h⟩ := Option.bind_eq_some_iff.1 h
  obtain ⟨e, e'⟩ := ite_some h
  subst e'; exact e
theorem PD.dec_sound (n : Nat) (x : PD) (h : PD.dec 0 n = some x) : x.enc + 0 = n % 33554432 := by
  unfold PD.dec at h
  obtain ⟨_, _, h⟩ := Option.bind_eq_some_iff.1 h
  obtain ⟨_, _, h⟩ := Option.bind_eq_some_iff.1 h
  obtain ⟨e, e'⟩ := ite_some h
  subst e'; exact e
theorem PDA.dec_sound (n : Nat) (x : PDA) (h : PDA.dec 0 n = some x) : x.enc + 0 = n % 33554432 := by
  unfold PDA.dec at h
  obtain ⟨_, _, h⟩ := Option.bind_eq_some_iff.1 h
  obtain ⟨_, _, h⟩ := Option.bind_eq_some_iff.1 h
  obtain ⟨_, _, h⟩ := Option.bind_eq_some_iff.1 h
  obtain ⟨e, e'⟩ := ite_some h
  subst e'; exact e
theorem PDA.dec_sound_1 (n : Nat) (x : PDA) (h : PDA.dec 1 n = some x) : x.enc + 1 = n % 33554432 := by
  unfold PDA.dec at h
  obtain ⟨_, _, h⟩ := Option.bind_eq_some_iff.1 h
  obtain ⟨_, _, h⟩ := Option.bind_eq_some_iff.1 h
  obtain ⟨_, _, h⟩ := Option.bind_eq_some_iff.1 h
  obtain ⟨e, e'⟩ := ite_some h
  subst e'; exact e
theorem PDA.dec_sound_2 (n : Nat) (x : PDA) (h : PDA.dec 2 n = some x) : x.enc + 2 = n % 33554432 := by
  unfold PDA.dec at h
  obtain ⟨_, _, h⟩ := Option.bind_eq_some_iff.1 h
  obtain ⟨_, _, h⟩ := Option.bind_eq_some_iff.1 h
  obtain ⟨_, _, h⟩ := Option.bind_eq_some_iff.1 h
  obtain ⟨e, e'⟩ := ite_some h
  subst e'; exact e
theorem PDAB.dec_sound (n : Nat) (x : PDAB) (h : PDAB.dec 0 n = some x) : x.enc + 0 = n % 33554432 := by
  unfold PDAB.dec at h
  obtain ⟨_, _, h⟩ := Option.bind_eq_some_iff.1 h
  obtain ⟨_, _, h⟩ := Option.bind_eq_some_iff.1 h
  obtain ⟨_, _, h⟩ := Option.bind_eq_some_iff.1 h
  obtain ⟨_, _, h⟩ := Option.bind_eq_some_iff.1 h
  obtain ⟨e, e'⟩ := ite_some h
  subst e'; exact e
theorem PDAB.dec_sound_1 (n : Nat) (x : PDAB) (h : PDAB.dec 1 n = some x) : x.enc + 1 = n % 33554432 := by
  unfold PDAB.dec at h
  obtain ⟨_, _, h⟩ := Option.bind_eq_some_iff.1 h
  obtain ⟨_, _, h⟩ := Option.bind_eq_some_iff.1 h
  obtain ⟨_, _, h⟩ := Option.bind_eq_some_iff.1 h
  obtain ⟨_, _, h⟩ := Option.bind_eq_some_iff.1 h
  obtain ⟨e, e'⟩ := ite_some h
  subst e'; exact e
theorem PDAB.dec_sound_2 (n : Nat) (x : PDAB) (h : PDAB.dec 2 n = some x) : x.enc + 2 = n % 33554432 := by
  unfold PDAB.dec at h
  obtain ⟨_, _, h⟩ := Option.bind_eq_some_iff.1 h
  obtain ⟨_, _, h⟩ := Option.bind_eq_some_iff.1 h
  obtain ⟨_, _, h⟩ := Option.bind_eq_some_iff.1 h
  obtain ⟨_, _, h⟩ := Option.bind_eq_some_iff.1 h
  obtain ⟨e, e'⟩ := ite_some h
  subst e'; exact e
theorem PDABn.dec_sound (n : Nat) (x : PDABn) (h : PDABn.dec 0 n = some x) : x.enc + 0 = n % 33554432 := by
  unfold PDABn.dec at h
  obtain ⟨_, _, h⟩ := Option.bind_eq_some_iff.1 h
  obtain ⟨_, _, h⟩ := Option.bind_eq_some_iff.1 h
  obtain ⟨_, _, h⟩ := Option.bind_eq_some_iff.1 h
  obtain ⟨_, _, h⟩ := Option.bind_eq_some_iff.1 h
  obtain ⟨_, _, h⟩ := Option.bind_eq_some_iff.1 h
  obtain ⟨e, e'⟩ := ite_some h
  subst e'; exact e
theorem PDABn.dec_sound_16 (n : Nat) (x : PDABn) (h : PDABn.dec 16 n = some x) : x.enc + 16 = n % 33554432 := by
  unfold PDABn.dec at h
  obtain ⟨_, _, h⟩ := Option.bind_eq_some_iff.1 h
  obtain ⟨_, _, h⟩ := Option.bind_eq_some_iff.1 h
  obtain ⟨_, _, h⟩ := Option.bind_eq_some_iff.1 h
  obtain ⟨_, _, h⟩ := Option.bind_eq_some_iff.1 h
  obtain ⟨_, _, h⟩ := Option.bind_eq_some_iff.1 h
  obtain ⟨e, e'⟩ := ite_some h
  subst e'; exact e
theorem PDABn.dec_sound_32 (n : Nat) (x : PDABn) (h : PDABn.dec 32 n = some x) : x.enc + 32 = n % 33554432 := by
  unfold PDABn.dec at h
  obtain ⟨_, _, h⟩ := Option.bind_eq_some_iff.1 h
  obtain ⟨_, _, h⟩ := Option.bind_eq_some_iff.1 h
  obtain ⟨_, _, h⟩ := Option.bind_eq_some_iff.1 h
  obtain ⟨_, _, h⟩ := Option.bind_eq_some_iff.1 h
  obtain ⟨_, _, h⟩ := Option.bind_eq_some_iff.1 h
  obtain ⟨e, e'⟩ := ite_some h
  subst e'; exact e
theorem PDABn.dec_sound_48 (n : Nat) (x : PDABn) (h : PDABn.dec 48 n = some x) : x.enc + 48 = n % 33554432 := by
  unfold PDABn.dec at h
  obtain ⟨_, _, h⟩ := Option.bind_eq_some_iff.1 h
  obtain ⟨_, _, h⟩ := Option.bind_eq_some_iff.1 h
  obtain ⟨_, _, h⟩ := Option.bind_eq_some_iff.1 h
  obtain ⟨_, _, h⟩ := Option.bind_eq_some_iff.1 h
  obtain ⟨_, _, h⟩ := Option.bind_eq_some_iff.1 h
  obtain ⟨e, e'⟩ := ite_some h
  subst e'; exact e
theorem PDAn.dec_sound (n : Nat) (x : PDAn) (h : PDAn.dec 0 n = some x) : x.enc + 0 = n % 33554432 := by
  unfold PDAn.dec at h
  obtain ⟨_, _, h⟩ := Option.bind_eq_some_iff.1 h
  obtain ⟨_, _, h⟩ := Option.bind_eq_some_iff.1 h
  obtain ⟨_, _, h⟩ := Option.bind_eq_some_iff.1 h
  obtain ⟨_, _, h⟩ := Option.bind_eq_some_iff.1 h
  obtain ⟨e, e'⟩ := ite_some h
  subst e'; exact e
theorem PDAn.dec_sound_16 (n : Nat) (x : PDAn) (h : PDAn.dec 16 n = some x) : x.enc + 16 = n % 33554432 := by
  unfold PDAn.dec at h
  obtain ⟨_, _, h⟩ := Option.bind_eq_some_iff.1 h
  obtain ⟨_, _, h⟩ := Option.bind_eq_some_iff.1 h
  obtain ⟨_, _, h⟩ := Option.bind_eq_some_iff.1 h
  obtain ⟨_, _, h⟩ := Option.bind_eq_some_iff.1 h
  obtain ⟨e, e'⟩ := ite_some h
  subst e'; exact e
theorem PDAn.dec_sound_32 (n : Nat) (x : PDAn) (h : PDAn.dec 32 n = some x) : x.enc + 32 = n % 33554432 := by
  unfold PDAn.dec at h
  obtain ⟨_, _, h⟩ := Option.bind_eq_some_iff.1 h
  obtain ⟨_, _, h⟩ := Option.bind_eq_some_iff.1 h
  obtain ⟨_, _, h⟩ := Option.bind_eq_some_iff.1 h
  obtain ⟨_, _, h⟩ := Option.bind_eq_some_iff.1 h
  obtain ⟨e, e'⟩ := ite_some h
  subst e'; exact e
theorem PDAn.dec_sound_48 (n : Nat) (x : PDAn) (h : PDAn.dec 48 n = some x) : x.enc + 48 = n % 33554432 := by
  unfold PDAn.dec at h
  obtain ⟨_, _, h⟩ := Option.bind_eq_some_iff.1 h
  obtain ⟨_, _, h⟩ := Option.bind_eq_some_iff.1 h
  obtain ⟨_, _, h⟩ := Option.bind_eq_some_iff.1 h
  obtain ⟨_, _, h⟩ := Option.bind_eq_some_iff.1 h
  obtain ⟨e, e'⟩ := ite_some h
  subst e'; exact e
theorem SAlu.dec_sound (n : Nat) (x : SAlu) (h : SAlu.dec 0 n = some x) : x.enc + 0 = n % 33554432 := by
  unfold SAlu.dec at h
  obtain ⟨_, _, h⟩ := Option.bind_eq_some_iff.1 h
  obtain ⟨_, _, h⟩ := Option.bind_eq_some_iff.1 h
  obtain ⟨_, _, h⟩ := Option.bind_eq_some_iff.1 h
  obtain ⟨_, _, h⟩ := Option.bind_eq_some_iff.1 h
  obtain ⟨_, _, h⟩ := Option.bind_eq_some_iff.1 h
  obtain ⟨e, e'⟩ := ite_some h
  subst e'; exact e
theorem SAmin.dec_sound (n : Nat) (x : SAmin) (h : SAmin.dec 0 n = some x) : x.enc + 0 = n % 33554432 := by
  unfold SAmin.dec at h
  obtain ⟨_, _, h⟩ := Option.bind_eq_some_iff.1 h
  obtain ⟨_, _, h⟩ := Option.bind_eq_some_iff.1 h
  obtain ⟨_, _, h⟩ := Option.bind_eq_some_iff.1 h
  obtain ⟨_, _, h⟩ := Option.bind_eq_some_iff.1 h
  obtain ⟨_, _, h⟩ := Option.bind_eq_some_iff.1 h
  obtain ⟨_, _, h⟩ := Option.bind_eq_some_iff.1 h
  obtain ⟨e, e'⟩ := ite_some h
  subst e'; exact e
theorem SCmp.dec_sound (n : Nat) (x : SCmp) (h : SCmp.dec 0 n = some x) : x.enc + 0 = n % 33554432 := by
  unfold SCmp.dec at h
  obtain ⟨_, _, h⟩ := Option.bind_eq_some_iff.1 h
  obtain ⟨_, _, h⟩ := Option.bind_eq_some_iff.1 h
  obtain ⟨_, _, h⟩ := Option.bind_eq_some_iff.1 h
  obtain ⟨_, _, h⟩ := Option.bind_eq_some_iff.1 h
  obtain ⟨_, _, h⟩ := Option.bind_eq_some_iff.1 h
  obtain ⟨e, e'⟩ := ite_some h
  subst e'; exact e
theorem SCmpi.dec_sound (n : Nat) (x : SCmpi) (h : SCmpi.dec 0 n = some x) : x.enc + 0 = n % 33554432 := by
  unfold SCmpi.dec at h
  obtain ⟨_, _, h⟩ := Option.bind_eq_some_iff.1 h
  obtain ⟨_, _, h⟩ := Option.bind_eq_some_iff.1 h
  obtain ⟨_, _, h⟩ := Option.bind_eq_some_iff.1 h
  obtain ⟨_, _, h⟩ := Option.bind_eq_some_iff.1 h
  obtain ⟨_, _, h⟩ := Option.bind_eq_some_iff.1 h
  obtain ⟨_, _, h⟩ := Option.bind_eq_some_iff.1 h
  obtain ⟨e, e'⟩ := ite_some h
  subst e'; exact e
theorem SFcmp.dec_sound (n : Nat) (x : SFcmp) (h : SFcmp.dec 0 n = some x) : x.enc + 0 = n % 33554432 := by
  unfold SFcmp.dec at h
  obtain ⟨_, _, h⟩ := Option.bind_eq_some_iff.1 h
  obtain ⟨_, _, h⟩ := Option.bind_eq_some_iff.1 h
  obtain ⟨_, _, h⟩ := Option.bind_eq_some_iff.1 h
  obtain ⟨_, _, h⟩ := Option.bind_eq_some_iff.1 h
  obtain ⟨_, _, h⟩ := Option.bind_eq_some_iff.1 h
  obtain ⟨_, _, h⟩ := Option.bind_eq_some_iff.1 h
  obtain ⟨e, e'⟩ := ite_some h
  subst e'; exact e
theorem SFcvt.dec_sound (n : Nat) (x : SFcvt) (h : SFcvt.dec 0 n = some x) : x.enc + 0 = n % 33554432 := by
  unfold SFcvt.dec at h
  obtain ⟨_, _, h⟩ := Option.bind_eq_some_iff.1 h
  obtain ⟨_, _, h⟩ := Option.bind_eq_some_iff.1 h
  obtain ⟨_, _, h⟩ := Option.bind_eq_some_iff.1 h
  obtain ⟨_, _, h⟩ := Option.bind_eq_some_iff.1 h
  obtain ⟨_, _, h⟩ := Option.bind_eq_some_iff.1 h
  obtain ⟨_, _, h⟩ := Option.bind_eq_some_iff.1 h
  obtain ⟨e, e'⟩ := ite_some h
  subst e'; exact e
theorem SFlt2.dec_sound (n : Nat) (x : SFlt2) (h : SFlt2.dec 0 n = some x) : x.enc + 0 = n % 33554432 := by
  unfold SFlt2.dec at h
  obtain ⟨_, _, h⟩ := Option.bind_eq_some_iff.1 h
  obtain ⟨_, _, h⟩ := Option.bind_eq_some_iff.1 h
  obtain ⟨_, _, h⟩ := Option.bind_eq_some_iff.1 h
  obtain ⟨_, _, h⟩ := Option.bind_eq_some_iff.1 h
  obtain ⟨_, _, h⟩ := Option.bind_eq_some_iff.1 h
  obtain ⟨e, e'⟩ := ite_some h
  subst e'; exact e
theorem SFlt3.dec_sound (n : Nat) (x : SFlt3) (h : SFlt3.dec 0 n = some x) : x.enc + 0 = n % 33554432 := by
  unfold SFlt3.dec at h
  obtain ⟨_, _, h⟩ := Option.bind_eq_some_iff.1 h
  obtain ⟨_, _, h⟩ := Option.bind_eq_some_iff.1 h
  obtain ⟨_, _, h⟩ := Option.bind_eq_some_iff.1 h
  obtain ⟨_, _, h⟩ := Option.bind_eq_some_iff.1 h
  obtain ⟨_, _, h⟩ := Option.bind_eq_some_iff.1 h
  obtain ⟨_, _, h⟩ := Option.bind_eq_some_iff.1 h
  obtain ⟨e, e'⟩ := ite_some h
  subst e'; exact e
theorem SFmin.dec_sound (n : Nat) (x : SFmin) (h : SFmin.dec 0 n = some x) : x.enc + 0 = n % 33554432 := by
  unfold SFmin.dec at h
  obtain ⟨_, _, h⟩ := Option.bind_eq_some_iff.1 h
  obtain ⟨_, _, h⟩ := Option.bind_eq_some_iff.1 h
  obtain ⟨_, _, h⟩ := Option.bind_eq_some_iff.1 h
  obtain ⟨_, _, h⟩ := Option.bind_eq_some_iff.1 h
  obtain ⟨_, _, h⟩ := Option.bind_eq_some_iff.1 h
  obtain ⟨e, e'⟩ := ite_some h
  subst e'; exact e
theorem SGetm.dec_sound (n : Nat) (x : SGetm) (h : SGetm.dec 0 n = some x) : x.enc + 0 = n % 33554432 := by
  unfold SGetm.dec at h
  obtain ⟨_, _, h⟩ := Option.bind_eq_some_iff.1 h
  obtain ⟨_, _, h⟩ := Option.bind_eq_some_iff.1 h
  obtain ⟨_, _, h⟩ := Option.bind_eq_some_iff.1 h
  obtain ⟨_, _, h⟩ := Option.bind_eq_some_iff.1 h
  obtain ⟨e, e'⟩ := ite_some h
  subst e'; exact e
theorem SImm.dec_sound (n : Nat) (x : SImm) (h : SImm.dec 0 n = some x) : x.enc + 0 = n % 33554432 := by
  unfold SImm.dec at h
  obtain ⟨_, _, h⟩ := Option.bind_eq_some_iff.1 h
  obtain ⟨_, _, h⟩ := Option.bind_eq_some_iff.1 h
  obtain ⟨_, _, h⟩ := Option.bind_eq_some_iff.1 h
  obtain ⟨_, _, h⟩ := Option.bind_eq_some_iff.1 h
  obtain ⟨e, e'⟩ := ite_some h
  subst e'; exact e
theorem SInv.dec_sound (n : Nat) (x : SInv) (h : SInv.dec 0 n = some x) : x.enc + 0 = n % 33554432 := by
  unfold SInv.dec at h
  obtain ⟨_, _, h⟩ := Option.bind_eq_some_iff.1 h
  obtain ⟨_, _, h⟩ := Option.bind_eq_some_iff.1 h
  obtain ⟨_, _, h⟩ := Option.bind_eq_some_iff.1 h
  obtain ⟨e, e'⟩ := ite_some h
  subst e'; exact e
theorem SMem.dec_sound (n : Nat) (x : SMem) (h : SMem.dec 0 n = some x) : x.enc + 0 = n % 33554432 := by
  unfold SMem.dec at h
  obtain ⟨_, _, h⟩ := Option.bind_eq_some_iff.1 h
  obtain ⟨_, _, h⟩ := Option.bind_eq_some_iff.1 h
  obtain ⟨_, _, h⟩ := Option.bind_eq_some_iff.1 h
  obtain ⟨_, _, h⟩ := Option.bind_eq_some_iff.1 h
  obtain ⟨_, _, h⟩ := Option.bind_eq_some_iff.1 h
  obtain ⟨e, e'⟩ := ite_some h
  subst e'; exact e
theorem SMfs.dec_sound (n : Nat) (x : SMfs) (h : SMfs.dec 0 n = some x) : x.enc + 0 = n % 33554432 := by
  unfold SMfs.dec at h
  obtain ⟨_, _, h⟩ := Option.bind_eq_some_iff.1 h
  obtain ⟨_, _, h⟩ := Option.bind_eq_some_iff.1 h
  obtain ⟨_, _, h⟩ := Option.bind_eq_some_iff.1 h
  obtain ⟨e, e'⟩ := ite_some h
  subst e'; exact e
theorem SMts.dec_sound (n : Nat) (x : SMts) (h : SMts.dec 0 n = some x) : x.enc + 0 = n % 33554432 := by
  unfold SMts.dec at h
  obtain ⟨_, _, h⟩ := Option.bind_eq_some_iff.1 h
  obtain ⟨_, _, h⟩ := Option.bind_eq_some_iff.1 h
  obtain ⟨_, _, h⟩ := Option.bind_eq_some_iff.1 h
  obtain ⟨e, e'⟩ := ite_some h
  subst e'; exact e
theorem SNone.dec_sound (n : Nat) (x : SNone) (h : SNone.dec 0 n = some x) : x.enc + 0 = n % 33554432 := by
  unfold SNone.dec at h
  obtain ⟨_, _, h⟩ := Option.bind_eq_some_iff.1 h
  obtain ⟨e, e'⟩ := ite_some h
  subst e'; exact e
theorem SPred2.dec_sound (n : Nat) (x : SPred2) (h : SPred2.dec 0 n = some x) : x.enc + 0 = n % 33554432 := by
  unfold SPred2.dec at h
  obtain ⟨_, _, h⟩ := Option.bind_eq_some_iff.1 h
  obtain ⟨_, _, h⟩ := Option.bind_eq_some_iff.1 h
  obtain ⟨_, _, h⟩ := Option.bind_eq_some_iff.1 h
  obtain ⟨e, e'⟩ := ite_some h
  subst e'; exact e
theorem SPred3.dec_sound (n : Nat) (x : SPred3) (h : SPred3.dec 0 n = some x) : x.enc + 0 = n % 33554432 := by
  unfold SPred3.dec at h
  obtain ⟨_, _, h⟩ := Option.bind_eq_some_iff.1 h
  obtain ⟨_, _, h⟩ := Option.bind_eq_some_iff.1 h
  obtain ⟨_, _, h⟩ := Option.bind_eq_some_iff.1 h
  obtain ⟨_, _, h⟩ := Option.bind_eq_some_iff.1 h
  obtain ⟨e, e'⟩ := ite_some h
  subst e'; exact e
theorem SPutm.dec_sound (n : Nat) (x : SPutm) (h : SPutm.dec 0 n = some x) : x.enc + 0 = n % 33554432 := by
  unfold SPutm.dec at h
  obtain ⟨_, _, h⟩ := Option.bind_eq_some_iff.1 h
  obtain ⟨_, _, h⟩ := Option.bind_eq_some_iff.1 h
  obtain ⟨_, _, h⟩ := Option.bind_eq_some_iff.1 h
  obtain ⟨_, _, h⟩ := Option.bind_eq_some_iff.1 h
  obtain ⟨e, e'⟩ := ite_some h
  subst e'; exact e
theorem SSel.dec_sound (n : Nat) (x : SSel) (h : SSel.dec 0 n = some x) : x.enc + 0 = n % 33554432 := by
  unfold SSel.dec at h
  obtain ⟨_, _, h⟩ := Option.bind_eq_some_iff.1 h
  obtain ⟨_, _, h⟩ := Option.bind_eq_some_iff.1 h
  obtain ⟨_, _, h⟩ := Option.bind_eq_some_iff.1 h
  obtain ⟨_, _, h⟩ := Option.bind_eq_some_iff.1 h
  obtain ⟨_, _, h⟩ := Option.bind_eq_some_iff.1 h
  obtain ⟨_, _, h⟩ := Option.bind_eq_some_iff.1 h
  obtain ⟨e, e'⟩ := ite_some h
  subst e'; exact e
theorem SUn.dec_sound (n : Nat) (x : SUn) (h : SUn.dec 0 n = some x) : x.enc + 0 = n % 33554432 := by
  unfold SUn.dec at h
  obtain ⟨_, _, h⟩ := Option.bind_eq_some_iff.1 h
  obtain ⟨_, _, h⟩ := Option.bind_eq_some_iff.1 h
  obtain ⟨_, _, h⟩ := Option.bind_eq_some_iff.1 h
  obtain ⟨_, _, h⟩ := Option.bind_eq_some_iff.1 h
  obtain ⟨e, e'⟩ := ite_some h
  subst e'; exact e
theorem SXfer.dec_sound (n : Nat) (x : SXfer) (h : SXfer.dec 0 n = some x) : x.enc + 0 = n % 33554432 := by
  unfold SXfer.dec at h
  obtain ⟨_, _, h⟩ := Option.bind_eq_some_iff.1 h
  obtain ⟨_, _, h⟩ := Option.bind_eq_some_iff.1 h
  obtain ⟨_, _, h⟩ := Option.bind_eq_some_iff.1 h
  obtain ⟨_, _, h⟩ := Option.bind_eq_some_iff.1 h
  obtain ⟨_, _, h⟩ := Option.bind_eq_some_iff.1 h
  obtain ⟨e, e'⟩ := ite_some h
  subst e'; exact e
theorem VAtom.dec_sound (n : Nat) (x : VAtom) (h : VAtom.dec 0 n = some x) : x.enc + 0 = n % 33554432 := by
  unfold VAtom.dec at h
  obtain ⟨_, _, h⟩ := Option.bind_eq_some_iff.1 h
  obtain ⟨_, _, h⟩ := Option.bind_eq_some_iff.1 h
  obtain ⟨_, _, h⟩ := Option.bind_eq_some_iff.1 h
  obtain ⟨_, _, h⟩ := Option.bind_eq_some_iff.1 h
  obtain ⟨_, _, h⟩ := Option.bind_eq_some_iff.1 h
  obtain ⟨e, e'⟩ := ite_some h
  subst e'; exact e
theorem VBcast.dec_sound (n : Nat) (x : VBcast) (h : VBcast.dec 0 n = some x) : x.enc + 0 = n % 33554432 := by
  unfold VBcast.dec at h
  obtain ⟨_, _, h⟩ := Option.bind_eq_some_iff.1 h
  obtain ⟨_, _, h⟩ := Option.bind_eq_some_iff.1 h
  obtain ⟨_, _, h⟩ := Option.bind_eq_some_iff.1 h
  obtain ⟨_, _, h⟩ := Option.bind_eq_some_iff.1 h
  obtain ⟨e, e'⟩ := ite_some h
  subst e'; exact e
theorem VBfx.dec_sound (n : Nat) (x : VBfx) (h : VBfx.dec 0 n = some x) : x.enc + 0 = n % 33554432 := by
  unfold VBfx.dec at h
  obtain ⟨_, _, h⟩ := Option.bind_eq_some_iff.1 h
  obtain ⟨_, _, h⟩ := Option.bind_eq_some_iff.1 h
  obtain ⟨_, _, h⟩ := Option.bind_eq_some_iff.1 h
  obtain ⟨_, _, h⟩ := Option.bind_eq_some_iff.1 h
  obtain ⟨_, _, h⟩ := Option.bind_eq_some_iff.1 h
  obtain ⟨e, e'⟩ := ite_some h
  subst e'; exact e
theorem VCmp.dec_sound (n : Nat) (x : VCmp) (h : VCmp.dec 0 n = some x) : x.enc + 0 = n % 33554432 := by
  unfold VCmp.dec at h
  obtain ⟨_, _, h⟩ := Option.bind_eq_some_iff.1 h
  obtain ⟨_, _, h⟩ := Option.bind_eq_some_iff.1 h
  obtain ⟨_, _, h⟩ := Option.bind_eq_some_iff.1 h
  obtain ⟨_, _, h⟩ := Option.bind_eq_some_iff.1 h
  obtain ⟨_, _, h⟩ := Option.bind_eq_some_iff.1 h
  obtain ⟨e, e'⟩ := ite_some h
  subst e'; exact e
theorem VCvt.dec_sound (n : Nat) (x : VCvt) (h : VCvt.dec 0 n = some x) : x.enc + 0 = n % 33554432 := by
  unfold VCvt.dec at h
  obtain ⟨_, _, h⟩ := Option.bind_eq_some_iff.1 h
  obtain ⟨_, _, h⟩ := Option.bind_eq_some_iff.1 h
  obtain ⟨_, _, h⟩ := Option.bind_eq_some_iff.1 h
  obtain ⟨_, _, h⟩ := Option.bind_eq_some_iff.1 h
  obtain ⟨_, _, h⟩ := Option.bind_eq_some_iff.1 h
  obtain ⟨_, _, h⟩ := Option.bind_eq_some_iff.1 h
  obtain ⟨_, _, h⟩ := Option.bind_eq_some_iff.1 h
  obtain ⟨e, e'⟩ := ite_some h
  subst e'; exact e
theorem VD.dec_sound_16 (n : Nat) (x : VD) (h : VD.dec 16 n = some x) : x.enc + 16 = n % 33554432 := by
  unfold VD.dec at h
  obtain ⟨_, _, h⟩ := Option.bind_eq_some_iff.1 h
  obtain ⟨_, _, h⟩ := Option.bind_eq_some_iff.1 h
  obtain ⟨e, e'⟩ := ite_some h
  subst e'; exact e
theorem VD.dec_sound_17 (n : Nat) (x : VD) (h : VD.dec 17 n = some x) : x.enc + 17 = n % 33554432 := by
  unfold VD.dec at h
  obtain ⟨_, _, h⟩ := Option.bind_eq_some_iff.1 h
  obtain ⟨_, _, h⟩ := Option.bind_eq_some_iff.1 h
  obtain ⟨e, e'⟩ := ite_some h
  subst e'; exact e
theorem VEf.dec_sound (n : Nat) (x : VEf) (h : VEf.dec 0 n = some x) : x.enc + 0 = n % 33554432 := by
  unfold VEf.dec at h
  obtain ⟨_, _, h⟩ := Option.bind_eq_some_iff.1 h
  obtain ⟨_, _, h⟩ := Option.bind_eq_some_iff.1 h
  obtain ⟨e, e'⟩ := ite_some h
  subst e'; exact e
theorem VEfg.dec_sound (n : Nat) (x : VEfg) (h : VEfg.dec 0 n = some x) : x.enc + 0 = n % 33554432 := by
  unfold VEfg.dec at h
  obtain ⟨_, _, h⟩ := Option.bind_eq_some_iff.1 h
  obtain ⟨_, _, h⟩ := Option.bind_eq_some_iff.1 h
  obtain ⟨_, _, h⟩ := Option.bind_eq_some_iff.1 h
  obtain ⟨e, e'⟩ := ite_some h
  subst e'; exact e
theorem VEfp.dec_sound (n : Nat) (x : VEfp) (h : VEfp.dec 0 n = some x) : x.enc + 0 = n % 33554432 := by
  unfold VEfp.dec at h
  obtain ⟨_, _, h⟩ := Option.bind_eq_some_iff.1 h
  obtain ⟨_, _, h⟩ := Option.bind_eq_some_iff.1 h
  obtain ⟨_, _, h⟩ := Option.bind_eq_some_iff.1 h
  obtain ⟨e, e'⟩ := ite_some h
  subst e'; exact e
theorem VFmt.dec_sound (n : Nat) (x : VFmt) (h : VFmt.dec 0 n = some x) : x.enc + 0 = n % 33554432 := by
  unfold VFmt.dec at h
  obtain ⟨_, _, h⟩ := Option.bind_eq_some_iff.1 h
  obtain ⟨_, _, h⟩ := Option.bind_eq_some_iff.1 h
  obtain ⟨_, _, h⟩ := Option.bind_eq_some_iff.1 h
  obtain ⟨e, e'⟩ := ite_some h
  subst e'; exact e
theorem VFromP.dec_sound_1 (n : Nat) (x : VFromP) (h : VFromP.dec 1 n = some x) : x.enc + 1 = n % 33554432 := by
  unfold VFromP.dec at h
  obtain ⟨_, _, h⟩ := Option.bind_eq_some_iff.1 h
  obtain ⟨_, _, h⟩ := Option.bind_eq_some_iff.1 h
  obtain ⟨_, _, h⟩ := Option.bind_eq_some_iff.1 h
  obtain ⟨e, e'⟩ := ite_some h
  subst e'; exact e
theorem VFun.dec_sound_40 (n : Nat) (x : VFun) (h : VFun.dec 40 n = some x) : x.enc + 40 = n % 33554432 := by
  unfold VFun.dec at h
  obtain ⟨_, _, h⟩ := Option.bind_eq_some_iff.1 h
  obtain ⟨_, _, h⟩ := Option.bind_eq_some_iff.1 h
  obtain ⟨_, _, h⟩ := Option.bind_eq_some_iff.1 h
  obtain ⟨_, _, h⟩ := Option.bind_eq_some_iff.1 h
  obtain ⟨e, e'⟩ := ite_some h
  subst e'; exact e
theorem VGetm.dec_sound (n : Nat) (x : VGetm) (h : VGetm.dec 0 n = some x) : x.enc + 0 = n % 33554432 := by
  unfold VGetm.dec at h
  obtain ⟨_, _, h⟩ := Option.bind_eq_some_iff.1 h
  obtain ⟨_, _, h⟩ := Option.bind_eq_some_iff.1 h
  obtain ⟨_, _, h⟩ := Option.bind_eq_some_iff.1 h
  obtain ⟨e, e'⟩ := ite_some h
  subst e'; exact e
theorem VPack.dec_sound (n : Nat) (x : VPack) (h : VPack.dec 0 n = some x) : x.enc + 0 = n % 33554432 := by
  unfold VPack.dec at h
  obtain ⟨_, _, h⟩ := Option.bind_eq_some_iff.1 h
  obtain ⟨_, _, h⟩ := Option.bind_eq_some_iff.1 h
  obtain ⟨_, _, h⟩ := Option.bind_eq_some_iff.1 h
  obtain ⟨_, _, h⟩ := Option.bind_eq_some_iff.1 h
  obtain ⟨_, _, h⟩ := Option.bind_eq_some_iff.1 h
  obtain ⟨_, _, h⟩ := Option.bind_eq_some_iff.1 h
  obtain ⟨_, _, h⟩ := Option.bind_eq_some_iff.1 h
  obtain ⟨e, e'⟩ := ite_some h
  subst e'; exact e
theorem VPutm.dec_sound (n : Nat) (x : VPutm) (h : VPutm.dec 0 n = some x) : x.enc + 0 = n % 33554432 := by
  unfold VPutm.dec at h
  obtain ⟨_, _, h⟩ := Option.bind_eq_some_iff.1 h
  obtain ⟨_, _, h⟩ := Option.bind_eq_some_iff.1 h
  obtain ⟨_, _, h⟩ := Option.bind_eq_some_iff.1 h
  obtain ⟨e, e'⟩ := ite_some h
  subst e'; exact e
theorem VR.dec_sound (n : Nat) (x : VR) (h : VR.dec 0 n = some x) : x.enc + 0 = n % 33554432 := by
  unfold VR.dec at h
  obtain ⟨_, _, h⟩ := Option.bind_eq_some_iff.1 h
  obtain ⟨_, _, h⟩ := Option.bind_eq_some_iff.1 h
  obtain ⟨_, _, h⟩ := Option.bind_eq_some_iff.1 h
  obtain ⟨e, e'⟩ := ite_some h
  subst e'; exact e
theorem VRR.dec_sound (n : Nat) (x : VRR) (h : VRR.dec 0 n = some x) : x.enc + 0 = n % 33554432 := by
  unfold VRR.dec at h
  obtain ⟨_, _, h⟩ := Option.bind_eq_some_iff.1 h
  obtain ⟨_, _, h⟩ := Option.bind_eq_some_iff.1 h
  obtain ⟨_, _, h⟩ := Option.bind_eq_some_iff.1 h
  obtain ⟨_, _, h⟩ := Option.bind_eq_some_iff.1 h
  obtain ⟨e, e'⟩ := ite_some h
  subst e'; exact e
theorem VSel.dec_sound (n : Nat) (x : VSel) (h : VSel.dec 0 n = some x) : x.enc + 0 = n % 33554432 := by
  unfold VSel.dec at h
  obtain ⟨_, _, h⟩ := Option.bind_eq_some_iff.1 h
  obtain ⟨_, _, h⟩ := Option.bind_eq_some_iff.1 h
  obtain ⟨_, _, h⟩ := Option.bind_eq_some_iff.1 h
  obtain ⟨_, _, h⟩ := Option.bind_eq_some_iff.1 h
  obtain ⟨_, _, h⟩ := Option.bind_eq_some_iff.1 h
  obtain ⟨e, e'⟩ := ite_some h
  subst e'; exact e
theorem VSlide.dec_sound (n : Nat) (x : VSlide) (h : VSlide.dec 0 n = some x) : x.enc + 0 = n % 33554432 := by
  unfold VSlide.dec at h
  obtain ⟨_, _, h⟩ := Option.bind_eq_some_iff.1 h
  obtain ⟨_, _, h⟩ := Option.bind_eq_some_iff.1 h
  obtain ⟨_, _, h⟩ := Option.bind_eq_some_iff.1 h
  obtain ⟨_, _, h⟩ := Option.bind_eq_some_iff.1 h
  obtain ⟨_, _, h⟩ := Option.bind_eq_some_iff.1 h
  obtain ⟨e, e'⟩ := ite_some h
  subst e'; exact e
theorem VTbl.dec_sound (n : Nat) (x : VTbl) (h : VTbl.dec 0 n = some x) : x.enc + 0 = n % 33554432 := by
  unfold VTbl.dec at h
  obtain ⟨_, _, h⟩ := Option.bind_eq_some_iff.1 h
  obtain ⟨_, _, h⟩ := Option.bind_eq_some_iff.1 h
  obtain ⟨_, _, h⟩ := Option.bind_eq_some_iff.1 h
  obtain ⟨_, _, h⟩ := Option.bind_eq_some_iff.1 h
  obtain ⟨_, _, h⟩ := Option.bind_eq_some_iff.1 h
  obtain ⟨e, e'⟩ := ite_some h
  subst e'; exact e
theorem VToP.dec_sound (n : Nat) (x : VToP) (h : VToP.dec 0 n = some x) : x.enc + 0 = n % 33554432 := by
  unfold VToP.dec at h
  obtain ⟨_, _, h⟩ := Option.bind_eq_some_iff.1 h
  obtain ⟨_, _, h⟩ := Option.bind_eq_some_iff.1 h
  obtain ⟨_, _, h⟩ := Option.bind_eq_some_iff.1 h
  obtain ⟨e, e'⟩ := ite_some h
  subst e'; exact e
theorem VTyp2.dec_sound (n : Nat) (x : VTyp2) (h : VTyp2.dec 0 n = some x) : x.enc + 0 = n % 33554432 := by
  unfold VTyp2.dec at h
  obtain ⟨_, _, h⟩ := Option.bind_eq_some_iff.1 h
  obtain ⟨_, _, h⟩ := Option.bind_eq_some_iff.1 h
  obtain ⟨_, _, h⟩ := Option.bind_eq_some_iff.1 h
  obtain ⟨_, _, h⟩ := Option.bind_eq_some_iff.1 h
  obtain ⟨_, _, h⟩ := Option.bind_eq_some_iff.1 h
  obtain ⟨e, e'⟩ := ite_some h
  subst e'; exact e
theorem VTyp3.dec_sound (n : Nat) (x : VTyp3) (h : VTyp3.dec 0 n = some x) : x.enc + 0 = n % 33554432 := by
  unfold VTyp3.dec at h
  obtain ⟨_, _, h⟩ := Option.bind_eq_some_iff.1 h
  obtain ⟨_, _, h⟩ := Option.bind_eq_some_iff.1 h
  obtain ⟨_, _, h⟩ := Option.bind_eq_some_iff.1 h
  obtain ⟨_, _, h⟩ := Option.bind_eq_some_iff.1 h
  obtain ⟨_, _, h⟩ := Option.bind_eq_some_iff.1 h
  obtain ⟨_, _, h⟩ := Option.bind_eq_some_iff.1 h
  obtain ⟨e, e'⟩ := ite_some h
  subst e'; exact e
theorem VUnpack.dec_sound (n : Nat) (x : VUnpack) (h : VUnpack.dec 0 n = some x) : x.enc + 0 = n % 33554432 := by
  unfold VUnpack.dec at h
  obtain ⟨_, _, h⟩ := Option.bind_eq_some_iff.1 h
  obtain ⟨_, _, h⟩ := Option.bind_eq_some_iff.1 h
  obtain ⟨_, _, h⟩ := Option.bind_eq_some_iff.1 h
  obtain ⟨_, _, h⟩ := Option.bind_eq_some_iff.1 h
  obtain ⟨_, _, h⟩ := Option.bind_eq_some_iff.1 h
  obtain ⟨e, e'⟩ := ite_some h
  subst e'; exact e
theorem VXfer.dec_sound (n : Nat) (x : VXfer) (h : VXfer.dec 0 n = some x) : x.enc + 0 = n % 33554432 := by
  unfold VXfer.dec at h
  obtain ⟨_, _, h⟩ := Option.bind_eq_some_iff.1 h
  obtain ⟨_, _, h⟩ := Option.bind_eq_some_iff.1 h
  obtain ⟨_, _, h⟩ := Option.bind_eq_some_iff.1 h
  obtain ⟨_, _, h⟩ := Option.bind_eq_some_iff.1 h
  obtain ⟨e, e'⟩ := ite_some h
  subst e'; exact e
theorem XAdm.dec_sound (n : Nat) (x : XAdm) (h : XAdm.dec 0 n = some x) : x.enc + 0 = n % 33554432 := by
  unfold XAdm.dec at h
  obtain ⟨_, _, h⟩ := Option.bind_eq_some_iff.1 h
  obtain ⟨_, _, h⟩ := Option.bind_eq_some_iff.1 h
  obtain ⟨_, _, h⟩ := Option.bind_eq_some_iff.1 h
  obtain ⟨_, _, h⟩ := Option.bind_eq_some_iff.1 h
  obtain ⟨_, _, h⟩ := Option.bind_eq_some_iff.1 h
  obtain ⟨e, e'⟩ := ite_some h
  subst e'; exact e
theorem XD.dec_sound (n : Nat) (x : XD) (h : XD.dec 0 n = some x) : x.enc + 0 = n % 33554432 := by
  unfold XD.dec at h
  obtain ⟨_, _, h⟩ := Option.bind_eq_some_iff.1 h
  obtain ⟨_, _, h⟩ := Option.bind_eq_some_iff.1 h
  obtain ⟨e, e'⟩ := ite_some h
  subst e'; exact e
theorem XEval.dec_sound (n : Nat) (x : XEval) (h : XEval.dec 0 n = some x) : x.enc + 0 = n % 33554432 := by
  unfold XEval.dec at h
  obtain ⟨_, _, h⟩ := Option.bind_eq_some_iff.1 h
  obtain ⟨_, _, h⟩ := Option.bind_eq_some_iff.1 h
  obtain ⟨_, _, h⟩ := Option.bind_eq_some_iff.1 h
  obtain ⟨_, _, h⟩ := Option.bind_eq_some_iff.1 h
  obtain ⟨_, _, h⟩ := Option.bind_eq_some_iff.1 h
  obtain ⟨e, e'⟩ := ite_some h
  subst e'; exact e
theorem XForm.dec_sound (n : Nat) (x : XForm) (h : XForm.dec 0 n = some x) : x.enc + 0 = n % 33554432 := by
  unfold XForm.dec at h
  obtain ⟨_, _, h⟩ := Option.bind_eq_some_iff.1 h
  obtain ⟨_, _, h⟩ := Option.bind_eq_some_iff.1 h
  obtain ⟨_, _, h⟩ := Option.bind_eq_some_iff.1 h
  obtain ⟨_, _, h⟩ := Option.bind_eq_some_iff.1 h
  obtain ⟨e, e'⟩ := ite_some h
  subst e'; exact e
theorem XGet.dec_sound (n : Nat) (x : XGet) (h : XGet.dec 0 n = some x) : x.enc + 0 = n % 33554432 := by
  unfold XGet.dec at h
  obtain ⟨_, _, h⟩ := Option.bind_eq_some_iff.1 h
  obtain ⟨_, _, h⟩ := Option.bind_eq_some_iff.1 h
  obtain ⟨_, _, h⟩ := Option.bind_eq_some_iff.1 h
  obtain ⟨_, _, h⟩ := Option.bind_eq_some_iff.1 h
  obtain ⟨e, e'⟩ := ite_some h
  subst e'; exact e
theorem XMem.dec_sound (n : Nat) (x : XMem) (h : XMem.dec 0 n = some x) : x.enc + 0 = n % 33554432 := by
  unfold XMem.dec at h
  obtain ⟨_, _, h⟩ := Option.bind_eq_some_iff.1 h
  obtain ⟨_, _, h⟩ := Option.bind_eq_some_iff.1 h
  obtain ⟨_, _, h⟩ := Option.bind_eq_some_iff.1 h
  obtain ⟨_, _, h⟩ := Option.bind_eq_some_iff.1 h
  obtain ⟨e, e'⟩ := ite_some h
  subst e'; exact e
theorem XSeto.dec_sound (n : Nat) (x : XSeto) (h : XSeto.dec 0 n = some x) : x.enc + 0 = n % 33554432 := by
  unfold XSeto.dec at h
  obtain ⟨_, _, h⟩ := Option.bind_eq_some_iff.1 h
  obtain ⟨_, _, h⟩ := Option.bind_eq_some_iff.1 h
  obtain ⟨_, _, h⟩ := Option.bind_eq_some_iff.1 h
  obtain ⟨e, e'⟩ := ite_some h
  subst e'; exact e
theorem XXB.dec_sound (n : Nat) (x : XXB) (h : XXB.dec 0 n = some x) : x.enc + 0 = n % 33554432 := by
  unfold XXB.dec at h
  obtain ⟨_, _, h⟩ := Option.bind_eq_some_iff.1 h
  obtain ⟨_, _, h⟩ := Option.bind_eq_some_iff.1 h
  obtain ⟨_, _, h⟩ := Option.bind_eq_some_iff.1 h
  obtain ⟨_, _, h⟩ := Option.bind_eq_some_iff.1 h
  obtain ⟨e, e'⟩ := ite_some h
  subst e'; exact e
theorem XXX.dec_sound (n : Nat) (x : XXX) (h : XXX.dec 0 n = some x) : x.enc + 0 = n % 33554432 := by
  unfold XXX.dec at h
  obtain ⟨_, _, h⟩ := Option.bind_eq_some_iff.1 h
  obtain ⟨_, _, h⟩ := Option.bind_eq_some_iff.1 h
  obtain ⟨_, _, h⟩ := Option.bind_eq_some_iff.1 h
  obtain ⟨_, _, h⟩ := Option.bind_eq_some_iff.1 h
  obtain ⟨e, e'⟩ := ite_some h
  subst e'; exact e
theorem CFence.dec_0_on_CFence_8 (n h : Nat) (x : CFence) (en : n = h * 33554432 + 8 + x.enc) : CFence.dec 0 n = none := by
  cases e : CFence.dec 0 n with
  | none => rfl
  | some y =>
    have e' := CFence.dec_sound _ y e
    obtain ⟨g, xs⟩ := x
    obtain ⟨r, ys⟩ := y
    have := Guard.enc_lt g; have := Guard.enc_lt r; have := xs.isLt; have := ys.isLt
    simp only [CFence.enc] at e'
    simp only [CFence.enc] at en
    omega
theorem CSetI.dec_1048576_on_CSetR_0 (n h : Nat) (x : CSetR) (en : n = h * 33554432 + x.enc) : CSetI.dec 1048576 n = none := by
  cases e : CSetI.dec 1048576 n with
  | none => rfl
  | some y =>
    have e' := CSetI.dec_sound_1048576 _ y e
    obtain ⟨g, xn, xs, xf⟩ := x
    obtain ⟨r, yn, yf, yi⟩ := y
    have := Guard.enc_lt g; have := Guard.enc_lt r; have := xn.isLt; have := LSrc.enc_lt xs; have := xf.isLt; have := yn.isLt; have := yf.isLt; have := yi.isLt
    simp only [CSetI.enc] at e'
    simp only [CSetR.enc] at en
    omega
theorem CTwo.dec_0_on_CTwo_1 (n h : Nat) (x : CTwo) (en : n = h * 33554432 + 1 + x.enc) : CTwo.dec 0 n = none := by
  cases e : CTwo.dec 0 n with
  | none => rfl
  | some y =>
    have e' := CTwo.dec_sound _ y e
    obtain ⟨g, xd, xs⟩ := x
    obtain ⟨r, yd, ys⟩ := y
    have := Guard.enc_lt g; have := Guard.enc_lt r; have := xd.isLt; have := xs.isLt; have := yd.isLt; have := ys.isLt
    simp only [CTwo.enc] at e'
    simp only [CTwo.enc] at en
    omega
theorem FScope.dec_0_on_FScope_262144 (n h : Nat) (x : FScope) (en : n = h * 67108864 + 262144 + x.enc) : FScope.dec 0 n = none := by
  cases e : FScope.dec 0 n with
  | none => rfl
  | some y =>
    have e' := FScope.dec_sound _ y e
    obtain ⟨g, xs⟩ := x
    obtain ⟨r, ys⟩ := y
    have := Guard.enc_lt g; have := Guard.enc_lt r; have := xs.isLt; have := ys.isLt
    simp only [FScope.enc] at e'
    simp only [FScope.enc] at en
    omega
theorem MMul.dec_0_on_MMul_1 (n h : Nat) (x : MMul) (en : n = h * 33554432 + 1 + x.enc) : MMul.dec 0 n = none := by
  cases e : MMul.dec 0 n with
  | none => rfl
  | some y =>
    have e' := MMul.dec_sound _ y e
    obtain ⟨g, xf, xk, xa, xb, xc⟩ := x
    obtain ⟨r, yf, yk, ya, yb, yc⟩ := y
    have := Guard.enc_lt g; have := Guard.enc_lt r; have := xf.isLt; have := xk.isLt; have := MOp.enc_lt xa; have := MOp.enc_lt xb; have := xc.isLt; have := yf.isLt; have := yk.isLt; have := MOp.enc_lt ya; have := MOp.enc_lt yb; have := yc.isLt
    simp only [MMul.enc] at e'
    simp only [MMul.enc] at en
    omega
theorem MNest.dec_0_on_MNest_262144 (n h : Nat) (x : MNest) (en : n = h * 33554432 + 262144 + x.enc) : MNest.dec 0 n = none := by
  cases e : MNest.dec 0 n with
  | none => rfl
  | some y =>
    have e' := MNest.dec_sound _ y e
    obtain ⟨g, xk, xa, xb, xj⟩ := x
    obtain ⟨r, yk, ya, yb, yj⟩ := y
    have := Guard.enc_lt g; have := Guard.enc_lt r; have := xk.isLt; have := Pair.enc_lt xa; have := Pair.enc_lt xb; have := xj.isLt; have := yk.isLt; have := Pair.enc_lt ya; have := Pair.enc_lt yb; have := yj.isLt
    simp only [MNest.enc] at e'
    simp only [MNest.enc] at en
    omega
theorem MStore.dec_0_on_MStore_1 (n h : Nat) (x : MStore) (en : n = h * 33554432 + 1 + x.enc) : MStore.dec 0 n = none := by
  cases e : MStore.dec 0 n with
  | none => rfl
  | some y =>
    have e' := MStore.dec_sound _ y e
    obtain ⟨g, xk, xq⟩ := x
    obtain ⟨r, yk, yq⟩ := y
    have := Guard.enc_lt g; have := Guard.enc_lt r; have := xk.isLt; have := Pair.enc_lt xq; have := yk.isLt; have := Pair.enc_lt yq
    simp only [MStore.enc] at e'
    simp only [MStore.enc] at en
    omega
theorem MZ.dec_0_on_MScale_2 (n h : Nat) (x : MScale) (en : n = h * 33554432 + 2 + x.enc) : MZ.dec 0 n = none := by
  cases e : MZ.dec 0 n with
  | none => rfl
  | some y =>
    have e' := MZ.dec_sound _ y e
    obtain ⟨g, xk, xn⟩ := x
    obtain ⟨r, yk⟩ := y
    have := Guard.enc_lt g; have := Guard.enc_lt r; have := xk.isLt; have := xn.isLt; have := yk.isLt
    simp only [MZ.enc] at e'
    simp only [MScale.enc] at en
    omega
theorem MZ.dec_0_on_MZ_1 (n h : Nat) (x : MZ) (en : n = h * 33554432 + 1 + x.enc) : MZ.dec 0 n = none := by
  cases e : MZ.dec 0 n with
  | none => rfl
  | some y =>
    have e' := MZ.dec_sound _ y e
    obtain ⟨g, xk⟩ := x
    obtain ⟨r, yk⟩ := y
    have := Guard.enc_lt g; have := Guard.enc_lt r; have := xk.isLt; have := yk.isLt
    simp only [MZ.enc] at e'
    simp only [MZ.enc] at en
    omega
theorem MZ.dec_1_on_MScale_2 (n h : Nat) (x : MScale) (en : n = h * 33554432 + 2 + x.enc) : MZ.dec 1 n = none := by
  cases e : MZ.dec 1 n with
  | none => rfl
  | some y =>
    have e' := MZ.dec_sound_1 _ y e
    obtain ⟨g, xk, xn⟩ := x
    obtain ⟨r, yk⟩ := y
    have := Guard.enc_lt g; have := Guard.enc_lt r; have := xk.isLt; have := xn.isLt; have := yk.isLt
    simp only [MZ.enc] at e'
    simp only [MScale.enc] at en
    omega
theorem PDA.dec_0_on_PDA_2 (n h : Nat) (x : PDA) (en : n = h * 33554432 + 2 + x.enc) : PDA.dec 0 n = none := by
  cases e : PDA.dec 0 n with
  | none => rfl
  | some y =>
    have e' := PDA.dec_sound _ y e
    obtain ⟨g, xd, xa⟩ := x
    obtain ⟨r, yd, ya⟩ := y
    have := Guard.enc_lt g; have := Guard.enc_lt r; have := Dst.enc_lt xd; have := Src.enc_lt xa; have := Dst.enc_lt yd; have := Src.enc_lt ya
    simp only [PDA.enc] at e'
    simp only [PDA.enc] at en
    omega
theorem PDA.dec_0_on_PDAB_1 (n h : Nat) (x : PDAB) (en : n = h * 33554432 + 1 + x.enc) : PDA.dec 0 n = none := by
  cases e : PDA.dec 0 n with
  | none => rfl
  | some y =>
    have e' := PDA.dec_sound _ y e
    obtain ⟨g, xd, xa, xb⟩ := x
    obtain ⟨r, yd, ya⟩ := y
    have := Guard.enc_lt g; have := Guard.enc_lt r; have := Dst.enc_lt xd; have := Src.enc_lt xa; have := Src.enc_lt xb; have := Dst.enc_lt yd; have := Src.enc_lt ya
    simp only [PDA.enc] at e'
    simp only [PDAB.enc] at en
    omega
theorem PDA.dec_1_on_PDAB_2 (n h : Nat) (x : PDAB) (en : n = h * 33554432 + 2 + x.enc) : PDA.dec 1 n = none := by
  cases e : PDA.dec 1 n with
  | none => rfl
  | some y =>
    have e' := PDA.dec_sound_1 _ y e
    obtain ⟨g, xd, xa, xb⟩ := x
    obtain ⟨r, yd, ya⟩ := y
    have := Guard.enc_lt g; have := Guard.enc_lt r; have := Dst.enc_lt xd; have := Src.enc_lt xa; have := Src.enc_lt xb; have := Dst.enc_lt yd; have := Src.enc_lt ya
    simp only [PDA.enc] at e'
    simp only [PDAB.enc] at en
    omega
theorem PDAB.dec_0_on_PDAB_1 (n h : Nat) (x : PDAB) (en : n = h * 33554432 + 1 + x.enc) : PDAB.dec 0 n = none := by
  cases e : PDAB.dec 0 n with
  | none => rfl
  | some y =>
    have e' := PDAB.dec_sound _ y e
    obtain ⟨g, xd, xa, xb⟩ := x
    obtain ⟨r, yd, ya, yb⟩ := y
    have := Guard.enc_lt g; have := Guard.enc_lt r; have := Dst.enc_lt xd; have := Src.enc_lt xa; have := Src.enc_lt xb; have := Dst.enc_lt yd; have := Src.enc_lt ya; have := Src.enc_lt yb
    simp only [PDAB.enc] at e'
    simp only [PDAB.enc] at en
    omega
theorem PDAB.dec_0_on_PDAB_2 (n h : Nat) (x : PDAB) (en : n = h * 33554432 + 2 + x.enc) : PDAB.dec 0 n = none := by
  cases e : PDAB.dec 0 n with
  | none => rfl
  | some y =>
    have e' := PDAB.dec_sound _ y e
    obtain ⟨g, xd, xa, xb⟩ := x
    obtain ⟨r, yd, ya, yb⟩ := y
    have := Guard.enc_lt g; have := Guard.enc_lt r; have := Dst.enc_lt xd; have := Src.enc_lt xa; have := Src.enc_lt xb; have := Dst.enc_lt yd; have := Src.enc_lt ya; have := Src.enc_lt yb
    simp only [PDAB.enc] at e'
    simp only [PDAB.enc] at en
    omega
theorem PDAB.dec_0_on_PDA_1 (n h : Nat) (x : PDA) (en : n = h * 33554432 + 1 + x.enc) : PDAB.dec 0 n = none := by
  cases e : PDAB.dec 0 n with
  | none => rfl
  | some y =>
    have e' := PDAB.dec_sound _ y e
    obtain ⟨g, xd, xa⟩ := x
    obtain ⟨r, yd, ya, yb⟩ := y
    have := Guard.enc_lt g; have := Guard.enc_lt r; have := Dst.enc_lt xd; have := Src.enc_lt xa; have := Dst.enc_lt yd; have := Src.enc_lt ya; have := Src.enc_lt yb
    simp only [PDAB.enc] at e'
    simp only [PDA.enc] at en
    omega
theorem PDAB.dec_1_on_PDA_2 (n h : Nat) (x : PDA) (en : n = h * 33554432 + 2 + x.enc) : PDAB.dec 1 n = none := by
  cases e : PDAB.dec 1 n with
  | none => rfl
  | some y =>
    have e' := PDAB.dec_sound_1 _ y e
    obtain ⟨g, xd, xa⟩ := x
    obtain ⟨r, yd, ya, yb⟩ := y
    have := Guard.enc_lt g; have := Guard.enc_lt r; have := Dst.enc_lt xd; have := Src.enc_lt xa; have := Dst.enc_lt yd; have := Src.enc_lt ya; have := Src.enc_lt yb
    simp only [PDAB.enc] at e'
    simp only [PDA.enc] at en
    omega
theorem PDAB.dec_1_on_PDAB_2 (n h : Nat) (x : PDAB) (en : n = h * 33554432 + 2 + x.enc) : PDAB.dec 1 n = none := by
  cases e : PDAB.dec 1 n with
  | none => rfl
  | some y =>
    have e' := PDAB.dec_sound_1 _ y e
    obtain ⟨g, xd, xa, xb⟩ := x
    obtain ⟨r, yd, ya, yb⟩ := y
    have := Guard.enc_lt g; have := Guard.enc_lt r; have := Dst.enc_lt xd; have := Src.enc_lt xa; have := Src.enc_lt xb; have := Dst.enc_lt yd; have := Src.enc_lt ya; have := Src.enc_lt yb
    simp only [PDAB.enc] at e'
    simp only [PDAB.enc] at en
    omega
theorem PDABn.dec_0_on_PDABn_16 (n h : Nat) (x : PDABn) (en : n = h * 33554432 + 16 + x.enc) : PDABn.dec 0 n = none := by
  cases e : PDABn.dec 0 n with
  | none => rfl
  | some y =>
    have e' := PDABn.dec_sound _ y e
    obtain ⟨g, xd, xa, xb, xn⟩ := x
    obtain ⟨r, yd, ya, yb, yn⟩ := y
    have := Guard.enc_lt g; have := Guard.enc_lt r; have := Dst.enc_lt xd; have := Src.enc_lt xa; have := Src.enc_lt xb; have := xn.isLt; have := Dst.enc_lt yd; have := Src.enc_lt ya; have := Src.enc_lt yb; have := yn.isLt
    simp only [PDABn.enc] at e'
    simp only [PDABn.enc] at en
    omega
theorem PDABn.dec_0_on_PDABn_32 (n h : Nat) (x : PDABn) (en : n = h * 33554432 + 32 + x.enc) : PDABn.dec 0 n = none := by
  cases e : PDABn.dec 0 n with
  | none => rfl
  | some y =>
    have e' := PDABn.dec_sound _ y e
    obtain ⟨g, xd, xa, xb, xn⟩ := x
    obtain ⟨r, yd, ya, yb, yn⟩ := y
    have := Guard.enc_lt g; have := Guard.enc_lt r; have := Dst.enc_lt xd; have := Src.enc_lt xa; have := Src.enc_lt xb; have := xn.isLt; have := Dst.enc_lt yd; have := Src.enc_lt ya; have := Src.enc_lt yb; have := yn.isLt
    simp only [PDABn.enc] at e'
    simp only [PDABn.enc] at en
    omega
theorem PDABn.dec_0_on_PDABn_48 (n h : Nat) (x : PDABn) (en : n = h * 33554432 + 48 + x.enc) : PDABn.dec 0 n = none := by
  cases e : PDABn.dec 0 n with
  | none => rfl
  | some y =>
    have e' := PDABn.dec_sound _ y e
    obtain ⟨g, xd, xa, xb, xn⟩ := x
    obtain ⟨r, yd, ya, yb, yn⟩ := y
    have := Guard.enc_lt g; have := Guard.enc_lt r; have := Dst.enc_lt xd; have := Src.enc_lt xa; have := Src.enc_lt xb; have := xn.isLt; have := Dst.enc_lt yd; have := Src.enc_lt ya; have := Src.enc_lt yb; have := yn.isLt
    simp only [PDABn.enc] at e'
    simp only [PDABn.enc] at en
    omega
theorem PDABn.dec_16_on_PDABn_32 (n h : Nat) (x : PDABn) (en : n = h * 33554432 + 32 + x.enc) : PDABn.dec 16 n = none := by
  cases e : PDABn.dec 16 n with
  | none => rfl
  | some y =>
    have e' := PDABn.dec_sound_16 _ y e
    obtain ⟨g, xd, xa, xb, xn⟩ := x
    obtain ⟨r, yd, ya, yb, yn⟩ := y
    have := Guard.enc_lt g; have := Guard.enc_lt r; have := Dst.enc_lt xd; have := Src.enc_lt xa; have := Src.enc_lt xb; have := xn.isLt; have := Dst.enc_lt yd; have := Src.enc_lt ya; have := Src.enc_lt yb; have := yn.isLt
    simp only [PDABn.enc] at e'
    simp only [PDABn.enc] at en
    omega
theorem PDABn.dec_16_on_PDABn_48 (n h : Nat) (x : PDABn) (en : n = h * 33554432 + 48 + x.enc) : PDABn.dec 16 n = none := by
  cases e : PDABn.dec 16 n with
  | none => rfl
  | some y =>
    have e' := PDABn.dec_sound_16 _ y e
    obtain ⟨g, xd, xa, xb, xn⟩ := x
    obtain ⟨r, yd, ya, yb, yn⟩ := y
    have := Guard.enc_lt g; have := Guard.enc_lt r; have := Dst.enc_lt xd; have := Src.enc_lt xa; have := Src.enc_lt xb; have := xn.isLt; have := Dst.enc_lt yd; have := Src.enc_lt ya; have := Src.enc_lt yb; have := yn.isLt
    simp only [PDABn.enc] at e'
    simp only [PDABn.enc] at en
    omega
theorem PDABn.dec_32_on_PDABn_48 (n h : Nat) (x : PDABn) (en : n = h * 33554432 + 48 + x.enc) : PDABn.dec 32 n = none := by
  cases e : PDABn.dec 32 n with
  | none => rfl
  | some y =>
    have e' := PDABn.dec_sound_32 _ y e
    obtain ⟨g, xd, xa, xb, xn⟩ := x
    obtain ⟨r, yd, ya, yb, yn⟩ := y
    have := Guard.enc_lt g; have := Guard.enc_lt r; have := Dst.enc_lt xd; have := Src.enc_lt xa; have := Src.enc_lt xb; have := xn.isLt; have := Dst.enc_lt yd; have := Src.enc_lt ya; have := Src.enc_lt yb; have := yn.isLt
    simp only [PDABn.enc] at e'
    simp only [PDABn.enc] at en
    omega
theorem PDAn.dec_0_on_PDAn_16 (n h : Nat) (x : PDAn) (en : n = h * 33554432 + 16 + x.enc) : PDAn.dec 0 n = none := by
  cases e : PDAn.dec 0 n with
  | none => rfl
  | some y =>
    have e' := PDAn.dec_sound _ y e
    obtain ⟨g, xd, xa, xn⟩ := x
    obtain ⟨r, yd, ya, yn⟩ := y
    have := Guard.enc_lt g; have := Guard.enc_lt r; have := Dst.enc_lt xd; have := Src.enc_lt xa; have := xn.isLt; have := Dst.enc_lt yd; have := Src.enc_lt ya; have := yn.isLt
    simp only [PDAn.enc] at e'
    simp only [PDAn.enc] at en
    omega
theorem PDAn.dec_0_on_PDAn_32 (n h : Nat) (x : PDAn) (en : n = h * 33554432 + 32 + x.enc) : PDAn.dec 0 n = none := by
  cases e : PDAn.dec 0 n with
  | none => rfl
  | some y =>
    have e' := PDAn.dec_sound _ y e
    obtain ⟨g, xd, xa, xn⟩ := x
    obtain ⟨r, yd, ya, yn⟩ := y
    have := Guard.enc_lt g; have := Guard.enc_lt r; have := Dst.enc_lt xd; have := Src.enc_lt xa; have := xn.isLt; have := Dst.enc_lt yd; have := Src.enc_lt ya; have := yn.isLt
    simp only [PDAn.enc] at e'
    simp only [PDAn.enc] at en
    omega
theorem PDAn.dec_0_on_PDAn_48 (n h : Nat) (x : PDAn) (en : n = h * 33554432 + 48 + x.enc) : PDAn.dec 0 n = none := by
  cases e : PDAn.dec 0 n with
  | none => rfl
  | some y =>
    have e' := PDAn.dec_sound _ y e
    obtain ⟨g, xd, xa, xn⟩ := x
    obtain ⟨r, yd, ya, yn⟩ := y
    have := Guard.enc_lt g; have := Guard.enc_lt r; have := Dst.enc_lt xd; have := Src.enc_lt xa; have := xn.isLt; have := Dst.enc_lt yd; have := Src.enc_lt ya; have := yn.isLt
    simp only [PDAn.enc] at e'
    simp only [PDAn.enc] at en
    omega
theorem PDAn.dec_16_on_PDAn_32 (n h : Nat) (x : PDAn) (en : n = h * 33554432 + 32 + x.enc) : PDAn.dec 16 n = none := by
  cases e : PDAn.dec 16 n with
  | none => rfl
  | some y =>
    have e' := PDAn.dec_sound_16 _ y e
    obtain ⟨g, xd, xa, xn⟩ := x
    obtain ⟨r, yd, ya, yn⟩ := y
    have := Guard.enc_lt g; have := Guard.enc_lt r; have := Dst.enc_lt xd; have := Src.enc_lt xa; have := xn.isLt; have := Dst.enc_lt yd; have := Src.enc_lt ya; have := yn.isLt
    simp only [PDAn.enc] at e'
    simp only [PDAn.enc] at en
    omega
theorem PDAn.dec_16_on_PDAn_48 (n h : Nat) (x : PDAn) (en : n = h * 33554432 + 48 + x.enc) : PDAn.dec 16 n = none := by
  cases e : PDAn.dec 16 n with
  | none => rfl
  | some y =>
    have e' := PDAn.dec_sound_16 _ y e
    obtain ⟨g, xd, xa, xn⟩ := x
    obtain ⟨r, yd, ya, yn⟩ := y
    have := Guard.enc_lt g; have := Guard.enc_lt r; have := Dst.enc_lt xd; have := Src.enc_lt xa; have := xn.isLt; have := Dst.enc_lt yd; have := Src.enc_lt ya; have := yn.isLt
    simp only [PDAn.enc] at e'
    simp only [PDAn.enc] at en
    omega
theorem PDAn.dec_32_on_PDAn_48 (n h : Nat) (x : PDAn) (en : n = h * 33554432 + 48 + x.enc) : PDAn.dec 32 n = none := by
  cases e : PDAn.dec 32 n with
  | none => rfl
  | some y =>
    have e' := PDAn.dec_sound_32 _ y e
    obtain ⟨g, xd, xa, xn⟩ := x
    obtain ⟨r, yd, ya, yn⟩ := y
    have := Guard.enc_lt g; have := Guard.enc_lt r; have := Dst.enc_lt xd; have := Src.enc_lt xa; have := xn.isLt; have := Dst.enc_lt yd; have := Src.enc_lt ya; have := yn.isLt
    simp only [PDAn.enc] at e'
    simp only [PDAn.enc] at en
    omega
theorem VD.dec_16_on_VD_17 (n h : Nat) (x : VD) (en : n = h * 33554432 + 17 + x.enc) : VD.dec 16 n = none := by
  cases e : VD.dec 16 n with
  | none => rfl
  | some y =>
    have e' := VD.dec_sound_16 _ y e
    obtain ⟨g, xd⟩ := x
    obtain ⟨r, yd⟩ := y
    have := Guard.enc_lt g; have := Guard.enc_lt r; have := Dst.enc_lt xd; have := Dst.enc_lt yd
    simp only [VD.enc] at e'
    simp only [VD.enc] at en
    omega
theorem VToP.dec_0_on_VFromP_1 (n h : Nat) (x : VFromP) (en : n = h * 33554432 + 1 + x.enc) : VToP.dec 0 n = none := by
  cases e : VToP.dec 0 n with
  | none => rfl
  | some y =>
    have e' := VToP.dec_sound _ y e
    obtain ⟨g, xd, xa⟩ := x
    obtain ⟨r, yd, ya⟩ := y
    have := Guard.enc_lt g; have := Guard.enc_lt r; have := Dst.enc_lt xd; have := xa.isLt; have := yd.isLt; have := Src.enc_lt ya
    simp only [VToP.enc] at e'
    simp only [VFromP.enc] at en
    omega

end Sys2Proof
end

