-- ==== Sys2Proof/Laws/PerInstr.lean ====
section
/-!
SUPPORT. Laws/PerInstr.lean: the family Encoded, one lemma per constructor: the word of a well-formed instruction decodes to it.
-/
namespace Sys2Proof.Laws

/-- The encoded word is a 32-bit word of the instruction's slot that decodes to the instruction; an event has no word. -/
def Encoded.Statement (i : Instr) : Prop :=
  ∀ sl n, i.slot = some sl → i.wf = true → encode i = some n → n < 2 ^ 32 ∧ decode sl (BitVec.ofNat 32 n) = .ok i

theorem decode_raw {sl : Slot} {n : Nat} {i : Instr} (hr : rawSlot sl n = some i) (hw : i.wf = true) (hn : n < 4294967296) :
    n < 2 ^ 32 ∧ decode sl (BitVec.ofNat 32 n) = .ok i := by
  refine ⟨hn, ?_⟩
  have hb : (BitVec.ofNat 32 n).toNat = n := by rw [BitVec.toNat_ofNat]; exact Nat.mod_eq_of_lt hn
  unfold decode
  rw [hb, decodeOpt, hr]
  simp only [Option.filter, hw, if_true]

theorem Encoded.nopF : Encoded.Statement (.nopF) := by
  intro sl n hs hw he
  cases he
  cases hs; exact decode_raw (by rfl) hw (by decide)
theorem raw_prep (n : Nat) (x : FPrep) (e1 : n = 1 * 67108864 + x.enc) : rawFlow n = some (Instr.prep x) := by
  have hd : n / 67108864 = 1 := by have := FPrep.enc_lt x; omega
  unfold rawFlow
  rw [hd]
  show (((FPrep.dec 0 n).map (Instr.prep))) = _
  rw [FPrep.dec_enc n 1 x e1]; rfl
theorem Encoded.prep (x : FPrep) : Encoded.Statement (.prep x) := by
  intro sl n hs hw he
  have e0 : 67108864 + x.enc = n := Option.some.inj he
  have e1 : n = 1 * 67108864 + x.enc := by omega
  cases hs
  exact decode_raw (raw_prep n x e1) hw (by have := FPrep.enc_lt x; omega)
theorem raw_prepm (n : Nat) (x : FPrepM) (e1 : n = 2 * 67108864 + x.enc) : rawFlow n = some (Instr.prepm x) := by
  have hd : n / 67108864 = 2 := by have := FPrepM.enc_lt x; omega
  unfold rawFlow
  rw [hd]
  show (((FPrepM.dec 0 n).map (Instr.prepm))) = _
  rw [FPrepM.dec_enc n 2 x e1]; rfl
theorem Encoded.prepm (x : FPrepM) : Encoded.Statement (.prepm x) := by
  intro sl n hs hw he
  have e0 : 134217728 + x.enc = n := Option.some.inj he
  have e1 : n = 2 * 67108864 + x.enc := by omega
  cases hs
  exact decode_raw (raw_prepm n x e1) hw (by have := FPrepM.enc_lt x; omega)
theorem raw_bt (n : Nat) (x : FBt) (e1 : n = 3 * 67108864 + x.enc) : rawFlow n = some (Instr.bt x) := by
  have hd : n / 67108864 = 3 := by have := FBt.enc_lt x; omega
  unfold rawFlow
  rw [hd]
  show (((FBt.dec 0 n).map (Instr.bt))) = _
  rw [FBt.dec_enc n 3 x e1]; rfl
theorem Encoded.bt (x : FBt) : Encoded.Statement (.bt x) := by
  intro sl n hs hw he
  have e0 : 201326592 + x.enc = n := Option.some.inj he
  have e1 : n = 3 * 67108864 + x.enc := by omega
  cases hs
  exact decode_raw (raw_bt n x e1) hw (by have := FBt.enc_lt x; omega)
theorem raw_j (n : Nat) (x : FJump) (e1 : n = 4 * 67108864 + x.enc) : rawFlow n = some (Instr.j x) := by
  have hd : n / 67108864 = 4 := by have := FJump.enc_lt x; omega
  unfold rawFlow
  rw [hd]
  show (((FJump.dec 0 n).map (Instr.j))) = _
  rw [FJump.dec_enc n 4 x e1]; rfl
theorem Encoded.j (x : FJump) : Encoded.Statement (.j x) := by
  intro sl n hs hw he
  have e0 : 268435456 + x.enc = n := Option.some.inj he
  have e1 : n = 4 * 67108864 + x.enc := by omega
  cases hs
  exact decode_raw (raw_j n x e1) hw (by have := FJump.enc_lt x; omega)
theorem raw_call (n : Nat) (x : FTgt) (e1 : n = 5 * 67108864 + x.enc) : rawFlow n = some (Instr.call x) := by
  have hd : n / 67108864 = 5 := by have := FTgt.enc_lt x; omega
  unfold rawFlow
  rw [hd]
  show (((FTgt.dec 0 n).map (Instr.call))) = _
  rw [FTgt.dec_enc n 5 x e1]; rfl
theorem Encoded.call (x : FTgt) : Encoded.Statement (.call x) := by
  intro sl n hs hw he
  have e0 : 335544320 + x.enc = n := Option.some.inj he
  have e1 : n = 5 * 67108864 + x.enc := by omega
  cases hs
  exact decode_raw (raw_call n x e1) hw (by have := FTgt.enc_lt x; omega)
theorem raw_ret (n : Nat) (x : FNone) (e1 : n = 6 * 67108864 + x.enc) : rawFlow n = some (Instr.ret x) := by
  have hd : n / 67108864 = 6 := by have := FNone.enc_lt x; omega
  unfold rawFlow
  rw [hd]
  show (((FNone.dec 0 n).map (Instr.ret))) = _
  rw [FNone.dec_enc n 6 x e1]; rfl
theorem Encoded.ret (x : FNone) : Encoded.Statement (.ret x) := by
  intro sl n hs hw he
  have e0 : 402653184 + x.enc = n := Option.some.inj he
  have e1 : n = 6 * 67108864 + x.enc := by omega
  cases hs
  exact decode_raw (raw_ret n x e1) hw (by have := FNone.enc_lt x; omega)
theorem raw_loop (n : Nat) (x : FLoop) (e1 : n = 7 * 67108864 + x.enc) : rawFlow n = some (Instr.loop x) := by
  have hd : n / 67108864 = 7 := by have := FLoop.enc_lt x; omega
  unfold rawFlow
  rw [hd]
  show (((FLoop.dec 0 n).map (Instr.loop))) = _
  rw [FLoop.dec_enc n 7 x e1]; rfl
theorem Encoded.loop (x : FLoop) : Encoded.Statement (.loop x) := by
  intro sl n hs hw he
  have e0 : 469762048 + x.enc = n := Option.some.inj he
  have e1 : n = 7 * 67108864 + x.enc := by omega
  cases hs
  exact decode_raw (raw_loop n x e1) hw (by have := FLoop.enc_lt x; omega)
theorem raw_setlc (n : Nat) (x : FCountLc) (e1 : n = 8 * 67108864 + x.enc) : rawFlow n = some (Instr.setlc x) := by
  have hd : n / 67108864 = 8 := by have := FCountLc.enc_lt x; omega
  unfold rawFlow
  rw [hd]
  show (((FCountLc.dec 0 n).map (Instr.setlc))) = _
  rw [FCountLc.dec_enc n 8 x e1]; rfl
theorem Encoded.setlc (x : FCountLc) : Encoded.Statement (.setlc x) := by
  intro sl n hs hw he
  have e0 : 536870912 + x.enc = n := Option.some.inj he
  have e1 : n = 8 * 67108864 + x.enc := by omega
  cases hs
  exact decode_raw (raw_setlc n x e1) hw (by have := FCountLc.enc_lt x; omega)
theorem raw_spl (n : Nat) (x : FSpl) (e1 : n = 9 * 67108864 + x.enc) : rawFlow n = some (Instr.spl x) := by
  have hd : n / 67108864 = 9 := by have := FSpl.enc_lt x; omega
  unfold rawFlow
  rw [hd]
  show (((FSpl.dec 0 n).map (Instr.spl))) = _
  rw [FSpl.dec_enc n 9 x e1]; rfl
theorem Encoded.spl (x : FSpl) : Encoded.Statement (.spl x) := by
  intro sl n hs hw he
  have e0 : 603979776 + x.enc = n := Option.some.inj he
  have e1 : n = 9 * 67108864 + x.enc := by omega
  cases hs
  exact decode_raw (raw_spl n x e1) hw (by have := FSpl.enc_lt x; omega)
theorem raw_wait (n : Nat) (x : FCountF) (e1 : n = 10 * 67108864 + x.enc) : rawFlow n = some (Instr.wait x) := by
  have hd : n / 67108864 = 10 := by have := FCountF.enc_lt x; omega
  unfold rawFlow
  rw [hd]
  show (((FCountF.dec 0 n).map (Instr.wait))) = _
  rw [FCountF.dec_enc n 10 x e1]; rfl
theorem Encoded.wait (x : FCountF) : Encoded.Statement (.wait x) := by
  intro sl n hs hw he
  have e0 : 671088640 + x.enc = n := Option.some.inj he
  have e1 : n = 10 * 67108864 + x.enc := by omega
  cases hs
  exact decode_raw (raw_wait n x e1) hw (by have := FCountF.enc_lt x; omega)
theorem raw_post (n : Nat) (x : FCountF) (e1 : n = 11 * 67108864 + x.enc) : rawFlow n = some (Instr.post x) := by
  have hd : n / 67108864 = 11 := by have := FCountF.enc_lt x; omega
  unfold rawFlow
  rw [hd]
  show (((FCountF.dec 0 n).map (Instr.post))) = _
  rw [FCountF.dec_enc n 11 x e1]; rfl
theorem Encoded.post (x : FCountF) : Encoded.Statement (.post x) := by
  intro sl n hs hw he
  have e0 : 738197504 + x.enc = n := Option.some.inj he
  have e1 : n = 11 * 67108864 + x.enc := by omega
  cases hs
  exact decode_raw (raw_post n x e1) hw (by have := FCountF.enc_lt x; omega)
theorem raw_postr (n : Nat) (x : FPostr) (e1 : n = 12 * 67108864 + x.enc) : rawFlow n = some (Instr.postr x) := by
  have hd : n / 67108864 = 12 := by have := FPostr.enc_lt x; omega
  unfold rawFlow
  rw [hd]
  show (((FPostr.dec 0 n).map (Instr.postr))) = _
  rw [FPostr.dec_enc n 12 x e1]; rfl
theorem Encoded.postr (x : FPostr) : Encoded.Statement (.postr x) := by
  intro sl n hs hw he
  have e0 : 805306368 + x.enc = n := Option.some.inj he
  have e1 : n = 12 * 67108864 + x.enc := by omega
  cases hs
  exact decode_raw (raw_postr n x e1) hw (by have := FPostr.enc_lt x; omega)
theorem raw_tlw (n : Nat) (x : FTlw) (e1 : n = 13 * 67108864 + x.enc) : rawFlow n = some (Instr.tlw x) := by
  have hd : n / 67108864 = 13 := by have := FTlw.enc_lt x; omega
  unfold rawFlow
  rw [hd]
  show (((FTlw.dec 0 n).map (Instr.tlw))) = _
  rw [FTlw.dec_enc n 13 x e1]; rfl
theorem Encoded.tlw (x : FTlw) : Encoded.Statement (.tlw x) := by
  intro sl n hs hw he
  have e0 : 872415232 + x.enc = n := Option.some.inj he
  have e1 : n = 13 * 67108864 + x.enc := by omega
  cases hs
  exact decode_raw (raw_tlw n x e1) hw (by have := FTlw.enc_lt x; omega)
theorem raw_bbset (n : Nat) (x : FCountBb) (e1 : n = 14 * 67108864 + x.enc) : rawFlow n = some (Instr.bbset x) := by
  have hd : n / 67108864 = 14 := by have := FCountBb.enc_lt x; omega
  unfold rawFlow
  rw [hd]
  show (((FCountBb.dec 0 n).map (Instr.bbset))) = _
  rw [FCountBb.dec_enc n 14 x e1]; rfl
theorem Encoded.bbset (x : FCountBb) : Encoded.Statement (.bbset x) := by
  intro sl n hs hw he
  have e0 : 939524096 + x.enc = n := Option.some.inj he
  have e1 : n = 14 * 67108864 + x.enc := by omega
  cases hs
  exact decode_raw (raw_bbset n x e1) hw (by have := FCountBb.enc_lt x; omega)
theorem raw_bbwait (n : Nat) (x : FBb) (e1 : n = 15 * 67108864 + x.enc) : rawFlow n = some (Instr.bbwait x) := by
  have hd : n / 67108864 = 15 := by have := FBb.enc_lt x; omega
  unfold rawFlow
  rw [hd]
  show (((FBb.dec 0 n).map (Instr.bbwait))) = _
  rw [FBb.dec_enc n 15 x e1]; rfl
theorem Encoded.bbwait (x : FBb) : Encoded.Statement (.bbwait x) := by
  intro sl n hs hw he
  have e0 : 1006632960 + x.enc = n := Option.some.inj he
  have e1 : n = 15 * 67108864 + x.enc := by omega
  cases hs
  exact decode_raw (raw_bbwait n x e1) hw (by have := FBb.enc_lt x; omega)
theorem raw_ridge (n : Nat) (x : FNone) (e1 : n = 16 * 67108864 + x.enc) : rawFlow n = some (Instr.ridge x) := by
  have hd : n / 67108864 = 16 := by have := FNone.enc_lt x; omega
  unfold rawFlow
  rw [hd]
  show (((FNone.dec 0 n).map (Instr.ridge))) = _
  rw [FNone.dec_enc n 16 x e1]; rfl
theorem Encoded.ridge (x : FNone) : Encoded.Statement (.ridge x) := by
  intro sl n hs hw he
  have e0 : 1073741824 + x.enc = n := Option.some.inj he
  have e1 : n = 16 * 67108864 + x.enc := by omega
  cases hs
  exact decode_raw (raw_ridge n x e1) hw (by have := FNone.enc_lt x; omega)
theorem raw_seg (n : Nat) (x : FSeg) (e1 : n = 17 * 67108864 + x.enc) : rawFlow n = some (Instr.seg x) := by
  have hd : n / 67108864 = 17 := by have := FSeg.enc_lt x; omega
  unfold rawFlow
  rw [hd]
  show (((FSeg.dec 0 n).map (Instr.seg))) = _
  rw [FSeg.dec_enc n 17 x e1]; rfl
theorem Encoded.seg (x : FSeg) : Encoded.Statement (.seg x) := by
  intro sl n hs hw he
  have e0 : 1140850688 + x.enc = n := Option.some.inj he
  have e1 : n = 17 * 67108864 + x.enc := by omega
  cases hs
  exact decode_raw (raw_seg n x e1) hw (by have := FSeg.enc_lt x; omega)
theorem raw_rdv (n : Nat) (x : FNone) (e1 : n = 18 * 67108864 + x.enc) : rawFlow n = some (Instr.rdv x) := by
  have hd : n / 67108864 = 18 := by have := FNone.enc_lt x; omega
  unfold rawFlow
  rw [hd]
  show (((FNone.dec 0 n).map (Instr.rdv))) = _
  rw [FNone.dec_enc n 18 x e1]; rfl
theorem Encoded.rdv (x : FNone) : Encoded.Statement (.rdv x) := by
  intro sl n hs hw he
  have e0 : 1207959552 + x.enc = n := Option.some.inj he
  have e1 : n = 18 * 67108864 + x.enc := by omega
  cases hs
  exact decode_raw (raw_rdv n x e1) hw (by have := FNone.enc_lt x; omega)
theorem raw_trap (n : Nat) (x : FImm) (e1 : n = 19 * 67108864 + x.enc) : rawFlow n = some (Instr.trap x) := by
  have hd : n / 67108864 = 19 := by have := FImm.enc_lt x; omega
  unfold rawFlow
  rw [hd]
  show (((FImm.dec 0 n).map (Instr.trap))) = _
  rw [FImm.dec_enc n 19 x e1]; rfl
theorem Encoded.trap (x : FImm) : Encoded.Statement (.trap x) := by
  intro sl n hs hw he
  have e0 : 1275068416 + x.enc = n := Option.some.inj he
  have e1 : n = 19 * 67108864 + x.enc := by omega
  cases hs
  exact decode_raw (raw_trap n x e1) hw (by have := FImm.enc_lt x; omega)
theorem raw_rtt (n : Nat) (x : FNone) (e1 : n = 20 * 67108864 + x.enc) : rawFlow n = some (Instr.rtt x) := by
  have hd : n / 67108864 = 20 := by have := FNone.enc_lt x; omega
  unfold rawFlow
  rw [hd]
  show (((FNone.dec 0 n).map (Instr.rtt))) = _
  rw [FNone.dec_enc n 20 x e1]; rfl
theorem Encoded.rtt (x : FNone) : Encoded.Statement (.rtt x) := by
  intro sl n hs hw he
  have e0 : 1342177280 + x.enc = n := Option.some.inj he
  have e1 : n = 20 * 67108864 + x.enc := by omega
  cases hs
  exact decode_raw (raw_rtt n x e1) hw (by have := FNone.enc_lt x; omega)
theorem raw_endF (n : Nat) (x : FNone) (e1 : n = 21 * 67108864 + x.enc) : rawFlow n = some (Instr.endF x) := by
  have hd : n / 67108864 = 21 := by have := FNone.enc_lt x; omega
  unfold rawFlow
  rw [hd]
  show (((FNone.dec 0 n).map (Instr.endF))) = _
  rw [FNone.dec_enc n 21 x e1]; rfl
theorem Encoded.endF (x : FNone) : Encoded.Statement (.endF x) := by
  intro sl n hs hw he
  have e0 : 1409286144 + x.enc = n := Option.some.inj he
  have e1 : n = 21 * 67108864 + x.enc := by omega
  cases hs
  exact decode_raw (raw_endF n x e1) hw (by have := FNone.enc_lt x; omega)
theorem raw_yield (n : Nat) (x : FNone) (e1 : n = 22 * 67108864 + x.enc) : rawFlow n = some (Instr.yield x) := by
  have hd : n / 67108864 = 22 := by have := FNone.enc_lt x; omega
  unfold rawFlow
  rw [hd]
  show (((FNone.dec 0 n).map (Instr.yield))) = _
  rw [FNone.dec_enc n 22 x e1]; rfl
theorem Encoded.yield (x : FNone) : Encoded.Statement (.yield x) := by
  intro sl n hs hw he
  have e0 : 1476395008 + x.enc = n := Option.some.inj he
  have e1 : n = 22 * 67108864 + x.enc := by omega
  cases hs
  exact decode_raw (raw_yield n x e1) hw (by have := FNone.enc_lt x; omega)
theorem raw_drain (n : Nat) (x : FScope) (e1 : n = 23 * 67108864 + x.enc) : rawFlow n = some (Instr.drain x) := by
  have hd : n / 67108864 = 23 := by have := FScope.enc_lt x; omega
  unfold rawFlow
  rw [hd]
  show (((FScope.dec 0 n).map (Instr.drain)) <|> ((FScope.dec 262144 n).map (Instr.drainE))) = _
  rw [FScope.dec_enc n 23 x e1]; rfl
theorem Encoded.drain (x : FScope) : Encoded.Statement (.drain x) := by
  intro sl n hs hw he
  have e0 : 1543503872 + x.enc = n := Option.some.inj he
  have e1 : n = 23 * 67108864 + x.enc := by omega
  cases hs
  exact decode_raw (raw_drain n x e1) hw (by have := FScope.enc_lt x; omega)
theorem raw_drainE (n : Nat) (x : FScope) (e1 : n = 23 * 67108864 + 262144 + x.enc) : rawFlow n = some (Instr.drainE x) := by
  have hd : n / 67108864 = 23 := by have := FScope.enc_lt_262144 x; omega
  unfold rawFlow
  rw [hd]
  show (((FScope.dec 0 n).map (Instr.drain)) <|> ((FScope.dec 262144 n).map (Instr.drainE))) = _
  rw [FScope.dec_0_on_FScope_262144 n 23 x e1, FScope.dec_enc_262144 n 23 x e1]; rfl
theorem Encoded.drainE (x : FScope) : Encoded.Statement (.drainE x) := by
  intro sl n hs hw he
  have e0 : 1543766016 + x.enc = n := Option.some.inj he
  have e1 : n = 23 * 67108864 + 262144 + x.enc := by omega
  cases hs
  exact decode_raw (raw_drainE n x e1) hw (by have := FScope.enc_lt_262144 x; omega)
theorem raw_clkdiv (n : Nat) (x : FClk) (e1 : n = 24 * 67108864 + x.enc) : rawFlow n = some (Instr.clkdiv x) := by
  have hd : n / 67108864 = 24 := by have := FClk.enc_lt x; omega
  unfold rawFlow
  rw [hd]
  show (((FClk.dec 0 n).map (Instr.clkdiv))) = _
  rw [FClk.dec_enc n 24 x e1]; rfl
theorem Encoded.clkdiv (x : FClk) : Encoded.Statement (.clkdiv x) := by
  intro sl n hs hw he
  have e0 : 1610612736 + x.enc = n := Option.some.inj he
  have e1 : n = 24 * 67108864 + x.enc := by omega
  cases hs
  exact decode_raw (raw_clkdiv n x e1) hw (by have := FClk.enc_lt x; omega)
theorem raw_launch (n : Nat) (x : FFlagM) (e1 : n = 25 * 67108864 + x.enc) : rawFlow n = some (Instr.launch x) := by
  have hd : n / 67108864 = 25 := by have := FFlagM.enc_lt x; omega
  unfold rawFlow
  rw [hd]
  show (((FFlagM.dec 0 n).map (Instr.launch))) = _
  rw [FFlagM.dec_enc n 25 x e1]; rfl
theorem Encoded.launch (x : FFlagM) : Encoded.Statement (.launch x) := by
  intro sl n hs hw he
  have e0 : 1677721600 + x.enc = n := Option.some.inj he
  have e1 : n = 25 * 67108864 + x.enc := by omega
  cases hs
  exact decode_raw (raw_launch n x e1) hw (by have := FFlagM.enc_lt x; omega)
theorem raw_send (n : Nat) (x : FSendS) (e1 : n = 26 * 67108864 + x.enc) : rawFlow n = some (Instr.send x) := by
  have hd : n / 67108864 = 26 := by have := FSendS.enc_lt x; omega
  unfold rawFlow
  rw [hd]
  show (((FSendS.dec 0 n).map (Instr.send))) = _
  rw [FSendS.dec_enc n 26 x e1]; rfl
theorem Encoded.send (x : FSendS) : Encoded.Statement (.send x) := by
  intro sl n hs hw he
  have e0 : 1744830464 + x.enc = n := Option.some.inj he
  have e1 : n = 26 * 67108864 + x.enc := by omega
  cases hs
  exact decode_raw (raw_send n x e1) hw (by have := FSendS.enc_lt x; omega)
theorem raw_getmF (n : Nat) (x : FGetm) (e1 : n = 27 * 67108864 + x.enc) : rawFlow n = some (Instr.getmF x) := by
  have hd : n / 67108864 = 27 := by have := FGetm.enc_lt x; omega
  unfold rawFlow
  rw [hd]
  show (((FGetm.dec 0 n).map (Instr.getmF))) = _
  rw [FGetm.dec_enc n 27 x e1]; rfl
theorem Encoded.getmF (x : FGetm) : Encoded.Statement (.getmF x) := by
  intro sl n hs hw he
  have e0 : 1811939328 + x.enc = n := Option.some.inj he
  have e1 : n = 27 * 67108864 + x.enc := by omega
  cases hs
  exact decode_raw (raw_getmF n x e1) hw (by have := FGetm.enc_lt x; omega)
theorem raw_epi (n : Nat) (x : FEpi) (e1 : n = 28 * 67108864 + x.enc) : rawFlow n = some (Instr.epi x) := by
  have hd : n / 67108864 = 28 := by have := FEpi.enc_lt x; omega
  unfold rawFlow
  rw [hd]
  show (((FEpi.dec 0 n).map (Instr.epi))) = _
  rw [FEpi.dec_enc n 28 x e1]; rfl
theorem Encoded.epi (x : FEpi) : Encoded.Statement (.epi x) := by
  intro sl n hs hw he
  have e0 : 1879048192 + x.enc = n := Option.some.inj he
  have e1 : n = 28 * 67108864 + x.enc := by omega
  cases hs
  exact decode_raw (raw_epi n x e1) hw (by have := FEpi.enc_lt x; omega)
theorem raw_wdog (n : Nat) (x : FPred) (e1 : n = 29 * 67108864 + x.enc) : rawFlow n = some (Instr.wdog x) := by
  have hd : n / 67108864 = 29 := by have := FPred.enc_lt x; omega
  unfold rawFlow
  rw [hd]
  show (((FPred.dec 0 n).map (Instr.wdog))) = _
  rw [FPred.dec_enc n 29 x e1]; rfl
theorem Encoded.wdog (x : FPred) : Encoded.Statement (.wdog x) := by
  intro sl n hs hw he
  have e0 : 1946157056 + x.enc = n := Option.some.inj he
  have e1 : n = 29 * 67108864 + x.enc := by omega
  cases hs
  exact decode_raw (raw_wdog n x e1) hw (by have := FPred.enc_lt x; omega)
theorem raw_hbeat (n : Nat) (x : FPred) (e1 : n = 30 * 67108864 + x.enc) : rawFlow n = some (Instr.hbeat x) := by
  have hd : n / 67108864 = 30 := by have := FPred.enc_lt x; omega
  unfold rawFlow
  rw [hd]
  show (((FPred.dec 0 n).map (Instr.hbeat))) = _
  rw [FPred.dec_enc n 30 x e1]; rfl
theorem Encoded.hbeat (x : FPred) : Encoded.Statement (.hbeat x) := by
  intro sl n hs hw he
  have e0 : 2013265920 + x.enc = n := Option.some.inj he
  have e1 : n = 30 * 67108864 + x.enc := by omega
  cases hs
  exact decode_raw (raw_hbeat n x e1) hw (by have := FPred.enc_lt x; omega)
theorem raw_capq (n : Nat) (x : FCapq) (e1 : n = 31 * 67108864 + x.enc) : rawFlow n = some (Instr.capq x) := by
  have hd : n / 67108864 = 31 := by have := FCapq.enc_lt x; omega
  unfold rawFlow
  rw [hd]
  show (((FCapq.dec 0 n).map (Instr.capq))) = _
  rw [FCapq.dec_enc n 31 x e1]; rfl
theorem Encoded.capq (x : FCapq) : Encoded.Statement (.capq x) := by
  intro sl n hs hw he
  have e0 : 2080374784 + x.enc = n := Option.some.inj he
  have e1 : n = 31 * 67108864 + x.enc := by omega
  cases hs
  exact decode_raw (raw_capq n x e1) hw (by have := FCapq.enc_lt x; omega)
theorem raw_pitchq (n : Nat) (x : FPitchq) (e1 : n = 32 * 67108864 + x.enc) : rawFlow n = some (Instr.pitchq x) := by
  have hd : n / 67108864 = 32 := by have := FPitchq.enc_lt x; omega
  unfold rawFlow
  rw [hd]
  show (((FPitchq.dec 0 n).map (Instr.pitchq))) = _
  rw [FPitchq.dec_enc n 32 x e1]; rfl
theorem Encoded.pitchq (x : FPitchq) : Encoded.Statement (.pitchq x) := by
  intro sl n hs hw he
  have e0 : 2147483648 + x.enc = n := Option.some.inj he
  have e1 : n = 32 * 67108864 + x.enc := by omega
  cases hs
  exact decode_raw (raw_pitchq n x e1) hw (by have := FPitchq.enc_lt x; omega)
theorem raw_sleep (n : Nat) (x : FImm) (e1 : n = 33 * 67108864 + x.enc) : rawFlow n = some (Instr.sleep x) := by
  have hd : n / 67108864 = 33 := by have := FImm.enc_lt x; omega
  unfold rawFlow
  rw [hd]
  show (((FImm.dec 0 n).map (Instr.sleep))) = _
  rw [FImm.dec_enc n 33 x e1]; rfl
theorem Encoded.sleep (x : FImm) : Encoded.Statement (.sleep x) := by
  intro sl n hs hw he
  have e0 : 2214592512 + x.enc = n := Option.some.inj he
  have e1 : n = 33 * 67108864 + x.enc := by omega
  cases hs
  exact decode_raw (raw_sleep n x e1) hw (by have := FImm.enc_lt x; omega)
theorem raw_brk (n : Nat) (x : FImm) (e1 : n = 34 * 67108864 + x.enc) : rawFlow n = some (Instr.brk x) := by
  have hd : n / 67108864 = 34 := by have := FImm.enc_lt x; omega
  unfold rawFlow
  rw [hd]
  show (((FImm.dec 0 n).map (Instr.brk))) = _
  rw [FImm.dec_enc n 34 x e1]; rfl
theorem Encoded.brk (x : FImm) : Encoded.Statement (.brk x) := by
  intro sl n hs hw he
  have e0 : 2281701376 + x.enc = n := Option.some.inj he
  have e1 : n = 34 * 67108864 + x.enc := by omega
  cases hs
  exact decode_raw (raw_brk n x e1) hw (by have := FImm.enc_lt x; omega)
theorem Encoded.scalarNop : Encoded.Statement (.scalarNop) := by
  intro sl n hs hw he
  cases he
  cases hs; exact decode_raw (by rfl) hw (by decide)
theorem raw_add (n : Nat) (x : SAlu) (e1 : n = 1 * 33554432 + x.enc) : rawScalar n = some (Instr.add x) := by
  have hd : n / 33554432 = 1 := by have := SAlu.enc_lt x; omega
  unfold rawScalar
  rw [hd]
  show (((SAlu.dec 0 n).map (Instr.add))) = _
  rw [SAlu.dec_enc n 1 x e1]; rfl
theorem Encoded.add (x : SAlu) : Encoded.Statement (.add x) := by
  intro sl n hs hw he
  have e0 : 33554432 + x.enc = n := Option.some.inj he
  have e1 : n = 1 * 33554432 + x.enc := by omega
  cases hs
  exact decode_raw (raw_add n x e1) hw (by have := SAlu.enc_lt x; omega)
theorem raw_sub (n : Nat) (x : SAlu) (e1 : n = 2 * 33554432 + x.enc) : rawScalar n = some (Instr.sub x) := by
  have hd : n / 33554432 = 2 := by have := SAlu.enc_lt x; omega
  unfold rawScalar
  rw [hd]
  show (((SAlu.dec 0 n).map (Instr.sub))) = _
  rw [SAlu.dec_enc n 2 x e1]; rfl
theorem Encoded.sub (x : SAlu) : Encoded.Statement (.sub x) := by
  intro sl n hs hw he
  have e0 : 67108864 + x.enc = n := Option.some.inj he
  have e1 : n = 2 * 33554432 + x.enc := by omega
  cases hs
  exact decode_raw (raw_sub n x e1) hw (by have := SAlu.enc_lt x; omega)
theorem raw_addi (n : Nat) (x : SImm) (e1 : n = 3 * 33554432 + x.enc) : rawScalar n = some (Instr.addi x) := by
  have hd : n / 33554432 = 3 := by have := SImm.enc_lt x; omega
  unfold rawScalar
  rw [hd]
  show (((SImm.dec 0 n).map (Instr.addi))) = _
  rw [SImm.dec_enc n 3 x e1]; rfl
theorem Encoded.addi (x : SImm) : Encoded.Statement (.addi x) := by
  intro sl n hs hw he
  have e0 : 100663296 + x.enc = n := Option.some.inj he
  have e1 : n = 3 * 33554432 + x.enc := by omega
  cases hs
  exact decode_raw (raw_addi n x e1) hw (by have := SImm.enc_lt x; omega)
theorem raw_movi (n : Nat) (x : SImm) (e1 : n = 4 * 33554432 + x.enc) : rawScalar n = some (Instr.movi x) := by
  have hd : n / 33554432 = 4 := by have := SImm.enc_lt x; omega
  unfold rawScalar
  rw [hd]
  show (((SImm.dec 0 n).map (Instr.movi))) = _
  rw [SImm.dec_enc n 4 x e1]; rfl
theorem Encoded.movi (x : SImm) : Encoded.Statement (.movi x) := by
  intro sl n hs hw he
  have e0 : 134217728 + x.enc = n := Option.some.inj he
  have e1 : n = 4 * 33554432 + x.enc := by omega
  cases hs
  exact decode_raw (raw_movi n x e1) hw (by have := SImm.enc_lt x; omega)
theorem raw_movhi (n : Nat) (x : SImm) (e1 : n = 5 * 33554432 + x.enc) : rawScalar n = some (Instr.movhi x) := by
  have hd : n / 33554432 = 5 := by have := SImm.enc_lt x; omega
  unfold rawScalar
  rw [hd]
  show (((SImm.dec 0 n).map (Instr.movhi))) = _
  rw [SImm.dec_enc n 5 x e1]; rfl
theorem Encoded.movhi (x : SImm) : Encoded.Statement (.movhi x) := by
  intro sl n hs hw he
  have e0 : 167772160 + x.enc = n := Option.some.inj he
  have e1 : n = 5 * 33554432 + x.enc := by omega
  cases hs
  exact decode_raw (raw_movhi n x e1) hw (by have := SImm.enc_lt x; omega)
theorem raw_mul (n : Nat) (x : SAlu) (e1 : n = 6 * 33554432 + x.enc) : rawScalar n = some (Instr.mul x) := by
  have hd : n / 33554432 = 6 := by have := SAlu.enc_lt x; omega
  unfold rawScalar
  rw [hd]
  show (((SAlu.dec 0 n).map (Instr.mul))) = _
  rw [SAlu.dec_enc n 6 x e1]; rfl
theorem Encoded.mul (x : SAlu) : Encoded.Statement (.mul x) := by
  intro sl n hs hw he
  have e0 : 201326592 + x.enc = n := Option.some.inj he
  have e1 : n = 6 * 33554432 + x.enc := by omega
  cases hs
  exact decode_raw (raw_mul n x e1) hw (by have := SAlu.enc_lt x; omega)
theorem raw_mulh (n : Nat) (x : SAlu) (e1 : n = 7 * 33554432 + x.enc) : rawScalar n = some (Instr.mulh x) := by
  have hd : n / 33554432 = 7 := by have := SAlu.enc_lt x; omega
  unfold rawScalar
  rw [hd]
  show (((SAlu.dec 0 n).map (Instr.mulh))) = _
  rw [SAlu.dec_enc n 7 x e1]; rfl
theorem Encoded.mulh (x : SAlu) : Encoded.Statement (.mulh x) := by
  intro sl n hs hw he
  have e0 : 234881024 + x.enc = n := Option.some.inj he
  have e1 : n = 7 * 33554432 + x.enc := by omega
  cases hs
  exact decode_raw (raw_mulh n x e1) hw (by have := SAlu.enc_lt x; omega)
theorem raw_mulhu (n : Nat) (x : SAlu) (e1 : n = 8 * 33554432 + x.enc) : rawScalar n = some (Instr.mulhu x) := by
  have hd : n / 33554432 = 8 := by have := SAlu.enc_lt x; omega
  unfold rawScalar
  rw [hd]
  show (((SAlu.dec 0 n).map (Instr.mulhu))) = _
  rw [SAlu.dec_enc n 8 x e1]; rfl
theorem Encoded.mulhu (x : SAlu) : Encoded.Statement (.mulhu x) := by
  intro sl n hs hw he
  have e0 : 268435456 + x.enc = n := Option.some.inj he
  have e1 : n = 8 * 33554432 + x.enc := by omega
  cases hs
  exact decode_raw (raw_mulhu n x e1) hw (by have := SAlu.enc_lt x; omega)
theorem raw_div (n : Nat) (x : SAlu) (e1 : n = 9 * 33554432 + x.enc) : rawScalar n = some (Instr.div x) := by
  have hd : n / 33554432 = 9 := by have := SAlu.enc_lt x; omega
  unfold rawScalar
  rw [hd]
  show (((SAlu.dec 0 n).map (Instr.div))) = _
  rw [SAlu.dec_enc n 9 x e1]; rfl
theorem Encoded.div (x : SAlu) : Encoded.Statement (.div x) := by
  intro sl n hs hw he
  have e0 : 301989888 + x.enc = n := Option.some.inj he
  have e1 : n = 9 * 33554432 + x.enc := by omega
  cases hs
  exact decode_raw (raw_div n x e1) hw (by have := SAlu.enc_lt x; omega)
theorem raw_divu (n : Nat) (x : SAlu) (e1 : n = 10 * 33554432 + x.enc) : rawScalar n = some (Instr.divu x) := by
  have hd : n / 33554432 = 10 := by have := SAlu.enc_lt x; omega
  unfold rawScalar
  rw [hd]
  show (((SAlu.dec 0 n).map (Instr.divu))) = _
  rw [SAlu.dec_enc n 10 x e1]; rfl
theorem Encoded.divu (x : SAlu) : Encoded.Statement (.divu x) := by
  intro sl n hs hw he
  have e0 : 335544320 + x.enc = n := Option.some.inj he
  have e1 : n = 10 * 33554432 + x.enc := by omega
  cases hs
  exact decode_raw (raw_divu n x e1) hw (by have := SAlu.enc_lt x; omega)
theorem raw_rem (n : Nat) (x : SAlu) (e1 : n = 11 * 33554432 + x.enc) : rawScalar n = some (Instr.rem x) := by
  have hd : n / 33554432 = 11 := by have := SAlu.enc_lt x; omega
  unfold rawScalar
  rw [hd]
  show (((SAlu.dec 0 n).map (Instr.rem))) = _
  rw [SAlu.dec_enc n 11 x e1]; rfl
theorem Encoded.rem (x : SAlu) : Encoded.Statement (.rem x) := by
  intro sl n hs hw he
  have e0 : 369098752 + x.enc = n := Option.some.inj he
  have e1 : n = 11 * 33554432 + x.enc := by omega
  cases hs
  exact decode_raw (raw_rem n x e1) hw (by have := SAlu.enc_lt x; omega)
theorem raw_remu (n : Nat) (x : SAlu) (e1 : n = 12 * 33554432 + x.enc) : rawScalar n = some (Instr.remu x) := by
  have hd : n / 33554432 = 12 := by have := SAlu.enc_lt x; omega
  unfold rawScalar
  rw [hd]
  show (((SAlu.dec 0 n).map (Instr.remu))) = _
  rw [SAlu.dec_enc n 12 x e1]; rfl
theorem Encoded.remu (x : SAlu) : Encoded.Statement (.remu x) := by
  intro sl n hs hw he
  have e0 : 402653184 + x.enc = n := Option.some.inj he
  have e1 : n = 12 * 33554432 + x.enc := by omega
  cases hs
  exact decode_raw (raw_remu n x e1) hw (by have := SAlu.enc_lt x; omega)
theorem raw_and (n : Nat) (x : SAlu) (e1 : n = 13 * 33554432 + x.enc) : rawScalar n = some (Instr.and x) := by
  have hd : n / 33554432 = 13 := by have := SAlu.enc_lt x; omega
  unfold rawScalar
  rw [hd]
  show (((SAlu.dec 0 n).map (Instr.and))) = _
  rw [SAlu.dec_enc n 13 x e1]; rfl
theorem Encoded.and (x : SAlu) : Encoded.Statement (.and x) := by
  intro sl n hs hw he
  have e0 : 436207616 + x.enc = n := Option.some.inj he
  have e1 : n = 13 * 33554432 + x.enc := by omega
  cases hs
  exact decode_raw (raw_and n x e1) hw (by have := SAlu.enc_lt x; omega)
theorem raw_or (n : Nat) (x : SAlu) (e1 : n = 14 * 33554432 + x.enc) : rawScalar n = some (Instr.or x) := by
  have hd : n / 33554432 = 14 := by have := SAlu.enc_lt x; omega
  unfold rawScalar
  rw [hd]
  show (((SAlu.dec 0 n).map (Instr.or))) = _
  rw [SAlu.dec_enc n 14 x e1]; rfl
theorem Encoded.or (x : SAlu) : Encoded.Statement (.or x) := by
  intro sl n hs hw he
  have e0 : 469762048 + x.enc = n := Option.some.inj he
  have e1 : n = 14 * 33554432 + x.enc := by omega
  cases hs
  exact decode_raw (raw_or n x e1) hw (by have := SAlu.enc_lt x; omega)
theorem raw_xor (n : Nat) (x : SAlu) (e1 : n = 15 * 33554432 + x.enc) : rawScalar n = some (Instr.xor x) := by
  have hd : n / 33554432 = 15 := by have := SAlu.enc_lt x; omega
  unfold rawScalar
  rw [hd]
  show (((SAlu.dec 0 n).map (Instr.xor))) = _
  rw [SAlu.dec_enc n 15 x e1]; rfl
theorem Encoded.xor (x : SAlu) : Encoded.Statement (.xor x) := by
  intro sl n hs hw he
  have e0 : 503316480 + x.enc = n := Option.some.inj he
  have e1 : n = 15 * 33554432 + x.enc := by omega
  cases hs
  exact decode_raw (raw_xor n x e1) hw (by have := SAlu.enc_lt x; omega)
theorem raw_andn (n : Nat) (x : SAlu) (e1 : n = 16 * 33554432 + x.enc) : rawScalar n = some (Instr.andn x) := by
  have hd : n / 33554432 = 16 := by have := SAlu.enc_lt x; omega
  unfold rawScalar
  rw [hd]
  show (((SAlu.dec 0 n).map (Instr.andn))) = _
  rw [SAlu.dec_enc n 16 x e1]; rfl
theorem Encoded.andn (x : SAlu) : Encoded.Statement (.andn x) := by
  intro sl n hs hw he
  have e0 : 536870912 + x.enc = n := Option.some.inj he
  have e1 : n = 16 * 33554432 + x.enc := by omega
  cases hs
  exact decode_raw (raw_andn n x e1) hw (by have := SAlu.enc_lt x; omega)
theorem raw_not (n : Nat) (x : SUn) (e1 : n = 17 * 33554432 + x.enc) : rawScalar n = some (Instr.not x) := by
  have hd : n / 33554432 = 17 := by have := SUn.enc_lt x; omega
  unfold rawScalar
  rw [hd]
  show (((SUn.dec 0 n).map (Instr.not))) = _
  rw [SUn.dec_enc n 17 x e1]; rfl
theorem Encoded.not (x : SUn) : Encoded.Statement (.not x) := by
  intro sl n hs hw he
  have e0 : 570425344 + x.enc = n := Option.some.inj he
  have e1 : n = 17 * 33554432 + x.enc := by omega
  cases hs
  exact decode_raw (raw_not n x e1) hw (by have := SUn.enc_lt x; omega)
theorem raw_shl (n : Nat) (x : SAlu) (e1 : n = 18 * 33554432 + x.enc) : rawScalar n = some (Instr.shl x) := by
  have hd : n / 33554432 = 18 := by have := SAlu.enc_lt x; omega
  unfold rawScalar
  rw [hd]
  show (((SAlu.dec 0 n).map (Instr.shl))) = _
  rw [SAlu.dec_enc n 18 x e1]; rfl
theorem Encoded.shl (x : SAlu) : Encoded.Statement (.shl x) := by
  intro sl n hs hw he
  have e0 : 603979776 + x.enc = n := Option.some.inj he
  have e1 : n = 18 * 33554432 + x.enc := by omega
  cases hs
  exact decode_raw (raw_shl n x e1) hw (by have := SAlu.enc_lt x; omega)
theorem raw_shr (n : Nat) (x : SAlu) (e1 : n = 19 * 33554432 + x.enc) : rawScalar n = some (Instr.shr x) := by
  have hd : n / 33554432 = 19 := by have := SAlu.enc_lt x; omega
  unfold rawScalar
  rw [hd]
  show (((SAlu.dec 0 n).map (Instr.shr))) = _
  rw [SAlu.dec_enc n 19 x e1]; rfl
theorem Encoded.shr (x : SAlu) : Encoded.Statement (.shr x) := by
  intro sl n hs hw he
  have e0 : 637534208 + x.enc = n := Option.some.inj he
  have e1 : n = 19 * 33554432 + x.enc := by omega
  cases hs
  exact decode_raw (raw_shr n x e1) hw (by have := SAlu.enc_lt x; omega)
theorem raw_sar (n : Nat) (x : SAlu) (e1 : n = 20 * 33554432 + x.enc) : rawScalar n = some (Instr.sar x) := by
  have hd : n / 33554432 = 20 := by have := SAlu.enc_lt x; omega
  unfold rawScalar
  rw [hd]
  show (((SAlu.dec 0 n).map (Instr.sar))) = _
  rw [SAlu.dec_enc n 20 x e1]; rfl
theorem Encoded.sar (x : SAlu) : Encoded.Statement (.sar x) := by
  intro sl n hs hw he
  have e0 : 671088640 + x.enc = n := Option.some.inj he
  have e1 : n = 20 * 33554432 + x.enc := by omega
  cases hs
  exact decode_raw (raw_sar n x e1) hw (by have := SAlu.enc_lt x; omega)
theorem raw_rot (n : Nat) (x : SAlu) (e1 : n = 21 * 33554432 + x.enc) : rawScalar n = some (Instr.rot x) := by
  have hd : n / 33554432 = 21 := by have := SAlu.enc_lt x; omega
  unfold rawScalar
  rw [hd]
  show (((SAlu.dec 0 n).map (Instr.rot))) = _
  rw [SAlu.dec_enc n 21 x e1]; rfl
theorem Encoded.rot (x : SAlu) : Encoded.Statement (.rot x) := by
  intro sl n hs hw he
  have e0 : 704643072 + x.enc = n := Option.some.inj he
  have e1 : n = 21 * 33554432 + x.enc := by omega
  cases hs
  exact decode_raw (raw_rot n x e1) hw (by have := SAlu.enc_lt x; omega)
theorem raw_fsh (n : Nat) (x : SAlu) (e1 : n = 22 * 33554432 + x.enc) : rawScalar n = some (Instr.fsh x) := by
  have hd : n / 33554432 = 22 := by have := SAlu.enc_lt x; omega
  unfold rawScalar
  rw [hd]
  show (((SAlu.dec 0 n).map (Instr.fsh))) = _
  rw [SAlu.dec_enc n 22 x e1]; rfl
theorem Encoded.fsh (x : SAlu) : Encoded.Statement (.fsh x) := by
  intro sl n hs hw he
  have e0 : 738197504 + x.enc = n := Option.some.inj he
  have e1 : n = 22 * 33554432 + x.enc := by omega
  cases hs
  exact decode_raw (raw_fsh n x e1) hw (by have := SAlu.enc_lt x; omega)
theorem raw_bfx (n : Nat) (x : SAlu) (e1 : n = 23 * 33554432 + x.enc) : rawScalar n = some (Instr.bfx x) := by
  have hd : n / 33554432 = 23 := by have := SAlu.enc_lt x; omega
  unfold rawScalar
  rw [hd]
  show (((SAlu.dec 0 n).map (Instr.bfx))) = _
  rw [SAlu.dec_enc n 23 x e1]; rfl
theorem Encoded.bfx (x : SAlu) : Encoded.Statement (.bfx x) := by
  intro sl n hs hw he
  have e0 : 771751936 + x.enc = n := Option.some.inj he
  have e1 : n = 23 * 33554432 + x.enc := by omega
  cases hs
  exact decode_raw (raw_bfx n x e1) hw (by have := SAlu.enc_lt x; omega)
theorem raw_bfxs (n : Nat) (x : SAlu) (e1 : n = 24 * 33554432 + x.enc) : rawScalar n = some (Instr.bfxs x) := by
  have hd : n / 33554432 = 24 := by have := SAlu.enc_lt x; omega
  unfold rawScalar
  rw [hd]
  show (((SAlu.dec 0 n).map (Instr.bfxs))) = _
  rw [SAlu.dec_enc n 24 x e1]; rfl
theorem Encoded.bfxs (x : SAlu) : Encoded.Statement (.bfxs x) := by
  intro sl n hs hw he
  have e0 : 805306368 + x.enc = n := Option.some.inj he
  have e1 : n = 24 * 33554432 + x.enc := by omega
  cases hs
  exact decode_raw (raw_bfxs n x e1) hw (by have := SAlu.enc_lt x; omega)
theorem raw_bfi (n : Nat) (x : SAlu) (e1 : n = 25 * 33554432 + x.enc) : rawScalar n = some (Instr.bfi x) := by
  have hd : n / 33554432 = 25 := by have := SAlu.enc_lt x; omega
  unfold rawScalar
  rw [hd]
  show (((SAlu.dec 0 n).map (Instr.bfi))) = _
  rw [SAlu.dec_enc n 25 x e1]; rfl
theorem Encoded.bfi (x : SAlu) : Encoded.Statement (.bfi x) := by
  intro sl n hs hw he
  have e0 : 838860800 + x.enc = n := Option.some.inj he
  have e1 : n = 25 * 33554432 + x.enc := by omega
  cases hs
  exact decode_raw (raw_bfi n x e1) hw (by have := SAlu.enc_lt x; omega)
theorem raw_clz (n : Nat) (x : SUn) (e1 : n = 26 * 33554432 + x.enc) : rawScalar n = some (Instr.clz x) := by
  have hd : n / 33554432 = 26 := by have := SUn.enc_lt x; omega
  unfold rawScalar
  rw [hd]
  show (((SUn.dec 0 n).map (Instr.clz))) = _
  rw [SUn.dec_enc n 26 x e1]; rfl
theorem Encoded.clz (x : SUn) : Encoded.Statement (.clz x) := by
  intro sl n hs hw he
  have e0 : 872415232 + x.enc = n := Option.some.inj he
  have e1 : n = 26 * 33554432 + x.enc := by omega
  cases hs
  exact decode_raw (raw_clz n x e1) hw (by have := SUn.enc_lt x; omega)
theorem raw_ctz (n : Nat) (x : SUn) (e1 : n = 27 * 33554432 + x.enc) : rawScalar n = some (Instr.ctz x) := by
  have hd : n / 33554432 = 27 := by have := SUn.enc_lt x; omega
  unfold rawScalar
  rw [hd]
  show (((SUn.dec 0 n).map (Instr.ctz))) = _
  rw [SUn.dec_enc n 27 x e1]; rfl
theorem Encoded.ctz (x : SUn) : Encoded.Statement (.ctz x) := by
  intro sl n hs hw he
  have e0 : 905969664 + x.enc = n := Option.some.inj he
  have e1 : n = 27 * 33554432 + x.enc := by omega
  cases hs
  exact decode_raw (raw_ctz n x e1) hw (by have := SUn.enc_lt x; omega)
theorem raw_popc (n : Nat) (x : SUn) (e1 : n = 28 * 33554432 + x.enc) : rawScalar n = some (Instr.popc x) := by
  have hd : n / 33554432 = 28 := by have := SUn.enc_lt x; omega
  unfold rawScalar
  rw [hd]
  show (((SUn.dec 0 n).map (Instr.popc))) = _
  rw [SUn.dec_enc n 28 x e1]; rfl
theorem Encoded.popc (x : SUn) : Encoded.Statement (.popc x) := by
  intro sl n hs hw he
  have e0 : 939524096 + x.enc = n := Option.some.inj he
  have e1 : n = 28 * 33554432 + x.enc := by omega
  cases hs
  exact decode_raw (raw_popc n x e1) hw (by have := SUn.enc_lt x; omega)
theorem raw_min (n : Nat) (x : SAlu) (e1 : n = 29 * 33554432 + x.enc) : rawScalar n = some (Instr.min x) := by
  have hd : n / 33554432 = 29 := by have := SAlu.enc_lt x; omega
  unfold rawScalar
  rw [hd]
  show (((SAlu.dec 0 n).map (Instr.min))) = _
  rw [SAlu.dec_enc n 29 x e1]; rfl
theorem Encoded.min (x : SAlu) : Encoded.Statement (.min x) := by
  intro sl n hs hw he
  have e0 : 973078528 + x.enc = n := Option.some.inj he
  have e1 : n = 29 * 33554432 + x.enc := by omega
  cases hs
  exact decode_raw (raw_min n x e1) hw (by have := SAlu.enc_lt x; omega)
theorem raw_max (n : Nat) (x : SAlu) (e1 : n = 30 * 33554432 + x.enc) : rawScalar n = some (Instr.max x) := by
  have hd : n / 33554432 = 30 := by have := SAlu.enc_lt x; omega
  unfold rawScalar
  rw [hd]
  show (((SAlu.dec 0 n).map (Instr.max))) = _
  rw [SAlu.dec_enc n 30 x e1]; rfl
theorem Encoded.max (x : SAlu) : Encoded.Statement (.max x) := by
  intro sl n hs hw he
  have e0 : 1006632960 + x.enc = n := Option.some.inj he
  have e1 : n = 30 * 33554432 + x.enc := by omega
  cases hs
  exact decode_raw (raw_max n x e1) hw (by have := SAlu.enc_lt x; omega)
theorem raw_minu (n : Nat) (x : SAlu) (e1 : n = 31 * 33554432 + x.enc) : rawScalar n = some (Instr.minu x) := by
  have hd : n / 33554432 = 31 := by have := SAlu.enc_lt x; omega
  unfold rawScalar
  rw [hd]
  show (((SAlu.dec 0 n).map (Instr.minu))) = _
  rw [SAlu.dec_enc n 31 x e1]; rfl
theorem Encoded.minu (x : SAlu) : Encoded.Statement (.minu x) := by
  intro sl n hs hw he
  have e0 : 1040187392 + x.enc = n := Option.some.inj he
  have e1 : n = 31 * 33554432 + x.enc := by omega
  cases hs
  exact decode_raw (raw_minu n x e1) hw (by have := SAlu.enc_lt x; omega)
theorem raw_maxu (n : Nat) (x : SAlu) (e1 : n = 32 * 33554432 + x.enc) : rawScalar n = some (Instr.maxu x) := by
  have hd : n / 33554432 = 32 := by have := SAlu.enc_lt x; omega
  unfold rawScalar
  rw [hd]
  show (((SAlu.dec 0 n).map (Instr.maxu))) = _
  rw [SAlu.dec_enc n 32 x e1]; rfl
theorem Encoded.maxu (x : SAlu) : Encoded.Statement (.maxu x) := by
  intro sl n hs hw he
  have e0 : 1073741824 + x.enc = n := Option.some.inj he
  have e1 : n = 32 * 33554432 + x.enc := by omega
  cases hs
  exact decode_raw (raw_maxu n x e1) hw (by have := SAlu.enc_lt x; omega)
theorem raw_sel (n : Nat) (x : SSel) (e1 : n = 33 * 33554432 + x.enc) : rawScalar n = some (Instr.sel x) := by
  have hd : n / 33554432 = 33 := by have := SSel.enc_lt x; omega
  unfold rawScalar
  rw [hd]
  show (((SSel.dec 0 n).map (Instr.sel))) = _
  rw [SSel.dec_enc n 33 x e1]; rfl
theorem Encoded.sel (x : SSel) : Encoded.Statement (.sel x) := by
  intro sl n hs hw he
  have e0 : 1107296256 + x.enc = n := Option.some.inj he
  have e1 : n = 33 * 33554432 + x.enc := by omega
  cases hs
  exact decode_raw (raw_sel n x e1) hw (by have := SSel.enc_lt x; omega)
theorem raw_cmpeq (n : Nat) (x : SCmp) (e1 : n = 34 * 33554432 + x.enc) : rawScalar n = some (Instr.cmpeq x) := by
  have hd : n / 33554432 = 34 := by have := SCmp.enc_lt x; omega
  unfold rawScalar
  rw [hd]
  show (((SCmp.dec 0 n).map (Instr.cmpeq))) = _
  rw [SCmp.dec_enc n 34 x e1]; rfl
theorem Encoded.cmpeq (x : SCmp) : Encoded.Statement (.cmpeq x) := by
  intro sl n hs hw he
  have e0 : 1140850688 + x.enc = n := Option.some.inj he
  have e1 : n = 34 * 33554432 + x.enc := by omega
  cases hs
  exact decode_raw (raw_cmpeq n x e1) hw (by have := SCmp.enc_lt x; omega)
theorem raw_cmpne (n : Nat) (x : SCmp) (e1 : n = 35 * 33554432 + x.enc) : rawScalar n = some (Instr.cmpne x) := by
  have hd : n / 33554432 = 35 := by have := SCmp.enc_lt x; omega
  unfold rawScalar
  rw [hd]
  show (((SCmp.dec 0 n).map (Instr.cmpne))) = _
  rw [SCmp.dec_enc n 35 x e1]; rfl
theorem Encoded.cmpne (x : SCmp) : Encoded.Statement (.cmpne x) := by
  intro sl n hs hw he
  have e0 : 1174405120 + x.enc = n := Option.some.inj he
  have e1 : n = 35 * 33554432 + x.enc := by omega
  cases hs
  exact decode_raw (raw_cmpne n x e1) hw (by have := SCmp.enc_lt x; omega)
theorem raw_cmplt (n : Nat) (x : SCmp) (e1 : n = 36 * 33554432 + x.enc) : rawScalar n = some (Instr.cmplt x) := by
  have hd : n / 33554432 = 36 := by have := SCmp.enc_lt x; omega
  unfold rawScalar
  rw [hd]
  show (((SCmp.dec 0 n).map (Instr.cmplt))) = _
  rw [SCmp.dec_enc n 36 x e1]; rfl
theorem Encoded.cmplt (x : SCmp) : Encoded.Statement (.cmplt x) := by
  intro sl n hs hw he
  have e0 : 1207959552 + x.enc = n := Option.some.inj he
  have e1 : n = 36 * 33554432 + x.enc := by omega
  cases hs
  exact decode_raw (raw_cmplt n x e1) hw (by have := SCmp.enc_lt x; omega)
theorem raw_cmple (n : Nat) (x : SCmp) (e1 : n = 37 * 33554432 + x.enc) : rawScalar n = some (Instr.cmple x) := by
  have hd : n / 33554432 = 37 := by have := SCmp.enc_lt x; omega
  unfold rawScalar
  rw [hd]
  show (((SCmp.dec 0 n).map (Instr.cmple))) = _
  rw [SCmp.dec_enc n 37 x e1]; rfl
theorem Encoded.cmple (x : SCmp) : Encoded.Statement (.cmple x) := by
  intro sl n hs hw he
  have e0 : 1241513984 + x.enc = n := Option.some.inj he
  have e1 : n = 37 * 33554432 + x.enc := by omega
  cases hs
  exact decode_raw (raw_cmple n x e1) hw (by have := SCmp.enc_lt x; omega)
theorem raw_cmpltu (n : Nat) (x : SCmp) (e1 : n = 38 * 33554432 + x.enc) : rawScalar n = some (Instr.cmpltu x) := by
  have hd : n / 33554432 = 38 := by have := SCmp.enc_lt x; omega
  unfold rawScalar
  rw [hd]
  show (((SCmp.dec 0 n).map (Instr.cmpltu))) = _
  rw [SCmp.dec_enc n 38 x e1]; rfl
theorem Encoded.cmpltu (x : SCmp) : Encoded.Statement (.cmpltu x) := by
  intro sl n hs hw he
  have e0 : 1275068416 + x.enc = n := Option.some.inj he
  have e1 : n = 38 * 33554432 + x.enc := by omega
  cases hs
  exact decode_raw (raw_cmpltu n x e1) hw (by have := SCmp.enc_lt x; omega)
theorem raw_cmpleu (n : Nat) (x : SCmp) (e1 : n = 39 * 33554432 + x.enc) : rawScalar n = some (Instr.cmpleu x) := by
  have hd : n / 33554432 = 39 := by have := SCmp.enc_lt x; omega
  unfold rawScalar
  rw [hd]
  show (((SCmp.dec 0 n).map (Instr.cmpleu))) = _
  rw [SCmp.dec_enc n 39 x e1]; rfl
theorem Encoded.cmpleu (x : SCmp) : Encoded.Statement (.cmpleu x) := by
  intro sl n hs hw he
  have e0 : 1308622848 + x.enc = n := Option.some.inj he
  have e1 : n = 39 * 33554432 + x.enc := by omega
  cases hs
  exact decode_raw (raw_cmpleu n x e1) hw (by have := SCmp.enc_lt x; omega)
theorem raw_cmpi (n : Nat) (x : SCmpi) (e1 : n = 40 * 33554432 + x.enc) : rawScalar n = some (Instr.cmpi x) := by
  have hd : n / 33554432 = 40 := by have := SCmpi.enc_lt x; omega
  unfold rawScalar
  rw [hd]
  show (((SCmpi.dec 0 n).map (Instr.cmpi))) = _
  rw [SCmpi.dec_enc n 40 x e1]; rfl
theorem Encoded.cmpi (x : SCmpi) : Encoded.Statement (.cmpi x) := by
  intro sl n hs hw he
  have e0 : 1342177280 + x.enc = n := Option.some.inj he
  have e1 : n = 40 * 33554432 + x.enc := by omega
  cases hs
  exact decode_raw (raw_cmpi n x e1) hw (by have := SCmpi.enc_lt x; omega)
theorem raw_pand (n : Nat) (x : SPred3) (e1 : n = 41 * 33554432 + x.enc) : rawScalar n = some (Instr.pand x) := by
  have hd : n / 33554432 = 41 := by have := SPred3.enc_lt x; omega
  unfold rawScalar
  rw [hd]
  show (((SPred3.dec 0 n).map (Instr.pand))) = _
  rw [SPred3.dec_enc n 41 x e1]; rfl
theorem Encoded.pand (x : SPred3) : Encoded.Statement (.pand x) := by
  intro sl n hs hw he
  have e0 : 1375731712 + x.enc = n := Option.some.inj he
  have e1 : n = 41 * 33554432 + x.enc := by omega
  cases hs
  exact decode_raw (raw_pand n x e1) hw (by have := SPred3.enc_lt x; omega)
theorem raw_por (n : Nat) (x : SPred3) (e1 : n = 42 * 33554432 + x.enc) : rawScalar n = some (Instr.por x) := by
  have hd : n / 33554432 = 42 := by have := SPred3.enc_lt x; omega
  unfold rawScalar
  rw [hd]
  show (((SPred3.dec 0 n).map (Instr.por))) = _
  rw [SPred3.dec_enc n 42 x e1]; rfl
theorem Encoded.por (x : SPred3) : Encoded.Statement (.por x) := by
  intro sl n hs hw he
  have e0 : 1409286144 + x.enc = n := Option.some.inj he
  have e1 : n = 42 * 33554432 + x.enc := by omega
  cases hs
  exact decode_raw (raw_por n x e1) hw (by have := SPred3.enc_lt x; omega)
theorem raw_pxor (n : Nat) (x : SPred3) (e1 : n = 43 * 33554432 + x.enc) : rawScalar n = some (Instr.pxor x) := by
  have hd : n / 33554432 = 43 := by have := SPred3.enc_lt x; omega
  unfold rawScalar
  rw [hd]
  show (((SPred3.dec 0 n).map (Instr.pxor))) = _
  rw [SPred3.dec_enc n 43 x e1]; rfl
theorem Encoded.pxor (x : SPred3) : Encoded.Statement (.pxor x) := by
  intro sl n hs hw he
  have e0 : 1442840576 + x.enc = n := Option.some.inj he
  have e1 : n = 43 * 33554432 + x.enc := by omega
  cases hs
  exact decode_raw (raw_pxor n x e1) hw (by have := SPred3.enc_lt x; omega)
theorem raw_pnot (n : Nat) (x : SPred2) (e1 : n = 44 * 33554432 + x.enc) : rawScalar n = some (Instr.pnot x) := by
  have hd : n / 33554432 = 44 := by have := SPred2.enc_lt x; omega
  unfold rawScalar
  rw [hd]
  show (((SPred2.dec 0 n).map (Instr.pnot))) = _
  rw [SPred2.dec_enc n 44 x e1]; rfl
theorem Encoded.pnot (x : SPred2) : Encoded.Statement (.pnot x) := by
  intro sl n hs hw he
  have e0 : 1476395008 + x.enc = n := Option.some.inj he
  have e1 : n = 44 * 33554432 + x.enc := by omega
  cases hs
  exact decode_raw (raw_pnot n x e1) hw (by have := SPred2.enc_lt x; omega)
theorem raw_pmov (n : Nat) (x : SPred2) (e1 : n = 45 * 33554432 + x.enc) : rawScalar n = some (Instr.pmov x) := by
  have hd : n / 33554432 = 45 := by have := SPred2.enc_lt x; omega
  unfold rawScalar
  rw [hd]
  show (((SPred2.dec 0 n).map (Instr.pmov))) = _
  rw [SPred2.dec_enc n 45 x e1]; rfl
theorem Encoded.pmov (x : SPred2) : Encoded.Statement (.pmov x) := by
  intro sl n hs hw he
  have e0 : 1509949440 + x.enc = n := Option.some.inj he
  have e1 : n = 45 * 33554432 + x.enc := by omega
  cases hs
  exact decode_raw (raw_pmov n x e1) hw (by have := SPred2.enc_lt x; omega)
theorem raw_fadd (n : Nat) (x : SFlt3) (e1 : n = 46 * 33554432 + x.enc) : rawScalar n = some (Instr.fadd x) := by
  have hd : n / 33554432 = 46 := by have := SFlt3.enc_lt x; omega
  unfold rawScalar
  rw [hd]
  show (((SFlt3.dec 0 n).map (Instr.fadd))) = _
  rw [SFlt3.dec_enc n 46 x e1]; rfl
theorem Encoded.fadd (x : SFlt3) : Encoded.Statement (.fadd x) := by
  intro sl n hs hw he
  have e0 : 1543503872 + x.enc = n := Option.some.inj he
  have e1 : n = 46 * 33554432 + x.enc := by omega
  cases hs
  exact decode_raw (raw_fadd n x e1) hw (by have := SFlt3.enc_lt x; omega)
theorem raw_fsub (n : Nat) (x : SFlt3) (e1 : n = 47 * 33554432 + x.enc) : rawScalar n = some (Instr.fsub x) := by
  have hd : n / 33554432 = 47 := by have := SFlt3.enc_lt x; omega
  unfold rawScalar
  rw [hd]
  show (((SFlt3.dec 0 n).map (Instr.fsub))) = _
  rw [SFlt3.dec_enc n 47 x e1]; rfl
theorem Encoded.fsub (x : SFlt3) : Encoded.Statement (.fsub x) := by
  intro sl n hs hw he
  have e0 : 1577058304 + x.enc = n := Option.some.inj he
  have e1 : n = 47 * 33554432 + x.enc := by omega
  cases hs
  exact decode_raw (raw_fsub n x e1) hw (by have := SFlt3.enc_lt x; omega)
theorem raw_fmul (n : Nat) (x : SFlt3) (e1 : n = 48 * 33554432 + x.enc) : rawScalar n = some (Instr.fmul x) := by
  have hd : n / 33554432 = 48 := by have := SFlt3.enc_lt x; omega
  unfold rawScalar
  rw [hd]
  show (((SFlt3.dec 0 n).map (Instr.fmul))) = _
  rw [SFlt3.dec_enc n 48 x e1]; rfl
theorem Encoded.fmul (x : SFlt3) : Encoded.Statement (.fmul x) := by
  intro sl n hs hw he
  have e0 : 1610612736 + x.enc = n := Option.some.inj he
  have e1 : n = 48 * 33554432 + x.enc := by omega
  cases hs
  exact decode_raw (raw_fmul n x e1) hw (by have := SFlt3.enc_lt x; omega)
theorem raw_fma (n : Nat) (x : SFlt3) (e1 : n = 49 * 33554432 + x.enc) : rawScalar n = some (Instr.fma x) := by
  have hd : n / 33554432 = 49 := by have := SFlt3.enc_lt x; omega
  unfold rawScalar
  rw [hd]
  show (((SFlt3.dec 0 n).map (Instr.fma))) = _
  rw [SFlt3.dec_enc n 49 x e1]; rfl
theorem Encoded.fma (x : SFlt3) : Encoded.Statement (.fma x) := by
  intro sl n hs hw he
  have e0 : 1644167168 + x.enc = n := Option.some.inj he
  have e1 : n = 49 * 33554432 + x.enc := by omega
  cases hs
  exact decode_raw (raw_fma n x e1) hw (by have := SFlt3.enc_lt x; omega)
theorem raw_fdiv (n : Nat) (x : SFlt3) (e1 : n = 50 * 33554432 + x.enc) : rawScalar n = some (Instr.fdiv x) := by
  have hd : n / 33554432 = 50 := by have := SFlt3.enc_lt x; omega
  unfold rawScalar
  rw [hd]
  show (((SFlt3.dec 0 n).map (Instr.fdiv))) = _
  rw [SFlt3.dec_enc n 50 x e1]; rfl
theorem Encoded.fdiv (x : SFlt3) : Encoded.Statement (.fdiv x) := by
  intro sl n hs hw he
  have e0 : 1677721600 + x.enc = n := Option.some.inj he
  have e1 : n = 50 * 33554432 + x.enc := by omega
  cases hs
  exact decode_raw (raw_fdiv n x e1) hw (by have := SFlt3.enc_lt x; omega)
theorem raw_fsqrt (n : Nat) (x : SFlt2) (e1 : n = 51 * 33554432 + x.enc) : rawScalar n = some (Instr.fsqrt x) := by
  have hd : n / 33554432 = 51 := by have := SFlt2.enc_lt x; omega
  unfold rawScalar
  rw [hd]
  show (((SFlt2.dec 0 n).map (Instr.fsqrt))) = _
  rw [SFlt2.dec_enc n 51 x e1]; rfl
theorem Encoded.fsqrt (x : SFlt2) : Encoded.Statement (.fsqrt x) := by
  intro sl n hs hw he
  have e0 : 1711276032 + x.enc = n := Option.some.inj he
  have e1 : n = 51 * 33554432 + x.enc := by omega
  cases hs
  exact decode_raw (raw_fsqrt n x e1) hw (by have := SFlt2.enc_lt x; omega)
theorem raw_fcvt (n : Nat) (x : SFcvt) (e1 : n = 52 * 33554432 + x.enc) : rawScalar n = some (Instr.fcvt x) := by
  have hd : n / 33554432 = 52 := by have := SFcvt.enc_lt x; omega
  unfold rawScalar
  rw [hd]
  show (((SFcvt.dec 0 n).map (Instr.fcvt))) = _
  rw [SFcvt.dec_enc n 52 x e1]; rfl
theorem Encoded.fcvt (x : SFcvt) : Encoded.Statement (.fcvt x) := by
  intro sl n hs hw he
  have e0 : 1744830464 + x.enc = n := Option.some.inj he
  have e1 : n = 52 * 33554432 + x.enc := by omega
  cases hs
  exact decode_raw (raw_fcvt n x e1) hw (by have := SFcvt.enc_lt x; omega)
theorem raw_fcmp (n : Nat) (x : SFcmp) (e1 : n = 53 * 33554432 + x.enc) : rawScalar n = some (Instr.fcmp x) := by
  have hd : n / 33554432 = 53 := by have := SFcmp.enc_lt x; omega
  unfold rawScalar
  rw [hd]
  show (((SFcmp.dec 0 n).map (Instr.fcmp))) = _
  rw [SFcmp.dec_enc n 53 x e1]; rfl
theorem Encoded.fcmp (x : SFcmp) : Encoded.Statement (.fcmp x) := by
  intro sl n hs hw he
  have e0 : 1778384896 + x.enc = n := Option.some.inj he
  have e1 : n = 53 * 33554432 + x.enc := by omega
  cases hs
  exact decode_raw (raw_fcmp n x e1) hw (by have := SFcmp.enc_lt x; omega)
theorem raw_fmin (n : Nat) (x : SFmin) (e1 : n = 54 * 33554432 + x.enc) : rawScalar n = some (Instr.fmin x) := by
  have hd : n / 33554432 = 54 := by have := SFmin.enc_lt x; omega
  unfold rawScalar
  rw [hd]
  show (((SFmin.dec 0 n).map (Instr.fmin))) = _
  rw [SFmin.dec_enc n 54 x e1]; rfl
theorem Encoded.fmin (x : SFmin) : Encoded.Statement (.fmin x) := by
  intro sl n hs hw he
  have e0 : 1811939328 + x.enc = n := Option.some.inj he
  have e1 : n = 54 * 33554432 + x.enc := by omega
  cases hs
  exact decode_raw (raw_fmin n x e1) hw (by have := SFmin.enc_lt x; omega)
theorem raw_fmax (n : Nat) (x : SFmin) (e1 : n = 55 * 33554432 + x.enc) : rawScalar n = some (Instr.fmax x) := by
  have hd : n / 33554432 = 55 := by have := SFmin.enc_lt x; omega
  unfold rawScalar
  rw [hd]
  show (((SFmin.dec 0 n).map (Instr.fmax))) = _
  rw [SFmin.dec_enc n 55 x e1]; rfl
theorem Encoded.fmax (x : SFmin) : Encoded.Statement (.fmax x) := by
  intro sl n hs hw he
  have e0 : 1845493760 + x.enc = n := Option.some.inj he
  have e1 : n = 55 * 33554432 + x.enc := by omega
  cases hs
  exact decode_raw (raw_fmax n x e1) hw (by have := SFmin.enc_lt x; omega)
theorem raw_ld (n : Nat) (x : SMem) (e1 : n = 56 * 33554432 + x.enc) : rawScalar n = some (Instr.ld x) := by
  have hd : n / 33554432 = 56 := by have := SMem.enc_lt x; omega
  unfold rawScalar
  rw [hd]
  show (((SMem.dec 0 n).map (Instr.ld))) = _
  rw [SMem.dec_enc n 56 x e1]; rfl
theorem Encoded.ld (x : SMem) : Encoded.Statement (.ld x) := by
  intro sl n hs hw he
  have e0 : 1879048192 + x.enc = n := Option.some.inj he
  have e1 : n = 56 * 33554432 + x.enc := by omega
  cases hs
  exact decode_raw (raw_ld n x e1) hw (by have := SMem.enc_lt x; omega)
theorem raw_lds (n : Nat) (x : SMem) (e1 : n = 57 * 33554432 + x.enc) : rawScalar n = some (Instr.lds x) := by
  have hd : n / 33554432 = 57 := by have := SMem.enc_lt x; omega
  unfold rawScalar
  rw [hd]
  show (((SMem.dec 0 n).map (Instr.lds))) = _
  rw [SMem.dec_enc n 57 x e1]; rfl
theorem Encoded.lds (x : SMem) : Encoded.Statement (.lds x) := by
  intro sl n hs hw he
  have e0 : 1912602624 + x.enc = n := Option.some.inj he
  have e1 : n = 57 * 33554432 + x.enc := by omega
  cases hs
  exact decode_raw (raw_lds n x e1) hw (by have := SMem.enc_lt x; omega)
theorem raw_st (n : Nat) (x : SMem) (e1 : n = 58 * 33554432 + x.enc) : rawScalar n = some (Instr.st x) := by
  have hd : n / 33554432 = 58 := by have := SMem.enc_lt x; omega
  unfold rawScalar
  rw [hd]
  show (((SMem.dec 0 n).map (Instr.st))) = _
  rw [SMem.dec_enc n 58 x e1]; rfl
theorem Encoded.st (x : SMem) : Encoded.Statement (.st x) := by
  intro sl n hs hw he
  have e0 : 1946157056 + x.enc = n := Option.some.inj he
  have e1 : n = 58 * 33554432 + x.enc := by omega
  cases hs
  exact decode_raw (raw_st n x e1) hw (by have := SMem.enc_lt x; omega)
theorem raw_ldl (n : Nat) (x : SImm) (e1 : n = 59 * 33554432 + x.enc) : rawScalar n = some (Instr.ldl x) := by
  have hd : n / 33554432 = 59 := by have := SImm.enc_lt x; omega
  unfold rawScalar
  rw [hd]
  show (((SImm.dec 0 n).map (Instr.ldl))) = _
  rw [SImm.dec_enc n 59 x e1]; rfl
theorem Encoded.ldl (x : SImm) : Encoded.Statement (.ldl x) := by
  intro sl n hs hw he
  have e0 : 1979711488 + x.enc = n := Option.some.inj he
  have e1 : n = 59 * 33554432 + x.enc := by omega
  cases hs
  exact decode_raw (raw_ldl n x e1) hw (by have := SImm.enc_lt x; omega)
theorem raw_invl (n : Nat) (x : SInv) (e1 : n = 60 * 33554432 + x.enc) : rawScalar n = some (Instr.invl x) := by
  have hd : n / 33554432 = 60 := by have := SInv.enc_lt x; omega
  unfold rawScalar
  rw [hd]
  show (((SInv.dec 0 n).map (Instr.invl))) = _
  rw [SInv.dec_enc n 60 x e1]; rfl
theorem Encoded.invl (x : SInv) : Encoded.Statement (.invl x) := by
  intro sl n hs hw he
  have e0 : 2013265920 + x.enc = n := Option.some.inj he
  have e1 : n = 60 * 33554432 + x.enc := by omega
  cases hs
  exact decode_raw (raw_invl n x e1) hw (by have := SInv.enc_lt x; omega)
theorem raw_fll1 (n : Nat) (x : SNone) (e1 : n = 61 * 33554432 + x.enc) : rawScalar n = some (Instr.fll1 x) := by
  have hd : n / 33554432 = 61 := by have := SNone.enc_lt x; omega
  unfold rawScalar
  rw [hd]
  show (((SNone.dec 0 n).map (Instr.fll1))) = _
  rw [SNone.dec_enc n 61 x e1]; rfl
theorem Encoded.fll1 (x : SNone) : Encoded.Statement (.fll1 x) := by
  intro sl n hs hw he
  have e0 : 2046820352 + x.enc = n := Option.some.inj he
  have e1 : n = 61 * 33554432 + x.enc := by omega
  cases hs
  exact decode_raw (raw_fll1 n x e1) hw (by have := SNone.enc_lt x; omega)
theorem raw_aadd (n : Nat) (x : SAlu) (e1 : n = 62 * 33554432 + x.enc) : rawScalar n = some (Instr.aadd x) := by
  have hd : n / 33554432 = 62 := by have := SAlu.enc_lt x; omega
  unfold rawScalar
  rw [hd]
  show (((SAlu.dec 0 n).map (Instr.aadd))) = _
  rw [SAlu.dec_enc n 62 x e1]; rfl
theorem Encoded.aadd (x : SAlu) : Encoded.Statement (.aadd x) := by
  intro sl n hs hw he
  have e0 : 2080374784 + x.enc = n := Option.some.inj he
  have e1 : n = 62 * 33554432 + x.enc := by omega
  cases hs
  exact decode_raw (raw_aadd n x e1) hw (by have := SAlu.enc_lt x; omega)
theorem raw_axchg (n : Nat) (x : SAlu) (e1 : n = 63 * 33554432 + x.enc) : rawScalar n = some (Instr.axchg x) := by
  have hd : n / 33554432 = 63 := by have := SAlu.enc_lt x; omega
  unfold rawScalar
  rw [hd]
  show (((SAlu.dec 0 n).map (Instr.axchg))) = _
  rw [SAlu.dec_enc n 63 x e1]; rfl
theorem Encoded.axchg (x : SAlu) : Encoded.Statement (.axchg x) := by
  intro sl n hs hw he
  have e0 : 2113929216 + x.enc = n := Option.some.inj he
  have e1 : n = 63 * 33554432 + x.enc := by omega
  cases hs
  exact decode_raw (raw_axchg n x e1) hw (by have := SAlu.enc_lt x; omega)
theorem raw_acas (n : Nat) (x : SAlu) (e1 : n = 64 * 33554432 + x.enc) : rawScalar n = some (Instr.acas x) := by
  have hd : n / 33554432 = 64 := by have := SAlu.enc_lt x; omega
  unfold rawScalar
  rw [hd]
  show (((SAlu.dec 0 n).map (Instr.acas))) = _
  rw [SAlu.dec_enc n 64 x e1]; rfl
theorem Encoded.acas (x : SAlu) : Encoded.Statement (.acas x) := by
  intro sl n hs hw he
  have e0 : 2147483648 + x.enc = n := Option.some.inj he
  have e1 : n = 64 * 33554432 + x.enc := by omega
  cases hs
  exact decode_raw (raw_acas n x e1) hw (by have := SAlu.enc_lt x; omega)
theorem raw_amin (n : Nat) (x : SAmin) (e1 : n = 65 * 33554432 + x.enc) : rawScalar n = some (Instr.amin x) := by
  have hd : n / 33554432 = 65 := by have := SAmin.enc_lt x; omega
  unfold rawScalar
  rw [hd]
  show (((SAmin.dec 0 n).map (Instr.amin))) = _
  rw [SAmin.dec_enc n 65 x e1]; rfl
theorem Encoded.amin (x : SAmin) : Encoded.Statement (.amin x) := by
  intro sl n hs hw he
  have e0 : 2181038080 + x.enc = n := Option.some.inj he
  have e1 : n = 65 * 33554432 + x.enc := by omega
  cases hs
  exact decode_raw (raw_amin n x e1) hw (by have := SAmin.enc_lt x; omega)
theorem raw_amax (n : Nat) (x : SAmin) (e1 : n = 66 * 33554432 + x.enc) : rawScalar n = some (Instr.amax x) := by
  have hd : n / 33554432 = 66 := by have := SAmin.enc_lt x; omega
  unfold rawScalar
  rw [hd]
  show (((SAmin.dec 0 n).map (Instr.amax))) = _
  rw [SAmin.dec_enc n 66 x e1]; rfl
theorem Encoded.amax (x : SAmin) : Encoded.Statement (.amax x) := by
  intro sl n hs hw he
  have e0 : 2214592512 + x.enc = n := Option.some.inj he
  have e1 : n = 66 * 33554432 + x.enc := by omega
  cases hs
  exact decode_raw (raw_amax n x e1) hw (by have := SAmin.enc_lt x; omega)
theorem raw_aand (n : Nat) (x : SAlu) (e1 : n = 67 * 33554432 + x.enc) : rawScalar n = some (Instr.aand x) := by
  have hd : n / 33554432 = 67 := by have := SAlu.enc_lt x; omega
  unfold rawScalar
  rw [hd]
  show (((SAlu.dec 0 n).map (Instr.aand))) = _
  rw [SAlu.dec_enc n 67 x e1]; rfl
theorem Encoded.aand (x : SAlu) : Encoded.Statement (.aand x) := by
  intro sl n hs hw he
  have e0 : 2248146944 + x.enc = n := Option.some.inj he
  have e1 : n = 67 * 33554432 + x.enc := by omega
  cases hs
  exact decode_raw (raw_aand n x e1) hw (by have := SAlu.enc_lt x; omega)
theorem raw_aor (n : Nat) (x : SAlu) (e1 : n = 68 * 33554432 + x.enc) : rawScalar n = some (Instr.aor x) := by
  have hd : n / 33554432 = 68 := by have := SAlu.enc_lt x; omega
  unfold rawScalar
  rw [hd]
  show (((SAlu.dec 0 n).map (Instr.aor))) = _
  rw [SAlu.dec_enc n 68 x e1]; rfl
theorem Encoded.aor (x : SAlu) : Encoded.Statement (.aor x) := by
  intro sl n hs hw he
  have e0 : 2281701376 + x.enc = n := Option.some.inj he
  have e1 : n = 68 * 33554432 + x.enc := by omega
  cases hs
  exact decode_raw (raw_aor n x e1) hw (by have := SAlu.enc_lt x; omega)
theorem raw_afadd (n : Nat) (x : SAlu) (e1 : n = 69 * 33554432 + x.enc) : rawScalar n = some (Instr.afadd x) := by
  have hd : n / 33554432 = 69 := by have := SAlu.enc_lt x; omega
  unfold rawScalar
  rw [hd]
  show (((SAlu.dec 0 n).map (Instr.afadd))) = _
  rw [SAlu.dec_enc n 69 x e1]; rfl
theorem Encoded.afadd (x : SAlu) : Encoded.Statement (.afadd x) := by
  intro sl n hs hw he
  have e0 : 2315255808 + x.enc = n := Option.some.inj he
  have e1 : n = 69 * 33554432 + x.enc := by omega
  cases hs
  exact decode_raw (raw_afadd n x e1) hw (by have := SAlu.enc_lt x; omega)
theorem raw_scalarGetm (n : Nat) (x : SGetm) (e1 : n = 70 * 33554432 + x.enc) : rawScalar n = some (Instr.scalarGetm x) := by
  have hd : n / 33554432 = 70 := by have := SGetm.enc_lt x; omega
  unfold rawScalar
  rw [hd]
  show (((SGetm.dec 0 n).map (Instr.scalarGetm))) = _
  rw [SGetm.dec_enc n 70 x e1]; rfl
theorem Encoded.scalarGetm (x : SGetm) : Encoded.Statement (.scalarGetm x) := by
  intro sl n hs hw he
  have e0 : 2348810240 + x.enc = n := Option.some.inj he
  have e1 : n = 70 * 33554432 + x.enc := by omega
  cases hs
  exact decode_raw (raw_scalarGetm n x e1) hw (by have := SGetm.enc_lt x; omega)
theorem raw_scalarPutm (n : Nat) (x : SPutm) (e1 : n = 71 * 33554432 + x.enc) : rawScalar n = some (Instr.scalarPutm x) := by
  have hd : n / 33554432 = 71 := by have := SPutm.enc_lt x; omega
  unfold rawScalar
  rw [hd]
  show (((SPutm.dec 0 n).map (Instr.scalarPutm))) = _
  rw [SPutm.dec_enc n 71 x e1]; rfl
theorem Encoded.scalarPutm (x : SPutm) : Encoded.Statement (.scalarPutm x) := by
  intro sl n hs hw he
  have e0 : 2382364672 + x.enc = n := Option.some.inj he
  have e1 : n = 71 * 33554432 + x.enc := by omega
  cases hs
  exact decode_raw (raw_scalarPutm n x e1) hw (by have := SPutm.enc_lt x; omega)
theorem raw_scalarXfer (n : Nat) (x : SXfer) (e1 : n = 72 * 33554432 + x.enc) : rawScalar n = some (Instr.scalarXfer x) := by
  have hd : n / 33554432 = 72 := by have := SXfer.enc_lt x; omega
  unfold rawScalar
  rw [hd]
  show (((SXfer.dec 0 n).map (Instr.scalarXfer))) = _
  rw [SXfer.dec_enc n 72 x e1]; rfl
theorem Encoded.scalarXfer (x : SXfer) : Encoded.Statement (.scalarXfer x) := by
  intro sl n hs hw he
  have e0 : 2415919104 + x.enc = n := Option.some.inj he
  have e1 : n = 72 * 33554432 + x.enc := by omega
  cases hs
  exact decode_raw (raw_scalarXfer n x e1) hw (by have := SXfer.enc_lt x; omega)
theorem raw_mfs (n : Nat) (x : SMfs) (e1 : n = 73 * 33554432 + x.enc) : rawScalar n = some (Instr.mfs x) := by
  have hd : n / 33554432 = 73 := by have := SMfs.enc_lt x; omega
  unfold rawScalar
  rw [hd]
  show (((SMfs.dec 0 n).map (Instr.mfs))) = _
  rw [SMfs.dec_enc n 73 x e1]; rfl
theorem Encoded.mfs (x : SMfs) : Encoded.Statement (.mfs x) := by
  intro sl n hs hw he
  have e0 : 2449473536 + x.enc = n := Option.some.inj he
  have e1 : n = 73 * 33554432 + x.enc := by omega
  cases hs
  exact decode_raw (raw_mfs n x e1) hw (by have := SMfs.enc_lt x; omega)
theorem raw_mts (n : Nat) (x : SMts) (e1 : n = 74 * 33554432 + x.enc) : rawScalar n = some (Instr.mts x) := by
  have hd : n / 33554432 = 74 := by have := SMts.enc_lt x; omega
  unfold rawScalar
  rw [hd]
  show (((SMts.dec 0 n).map (Instr.mts))) = _
  rw [SMts.dec_enc n 74 x e1]; rfl
theorem Encoded.mts (x : SMts) : Encoded.Statement (.mts x) := by
  intro sl n hs hw he
  have e0 : 2483027968 + x.enc = n := Option.some.inj he
  have e1 : n = 74 * 33554432 + x.enc := by omega
  cases hs
  exact decode_raw (raw_mts n x e1) hw (by have := SMts.enc_lt x; omega)
theorem raw_tlbinvPage (n : Nat) (x : PDA) (e1 : n = 100 * 33554432 + x.enc) : rawScalar n = some (Instr.tlbinvPage x) := by
  have hd : n / 33554432 = 100 := by have := PDA.enc_lt x; omega
  unfold rawScalar
  rw [hd]
  show (((PDA.dec 0 n).map (Instr.tlbinvPage)) <|> ((PDAB.dec 1 n).map (Instr.tlbinvRange)) <|> ((PDA.dec 2 n).map (Instr.tlbinvAll))) = _
  rw [PDA.dec_enc n 100 x e1]; rfl
theorem Encoded.tlbinvPage (x : PDA) : Encoded.Statement (.tlbinvPage x) := by
  intro sl n hs hw he
  have e0 : 3355443200 + x.enc = n := Option.some.inj he
  have e1 : n = 100 * 33554432 + x.enc := by omega
  cases hs
  exact decode_raw (raw_tlbinvPage n x e1) hw (by have := PDA.enc_lt x; omega)
theorem raw_tlbinvRange (n : Nat) (x : PDAB) (e1 : n = 100 * 33554432 + 1 + x.enc) : rawScalar n = some (Instr.tlbinvRange x) := by
  have hd : n / 33554432 = 100 := by have := PDAB.enc_lt_1 x; omega
  unfold rawScalar
  rw [hd]
  show (((PDA.dec 0 n).map (Instr.tlbinvPage)) <|> ((PDAB.dec 1 n).map (Instr.tlbinvRange)) <|> ((PDA.dec 2 n).map (Instr.tlbinvAll))) = _
  rw [PDA.dec_0_on_PDAB_1 n 100 x e1, PDAB.dec_enc_1 n 100 x e1]; rfl
theorem Encoded.tlbinvRange (x : PDAB) : Encoded.Statement (.tlbinvRange x) := by
  intro sl n hs hw he
  have e0 : 3355443201 + x.enc = n := Option.some.inj he
  have e1 : n = 100 * 33554432 + 1 + x.enc := by omega
  cases hs
  exact decode_raw (raw_tlbinvRange n x e1) hw (by have := PDAB.enc_lt_1 x; omega)
theorem raw_tlbinvAll (n : Nat) (x : PDA) (e1 : n = 100 * 33554432 + 2 + x.enc) : rawScalar n = some (Instr.tlbinvAll x) := by
  have hd : n / 33554432 = 100 := by have := PDA.enc_lt_2 x; omega
  unfold rawScalar
  rw [hd]
  show (((PDA.dec 0 n).map (Instr.tlbinvPage)) <|> ((PDAB.dec 1 n).map (Instr.tlbinvRange)) <|> ((PDA.dec 2 n).map (Instr.tlbinvAll))) = _
  rw [PDA.dec_0_on_PDA_2 n 100 x e1, PDAB.dec_1_on_PDA_2 n 100 x e1, PDA.dec_enc_2 n 100 x e1]; rfl
theorem Encoded.tlbinvAll (x : PDA) : Encoded.Statement (.tlbinvAll x) := by
  intro sl n hs hw he
  have e0 : 3355443202 + x.enc = n := Option.some.inj he
  have e1 : n = 100 * 33554432 + 2 + x.enc := by omega
  cases hs
  exact decode_raw (raw_tlbinvAll n x e1) hw (by have := PDA.enc_lt_2 x; omega)
theorem raw_tlbsync (n : Nat) (x : PD) (e1 : n = 101 * 33554432 + x.enc) : rawScalar n = some (Instr.tlbsync x) := by
  have hd : n / 33554432 = 101 := by have := PD.enc_lt x; omega
  unfold rawScalar
  rw [hd]
  show (((PD.dec 0 n).map (Instr.tlbsync))) = _
  rw [PD.dec_enc n 101 x e1]; rfl
theorem Encoded.tlbsync (x : PD) : Encoded.Statement (.tlbsync x) := by
  intro sl n hs hw he
  have e0 : 3388997632 + x.enc = n := Option.some.inj he
  have e1 : n = 101 * 33554432 + x.enc := by omega
  cases hs
  exact decode_raw (raw_tlbsync n x e1) hw (by have := PD.enc_lt x; omega)
theorem raw_ctxsave (n : Nat) (x : PDAn) (e1 : n = 102 * 33554432 + x.enc) : rawScalar n = some (Instr.ctxsave x) := by
  have hd : n / 33554432 = 102 := by have := PDAn.enc_lt x; omega
  unfold rawScalar
  rw [hd]
  show (((PDAn.dec 0 n).map (Instr.ctxsave))) = _
  rw [PDAn.dec_enc n 102 x e1]; rfl
theorem Encoded.ctxsave (x : PDAn) : Encoded.Statement (.ctxsave x) := by
  intro sl n hs hw he
  have e0 : 3422552064 + x.enc = n := Option.some.inj he
  have e1 : n = 102 * 33554432 + x.enc := by omega
  cases hs
  exact decode_raw (raw_ctxsave n x e1) hw (by have := PDAn.enc_lt x; omega)
theorem raw_ctxload (n : Nat) (x : PDABn) (e1 : n = 103 * 33554432 + x.enc) : rawScalar n = some (Instr.ctxload x) := by
  have hd : n / 33554432 = 103 := by have := PDABn.enc_lt x; omega
  unfold rawScalar
  rw [hd]
  show (((PDABn.dec 0 n).map (Instr.ctxload))) = _
  rw [PDABn.dec_enc n 103 x e1]; rfl
theorem Encoded.ctxload (x : PDABn) : Encoded.Statement (.ctxload x) := by
  intro sl n hs hw he
  have e0 : 3456106496 + x.enc = n := Option.some.inj he
  have e1 : n = 103 * 33554432 + x.enc := by omega
  cases hs
  exact decode_raw (raw_ctxload n x e1) hw (by have := PDABn.enc_lt x; omega)
theorem raw_ctxkill (n : Nat) (x : PDAB) (e1 : n = 104 * 33554432 + x.enc) : rawScalar n = some (Instr.ctxkill x) := by
  have hd : n / 33554432 = 104 := by have := PDAB.enc_lt x; omega
  unfold rawScalar
  rw [hd]
  show (((PDAB.dec 0 n).map (Instr.ctxkill))) = _
  rw [PDAB.dec_enc n 104 x e1]; rfl
theorem Encoded.ctxkill (x : PDAB) : Encoded.Statement (.ctxkill x) := by
  intro sl n hs hw he
  have e0 : 3489660928 + x.enc = n := Option.some.inj he
  have e1 : n = 104 * 33554432 + x.enc := by omega
  cases hs
  exact decode_raw (raw_ctxkill n x e1) hw (by have := PDAB.enc_lt x; omega)
theorem raw_partsetCreate (n : Nat) (x : PDAn) (e1 : n = 105 * 33554432 + x.enc) : rawScalar n = some (Instr.partsetCreate x) := by
  have hd : n / 33554432 = 105 := by have := PDAn.enc_lt x; omega
  unfold rawScalar
  rw [hd]
  show (((PDAn.dec 0 n).map (Instr.partsetCreate)) <|> ((PDAn.dec 16 n).map (Instr.partsetUpdate)) <|> ((PDAn.dec 32 n).map (Instr.partsetStop)) <|> ((PDAn.dec 48 n).map (Instr.partsetDestroy))) = _
  rw [PDAn.dec_enc n 105 x e1]; rfl
theorem Encoded.partsetCreate (x : PDAn) : Encoded.Statement (.partsetCreate x) := by
  intro sl n hs hw he
  have e0 : 3523215360 + x.enc = n := Option.some.inj he
  have e1 : n = 105 * 33554432 + x.enc := by omega
  cases hs
  exact decode_raw (raw_partsetCreate n x e1) hw (by have := PDAn.enc_lt x; omega)
theorem raw_partsetUpdate (n : Nat) (x : PDAn) (e1 : n = 105 * 33554432 + 16 + x.enc) : rawScalar n = some (Instr.partsetUpdate x) := by
  have hd : n / 33554432 = 105 := by have := PDAn.enc_lt_16 x; omega
  unfold rawScalar
  rw [hd]
  show (((PDAn.dec 0 n).map (Instr.partsetCreate)) <|> ((PDAn.dec 16 n).map (Instr.partsetUpdate)) <|> ((PDAn.dec 32 n).map (Instr.partsetStop)) <|> ((PDAn.dec 48 n).map (Instr.partsetDestroy))) = _
  rw [PDAn.dec_0_on_PDAn_16 n 105 x e1, PDAn.dec_enc_16 n 105 x e1]; rfl
theorem Encoded.partsetUpdate (x : PDAn) : Encoded.Statement (.partsetUpdate x) := by
  intro sl n hs hw he
  have e0 : 3523215376 + x.enc = n := Option.some.inj he
  have e1 : n = 105 * 33554432 + 16 + x.enc := by omega
  cases hs
  exact decode_raw (raw_partsetUpdate n x e1) hw (by have := PDAn.enc_lt_16 x; omega)
theorem raw_partsetStop (n : Nat) (x : PDAn) (e1 : n = 105 * 33554432 + 32 + x.enc) : rawScalar n = some (Instr.partsetStop x) := by
  have hd : n / 33554432 = 105 := by have := PDAn.enc_lt_32 x; omega
  unfold rawScalar
  rw [hd]
  show (((PDAn.dec 0 n).map (Instr.partsetCreate)) <|> ((PDAn.dec 16 n).map (Instr.partsetUpdate)) <|> ((PDAn.dec 32 n).map (Instr.partsetStop)) <|> ((PDAn.dec 48 n).map (Instr.partsetDestroy))) = _
  rw [PDAn.dec_0_on_PDAn_32 n 105 x e1, PDAn.dec_16_on_PDAn_32 n 105 x e1, PDAn.dec_enc_32 n 105 x e1]; rfl
theorem Encoded.partsetStop (x : PDAn) : Encoded.Statement (.partsetStop x) := by
  intro sl n hs hw he
  have e0 : 3523215392 + x.enc = n := Option.some.inj he
  have e1 : n = 105 * 33554432 + 32 + x.enc := by omega
  cases hs
  exact decode_raw (raw_partsetStop n x e1) hw (by have := PDAn.enc_lt_32 x; omega)
theorem raw_partsetDestroy (n : Nat) (x : PDAn) (e1 : n = 105 * 33554432 + 48 + x.enc) : rawScalar n = some (Instr.partsetDestroy x) := by
  have hd : n / 33554432 = 105 := by have := PDAn.enc_lt_48 x; omega
  unfold rawScalar
  rw [hd]
  show (((PDAn.dec 0 n).map (Instr.partsetCreate)) <|> ((PDAn.dec 16 n).map (Instr.partsetUpdate)) <|> ((PDAn.dec 32 n).map (Instr.partsetStop)) <|> ((PDAn.dec 48 n).map (Instr.partsetDestroy))) = _
  rw [PDAn.dec_0_on_PDAn_48 n 105 x e1, PDAn.dec_16_on_PDAn_48 n 105 x e1, PDAn.dec_32_on_PDAn_48 n 105 x e1, PDAn.dec_enc_48 n 105 x e1]; rfl
theorem Encoded.partsetDestroy (x : PDAn) : Encoded.Statement (.partsetDestroy x) := by
  intro sl n hs hw he
  have e0 : 3523215408 + x.enc = n := Option.some.inj he
  have e1 : n = 105 * 33554432 + 48 + x.enc := by omega
  cases hs
  exact decode_raw (raw_partsetDestroy n x e1) hw (by have := PDAn.enc_lt_48 x; omega)
theorem raw_wayset (n : Nat) (x : PDAB) (e1 : n = 106 * 33554432 + x.enc) : rawScalar n = some (Instr.wayset x) := by
  have hd : n / 33554432 = 106 := by have := PDAB.enc_lt x; omega
  unfold rawScalar
  rw [hd]
  show (((PDAB.dec 0 n).map (Instr.wayset))) = _
  rw [PDAB.dec_enc n 106 x e1]; rfl
theorem Encoded.wayset (x : PDAB) : Encoded.Statement (.wayset x) := by
  intro sl n hs hw he
  have e0 : 3556769792 + x.enc = n := Option.some.inj he
  have e1 : n = 106 * 33554432 + x.enc := by omega
  cases hs
  exact decode_raw (raw_wayset n x e1) hw (by have := PDAB.enc_lt x; omega)
theorem raw_zeroMem (n : Nat) (x : PDABn) (e1 : n = 107 * 33554432 + x.enc) : rawScalar n = some (Instr.zeroMem x) := by
  have hd : n / 33554432 = 107 := by have := PDABn.enc_lt x; omega
  unfold rawScalar
  rw [hd]
  show (((PDABn.dec 0 n).map (Instr.zeroMem)) <|> ((PDABn.dec 16 n).map (Instr.zeroBanks)) <|> ((PDABn.dec 32 n).map (Instr.zeroCarr)) <|> ((PDABn.dec 48 n).map (Instr.zeroL2))) = _
  rw [PDABn.dec_enc n 107 x e1]; rfl
theorem Encoded.zeroMem (x : PDABn) : Encoded.Statement (.zeroMem x) := by
  intro sl n hs hw he
  have e0 : 3590324224 + x.enc = n := Option.some.inj he
  have e1 : n = 107 * 33554432 + x.enc := by omega
  cases hs
  exact decode_raw (raw_zeroMem n x e1) hw (by have := PDABn.enc_lt x; omega)
theorem raw_zeroBanks (n : Nat) (x : PDABn) (e1 : n = 107 * 33554432 + 16 + x.enc) : rawScalar n = some (Instr.zeroBanks x) := by
  have hd : n / 33554432 = 107 := by have := PDABn.enc_lt_16 x; omega
  unfold rawScalar
  rw [hd]
  show (((PDABn.dec 0 n).map (Instr.zeroMem)) <|> ((PDABn.dec 16 n).map (Instr.zeroBanks)) <|> ((PDABn.dec 32 n).map (Instr.zeroCarr)) <|> ((PDABn.dec 48 n).map (Instr.zeroL2))) = _
  rw [PDABn.dec_0_on_PDABn_16 n 107 x e1, PDABn.dec_enc_16 n 107 x e1]; rfl
theorem Encoded.zeroBanks (x : PDABn) : Encoded.Statement (.zeroBanks x) := by
  intro sl n hs hw he
  have e0 : 3590324240 + x.enc = n := Option.some.inj he
  have e1 : n = 107 * 33554432 + 16 + x.enc := by omega
  cases hs
  exact decode_raw (raw_zeroBanks n x e1) hw (by have := PDABn.enc_lt_16 x; omega)
theorem raw_zeroCarr (n : Nat) (x : PDABn) (e1 : n = 107 * 33554432 + 32 + x.enc) : rawScalar n = some (Instr.zeroCarr x) := by
  have hd : n / 33554432 = 107 := by have := PDABn.enc_lt_32 x; omega
  unfold rawScalar
  rw [hd]
  show (((PDABn.dec 0 n).map (Instr.zeroMem)) <|> ((PDABn.dec 16 n).map (Instr.zeroBanks)) <|> ((PDABn.dec 32 n).map (Instr.zeroCarr)) <|> ((PDABn.dec 48 n).map (Instr.zeroL2))) = _
  rw [PDABn.dec_0_on_PDABn_32 n 107 x e1, PDABn.dec_16_on_PDABn_32 n 107 x e1, PDABn.dec_enc_32 n 107 x e1]; rfl
theorem Encoded.zeroCarr (x : PDABn) : Encoded.Statement (.zeroCarr x) := by
  intro sl n hs hw he
  have e0 : 3590324256 + x.enc = n := Option.some.inj he
  have e1 : n = 107 * 33554432 + 32 + x.enc := by omega
  cases hs
  exact decode_raw (raw_zeroCarr n x e1) hw (by have := PDABn.enc_lt_32 x; omega)
theorem raw_zeroL2 (n : Nat) (x : PDABn) (e1 : n = 107 * 33554432 + 48 + x.enc) : rawScalar n = some (Instr.zeroL2 x) := by
  have hd : n / 33554432 = 107 := by have := PDABn.enc_lt_48 x; omega
  unfold rawScalar
  rw [hd]
  show (((PDABn.dec 0 n).map (Instr.zeroMem)) <|> ((PDABn.dec 16 n).map (Instr.zeroBanks)) <|> ((PDABn.dec 32 n).map (Instr.zeroCarr)) <|> ((PDABn.dec 48 n).map (Instr.zeroL2))) = _
  rw [PDABn.dec_0_on_PDABn_48 n 107 x e1, PDABn.dec_16_on_PDABn_48 n 107 x e1, PDABn.dec_32_on_PDABn_48 n 107 x e1, PDABn.dec_enc_48 n 107 x e1]; rfl
theorem Encoded.zeroL2 (x : PDABn) : Encoded.Statement (.zeroL2 x) := by
  intro sl n hs hw he
  have e0 : 3590324272 + x.enc = n := Option.some.inj he
  have e1 : n = 107 * 33554432 + 48 + x.enc := by omega
  cases hs
  exact decode_raw (raw_zeroL2 n x e1) hw (by have := PDABn.enc_lt_48 x; omega)
theorem raw_lease (n : Nat) (x : PDAn) (e1 : n = 108 * 33554432 + x.enc) : rawScalar n = some (Instr.lease x) := by
  have hd : n / 33554432 = 108 := by have := PDAn.enc_lt x; omega
  unfold rawScalar
  rw [hd]
  show (((PDAn.dec 0 n).map (Instr.lease))) = _
  rw [PDAn.dec_enc n 108 x e1]; rfl
theorem Encoded.lease (x : PDAn) : Encoded.Statement (.lease x) := by
  intro sl n hs hw he
  have e0 : 3623878656 + x.enc = n := Option.some.inj he
  have e1 : n = 108 * 33554432 + x.enc := by omega
  cases hs
  exact decode_raw (raw_lease n x e1) hw (by have := PDAn.enc_lt x; omega)
theorem raw_unlease (n : Nat) (x : PDA) (e1 : n = 109 * 33554432 + x.enc) : rawScalar n = some (Instr.unlease x) := by
  have hd : n / 33554432 = 109 := by have := PDA.enc_lt x; omega
  unfold rawScalar
  rw [hd]
  show (((PDA.dec 0 n).map (Instr.unlease))) = _
  rw [PDA.dec_enc n 109 x e1]; rfl
theorem Encoded.unlease (x : PDA) : Encoded.Statement (.unlease x) := by
  intro sl n hs hw he
  have e0 : 3657433088 + x.enc = n := Option.some.inj he
  have e1 : n = 109 * 33554432 + x.enc := by omega
  cases hs
  exact decode_raw (raw_unlease n x e1) hw (by have := PDA.enc_lt x; omega)
theorem raw_score (n : Nat) (x : PDA) (e1 : n = 110 * 33554432 + x.enc) : rawScalar n = some (Instr.score x) := by
  have hd : n / 33554432 = 110 := by have := PDA.enc_lt x; omega
  unfold rawScalar
  rw [hd]
  show (((PDA.dec 0 n).map (Instr.score)) <|> ((PDAB.dec 1 n).map (Instr.scoreAdd))) = _
  rw [PDA.dec_enc n 110 x e1]; rfl
theorem Encoded.score (x : PDA) : Encoded.Statement (.score x) := by
  intro sl n hs hw he
  have e0 : 3690987520 + x.enc = n := Option.some.inj he
  have e1 : n = 110 * 33554432 + x.enc := by omega
  cases hs
  exact decode_raw (raw_score n x e1) hw (by have := PDA.enc_lt x; omega)
theorem raw_scoreAdd (n : Nat) (x : PDAB) (e1 : n = 110 * 33554432 + 1 + x.enc) : rawScalar n = some (Instr.scoreAdd x) := by
  have hd : n / 33554432 = 110 := by have := PDAB.enc_lt_1 x; omega
  unfold rawScalar
  rw [hd]
  show (((PDA.dec 0 n).map (Instr.score)) <|> ((PDAB.dec 1 n).map (Instr.scoreAdd))) = _
  rw [PDA.dec_0_on_PDAB_1 n 110 x e1, PDAB.dec_enc_1 n 110 x e1]; rfl
theorem Encoded.scoreAdd (x : PDAB) : Encoded.Statement (.scoreAdd x) := by
  intro sl n hs hw he
  have e0 : 3690987521 + x.enc = n := Option.some.inj he
  have e1 : n = 110 * 33554432 + 1 + x.enc := by omega
  cases hs
  exact decode_raw (raw_scoreAdd n x e1) hw (by have := PDAB.enc_lt_1 x; omega)
theorem raw_retire (n : Nat) (x : PDABn) (e1 : n = 111 * 33554432 + x.enc) : rawScalar n = some (Instr.retire x) := by
  have hd : n / 33554432 = 111 := by have := PDABn.enc_lt x; omega
  unfold rawScalar
  rw [hd]
  show (((PDABn.dec 0 n).map (Instr.retire)) <|> ((PDABn.dec 16 n).map (Instr.retireForce))) = _
  rw [PDABn.dec_enc n 111 x e1]; rfl
theorem Encoded.retire (x : PDABn) : Encoded.Statement (.retire x) := by
  intro sl n hs hw he
  have e0 : 3724541952 + x.enc = n := Option.some.inj he
  have e1 : n = 111 * 33554432 + x.enc := by omega
  cases hs
  exact decode_raw (raw_retire n x e1) hw (by have := PDABn.enc_lt x; omega)
theorem raw_retireForce (n : Nat) (x : PDABn) (e1 : n = 111 * 33554432 + 16 + x.enc) : rawScalar n = some (Instr.retireForce x) := by
  have hd : n / 33554432 = 111 := by have := PDABn.enc_lt_16 x; omega
  unfold rawScalar
  rw [hd]
  show (((PDABn.dec 0 n).map (Instr.retire)) <|> ((PDABn.dec 16 n).map (Instr.retireForce))) = _
  rw [PDABn.dec_0_on_PDABn_16 n 111 x e1, PDABn.dec_enc_16 n 111 x e1]; rfl
theorem Encoded.retireForce (x : PDABn) : Encoded.Statement (.retireForce x) := by
  intro sl n hs hw he
  have e0 : 3724541968 + x.enc = n := Option.some.inj he
  have e1 : n = 111 * 33554432 + 16 + x.enc := by omega
  cases hs
  exact decode_raw (raw_retireForce n x e1) hw (by have := PDABn.enc_lt_16 x; omega)
theorem raw_fenceq (n : Nat) (x : PDA) (e1 : n = 112 * 33554432 + x.enc) : rawScalar n = some (Instr.fenceq x) := by
  have hd : n / 33554432 = 112 := by have := PDA.enc_lt x; omega
  unfold rawScalar
  rw [hd]
  show (((PDA.dec 0 n).map (Instr.fenceq))) = _
  rw [PDA.dec_enc n 112 x e1]; rfl
theorem Encoded.fenceq (x : PDA) : Encoded.Statement (.fenceq x) := by
  intro sl n hs hw he
  have e0 : 3758096384 + x.enc = n := Option.some.inj he
  have e1 : n = 112 * 33554432 + x.enc := by omega
  cases hs
  exact decode_raw (raw_fenceq n x e1) hw (by have := PDA.enc_lt x; omega)
theorem raw_appeal (n : Nat) (x : PDAn) (e1 : n = 113 * 33554432 + x.enc) : rawScalar n = some (Instr.appeal x) := by
  have hd : n / 33554432 = 113 := by have := PDAn.enc_lt x; omega
  unfold rawScalar
  rw [hd]
  show (((PDAn.dec 0 n).map (Instr.appeal)) <|> ((PDAn.dec 16 n).map (Instr.appealBar))) = _
  rw [PDAn.dec_enc n 113 x e1]; rfl
theorem Encoded.appeal (x : PDAn) : Encoded.Statement (.appeal x) := by
  intro sl n hs hw he
  have e0 : 3791650816 + x.enc = n := Option.some.inj he
  have e1 : n = 113 * 33554432 + x.enc := by omega
  cases hs
  exact decode_raw (raw_appeal n x e1) hw (by have := PDAn.enc_lt x; omega)
theorem raw_appealBar (n : Nat) (x : PDAn) (e1 : n = 113 * 33554432 + 16 + x.enc) : rawScalar n = some (Instr.appealBar x) := by
  have hd : n / 33554432 = 113 := by have := PDAn.enc_lt_16 x; omega
  unfold rawScalar
  rw [hd]
  show (((PDAn.dec 0 n).map (Instr.appeal)) <|> ((PDAn.dec 16 n).map (Instr.appealBar))) = _
  rw [PDAn.dec_0_on_PDAn_16 n 113 x e1, PDAn.dec_enc_16 n 113 x e1]; rfl
theorem Encoded.appealBar (x : PDAn) : Encoded.Statement (.appealBar x) := by
  intro sl n hs hw he
  have e0 : 3791650832 + x.enc = n := Option.some.inj he
  have e1 : n = 113 * 33554432 + 16 + x.enc := by omega
  cases hs
  exact decode_raw (raw_appealBar n x e1) hw (by have := PDAn.enc_lt_16 x; omega)
theorem raw_meter (n : Nat) (x : PDAB) (e1 : n = 114 * 33554432 + x.enc) : rawScalar n = some (Instr.meter x) := by
  have hd : n / 33554432 = 114 := by have := PDAB.enc_lt x; omega
  unfold rawScalar
  rw [hd]
  show (((PDAB.dec 0 n).map (Instr.meter))) = _
  rw [PDAB.dec_enc n 114 x e1]; rfl
theorem Encoded.meter (x : PDAB) : Encoded.Statement (.meter x) := by
  intro sl n hs hw he
  have e0 : 3825205248 + x.enc = n := Option.some.inj he
  have e1 : n = 114 * 33554432 + x.enc := by omega
  cases hs
  exact decode_raw (raw_meter n x e1) hw (by have := PDAB.enc_lt x; omega)
theorem raw_signqUsage (n : Nat) (x : PDABn) (e1 : n = 115 * 33554432 + x.enc) : rawScalar n = some (Instr.signqUsage x) := by
  have hd : n / 33554432 = 115 := by have := PDABn.enc_lt x; omega
  unfold rawScalar
  rw [hd]
  show (((PDABn.dec 0 n).map (Instr.signqUsage)) <|> ((PDABn.dec 16 n).map (Instr.signqRetired)) <|> ((PDABn.dec 32 n).map (Instr.signqQuote))) = _
  rw [PDABn.dec_enc n 115 x e1]; rfl
theorem Encoded.signqUsage (x : PDABn) : Encoded.Statement (.signqUsage x) := by
  intro sl n hs hw he
  have e0 : 3858759680 + x.enc = n := Option.some.inj he
  have e1 : n = 115 * 33554432 + x.enc := by omega
  cases hs
  exact decode_raw (raw_signqUsage n x e1) hw (by have := PDABn.enc_lt x; omega)
theorem raw_signqRetired (n : Nat) (x : PDABn) (e1 : n = 115 * 33554432 + 16 + x.enc) : rawScalar n = some (Instr.signqRetired x) := by
  have hd : n / 33554432 = 115 := by have := PDABn.enc_lt_16 x; omega
  unfold rawScalar
  rw [hd]
  show (((PDABn.dec 0 n).map (Instr.signqUsage)) <|> ((PDABn.dec 16 n).map (Instr.signqRetired)) <|> ((PDABn.dec 32 n).map (Instr.signqQuote))) = _
  rw [PDABn.dec_0_on_PDABn_16 n 115 x e1, PDABn.dec_enc_16 n 115 x e1]; rfl
theorem Encoded.signqRetired (x : PDABn) : Encoded.Statement (.signqRetired x) := by
  intro sl n hs hw he
  have e0 : 3858759696 + x.enc = n := Option.some.inj he
  have e1 : n = 115 * 33554432 + 16 + x.enc := by omega
  cases hs
  exact decode_raw (raw_signqRetired n x e1) hw (by have := PDABn.enc_lt_16 x; omega)
theorem raw_signqQuote (n : Nat) (x : PDABn) (e1 : n = 115 * 33554432 + 32 + x.enc) : rawScalar n = some (Instr.signqQuote x) := by
  have hd : n / 33554432 = 115 := by have := PDABn.enc_lt_32 x; omega
  unfold rawScalar
  rw [hd]
  show (((PDABn.dec 0 n).map (Instr.signqUsage)) <|> ((PDABn.dec 16 n).map (Instr.signqRetired)) <|> ((PDABn.dec 32 n).map (Instr.signqQuote))) = _
  rw [PDABn.dec_0_on_PDABn_32 n 115 x e1, PDABn.dec_16_on_PDABn_32 n 115 x e1, PDABn.dec_enc_32 n 115 x e1]; rfl
theorem Encoded.signqQuote (x : PDABn) : Encoded.Statement (.signqQuote x) := by
  intro sl n hs hw he
  have e0 : 3858759712 + x.enc = n := Option.some.inj he
  have e1 : n = 115 * 33554432 + 32 + x.enc := by omega
  cases hs
  exact decode_raw (raw_signqQuote n x e1) hw (by have := PDABn.enc_lt_32 x; omega)
theorem raw_powqPkg (n : Nat) (x : PDAB) (e1 : n = 116 * 33554432 + x.enc) : rawScalar n = some (Instr.powqPkg x) := by
  have hd : n / 33554432 = 116 := by have := PDAB.enc_lt x; omega
  unfold rawScalar
  rw [hd]
  show (((PDAB.dec 0 n).map (Instr.powqPkg)) <|> ((PDA.dec 1 n).map (Instr.powqCore)) <|> ((PDAB.dec 2 n).map (Instr.powqGrant))) = _
  rw [PDAB.dec_enc n 116 x e1]; rfl
theorem Encoded.powqPkg (x : PDAB) : Encoded.Statement (.powqPkg x) := by
  intro sl n hs hw he
  have e0 : 3892314112 + x.enc = n := Option.some.inj he
  have e1 : n = 116 * 33554432 + x.enc := by omega
  cases hs
  exact decode_raw (raw_powqPkg n x e1) hw (by have := PDAB.enc_lt x; omega)
theorem raw_powqCore (n : Nat) (x : PDA) (e1 : n = 116 * 33554432 + 1 + x.enc) : rawScalar n = some (Instr.powqCore x) := by
  have hd : n / 33554432 = 116 := by have := PDA.enc_lt_1 x; omega
  unfold rawScalar
  rw [hd]
  show (((PDAB.dec 0 n).map (Instr.powqPkg)) <|> ((PDA.dec 1 n).map (Instr.powqCore)) <|> ((PDAB.dec 2 n).map (Instr.powqGrant))) = _
  rw [PDAB.dec_0_on_PDA_1 n 116 x e1, PDA.dec_enc_1 n 116 x e1]; rfl
theorem Encoded.powqCore (x : PDA) : Encoded.Statement (.powqCore x) := by
  intro sl n hs hw he
  have e0 : 3892314113 + x.enc = n := Option.some.inj he
  have e1 : n = 116 * 33554432 + 1 + x.enc := by omega
  cases hs
  exact decode_raw (raw_powqCore n x e1) hw (by have := PDA.enc_lt_1 x; omega)
theorem raw_powqGrant (n : Nat) (x : PDAB) (e1 : n = 116 * 33554432 + 2 + x.enc) : rawScalar n = some (Instr.powqGrant x) := by
  have hd : n / 33554432 = 116 := by have := PDAB.enc_lt_2 x; omega
  unfold rawScalar
  rw [hd]
  show (((PDAB.dec 0 n).map (Instr.powqPkg)) <|> ((PDA.dec 1 n).map (Instr.powqCore)) <|> ((PDAB.dec 2 n).map (Instr.powqGrant))) = _
  rw [PDAB.dec_0_on_PDAB_2 n 116 x e1, PDA.dec_1_on_PDAB_2 n 116 x e1, PDAB.dec_enc_2 n 116 x e1]; rfl
theorem Encoded.powqGrant (x : PDAB) : Encoded.Statement (.powqGrant x) := by
  intro sl n hs hw he
  have e0 : 3892314114 + x.enc = n := Option.some.inj he
  have e1 : n = 116 * 33554432 + 2 + x.enc := by omega
  cases hs
  exact decode_raw (raw_powqGrant n x e1) hw (by have := PDAB.enc_lt_2 x; omega)
theorem raw_injOff (n : Nat) (x : PDAB) (e1 : n = 117 * 33554432 + x.enc) : rawScalar n = some (Instr.injOff x) := by
  have hd : n / 33554432 = 117 := by have := PDAB.enc_lt x; omega
  unfold rawScalar
  rw [hd]
  show (((PDAB.dec 0 n).map (Instr.injOff)) <|> ((PDAB.dec 1 n).map (Instr.injOn)) <|> ((PDAB.dec 2 n).map (Instr.injPoison))) = _
  rw [PDAB.dec_enc n 117 x e1]; rfl
theorem Encoded.injOff (x : PDAB) : Encoded.Statement (.injOff x) := by
  intro sl n hs hw he
  have e0 : 3925868544 + x.enc = n := Option.some.inj he
  have e1 : n = 117 * 33554432 + x.enc := by omega
  cases hs
  exact decode_raw (raw_injOff n x e1) hw (by have := PDAB.enc_lt x; omega)
theorem raw_injOn (n : Nat) (x : PDAB) (e1 : n = 117 * 33554432 + 1 + x.enc) : rawScalar n = some (Instr.injOn x) := by
  have hd : n / 33554432 = 117 := by have := PDAB.enc_lt_1 x; omega
  unfold rawScalar
  rw [hd]
  show (((PDAB.dec 0 n).map (Instr.injOff)) <|> ((PDAB.dec 1 n).map (Instr.injOn)) <|> ((PDAB.dec 2 n).map (Instr.injPoison))) = _
  rw [PDAB.dec_0_on_PDAB_1 n 117 x e1, PDAB.dec_enc_1 n 117 x e1]; rfl
theorem Encoded.injOn (x : PDAB) : Encoded.Statement (.injOn x) := by
  intro sl n hs hw he
  have e0 : 3925868545 + x.enc = n := Option.some.inj he
  have e1 : n = 117 * 33554432 + 1 + x.enc := by omega
  cases hs
  exact decode_raw (raw_injOn n x e1) hw (by have := PDAB.enc_lt_1 x; omega)
theorem raw_injPoison (n : Nat) (x : PDAB) (e1 : n = 117 * 33554432 + 2 + x.enc) : rawScalar n = some (Instr.injPoison x) := by
  have hd : n / 33554432 = 117 := by have := PDAB.enc_lt_2 x; omega
  unfold rawScalar
  rw [hd]
  show (((PDAB.dec 0 n).map (Instr.injOff)) <|> ((PDAB.dec 1 n).map (Instr.injOn)) <|> ((PDAB.dec 2 n).map (Instr.injPoison))) = _
  rw [PDAB.dec_0_on_PDAB_2 n 117 x e1, PDAB.dec_1_on_PDAB_2 n 117 x e1, PDAB.dec_enc_2 n 117 x e1]; rfl
theorem Encoded.injPoison (x : PDAB) : Encoded.Statement (.injPoison x) := by
  intro sl n hs hw he
  have e0 : 3925868546 + x.enc = n := Option.some.inj he
  have e1 : n = 117 * 33554432 + 2 + x.enc := by omega
  cases hs
  exact decode_raw (raw_injPoison n x e1) hw (by have := PDAB.enc_lt_2 x; omega)
theorem Encoded.vectorNop (u : VUnit) : Encoded.Statement (.vectorNop u) := by
  intro sl n hs hw he
  cases he
  cases u <;> (cases hs; exact decode_raw (by rfl) hw (by decide))
theorem raw_vadd (u : VUnit) (n : Nat) (x : VTyp3) (e1 : n = 1 * 33554432 + x.enc) : rawVector u n = some (Instr.vadd u x) := by
  have hd : n / 33554432 = 1 := by have := VTyp3.enc_lt x; omega
  unfold rawVector
  rw [hd]
  show (((VTyp3.dec 0 n).map (Instr.vadd u))) = _
  rw [VTyp3.dec_enc n 1 x e1]; rfl
theorem Encoded.vadd (u : VUnit) (x : VTyp3) : Encoded.Statement (.vadd u x) := by
  intro sl n hs hw he
  have e0 : 33554432 + x.enc = n := Option.some.inj he
  have e1 : n = 1 * 33554432 + x.enc := by omega
  cases u <;> (cases hs)
  · exact decode_raw (raw_vadd .a n x e1) hw (by have := VTyp3.enc_lt x; omega)
  · exact decode_raw (show (rawVector .b n <|> rawSeries n) = _ by rw [raw_vadd .b n x e1]; rfl) hw (by have := VTyp3.enc_lt x; omega)
theorem raw_vsub (u : VUnit) (n : Nat) (x : VTyp3) (e1 : n = 2 * 33554432 + x.enc) : rawVector u n = some (Instr.vsub u x) := by
  have hd : n / 33554432 = 2 := by have := VTyp3.enc_lt x; omega
  unfold rawVector
  rw [hd]
  show (((VTyp3.dec 0 n).map (Instr.vsub u))) = _
  rw [VTyp3.dec_enc n 2 x e1]; rfl
theorem Encoded.vsub (u : VUnit) (x : VTyp3) : Encoded.Statement (.vsub u x) := by
  intro sl n hs hw he
  have e0 : 67108864 + x.enc = n := Option.some.inj he
  have e1 : n = 2 * 33554432 + x.enc := by omega
  cases u <;> (cases hs)
  · exact decode_raw (raw_vsub .a n x e1) hw (by have := VTyp3.enc_lt x; omega)
  · exact decode_raw (show (rawVector .b n <|> rawSeries n) = _ by rw [raw_vsub .b n x e1]; rfl) hw (by have := VTyp3.enc_lt x; omega)
theorem raw_vmul (u : VUnit) (n : Nat) (x : VTyp3) (e1 : n = 3 * 33554432 + x.enc) : rawVector u n = some (Instr.vmul u x) := by
  have hd : n / 33554432 = 3 := by have := VTyp3.enc_lt x; omega
  unfold rawVector
  rw [hd]
  show (((VTyp3.dec 0 n).map (Instr.vmul u))) = _
  rw [VTyp3.dec_enc n 3 x e1]; rfl
theorem Encoded.vmul (u : VUnit) (x : VTyp3) : Encoded.Statement (.vmul u x) := by
  intro sl n hs hw he
  have e0 : 100663296 + x.enc = n := Option.some.inj he
  have e1 : n = 3 * 33554432 + x.enc := by omega
  cases u <;> (cases hs)
  · exact decode_raw (raw_vmul .a n x e1) hw (by have := VTyp3.enc_lt x; omega)
  · exact decode_raw (show (rawVector .b n <|> rawSeries n) = _ by rw [raw_vmul .b n x e1]; rfl) hw (by have := VTyp3.enc_lt x; omega)
theorem raw_vfma (u : VUnit) (n : Nat) (x : VTyp3) (e1 : n = 4 * 33554432 + x.enc) : rawVector u n = some (Instr.vfma u x) := by
  have hd : n / 33554432 = 4 := by have := VTyp3.enc_lt x; omega
  unfold rawVector
  rw [hd]
  show (((VTyp3.dec 0 n).map (Instr.vfma u))) = _
  rw [VTyp3.dec_enc n 4 x e1]; rfl
theorem Encoded.vfma (u : VUnit) (x : VTyp3) : Encoded.Statement (.vfma u x) := by
  intro sl n hs hw he
  have e0 : 134217728 + x.enc = n := Option.some.inj he
  have e1 : n = 4 * 33554432 + x.enc := by omega
  cases u <;> (cases hs)
  · exact decode_raw (raw_vfma .a n x e1) hw (by have := VTyp3.enc_lt x; omega)
  · exact decode_raw (show (rawVector .b n <|> rawSeries n) = _ by rw [raw_vfma .b n x e1]; rfl) hw (by have := VTyp3.enc_lt x; omega)
theorem raw_vfms (u : VUnit) (n : Nat) (x : VTyp3) (e1 : n = 5 * 33554432 + x.enc) : rawVector u n = some (Instr.vfms u x) := by
  have hd : n / 33554432 = 5 := by have := VTyp3.enc_lt x; omega
  unfold rawVector
  rw [hd]
  show (((VTyp3.dec 0 n).map (Instr.vfms u))) = _
  rw [VTyp3.dec_enc n 5 x e1]; rfl
theorem Encoded.vfms (u : VUnit) (x : VTyp3) : Encoded.Statement (.vfms u x) := by
  intro sl n hs hw he
  have e0 : 167772160 + x.enc = n := Option.some.inj he
  have e1 : n = 5 * 33554432 + x.enc := by omega
  cases u <;> (cases hs)
  · exact decode_raw (raw_vfms .a n x e1) hw (by have := VTyp3.enc_lt x; omega)
  · exact decode_raw (show (rawVector .b n <|> rawSeries n) = _ by rw [raw_vfms .b n x e1]; rfl) hw (by have := VTyp3.enc_lt x; omega)
theorem raw_vmin (u : VUnit) (n : Nat) (x : VTyp3) (e1 : n = 6 * 33554432 + x.enc) : rawVector u n = some (Instr.vmin u x) := by
  have hd : n / 33554432 = 6 := by have := VTyp3.enc_lt x; omega
  unfold rawVector
  rw [hd]
  show (((VTyp3.dec 0 n).map (Instr.vmin u))) = _
  rw [VTyp3.dec_enc n 6 x e1]; rfl
theorem Encoded.vmin (u : VUnit) (x : VTyp3) : Encoded.Statement (.vmin u x) := by
  intro sl n hs hw he
  have e0 : 201326592 + x.enc = n := Option.some.inj he
  have e1 : n = 6 * 33554432 + x.enc := by omega
  cases u <;> (cases hs)
  · exact decode_raw (raw_vmin .a n x e1) hw (by have := VTyp3.enc_lt x; omega)
  · exact decode_raw (show (rawVector .b n <|> rawSeries n) = _ by rw [raw_vmin .b n x e1]; rfl) hw (by have := VTyp3.enc_lt x; omega)
theorem raw_vmax (u : VUnit) (n : Nat) (x : VTyp3) (e1 : n = 7 * 33554432 + x.enc) : rawVector u n = some (Instr.vmax u x) := by
  have hd : n / 33554432 = 7 := by have := VTyp3.enc_lt x; omega
  unfold rawVector
  rw [hd]
  show (((VTyp3.dec 0 n).map (Instr.vmax u))) = _
  rw [VTyp3.dec_enc n 7 x e1]; rfl
theorem Encoded.vmax (u : VUnit) (x : VTyp3) : Encoded.Statement (.vmax u x) := by
  intro sl n hs hw he
  have e0 : 234881024 + x.enc = n := Option.some.inj he
  have e1 : n = 7 * 33554432 + x.enc := by omega
  cases u <;> (cases hs)
  · exact decode_raw (raw_vmax .a n x e1) hw (by have := VTyp3.enc_lt x; omega)
  · exact decode_raw (show (rawVector .b n <|> rawSeries n) = _ by rw [raw_vmax .b n x e1]; rfl) hw (by have := VTyp3.enc_lt x; omega)
theorem raw_vabs (u : VUnit) (n : Nat) (x : VTyp2) (e1 : n = 8 * 33554432 + x.enc) : rawVector u n = some (Instr.vabs u x) := by
  have hd : n / 33554432 = 8 := by have := VTyp2.enc_lt x; omega
  unfold rawVector
  rw [hd]
  show (((VTyp2.dec 0 n).map (Instr.vabs u))) = _
  rw [VTyp2.dec_enc n 8 x e1]; rfl
theorem Encoded.vabs (u : VUnit) (x : VTyp2) : Encoded.Statement (.vabs u x) := by
  intro sl n hs hw he
  have e0 : 268435456 + x.enc = n := Option.some.inj he
  have e1 : n = 8 * 33554432 + x.enc := by omega
  cases u <;> (cases hs)
  · exact decode_raw (raw_vabs .a n x e1) hw (by have := VTyp2.enc_lt x; omega)
  · exact decode_raw (show (rawVector .b n <|> rawSeries n) = _ by rw [raw_vabs .b n x e1]; rfl) hw (by have := VTyp2.enc_lt x; omega)
theorem raw_vneg (u : VUnit) (n : Nat) (x : VTyp2) (e1 : n = 9 * 33554432 + x.enc) : rawVector u n = some (Instr.vneg u x) := by
  have hd : n / 33554432 = 9 := by have := VTyp2.enc_lt x; omega
  unfold rawVector
  rw [hd]
  show (((VTyp2.dec 0 n).map (Instr.vneg u))) = _
  rw [VTyp2.dec_enc n 9 x e1]; rfl
theorem Encoded.vneg (u : VUnit) (x : VTyp2) : Encoded.Statement (.vneg u x) := by
  intro sl n hs hw he
  have e0 : 301989888 + x.enc = n := Option.some.inj he
  have e1 : n = 9 * 33554432 + x.enc := by omega
  cases u <;> (cases hs)
  · exact decode_raw (raw_vneg .a n x e1) hw (by have := VTyp2.enc_lt x; omega)
  · exact decode_raw (show (rawVector .b n <|> rawSeries n) = _ by rw [raw_vneg .b n x e1]; rfl) hw (by have := VTyp2.enc_lt x; omega)
theorem raw_vrcp (u : VUnit) (n : Nat) (x : VFun) (e1 : n = 10 * 33554432 + 40 + x.enc) : rawVector u n = some (Instr.vrcp u x) := by
  have hd : n / 33554432 = 10 := by have := VFun.enc_lt_40 x; omega
  unfold rawVector
  rw [hd]
  show (((VFun.dec 40 n).map (Instr.vrcp u))) = _
  rw [VFun.dec_enc_40 n 10 x e1]; rfl
theorem Encoded.vrcp (u : VUnit) (x : VFun) : Encoded.Statement (.vrcp u x) := by
  intro sl n hs hw he
  have e0 : 335544360 + x.enc = n := Option.some.inj he
  have e1 : n = 10 * 33554432 + 40 + x.enc := by omega
  cases u <;> (cases hs)
  · exact decode_raw (raw_vrcp .a n x e1) hw (by have := VFun.enc_lt_40 x; omega)
  · exact decode_raw (show (rawVector .b n <|> rawSeries n) = _ by rw [raw_vrcp .b n x e1]; rfl) hw (by have := VFun.enc_lt_40 x; omega)
theorem raw_vrsq (u : VUnit) (n : Nat) (x : VFun) (e1 : n = 11 * 33554432 + 40 + x.enc) : rawVector u n = some (Instr.vrsq u x) := by
  have hd : n / 33554432 = 11 := by have := VFun.enc_lt_40 x; omega
  unfold rawVector
  rw [hd]
  show (((VFun.dec 40 n).map (Instr.vrsq u))) = _
  rw [VFun.dec_enc_40 n 11 x e1]; rfl
theorem Encoded.vrsq (u : VUnit) (x : VFun) : Encoded.Statement (.vrsq u x) := by
  intro sl n hs hw he
  have e0 : 369098792 + x.enc = n := Option.some.inj he
  have e1 : n = 11 * 33554432 + 40 + x.enc := by omega
  cases u <;> (cases hs)
  · exact decode_raw (raw_vrsq .a n x e1) hw (by have := VFun.enc_lt_40 x; omega)
  · exact decode_raw (show (rawVector .b n <|> rawSeries n) = _ by rw [raw_vrsq .b n x e1]; rfl) hw (by have := VFun.enc_lt_40 x; omega)
theorem raw_vexp2 (u : VUnit) (n : Nat) (x : VFun) (e1 : n = 12 * 33554432 + 40 + x.enc) : rawVector u n = some (Instr.vexp2 u x) := by
  have hd : n / 33554432 = 12 := by have := VFun.enc_lt_40 x; omega
  unfold rawVector
  rw [hd]
  show (((VFun.dec 40 n).map (Instr.vexp2 u))) = _
  rw [VFun.dec_enc_40 n 12 x e1]; rfl
theorem Encoded.vexp2 (u : VUnit) (x : VFun) : Encoded.Statement (.vexp2 u x) := by
  intro sl n hs hw he
  have e0 : 402653224 + x.enc = n := Option.some.inj he
  have e1 : n = 12 * 33554432 + 40 + x.enc := by omega
  cases u <;> (cases hs)
  · exact decode_raw (raw_vexp2 .a n x e1) hw (by have := VFun.enc_lt_40 x; omega)
  · exact decode_raw (show (rawVector .b n <|> rawSeries n) = _ by rw [raw_vexp2 .b n x e1]; rfl) hw (by have := VFun.enc_lt_40 x; omega)
theorem raw_vlog2 (u : VUnit) (n : Nat) (x : VFun) (e1 : n = 13 * 33554432 + 40 + x.enc) : rawVector u n = some (Instr.vlog2 u x) := by
  have hd : n / 33554432 = 13 := by have := VFun.enc_lt_40 x; omega
  unfold rawVector
  rw [hd]
  show (((VFun.dec 40 n).map (Instr.vlog2 u))) = _
  rw [VFun.dec_enc_40 n 13 x e1]; rfl
theorem Encoded.vlog2 (u : VUnit) (x : VFun) : Encoded.Statement (.vlog2 u x) := by
  intro sl n hs hw he
  have e0 : 436207656 + x.enc = n := Option.some.inj he
  have e1 : n = 13 * 33554432 + 40 + x.enc := by omega
  cases u <;> (cases hs)
  · exact decode_raw (raw_vlog2 .a n x e1) hw (by have := VFun.enc_lt_40 x; omega)
  · exact decode_raw (show (rawVector .b n <|> rawSeries n) = _ by rw [raw_vlog2 .b n x e1]; rfl) hw (by have := VFun.enc_lt_40 x; omega)
theorem raw_vdiv (u : VUnit) (n : Nat) (x : VTyp3) (e1 : n = 14 * 33554432 + x.enc) : rawVector u n = some (Instr.vdiv u x) := by
  have hd : n / 33554432 = 14 := by have := VTyp3.enc_lt x; omega
  unfold rawVector
  rw [hd]
  show (((VTyp3.dec 0 n).map (Instr.vdiv u))) = _
  rw [VTyp3.dec_enc n 14 x e1]; rfl
theorem Encoded.vdiv (u : VUnit) (x : VTyp3) : Encoded.Statement (.vdiv u x) := by
  intro sl n hs hw he
  have e0 : 469762048 + x.enc = n := Option.some.inj he
  have e1 : n = 14 * 33554432 + x.enc := by omega
  cases u <;> (cases hs)
  · exact decode_raw (raw_vdiv .a n x e1) hw (by have := VTyp3.enc_lt x; omega)
  · exact decode_raw (show (rawVector .b n <|> rawSeries n) = _ by rw [raw_vdiv .b n x e1]; rfl) hw (by have := VTyp3.enc_lt x; omega)
theorem raw_vcmpeq (u : VUnit) (n : Nat) (x : VCmp) (e1 : n = 15 * 33554432 + x.enc) : rawVector u n = some (Instr.vcmpeq u x) := by
  have hd : n / 33554432 = 15 := by have := VCmp.enc_lt x; omega
  unfold rawVector
  rw [hd]
  show (((VCmp.dec 0 n).map (Instr.vcmpeq u))) = _
  rw [VCmp.dec_enc n 15 x e1]; rfl
theorem Encoded.vcmpeq (u : VUnit) (x : VCmp) : Encoded.Statement (.vcmpeq u x) := by
  intro sl n hs hw he
  have e0 : 503316480 + x.enc = n := Option.some.inj he
  have e1 : n = 15 * 33554432 + x.enc := by omega
  cases u <;> (cases hs)
  · exact decode_raw (raw_vcmpeq .a n x e1) hw (by have := VCmp.enc_lt x; omega)
  · exact decode_raw (show (rawVector .b n <|> rawSeries n) = _ by rw [raw_vcmpeq .b n x e1]; rfl) hw (by have := VCmp.enc_lt x; omega)
theorem raw_vcmpne (u : VUnit) (n : Nat) (x : VCmp) (e1 : n = 16 * 33554432 + x.enc) : rawVector u n = some (Instr.vcmpne u x) := by
  have hd : n / 33554432 = 16 := by have := VCmp.enc_lt x; omega
  unfold rawVector
  rw [hd]
  show (((VCmp.dec 0 n).map (Instr.vcmpne u))) = _
  rw [VCmp.dec_enc n 16 x e1]; rfl
theorem Encoded.vcmpne (u : VUnit) (x : VCmp) : Encoded.Statement (.vcmpne u x) := by
  intro sl n hs hw he
  have e0 : 536870912 + x.enc = n := Option.some.inj he
  have e1 : n = 16 * 33554432 + x.enc := by omega
  cases u <;> (cases hs)
  · exact decode_raw (raw_vcmpne .a n x e1) hw (by have := VCmp.enc_lt x; omega)
  · exact decode_raw (show (rawVector .b n <|> rawSeries n) = _ by rw [raw_vcmpne .b n x e1]; rfl) hw (by have := VCmp.enc_lt x; omega)
theorem raw_vcmplt (u : VUnit) (n : Nat) (x : VCmp) (e1 : n = 17 * 33554432 + x.enc) : rawVector u n = some (Instr.vcmplt u x) := by
  have hd : n / 33554432 = 17 := by have := VCmp.enc_lt x; omega
  unfold rawVector
  rw [hd]
  show (((VCmp.dec 0 n).map (Instr.vcmplt u))) = _
  rw [VCmp.dec_enc n 17 x e1]; rfl
theorem Encoded.vcmplt (u : VUnit) (x : VCmp) : Encoded.Statement (.vcmplt u x) := by
  intro sl n hs hw he
  have e0 : 570425344 + x.enc = n := Option.some.inj he
  have e1 : n = 17 * 33554432 + x.enc := by omega
  cases u <;> (cases hs)
  · exact decode_raw (raw_vcmplt .a n x e1) hw (by have := VCmp.enc_lt x; omega)
  · exact decode_raw (show (rawVector .b n <|> rawSeries n) = _ by rw [raw_vcmplt .b n x e1]; rfl) hw (by have := VCmp.enc_lt x; omega)
theorem raw_vcmple (u : VUnit) (n : Nat) (x : VCmp) (e1 : n = 18 * 33554432 + x.enc) : rawVector u n = some (Instr.vcmple u x) := by
  have hd : n / 33554432 = 18 := by have := VCmp.enc_lt x; omega
  unfold rawVector
  rw [hd]
  show (((VCmp.dec 0 n).map (Instr.vcmple u))) = _
  rw [VCmp.dec_enc n 18 x e1]; rfl
theorem Encoded.vcmple (u : VUnit) (x : VCmp) : Encoded.Statement (.vcmple u x) := by
  intro sl n hs hw he
  have e0 : 603979776 + x.enc = n := Option.some.inj he
  have e1 : n = 18 * 33554432 + x.enc := by omega
  cases u <;> (cases hs)
  · exact decode_raw (raw_vcmple .a n x e1) hw (by have := VCmp.enc_lt x; omega)
  · exact decode_raw (show (rawVector .b n <|> rawSeries n) = _ by rw [raw_vcmple .b n x e1]; rfl) hw (by have := VCmp.enc_lt x; omega)
theorem raw_vsel (u : VUnit) (n : Nat) (x : VSel) (e1 : n = 19 * 33554432 + x.enc) : rawVector u n = some (Instr.vsel u x) := by
  have hd : n / 33554432 = 19 := by have := VSel.enc_lt x; omega
  unfold rawVector
  rw [hd]
  show (((VSel.dec 0 n).map (Instr.vsel u))) = _
  rw [VSel.dec_enc n 19 x e1]; rfl
theorem Encoded.vsel (u : VUnit) (x : VSel) : Encoded.Statement (.vsel u x) := by
  intro sl n hs hw he
  have e0 : 637534208 + x.enc = n := Option.some.inj he
  have e1 : n = 19 * 33554432 + x.enc := by omega
  cases u <;> (cases hs)
  · exact decode_raw (raw_vsel .a n x e1) hw (by have := VSel.enc_lt x; omega)
  · exact decode_raw (show (rawVector .b n <|> rawSeries n) = _ by rw [raw_vsel .b n x e1]; rfl) hw (by have := VSel.enc_lt x; omega)
theorem raw_vand (u : VUnit) (n : Nat) (x : VRR) (e1 : n = 20 * 33554432 + x.enc) : rawVector u n = some (Instr.vand u x) := by
  have hd : n / 33554432 = 20 := by have := VRR.enc_lt x; omega
  unfold rawVector
  rw [hd]
  show (((VRR.dec 0 n).map (Instr.vand u))) = _
  rw [VRR.dec_enc n 20 x e1]; rfl
theorem Encoded.vand (u : VUnit) (x : VRR) : Encoded.Statement (.vand u x) := by
  intro sl n hs hw he
  have e0 : 671088640 + x.enc = n := Option.some.inj he
  have e1 : n = 20 * 33554432 + x.enc := by omega
  cases u <;> (cases hs)
  · exact decode_raw (raw_vand .a n x e1) hw (by have := VRR.enc_lt x; omega)
  · exact decode_raw (show (rawVector .b n <|> rawSeries n) = _ by rw [raw_vand .b n x e1]; rfl) hw (by have := VRR.enc_lt x; omega)
theorem raw_vor (u : VUnit) (n : Nat) (x : VRR) (e1 : n = 21 * 33554432 + x.enc) : rawVector u n = some (Instr.vor u x) := by
  have hd : n / 33554432 = 21 := by have := VRR.enc_lt x; omega
  unfold rawVector
  rw [hd]
  show (((VRR.dec 0 n).map (Instr.vor u))) = _
  rw [VRR.dec_enc n 21 x e1]; rfl
theorem Encoded.vor (u : VUnit) (x : VRR) : Encoded.Statement (.vor u x) := by
  intro sl n hs hw he
  have e0 : 704643072 + x.enc = n := Option.some.inj he
  have e1 : n = 21 * 33554432 + x.enc := by omega
  cases u <;> (cases hs)
  · exact decode_raw (raw_vor .a n x e1) hw (by have := VRR.enc_lt x; omega)
  · exact decode_raw (show (rawVector .b n <|> rawSeries n) = _ by rw [raw_vor .b n x e1]; rfl) hw (by have := VRR.enc_lt x; omega)
theorem raw_vxor (u : VUnit) (n : Nat) (x : VRR) (e1 : n = 22 * 33554432 + x.enc) : rawVector u n = some (Instr.vxor u x) := by
  have hd : n / 33554432 = 22 := by have := VRR.enc_lt x; omega
  unfold rawVector
  rw [hd]
  show (((VRR.dec 0 n).map (Instr.vxor u))) = _
  rw [VRR.dec_enc n 22 x e1]; rfl
theorem Encoded.vxor (u : VUnit) (x : VRR) : Encoded.Statement (.vxor u x) := by
  intro sl n hs hw he
  have e0 : 738197504 + x.enc = n := Option.some.inj he
  have e1 : n = 22 * 33554432 + x.enc := by omega
  cases u <;> (cases hs)
  · exact decode_raw (raw_vxor .a n x e1) hw (by have := VRR.enc_lt x; omega)
  · exact decode_raw (show (rawVector .b n <|> rawSeries n) = _ by rw [raw_vxor .b n x e1]; rfl) hw (by have := VRR.enc_lt x; omega)
theorem raw_vandn (u : VUnit) (n : Nat) (x : VRR) (e1 : n = 23 * 33554432 + x.enc) : rawVector u n = some (Instr.vandn u x) := by
  have hd : n / 33554432 = 23 := by have := VRR.enc_lt x; omega
  unfold rawVector
  rw [hd]
  show (((VRR.dec 0 n).map (Instr.vandn u))) = _
  rw [VRR.dec_enc n 23 x e1]; rfl
theorem Encoded.vandn (u : VUnit) (x : VRR) : Encoded.Statement (.vandn u x) := by
  intro sl n hs hw he
  have e0 : 771751936 + x.enc = n := Option.some.inj he
  have e1 : n = 23 * 33554432 + x.enc := by omega
  cases u <;> (cases hs)
  · exact decode_raw (raw_vandn .a n x e1) hw (by have := VRR.enc_lt x; omega)
  · exact decode_raw (show (rawVector .b n <|> rawSeries n) = _ by rw [raw_vandn .b n x e1]; rfl) hw (by have := VRR.enc_lt x; omega)
theorem raw_vshl (u : VUnit) (n : Nat) (x : VRR) (e1 : n = 24 * 33554432 + x.enc) : rawVector u n = some (Instr.vshl u x) := by
  have hd : n / 33554432 = 24 := by have := VRR.enc_lt x; omega
  unfold rawVector
  rw [hd]
  show (((VRR.dec 0 n).map (Instr.vshl u))) = _
  rw [VRR.dec_enc n 24 x e1]; rfl
theorem Encoded.vshl (u : VUnit) (x : VRR) : Encoded.Statement (.vshl u x) := by
  intro sl n hs hw he
  have e0 : 805306368 + x.enc = n := Option.some.inj he
  have e1 : n = 24 * 33554432 + x.enc := by omega
  cases u <;> (cases hs)
  · exact decode_raw (raw_vshl .a n x e1) hw (by have := VRR.enc_lt x; omega)
  · exact decode_raw (show (rawVector .b n <|> rawSeries n) = _ by rw [raw_vshl .b n x e1]; rfl) hw (by have := VRR.enc_lt x; omega)
theorem raw_vshr (u : VUnit) (n : Nat) (x : VRR) (e1 : n = 25 * 33554432 + x.enc) : rawVector u n = some (Instr.vshr u x) := by
  have hd : n / 33554432 = 25 := by have := VRR.enc_lt x; omega
  unfold rawVector
  rw [hd]
  show (((VRR.dec 0 n).map (Instr.vshr u))) = _
  rw [VRR.dec_enc n 25 x e1]; rfl
theorem Encoded.vshr (u : VUnit) (x : VRR) : Encoded.Statement (.vshr u x) := by
  intro sl n hs hw he
  have e0 : 838860800 + x.enc = n := Option.some.inj he
  have e1 : n = 25 * 33554432 + x.enc := by omega
  cases u <;> (cases hs)
  · exact decode_raw (raw_vshr .a n x e1) hw (by have := VRR.enc_lt x; omega)
  · exact decode_raw (show (rawVector .b n <|> rawSeries n) = _ by rw [raw_vshr .b n x e1]; rfl) hw (by have := VRR.enc_lt x; omega)
theorem raw_vsar (u : VUnit) (n : Nat) (x : VRR) (e1 : n = 26 * 33554432 + x.enc) : rawVector u n = some (Instr.vsar u x) := by
  have hd : n / 33554432 = 26 := by have := VRR.enc_lt x; omega
  unfold rawVector
  rw [hd]
  show (((VRR.dec 0 n).map (Instr.vsar u))) = _
  rw [VRR.dec_enc n 26 x e1]; rfl
theorem Encoded.vsar (u : VUnit) (x : VRR) : Encoded.Statement (.vsar u x) := by
  intro sl n hs hw he
  have e0 : 872415232 + x.enc = n := Option.some.inj he
  have e1 : n = 26 * 33554432 + x.enc := by omega
  cases u <;> (cases hs)
  · exact decode_raw (raw_vsar .a n x e1) hw (by have := VRR.enc_lt x; omega)
  · exact decode_raw (show (rawVector .b n <|> rawSeries n) = _ by rw [raw_vsar .b n x e1]; rfl) hw (by have := VRR.enc_lt x; omega)
theorem raw_vbfx (u : VUnit) (n : Nat) (x : VBfx) (e1 : n = 27 * 33554432 + x.enc) : rawVector u n = some (Instr.vbfx u x) := by
  have hd : n / 33554432 = 27 := by have := VBfx.enc_lt x; omega
  unfold rawVector
  rw [hd]
  show (((VBfx.dec 0 n).map (Instr.vbfx u))) = _
  rw [VBfx.dec_enc n 27 x e1]; rfl
theorem Encoded.vbfx (u : VUnit) (x : VBfx) : Encoded.Statement (.vbfx u x) := by
  intro sl n hs hw he
  have e0 : 905969664 + x.enc = n := Option.some.inj he
  have e1 : n = 27 * 33554432 + x.enc := by omega
  cases u <;> (cases hs)
  · exact decode_raw (raw_vbfx .a n x e1) hw (by have := VBfx.enc_lt x; omega)
  · exact decode_raw (show (rawVector .b n <|> rawSeries n) = _ by rw [raw_vbfx .b n x e1]; rfl) hw (by have := VBfx.enc_lt x; omega)
theorem raw_vbfi (u : VUnit) (n : Nat) (x : VRR) (e1 : n = 28 * 33554432 + x.enc) : rawVector u n = some (Instr.vbfi u x) := by
  have hd : n / 33554432 = 28 := by have := VRR.enc_lt x; omega
  unfold rawVector
  rw [hd]
  show (((VRR.dec 0 n).map (Instr.vbfi u))) = _
  rw [VRR.dec_enc n 28 x e1]; rfl
theorem Encoded.vbfi (u : VUnit) (x : VRR) : Encoded.Statement (.vbfi u x) := by
  intro sl n hs hw he
  have e0 : 939524096 + x.enc = n := Option.some.inj he
  have e1 : n = 28 * 33554432 + x.enc := by omega
  cases u <;> (cases hs)
  · exact decode_raw (raw_vbfi .a n x e1) hw (by have := VRR.enc_lt x; omega)
  · exact decode_raw (show (rawVector .b n <|> rawSeries n) = _ by rw [raw_vbfi .b n x e1]; rfl) hw (by have := VRR.enc_lt x; omega)
theorem raw_vfsh (u : VUnit) (n : Nat) (x : VRR) (e1 : n = 29 * 33554432 + x.enc) : rawVector u n = some (Instr.vfsh u x) := by
  have hd : n / 33554432 = 29 := by have := VRR.enc_lt x; omega
  unfold rawVector
  rw [hd]
  show (((VRR.dec 0 n).map (Instr.vfsh u))) = _
  rw [VRR.dec_enc n 29 x e1]; rfl
theorem Encoded.vfsh (u : VUnit) (x : VRR) : Encoded.Statement (.vfsh u x) := by
  intro sl n hs hw he
  have e0 : 973078528 + x.enc = n := Option.some.inj he
  have e1 : n = 29 * 33554432 + x.enc := by omega
  cases u <;> (cases hs)
  · exact decode_raw (raw_vfsh .a n x e1) hw (by have := VRR.enc_lt x; omega)
  · exact decode_raw (show (rawVector .b n <|> rawSeries n) = _ by rw [raw_vfsh .b n x e1]; rfl) hw (by have := VRR.enc_lt x; omega)
theorem raw_vpopc (u : VUnit) (n : Nat) (x : VR) (e1 : n = 30 * 33554432 + x.enc) : rawVector u n = some (Instr.vpopc u x) := by
  have hd : n / 33554432 = 30 := by have := VR.enc_lt x; omega
  unfold rawVector
  rw [hd]
  show (((VR.dec 0 n).map (Instr.vpopc u))) = _
  rw [VR.dec_enc n 30 x e1]; rfl
theorem Encoded.vpopc (u : VUnit) (x : VR) : Encoded.Statement (.vpopc u x) := by
  intro sl n hs hw he
  have e0 : 1006632960 + x.enc = n := Option.some.inj he
  have e1 : n = 30 * 33554432 + x.enc := by omega
  cases u <;> (cases hs)
  · exact decode_raw (raw_vpopc .a n x e1) hw (by have := VR.enc_lt x; omega)
  · exact decode_raw (show (rawVector .b n <|> rawSeries n) = _ by rw [raw_vpopc .b n x e1]; rfl) hw (by have := VR.enc_lt x; omega)
theorem raw_vclz (u : VUnit) (n : Nat) (x : VR) (e1 : n = 31 * 33554432 + x.enc) : rawVector u n = some (Instr.vclz u x) := by
  have hd : n / 33554432 = 31 := by have := VR.enc_lt x; omega
  unfold rawVector
  rw [hd]
  show (((VR.dec 0 n).map (Instr.vclz u))) = _
  rw [VR.dec_enc n 31 x e1]; rfl
theorem Encoded.vclz (u : VUnit) (x : VR) : Encoded.Statement (.vclz u x) := by
  intro sl n hs hw he
  have e0 : 1040187392 + x.enc = n := Option.some.inj he
  have e1 : n = 31 * 33554432 + x.enc := by omega
  cases u <;> (cases hs)
  · exact decode_raw (raw_vclz .a n x e1) hw (by have := VR.enc_lt x; omega)
  · exact decode_raw (show (rawVector .b n <|> rawSeries n) = _ by rw [raw_vclz .b n x e1]; rfl) hw (by have := VR.enc_lt x; omega)
theorem raw_vcvt (u : VUnit) (n : Nat) (x : VCvt) (e1 : n = 32 * 33554432 + x.enc) : rawVector u n = some (Instr.vcvt u x) := by
  have hd : n / 33554432 = 32 := by have := VCvt.enc_lt x; omega
  unfold rawVector
  rw [hd]
  show (((VCvt.dec 0 n).map (Instr.vcvt u))) = _
  rw [VCvt.dec_enc n 32 x e1]; rfl
theorem Encoded.vcvt (u : VUnit) (x : VCvt) : Encoded.Statement (.vcvt u x) := by
  intro sl n hs hw he
  have e0 : 1073741824 + x.enc = n := Option.some.inj he
  have e1 : n = 32 * 33554432 + x.enc := by omega
  cases u <;> (cases hs)
  · exact decode_raw (raw_vcvt .a n x e1) hw (by have := VCvt.enc_lt x; omega)
  · exact decode_raw (show (rawVector .b n <|> rawSeries n) = _ by rw [raw_vcvt .b n x e1]; rfl) hw (by have := VCvt.enc_lt x; omega)
theorem raw_vpack (u : VUnit) (n : Nat) (x : VPack) (e1 : n = 33 * 33554432 + x.enc) : rawVector u n = some (Instr.vpack u x) := by
  have hd : n / 33554432 = 33 := by have := VPack.enc_lt x; omega
  unfold rawVector
  rw [hd]
  show (((VPack.dec 0 n).map (Instr.vpack u))) = _
  rw [VPack.dec_enc n 33 x e1]; rfl
theorem Encoded.vpack (u : VUnit) (x : VPack) : Encoded.Statement (.vpack u x) := by
  intro sl n hs hw he
  have e0 : 1107296256 + x.enc = n := Option.some.inj he
  have e1 : n = 33 * 33554432 + x.enc := by omega
  cases u <;> (cases hs)
  · exact decode_raw (raw_vpack .a n x e1) hw (by have := VPack.enc_lt x; omega)
  · exact decode_raw (show (rawVector .b n <|> rawSeries n) = _ by rw [raw_vpack .b n x e1]; rfl) hw (by have := VPack.enc_lt x; omega)
theorem raw_vunpack (u : VUnit) (n : Nat) (x : VUnpack) (e1 : n = 34 * 33554432 + x.enc) : rawVector u n = some (Instr.vunpack u x) := by
  have hd : n / 33554432 = 34 := by have := VUnpack.enc_lt x; omega
  unfold rawVector
  rw [hd]
  show (((VUnpack.dec 0 n).map (Instr.vunpack u))) = _
  rw [VUnpack.dec_enc n 34 x e1]; rfl
theorem Encoded.vunpack (u : VUnit) (x : VUnpack) : Encoded.Statement (.vunpack u x) := by
  intro sl n hs hw he
  have e0 : 1140850688 + x.enc = n := Option.some.inj he
  have e1 : n = 34 * 33554432 + x.enc := by omega
  cases u <;> (cases hs)
  · exact decode_raw (raw_vunpack .a n x e1) hw (by have := VUnpack.enc_lt x; omega)
  · exact decode_raw (show (rawVector .b n <|> rawSeries n) = _ by rw [raw_vunpack .b n x e1]; rfl) hw (by have := VUnpack.enc_lt x; omega)
theorem raw_vperm (u : VUnit) (n : Nat) (x : VRR) (e1 : n = 35 * 33554432 + x.enc) : rawVector u n = some (Instr.vperm u x) := by
  have hd : n / 33554432 = 35 := by have := VRR.enc_lt x; omega
  unfold rawVector
  rw [hd]
  show (((VRR.dec 0 n).map (Instr.vperm u))) = _
  rw [VRR.dec_enc n 35 x e1]; rfl
theorem Encoded.vperm (u : VUnit) (x : VRR) : Encoded.Statement (.vperm u x) := by
  intro sl n hs hw he
  have e0 : 1174405120 + x.enc = n := Option.some.inj he
  have e1 : n = 35 * 33554432 + x.enc := by omega
  cases u <;> (cases hs)
  · exact decode_raw (raw_vperm .a n x e1) hw (by have := VRR.enc_lt x; omega)
  · exact decode_raw (show (rawVector .b n <|> rawSeries n) = _ by rw [raw_vperm .b n x e1]; rfl) hw (by have := VRR.enc_lt x; omega)
theorem raw_vbcast (u : VUnit) (n : Nat) (x : VBcast) (e1 : n = 36 * 33554432 + x.enc) : rawVector u n = some (Instr.vbcast u x) := by
  have hd : n / 33554432 = 36 := by have := VBcast.enc_lt x; omega
  unfold rawVector
  rw [hd]
  show (((VBcast.dec 0 n).map (Instr.vbcast u))) = _
  rw [VBcast.dec_enc n 36 x e1]; rfl
theorem Encoded.vbcast (u : VUnit) (x : VBcast) : Encoded.Statement (.vbcast u x) := by
  intro sl n hs hw he
  have e0 : 1207959552 + x.enc = n := Option.some.inj he
  have e1 : n = 36 * 33554432 + x.enc := by omega
  cases u <;> (cases hs)
  · exact decode_raw (raw_vbcast .a n x e1) hw (by have := VBcast.enc_lt x; omega)
  · exact decode_raw (show (rawVector .b n <|> rawSeries n) = _ by rw [raw_vbcast .b n x e1]; rfl) hw (by have := VBcast.enc_lt x; omega)
theorem raw_vslide (u : VUnit) (n : Nat) (x : VSlide) (e1 : n = 37 * 33554432 + x.enc) : rawVector u n = some (Instr.vslide u x) := by
  have hd : n / 33554432 = 37 := by have := VSlide.enc_lt x; omega
  unfold rawVector
  rw [hd]
  show (((VSlide.dec 0 n).map (Instr.vslide u))) = _
  rw [VSlide.dec_enc n 37 x e1]; rfl
theorem Encoded.vslide (u : VUnit) (x : VSlide) : Encoded.Statement (.vslide u x) := by
  intro sl n hs hw he
  have e0 : 1241513984 + x.enc = n := Option.some.inj he
  have e1 : n = 37 * 33554432 + x.enc := by omega
  cases u <;> (cases hs)
  · exact decode_raw (raw_vslide .a n x e1) hw (by have := VSlide.enc_lt x; omega)
  · exact decode_raw (show (rawVector .b n <|> rawSeries n) = _ by rw [raw_vslide .b n x e1]; rfl) hw (by have := VSlide.enc_lt x; omega)
theorem raw_viota (u : VUnit) (n : Nat) (x : VD) (e1 : n = 38 * 33554432 + 16 + x.enc) : rawVector u n = some (Instr.viota u x) := by
  have hd : n / 33554432 = 38 := by have := VD.enc_lt_16 x; omega
  unfold rawVector
  rw [hd]
  show (((VD.dec 16 n).map (Instr.viota u)) <|> ((VD.dec 17 n).map (Instr.viotaRand u))) = _
  rw [VD.dec_enc_16 n 38 x e1]; rfl
theorem Encoded.viota (u : VUnit) (x : VD) : Encoded.Statement (.viota u x) := by
  intro sl n hs hw he
  have e0 : 1275068432 + x.enc = n := Option.some.inj he
  have e1 : n = 38 * 33554432 + 16 + x.enc := by omega
  cases u <;> (cases hs)
  · exact decode_raw (raw_viota .a n x e1) hw (by have := VD.enc_lt_16 x; omega)
  · exact decode_raw (show (rawVector .b n <|> rawSeries n) = _ by rw [raw_viota .b n x e1]; rfl) hw (by have := VD.enc_lt_16 x; omega)
theorem raw_viotaRand (u : VUnit) (n : Nat) (x : VD) (e1 : n = 38 * 33554432 + 17 + x.enc) : rawVector u n = some (Instr.viotaRand u x) := by
  have hd : n / 33554432 = 38 := by have := VD.enc_lt_17 x; omega
  unfold rawVector
  rw [hd]
  show (((VD.dec 16 n).map (Instr.viota u)) <|> ((VD.dec 17 n).map (Instr.viotaRand u))) = _
  rw [VD.dec_16_on_VD_17 n 38 x e1, VD.dec_enc_17 n 38 x e1]; rfl
theorem Encoded.viotaRand (u : VUnit) (x : VD) : Encoded.Statement (.viotaRand u x) := by
  intro sl n hs hw he
  have e0 : 1275068433 + x.enc = n := Option.some.inj he
  have e1 : n = 38 * 33554432 + 17 + x.enc := by omega
  cases u <;> (cases hs)
  · exact decode_raw (raw_viotaRand .a n x e1) hw (by have := VD.enc_lt_17 x; omega)
  · exact decode_raw (show (rawVector .b n <|> rawSeries n) = _ by rw [raw_viotaRand .b n x e1]; rfl) hw (by have := VD.enc_lt_17 x; omega)
theorem raw_vredadd (u : VUnit) (n : Nat) (x : VTyp2) (e1 : n = 39 * 33554432 + x.enc) : rawVector u n = some (Instr.vredadd u x) := by
  have hd : n / 33554432 = 39 := by have := VTyp2.enc_lt x; omega
  unfold rawVector
  rw [hd]
  show (((VTyp2.dec 0 n).map (Instr.vredadd u))) = _
  rw [VTyp2.dec_enc n 39 x e1]; rfl
theorem Encoded.vredadd (u : VUnit) (x : VTyp2) : Encoded.Statement (.vredadd u x) := by
  intro sl n hs hw he
  have e0 : 1308622848 + x.enc = n := Option.some.inj he
  have e1 : n = 39 * 33554432 + x.enc := by omega
  cases u <;> (cases hs)
  · exact decode_raw (raw_vredadd .a n x e1) hw (by have := VTyp2.enc_lt x; omega)
  · exact decode_raw (show (rawVector .b n <|> rawSeries n) = _ by rw [raw_vredadd .b n x e1]; rfl) hw (by have := VTyp2.enc_lt x; omega)
theorem raw_vredmax (u : VUnit) (n : Nat) (x : VTyp2) (e1 : n = 40 * 33554432 + x.enc) : rawVector u n = some (Instr.vredmax u x) := by
  have hd : n / 33554432 = 40 := by have := VTyp2.enc_lt x; omega
  unfold rawVector
  rw [hd]
  show (((VTyp2.dec 0 n).map (Instr.vredmax u))) = _
  rw [VTyp2.dec_enc n 40 x e1]; rfl
theorem Encoded.vredmax (u : VUnit) (x : VTyp2) : Encoded.Statement (.vredmax u x) := by
  intro sl n hs hw he
  have e0 : 1342177280 + x.enc = n := Option.some.inj he
  have e1 : n = 40 * 33554432 + x.enc := by omega
  cases u <;> (cases hs)
  · exact decode_raw (raw_vredmax .a n x e1) hw (by have := VTyp2.enc_lt x; omega)
  · exact decode_raw (show (rawVector .b n <|> rawSeries n) = _ by rw [raw_vredmax .b n x e1]; rfl) hw (by have := VTyp2.enc_lt x; omega)
theorem raw_vscan (u : VUnit) (n : Nat) (x : VTyp2) (e1 : n = 41 * 33554432 + x.enc) : rawVector u n = some (Instr.vscan u x) := by
  have hd : n / 33554432 = 41 := by have := VTyp2.enc_lt x; omega
  unfold rawVector
  rw [hd]
  show (((VTyp2.dec 0 n).map (Instr.vscan u))) = _
  rw [VTyp2.dec_enc n 41 x e1]; rfl
theorem Encoded.vscan (u : VUnit) (x : VTyp2) : Encoded.Statement (.vscan u x) := by
  intro sl n hs hw he
  have e0 : 1375731712 + x.enc = n := Option.some.inj he
  have e1 : n = 41 * 33554432 + x.enc := by omega
  cases u <;> (cases hs)
  · exact decode_raw (raw_vscan .a n x e1) hw (by have := VTyp2.enc_lt x; omega)
  · exact decode_raw (show (rawVector .b n <|> rawSeries n) = _ by rw [raw_vscan .b n x e1]; rfl) hw (by have := VTyp2.enc_lt x; omega)
theorem raw_vld (u : VUnit) (n : Nat) (x : VRR) (e1 : n = 42 * 33554432 + x.enc) : rawVector u n = some (Instr.vld u x) := by
  have hd : n / 33554432 = 42 := by have := VRR.enc_lt x; omega
  unfold rawVector
  rw [hd]
  show (((VRR.dec 0 n).map (Instr.vld u))) = _
  rw [VRR.dec_enc n 42 x e1]; rfl
theorem Encoded.vld (u : VUnit) (x : VRR) : Encoded.Statement (.vld u x) := by
  intro sl n hs hw he
  have e0 : 1409286144 + x.enc = n := Option.some.inj he
  have e1 : n = 42 * 33554432 + x.enc := by omega
  cases u <;> (cases hs)
  · exact decode_raw (raw_vld .a n x e1) hw (by have := VRR.enc_lt x; omega)
  · exact decode_raw (show (rawVector .b n <|> rawSeries n) = _ by rw [raw_vld .b n x e1]; rfl) hw (by have := VRR.enc_lt x; omega)
theorem raw_vst (u : VUnit) (n : Nat) (x : VRR) (e1 : n = 43 * 33554432 + x.enc) : rawVector u n = some (Instr.vst u x) := by
  have hd : n / 33554432 = 43 := by have := VRR.enc_lt x; omega
  unfold rawVector
  rw [hd]
  show (((VRR.dec 0 n).map (Instr.vst u))) = _
  rw [VRR.dec_enc n 43 x e1]; rfl
theorem Encoded.vst (u : VUnit) (x : VRR) : Encoded.Statement (.vst u x) := by
  intro sl n hs hw he
  have e0 : 1442840576 + x.enc = n := Option.some.inj he
  have e1 : n = 43 * 33554432 + x.enc := by omega
  cases u <;> (cases hs)
  · exact decode_raw (raw_vst .a n x e1) hw (by have := VRR.enc_lt x; omega)
  · exact decode_raw (show (rawVector .b n <|> rawSeries n) = _ by rw [raw_vst .b n x e1]; rfl) hw (by have := VRR.enc_lt x; omega)
theorem raw_vlds (u : VUnit) (n : Nat) (x : VRR) (e1 : n = 44 * 33554432 + x.enc) : rawVector u n = some (Instr.vlds u x) := by
  have hd : n / 33554432 = 44 := by have := VRR.enc_lt x; omega
  unfold rawVector
  rw [hd]
  show (((VRR.dec 0 n).map (Instr.vlds u))) = _
  rw [VRR.dec_enc n 44 x e1]; rfl
theorem Encoded.vlds (u : VUnit) (x : VRR) : Encoded.Statement (.vlds u x) := by
  intro sl n hs hw he
  have e0 : 1476395008 + x.enc = n := Option.some.inj he
  have e1 : n = 44 * 33554432 + x.enc := by omega
  cases u <;> (cases hs)
  · exact decode_raw (raw_vlds .a n x e1) hw (by have := VRR.enc_lt x; omega)
  · exact decode_raw (show (rawVector .b n <|> rawSeries n) = _ by rw [raw_vlds .b n x e1]; rfl) hw (by have := VRR.enc_lt x; omega)
theorem raw_vsts (u : VUnit) (n : Nat) (x : VRR) (e1 : n = 45 * 33554432 + x.enc) : rawVector u n = some (Instr.vsts u x) := by
  have hd : n / 33554432 = 45 := by have := VRR.enc_lt x; omega
  unfold rawVector
  rw [hd]
  show (((VRR.dec 0 n).map (Instr.vsts u))) = _
  rw [VRR.dec_enc n 45 x e1]; rfl
theorem Encoded.vsts (u : VUnit) (x : VRR) : Encoded.Statement (.vsts u x) := by
  intro sl n hs hw he
  have e0 : 1509949440 + x.enc = n := Option.some.inj he
  have e1 : n = 45 * 33554432 + x.enc := by omega
  cases u <;> (cases hs)
  · exact decode_raw (raw_vsts .a n x e1) hw (by have := VRR.enc_lt x; omega)
  · exact decode_raw (show (rawVector .b n <|> rawSeries n) = _ by rw [raw_vsts .b n x e1]; rfl) hw (by have := VRR.enc_lt x; omega)
theorem raw_vgath (u : VUnit) (n : Nat) (x : VRR) (e1 : n = 46 * 33554432 + x.enc) : rawVector u n = some (Instr.vgath u x) := by
  have hd : n / 33554432 = 46 := by have := VRR.enc_lt x; omega
  unfold rawVector
  rw [hd]
  show (((VRR.dec 0 n).map (Instr.vgath u))) = _
  rw [VRR.dec_enc n 46 x e1]; rfl
theorem Encoded.vgath (u : VUnit) (x : VRR) : Encoded.Statement (.vgath u x) := by
  intro sl n hs hw he
  have e0 : 1543503872 + x.enc = n := Option.some.inj he
  have e1 : n = 46 * 33554432 + x.enc := by omega
  cases u <;> (cases hs)
  · exact decode_raw (raw_vgath .a n x e1) hw (by have := VRR.enc_lt x; omega)
  · exact decode_raw (show (rawVector .b n <|> rawSeries n) = _ by rw [raw_vgath .b n x e1]; rfl) hw (by have := VRR.enc_lt x; omega)
theorem raw_vscat (u : VUnit) (n : Nat) (x : VRR) (e1 : n = 47 * 33554432 + x.enc) : rawVector u n = some (Instr.vscat u x) := by
  have hd : n / 33554432 = 47 := by have := VRR.enc_lt x; omega
  unfold rawVector
  rw [hd]
  show (((VRR.dec 0 n).map (Instr.vscat u))) = _
  rw [VRR.dec_enc n 47 x e1]; rfl
theorem Encoded.vscat (u : VUnit) (x : VRR) : Encoded.Statement (.vscat u x) := by
  intro sl n hs hw he
  have e0 : 1577058304 + x.enc = n := Option.some.inj he
  have e1 : n = 47 * 33554432 + x.enc := by omega
  cases u <;> (cases hs)
  · exact decode_raw (raw_vscat .a n x e1) hw (by have := VRR.enc_lt x; omega)
  · exact decode_raw (show (rawVector .b n <|> rawSeries n) = _ by rw [raw_vscat .b n x e1]; rfl) hw (by have := VRR.enc_lt x; omega)
theorem raw_vtbl (u : VUnit) (n : Nat) (x : VTbl) (e1 : n = 48 * 33554432 + x.enc) : rawVector u n = some (Instr.vtbl u x) := by
  have hd : n / 33554432 = 48 := by have := VTbl.enc_lt x; omega
  unfold rawVector
  rw [hd]
  show (((VTbl.dec 0 n).map (Instr.vtbl u))) = _
  rw [VTbl.dec_enc n 48 x e1]; rfl
theorem Encoded.vtbl (u : VUnit) (x : VTbl) : Encoded.Statement (.vtbl u x) := by
  intro sl n hs hw he
  have e0 : 1610612736 + x.enc = n := Option.some.inj he
  have e1 : n = 48 * 33554432 + x.enc := by omega
  cases u <;> (cases hs)
  · exact decode_raw (raw_vtbl .a n x e1) hw (by have := VTbl.enc_lt x; omega)
  · exact decode_raw (show (rawVector .b n <|> rawSeries n) = _ by rw [raw_vtbl .b n x e1]; rfl) hw (by have := VTbl.enc_lt x; omega)
theorem raw_vaadd (u : VUnit) (n : Nat) (x : VAtom) (e1 : n = 49 * 33554432 + x.enc) : rawVector u n = some (Instr.vaadd u x) := by
  have hd : n / 33554432 = 49 := by have := VAtom.enc_lt x; omega
  unfold rawVector
  rw [hd]
  show (((VAtom.dec 0 n).map (Instr.vaadd u))) = _
  rw [VAtom.dec_enc n 49 x e1]; rfl
theorem Encoded.vaadd (u : VUnit) (x : VAtom) : Encoded.Statement (.vaadd u x) := by
  intro sl n hs hw he
  have e0 : 1644167168 + x.enc = n := Option.some.inj he
  have e1 : n = 49 * 33554432 + x.enc := by omega
  cases u <;> (cases hs)
  · exact decode_raw (raw_vaadd .a n x e1) hw (by have := VAtom.enc_lt x; omega)
  · exact decode_raw (show (rawVector .b n <|> rawSeries n) = _ by rw [raw_vaadd .b n x e1]; rfl) hw (by have := VAtom.enc_lt x; omega)
theorem raw_vafadd (u : VUnit) (n : Nat) (x : VRR) (e1 : n = 50 * 33554432 + x.enc) : rawVector u n = some (Instr.vafadd u x) := by
  have hd : n / 33554432 = 50 := by have := VRR.enc_lt x; omega
  unfold rawVector
  rw [hd]
  show (((VRR.dec 0 n).map (Instr.vafadd u))) = _
  rw [VRR.dec_enc n 50 x e1]; rfl
theorem Encoded.vafadd (u : VUnit) (x : VRR) : Encoded.Statement (.vafadd u x) := by
  intro sl n hs hw he
  have e0 : 1677721600 + x.enc = n := Option.some.inj he
  have e1 : n = 50 * 33554432 + x.enc := by omega
  cases u <;> (cases hs)
  · exact decode_raw (raw_vafadd .a n x e1) hw (by have := VRR.enc_lt x; omega)
  · exact decode_raw (show (rawVector .b n <|> rawSeries n) = _ by rw [raw_vafadd .b n x e1]; rfl) hw (by have := VRR.enc_lt x; omega)
theorem raw_vectorGetm (u : VUnit) (n : Nat) (x : VGetm) (e1 : n = 51 * 33554432 + x.enc) : rawVector u n = some (Instr.vectorGetm u x) := by
  have hd : n / 33554432 = 51 := by have := VGetm.enc_lt x; omega
  unfold rawVector
  rw [hd]
  show (((VGetm.dec 0 n).map (Instr.vectorGetm u))) = _
  rw [VGetm.dec_enc n 51 x e1]; rfl
theorem Encoded.vectorGetm (u : VUnit) (x : VGetm) : Encoded.Statement (.vectorGetm u x) := by
  intro sl n hs hw he
  have e0 : 1711276032 + x.enc = n := Option.some.inj he
  have e1 : n = 51 * 33554432 + x.enc := by omega
  cases u <;> (cases hs)
  · exact decode_raw (raw_vectorGetm .a n x e1) hw (by have := VGetm.enc_lt x; omega)
  · exact decode_raw (show (rawVector .b n <|> rawSeries n) = _ by rw [raw_vectorGetm .b n x e1]; rfl) hw (by have := VGetm.enc_lt x; omega)
theorem raw_vectorPutm (u : VUnit) (n : Nat) (x : VPutm) (e1 : n = 52 * 33554432 + x.enc) : rawVector u n = some (Instr.vectorPutm u x) := by
  have hd : n / 33554432 = 52 := by have := VPutm.enc_lt x; omega
  unfold rawVector
  rw [hd]
  show (((VPutm.dec 0 n).map (Instr.vectorPutm u))) = _
  rw [VPutm.dec_enc n 52 x e1]; rfl
theorem Encoded.vectorPutm (u : VUnit) (x : VPutm) : Encoded.Statement (.vectorPutm u x) := by
  intro sl n hs hw he
  have e0 : 1744830464 + x.enc = n := Option.some.inj he
  have e1 : n = 52 * 33554432 + x.enc := by omega
  cases u <;> (cases hs)
  · exact decode_raw (raw_vectorPutm .a n x e1) hw (by have := VPutm.enc_lt x; omega)
  · exact decode_raw (show (rawVector .b n <|> rawSeries n) = _ by rw [raw_vectorPutm .b n x e1]; rfl) hw (by have := VPutm.enc_lt x; omega)
theorem raw_vectorXfer (u : VUnit) (n : Nat) (x : VXfer) (e1 : n = 53 * 33554432 + x.enc) : rawVector u n = some (Instr.vectorXfer u x) := by
  have hd : n / 33554432 = 53 := by have := VXfer.enc_lt x; omega
  unfold rawVector
  rw [hd]
  show (((VXfer.dec 0 n).map (Instr.vectorXfer u))) = _
  rw [VXfer.dec_enc n 53 x e1]; rfl
theorem Encoded.vectorXfer (u : VUnit) (x : VXfer) : Encoded.Statement (.vectorXfer u x) := by
  intro sl n hs hw he
  have e0 : 1778384896 + x.enc = n := Option.some.inj he
  have e1 : n = 53 * 33554432 + x.enc := by omega
  cases u <;> (cases hs)
  · exact decode_raw (raw_vectorXfer .a n x e1) hw (by have := VXfer.enc_lt x; omega)
  · exact decode_raw (show (rawVector .b n <|> rawSeries n) = _ by rw [raw_vectorXfer .b n x e1]; rfl) hw (by have := VXfer.enc_lt x; omega)
theorem raw_vmovs (u : VUnit) (n : Nat) (x : VR) (e1 : n = 54 * 33554432 + x.enc) : rawVector u n = some (Instr.vmovs u x) := by
  have hd : n / 33554432 = 54 := by have := VR.enc_lt x; omega
  unfold rawVector
  rw [hd]
  show (((VR.dec 0 n).map (Instr.vmovs u))) = _
  rw [VR.dec_enc n 54 x e1]; rfl
theorem Encoded.vmovs (u : VUnit) (x : VR) : Encoded.Statement (.vmovs u x) := by
  intro sl n hs hw he
  have e0 : 1811939328 + x.enc = n := Option.some.inj he
  have e1 : n = 54 * 33554432 + x.enc := by omega
  cases u <;> (cases hs)
  · exact decode_raw (raw_vmovs .a n x e1) hw (by have := VR.enc_lt x; omega)
  · exact decode_raw (show (rawVector .b n <|> rawSeries n) = _ by rw [raw_vmovs .b n x e1]; rfl) hw (by have := VR.enc_lt x; omega)
theorem raw_vpmovToPredicate (u : VUnit) (n : Nat) (x : VToP) (e1 : n = 55 * 33554432 + x.enc) : rawVector u n = some (Instr.vpmovToPredicate u x) := by
  have hd : n / 33554432 = 55 := by have := VToP.enc_lt x; omega
  unfold rawVector
  rw [hd]
  show (((VToP.dec 0 n).map (Instr.vpmovToPredicate u)) <|> ((VFromP.dec 1 n).map (Instr.vpmovFromPredicate u))) = _
  rw [VToP.dec_enc n 55 x e1]; rfl
theorem Encoded.vpmovToPredicate (u : VUnit) (x : VToP) : Encoded.Statement (.vpmovToPredicate u x) := by
  intro sl n hs hw he
  have e0 : 1845493760 + x.enc = n := Option.some.inj he
  have e1 : n = 55 * 33554432 + x.enc := by omega
  cases u <;> (cases hs)
  · exact decode_raw (raw_vpmovToPredicate .a n x e1) hw (by have := VToP.enc_lt x; omega)
  · exact decode_raw (show (rawVector .b n <|> rawSeries n) = _ by rw [raw_vpmovToPredicate .b n x e1]; rfl) hw (by have := VToP.enc_lt x; omega)
theorem raw_vpmovFromPredicate (u : VUnit) (n : Nat) (x : VFromP) (e1 : n = 55 * 33554432 + 1 + x.enc) : rawVector u n = some (Instr.vpmovFromPredicate u x) := by
  have hd : n / 33554432 = 55 := by have := VFromP.enc_lt_1 x; omega
  unfold rawVector
  rw [hd]
  show (((VToP.dec 0 n).map (Instr.vpmovToPredicate u)) <|> ((VFromP.dec 1 n).map (Instr.vpmovFromPredicate u))) = _
  rw [VToP.dec_0_on_VFromP_1 n 55 x e1, VFromP.dec_enc_1 n 55 x e1]; rfl
theorem Encoded.vpmovFromPredicate (u : VUnit) (x : VFromP) : Encoded.Statement (.vpmovFromPredicate u x) := by
  intro sl n hs hw he
  have e0 : 1845493761 + x.enc = n := Option.some.inj he
  have e1 : n = 55 * 33554432 + 1 + x.enc := by omega
  cases u <;> (cases hs)
  · exact decode_raw (raw_vpmovFromPredicate .a n x e1) hw (by have := VFromP.enc_lt_1 x; omega)
  · exact decode_raw (show (rawVector .b n <|> rawSeries n) = _ by rw [raw_vpmovFromPredicate .b n x e1]; rfl) hw (by have := VFromP.enc_lt_1 x; omega)
theorem raw_vefclr (u : VUnit) (n : Nat) (x : VEf) (e1 : n = 56 * 33554432 + x.enc) : rawVector u n = some (Instr.vefclr u x) := by
  have hd : n / 33554432 = 56 := by have := VEf.enc_lt x; omega
  unfold rawVector
  rw [hd]
  show (((VEf.dec 0 n).map (Instr.vefclr u))) = _
  rw [VEf.dec_enc n 56 x e1]; rfl
theorem Encoded.vefclr (u : VUnit) (x : VEf) : Encoded.Statement (.vefclr u x) := by
  intro sl n hs hw he
  have e0 : 1879048192 + x.enc = n := Option.some.inj he
  have e1 : n = 56 * 33554432 + x.enc := by omega
  cases u <;> (cases hs)
  · exact decode_raw (raw_vefclr .a n x e1) hw (by have := VEf.enc_lt x; omega)
  · exact decode_raw (show (rawVector .b n <|> rawSeries n) = _ by rw [raw_vefclr .b n x e1]; rfl) hw (by have := VEf.enc_lt x; omega)
theorem raw_vefget (u : VUnit) (n : Nat) (x : VEfg) (e1 : n = 57 * 33554432 + x.enc) : rawVector u n = some (Instr.vefget u x) := by
  have hd : n / 33554432 = 57 := by have := VEfg.enc_lt x; omega
  unfold rawVector
  rw [hd]
  show (((VEfg.dec 0 n).map (Instr.vefget u))) = _
  rw [VEfg.dec_enc n 57 x e1]; rfl
theorem Encoded.vefget (u : VUnit) (x : VEfg) : Encoded.Statement (.vefget u x) := by
  intro sl n hs hw he
  have e0 : 1912602624 + x.enc = n := Option.some.inj he
  have e1 : n = 57 * 33554432 + x.enc := by omega
  cases u <;> (cases hs)
  · exact decode_raw (raw_vefget .a n x e1) hw (by have := VEfg.enc_lt x; omega)
  · exact decode_raw (show (rawVector .b n <|> rawSeries n) = _ by rw [raw_vefget .b n x e1]; rfl) hw (by have := VEfg.enc_lt x; omega)
theorem raw_vefput (u : VUnit) (n : Nat) (x : VEfp) (e1 : n = 58 * 33554432 + x.enc) : rawVector u n = some (Instr.vefput u x) := by
  have hd : n / 33554432 = 58 := by have := VEfp.enc_lt x; omega
  unfold rawVector
  rw [hd]
  show (((VEfp.dec 0 n).map (Instr.vefput u))) = _
  rw [VEfp.dec_enc n 58 x e1]; rfl
theorem Encoded.vefput (u : VUnit) (x : VEfp) : Encoded.Statement (.vefput u x) := by
  intro sl n hs hw he
  have e0 : 1946157056 + x.enc = n := Option.some.inj he
  have e1 : n = 58 * 33554432 + x.enc := by omega
  cases u <;> (cases hs)
  · exact decode_raw (raw_vefput .a n x e1) hw (by have := VEfp.enc_lt x; omega)
  · exact decode_raw (show (rawVector .b n <|> rawSeries n) = _ by rw [raw_vefput .b n x e1]; rfl) hw (by have := VEfp.enc_lt x; omega)
theorem raw_vfmtset (u : VUnit) (n : Nat) (x : VFmt) (e1 : n = 59 * 33554432 + x.enc) : rawVector u n = some (Instr.vfmtset u x) := by
  have hd : n / 33554432 = 59 := by have := VFmt.enc_lt x; omega
  unfold rawVector
  rw [hd]
  show (((VFmt.dec 0 n).map (Instr.vfmtset u))) = _
  rw [VFmt.dec_enc n 59 x e1]; rfl
theorem Encoded.vfmtset (u : VUnit) (x : VFmt) : Encoded.Statement (.vfmtset u x) := by
  intro sl n hs hw he
  have e0 : 1979711488 + x.enc = n := Option.some.inj he
  have e1 : n = 59 * 33554432 + x.enc := by omega
  cases u <;> (cases hs)
  · exact decode_raw (raw_vfmtset .a n x e1) hw (by have := VFmt.enc_lt x; omega)
  · exact decode_raw (show (rawVector .b n <|> rawSeries n) = _ by rw [raw_vfmtset .b n x e1]; rfl) hw (by have := VFmt.enc_lt x; omega)
theorem raw_xclr (n : Nat) (x : XD) (e1 : n = 64 * 33554432 + x.enc) : rawSeries n = some (Instr.xclr x) := by
  have hd : n / 33554432 = 64 := by have := XD.enc_lt x; omega
  unfold rawSeries
  rw [hd]
  show (((XD.dec 0 n).map (Instr.xclr))) = _
  rw [XD.dec_enc n 64 x e1]; rfl
theorem Encoded.xclr (x : XD) : Encoded.Statement (.xclr x) := by
  intro sl n hs hw he
  have e0 : 2147483648 + x.enc = n := Option.some.inj he
  have e1 : n = 64 * 33554432 + x.enc := by omega
  cases hs
  have hd : n / 33554432 = 64 := by have := XD.enc_lt x; omega
  have hv : rawVector .b n = none := by unfold rawVector; rw [hd]; rfl
  exact decode_raw (show (rawVector .b n <|> rawSeries n) = _ by rw [hv, raw_xclr n x e1]; rfl) hw (by have := XD.enc_lt x; omega)
theorem raw_xseto (n : Nat) (x : XSeto) (e1 : n = 65 * 33554432 + x.enc) : rawSeries n = some (Instr.xseto x) := by
  have hd : n / 33554432 = 65 := by have := XSeto.enc_lt x; omega
  unfold rawSeries
  rw [hd]
  show (((XSeto.dec 0 n).map (Instr.xseto))) = _
  rw [XSeto.dec_enc n 65 x e1]; rfl
theorem Encoded.xseto (x : XSeto) : Encoded.Statement (.xseto x) := by
  intro sl n hs hw he
  have e0 : 2181038080 + x.enc = n := Option.some.inj he
  have e1 : n = 65 * 33554432 + x.enc := by omega
  cases hs
  have hd : n / 33554432 = 65 := by have := XSeto.enc_lt x; omega
  have hv : rawVector .b n = none := by unfold rawVector; rw [hd]; rfl
  exact decode_raw (show (rawVector .b n <|> rawSeries n) = _ by rw [hv, raw_xseto n x e1]; rfl) hw (by have := XSeto.enc_lt x; omega)
theorem raw_xform (n : Nat) (x : XForm) (e1 : n = 66 * 33554432 + x.enc) : rawSeries n = some (Instr.xform x) := by
  have hd : n / 33554432 = 66 := by have := XForm.enc_lt x; omega
  unfold rawSeries
  rw [hd]
  show (((XForm.dec 0 n).map (Instr.xform))) = _
  rw [XForm.dec_enc n 66 x e1]; rfl
theorem Encoded.xform (x : XForm) : Encoded.Statement (.xform x) := by
  intro sl n hs hw he
  have e0 : 2214592512 + x.enc = n := Option.some.inj he
  have e1 : n = 66 * 33554432 + x.enc := by omega
  cases hs
  have hd : n / 33554432 = 66 := by have := XForm.enc_lt x; omega
  have hv : rawVector .b n = none := by unfold rawVector; rw [hd]; rfl
  exact decode_raw (show (rawVector .b n <|> rawSeries n) = _ by rw [hv, raw_xform n x e1]; rfl) hw (by have := XForm.enc_lt x; omega)
theorem raw_xm2m (n : Nat) (x : XXB) (e1 : n = 67 * 33554432 + x.enc) : rawSeries n = some (Instr.xm2m x) := by
  have hd : n / 33554432 = 67 := by have := XXB.enc_lt x; omega
  unfold rawSeries
  rw [hd]
  show (((XXB.dec 0 n).map (Instr.xm2m))) = _
  rw [XXB.dec_enc n 67 x e1]; rfl
theorem Encoded.xm2m (x : XXB) : Encoded.Statement (.xm2m x) := by
  intro sl n hs hw he
  have e0 : 2248146944 + x.enc = n := Option.some.inj he
  have e1 : n = 67 * 33554432 + x.enc := by omega
  cases hs
  have hd : n / 33554432 = 67 := by have := XXB.enc_lt x; omega
  have hv : rawVector .b n = none := by unfold rawVector; rw [hd]; rfl
  exact decode_raw (show (rawVector .b n <|> rawSeries n) = _ by rw [hv, raw_xm2m n x e1]; rfl) hw (by have := XXB.enc_lt x; omega)
theorem raw_xm2l (n : Nat) (x : XXB) (e1 : n = 68 * 33554432 + x.enc) : rawSeries n = some (Instr.xm2l x) := by
  have hd : n / 33554432 = 68 := by have := XXB.enc_lt x; omega
  unfold rawSeries
  rw [hd]
  show (((XXB.dec 0 n).map (Instr.xm2l))) = _
  rw [XXB.dec_enc n 68 x e1]; rfl
theorem Encoded.xm2l (x : XXB) : Encoded.Statement (.xm2l x) := by
  intro sl n hs hw he
  have e0 : 2281701376 + x.enc = n := Option.some.inj he
  have e1 : n = 68 * 33554432 + x.enc := by omega
  cases hs
  have hd : n / 33554432 = 68 := by have := XXB.enc_lt x; omega
  have hv : rawVector .b n = none := by unfold rawVector; rw [hd]; rfl
  exact decode_raw (show (rawVector .b n <|> rawSeries n) = _ by rw [hv, raw_xm2l n x e1]; rfl) hw (by have := XXB.enc_lt x; omega)
theorem raw_xl2l (n : Nat) (x : XXB) (e1 : n = 69 * 33554432 + x.enc) : rawSeries n = some (Instr.xl2l x) := by
  have hd : n / 33554432 = 69 := by have := XXB.enc_lt x; omega
  unfold rawSeries
  rw [hd]
  show (((XXB.dec 0 n).map (Instr.xl2l))) = _
  rw [XXB.dec_enc n 69 x e1]; rfl
theorem Encoded.xl2l (x : XXB) : Encoded.Statement (.xl2l x) := by
  intro sl n hs hw he
  have e0 : 2315255808 + x.enc = n := Option.some.inj he
  have e1 : n = 69 * 33554432 + x.enc := by omega
  cases hs
  have hd : n / 33554432 = 69 := by have := XXB.enc_lt x; omega
  have hv : rawVector .b n = none := by unfold rawVector; rw [hd]; rfl
  exact decode_raw (show (rawVector .b n <|> rawSeries n) = _ by rw [hv, raw_xl2l n x e1]; rfl) hw (by have := XXB.enc_lt x; omega)
theorem raw_xeval (n : Nat) (x : XEval) (e1 : n = 70 * 33554432 + x.enc) : rawSeries n = some (Instr.xeval x) := by
  have hd : n / 33554432 = 70 := by have := XEval.enc_lt x; omega
  unfold rawSeries
  rw [hd]
  show (((XEval.dec 0 n).map (Instr.xeval))) = _
  rw [XEval.dec_enc n 70 x e1]; rfl
theorem Encoded.xeval (x : XEval) : Encoded.Statement (.xeval x) := by
  intro sl n hs hw he
  have e0 : 2348810240 + x.enc = n := Option.some.inj he
  have e1 : n = 70 * 33554432 + x.enc := by omega
  cases hs
  have hd : n / 33554432 = 70 := by have := XEval.enc_lt x; omega
  have hv : rawVector .b n = none := by unfold rawVector; rw [hd]; rfl
  exact decode_raw (show (rawVector .b n <|> rawSeries n) = _ by rw [hv, raw_xeval n x e1]; rfl) hw (by have := XEval.enc_lt x; omega)
theorem raw_xadm (n : Nat) (x : XAdm) (e1 : n = 71 * 33554432 + x.enc) : rawSeries n = some (Instr.xadm x) := by
  have hd : n / 33554432 = 71 := by have := XAdm.enc_lt x; omega
  unfold rawSeries
  rw [hd]
  show (((XAdm.dec 0 n).map (Instr.xadm))) = _
  rw [XAdm.dec_enc n 71 x e1]; rfl
theorem Encoded.xadm (x : XAdm) : Encoded.Statement (.xadm x) := by
  intro sl n hs hw he
  have e0 : 2382364672 + x.enc = n := Option.some.inj he
  have e1 : n = 71 * 33554432 + x.enc := by omega
  cases hs
  have hd : n / 33554432 = 71 := by have := XAdm.enc_lt x; omega
  have hv : rawVector .b n = none := by unfold rawVector; rw [hd]; rfl
  exact decode_raw (show (rawVector .b n <|> rawSeries n) = _ by rw [hv, raw_xadm n x e1]; rfl) hw (by have := XAdm.enc_lt x; omega)
theorem raw_xadd (n : Nat) (x : XXX) (e1 : n = 72 * 33554432 + x.enc) : rawSeries n = some (Instr.xadd x) := by
  have hd : n / 33554432 = 72 := by have := XXX.enc_lt x; omega
  unfold rawSeries
  rw [hd]
  show (((XXX.dec 0 n).map (Instr.xadd))) = _
  rw [XXX.dec_enc n 72 x e1]; rfl
theorem Encoded.xadd (x : XXX) : Encoded.Statement (.xadd x) := by
  intro sl n hs hw he
  have e0 : 2415919104 + x.enc = n := Option.some.inj he
  have e1 : n = 72 * 33554432 + x.enc := by omega
  cases hs
  have hd : n / 33554432 = 72 := by have := XXX.enc_lt x; omega
  have hv : rawVector .b n = none := by unfold rawVector; rw [hd]; rfl
  exact decode_raw (show (rawVector .b n <|> rawSeries n) = _ by rw [hv, raw_xadd n x e1]; rfl) hw (by have := XXX.enc_lt x; omega)
theorem raw_xld (n : Nat) (x : XMem) (e1 : n = 73 * 33554432 + x.enc) : rawSeries n = some (Instr.xld x) := by
  have hd : n / 33554432 = 73 := by have := XMem.enc_lt x; omega
  unfold rawSeries
  rw [hd]
  show (((XMem.dec 0 n).map (Instr.xld))) = _
  rw [XMem.dec_enc n 73 x e1]; rfl
theorem Encoded.xld (x : XMem) : Encoded.Statement (.xld x) := by
  intro sl n hs hw he
  have e0 : 2449473536 + x.enc = n := Option.some.inj he
  have e1 : n = 73 * 33554432 + x.enc := by omega
  cases hs
  have hd : n / 33554432 = 73 := by have := XMem.enc_lt x; omega
  have hv : rawVector .b n = none := by unfold rawVector; rw [hd]; rfl
  exact decode_raw (show (rawVector .b n <|> rawSeries n) = _ by rw [hv, raw_xld n x e1]; rfl) hw (by have := XMem.enc_lt x; omega)
theorem raw_xst (n : Nat) (x : XMem) (e1 : n = 74 * 33554432 + x.enc) : rawSeries n = some (Instr.xst x) := by
  have hd : n / 33554432 = 74 := by have := XMem.enc_lt x; omega
  unfold rawSeries
  rw [hd]
  show (((XMem.dec 0 n).map (Instr.xst))) = _
  rw [XMem.dec_enc n 74 x e1]; rfl
theorem Encoded.xst (x : XMem) : Encoded.Statement (.xst x) := by
  intro sl n hs hw he
  have e0 : 2483027968 + x.enc = n := Option.some.inj he
  have e1 : n = 74 * 33554432 + x.enc := by omega
  cases hs
  have hd : n / 33554432 = 74 := by have := XMem.enc_lt x; omega
  have hv : rawVector .b n = none := by unfold rawVector; rw [hd]; rfl
  exact decode_raw (show (rawVector .b n <|> rawSeries n) = _ by rw [hv, raw_xst n x e1]; rfl) hw (by have := XMem.enc_lt x; omega)
theorem raw_xnorm (n : Nat) (x : XXB) (e1 : n = 75 * 33554432 + x.enc) : rawSeries n = some (Instr.xnorm x) := by
  have hd : n / 33554432 = 75 := by have := XXB.enc_lt x; omega
  unfold rawSeries
  rw [hd]
  show (((XXB.dec 0 n).map (Instr.xnorm))) = _
  rw [XXB.dec_enc n 75 x e1]; rfl
theorem Encoded.xnorm (x : XXB) : Encoded.Statement (.xnorm x) := by
  intro sl n hs hw he
  have e0 : 2516582400 + x.enc = n := Option.some.inj he
  have e1 : n = 75 * 33554432 + x.enc := by omega
  cases hs
  have hd : n / 33554432 = 75 := by have := XXB.enc_lt x; omega
  have hv : rawVector .b n = none := by unfold rawVector; rw [hd]; rfl
  exact decode_raw (show (rawVector .b n <|> rawSeries n) = _ by rw [hv, raw_xnorm n x e1]; rfl) hw (by have := XXB.enc_lt x; omega)
theorem raw_xget (n : Nat) (x : XGet) (e1 : n = 76 * 33554432 + x.enc) : rawSeries n = some (Instr.xget x) := by
  have hd : n / 33554432 = 76 := by have := XGet.enc_lt x; omega
  unfold rawSeries
  rw [hd]
  show (((XGet.dec 0 n).map (Instr.xget))) = _
  rw [XGet.dec_enc n 76 x e1]; rfl
theorem Encoded.xget (x : XGet) : Encoded.Statement (.xget x) := by
  intro sl n hs hw he
  have e0 : 2550136832 + x.enc = n := Option.some.inj he
  have e1 : n = 76 * 33554432 + x.enc := by omega
  cases hs
  have hd : n / 33554432 = 76 := by have := XGet.enc_lt x; omega
  have hv : rawVector .b n = none := by unfold rawVector; rw [hd]; rfl
  exact decode_raw (show (rawVector .b n <|> rawSeries n) = _ by rw [hv, raw_xget n x e1]; rfl) hw (by have := XGet.enc_lt x; omega)
theorem Encoded.matrixNop : Encoded.Statement (.matrixNop) := by
  intro sl n hs hw he
  cases he
  cases hs; exact decode_raw (by rfl) hw (by decide)
theorem raw_mdset (n : Nat) (x : MMdset) (e1 : n = 1 * 33554432 + x.enc) : rawMatrix n = some (Instr.mdset x) := by
  have hd : n / 33554432 = 1 := by have := MMdset.enc_lt x; omega
  unfold rawMatrix
  rw [hd]
  show (((MMdset.dec 0 n).map (Instr.mdset))) = _
  rw [MMdset.dec_enc n 1 x e1]; rfl
theorem Encoded.mdset (x : MMdset) : Encoded.Statement (.mdset x) := by
  intro sl n hs hw he
  have e0 : 33554432 + x.enc = n := Option.some.inj he
  have e1 : n = 1 * 33554432 + x.enc := by omega
  cases hs
  exact decode_raw (raw_mdset n x e1) hw (by have := MMdset.enc_lt x; omega)
theorem raw_mdget (n : Nat) (x : MMove) (e1 : n = 2 * 33554432 + x.enc) : rawMatrix n = some (Instr.mdget x) := by
  have hd : n / 33554432 = 2 := by have := MMove.enc_lt x; omega
  unfold rawMatrix
  rw [hd]
  show (((MMove.dec 0 n).map (Instr.mdget))) = _
  rw [MMove.dec_enc n 2 x e1]; rfl
theorem Encoded.mdget (x : MMove) : Encoded.Statement (.mdget x) := by
  intro sl n hs hw he
  have e0 : 67108864 + x.enc = n := Option.some.inj he
  have e1 : n = 2 * 33554432 + x.enc := by omega
  cases hs
  exact decode_raw (raw_mdget n x e1) hw (by have := MMove.enc_lt x; omega)
theorem raw_mldt (n : Nat) (x : MLoad) (e1 : n = 3 * 33554432 + x.enc) : rawMatrix n = some (Instr.mldt x) := by
  have hd : n / 33554432 = 3 := by have := MLoad.enc_lt x; omega
  unfold rawMatrix
  rw [hd]
  show (((MLoad.dec 0 n).map (Instr.mldt))) = _
  rw [MLoad.dec_enc n 3 x e1]; rfl
theorem Encoded.mldt (x : MLoad) : Encoded.Statement (.mldt x) := by
  intro sl n hs hw he
  have e0 : 100663296 + x.enc = n := Option.some.inj he
  have e1 : n = 3 * 33554432 + x.enc := by omega
  cases hs
  exact decode_raw (raw_mldt n x e1) hw (by have := MLoad.enc_lt x; omega)
theorem raw_mstz (n : Nat) (x : MStore) (e1 : n = 4 * 33554432 + x.enc) : rawMatrix n = some (Instr.mstz x) := by
  have hd : n / 33554432 = 4 := by have := MStore.enc_lt x; omega
  unfold rawMatrix
  rw [hd]
  show (((MStore.dec 0 n).map (Instr.mstz)) <|> ((MStore.dec 1 n).map (Instr.mstzTag))) = _
  rw [MStore.dec_enc n 4 x e1]; rfl
theorem Encoded.mstz (x : MStore) : Encoded.Statement (.mstz x) := by
  intro sl n hs hw he
  have e0 : 134217728 + x.enc = n := Option.some.inj he
  have e1 : n = 4 * 33554432 + x.enc := by omega
  cases hs
  exact decode_raw (raw_mstz n x e1) hw (by have := MStore.enc_lt x; omega)
theorem raw_mstzTag (n : Nat) (x : MStore) (e1 : n = 4 * 33554432 + 1 + x.enc) : rawMatrix n = some (Instr.mstzTag x) := by
  have hd : n / 33554432 = 4 := by have := MStore.enc_lt_1 x; omega
  unfold rawMatrix
  rw [hd]
  show (((MStore.dec 0 n).map (Instr.mstz)) <|> ((MStore.dec 1 n).map (Instr.mstzTag))) = _
  rw [MStore.dec_0_on_MStore_1 n 4 x e1, MStore.dec_enc_1 n 4 x e1]; rfl
theorem Encoded.mstzTag (x : MStore) : Encoded.Statement (.mstzTag x) := by
  intro sl n hs hw he
  have e0 : 134217729 + x.enc = n := Option.some.inj he
  have e1 : n = 4 * 33554432 + 1 + x.enc := by omega
  cases hs
  exact decode_raw (raw_mstzTag n x e1) hw (by have := MStore.enc_lt_1 x; omega)
theorem raw_mma (n : Nat) (x : MMul) (e1 : n = 5 * 33554432 + x.enc) : rawMatrix n = some (Instr.mma x) := by
  have hd : n / 33554432 = 5 := by have := MMul.enc_lt x; omega
  unfold rawMatrix
  rw [hd]
  show (((MMul.dec 0 n).map (Instr.mma))) = _
  rw [MMul.dec_enc n 5 x e1]; rfl
theorem Encoded.mma (x : MMul) : Encoded.Statement (.mma x) := by
  intro sl n hs hw he
  have e0 : 167772160 + x.enc = n := Option.some.inj he
  have e1 : n = 5 * 33554432 + x.enc := by omega
  cases hs
  exact decode_raw (raw_mma n x e1) hw (by have := MMul.enc_lt x; omega)
theorem raw_mmaz (n : Nat) (x : MMul) (e1 : n = 6 * 33554432 + x.enc) : rawMatrix n = some (Instr.mmaz x) := by
  have hd : n / 33554432 = 6 := by have := MMul.enc_lt x; omega
  unfold rawMatrix
  rw [hd]
  show (((MMul.dec 0 n).map (Instr.mmaz))) = _
  rw [MMul.dec_enc n 6 x e1]; rfl
theorem Encoded.mmaz (x : MMul) : Encoded.Statement (.mmaz x) := by
  intro sl n hs hw he
  have e0 : 201326592 + x.enc = n := Option.some.inj he
  have e1 : n = 6 * 33554432 + x.enc := by omega
  cases hs
  exact decode_raw (raw_mmaz n x e1) hw (by have := MMul.enc_lt x; omega)
theorem raw_mnest (n : Nat) (x : MNest) (e1 : n = 7 * 33554432 + x.enc) : rawMatrix n = some (Instr.mnest x) := by
  have hd : n / 33554432 = 7 := by have := MNest.enc_lt x; omega
  unfold rawMatrix
  rw [hd]
  show (((MNest.dec 0 n).map (Instr.mnest)) <|> ((MNest.dec 262144 n).map (Instr.mnestz))) = _
  rw [MNest.dec_enc n 7 x e1]; rfl
theorem Encoded.mnest (x : MNest) : Encoded.Statement (.mnest x) := by
  intro sl n hs hw he
  have e0 : 234881024 + x.enc = n := Option.some.inj he
  have e1 : n = 7 * 33554432 + x.enc := by omega
  cases hs
  exact decode_raw (raw_mnest n x e1) hw (by have := MNest.enc_lt x; omega)
theorem raw_mnestz (n : Nat) (x : MNest) (e1 : n = 7 * 33554432 + 262144 + x.enc) : rawMatrix n = some (Instr.mnestz x) := by
  have hd : n / 33554432 = 7 := by have := MNest.enc_lt_262144 x; omega
  unfold rawMatrix
  rw [hd]
  show (((MNest.dec 0 n).map (Instr.mnest)) <|> ((MNest.dec 262144 n).map (Instr.mnestz))) = _
  rw [MNest.dec_0_on_MNest_262144 n 7 x e1, MNest.dec_enc_262144 n 7 x e1]; rfl
theorem Encoded.mnestz (x : MNest) : Encoded.Statement (.mnestz x) := by
  intro sl n hs hw he
  have e0 : 235143168 + x.enc = n := Option.some.inj he
  have e1 : n = 7 * 33554432 + 262144 + x.enc := by omega
  cases hs
  exact decode_raw (raw_mnestz n x e1) hw (by have := MNest.enc_lt_262144 x; omega)
theorem raw_mzero (n : Nat) (x : MZ) (e1 : n = 8 * 33554432 + x.enc) : rawMatrix n = some (Instr.mzero x) := by
  have hd : n / 33554432 = 8 := by have := MZ.enc_lt x; omega
  unfold rawMatrix
  rw [hd]
  show (((MZ.dec 0 n).map (Instr.mzero))) = _
  rw [MZ.dec_enc n 8 x e1]; rfl
theorem Encoded.mzero (x : MZ) : Encoded.Statement (.mzero x) := by
  intro sl n hs hw he
  have e0 : 268435456 + x.enc = n := Option.some.inj he
  have e1 : n = 8 * 33554432 + x.enc := by omega
  cases hs
  exact decode_raw (raw_mzero n x e1) hw (by have := MZ.enc_lt x; omega)
theorem raw_mtr (n : Nat) (x : MTrans) (e1 : n = 9 * 33554432 + x.enc) : rawMatrix n = some (Instr.mtr x) := by
  have hd : n / 33554432 = 9 := by have := MTrans.enc_lt x; omega
  unfold rawMatrix
  rw [hd]
  show (((MTrans.dec 0 n).map (Instr.mtr))) = _
  rw [MTrans.dec_enc n 9 x e1]; rfl
theorem Encoded.mtr (x : MTrans) : Encoded.Statement (.mtr x) := by
  intro sl n hs hw he
  have e0 : 301989888 + x.enc = n := Option.some.inj he
  have e1 : n = 9 * 33554432 + x.enc := by omega
  cases hs
  exact decode_raw (raw_mtr n x e1) hw (by have := MTrans.enc_lt x; omega)
theorem raw_mrdz (n : Nat) (x : MRead) (e1 : n = 10 * 33554432 + x.enc) : rawMatrix n = some (Instr.mrdz x) := by
  have hd : n / 33554432 = 10 := by have := MRead.enc_lt x; omega
  unfold rawMatrix
  rw [hd]
  show (((MRead.dec 0 n).map (Instr.mrdz))) = _
  rw [MRead.dec_enc n 10 x e1]; rfl
theorem Encoded.mrdz (x : MRead) : Encoded.Statement (.mrdz x) := by
  intro sl n hs hw he
  have e0 : 335544320 + x.enc = n := Option.some.inj he
  have e1 : n = 10 * 33554432 + x.enc := by omega
  cases hs
  exact decode_raw (raw_mrdz n x e1) hw (by have := MRead.enc_lt x; omega)
theorem raw_mwm (n : Nat) (x : MWm) (e1 : n = 11 * 33554432 + x.enc) : rawMatrix n = some (Instr.mwm x) := by
  have hd : n / 33554432 = 11 := by have := MWm.enc_lt x; omega
  unfold rawMatrix
  rw [hd]
  show (((MWm.dec 0 n).map (Instr.mwm))) = _
  rw [MWm.dec_enc n 11 x e1]; rfl
theorem Encoded.mwm (x : MWm) : Encoded.Statement (.mwm x) := by
  intro sl n hs hw he
  have e0 : 369098752 + x.enc = n := Option.some.inj he
  have e1 : n = 11 * 33554432 + x.enc := by omega
  cases hs
  exact decode_raw (raw_mwm n x e1) hw (by have := MWm.enc_lt x; omega)
theorem raw_mchk (n : Nat) (x : MMul) (e1 : n = 12 * 33554432 + x.enc) : rawMatrix n = some (Instr.mchk x) := by
  have hd : n / 33554432 = 12 := by have := MMul.enc_lt x; omega
  unfold rawMatrix
  rw [hd]
  show (((MMul.dec 0 n).map (Instr.mchk)) <|> ((MMul.dec 1 n).map (Instr.mchkz))) = _
  rw [MMul.dec_enc n 12 x e1]; rfl
theorem Encoded.mchk (x : MMul) : Encoded.Statement (.mchk x) := by
  intro sl n hs hw he
  have e0 : 402653184 + x.enc = n := Option.some.inj he
  have e1 : n = 12 * 33554432 + x.enc := by omega
  cases hs
  exact decode_raw (raw_mchk n x e1) hw (by have := MMul.enc_lt x; omega)
theorem raw_mchkz (n : Nat) (x : MMul) (e1 : n = 12 * 33554432 + 1 + x.enc) : rawMatrix n = some (Instr.mchkz x) := by
  have hd : n / 33554432 = 12 := by have := MMul.enc_lt_1 x; omega
  unfold rawMatrix
  rw [hd]
  show (((MMul.dec 0 n).map (Instr.mchk)) <|> ((MMul.dec 1 n).map (Instr.mchkz))) = _
  rw [MMul.dec_0_on_MMul_1 n 12 x e1, MMul.dec_enc_1 n 12 x e1]; rfl
theorem Encoded.mchkz (x : MMul) : Encoded.Statement (.mchkz x) := by
  intro sl n hs hw he
  have e0 : 402653185 + x.enc = n := Option.some.inj he
  have e1 : n = 12 * 33554432 + 1 + x.enc := by omega
  cases hs
  exact decode_raw (raw_mchkz n x e1) hw (by have := MMul.enc_lt_1 x; omega)
theorem raw_mres (n : Nat) (x : MZM) (e1 : n = 13 * 33554432 + x.enc) : rawMatrix n = some (Instr.mres x) := by
  have hd : n / 33554432 = 13 := by have := MZM.enc_lt x; omega
  unfold rawMatrix
  rw [hd]
  show (((MZM.dec 0 n).map (Instr.mres))) = _
  rw [MZM.dec_enc n 13 x e1]; rfl
theorem Encoded.mres (x : MZM) : Encoded.Statement (.mres x) := by
  intro sl n hs hw he
  have e0 : 436207616 + x.enc = n := Option.some.inj he
  have e1 : n = 13 * 33554432 + x.enc := by omega
  cases hs
  exact decode_raw (raw_mres n x e1) hw (by have := MZM.enc_lt x; omega)
theorem raw_mfix (n : Nat) (x : MZM) (e1 : n = 14 * 33554432 + x.enc) : rawMatrix n = some (Instr.mfix x) := by
  have hd : n / 33554432 = 14 := by have := MZM.enc_lt x; omega
  unfold rawMatrix
  rw [hd]
  show (((MZM.dec 0 n).map (Instr.mfix))) = _
  rw [MZM.dec_enc n 14 x e1]; rfl
theorem Encoded.mfix (x : MZM) : Encoded.Statement (.mfix x) := by
  intro sl n hs hw he
  have e0 : 469762048 + x.enc = n := Option.some.inj he
  have e1 : n = 14 * 33554432 + x.enc := by omega
  cases hs
  exact decode_raw (raw_mfix n x e1) hw (by have := MZM.enc_lt x; omega)
theorem raw_mmir (n : Nat) (x : MMir) (e1 : n = 15 * 33554432 + x.enc) : rawMatrix n = some (Instr.mmir x) := by
  have hd : n / 33554432 = 15 := by have := MMir.enc_lt x; omega
  unfold rawMatrix
  rw [hd]
  show (((MMir.dec 0 n).map (Instr.mmir))) = _
  rw [MMir.dec_enc n 15 x e1]; rfl
theorem Encoded.mmir (x : MMir) : Encoded.Statement (.mmir x) := by
  intro sl n hs hw he
  have e0 : 503316480 + x.enc = n := Option.some.inj he
  have e1 : n = 15 * 33554432 + x.enc := by omega
  cases hs
  exact decode_raw (raw_mmir n x e1) hw (by have := MMir.enc_lt x; omega)
theorem raw_minj (n : Nat) (x : MInj) (e1 : n = 16 * 33554432 + x.enc) : rawMatrix n = some (Instr.minj x) := by
  have hd : n / 33554432 = 16 := by have := MInj.enc_lt x; omega
  unfold rawMatrix
  rw [hd]
  show (((MInj.dec 0 n).map (Instr.minj))) = _
  rw [MInj.dec_enc n 16 x e1]; rfl
theorem Encoded.minj (x : MInj) : Encoded.Statement (.minj x) := by
  intro sl n hs hw he
  have e0 : 536870912 + x.enc = n := Option.some.inj he
  have e1 : n = 16 * 33554432 + x.enc := by omega
  cases hs
  exact decode_raw (raw_minj n x e1) hw (by have := MInj.enc_lt x; omega)
theorem raw_mtag (n : Nat) (x : MTag) (e1 : n = 17 * 33554432 + x.enc) : rawMatrix n = some (Instr.mtag x) := by
  have hd : n / 33554432 = 17 := by have := MTag.enc_lt x; omega
  unfold rawMatrix
  rw [hd]
  show (((MTag.dec 0 n).map (Instr.mtag))) = _
  rw [MTag.dec_enc n 17 x e1]; rfl
theorem Encoded.mtag (x : MTag) : Encoded.Statement (.mtag x) := by
  intro sl n hs hw he
  have e0 : 570425344 + x.enc = n := Option.some.inj he
  have e1 : n = 17 * 33554432 + x.enc := by omega
  cases hs
  exact decode_raw (raw_mtag n x e1) hw (by have := MTag.enc_lt x; omega)
theorem raw_mcvt (n : Nat) (x : MCvt) (e1 : n = 18 * 33554432 + x.enc) : rawMatrix n = some (Instr.mcvt x) := by
  have hd : n / 33554432 = 18 := by have := MCvt.enc_lt x; omega
  unfold rawMatrix
  rw [hd]
  show (((MCvt.dec 0 n).map (Instr.mcvt))) = _
  rw [MCvt.dec_enc n 18 x e1]; rfl
theorem Encoded.mcvt (x : MCvt) : Encoded.Statement (.mcvt x) := by
  intro sl n hs hw he
  have e0 : 603979776 + x.enc = n := Option.some.inj he
  have e1 : n = 18 * 33554432 + x.enc := by omega
  cases hs
  exact decode_raw (raw_mcvt n x e1) hw (by have := MCvt.enc_lt x; omega)
theorem raw_mbias (n : Nat) (x : MZM) (e1 : n = 19 * 33554432 + x.enc) : rawMatrix n = some (Instr.mbias x) := by
  have hd : n / 33554432 = 19 := by have := MZM.enc_lt x; omega
  unfold rawMatrix
  rw [hd]
  show (((MZM.dec 0 n).map (Instr.mbias))) = _
  rw [MZM.dec_enc n 19 x e1]; rfl
theorem Encoded.mbias (x : MZM) : Encoded.Statement (.mbias x) := by
  intro sl n hs hw he
  have e0 : 637534208 + x.enc = n := Option.some.inj he
  have e1 : n = 19 * 33554432 + x.enc := by omega
  cases hs
  exact decode_raw (raw_mbias n x e1) hw (by have := MZM.enc_lt x; omega)
theorem raw_mactRelu (n : Nat) (x : MZ) (e1 : n = 20 * 33554432 + x.enc) : rawMatrix n = some (Instr.mactRelu x) := by
  have hd : n / 33554432 = 20 := by have := MZ.enc_lt x; omega
  unfold rawMatrix
  rw [hd]
  show (((MZ.dec 0 n).map (Instr.mactRelu)) <|> ((MZ.dec 1 n).map (Instr.mactAbs)) <|> ((MScale.dec 2 n).map (Instr.mactScale))) = _
  rw [MZ.dec_enc n 20 x e1]; rfl
theorem Encoded.mactRelu (x : MZ) : Encoded.Statement (.mactRelu x) := by
  intro sl n hs hw he
  have e0 : 671088640 + x.enc = n := Option.some.inj he
  have e1 : n = 20 * 33554432 + x.enc := by omega
  cases hs
  exact decode_raw (raw_mactRelu n x e1) hw (by have := MZ.enc_lt x; omega)
theorem raw_mactAbs (n : Nat) (x : MZ) (e1 : n = 20 * 33554432 + 1 + x.enc) : rawMatrix n = some (Instr.mactAbs x) := by
  have hd : n / 33554432 = 20 := by have := MZ.enc_lt_1 x; omega
  unfold rawMatrix
  rw [hd]
  show (((MZ.dec 0 n).map (Instr.mactRelu)) <|> ((MZ.dec 1 n).map (Instr.mactAbs)) <|> ((MScale.dec 2 n).map (Instr.mactScale))) = _
  rw [MZ.dec_0_on_MZ_1 n 20 x e1, MZ.dec_enc_1 n 20 x e1]; rfl
theorem Encoded.mactAbs (x : MZ) : Encoded.Statement (.mactAbs x) := by
  intro sl n hs hw he
  have e0 : 671088641 + x.enc = n := Option.some.inj he
  have e1 : n = 20 * 33554432 + 1 + x.enc := by omega
  cases hs
  exact decode_raw (raw_mactAbs n x e1) hw (by have := MZ.enc_lt_1 x; omega)
theorem raw_mactScale (n : Nat) (x : MScale) (e1 : n = 20 * 33554432 + 2 + x.enc) : rawMatrix n = some (Instr.mactScale x) := by
  have hd : n / 33554432 = 20 := by have := MScale.enc_lt_2 x; omega
  unfold rawMatrix
  rw [hd]
  show (((MZ.dec 0 n).map (Instr.mactRelu)) <|> ((MZ.dec 1 n).map (Instr.mactAbs)) <|> ((MScale.dec 2 n).map (Instr.mactScale))) = _
  rw [MZ.dec_0_on_MScale_2 n 20 x e1, MZ.dec_1_on_MScale_2 n 20 x e1, MScale.dec_enc_2 n 20 x e1]; rfl
theorem Encoded.mactScale (x : MScale) : Encoded.Statement (.mactScale x) := by
  intro sl n hs hw he
  have e0 : 671088642 + x.enc = n := Option.some.inj he
  have e1 : n = 20 * 33554432 + 2 + x.enc := by omega
  cases hs
  exact decode_raw (raw_mactScale n x e1) hw (by have := MScale.enc_lt_2 x; omega)
theorem raw_mpitch (n : Nat) (x : MN) (e1 : n = 21 * 33554432 + x.enc) : rawMatrix n = some (Instr.mpitch x) := by
  have hd : n / 33554432 = 21 := by have := MN.enc_lt x; omega
  unfold rawMatrix
  rw [hd]
  show (((MN.dec 0 n).map (Instr.mpitch))) = _
  rw [MN.dec_enc n 21 x e1]; rfl
theorem Encoded.mpitch (x : MN) : Encoded.Statement (.mpitch x) := by
  intro sl n hs hw he
  have e0 : 704643072 + x.enc = n := Option.some.inj he
  have e1 : n = 21 * 33554432 + x.enc := by omega
  cases hs
  exact decode_raw (raw_mpitch n x e1) hw (by have := MN.enc_lt x; omega)
theorem raw_matrixGetm (n : Nat) (x : MGetm) (e1 : n = 22 * 33554432 + x.enc) : rawMatrix n = some (Instr.matrixGetm x) := by
  have hd : n / 33554432 = 22 := by have := MGetm.enc_lt x; omega
  unfold rawMatrix
  rw [hd]
  show (((MGetm.dec 0 n).map (Instr.matrixGetm))) = _
  rw [MGetm.dec_enc n 22 x e1]; rfl
theorem Encoded.matrixGetm (x : MGetm) : Encoded.Statement (.matrixGetm x) := by
  intro sl n hs hw he
  have e0 : 738197504 + x.enc = n := Option.some.inj he
  have e1 : n = 22 * 33554432 + x.enc := by omega
  cases hs
  exact decode_raw (raw_matrixGetm n x e1) hw (by have := MGetm.enc_lt x; omega)
theorem raw_matrixPutm (n : Nat) (x : MMove) (e1 : n = 23 * 33554432 + x.enc) : rawMatrix n = some (Instr.matrixPutm x) := by
  have hd : n / 33554432 = 23 := by have := MMove.enc_lt x; omega
  unfold rawMatrix
  rw [hd]
  show (((MMove.dec 0 n).map (Instr.matrixPutm))) = _
  rw [MMove.dec_enc n 23 x e1]; rfl
theorem Encoded.matrixPutm (x : MMove) : Encoded.Statement (.matrixPutm x) := by
  intro sl n hs hw he
  have e0 : 771751936 + x.enc = n := Option.some.inj he
  have e1 : n = 23 * 33554432 + x.enc := by omega
  cases hs
  exact decode_raw (raw_matrixPutm n x e1) hw (by have := MMove.enc_lt x; omega)
theorem raw_matrixXfer (n : Nat) (x : MXfer) (e1 : n = 24 * 33554432 + x.enc) : rawMatrix n = some (Instr.matrixXfer x) := by
  have hd : n / 33554432 = 24 := by have := MXfer.enc_lt x; omega
  unfold rawMatrix
  rw [hd]
  show (((MXfer.dec 0 n).map (Instr.matrixXfer))) = _
  rw [MXfer.dec_enc n 24 x e1]; rfl
theorem Encoded.matrixXfer (x : MXfer) : Encoded.Statement (.matrixXfer x) := by
  intro sl n hs hw he
  have e0 : 805306368 + x.enc = n := Option.some.inj he
  have e1 : n = 24 * 33554432 + x.enc := by omega
  cases hs
  exact decode_raw (raw_matrixXfer n x e1) hw (by have := MXfer.enc_lt x; omega)
theorem Encoded.copyNop (e : CUnit) : Encoded.Statement (.copyNop e) := by
  intro sl n hs hw he
  cases he
  cases e <;> (cases hs; exact decode_raw (by rfl) hw (by decide))
theorem raw_cdsetImmediate (e : CUnit) (n : Nat) (x : CSetI) (e1 : n = 1 * 33554432 + 1048576 + x.enc) : rawCopy e n = some (Instr.cdsetImmediate e x) := by
  have hd : n / 33554432 = 1 := by have := CSetI.enc_lt_1048576 x; omega
  unfold rawCopy
  rw [hd]
  show (((CSetI.dec 1048576 n).map (Instr.cdsetImmediate e)) <|> ((CSetR.dec 0 n).map (Instr.cdsetRegister e))) = _
  rw [CSetI.dec_enc_1048576 n 1 x e1]; rfl
theorem Encoded.cdsetImmediate (e : CUnit) (x : CSetI) : Encoded.Statement (.cdsetImmediate e x) := by
  intro sl n hs hw he
  have e0 : 34603008 + x.enc = n := Option.some.inj he
  have e1 : n = 1 * 33554432 + 1048576 + x.enc := by omega
  cases e <;> (cases hs)
  · exact decode_raw (raw_cdsetImmediate .c n x e1) hw (by have := CSetI.enc_lt_1048576 x; omega)
  · exact decode_raw (raw_cdsetImmediate .d n x e1) hw (by have := CSetI.enc_lt_1048576 x; omega)
theorem raw_cdsetRegister (e : CUnit) (n : Nat) (x : CSetR) (e1 : n = 1 * 33554432 + x.enc) : rawCopy e n = some (Instr.cdsetRegister e x) := by
  have hd : n / 33554432 = 1 := by have := CSetR.enc_lt x; omega
  unfold rawCopy
  rw [hd]
  show (((CSetI.dec 1048576 n).map (Instr.cdsetImmediate e)) <|> ((CSetR.dec 0 n).map (Instr.cdsetRegister e))) = _
  rw [CSetI.dec_1048576_on_CSetR_0 n 1 x e1, CSetR.dec_enc n 1 x e1]; rfl
theorem Encoded.cdsetRegister (e : CUnit) (x : CSetR) : Encoded.Statement (.cdsetRegister e x) := by
  intro sl n hs hw he
  have e0 : 33554432 + x.enc = n := Option.some.inj he
  have e1 : n = 1 * 33554432 + x.enc := by omega
  cases e <;> (cases hs)
  · exact decode_raw (raw_cdsetRegister .c n x e1) hw (by have := CSetR.enc_lt x; omega)
  · exact decode_raw (raw_cdsetRegister .d n x e1) hw (by have := CSetR.enc_lt x; omega)
theorem raw_cdget (e : CUnit) (n : Nat) (x : CGet) (e1 : n = 2 * 33554432 + x.enc) : rawCopy e n = some (Instr.cdget e x) := by
  have hd : n / 33554432 = 2 := by have := CGet.enc_lt x; omega
  unfold rawCopy
  rw [hd]
  show (((CGet.dec 0 n).map (Instr.cdget e))) = _
  rw [CGet.dec_enc n 2 x e1]; rfl
theorem Encoded.cdget (e : CUnit) (x : CGet) : Encoded.Statement (.cdget e x) := by
  intro sl n hs hw he
  have e0 : 67108864 + x.enc = n := Option.some.inj he
  have e1 : n = 2 * 33554432 + x.enc := by omega
  cases e <;> (cases hs)
  · exact decode_raw (raw_cdget .c n x e1) hw (by have := CGet.enc_lt x; omega)
  · exact decode_raw (raw_cdget .d n x e1) hw (by have := CGet.enc_lt x; omega)
theorem raw_cpy (e : CUnit) (n : Nat) (x : CTwo) (e1 : n = 3 * 33554432 + x.enc) : rawCopy e n = some (Instr.cpy e x) := by
  have hd : n / 33554432 = 3 := by have := CTwo.enc_lt x; omega
  unfold rawCopy
  rw [hd]
  show (((CTwo.dec 0 n).map (Instr.cpy e))) = _
  rw [CTwo.dec_enc n 3 x e1]; rfl
theorem Encoded.cpy (e : CUnit) (x : CTwo) : Encoded.Statement (.cpy e x) := by
  intro sl n hs hw he
  have e0 : 100663296 + x.enc = n := Option.some.inj he
  have e1 : n = 3 * 33554432 + x.enc := by omega
  cases e <;> (cases hs)
  · exact decode_raw (raw_cpy .c n x e1) hw (by have := CTwo.enc_lt x; omega)
  · exact decode_raw (raw_cpy .d n x e1) hw (by have := CTwo.enc_lt x; omega)
theorem raw_cpyb (e : CUnit) (n : Nat) (x : CBar) (e1 : n = 4 * 33554432 + x.enc) : rawCopy e n = some (Instr.cpyb e x) := by
  have hd : n / 33554432 = 4 := by have := CBar.enc_lt x; omega
  unfold rawCopy
  rw [hd]
  show (((CBar.dec 0 n).map (Instr.cpyb e))) = _
  rw [CBar.dec_enc n 4 x e1]; rfl
theorem Encoded.cpyb (e : CUnit) (x : CBar) : Encoded.Statement (.cpyb e x) := by
  intro sl n hs hw he
  have e0 : 134217728 + x.enc = n := Option.some.inj he
  have e1 : n = 4 * 33554432 + x.enc := by omega
  cases e <;> (cases hs)
  · exact decode_raw (raw_cpyb .c n x e1) hw (by have := CBar.enc_lt x; omega)
  · exact decode_raw (raw_cpyb .d n x e1) hw (by have := CBar.enc_lt x; omega)
theorem raw_cpyt (e : CUnit) (n : Nat) (x : CTile) (e1 : n = 5 * 33554432 + x.enc) : rawCopy e n = some (Instr.cpyt e x) := by
  have hd : n / 33554432 = 5 := by have := CTile.enc_lt x; omega
  unfold rawCopy
  rw [hd]
  show (((CTile.dec 0 n).map (Instr.cpyt e))) = _
  rw [CTile.dec_enc n 5 x e1]; rfl
theorem Encoded.cpyt (e : CUnit) (x : CTile) : Encoded.Statement (.cpyt e x) := by
  intro sl n hs hw he
  have e0 : 167772160 + x.enc = n := Option.some.inj he
  have e1 : n = 5 * 33554432 + x.enc := by omega
  cases e <;> (cases hs)
  · exact decode_raw (raw_cpyt .c n x e1) hw (by have := CTile.enc_lt x; omega)
  · exact decode_raw (raw_cpyt .d n x e1) hw (by have := CTile.enc_lt x; omega)
theorem raw_cgath (e : CUnit) (n : Nat) (x : CTwo) (e1 : n = 6 * 33554432 + x.enc) : rawCopy e n = some (Instr.cgath e x) := by
  have hd : n / 33554432 = 6 := by have := CTwo.enc_lt x; omega
  unfold rawCopy
  rw [hd]
  show (((CTwo.dec 0 n).map (Instr.cgath e))) = _
  rw [CTwo.dec_enc n 6 x e1]; rfl
theorem Encoded.cgath (e : CUnit) (x : CTwo) : Encoded.Statement (.cgath e x) := by
  intro sl n hs hw he
  have e0 : 201326592 + x.enc = n := Option.some.inj he
  have e1 : n = 6 * 33554432 + x.enc := by omega
  cases e <;> (cases hs)
  · exact decode_raw (raw_cgath .c n x e1) hw (by have := CTwo.enc_lt x; omega)
  · exact decode_raw (raw_cgath .d n x e1) hw (by have := CTwo.enc_lt x; omega)
theorem raw_cscat (e : CUnit) (n : Nat) (x : CTwo) (e1 : n = 7 * 33554432 + x.enc) : rawCopy e n = some (Instr.cscat e x) := by
  have hd : n / 33554432 = 7 := by have := CTwo.enc_lt x; omega
  unfold rawCopy
  rw [hd]
  show (((CTwo.dec 0 n).map (Instr.cscat e))) = _
  rw [CTwo.dec_enc n 7 x e1]; rfl
theorem Encoded.cscat (e : CUnit) (x : CTwo) : Encoded.Statement (.cscat e x) := by
  intro sl n hs hw he
  have e0 : 234881024 + x.enc = n := Option.some.inj he
  have e1 : n = 7 * 33554432 + x.enc := by omega
  cases e <;> (cases hs)
  · exact decode_raw (raw_cscat .c n x e1) hw (by have := CTwo.enc_lt x; omega)
  · exact decode_raw (raw_cscat .d n x e1) hw (by have := CTwo.enc_lt x; omega)
theorem raw_czero (e : CUnit) (n : Nat) (x : COne) (e1 : n = 8 * 33554432 + x.enc) : rawCopy e n = some (Instr.czero e x) := by
  have hd : n / 33554432 = 8 := by have := COne.enc_lt x; omega
  unfold rawCopy
  rw [hd]
  show (((COne.dec 0 n).map (Instr.czero e))) = _
  rw [COne.dec_enc n 8 x e1]; rfl
theorem Encoded.czero (e : CUnit) (x : COne) : Encoded.Statement (.czero e x) := by
  intro sl n hs hw he
  have e0 : 268435456 + x.enc = n := Option.some.inj he
  have e1 : n = 8 * 33554432 + x.enc := by omega
  cases e <;> (cases hs)
  · exact decode_raw (raw_czero .c n x e1) hw (by have := COne.enc_lt x; omega)
  · exact decode_raw (raw_czero .d n x e1) hw (by have := COne.enc_lt x; omega)
theorem raw_cfill (e : CUnit) (n : Nat) (x : CFill) (e1 : n = 9 * 33554432 + x.enc) : rawCopy e n = some (Instr.cfill e x) := by
  have hd : n / 33554432 = 9 := by have := CFill.enc_lt x; omega
  unfold rawCopy
  rw [hd]
  show (((CFill.dec 0 n).map (Instr.cfill e))) = _
  rw [CFill.dec_enc n 9 x e1]; rfl
theorem Encoded.cfill (e : CUnit) (x : CFill) : Encoded.Statement (.cfill e x) := by
  intro sl n hs hw he
  have e0 : 301989888 + x.enc = n := Option.some.inj he
  have e1 : n = 9 * 33554432 + x.enc := by omega
  cases e <;> (cases hs)
  · exact decode_raw (raw_cfill .c n x e1) hw (by have := CFill.enc_lt x; omega)
  · exact decode_raw (raw_cfill .d n x e1) hw (by have := CFill.enc_lt x; omega)
theorem raw_cred (e : CUnit) (n : Nat) (x : CRed) (e1 : n = 10 * 33554432 + x.enc) : rawCopy e n = some (Instr.cred e x) := by
  have hd : n / 33554432 = 10 := by have := CRed.enc_lt x; omega
  unfold rawCopy
  rw [hd]
  show (((CRed.dec 0 n).map (Instr.cred e))) = _
  rw [CRed.dec_enc n 10 x e1]; rfl
theorem Encoded.cred (e : CUnit) (x : CRed) : Encoded.Statement (.cred e x) := by
  intro sl n hs hw he
  have e0 : 335544320 + x.enc = n := Option.some.inj he
  have e1 : n = 10 * 33554432 + x.enc := by omega
  cases e <;> (cases hs)
  · exact decode_raw (raw_cred .c n x e1) hw (by have := CRed.enc_lt x; omega)
  · exact decode_raw (raw_cred .d n x e1) hw (by have := CRed.enc_lt x; omega)
theorem raw_cbcast (e : CUnit) (n : Nat) (x : CBar) (e1 : n = 11 * 33554432 + x.enc) : rawCopy e n = some (Instr.cbcast e x) := by
  have hd : n / 33554432 = 11 := by have := CBar.enc_lt x; omega
  unfold rawCopy
  rw [hd]
  show (((CBar.dec 0 n).map (Instr.cbcast e))) = _
  rw [CBar.dec_enc n 11 x e1]; rfl
theorem Encoded.cbcast (e : CUnit) (x : CBar) : Encoded.Statement (.cbcast e x) := by
  intro sl n hs hw he
  have e0 : 369098752 + x.enc = n := Option.some.inj he
  have e1 : n = 11 * 33554432 + x.enc := by omega
  cases e <;> (cases hs)
  · exact decode_raw (raw_cbcast .c n x e1) hw (by have := CBar.enc_lt x; omega)
  · exact decode_raw (raw_cbcast .d n x e1) hw (by have := CBar.enc_lt x; omega)
theorem raw_callred (e : CUnit) (n : Nat) (x : CRed) (e1 : n = 12 * 33554432 + x.enc) : rawCopy e n = some (Instr.callred e x) := by
  have hd : n / 33554432 = 12 := by have := CRed.enc_lt x; omega
  unfold rawCopy
  rw [hd]
  show (((CRed.dec 0 n).map (Instr.callred e))) = _
  rw [CRed.dec_enc n 12 x e1]; rfl
theorem Encoded.callred (e : CUnit) (x : CRed) : Encoded.Statement (.callred e x) := by
  intro sl n hs hw he
  have e0 : 402653184 + x.enc = n := Option.some.inj he
  have e1 : n = 12 * 33554432 + x.enc := by omega
  cases e <;> (cases hs)
  · exact decode_raw (raw_callred .c n x e1) hw (by have := CRed.enc_lt x; omega)
  · exact decode_raw (raw_callred .d n x e1) hw (by have := CRed.enc_lt x; omega)
theorem raw_cdigest (e : CUnit) (n : Nat) (x : CTwo) (e1 : n = 13 * 33554432 + x.enc) : rawCopy e n = some (Instr.cdigest e x) := by
  have hd : n / 33554432 = 13 := by have := CTwo.enc_lt x; omega
  unfold rawCopy
  rw [hd]
  show (((CTwo.dec 0 n).map (Instr.cdigest e))) = _
  rw [CTwo.dec_enc n 13 x e1]; rfl
theorem Encoded.cdigest (e : CUnit) (x : CTwo) : Encoded.Statement (.cdigest e x) := by
  intro sl n hs hw he
  have e0 : 436207616 + x.enc = n := Option.some.inj he
  have e1 : n = 13 * 33554432 + x.enc := by omega
  cases e <;> (cases hs)
  · exact decode_raw (raw_cdigest .c n x e1) hw (by have := CTwo.enc_lt x; omega)
  · exact decode_raw (raw_cdigest .d n x e1) hw (by have := CTwo.enc_lt x; omega)
theorem raw_cpull (e : CUnit) (n : Nat) (x : CTwo) (e1 : n = 14 * 33554432 + x.enc) : rawCopy e n = some (Instr.cpull e x) := by
  have hd : n / 33554432 = 14 := by have := CTwo.enc_lt x; omega
  unfold rawCopy
  rw [hd]
  show (((CTwo.dec 0 n).map (Instr.cpull e))) = _
  rw [CTwo.dec_enc n 14 x e1]; rfl
theorem Encoded.cpull (e : CUnit) (x : CTwo) : Encoded.Statement (.cpull e x) := by
  intro sl n hs hw he
  have e0 : 469762048 + x.enc = n := Option.some.inj he
  have e1 : n = 14 * 33554432 + x.enc := by omega
  cases e <;> (cases hs)
  · exact decode_raw (raw_cpull .c n x e1) hw (by have := CTwo.enc_lt x; omega)
  · exact decode_raw (raw_cpull .d n x e1) hw (by have := CTwo.enc_lt x; omega)
theorem raw_cpost (e : CUnit) (n : Nat) (x : CPost) (e1 : n = 15 * 33554432 + x.enc) : rawCopy e n = some (Instr.cpost e x) := by
  have hd : n / 33554432 = 15 := by have := CPost.enc_lt x; omega
  unfold rawCopy
  rw [hd]
  show (((CPost.dec 0 n).map (Instr.cpost e))) = _
  rw [CPost.dec_enc n 15 x e1]; rfl
theorem Encoded.cpost (e : CUnit) (x : CPost) : Encoded.Statement (.cpost e x) := by
  intro sl n hs hw he
  have e0 : 503316480 + x.enc = n := Option.some.inj he
  have e1 : n = 15 * 33554432 + x.enc := by omega
  cases e <;> (cases hs)
  · exact decode_raw (raw_cpost .c n x e1) hw (by have := CPost.enc_lt x; omega)
  · exact decode_raw (raw_cpost .d n x e1) hw (by have := CPost.enc_lt x; omega)
theorem raw_chostTo (e : CUnit) (n : Nat) (x : CTwo) (e1 : n = 16 * 33554432 + x.enc) : rawCopy e n = some (Instr.chostTo e x) := by
  have hd : n / 33554432 = 16 := by have := CTwo.enc_lt x; omega
  unfold rawCopy
  rw [hd]
  show (((CTwo.dec 0 n).map (Instr.chostTo e)) <|> ((CTwo.dec 1 n).map (Instr.chostFrom e))) = _
  rw [CTwo.dec_enc n 16 x e1]; rfl
theorem Encoded.chostTo (e : CUnit) (x : CTwo) : Encoded.Statement (.chostTo e x) := by
  intro sl n hs hw he
  have e0 : 536870912 + x.enc = n := Option.some.inj he
  have e1 : n = 16 * 33554432 + x.enc := by omega
  cases e <;> (cases hs)
  · exact decode_raw (raw_chostTo .c n x e1) hw (by have := CTwo.enc_lt x; omega)
  · exact decode_raw (raw_chostTo .d n x e1) hw (by have := CTwo.enc_lt x; omega)
theorem raw_chostFrom (e : CUnit) (n : Nat) (x : CTwo) (e1 : n = 16 * 33554432 + 1 + x.enc) : rawCopy e n = some (Instr.chostFrom e x) := by
  have hd : n / 33554432 = 16 := by have := CTwo.enc_lt_1 x; omega
  unfold rawCopy
  rw [hd]
  show (((CTwo.dec 0 n).map (Instr.chostTo e)) <|> ((CTwo.dec 1 n).map (Instr.chostFrom e))) = _
  rw [CTwo.dec_0_on_CTwo_1 n 16 x e1, CTwo.dec_enc_1 n 16 x e1]; rfl
theorem Encoded.chostFrom (e : CUnit) (x : CTwo) : Encoded.Statement (.chostFrom e x) := by
  intro sl n hs hw he
  have e0 : 536870913 + x.enc = n := Option.some.inj he
  have e1 : n = 16 * 33554432 + 1 + x.enc := by omega
  cases e <;> (cases hs)
  · exact decode_raw (raw_chostFrom .c n x e1) hw (by have := CTwo.enc_lt_1 x; omega)
  · exact decode_raw (raw_chostFrom .d n x e1) hw (by have := CTwo.enc_lt_1 x; omega)
theorem raw_ccarrTo (e : CUnit) (n : Nat) (x : CTwo) (e1 : n = 17 * 33554432 + x.enc) : rawCopy e n = some (Instr.ccarrTo e x) := by
  have hd : n / 33554432 = 17 := by have := CTwo.enc_lt x; omega
  unfold rawCopy
  rw [hd]
  show (((CTwo.dec 0 n).map (Instr.ccarrTo e)) <|> ((CTwo.dec 1 n).map (Instr.ccarrFrom e))) = _
  rw [CTwo.dec_enc n 17 x e1]; rfl
theorem Encoded.ccarrTo (e : CUnit) (x : CTwo) : Encoded.Statement (.ccarrTo e x) := by
  intro sl n hs hw he
  have e0 : 570425344 + x.enc = n := Option.some.inj he
  have e1 : n = 17 * 33554432 + x.enc := by omega
  cases e <;> (cases hs)
  · exact decode_raw (raw_ccarrTo .c n x e1) hw (by have := CTwo.enc_lt x; omega)
  · exact decode_raw (raw_ccarrTo .d n x e1) hw (by have := CTwo.enc_lt x; omega)
theorem raw_ccarrFrom (e : CUnit) (n : Nat) (x : CTwo) (e1 : n = 17 * 33554432 + 1 + x.enc) : rawCopy e n = some (Instr.ccarrFrom e x) := by
  have hd : n / 33554432 = 17 := by have := CTwo.enc_lt_1 x; omega
  unfold rawCopy
  rw [hd]
  show (((CTwo.dec 0 n).map (Instr.ccarrTo e)) <|> ((CTwo.dec 1 n).map (Instr.ccarrFrom e))) = _
  rw [CTwo.dec_0_on_CTwo_1 n 17 x e1, CTwo.dec_enc_1 n 17 x e1]; rfl
theorem Encoded.ccarrFrom (e : CUnit) (x : CTwo) : Encoded.Statement (.ccarrFrom e x) := by
  intro sl n hs hw he
  have e0 : 570425345 + x.enc = n := Option.some.inj he
  have e1 : n = 17 * 33554432 + 1 + x.enc := by omega
  cases e <;> (cases hs)
  · exact decode_raw (raw_ccarrFrom .c n x e1) hw (by have := CTwo.enc_lt_1 x; omega)
  · exact decode_raw (raw_ccarrFrom .d n x e1) hw (by have := CTwo.enc_lt_1 x; omega)
theorem raw_ctlr (e : CUnit) (n : Nat) (x : CJ) (e1 : n = 18 * 33554432 + x.enc) : rawCopy e n = some (Instr.ctlr e x) := by
  have hd : n / 33554432 = 18 := by have := CJ.enc_lt x; omega
  unfold rawCopy
  rw [hd]
  show (((CJ.dec 0 n).map (Instr.ctlr e))) = _
  rw [CJ.dec_enc n 18 x e1]; rfl
theorem Encoded.ctlr (e : CUnit) (x : CJ) : Encoded.Statement (.ctlr e x) := by
  intro sl n hs hw he
  have e0 : 603979776 + x.enc = n := Option.some.inj he
  have e1 : n = 18 * 33554432 + x.enc := by omega
  cases e <;> (cases hs)
  · exact decode_raw (raw_ctlr .c n x e1) hw (by have := CJ.enc_lt x; omega)
  · exact decode_raw (raw_ctlr .d n x e1) hw (by have := CJ.enc_lt x; omega)
theorem raw_cwait (e : CUnit) (n : Nat) (x : CWait) (e1 : n = 19 * 33554432 + x.enc) : rawCopy e n = some (Instr.cwait e x) := by
  have hd : n / 33554432 = 19 := by have := CWait.enc_lt x; omega
  unfold rawCopy
  rw [hd]
  show (((CWait.dec 0 n).map (Instr.cwait e))) = _
  rw [CWait.dec_enc n 19 x e1]; rfl
theorem Encoded.cwait (e : CUnit) (x : CWait) : Encoded.Statement (.cwait e x) := by
  intro sl n hs hw he
  have e0 : 637534208 + x.enc = n := Option.some.inj he
  have e1 : n = 19 * 33554432 + x.enc := by omega
  cases e <;> (cases hs)
  · exact decode_raw (raw_cwait .c n x e1) hw (by have := CWait.enc_lt x; omega)
  · exact decode_raw (raw_cwait .d n x e1) hw (by have := CWait.enc_lt x; omega)
theorem raw_cfence (e : CUnit) (n : Nat) (x : CFence) (e1 : n = 20 * 33554432 + x.enc) : rawCopy e n = some (Instr.cfence e x) := by
  have hd : n / 33554432 = 20 := by have := CFence.enc_lt x; omega
  unfold rawCopy
  rw [hd]
  show (((CFence.dec 0 n).map (Instr.cfence e)) <|> ((CFence.dec 8 n).map (Instr.cfenceA e))) = _
  rw [CFence.dec_enc n 20 x e1]; rfl
theorem Encoded.cfence (e : CUnit) (x : CFence) : Encoded.Statement (.cfence e x) := by
  intro sl n hs hw he
  have e0 : 671088640 + x.enc = n := Option.some.inj he
  have e1 : n = 20 * 33554432 + x.enc := by omega
  cases e <;> (cases hs)
  · exact decode_raw (raw_cfence .c n x e1) hw (by have := CFence.enc_lt x; omega)
  · exact decode_raw (raw_cfence .d n x e1) hw (by have := CFence.enc_lt x; omega)
theorem raw_cfenceA (e : CUnit) (n : Nat) (x : CFence) (e1 : n = 20 * 33554432 + 8 + x.enc) : rawCopy e n = some (Instr.cfenceA e x) := by
  have hd : n / 33554432 = 20 := by have := CFence.enc_lt_8 x; omega
  unfold rawCopy
  rw [hd]
  show (((CFence.dec 0 n).map (Instr.cfence e)) <|> ((CFence.dec 8 n).map (Instr.cfenceA e))) = _
  rw [CFence.dec_0_on_CFence_8 n 20 x e1, CFence.dec_enc_8 n 20 x e1]; rfl
theorem Encoded.cfenceA (e : CUnit) (x : CFence) : Encoded.Statement (.cfenceA e x) := by
  intro sl n hs hw he
  have e0 : 671088648 + x.enc = n := Option.some.inj he
  have e1 : n = 20 * 33554432 + 8 + x.enc := by omega
  cases e <;> (cases hs)
  · exact decode_raw (raw_cfenceA .c n x e1) hw (by have := CFence.enc_lt_8 x; omega)
  · exact decode_raw (raw_cfenceA .d n x e1) hw (by have := CFence.enc_lt_8 x; omega)
theorem raw_ccvt (e : CUnit) (n : Nat) (x : CTwo) (e1 : n = 21 * 33554432 + x.enc) : rawCopy e n = some (Instr.ccvt e x) := by
  have hd : n / 33554432 = 21 := by have := CTwo.enc_lt x; omega
  unfold rawCopy
  rw [hd]
  show (((CTwo.dec 0 n).map (Instr.ccvt e))) = _
  rw [CTwo.dec_enc n 21 x e1]; rfl
theorem Encoded.ccvt (e : CUnit) (x : CTwo) : Encoded.Statement (.ccvt e x) := by
  intro sl n hs hw he
  have e0 : 704643072 + x.enc = n := Option.some.inj he
  have e1 : n = 21 * 33554432 + x.enc := by omega
  cases e <;> (cases hs)
  · exact decode_raw (raw_ccvt .c n x e1) hw (by have := CTwo.enc_lt x; omega)
  · exact decode_raw (raw_ccvt .d n x e1) hw (by have := CTwo.enc_lt x; omega)
theorem raw_cpref (e : CUnit) (n : Nat) (x : CSrc) (e1 : n = 22 * 33554432 + x.enc) : rawCopy e n = some (Instr.cpref e x) := by
  have hd : n / 33554432 = 22 := by have := CSrc.enc_lt x; omega
  unfold rawCopy
  rw [hd]
  show (((CSrc.dec 0 n).map (Instr.cpref e))) = _
  rw [CSrc.dec_enc n 22 x e1]; rfl
theorem Encoded.cpref (e : CUnit) (x : CSrc) : Encoded.Statement (.cpref e x) := by
  intro sl n hs hw he
  have e0 : 738197504 + x.enc = n := Option.some.inj he
  have e1 : n = 22 * 33554432 + x.enc := by omega
  cases e <;> (cases hs)
  · exact decode_raw (raw_cpref .c n x e1) hw (by have := CSrc.enc_lt x; omega)
  · exact decode_raw (raw_cpref .d n x e1) hw (by have := CSrc.enc_lt x; omega)
theorem raw_cswp (e : CUnit) (n : Nat) (x : CTwo) (e1 : n = 23 * 33554432 + x.enc) : rawCopy e n = some (Instr.cswp e x) := by
  have hd : n / 33554432 = 23 := by have := CTwo.enc_lt x; omega
  unfold rawCopy
  rw [hd]
  show (((CTwo.dec 0 n).map (Instr.cswp e))) = _
  rw [CTwo.dec_enc n 23 x e1]; rfl
theorem Encoded.cswp (e : CUnit) (x : CTwo) : Encoded.Statement (.cswp e x) := by
  intro sl n hs hw he
  have e0 : 771751936 + x.enc = n := Option.some.inj he
  have e1 : n = 23 * 33554432 + x.enc := by omega
  cases e <;> (cases hs)
  · exact decode_raw (raw_cswp .c n x e1) hw (by have := CTwo.enc_lt x; omega)
  · exact decode_raw (raw_cswp .d n x e1) hw (by have := CTwo.enc_lt x; omega)
theorem raw_copyGetm (e : CUnit) (n : Nat) (x : CGetm) (e1 : n = 24 * 33554432 + x.enc) : rawCopy e n = some (Instr.copyGetm e x) := by
  have hd : n / 33554432 = 24 := by have := CGetm.enc_lt x; omega
  unfold rawCopy
  rw [hd]
  show (((CGetm.dec 0 n).map (Instr.copyGetm e))) = _
  rw [CGetm.dec_enc n 24 x e1]; rfl
theorem Encoded.copyGetm (e : CUnit) (x : CGetm) : Encoded.Statement (.copyGetm e x) := by
  intro sl n hs hw he
  have e0 : 805306368 + x.enc = n := Option.some.inj he
  have e1 : n = 24 * 33554432 + x.enc := by omega
  cases e <;> (cases hs)
  · exact decode_raw (raw_copyGetm .c n x e1) hw (by have := CGetm.enc_lt x; omega)
  · exact decode_raw (raw_copyGetm .d n x e1) hw (by have := CGetm.enc_lt x; omega)
theorem raw_copyPutm (e : CUnit) (n : Nat) (x : CPutm) (e1 : n = 25 * 33554432 + x.enc) : rawCopy e n = some (Instr.copyPutm e x) := by
  have hd : n / 33554432 = 25 := by have := CPutm.enc_lt x; omega
  unfold rawCopy
  rw [hd]
  show (((CPutm.dec 0 n).map (Instr.copyPutm e))) = _
  rw [CPutm.dec_enc n 25 x e1]; rfl
theorem Encoded.copyPutm (e : CUnit) (x : CPutm) : Encoded.Statement (.copyPutm e x) := by
  intro sl n hs hw he
  have e0 : 838860800 + x.enc = n := Option.some.inj he
  have e1 : n = 25 * 33554432 + x.enc := by omega
  cases e <;> (cases hs)
  · exact decode_raw (raw_copyPutm .c n x e1) hw (by have := CPutm.enc_lt x; omega)
  · exact decode_raw (raw_copyPutm .d n x e1) hw (by have := CPutm.enc_lt x; omega)
theorem raw_copyXfer (e : CUnit) (n : Nat) (x : CXfer) (e1 : n = 26 * 33554432 + x.enc) : rawCopy e n = some (Instr.copyXfer e x) := by
  have hd : n / 33554432 = 26 := by have := CXfer.enc_lt x; omega
  unfold rawCopy
  rw [hd]
  show (((CXfer.dec 0 n).map (Instr.copyXfer e))) = _
  rw [CXfer.dec_enc n 26 x e1]; rfl
theorem Encoded.copyXfer (e : CUnit) (x : CXfer) : Encoded.Statement (.copyXfer e x) := by
  intro sl n hs hw he
  have e0 : 872415232 + x.enc = n := Option.some.inj he
  have e1 : n = 26 * 33554432 + x.enc := by omega
  cases e <;> (cases hs)
  · exact decode_raw (raw_copyXfer .c n x e1) hw (by have := CXfer.enc_lt x; omega)
  · exact decode_raw (raw_copyXfer .d n x e1) hw (by have := CXfer.enc_lt x; omega)
theorem Encoded.bundleCommit (sigBad : Bool) : Encoded.Statement (.bundleCommit sigBad) := fun _ _ hs => nomatch hs
theorem Encoded.asynchronousTrap (k : Nat) : Encoded.Statement (.asynchronousTrap k) := fun _ _ hs => nomatch hs
theorem Encoded.fairnessYield (c : Nat) : Encoded.Statement (.fairnessYield c) := fun _ _ hs => nomatch hs
theorem Encoded.watchdogExpiry (k : Nat) : Encoded.Statement (.watchdogExpiry k) := fun _ _ hs => nomatch hs
theorem Encoded.sleepEnd (k : Nat) : Encoded.Statement (.sleepEnd k) := fun _ _ hs => nomatch hs
theorem Encoded.exposedResultLand (k : Nat) (i : Nat) : Encoded.Statement (.exposedResultLand k i) := fun _ _ hs => nomatch hs
theorem Encoded.memoryAccessPerform (k : Nat) (i : Nat) (v : Evict) : Encoded.Statement (.memoryAccessPerform k i v) := fun _ _ hs => nomatch hs
theorem Encoded.migpullRepost (p : Nat) (page : Nat) : Encoded.Statement (.migpullRepost p page) := fun _ _ hs => nomatch hs
theorem Encoded.migrationHoldTimeout (p : Nat) (page : Nat) : Encoded.Statement (.migrationHoldTimeout p page) := fun _ _ hs => nomatch hs
theorem Encoded.messageDelivery (i : Nat) : Encoded.Statement (.messageDelivery i) := fun _ _ hs => nomatch hs
theorem Encoded.remotePostApply (i : Nat) : Encoded.Statement (.remotePostApply i) := fun _ _ hs => nomatch hs
theorem Encoded.fencedNack (i : Nat) : Encoded.Statement (.fencedNack i) := fun _ _ hs => nomatch hs
theorem Encoded.ridgeArrival (w : Arriver) : Encoded.Statement (.ridgeArrival w) := fun _ _ hs => nomatch hs
theorem Encoded.ridgeRelease (n : Nat) : Encoded.Statement (.ridgeRelease n) := fun _ _ hs => nomatch hs
theorem Encoded.endComplete (k : Nat) : Encoded.Statement (.endComplete k) := fun _ _ hs => nomatch hs
theorem Encoded.nodeEnd (w : Ender) : Encoded.Statement (.nodeEnd w) := fun _ _ hs => nomatch hs
theorem Encoded.contextKill (k : Nat) : Encoded.Statement (.contextKill k) := fun _ _ hs => nomatch hs
theorem Encoded.restoreGateRelease (n : Nat) : Encoded.Statement (.restoreGateRelease n) := fun _ _ hs => nomatch hs
theorem Encoded.commandStart (k : Nat) (i : Nat) : Encoded.Statement (.commandStart k i) := fun _ _ hs => nomatch hs
theorem Encoded.ktileIntake (k : Nat) (i : Nat) (t : Intake) : Encoded.Statement (.ktileIntake k i t) := fun _ _ hs => nomatch hs
theorem Encoded.accumulatorRowFinal (k : Nat) (r : RowFinal) : Encoded.Statement (.accumulatorRowFinal k r) := fun _ _ hs => nomatch hs
theorem Encoded.commandPerform (k : Nat) (i : Nat) : Encoded.Statement (.commandPerform k i) := fun _ _ hs => nomatch hs
theorem Encoded.copyBatchLand (k : Nat) (i : Nat) (b : BatchLand) : Encoded.Statement (.copyBatchLand k i b) := fun _ _ hs => nomatch hs
theorem Encoded.copyTimeout (k : Nat) (i : Nat) : Encoded.Statement (.copyTimeout k i) := fun _ _ hs => nomatch hs
theorem Encoded.detContributionAccept (k : Nat) (i : Nat) : Encoded.Statement (.detContributionAccept k i) := fun _ _ hs => nomatch hs
theorem Encoded.collectiveExchange (k : Nat) (i : Nat) (peer : Peer) : Encoded.Statement (.collectiveExchange k i peer) := fun _ _ hs => nomatch hs
theorem Encoded.sourceFenced (k : Nat) (i : Nat) : Encoded.Statement (.sourceFenced k i) := fun _ _ hs => nomatch hs
theorem Encoded.segmentRollback (k : Nat) : Encoded.Statement (.segmentRollback k) := fun _ _ hs => nomatch hs
theorem Encoded.budgetOverrun (p : Nat) : Encoded.Statement (.budgetOverrun p) := fun _ _ hs => nomatch hs
theorem Encoded.partitionPeriodStart (p : Nat) : Encoded.Statement (.partitionPeriodStart p) := fun _ _ hs => nomatch hs
theorem Encoded.epilogueStop (k : Nat) : Encoded.Statement (.epilogueStop k) := fun _ _ hs => nomatch hs
theorem Encoded.drainBoundExpiry (n : Nat) : Encoded.Statement (.drainBoundExpiry n) := fun _ _ hs => nomatch hs
theorem Encoded.coreGovernorWindowEnd (c : Nat) : Encoded.Statement (.coreGovernorWindowEnd c) := fun _ _ hs => nomatch hs
theorem Encoded.plainGovernorWindowEnd (pl w : Nat) : Encoded.Statement (.plainGovernorWindowEnd pl w) := fun _ _ hs => nomatch hs
theorem Encoded.energyWindowEnd (c : Nat) : Encoded.Statement (.energyWindowEnd c) := fun _ _ hs => nomatch hs
theorem Encoded.usageRecordEmit (p : Nat) : Encoded.Statement (.usageRecordEmit p) := fun _ _ hs => nomatch hs
theorem Encoded.ctxsaveDone (i : Nat) : Encoded.Statement (.ctxsaveDone i) := fun _ _ hs => nomatch hs
theorem Encoded.ctxloadDone (i : Nat) : Encoded.Statement (.ctxloadDone i) := fun _ _ hs => nomatch hs
theorem Encoded.partitionCreateDone (i : Nat) : Encoded.Statement (.partitionCreateDone i) := fun _ _ hs => nomatch hs
theorem Encoded.partitionStopDone (i : Nat) : Encoded.Statement (.partitionStopDone i) := fun _ _ hs => nomatch hs
theorem Encoded.partitionDestroyDone (i : Nat) : Encoded.Statement (.partitionDestroyDone i) := fun _ _ hs => nomatch hs
theorem Encoded.zeroDone (i : Nat) : Encoded.Statement (.zeroDone i) := fun _ _ hs => nomatch hs
theorem Encoded.retirementRecord (i : Nat) : Encoded.Statement (.retirementRecord i) := fun _ _ hs => nomatch hs
theorem Encoded.signedRecordDone (i : Nat) : Encoded.Statement (.signedRecordDone i) := fun _ _ hs => nomatch hs
theorem Encoded.heartbeatSend (c : Nat) : Encoded.Statement (.heartbeatSend c) := fun _ _ hs => nomatch hs
theorem Encoded.heartbeatReceive (c : Nat) (n : Fin 4) (h : BitVec 128) : Encoded.Statement (.heartbeatReceive c n h) := fun _ _ hs => nomatch hs
theorem Encoded.heartbeatPeriodEnd (c : Nat) : Encoded.Statement (.heartbeatPeriodEnd c) := fun _ _ hs => nomatch hs
theorem Encoded.flitWindowEnd (c : Nat) (n : Fin 4) (flits : Nat) : Encoded.Statement (.flitWindowEnd c n flits) := fun _ _ hs => nomatch hs
theorem Encoded.accusationReceive (c : Nat) (n : Fin 4) (w : Nat) : Encoded.Statement (.accusationReceive c n w) := fun _ _ hs => nomatch hs
theorem Encoded.withdrawalReceive (c : Nat) (n : Fin 4) (w : Nat) : Encoded.Statement (.withdrawalReceive c n w) := fun _ _ hs => nomatch hs
theorem Encoded.fenceNoticeReceive (c : Nat) (n : Fin 4) : Encoded.Statement (.fenceNoticeReceive c n) := fun _ _ hs => nomatch hs
theorem Encoded.readmissionReceive (c : Nat) (n : Fin 4) : Encoded.Statement (.readmissionReceive c n) := fun _ _ hs => nomatch hs
theorem Encoded.bistResult (c : Nat) (pass : Bool) : Encoded.Statement (.bistResult c pass) := fun _ _ hs => nomatch hs
theorem Encoded.leasePlacement (u : Nat) : Encoded.Statement (.leasePlacement u) := fun _ _ hs => nomatch hs
theorem Encoded.leaseWithdrawal (w : Withdrawal) : Encoded.Statement (.leaseWithdrawal w) := fun _ _ hs => nomatch hs
theorem Encoded.patternEnd (u : Nat) (pass : Bool) (last : Bool) : Encoded.Statement (.patternEnd u pass last) := fun _ _ hs => nomatch hs
theorem Encoded.scoreHalving : Encoded.Statement (.scoreHalving) := fun _ _ hs => nomatch hs
theorem Encoded.powerOnReset : Encoded.Statement (.powerOnReset) := fun _ _ hs => nomatch hs
theorem Encoded.selfTest (code : Nat) (unit : Nat) (pass : Bool) (data : List (BitVec 8)) : Encoded.Statement (.selfTest code unit pass data) := fun _ _ hs => nomatch hs
theorem Encoded.powerToken (t : BitVec 192) : Encoded.Statement (.powerToken t) := fun _ _ hs => nomatch hs
theorem Encoded.tokenLeaseExpiry : Encoded.Statement (.tokenLeaseExpiry) := fun _ _ hs => nomatch hs
theorem Encoded.hbmThermalMeasurement (st : Fin 8) (temp : Int) : Encoded.Statement (.hbmThermalMeasurement st temp) := fun _ _ hs => nomatch hs
theorem Encoded.dieThermalMeasurement (pl : Fin 4) (temp : Int) : Encoded.Statement (.dieThermalMeasurement pl temp) := fun _ _ hs => nomatch hs
theorem Encoded.hostWrite (p : Nat) (off : Nat) (data : List (BitVec 8)) : Encoded.Statement (.hostWrite p off data) := fun _ _ hs => nomatch hs
theorem Encoded.hostRead (p : Nat) (off : Nat) (n : Nat) : Encoded.Statement (.hostRead p off n) := fun _ _ hs => nomatch hs
theorem Encoded.winbase (p : Nat) (v : BitVec 64) (ide : Bool) : Encoded.Statement (.winbase p v ide) := fun _ _ hs => nomatch hs
theorem Encoded.status (p : Nat) (v : BitVec 32) : Encoded.Statement (.status p v) := fun _ _ hs => nomatch hs
theorem Encoded.spdmRequest (f : Nat) (msg : List (BitVec 8)) : Encoded.Statement (.spdmRequest f msg) := fun _ _ hs => nomatch hs
theorem Encoded.tdispRequest (p : Nat) (want : Tdi) : Encoded.Statement (.tdispRequest p want) := fun _ _ hs => nomatch hs
theorem Encoded.flitReceive (port : Fin 18) (flit : BitVec 512) : Encoded.Statement (.flitReceive port flit) := fun _ _ hs => nomatch hs
theorem Encoded.nakReceive (port : Fin 18) (lseq : BitVec 8) : Encoded.Statement (.nakReceive port lseq) := fun _ _ hs => nomatch hs
theorem Encoded.unreachableNack (k : Nat) (i : Nat) : Encoded.Statement (.unreachableNack k i) := fun _ _ hs => nomatch hs
theorem Encoded.instructionFetch (k : Nat) (a : Nat) : Encoded.Statement (.instructionFetch k a) := fun _ _ hs => nomatch hs
theorem Encoded.longSeriesOperationLand (k : Nat) (i : Nat) : Encoded.Statement (.longSeriesOperationLand k i) := fun _ _ hs => nomatch hs
theorem Encoded.tlbinvRemovalEnd (i : Nat) : Encoded.Statement (.tlbinvRemovalEnd i) := fun _ _ hs => nomatch hs
theorem Encoded.linkTraining (l : Fin 2) (width : Nat) : Encoded.Statement (.linkTraining l width) := fun _ _ hs => nomatch hs

end Sys2Proof.Laws
end

