-- ==== Sys2Proof/Safety.lean ====
section
/-!
DEFINITION. Safety.lean: what counts as a sound state and a safe run, in the terms that statements use.
-/
namespace Sys2Proof.Machine

/-- Memory is in its canonical form, also the memory that an open bundle goes back to if it does not commit (R359). -/
def State.Sound (s : State) : Prop :=
  s.mem.wf = true ∧ ∀ o, s.opened = some o → o.saved.mem.wf = true ∧ o.mem.wf = true

/-- The next step answers a state: it neither faults nor is refused. -/
def State.Runs (s : State) : Prop := ∃ t, step s = .next t

/-- The states that a run can reach from a state. -/
inductive Reaches : State → State → Prop where
  | here (s : State) : Reaches s s
  | step {s t u : State} (h : Reaches s t) (e : Machine.step t = .next u) : Reaches s u

/-- A run from a state is safe: every state it reaches is sound and has a next. -/
def State.Safe (s : State) : Prop := ∀ t, Reaches s t → t.Sound ∧ t.Runs

end Sys2Proof.Machine
end

