-- ==== Sys2Proof/Certificates/Slice0/Obligations.lean ====
section
/-!
DEFINITION. Certificates/Slice0/Obligations.lean: the statements about the machine, in the order of OBLIGATIONS.json, and before them
the few words they are written in.
-/
section
open Sys2Proof Sys2Proof.Machine

/-! Words of the statements. -/
/-- `exec` answers the state that a computation gives, and the computation gives one. -/
def Claims.Gives (i : Instr) (s : State) (r : Res State) : Prop := ∃ t, r = .ok t ∧ exec i s = .next t
/-- A bundle is open, and the slot's instruction is not guarded off. -/
abbrev Claims.On (g : Guard) (s : State) : Prop := s.opened.isSome = true ∧ g.on s.pre = true
/-- A bundle is open, and some lane of the guard is active. -/
abbrev Claims.Lanes (g : Guard) (s : State) : Prop := s.opened.isSome = true ∧ g.lanes s.pre ≠ 0
/-- No interlocked result for the register has still to land (R141). -/
abbrev Claims.Clear (s : State) (l : Option Loc) : Prop := ∀ m ∈ l, s.pre.locked m = false
/-- A state with no bundle open, in which events occur. -/
abbrev Claims.Between (s : State) : Prop := s.opened = none

/-! What a slot's instruction leaves unchanged. -/
/-- Data registers other than those that a `Loc` names. -/
def Claims.sameOther (d e : DataRegs) : Prop :=
  e.t = d.t ∧ e.z = d.z ∧ e.xo = d.xo ∧ e.draws = d.draws ∧ e.rows = d.rows ∧ e.cols = d.cols ∧ e.mirror = d.mirror ∧ e.trace = d.trace ∧
    e.issued = d.issued ∧ e.sig = d.sig
/-- Everything of the world but the contexts and the model's own count of free values (log entry 8). -/
def Claims.sameWorld (s t : State) : Prop := { t.toWorld with ctxs := s.ctxs, fresh := s.fresh } = s.toWorld
/-- From s to t only registers in `dests` of context k change, and sticky bits of its SSTAT are set: memory, every other context, the
flow registers, special registers, accumulators, flags and queues of this one stay. -/
structure Claims.Frame (k : Nat) (dests : List Loc) (s t : State) : Prop where
  world : Claims.sameWorld s t
  agenda : t.agenda = s.agenda
  others : ∀ j, j ≠ k → t.ctx j = s.ctx j
  rest : t.ctx k = { s.ctx k with regs := (t.ctx k).regs, flights := (t.ctx k).flights }
  flow : (t.ctx k).regs.flow = (s.ctx k).regs.flow
  sys : (t.ctx k).regs.sys = { (s.ctx k).regs.sys with sstat := (t.ctx k).regs.sys.sstat }
  sticky : (s.ctx k).regs.sys.sstat ||| (t.ctx k).regs.sys.sstat = (t.ctx k).regs.sys.sstat
  dat : Claims.sameOther (s.ctx k).regs.dat (t.ctx k).regs.dat
  regs : ∀ l, l ∉ dests → (t.ctx k).regs.dat.get l = (s.ctx k).regs.dat.get l
  flights : (t.ctx k).flights.filter (fun f => decide (f.loc ∉ dests)) = (s.ctx k).flights.filter (fun f => decide (f.loc ∉ dests))

/-! The machine. -/
/-- R446, R326, R315, R281, R450, R430 (Table 25-2): what power-on reset leaves, as far as the spec gives it, but for three choices of the model:
the empty agenda and closed bundle (log 7), every context Free, that of the management core among them (DESIGN CHOICE, log 3), and no failure
code before a test has failed (log 1). -/
def Obligations.ResetState : Prop :=
  State.reset.now = 0 ∧ State.reset.agenda = [] ∧ State.reset.opened = none ∧
  (∀ c, (State.reset.core c).div = #v[2, 2, 2, 2, 3] ∧ (State.reset.core c).gov.ptr = Vector.replicate 8 3) ∧
  (∀ p, (State.reset.part p).exist = false ∧ ∀ l : Fin 2, (State.reset.part p).vf[l].winbase = 0x0000010000000000) ∧
  (∀ k, (State.reset.ctx k).status = .free ∧ (State.reset.ctx k).regs.sys.fmt = fmtPresets) ∧
  State.reset.power.atFloor = true ∧ State.reset.boot.code = 0

/-- No step of any state faults or is refused, whatever the agenda says: the conditions of the spec are traps, kills and suspensions
inside the state (R105, R106, R363). -/
def Obligations.NeverStops : Prop := ∀ s : State, s.Runs

/-- The bundle word i as bits, and the literal of a bundle (R82, R94). -/
def Claims.word (b i : Nat) : BitVec 32 := BitVec.ofNat 32 (bundleWord b i)
def Claims.literal (b : Nat) : BitVec 32 := if hdrLit (bundleWord b 0) = 0 then 0 else Claims.word b (hdrLit (bundleWord b 0))
/-- Nothing comes before the next bundle of a context that is in no course (R34, R50, R365, R372, R378). -/
abbrev Claims.Plain (s : State) (k : Nat) : Prop :=
  let c := s.ctx k
  c.status = .running ∧ c.ctl.clen < 2 ∧ c.kill = none ∧ c.rolling = false ∧ c.saving = false ∧ c.forced = false ∧
    (c.regs.sys.tl ≠ 0 ∨ c.async = []) ∧ c.wdPend = none ∧ c.wdHeld = none ∧ c.held = none ∧ c.late = [] ∧ c.run < 4096 ∧
    (c.regs.sys.dmode = true → ∀ m ∈ c.cmds, m.page = none)
/-- A step issues the bundle at the context's pc: its words decode, slot by slot, and `exec` of the decoded instructions in slot order,
then of the bundle's end, is the step (R83, R314). The core's cycle has come, nothing else is due, and nothing comes before the
bundle; s1 is the state with what was due by now landed. -/
def Claims.StepRunsBundle : Prop :=
  ∀ (s s1 s2 : State) (core k b : Nat) (bad : Bool) (rest : List Move) (f : Nat → Instr),
    s.agenda = .issue core bad :: rest → s.opened = none → firstDue s s.exactDues = none → firstDue s s.dues = none →
    (s.core core).next ≤ s.now → (s.core core).edge 0 s.now = s.now → (s.core core).health.fenced = false →
    (State.courseCores { s with agenda := rest } core).find? (State.energyHeld { s with agenda := rest }) = none →
    s1 = (State.bound { s with agenda := rest } core).foldl (fun s k => s.landDue k s.now) (State.wakeCore { s with agenda := rest } core) →
    (s1.core core).next ≤ s.now → s1.choose core = some k → Claims.Plain s1 k →
    s1.fetch k = .ok b s2 → encodingTrap k ((s2.ctx k).regs.flow.dly.count != 0) b = none →
    (∀ i, 1 ≤ i → i ≤ 7 → i ≠ hdrLit (bundleWord b 0) → decodeOpt (slotAt i) (bundleWord b i) = some (f i)) →
    step s = exec (.bundleCommit bad)
      ([1, 2, 3, 4, 5, 6, 7].foldl (fun t i => if hdrLit (bundleWord b 0) = i then t else match exec (f i) t with | .next u => u | _ => t)
        (s2.openBundle k (Claims.word b 0) (Claims.literal b) ((List.range 8).map (Claims.word b))))

/-- An event that the agenda names is `exec` of it, and the agenda goes on (95: the machine's own steps). -/
def Claims.StepRunsEvent : Prop :=
  ∀ (s : State) (i : Instr) (rest : List Move), firstDue s s.exactDues = none → s.agenda = .event i :: rest → step s = exec i { s with agenda := rest }
/-- A step runs the instructions that the bundle at the pc decodes to, or the event that the agenda names (R83, R314). -/
def Obligations.StepRunsDecoded : Prop := Claims.StepRunsBundle ∧ Claims.StepRunsEvent

/-- Words written out from the layouts of R91, R92, R108, Tables 9-3 and 9-7 decode to the instructions they stand for. -/
def Obligations.DecodeWords : Prop :=
  -- ADD.64 S1, S2, S3: opcode 1, D 1, A 2, B 3, w 1
  decode .s (BitVec.ofNat 32 (1 * 2 ^ 25 + 1 * 2 ^ 16 + 2 * 2 ^ 11 + 3 * 2 ^ 6 + 1)) = .ok (.add ⟨⟨false, 0⟩, .r 1, .r 2, .r 3, true⟩) ∧
  -- [!P3] TRAP 7: opcode 19, guard 1 011
  decode .f (BitVec.ofNat 32 (19 * 2 ^ 26 + 11 * 2 ^ 22 + 7)) = .ok (.trap ⟨⟨true, 3⟩, 7⟩) ∧
  -- VADD.F32 V4, V5, literal in slot b: opcode 1, type 10
  decode .b (BitVec.ofNat 32 (1 * 2 ^ 25 + 4 * 2 ^ 16 + 5 * 2 ^ 11 + 24 * 2 ^ 6 + 10 * 2 ^ 2)) = .ok (.vadd .b ⟨⟨false, 0⟩, .r 4, .r 5, .lit, .f32, .rne⟩) ∧
  -- XCLR X9 in slot b: opcode 64
  decode .b (BitVec.ofNat 32 (64 * 2 ^ 25 + 9 * 2 ^ 16)) = .ok (.xclr ⟨⟨false, 0⟩, 9⟩) ∧
  -- MZERO Z2: opcode 8
  decode .m (BitVec.ofNat 32 (8 * 2 ^ 25 + 2 * 2 ^ 16)) = .ok (.mzero ⟨⟨false, 0⟩, 2⟩) ∧
  -- CPY C1, C2 in slot d: opcode 3
  decode .d (BitVec.ofNat 32 (3 * 2 ^ 25 + 1 * 2 ^ 16 + 2 * 2 ^ 11)) = .ok (.cpy .d ⟨⟨false, 0⟩, 1, 2⟩) ∧
  -- a scalar word with opcode 99 and a SEL with a reserved bit set
  decode .s (BitVec.ofNat 32 (99 * 2 ^ 25)) = .error .unassigned ∧
  decode .s (BitVec.ofNat 32 (33 * 2 ^ 25 + 2 ^ 4)) = .error .badField

/-- Decode and encode agree: the word of every well-formed instruction, with every operand at every value it may have, is a word of its
slot that decodes to it (R91, R92, R100-R105, R108). -/
def Obligations.DecodeEncode : Prop := ∀ i : Instr, Laws.Encoded.Statement i
/-- A legal word has one meaning: a word that decodes to an instruction is the word that it encodes to (R105). -/
def Obligations.EncodeDecode : Prop :=
  ∀ (sl : Slot) (w : BitVec 32) (i : Instr), decode sl w = .ok i → encode i = some w.toNat ∧ i.slot = some sl ∧ i.wf = true

/-- The memory keeps its canonical form over every step of every sound state. -/
def Obligations.StepKeepsMemory : Prop := ∀ s t : State, s.Sound → step s = .next t → t.Sound
/-- Reset memory is canonical. -/
def Obligations.ResetMemory : Prop := State.reset.Sound

/-- R6, R303: a read of bytes just written gives them, least significant first, and a write leaves every other byte. -/
def Claims.ReadAfterWrite : Prop :=
  (∀ (m : Memory) (a n v : Nat), m.wf = true → (m.putN a n v).getN a n = v % 2 ^ (8 * n)) ∧
  (∀ (m : Memory) (a n v b : Nat), m.wf = true → (b < a ∨ a + n ≤ b) → (m.putN a n v).get b = m.get b) ∧
  (∀ (m : Memory) (a n v : Nat), m.wf = true → (m.putN a n v).wf = true)

/-- An instruction of a slot outside an open bundle acts as the only one of a bundle of no-ops: the bundle opens, it acts, the
bundle ends. -/
def Obligations.OutsideBundle : Prop :=
  ∀ (i : Instr) (s : State), i.slot.isSome = true → s.opened = none →
    ∃ t, exec i (s.openBundle s.cur 0 0 []) = .next t ∧ exec i s = .next (t.close false)

/-- The engine whose timeline a command of a slot belongs to: the matrix engine, or the slot's copy engine (R199, R201). -/
def Claims.engine (i : Instr) : Option (Fin 3) :=
  match i with
  | .mldt _ => some 0 | .mstz _ => some 0 | .mstzTag _ => some 0 | .mma _ => some 0 | .mmaz _ => some 0 | .mchk _ => some 0 | .mchkz _ => some 0
  | .mnest _ => some 0 | .mnestz _ => some 0 | .mzero _ => some 0 | .mfix _ => some 0 | .minj _ => some 0 | .mbias _ => some 0
  | .mactRelu _ => some 0 | .mactAbs _ => some 0 | .mactScale _ => some 0 | .mtr _ => some 0 | .mcvt _ => some 0
  | .cpy e _ => some e.eng | .cpyb e _ => some e.eng | .cpyt e _ => some e.eng | .cgath e _ => some e.eng | .cscat e _ => some e.eng
  | .czero e _ => some e.eng | .cfill e _ => some e.eng | .cred e _ => some e.eng | .cbcast e _ => some e.eng | .callred e _ => some e.eng
  | .cdigest e _ => some e.eng | .cpull e _ => some e.eng | .cpost e _ => some e.eng | .chostTo e _ => some e.eng | .chostFrom e _ => some e.eng
  | .ccarrTo e _ => some e.eng | .ccarrFrom e _ => some e.eng | .cwait e _ => some e.eng | .cfence e _ => some e.eng | .cfenceA e _ => some e.eng
  | .ccvt e _ => some e.eng | .cpref e _ => some e.eng | .cswp e _ => some e.eng
  | _ => none
/-- R96: an instruction guarded off (in slots a and b: with no lane active) has no effect; an engine command guarded off takes its
number. -/
def Claims.GuardOff : Prop :=
  ∀ (i : Instr) (g : Guard) (s : State), i.guard = some g → s.opened.isSome = true → g.on s.pre = false →
    (i.slot = some .a ∨ i.slot = some .b → g.lanes s.pre = 0) →
    exec i s = .next (match Claims.engine i with | some e => s.takeNumber e | none => s)
/-- The no-ops do nothing (R100-R104). -/
def Claims.NoOps : Prop :=
  ∀ (i : Instr) (s : State), i ∈ [.nopF, .scalarNop, .vectorNop .a, .vectorNop .b, .matrixNop, .copyNop .c, .copyNop .d] → s.opened.isSome = true →
    exec i s = .next s
/-- Events fall between bundles: while a bundle is open, none of them changes anything but the bundle's own end. That an event named there has no
effect is the model's DESIGN CHOICE (log 7): R83 says that a bundle executes as a whole. -/
def Claims.EventsBetweenBundles : Prop :=
  ∀ (i : Instr) (s : State), i.slot = none → (∀ b, i ≠ .bundleCommit b) → s.opened.isSome = true → exec i s = .next s
/-- R96, R100-R104: what has no effect: an instruction guarded off, but for the number of a command, the no-ops, and, by the model's DESIGN CHOICE
(log 7), events while a bundle is open. -/
def Obligations.WithoutEffect : Prop := Claims.GuardOff ∧ Claims.NoOps ∧ Claims.EventsBetweenBundles

/-- R95, R98: a result lands in its register, in the bits it writes; a write of P0 is discarded. -/
def Claims.ResultLands : Prop :=
  (∀ (s t : State) (l : Loc) (v mask L : Nat) (cls : Fin 5), l.isP0 = false → v < 2 ^ locBits l →
    (∀ f ∈ (s.ctx s.me).flights, f.loc ≠ l) → s.wr (some l) v mask cls L = .ok t →
    ((t.landAllFlights s.me).ctx s.me).regs.dat.get l = mergeBits ((s.ctx s.me).regs.dat.get l) v mask) ∧
  (∀ (s t : State) (v mask L : Nat) (cls : Fin 5), s.wr (some (.p 0)) v mask cls L = .ok t → (t.ctx s.me).regs = (s.ctx s.me).regs)
/-- R6, R95, R98, R303: a write is what a read finds, in memory and in the registers. -/
def Obligations.WritesHold : Prop := Claims.ReadAfterWrite ∧ Claims.ResultLands

/-! Exceptions. -/
/-- R363, R366: a trap at level 0 or 1: every result in flight lands; the next level's bank takes the cause, PC, value, mask, pending
transfer and loop levels; TL rises; control goes to TVEC + 0x400 × (level - 1) with no transfer pending and no loop active. -/
def Claims.TrapTaken : Prop :=
  ∀ (s : State) (k cause : Nat) (val : Word) (mask : BitVec 8) (async : Bool),
    let s1 := s.landAll k
    let c := s1.ctx k
    let t := s.takeTrap k cause val mask async
    let d := t.ctx k
    let L := c.regs.sys.tl
    L < 2 → cause < 65536 →
    d.regs.sys.tl = L + 1 ∧
    d.regs.flow.pc = c.regs.sys.tvec + BitVec.ofNat 64 (0x400 * L) ∧ d.regs.flow.dly.count = 0 ∧ d.regs.flow.loops = [] ∧
    (let b := vget d.regs.sys.banks L Bank.zero
     b.cause = BitVec.ofNat 64 (cause + if async then 65536 else 0) ∧ b.tpc = c.regs.flow.pc ∧ b.tval = val ∧ b.tmask = mask ∧
       b.tdly = tdlyOf c.regs.flow.dly ∧ b.loops = c.regs.flow.loops) ∧
    vget d.regs.sys.banks (1 - L) Bank.zero = vget c.regs.sys.banks (1 - L) Bank.zero ∧
    d.regs.dat = c.regs.dat ∧ d.status = c.status ∧ t.mem = s1.mem ∧ ∀ j, j ≠ k → t.ctx j = s1.ctx j
/-- R34, R363: a trap that arises at TL = 2 is not taken; it kills the context with its cause, and one of a stream context is reported to the
management context. -/
def Claims.TrapKills : Prop :=
  ∀ (s : State) (k cause : Nat) (val : Word) (mask : BitVec 8) (async : Bool),
    let s1 := s.landAll k
    let c := s1.ctx k
    let t := s.takeTrap k cause val mask async
    2 ≤ c.regs.sys.tl → c.kill = none → cause < 65536 →
    (t.ctx k).kill = some cause ∧ (t.ctx k).regs = c.regs ∧ t.mem = s1.mem ∧
    (c.node ≠ 0 → (t.node c.node).cause = (s1.node c.node).cause.or (some (3, cause, c.regs.sys.ident[2].toNat))) ∧
    (isStream k = true → (vget (s1.ctx mgmtKey).q 2 []).length < 4096 →
      vget (t.ctx mgmtKey).q 2 [] = vget (s1.ctx mgmtKey).q 2 [] ++ [element 0x21 (c.part % 64 * 2 ^ 48 + cause)])
/-- R34, R363, R366: a trap is taken, or at TL = 2 kills. -/
def Obligations.TrapEntry : Prop := Claims.TrapTaken ∧ Claims.TrapKills

/-- R132, R282: when the transfer of an RTT of a level reaches its target, that level's bank gives back PC, loop levels and pending
transfer, and TL falls below the level. -/
def Obligations.TrapReturn : Prop :=
  ∀ (s : State) (k L : Nat), 1 ≤ L → L ≤ 2 →
    let b := vget (s.ctx k).regs.sys.banks (L - 1) Bank.zero
    let d := (s.rttArrive k L).ctx k
    d.regs.sys.tl = L - 1 ∧ d.regs.flow.pc = BitVec.ofNat 64 (b.tpc.toNat / 32 * 32) ∧
    d.regs.flow.loops.map (fun l => (l.n, l.first, l.last)) = b.loops.map (fun l => (l.n, l.first, l.last)) ∧
    d.regs.flow.dly.count = b.tdly.toNat % 4 ∧
    (b.tdly.toNat % 4 ≠ 0 → d.regs.flow.dly.target = BitVec.ofNat 64 (b.tdly.toNat / 32 * 32)) ∧
    d.regs.dat = (s.ctx k).regs.dat ∧ (s.rttArrive k L).mem = s.mem
/-- R359, R363: a bundle whose lowest condition is a trap does not commit: the world is what it was before the bundle, and the trap is
taken there with the condition's cause and value and the mask of the slots that raised it. -/
def Claims.TrappedBundle : Prop :=
  ∀ (s : State) (o : Open) (r : Raise) (m : BitVec 8), s.opened = some o → o.verdict = .trap r m → r.unit = none →
    s.close false = (((((o.raised.foldl (fun s x => match x.unit with | some u => s.addScore u 256 | none => s) (s.revert o.saved)).takeTrap
      o.ctx r.cause (BitVec.ofNat 64 r.val) m false).modCtx o.ctx fun c => { c with held := none }).settleScores).stepCore (coreOf o.ctx)) ∧
    (s.revert o.saved).toWorld = o.saved
/-- R359: a bundle that blocks leaves the world as it was, but that its context is Blocked, its slots noted; one that stalls leaves it
with the core's next cycle as the time of the next try; a stream context whose LAUNCH waits for its partition's time is parked besides. -/
def Claims.HeldBundle : Prop :=
  ∀ (s : State) (o : Open), s.opened = some o → o.ridge = false →
    (∀ m, o.verdict = .block m →
      (((s.close false).ctx o.ctx).status = .blocked ∧ ((s.close false).ctx o.ctx).wait.mask = m ∧
        ((s.close false).ctx o.ctx).regs = ((s.revert o.saved).ctx o.ctx).regs ∧ (s.close false).mem = o.saved.mem ∧ (s.close false).opened = none)) ∧
    (o.verdict = .stall [] → o.nest = 0 → s.close false = ((s.revert o.saved).stepCore (coreOf o.ctx)).park o.ctx o.park)
/-- R21, R22, R359, R363: a bundle that does not commit leaves the world as it was before it, but for the trap, the block or the next try. -/
def Obligations.BundleEnds : Prop := Claims.TrappedBundle ∧ Claims.HeldBundle

/-- R83, R114: a bundle that meets no condition commits: the pc goes on by 32, or a taken transfer is pending with its two delay
bundles, or a pending one goes on. -/
def Claims.CommitMoves : Prop :=
  ∀ (f pre : FlowRegs) (o : Open) (forced : Bool),
    (pre.dly.count = 0 → ∀ t l, o.jump = some (t, l) → (f.advance pre o forced).1.pc = BitVec.ofNat 64 (pre.pc.toNat + 32) ∧
      (f.advance pre o forced).1.dly = ⟨2, t, l⟩) ∧
    (pre.dly.count = 0 → o.jump = none → ∀ t, o.skip = some t → (f.advance pre o forced).1.pc = t) ∧
    (pre.dly.count = 0 → o.jump = none → o.skip = none → (∀ l ∈ f.loops, l.last ≠ pre.pc.toNat) →
      (f.advance pre o forced).1 = { f with pc := BitVec.ofNat 64 (pre.pc.toNat + 32) }) ∧
    (pre.dly.count = 2 → (f.advance pre o forced).1.pc = BitVec.ofNat 64 (pre.pc.toNat + 32) ∧ (f.advance pre o forced).1.dly.count = 1 ∧
      (f.advance pre o forced).1.dly.target = pre.dly.target) ∧
    (pre.dly.count = 1 → (f.advance pre o forced).1.pc = pre.dly.target ∧ (f.advance pre o forced).1.dly = Delay.none ∧
      (f.advance pre o forced).1.loops = [] ∧ (f.advance pre o forced).2 = pre.dly.rtt)
/-- R116: at the last bundle of the innermost body, with no forced epilogue, the counter falls: above 1 the body starts again with one
less; at 1 the level ends with the counter at 0. -/
def Claims.LoopTurns : Prop :=
  ∀ (f pre : FlowRegs) (o : Open) (v : Level) (r : List Level), f.loops = v :: r → v.last = pre.pc.toNat → pre.dly.count = 0 → o.jump = none →
    o.skip = none →
    (1 < (f.lc[v.n]).toNat → (f.advance pre o false).1.pc = BitVec.ofNat 64 v.first ∧ (f.advance pre o false).1.lc = f.lc.set v.n (f.lc[v.n] - 1) ∧
      (f.advance pre o false).1.loops = v :: r) ∧
    ((f.lc[v.n]).toNat ≤ 1 → r = [] → (f.advance pre o false).1.pc = BitVec.ofNat 64 (pre.pc.toNat + 32) ∧
      (f.advance pre o false).1.lc = f.lc.set v.n 0 ∧ (f.advance pre o false).1.loops = [])
/-- R83, R114, R116: where a context goes on after a bundle that commits. -/
def Obligations.CommitAdvances : Prop := Claims.CommitMoves ∧ Claims.LoopTurns

/-! The scalar slot. -/
/-- The 64 bits that a result of w bits fills: a `.32` result is sign-extended (R140). -/
def Claims.wide {w : Nat} (v : BitVec w) : Nat := (v.signExtend 64).toNat
/-- The control word of a bit-field operation: where the field begins and how long it is (R144). -/
def Claims.pos {w : Nat} (b : BitVec w) : Nat := (b.extractLsb' 0 6).toNat
def Claims.len {w : Nat} (b : BitVec w) : Nat := if Claims.pos b < w then min (b.extractLsb' 8 7).toNat (w - Claims.pos b) else 0
/-- The low n bits set. -/
def Claims.low (w n : Nat) : BitVec w := BitVec.ofNat w (2 ^ n - 1)
/-- Bounds (Table 7-8) and results (Table 7-9, R144) of the integer instructions of two sources. -/
def Claims.alu2 : List ((SAlu → Instr) × Nat × ((w : Nat) → BitVec w → BitVec w → BitVec w)) :=
  [(.add, 1, fun w (a b : BitVec w) => a + b), (.sub, 1, fun w (a b : BitVec w) => a - b), (.mul, 3, fun w (a b : BitVec w) => a * b),
   (.mulh, 3, fun w (a b : BitVec w) => (a.signExtend (2 * w) * b.signExtend (2 * w)).extractLsb' w w),
   (.mulhu, 3, fun w (a b : BitVec w) => (a.zeroExtend (2 * w) * b.zeroExtend (2 * w)).extractLsb' w w),
   (.and, 1, fun w (a b : BitVec w) => a &&& b), (.or, 1, fun w (a b : BitVec w) => a ||| b), (.xor, 1, fun w (a b : BitVec w) => a ^^^ b), (.andn, 1, fun w (a b : BitVec w) => a &&& ~~~b)] ++
  [(.shl, 1, fun w (a b : BitVec w) => a <<< (b.toNat % w)), (.shr, 1, fun w (a b : BitVec w) => a >>> (b.toNat % w)), (.sar, 1, fun w (a b : BitVec w) => a.sshiftRight (b.toNat % w)),
   (.rot, 1, fun w (a b : BitVec w) => a.rotateLeft (b.toNat % w)),
   (.bfx, 1, fun w (a b : BitVec w) => (a >>> Claims.pos b) &&& Claims.low w (Claims.len b)),
   (.bfxs, 1, fun w (a b : BitVec w) => if Claims.len b = 0 then 0 else ((a >>> Claims.pos b) <<< (w - Claims.len b)).sshiftRight (w - Claims.len b)),
   (.min, 1, fun w (a b : BitVec w) => if b.slt a then b else a), (.max, 1, fun w (a b : BitVec w) => if a.slt b then b else a),
   (.minu, 1, fun w (a b : BitVec w) => if b < a then b else a), (.maxu, 1, fun w (a b : BitVec w) => if a < b then b else a)]
/-- Integer instructions of one source, by bound 1. -/
def Claims.alu1 : List ((SUn → Instr) × ((w : Nat) → BitVec w → BitVec w)) :=
  [(.not, fun w (a : BitVec w) => ~~~a), (.clz, fun w (a : BitVec w) => BitVec.ofNat w ((List.range w).takeWhile fun i => !a.getMsbD i).length),
   (.ctz, fun w (a : BitVec w) => BitVec.ofNat w ((List.range w).takeWhile fun i => !a.getLsbD i).length),
   (.popc, fun w (a : BitVec w) => BitVec.ofNat w ((List.range w).filter fun i => a.getLsbD i).length)]
/-- Those that read Sd as a third source (R143, R144), by bound 1. -/
def Claims.alu3 : List ((SAlu → Instr) × ((w : Nat) → BitVec w → BitVec w → BitVec w → BitVec w)) :=
  [(.fsh, fun w (a b d : BitVec w) => ((a ++ b) <<< (d.toNat % w)).extractLsb' w w),
   (.bfi, fun w (a b d : BitVec w) => (d &&& ~~~(Claims.low w (Claims.len b) <<< Claims.pos b)) ||| ((a &&& Claims.low w (Claims.len b)) <<< Claims.pos b))]
/-- R140, R142-R145: an integer instruction writes Sd with its result at its width, by its bound; BFI of an empty field leaves all of it. -/
def Claims.IntegerForms : Prop :=
  (∀ e ∈ Claims.alu2, ∀ (x : SAlu) (s : State) (a b : Nat), Claims.On x.g s → Claims.Clear s (sLoc x.d) → s.rdS x.a = .ok a → s.rdS x.b = .ok b →
    Claims.Gives (e.1 x) s (s.wrS x.d (Claims.wide (e.2.2 (wBits x.w) (BitVec.ofNat _ a) (BitVec.ofNat _ b))) e.2.1)) ∧
  (∀ e ∈ Claims.alu1, ∀ (x : SUn) (s : State) (a : Nat), Claims.On x.g s → Claims.Clear s (sLoc x.d) → s.rdS x.a = .ok a →
    Claims.Gives (e.1 x) s (s.wrS x.d (Claims.wide (e.2 (wBits x.w) (BitVec.ofNat _ a))) 1)) ∧
  (∀ e ∈ Claims.alu3, ∀ (x : SAlu) (s : State) (a b d : Nat), Claims.On x.g s → Claims.Clear s (sLoc x.d) → s.rdS x.a = .ok a → s.rdS x.b = .ok b →
    s.rdD x.d = .ok d → (e.1 x = .bfi x → Claims.len (BitVec.ofNat (wBits x.w) b) ≠ 0) →
    Claims.Gives (e.1 x) s (s.wrS x.d (Claims.wide (e.2 (wBits x.w) (BitVec.ofNat _ a) (BitVec.ofNat _ b) (BitVec.ofNat _ d))) 1)) ∧
  (∀ (x : SAlu) (s : State) (a b d : Nat), Claims.On x.g s → Claims.Clear s (sLoc x.d) → s.rdS x.a = .ok a → s.rdS x.b = .ok b → s.rdD x.d = .ok d →
    Claims.len (BitVec.ofNat (wBits x.w) b) = 0 → Claims.Gives (.bfi x) s (s.wrS x.d d 1)) ∧
  (∀ (x : SSel) (s : State) (a b : Nat), Claims.On x.g s → Claims.Clear s (sLoc x.d) → s.rdS x.a = .ok a → s.rdS x.b = .ok b →
    Claims.Gives (.sel x) s (s.wrS x.d (Claims.wide (BitVec.ofNat (wBits x.w) (if predBits s.pre x.q % 2 = 1 then a else b))) 1))

/-- Quotient or remainder (R55). -/
def Claims.division : List ((SAlu → Instr) × ((w : Nat) → BitVec w → BitVec w → BitVec w) × ((w : Nat) → BitVec w → BitVec w)) :=
  [(.div, fun w (a b : BitVec w) => a.sdiv b, fun _ _ => 0), (.divu, fun w (a b : BitVec w) => a / b, fun _ _ => 0),
   (.rem, fun w (a b : BitVec w) => a.srem b, fun w (a : BitVec w) => a), (.remu, fun w (a b : BitVec w) => a % b, fun w (a : BitVec w) => a)]
/-- R55, R142: division; by zero it gives quotient 0 and remainder the dividend and sets SSTAT.IDZ, or under DZE traps DIVZERO. -/
def Claims.ScalarDivision : Prop :=
  ∀ e ∈ Claims.division, ∀ (x : SAlu) (s : State) (a b : Nat), Claims.On x.g s → s.rdS x.a = .ok a → s.rdS x.b = .ok b →
    let w := wBits x.w
    let L := if x.w then 20 else 12
    (BitVec.ofNat w b ≠ 0 → Claims.Clear s (sLoc x.d) → Claims.Gives (e.1 x) s (s.wrS x.d (Claims.wide (e.2.1 w (BitVec.ofNat w a) (BitVec.ofNat w b))) L)) ∧
    (BitVec.ofNat w b = 0 → s.pre.regs.sys.sstat.getLsbD 7 = false → Claims.Clear s (sLoc x.d) →
      Claims.Gives (e.1 x) s ((s.setSticky 32).wrS x.d (Claims.wide (e.2.2 w (BitVec.ofNat w a))) L)) ∧
    (BitVec.ofNat w b = 0 → s.pre.regs.sys.sstat.getLsbD 7 = true → exec (e.1 x) s = .next (s.raise 2 9 0 none))

/-- R146, R153: the immediate forms. That LDL of width 32 keeps the low 32 bits of the address, sign-extended, is the model's DESIGN CHOICE (log 33). -/
def Claims.ScalarImmediate : Prop :=
  ∀ (x : SImm) (s : State), Claims.On x.g s → Claims.Clear s (some (.s x.d)) →
    (∀ d, s.rdD (.r x.d) = .ok d →
      Claims.Gives (.addi x) s (s.wrS (.r x.d) (Claims.wide (BitVec.ofNat (wBits x.w) d + x.i.signExtend (wBits x.w))) 1) ∧
      Claims.Gives (.movhi x) s (s.wrS (.r x.d) (Claims.wide (x.i ++ BitVec.ofNat 16 d)) 1)) ∧
    Claims.Gives (.movi x) s (s.wrS (.r x.d) (Claims.wide x.i) 1) ∧
    Claims.Gives (.ldl x) s (s.wrS (.r x.d) (Claims.wide (s.pre.regs.flow.pc.setWidth (wBits x.w) + 32 * x.i.signExtend (wBits x.w))) 1)
/-- R55, R140, R142-R146, R153: the integer instructions of the scalar slot (LDL.32 by log 33's DESIGN CHOICE). -/
def Obligations.ScalarInteger : Prop := Claims.IntegerForms ∧ Claims.ScalarDivision ∧ Claims.ScalarImmediate

/-- The conditions of R146 and R147 on operands of w bits. -/
def Claims.compares : List ((SCmp → Instr) × ((w : Nat) → BitVec w → BitVec w → Bool)) :=
  [(.cmpeq, fun w (a b : BitVec w) => a == b), (.cmpne, fun w (a b : BitVec w) => a != b), (.cmplt, fun w (a b : BitVec w) => a.slt b), (.cmple, fun w (a b : BitVec w) => a.sle b),
   (.cmpltu, fun w (a b : BitVec w) => a.ult b), (.cmpleu, fun w (a b : BitVec w) => a.ule b)]
def Claims.cond (w c : Nat) (a b : BitVec w) : Bool :=
  [a == b, a != b, a.slt b, a.sle b, a.ult b, a.ule b, b.slt a, b.sle a].getD c false
/-- All ones or all zeros. -/
def Claims.mask64 (b : Bool) : Nat := (if b then BitVec.allOnes 64 else 0).toNat
/-- R146-R148: compares and predicate logic write all 64 bits of Pd, by bound 1. -/
def Obligations.ScalarPredicates : Prop :=
  (∀ e ∈ Claims.compares, ∀ (x : SCmp) (s : State) (a b : Nat), Claims.On x.g s → Claims.Clear s (some (.p x.d)) → s.rdS x.a = .ok a →
    s.rdS x.b = .ok b →
    Claims.Gives (e.1 x) s (s.wrP x.d (Claims.mask64 (e.2 (wBits x.w) (BitVec.ofNat _ a) (BitVec.ofNat _ b))) (2 ^ 64 - 1) 0 1)) ∧
  (∀ (x : SCmpi) (s : State) (a : Nat), Claims.On x.g s → Claims.Clear s (some (.p x.d)) → s.rdS (.r x.a) = .ok a →
    Claims.Gives (.cmpi x) s
      (s.wrP x.d (Claims.mask64 (Claims.cond (wBits x.w) x.c (BitVec.ofNat _ a) (x.i.signExtend _))) (2 ^ 64 - 1) 0 1)) ∧
  (∀ (x : SPred3) (s : State), Claims.On x.g s → Claims.Clear s (some (.p x.d)) →
    let a := BitVec.ofNat 64 (predBits s.pre x.a)
    let b := BitVec.ofNat 64 (predBits s.pre x.b)
    Claims.Gives (.pand x) s (s.wrP x.d (a &&& b).toNat (2 ^ 64 - 1) 0 1) ∧ Claims.Gives (.por x) s (s.wrP x.d (a ||| b).toNat (2 ^ 64 - 1) 0 1) ∧
    Claims.Gives (.pxor x) s (s.wrP x.d (a ^^^ b).toNat (2 ^ 64 - 1) 0 1)) ∧
  (∀ (x : SPred2) (s : State), Claims.On x.g s → Claims.Clear s (some (.p x.d)) →
    let a := BitVec.ofNat 64 (predBits s.pre x.a)
    Claims.Gives (.pnot x) s (s.wrP x.d (~~~a).toNat (2 ^ 64 - 1) 0 1) ∧ Claims.Gives (.pmov x) s (s.wrP x.d a.toNat (2 ^ 64 - 1) 0 1))

/-- Bounds of FP32 and FP64 forms, the exact value, and its flags (Tables 7-8, 7-10; R60, R61). -/
def Claims.float2 : List ((SFlt3 → Instr) × Nat × Nat × (FVal → FVal → Rnd → FVal) × (FVal → FVal → FFlags → FFlags)) :=
  [(.fadd, 4, 5, fun a b r => a.add b r, flagsAdd), (.fsub, 4, 5, fun a b r => a.add b.neg r, fun a b => flagsAdd a b.neg),
   (.fmul, 4, 5, fun a b _ => a.mul b, flagsMul), (.fdiv, 14, 26, fun a b _ => a.div b, flagsDiv)]
/-- R57-R61, R149, R150: floating point: the exact value rounded once to the format, its flags sticky in SSTAT. -/
def Obligations.ScalarFloat : Prop :=
  (∀ e ∈ Claims.float2, ∀ (x : SFlt3) (s : State) (a b : Nat), Claims.On x.g s → Claims.Clear s (sLoc x.d) → s.rdS x.a = .ok a → s.rdS x.b = .ok b →
    Claims.Gives (e.1 x) s (s.fpOut x.d x.f (e.2.2.2.1 (fpRead x.f a) (fpRead x.f b) x.r) x.r (e.2.2.2.2 (fpRead x.f a) (fpRead x.f b))
      (if x.f then e.2.2.1 else e.2.1))) ∧
  (∀ (x : SFlt3) (s : State) (a b d : Nat), Claims.On x.g s → Claims.Clear s (sLoc x.d) → s.rdS x.a = .ok a → s.rdS x.b = .ok b → s.rdD x.d = .ok d →
    Claims.Gives (.fma x) s (s.fpOut x.d x.f (((fpRead x.f a).mul (fpRead x.f b)).add (fpRead x.f d) x.r) x.r
      (flagsFma (fpRead x.f a) (fpRead x.f b) (fpRead x.f d)) (if x.f then 5 else 4))) ∧
  (∀ (x : SFlt2) (s : State) (a : Nat), Claims.On x.g s → Claims.Clear s (sLoc x.d) → s.rdS x.a = .ok a →
    Claims.Gives (.fsqrt x) s (s.fpOut x.d x.f (fpRead x.f a).sqrt x.r (flagsSqrt (fpRead x.f a)) (if x.f then 26 else 14))) ∧
  (∀ (x : SFmin) (s : State) (a b : Nat), Claims.On x.g s → Claims.Clear s (sLoc x.d) → s.rdS x.a = .ok a → s.rdS x.b = .ok b →
    let p := fpRead x.f a
    let q := fpRead x.f b
    let u := s.setSticky (if p.isNan || q.isNan then 16 else 0)
    Claims.Gives (.fmin x) s (u.wrS x.d ((fpF x.f).round (p.min q) .rne) 2) ∧ Claims.Gives (.fmax x) s (u.wrS x.d ((fpF x.f).round (p.max q) .rne) 2)) ∧
  (∀ (x : SFcmp) (s : State) (a b : Nat), Claims.On x.g s → Claims.Clear s (some (.p x.d)) → s.rdS x.a = .ok a → s.rdS x.b = .ok b →
    let p := fpRead x.f a
    let q := fpRead x.f b
    Claims.Gives (.fcmp x) s ((s.setSticky (if (p.isNan || q.isNan) && (x.c.val = 2 ∨ x.c.val = 3) then 16 else 0)).wrP x.d
      (Claims.mask64 (fcond x.c p q)) (2 ^ 64 - 1) 0 2)) ∧
  (∀ (x : SFcvt) (s : State) (a : Nat), Claims.On x.g s → Claims.Clear s (sLoc x.d) → s.rdS x.a = .ok a →
    let r := codeWrite x.t 0 (codeRead x.s 0 a) x.r
    let v := if codeSigned x.t then ((BitVec.ofNat (codeWidth x.t) r.1).signExtend 64).toNat else r.1
    Claims.Gives (.fcvt x) s ((s.setSticky (FFlags.bits r.2)).wrS x.d v 3))

/-! Scalar memory, moves and special registers. -/
/-- The scope an access performs at: package for host memory, at least glen-pair wide for a peer's, else the bundle's (R297, R299). -/
def Claims.reach (s : State) (key : Nat) : Nat := if spaceOf key = 2 then 5 else if 3 ≤ spaceOf key ∧ !isPad key then max s.scope 4 else s.scope
/-- A slot access of n bytes that a scalar instruction issues at a key. -/
def Claims.access (s : State) (kind : AccKind) (n A key : Nat) (uc : Bool) : Access :=
  { Access.blank kind n with
    key := key, va := A, scope := Claims.reach s key, due := s.now + paddedTime (coreOf s.me) key, part := s.pre.part, uc := uc }
/-- R22, R304: an access elsewhere joins the context's list with its number and its bundle's, a load before the stores and atomics of its
bundle; a core with 768 of them outstanding stalls the bundle (the number is log 14's DESIGN CHOICE). -/
def Claims.Queued : Prop :=
  ∀ (s : State) (k : Nat) (a : Access), a.kind ≠ .done →
    let y := { a with seq := (s.ctx k).seq, bun := s.pre.seq }
    let t := s.queueAccess k a
    (∀ b, b ∈ (t.ctx k).accs ↔ b ∈ (s.ctx k).accs ∨ b = y) ∧ (t.ctx k).seq = (s.ctx k).seq + 1 ∧
    (a.isLoad = false → (t.ctx k).accs = (s.ctx k).accs ++ [y]) ∧
    (a.isLoad = true → ∃ l r, (t.ctx k).accs = l ++ [y] ++ r ∧ (∀ b ∈ l, b.seq < s.pre.seq ∨ b.isLoad = true) ∧
      ∀ b ∈ r, s.pre.seq ≤ b.seq ∧ b.isLoad = false) ∧
    (a.own = false → s.outstanding (coreOf k) < 768 → t.opened = s.opened) ∧
    (a.own = false → 768 ≤ s.outstanding (coreOf k) → t.opened = (s.holdSlot 2 false none).opened) ∧ (a.own = true → t.opened = s.opened)
/-- R303, R304, R371: a load waits in the list; but one that a store held in the open segment overlaps acts at once, with that store's
bytes over memory's, and so does one that a store or atomic of its own bundle acted before, which reads memory as it stood before them
(DEDUCED, log 14). An atomic of an open segment acts at once. -/
def Claims.LoadsWait : Prop :=
  (∀ (s : State) (k : Nat) (a : Access), a.isLoad = true →
    let q := (s.ctx k).seq
    let t := s.queueAccess k a
    let buf := match t.pre.seg with | some g => g.buf | none => []
    let acted := match t.opened with | some o => o.acted | none => false
    (acted = false → (∀ b ∈ buf, b.overlaps a = false) → s.queueLoad k a = t) ∧
    ((acted = true ∨ ∃ b ∈ buf, b.overlaps a = true) →
      ∀ b ∈ ((s.queueLoad k a).ctx k).accs, b.seq = q → b.kind = .done) ∧
    (acted = false → (∃ b ∈ buf, b.overlaps a = true) → (s.ctx k).accs = [] →
      let r := t.act k { a with kind := .load }
      let v := overlay buf a.key a.n r.1
      s.queueLoad k a = r.2.modCtx k fun c => { c with accs := c.accs.map fun z => if z.seq = q then
        { z with kind := .done, val := if a.kind = .loadS then ofSigned a.width (toSigned (8 * a.n) v) else v } else z }) ∧
    (acted = true → (s.ctx k).accs = [] →
      let r := t.act k { a with kind := .load }
      let v := overlay buf a.key a.n (r.2.unacted.getN a.key a.n)
      s.queueLoad k a = r.2.modCtx k fun c => { c with accs := c.accs.map fun z => if z.seq = q then
        { z with kind := .done, val := if a.kind = .loadS then ofSigned a.width (toSigned (8 * a.n) v) else v } else z })) ∧
  (∀ (s : State) (k : Nat) (a : Access) (g : Seg), (s.ctx k).seg = some g → a.isLoad = false →
    ∀ b ∈ ((s.remoteAtomic k a).ctx k).accs, b.seq = (s.ctx k).seq → b.kind = .done)
/-- What a load leaves in 64 bits of the n bytes v: zero-extended, or sign-extended by LDS (R151). -/
def Claims.extend (signed : Bool) (n v : Nat) : Nat := if signed then ((BitVec.ofNat (8 * n) v).signExtend 64).toNat else v
/-- LD and LDS, with whether they extend the sign. -/
def Claims.loads : List ((SMem → Instr) × Bool) := [(.ld, false), (.lds, true)]
def Claims.loadKind (signed : Bool) : AccKind := if signed then .loadS else .load
/-- R151, R303, R305, R306, Table 16-1: a load of the own scratchpad has the bundle's memory and lands by its padded time; any other, and
one of a context that runs exactly (R342, R390), joins the context's list (`Claims.LoadsWait`). -/
def Claims.LoadForms : Prop :=
  ∀ e ∈ Claims.loads, ∀ (x : SMem) (s u : State) (a b key : Nat) (uc : Bool), Claims.On x.g s → s.rdS x.a = .ok a → s.rdS x.b = .ok b →
    Claims.Clear s (sLoc x.d) →
    let A := (a + b) % 2 ^ 64
    let n := 2 ^ x.z.val
    let y := { Claims.access s (Claims.loadKind e.2) n A key uc with dst := sLoc x.d }
    let t := u.note 5 8 A
    A % n = 0 → s.locate s.me A .read = .ok key uc u → u.poisoned key n = false →
    (key / spaceSize = padSpace (coreOf s.me) → (t.ctx s.me).exact = false →
      exec (e.1 x) s = .next (t.queueDone s.me y (Claims.extend e.2 n (t.loadMem.getN key n)))) ∧
    (key / spaceSize = padSpace (coreOf s.me) → (t.ctx s.me).exact = true → exec (e.1 x) s = .next (t.queueLoad s.me { y with own := true })) ∧
    (key / spaceSize ≠ padSpace (coreOf s.me) → exec (e.1 x) s = .next (t.queueLoad s.me y))
/-- R22, R151, R303-R306, R371: loads, and how an access that does not act at its issue waits. Log 14's are the 768 requests of a core (DESIGN
CHOICE) and that a load of a held store, or behind an acted one of its bundle, acts at once (DEDUCED). -/
def Obligations.ScalarLoads : Prop := Claims.LoadForms ∧ Claims.LoadsWait ∧ Claims.Queued
/-- R130: a segment of fewer than 512 entries logs what n bytes of the own scratchpad hold, once older stores to them have acted. -/
def Claims.logged (s : State) (k key n : Nat) (g : Seg) : State :=
  let r := s.settleFor k (s.ctx k).accs { Access.blank .store n with key := key }
  r.modCtx k fun c => { c with seg := some { g with logged := g.logged + 1, log := (key, n, r.getN key n) :: g.log } }
/-- R151, R130, R128, R304: a store to the own scratchpad takes effect with its bundle, after the bundle's loads, or, of a context that runs
exactly, when it is due (R342), and in an open segment enters the log of old values; one elsewhere waits in the context's list, or in the
segment's buffer. -/
def Obligations.ScalarStores : Prop :=
  ∀ (x : SMem) (s u : State) (a b v key : Nat) (uc : Bool), Claims.On x.g s → s.rdS x.a = .ok a → s.rdS x.b = .ok b → s.rdD x.d = .ok v →
    let A := (a + b) % 2 ^ 64
    let n := 2 ^ x.z.val
    let w := v % 2 ^ (8 * n)
    let t := (u.note 4 8 A).note 4 n w
    let y := { Claims.access s .store n A key uc with val := w }
    let does (r : State) :=
      let r := r.ownFirst s.me true
      if (r.ctx s.me).exact then r.queueAccess s.me { y with own := true } else ((r.putN key n w).clearPoison key n).queueDone s.me y 0
    A % n = 0 → s.locate s.me A .write = .ok key uc u →
    (key / spaceSize = padSpace (coreOf s.me) →
      ((t.ctx s.me).seg = none → exec (.st x) s = .next (does t)) ∧
      (∀ g, (t.ctx s.me).seg = some g → g.logged < 512 → exec (.st x) s = .next (does (Claims.logged t s.me key n g))) ∧
      (∀ g, (t.ctx s.me).seg = some g → 512 ≤ g.logged → exec (.st x) s = .next (s.raise 2 17 0 none))) ∧
    (key / spaceSize ≠ padSpace (coreOf s.me) →
      ((t.ctx s.me).seg = none → exec (.st x) s = .next (t.queueAccess s.me y)) ∧
      (∀ g, (t.ctx s.me).seg = some g → g.used < 256 →
        exec (.st x) s = .next (t.modCtx s.me fun c => { c with seq := c.seq + 1, seg := some { g with
          buf := g.buf ++ [{ y with seq := c.seq, bun := s.pre.seq }], used := g.used + 1 } })) ∧
      (∀ g, (t.ctx s.me).seg = some g → 256 ≤ g.used → exec (.st x) s = .next (s.raise 2 17 0 none)))

/-- Atomics: the layout's fields and what the location holds after, of the old value, Sb and Sd (Table 7-11). -/
def Claims.atomics : List ((SAlu → Instr) × AtomOp × ((w : Nat) → BitVec w → BitVec w → BitVec w → BitVec w)) :=
  [(.aadd, .add, fun w (o b _d : BitVec w) => o + b), (.axchg, .xchg, fun w (_o b _d : BitVec w) => b),
   (.acas, .cas, fun w (o b d : BitVec w) => if o = d then b else o), (.aand, .and, fun w (o b _d : BitVec w) => o &&& b),
   (.aor, .or, fun w (o b _d : BitVec w) => o ||| b)] ++
  [(fun x => .amin ⟨x.g, x.d, x.a, x.b, false, x.w⟩, .min, fun w (o b _d : BitVec w) => if b.slt o then b else o),
   (fun x => .amin ⟨x.g, x.d, x.a, x.b, true, x.w⟩, .minu, fun w (o b _d : BitVec w) => if b < o then b else o),
   (fun x => .amax ⟨x.g, x.d, x.a, x.b, false, x.w⟩, .max, fun w (o b _d : BitVec w) => if o.slt b then b else o),
   (fun x => .amax ⟨x.g, x.d, x.a, x.b, true, x.w⟩, .maxu, fun w (o b _d : BitVec w) => if o < b then b else o),
   (.afadd, .fadd, fun w (o b _d : BitVec w) =>
     let F := if w = 64 then fp64 else fp32
     BitVec.ofNat w (F.round ((F.read o.toNat).add (F.read b.toNat) .rne) .rne))]
/-- The 64 bits of Sd that the old value of an atomic fills (R140). -/
def Claims.oldBits (op : AtomOp) (w old : Nat) : Nat := if op = .fadd then old else ((BitVec.ofNat w old).signExtend 64).toNat
/-- R154, R140, R130, R304, R371: an atomic on the own scratchpad reads and writes its location in one step, after its bundle's loads and
earlier atomics, and returns the old value, or of a context that runs exactly does so when it is due (R342); one elsewhere waits to
perform, and in an open segment performs at once, after the stores that the segment holds. -/
def Obligations.ScalarAtomics : Prop :=
  ∀ e ∈ Claims.atomics, ∀ (x : SAlu) (s u : State) (a b d key : Nat) (uc : Bool), Claims.On x.g s → s.rdS x.a = .ok a → s.rdS x.b = .ok b →
    (e.2.1 = .cas → s.rdD x.d = .ok d) → (e.2.1 ≠ .cas → d = 0) → Claims.Clear s (sLoc x.d) →
    let W := wBits x.w
    let n := W / 8
    let t := (u.note 4 8 a).note 4 n (b % 2 ^ W)
    let y := { Claims.access s (.atomic e.2.1) n a key uc with dst := sLoc x.d, val := b % 2 ^ W, cmp := d % 2 ^ W }
    a % n = 0 → s.locate s.me a .write = .ok key uc u → spaceOf key ≠ 2 → (e.2.1 = .fadd → u.inReduction key n = false) → u.poisoned key n = false →
    (key / spaceSize = padSpace (coreOf s.me) →
      let new (r : State) := (e.2.2 W (BitVec.ofNat W (r.getN key n)) (BitVec.ofNat W b) (BitVec.ofNat W d)).toNat
      let acts (r : State) := (r.putN key n (new r)).queueDone s.me y (Claims.oldBits e.2.1 W (r.getN key n))
      let does (r : State) :=
        let r := r.ownFirst s.me true
        if (r.ctx s.me).exact then r.queueAccess s.me { y with own := true } else acts (r.atomsFirst s.me)
      ((t.ctx s.me).seg = none → exec (e.1 x) s = .next (does t)) ∧
      (∀ g, (t.ctx s.me).seg = some g → g.logged < 512 → exec (e.1 x) s = .next (does (Claims.logged t s.me key n g))) ∧
      (∀ g, (t.ctx s.me).seg = some g → 512 ≤ g.logged → exec (e.1 x) s = .next (s.raise 2 17 0 none))) ∧
    (key / spaceSize ≠ padSpace (coreOf s.me) →
      ((t.ctx s.me).seg = none → exec (e.1 x) s = .next (t.queueAccess s.me y)) ∧
      (∀ g, ((t.performBuf s.me).ctx s.me).seg = some g → g.used < 256 →
        exec (e.1 x) s = .next (((t.performBuf s.me).modCtx s.me fun c => { c with seg := some { g with
          used := g.used + 1, atoms := g.atoms + 1, irrevocable := true } }).remoteAtomic s.me y)) ∧
      (∀ g, ((t.performBuf s.me).ctx s.me).seg = some g → 256 ≤ g.used → exec (e.1 x) s = .next (s.raise 2 17 0 none)))
/-- R151, R154, R155, R292, R106: an access that is not aligned traps MISALIGNED, one that its address's checks refuse traps their cause, an
atomic on host memory traps UNMAPPED, and an AFADD on a location of an open DET reduction traps ORDERED_CONFLICT: at the scalar slot, with the
address as value (for ORDERED_CONFLICT the model's DESIGN CHOICE, log 33). -/
def Obligations.ScalarAccessTraps : Prop :=
  (∀ (i : Instr) (s : State) (x : SMem) (a b : Nat), i ∈ [.ld x, .lds x, .st x] → Claims.On x.g s → s.rdS x.a = .ok a → s.rdS x.b = .ok b →
    (i = .st x → ∃ v, s.rdD x.d = .ok v) →
    let A := (a + b) % 2 ^ 64
    (A % 2 ^ x.z.val ≠ 0 → exec i s = .next (s.raise 2 5 A none)) ∧
    (A % 2 ^ x.z.val = 0 → ∀ c, s.locate s.me A (if i = .st x then .write else .read) = .fault c → exec i s = .next (s.raise 2 c A none))) ∧
  (∀ e ∈ Claims.atomics, ∀ (x : SAlu) (s : State) (a b : Nat), Claims.On x.g s → s.rdS x.a = .ok a → s.rdS x.b = .ok b →
    (e.2.1 = .cas → ∃ v, s.rdD x.d = .ok v) →
    (a % (wBits x.w / 8) ≠ 0 → exec (e.1 x) s = .next (s.raise 2 5 a none)) ∧
    (a % (wBits x.w / 8) = 0 → ∀ c, s.locate s.me a .write = .fault c → exec (e.1 x) s = .next (s.raise 2 c a none)) ∧
    (a % (wBits x.w / 8) = 0 → ∀ key uc u, s.locate s.me a .write = .ok key uc u → spaceOf key = 2 → exec (e.1 x) s = .next (s.raise 2 6 a none)) ∧
    (e.2.1 = .fadd → a % (wBits x.w / 8) = 0 → ∀ key uc u, s.locate s.me a .write = .ok key uc u → spaceOf key ≠ 2 →
      u.inReduction key (wBits x.w / 8) = true → exec (e.1 x) s = .next (s.raise 2 19 a none)))

/-- R153: INVL takes the lines that overlap its range out of the scalar L1 (every line for a range of 65,536 bytes or more), whatever its pages permit; FLL1 every
line, once the context's earlier stores have performed. -/
def Claims.ScalarCache : Prop :=
  (∀ (x : SInv) (s : State) (a n : Nat), Claims.On x.g s → s.rdS x.a = .ok a → s.rdS x.b = .ok n → ∃ t, exec (.invl x) s = .next t ∧
    (65536 ≤ n → (t.core (coreOf s.me)).l1 = []) ∧ (n = 0 → (t.core (coreOf s.me)).l1 = (s.core (coreOf s.me)).l1) ∧
    (0 < n → n < 65536 → a / 65536 = (a + n - 1) / 65536 →
      (∀ key uc u, s.locate s.me a .probe = .ok key uc u → ∀ l, l ∈ (t.core (coreOf s.me)).l1 ↔
        l ∈ (s.core (coreOf s.me)).l1 ∧ (l.part ≠ s.pre.part ∨ key + n ≤ l.key * 64 ∨ l.key * 64 + 64 ≤ key)) ∧
      ((∀ key uc u, s.locate s.me a .probe ≠ .ok key uc u) → (t.core (coreOf s.me)).l1 = (s.core (coreOf s.me)).l1)) ∧
    t = { s with cores := t.cores } ∧ t.core (coreOf s.me) = { s.core (coreOf s.me) with l1 := (t.core (coreOf s.me)).l1 } ∧
    ∀ c, c ≠ coreOf s.me → t.core c = s.core c) ∧
  (∀ (x : SNone) (s : State), Claims.On x.g s →
    (s.pre.scalarStores = false → exec (.fll1 x) s = .next (s.modCore (coreOf s.me) fun c => { c with l1 := [] })) ∧
    (s.pre.scalarStores = true → exec (.fll1 x) s = .next (s.holdSlot 2 false none)))

/-- R156, R157: moves of the scalar slot to and from the main file and to other slots' registers. That an XFER to slot m takes its lane bit, without
effect, is the model's DESIGN CHOICE (log 33). -/
def Claims.MoveForms : Prop :=
  (∀ (x : SGetm) (s : State) (m : Nat), Claims.On x.g s → Claims.Clear s (sLoc x.d) → s.rdM x.j = .ok m →
    Claims.Gives (.scalarGetm x) s (s.wrS x.d (m / 2 ^ (64 * x.k.val) % 2 ^ 64) 2)) ∧
  (∀ (x : SPutm) (s : State) (a : Nat), Claims.On x.g s → Claims.Clear s (some (.m x.j)) → s.rdS x.a = .ok a →
    Claims.Gives (.scalarPutm x) s (s.wr (some (.m x.j)) (a * 2 ^ (64 * x.k.val)) ((2 ^ 64 - 1) * 2 ^ (64 * x.k.val)) 0 2)) ∧
  (∀ (x : SXfer) (s : State) (a : Nat) (u : VUnit), Claims.On x.g s → x.wf = true → x.s.val = u.slot → Claims.Clear s (some (vReg u x.d)) → s.rdS x.a = .ok a →
    (x.l = false → Claims.Gives (.scalarXfer x) s (s.wr (some (vReg u x.d)) (a % 2 ^ 64) (2 ^ 64 - 1) 0 3)) ∧
    (x.l = true → Claims.Gives (.scalarXfer x) s (s.wr (some (vReg u x.d)) (vlanes fun _ => a) (2 ^ 2048 - 1) 0 3))) ∧
  (∀ (x : SXfer) (s : State) (a : Nat), Claims.On x.g s → x.s.val = 5 → Claims.Clear s (some (.md (Fin.ofNat 8 x.d))) → s.rdS x.a = .ok a →
    Claims.Gives (.scalarXfer x) s (s.wr (some (.md (Fin.ofNat 8 x.d))) (a % 2 ^ 64) (2 ^ 64 - 1) 0 3))
/-- R153, R156, R157: moves of the scalar slot, and the forms that empty its L1. -/
def Obligations.ScalarMoves : Prop := Claims.ScalarCache ∧ Claims.MoveForms

/-- What a write of v leaves in the special registers that MTS may write (Tables 10-8 to 10-10). -/
def Claims.stored (n : Nat) (v : BitVec 64) : BitVec 64 :=
  if n = 10 ∨ n = 14 ∨ n = 15 then v &&& ~~~0x1F
  else if n = 11 then v &&& ~~~0x1FF
  else if n = 12 ∨ n = 13 then v &&& 0x1FFFF
  else if n = 18 ∨ n = 19 then v &&& 0xFF
  else if n = 20 ∨ n = 21 then v &&& ~~~0x1C
  else if n = 22 then v &&& 0x1FF
  else if n = 26 ∨ n = 30 ∨ 32 ≤ n then v &&& 0xFFFFFFFF
  else v
/-- R158, R280-R283: MFS reads the special register that it names as it stood before the bundle; MTS writes it at once, reserved bits
dropped, and every other special register but a reader of the same place keeps its value; a COUNT of 3, an EGRANT from a mesh context and an
illegal format trap; a stream context's TOL stays 0. -/
def Obligations.SpecialRegisters : Prop :=
  (∀ (x : SMfs) (s : State), Claims.On x.g s → Claims.Clear s (sLoc x.d) → Claims.Gives (.mfs x) s (s.wrS x.d (s.prior.special s.me x.n) 1)) ∧
  (∀ (x : SMts) (s : State) (v : Nat), Claims.On x.g s → x.wf = true → s.rdS x.a = .ok v → v < 2 ^ 64 →
    ((x.n.val = 20 ∨ x.n.val = 21) → v % 4 = 3 → exec (.mts x) s = .next (s.raise 2 2 0 none)) ∧
    (x.n.val = 26 → isMesh s.me = true → exec (.mts x) s = .next (s.raise 2 2 0 none)) ∧
    (32 ≤ x.n.val → fmtLegal (BitVec.ofNat 32 v) = false → exec (.mts x) s = .next (s.raise 2 4 0 none)) ∧
    (x.n.val = 30 → isStream s.me = true → exec (.mts x) s = .next s) ∧
    (((x.n.val = 20 ∨ x.n.val = 21) → v % 4 ≠ 3) → (x.n.val = 26 → isMesh s.me = false) → (x.n.val = 30 → isStream s.me = false) →
      (32 ≤ x.n.val → fmtLegal (BitVec.ofNat 32 v) = true) →
      ∃ t, exec (.mts x) s = .next t ∧ t.special s.me x.n = (Claims.stored x.n (BitVec.ofNat 64 v)).toNat ∧
        (∀ m : Fin 40, m ≠ x.n → t.special s.me m = s.special s.me m) ∧
        t.mem = s.mem ∧ (t.ctx s.me).regs.dat = (s.ctx s.me).regs.dat ∧ (t.ctx s.me).regs.flow = (s.ctx s.me).regs.flow ∧
        (∀ j, j ≠ s.me → t.ctx j = s.ctx j)))

/-! Privileged forms. -/
/-- The guard of a privileged form (Table 10-1). -/
def Claims.privileged (i : Instr) : Option Guard :=
  match i with
  | .tlbinvPage x => some x.g | .tlbinvRange x => some x.g | .tlbinvAll x => some x.g | .tlbsync x => some x.g
  | .ctxsave x => some x.g | .ctxload x => some x.g | .ctxkill x => some x.g
  | .partsetCreate x => some x.g | .partsetUpdate x => some x.g | .partsetStop x => some x.g | .partsetDestroy x => some x.g | .wayset x => some x.g
  | .zeroMem x => some x.g | .zeroBanks x => some x.g | .zeroCarr x => some x.g | .zeroL2 x => some x.g
  | .lease x => some x.g | .unlease x => some x.g | .score x => some x.g | .scoreAdd x => some x.g | .retire x => some x.g | .retireForce x => some x.g
  | .fenceq x => some x.g | .appeal x => some x.g | .appealBar x => some x.g | .meter x => some x.g
  | .signqUsage x => some x.g | .signqRetired x => some x.g | .signqQuote x => some x.g
  | .powqPkg x => some x.g | .powqCore x => some x.g | .powqGrant x => some x.g | .injOff x => some x.g | .injOn x => some x.g | .injPoison x => some x.g
  | _ => none
/-- R101, R255, R370: a privileged form traps ILLEGAL_OP in a mesh context, and SEG_ORDER in an open segment. -/
def Claims.PrivilegedMode : Prop :=
  ∀ (i : Instr) (g : Guard) (s : State), Claims.privileged i = some g → Claims.On g s →
    (isMesh s.me = true → exec i s = .next (s.raise 2 2 0 none)) ∧
    (isMesh s.me = false → s.pre.seg.isSome = true → exec i s = .next (s.raise 2 18 0 none))

/-- A privileged form takes effect: its guard is on, the issuer is a stream or management context, no segment is open, and no interlocked
result for its Sd has still to land. -/
abbrev Claims.Priv (g : Guard) (d : Dst) (s : State) : Prop :=
  Claims.On g s ∧ isMesh s.me = false ∧ s.pre.seg = none ∧ Claims.Clear s (sLoc d)
/-- The value v in Sd, by 4 sequencer cycles (R257). -/
def Claims.Says (i : Instr) (s t : State) (d : Dst) (v : Nat) : Prop := Claims.Gives i s (t.wrS d v 4)
/-- The status codes of Table 10-2 in the order of their numbers. -/
def Claims.okay : Nat := 0
def Claims.busy : Nat := 1
def Claims.denied : Nat := 2
def Claims.badArg : Nat := 3
def Claims.badState : Nat := 4
/-- R255, Table 10-1: a form that the management context alone may issue writes DENIED in a stream context, SCORE.ADD all ones, and has no
other effect. -/
def Claims.PrivilegedDenied : Prop :=
  ∀ (s : State), isMgmt s.me = false →
    (∀ (x : PDAn) (a : Nat), Claims.Priv x.g x.d s → s.rdS x.a = .ok a →
      Claims.Says (.partsetCreate x) s s x.d Claims.denied ∧ Claims.Says (.partsetUpdate x) s s x.d Claims.denied ∧
      Claims.Says (.partsetStop x) s s x.d Claims.denied ∧ Claims.Says (.partsetDestroy x) s s x.d Claims.denied ∧
      Claims.Says (.lease x) s s x.d Claims.denied ∧ Claims.Says (.appeal x) s s x.d Claims.denied ∧ Claims.Says (.appealBar x) s s x.d Claims.denied) ∧
    (∀ (x : PDA) (a : Nat), Claims.Priv x.g x.d s → s.rdS x.a = .ok a → Claims.Says (.unlease x) s s x.d Claims.denied) ∧
    (∀ (x : PDAB) (a b : Nat), Claims.Priv x.g x.d s → s.rdS x.a = .ok a → s.rdS x.b = .ok b →
      Claims.Says (.wayset x) s s x.d Claims.denied ∧ Claims.Says (.powqGrant x) s s x.d Claims.denied ∧
      Claims.Says (.scoreAdd x) s s x.d (2 ^ 64 - 1)) ∧
    (∀ (x : PDABn) (a b : Nat), Claims.Priv x.g x.d s → s.rdS x.a = .ok a → s.rdS x.b = .ok b →
      Claims.Says (.retire x) s s x.d Claims.denied ∧ Claims.Says (.retireForce x) s s x.d Claims.denied)
/-- R101, R255, R370, Table 10-1: where a privileged form traps, and where it is denied. -/
def Obligations.PrivilegedTraps : Prop := Claims.PrivilegedMode ∧ Claims.PrivilegedDenied

/-- R262, R263: TLBINV of a partition that the issuer may act on puts the removal under way, but of an empty range nothing; TLBSYNC stalls
while a removal of the issuer's is under way. -/
def Claims.TranslationForms : Prop :=
  (∀ (s : State) (g : Guard) (d : Dst) (a b : Nat) (p q : Src), Claims.Priv g d s → s.rdS p = .ok a → s.rdS q = .ok b → a < 2 ^ 64 →
    let part := bitsOf a 57 6
    let put (base n : Nat) : State := { s with dying := s.dying ++ [(s.me, part, base, n, s.now + 65536)] }
    (2 ^ 63 ≤ a → Claims.Says (.tlbinvPage ⟨g, d, p⟩) s s d Claims.badArg ∧ Claims.Says (.tlbinvRange ⟨g, d, p, q⟩) s s d Claims.badArg ∧
      Claims.Says (.tlbinvAll ⟨g, d, p⟩) s s d Claims.badArg) ∧
    (a < 2 ^ 63 → isMgmt s.me = false → part ≠ s.pre.part → Claims.Says (.tlbinvPage ⟨g, d, p⟩) s s d Claims.denied ∧
      Claims.Says (.tlbinvRange ⟨g, d, p, q⟩) s s d Claims.denied ∧ Claims.Says (.tlbinvAll ⟨g, d, p⟩) s s d Claims.denied) ∧
    (a < 2 ^ 63 → (isMgmt s.me = true ∨ part = s.pre.part) → Claims.Says (.tlbinvPage ⟨g, d, p⟩) s (put (a % 2 ^ 57) 1) d Claims.okay ∧
      Claims.Says (.tlbinvRange ⟨g, d, p, q⟩) s (if b = 0 then s else put (a % 2 ^ 57) b) d Claims.okay ∧ Claims.Says (.tlbinvAll ⟨g, d, p⟩) s (put 0 (2 ^ 57)) d Claims.okay)) ∧
  (∀ (x : PD) (s : State), Claims.Priv x.g x.d s →
    ((∀ y ∈ s.dying, y.1 ≠ s.me) → Claims.Says (.tlbsync x) s s x.d Claims.okay) ∧
    ((∃ y ∈ s.dying, y.1 = s.me) → exec (.tlbsync x) s = .next (s.holdSlot 2 false none)))

/-- R272, R274, R276, R278: the forms that report a value write it, or all ones for an argument that names nothing they may report. That POWQ.PKG with
an operand other than 0 is refused is DEDUCED (log 16). -/
def Obligations.PrivilegedQueries : Prop :=
  (∀ (x : PDA) (s : State) (u : Nat), Claims.Priv x.g x.d s → s.rdS x.a = .ok u →
    (unitOk u = true → Claims.Says (.score x) s s x.d ((s.unit u).score % 65536 + s.unitState u * 65536)) ∧
    (unitOk u = false → Claims.Says (.score x) s s x.d (2 ^ 64 - 1)) ∧
    (unitOk u = true → u < 256 → Claims.Says (.fenceq x) s s x.d (s.fenceView u)) ∧
    ((unitOk u = false ∨ 256 ≤ u) → Claims.Says (.fenceq x) s s x.d (2 ^ 64 - 1)) ∧
    (handle u = none → Claims.Says (.powqCore x) s s x.d (2 ^ 64 - 1)) ∧
    (∀ k, handle u = some k →
      ((isMgmt s.me = true ∨ ∃ n, n < ctxCount (coreOf k) ∧ (s.part s.pre.part).grants (keyOf (coreOf k) n) = true) →
        Claims.Says (.powqCore x) s s x.d (s.coreGrant (coreOf k) % 2 ^ 32 + min (s.chargeNow (coreOf k)) (2 ^ 32 - 1) * 2 ^ 32)) ∧
      (isMgmt s.me = false → (∀ n, n < ctxCount (coreOf k) → (s.part s.pre.part).grants (keyOf (coreOf k) n) = false) →
        Claims.Says (.powqCore x) s s x.d (2 ^ 64 - 1)))) ∧
  (∀ (x : PDAB) (s : State) (p m : Nat), Claims.Priv x.g x.d s → s.rdS x.a = .ok p → s.rdS x.b = .ok m →
    (p < 64 → meterIndex m = true → s.mine p = true → (s.part p).exist = true → Claims.Says (.meter x) s s x.d (Tbl.getD (s.part p).meters m 0)) ∧
    ((64 ≤ p ∨ meterIndex m = false ∨ s.mine p = false ∨ (s.part p).exist = false) → Claims.Says (.meter x) s s x.d (2 ^ 64 - 1))) ∧
  (∀ (x : PDAB) (s : State) (a b : Nat), Claims.Priv x.g x.d s → s.rdS x.a = .ok a → s.rdS x.b = .ok b →
    (a = 0 ∧ b = 0 → Claims.Says (.powqPkg x) s s x.d
      (s.packageBudget % 2 ^ 32 + s.power.seq.getD 0 % 65536 * 2 ^ 32 + min s.leaseLeft 32767 * 2 ^ 48 + (if s.power.atFloor then 2 ^ 63 else 0))) ∧
    (a ≠ 0 ∨ b ≠ 0 → Claims.Says (.powqPkg x) s s x.d (2 ^ 64 - 1)))

/-- R266, R269, R271-R273, R278, R279: the forms that end at their bundle. That INJ.OFF and INJ.ON with Sb other than 0 write BAD_ARG, and that
SCORE.ADD is the management context's alone, is DEDUCED (log 16). -/
def Claims.SyncForms : Prop :=
  (∀ (x : PDAB) (s : State) (a b k : Nat), Claims.Priv x.g x.d s → s.rdS x.a = .ok a → s.rdS x.b = .ok b →
    (handle a = some k → s.mineCtx k = true → (s.ctx k).status ≠ .free →
      Claims.Says (.ctxkill x) s (((s.failOps k).killCtx k (b % 65536)).modCtx k fun c => { c with cmds := [], saving := false }) x.d Claims.okay) ∧
    (handle a = some k → s.mineCtx k = true → (s.ctx k).status = .free →
      (s.opOn k = true → Claims.Says (.ctxkill x) s (s.failOps k) x.d Claims.okay) ∧ (s.opOn k = false → Claims.Says (.ctxkill x) s s x.d Claims.badState)) ∧
    (handle a = some k → s.mineCtx k = false → Claims.Says (.ctxkill x) s s x.d Claims.denied) ∧
    (isMgmt s.me = true → a < 64 → b < 65536 → s.locked a = false → (s.part a).exist = true →
      Claims.Says (.wayset x) s (s.modPart a fun y => { y with ways := BitVec.ofNat 16 b }) x.d Claims.okay) ∧
    (isMgmt s.me = true → unitOk a = true →
      let t := (s.addScore a (b % 65536)).settleScores
      Claims.Says (.scoreAdd x) s t x.d ((t.unit a).score % 65536 + t.unitState a * 65536)) ∧
    (isMgmt s.me = true → handle a = some k → (s.ctx k).status ≠ .free → ((s.ctx k).regs.sys.dmode = true → (s.ctx k).ctl.emax ≤ b % 2 ^ 32) →
      Claims.Says (.powqGrant x) s (s.modCtx k fun c => c.modSys fun y => { y with egrant := BitVec.ofNat 32 b }) x.d Claims.okay) ∧
    (a < 64 → s.mine a = true → (isMgmt s.me = false → (s.part a).inject = true) → (isMgmt s.me = true → s.locked a = false) → (s.part a).exist = true →
      (b = 0 → Claims.Says (.injOff x) s (s.modPart a fun y => { y with minj := false }) x.d Claims.okay ∧
        Claims.Says (.injOn x) s (s.modPart a fun y => { y with minj := true }) x.d Claims.okay) ∧
      (b ≠ 0 → Claims.Says (.injOff x) s s x.d Claims.badArg ∧ Claims.Says (.injOn x) s s x.d Claims.badArg) ∧
      (∀ e pk base size, 0x1000000 ≤ b → b < 2 ^ 57 → walkFrom s.mem b levels (s.part a).root = .leaf e pk base size →
        s.physOk e (pteAddr e + (b - base)) = true → Claims.Says (.injPoison x) s
          { s with poison := insertSorted (mkey (leafSpace e) (pteAddr e + (b - base)) / 64) s.poison } x.d Claims.okay))) ∧
  (∀ (x : PDA) (s : State) (u : Nat), Claims.Priv x.g x.d s → s.rdS x.a = .ok u → isMgmt s.me = true → unitOk u = true →
    ((s.unit u).lease = false → Claims.Says (.unlease x) s s x.d Claims.badState) ∧
    ((s.unit u).lease = true → (s.unit u).out = true → Claims.Says (.unlease x) s (s.modUnit u fun y => { y with stop := true }) x.d Claims.okay) ∧
    ((s.unit u).lease = true → (s.unit u).out = false → Claims.Says (.unlease x) s (s.endLease u 4) x.d Claims.okay))
/-- R262, R263, R266, R269, R271-R273, R278, R279: the privileged forms that end at their bundle. -/
def Obligations.PrivilegedSync : Prop := Claims.TranslationForms ∧ Claims.SyncForms

/-- The next ticket of the issuer in Sd<47:8>, the operation in the machine's list (R257, R258). -/
def Claims.Accepts (i : Instr) (s t : State) (d : Dst) (op : SysOp) : Prop :=
  let n := s.pre.tickets + 1
  Claims.Says i s { (t.modMe fun c => { c with tickets := n }) with ops := t.ops ++ [{ op with issuer := some t.me, life := s.pre.life, ticket := n }] } d (n % 2 ^ 40 * 256)
/-- A bound in ms. R268 and R382 give 50 ms for CREATE; that ZERO, SIGNQ, STOP and DESTROY have the same is the model's DESIGN CHOICE (log 36). -/
def Claims.ms (s : State) (n : Nat) : Nat := s.now + n * Config.perMs
/-- R257, R258, R264-R275, R277, R355: the asynchronous forms, accepted, with the bounds of the rules or of log 36; CTXSAVE of a context of a deterministic node asks for the node's others too. -/
def Claims.AsyncForms : Prop :=
  (∀ (x : PDAn) (s : State) (a : Nat), Claims.Priv x.g x.d s → s.rdS x.a = .ok a →
    (∀ k, handle a = some k → s.mineCtx k = true → s.opOn k = false → (s.ctx k).status ≠ .free →
      Claims.Accepts (.ctxsave x) s ((s.restOf k).foldl (fun s j => s.askSave j 0) (s.modCtx k fun c => { c with saving := true, stopAt := s.now })) x.d (mkOp .save 102 x.n k 0 0 (s.now + (s.ctx k).ctl.drain + 2 ^ 22) [])) ∧
    (isMgmt s.me = true → unitOk a = true → s.leasable a = true → (s.unit a).retired = false → (s.unit a).lease = false →
      Claims.Accepts (.lease x) s (s.modUnit a fun y => { y with lease := true, out := false, stop := false, last := s.before + s.now }) x.d
        (mkOp .lease 108 x.n a 0 0 (s.now + 7 * Config.perDay) [])) ∧
    (isMgmt s.me = true → a < 256 → (s.core a).health.fenced = true → (s.unit a).retired = false →
      ((∀ o ∈ s.ops, o.kind ≠ .appeal ∨ o.target ≠ a) →
        Claims.Accepts (.appeal x) s (s.modCore a fun c => { c with health := { c.health with barred := false, testing := some s.now } }) x.d
          (mkOp .appeal 113 x.n a 0 0 (s.now + 2 ^ 24) [])) ∧
      (let n := s.pre.tickets + 1
       Claims.Says (.appealBar x) s (((s.modCore a fun c => { c with health := { c.health with barred := true } }).modMe fun c => { c with tickets := n }).finishOp
         { mkOp .appeal 113 x.n a 0 0 0 [] with issuer := some s.me, life := s.pre.life, ticket := n } 0) x.d (n % 2 ^ 40 * 256)))) ∧
  (∀ (x : PDABn) (s : State) (a b : Nat), Claims.Priv x.g x.d s → s.rdS x.a = .ok a → s.rdS x.b = .ok b →
    (∀ k, handle a = some k → (isMgmt s.me = true ∨ (s.ctx k).status = .free ∨ s.mineCtx k = true) → s.opOn k = false →
      Claims.Accepts (.ctxload x) s s.forForm x.d
        (mkOp .load 103 x.n k b (if isMgmt s.me then (s.granted k).getD s.pre.part else s.pre.part) (s.now + 2 ^ 22) [])) ∧
    (isMgmt s.me = true → unitOk a = true → (s.unit a).retired = false →
      let n := s.pre.tickets + 1
      let op := { mkOp .retire 111 x.n a 0 0 0 [] with issuer := some s.me, life := s.pre.life, ticket := n }
      let t := (s.modMe fun c => { c with tickets := n }).retireUnit a (if b % 65536 < 0x100 then 3 else b % 65536) op 4
      Claims.Says (.retireForce x) s t x.d (n % 2 ^ 40 * 256) ∧
      ((256 ≤ a ∨ ∀ k ∈ s.bound a, (s.ctx k).node = 0) → Claims.Says (.retire x) s t x.d (n % 2 ^ 40 * 256)) ∧
      (a < 256 → (∃ k ∈ s.bound a, (s.ctx k).node ≠ 0) → Claims.Says (.retire x) s s x.d Claims.busy)) ∧
    (a < 2 ^ 63 → a % 2 ^ 57 % 65536 = 0 → b % 65536 = 0 → s.mine (bitsOf a 57 6) = true → (isMgmt s.me = true → s.locked (bitsOf a 57 6) = false) →
      (s.part (bitsOf a 57 6)).exist = true →
      Claims.Accepts (.zeroMem x) s s x.d (mkOp (.zero 0) 107 x.n (bitsOf a 57 6) (a % 2 ^ 57) b (Claims.ms s 50) []) ∧
      Claims.Accepts (.zeroCarr x) s s x.d (mkOp (.zero 2) 107 x.n (bitsOf a 57 6) (a % 2 ^ 57) b (Claims.ms s 50) [])) ∧
    (a < 64 → b = 0 → s.mine a = true → (isMgmt s.me = true → s.locked a = false) → (s.part a).exist = true →
      Claims.Accepts (.zeroL2 x) s s x.d (mkOp (.zero 3) 107 x.n a 0 0 (Claims.ms s 50) [])) ∧
    (∀ k p, handle a = some k → b < 2 ^ (if isMesh k then 24 else 8) → s.granted k = some p → s.mine p = true → (isMgmt s.me = true → s.locked p = false) →
      (∀ i, i < 24 → b / 2 ^ i % 2 = 1 → (∀ q, s.bankOwner (coreOf k) i = some q → q = p) ∧ ∀ j ∈ s.bound (coreOf k), (s.ctx j).ctl.banks.getLsbD i = false) →
      Claims.Accepts (.zeroBanks x) s s x.d (mkOp (.zero 1) 107 x.n (coreOf k) b p (Claims.ms s 50) [])) ∧
    (a % 64 = 0 →
      (b < 64 → s.mine b = true → Claims.Accepts (.signqUsage x) s s.forForm x.d (mkOp (.sign 0) 115 x.n b a b (Claims.ms s 50) [])) ∧
      (b < 65536 → Claims.Accepts (.signqRetired x) s s.forForm x.d (mkOp (.sign 1) 115 x.n s.pre.part a b (Claims.ms s 50) [])) ∧
      (bitsOf b 6 2 = 0 → s.mine (b % 64) = true →
        Claims.Accepts (.signqQuote x) s s.forForm x.d
          (mkOp (.sign 2) 115 x.n (b % 64) a b (Claims.ms s 50) (bytesOf ((s.part (b % 64)).useq - 1) 8)))))

/-- R259, R267, R268: PARTSET in the management context, its descriptor read after the issuer's earlier stores (log 13); f is the state then. -/
def Claims.PartsetForms : Prop :=
  ∀ (x : PDAn) (s : State) (a : Nat) (l : List Byte), Claims.Priv x.g x.d s → isMgmt s.me = true → s.rdS x.a = .ok a →
    let f := s.forForm
    let p := le l 0 8
    (a % 512 ≠ 0 → Claims.Says (.partsetCreate x) s s x.d Claims.badArg ∧ Claims.Says (.partsetUpdate x) s s x.d Claims.badArg ∧
      Claims.Says (.partsetStop x) s s x.d Claims.badArg ∧ Claims.Says (.partsetDestroy x) s s x.d Claims.badArg) ∧
    (a % 512 = 0 → f.readVirt f.me a 512 3 = some l → descOk l = true → (f.part p).busy = true →
      Claims.Says (.partsetCreate x) s f x.d Claims.busy ∧ Claims.Says (.partsetUpdate x) s f x.d Claims.busy ∧
      Claims.Says (.partsetStop x) s f x.d Claims.busy ∧ Claims.Says (.partsetDestroy x) s f x.d Claims.busy) ∧
    (a % 512 = 0 → f.readVirt f.me a 512 3 = some l → descOk l = true → (f.part p).busy = false →
      (f.createState l = true → Claims.Accepts (.partsetCreate x) s (f.modPart p fun y => { y with busy := true }) x.d
        (mkOp .create 105 x.n p 0 0 (Claims.ms f 50) l)) ∧
      ((f.part p).exist = true → (f.part p).stopped = false → (∀ c ∈ f.ctxs, c.2.status = .free ∨ c.2.part ≠ p) →
        Claims.Accepts (.partsetStop x) s (f.modPart p fun y => { y with busy := true, tdi := if f.locked p then .error else y.tdi }) x.d
          (mkOp .stop 105 x.n p 0 0 (Claims.ms f 50) [])) ∧
      ((f.part p).exist = true → (f.part p).stopped = true →
        Claims.Accepts (.partsetDestroy x) s (f.modPart p fun y => { y with busy := true }) x.d (mkOp .destroy 105 x.n p 0 0 (Claims.ms f 50) [])) ∧
      (f.locked p = true → Claims.Says (.partsetUpdate x) s f x.d Claims.denied) ∧
      (f.locked p = false → (f.part p).exist = true → ∃ (t u : State) (n : Nat), exec (.partsetUpdate x) s = .next t ∧ u.sd x.d (n % 2 ^ 40 * 256) = .ok t ∧
        n = s.pre.tickets + 1 ∧ (u.part p).ways = BitVec.ofNat 16 (le l 0x10 8) ∧ (u.part p).period = le l 0x68 8 ∧ (u.part p).budget = le l 0x70 8 ∧
        ((u.part p).debug, (u.part p).inject, (u.part p).detok, (u.part p).migdest) =
          ((BitVec.ofNat 64 (le l 8 8)).getLsbD 0, (BitVec.ofNat 64 (le l 8 8)).getLsbD 1, (BitVec.ofNat 64 (le l 8 8)).getLsbD 2, (BitVec.ofNat 64 (le l 8 8)).getLsbD 3) ∧
        (u.part p).hbm = (f.part p).hbm ∧ (u.part p).carr = (f.part p).carr ∧ (u.part p).cgrant = (f.part p).cgrant ∧ (u.part p).root = (f.part p).root ∧
        u.mem = f.mem ∧ ∀ q, q ≠ p → u.part q = f.part q))
/-- R259, R264-R275, R277: the privileged forms that end later; the 50 ms of ZERO, SIGNQ, STOP and DESTROY are log 36's DESIGN CHOICE. -/
def Obligations.PrivilegedAsync : Prop := Claims.AsyncForms ∧ Claims.PartsetForms

/-! The flow slot. -/
/-- A tree of tests of BT; its tests are numbered in preorder, its leaves from left to right (R112). -/
inductive Claims.Tree where
  | L | N (yes no : Claims.Tree)
/-- Tests in a tree; it has one leaf more. -/
def Claims.tests (t : Claims.Tree) : Nat := match t with | .L => 0 | .N y n => 1 + Claims.tests y + Claims.tests n
/-- The leaf reached: i tests stand before the tree in preorder and l leaves to its left. -/
def Claims.leaf (b : Nat → Bool) (t : Claims.Tree) (i l : Nat) : Nat :=
  match t with
  | .L => l
  | .N y n => if b i then Claims.leaf b y (i + 1) l else Claims.leaf b n (i + 1 + Claims.tests y) (l + Claims.tests y + 1)
open Claims.Tree in
/-- Table 7-2. -/
def Claims.shapes : List Claims.Tree :=
  [N L (N L (N L (N L L))), N L (N L (N (N L L) L)), N L (N (N L L) (N L L)), N L (N (N L (N L L)) L), N L (N (N (N L L) L) L),
   N (N L L) (N L (N L L)), N (N L L) (N (N L L) L), N (N L (N L L)) (N L L), N (N (N L L) L) (N L L), N (N L (N L (N L L))) L,
   N (N L (N (N L L) L)) L, N (N (N L L) (N L L)) L, N (N (N L (N L L)) L) L, N (N (N (N L L) L) L) L]
/-- The address of the bundle. -/
def Claims.pc (s : State) : Word := s.pre.regs.flow.pc
/-- A write of a predicate at once; in a pair it enters the signature (R391). -/
def Claims.putP (s : State) (p : Fin 8) (v : Nat) : State := (s.writeNow s.me (.p p) v (2 ^ 64 - 1)).note 3 8 v
/-- The flow registers of the issuer change; in a pair the value of n bytes enters the signature (R391). -/
def Claims.putFlow (s : State) (f : FlowRegs → FlowRegs) (n v : Nat) : State := (s.modMe fun c => c.modFlow f).note 3 n v
/-- R111-R114, R132: PREP and PREPM set a target; BT, J, CALL, RET and RTT are taken transfers. -/
def Obligations.FlowTransfers : Prop :=
  (∀ (x : FPrep) (s : State), Claims.On x.g s → exec (.prep x) s = .next (s.setW x.n (Claims.pc s + 32 * x.o.signExtend 64))) ∧
  (∀ (x : FPrepM) (s : State) (m : Nat), Claims.On x.g s → s.rdM x.j = .ok m →
    exec (.prepm x) s = .next (s.setW x.n (BitVec.ofNat 64 m &&& ~~~0x1F))) ∧
  (∀ (x : FBt) (s : State), Claims.On x.g s →
    let test (t : Fin 16) : Bool := (predBits s.pre (Fin.ofNat 8 (t % 8)) % 2 == 1) != decide (8 ≤ t.val)
    let l := Claims.leaf (fun i => [test x.t1, test x.t2, test x.t3, test x.t4].getD i false) (Claims.shapes.getD x.s .L) 0 0
    (∀ h : l < 4, exec (.bt x) s = .next (s.jumpTo s.pre.regs.flow.w[l] 0)) ∧ (4 ≤ l → exec (.bt x) s = .next s)) ∧
  (∀ (x : FJump) (s : State), Claims.On x.g s → exec (.j x) s = .next (s.jumpTo (Claims.pc s + 32 * x.o.signExtend 64) 0)) ∧
  (∀ (x : FTgt) (s : State), Claims.On x.g s →
    exec (.call x) s = .next ((Claims.putFlow s (fun f => { f with lk := Claims.pc s + 96 }) 8 (Claims.pc s + 96).toNat).jumpTo s.pre.regs.flow.w[x.n] 0)) ∧
  (∀ (x : FNone) (s : State), Claims.On x.g s → exec (.ret x) s = .next (s.jumpTo s.pre.regs.flow.lk 0)) ∧
  (∀ (x : FNone) (s : State), Claims.On x.g s →
    (s.pre.regs.sys.tl = 0 → exec (.rtt x) s = .next (s.raise 1 2 0 none)) ∧
    (∀ L, s.pre.regs.sys.tl = L + 1 → exec (.rtt x) s = .next (s.jumpTo (vget s.pre.regs.sys.banks L Bank.zero).tpc (L + 1))))

/-- R115-R117, R119, R120: LOOP pushes its level, or skips its body at a counter of 0, or traps; SETLC, SPL and EPI. -/
def Obligations.FlowLoops : Prop :=
  (∀ (x : FLoop) (s : State), Claims.On x.g s →
    let f := s.pre.regs.flow
    let pc := f.pc.toNat
    let len := x.len.val + 1
    let nest := 6 ≤ f.loops.length ∨ ∃ l ∈ f.loops, l.n = x.n ∨ l.last < pc + 32 * len
    (nest → exec (.loop x) s = .next (s.raise 1 12 0 none)) ∧
    (¬nest → f.lc[x.n] = 0 → exec (.loop x) s = .next (s.modOpen fun o => { o with skip := some (BitVec.ofNat 64 (pc + 32 + 32 * len)) })) ∧
    (¬nest → f.lc[x.n] ≠ 0 → ∃ body u, s.fetchBody s.me f.loops (pc + 32) len = (body, u) ∧ body.length ≤ len ∧
      exec (.loop x) s = .next (u.modMe fun c => c.modFlow fun f => { f with loops := ⟨x.n, pc + 32, pc + 32 * len, body⟩ :: f.loops }))) ∧
  (∀ (x : FCountLc) (s : State), Claims.On x.g s →
    exec (.setlc x) s = .next (Claims.putFlow s (fun f => { f with lc := f.lc.set x.n (BitVec.ofNat 32 (x.k.val s)) }) 4 (x.k.val s))) ∧
  (∀ (x : FSpl) (s : State), Claims.On x.g s → exec (.spl x) s = .next (s.modMe fun c => c.modFlow fun f =>
    { f with epi := { f.epi with armed := true, pro := s.pre.regs.flow.w[x.n], k := x.k, used := false } })) ∧
  (∀ (x : FEpi) (s : State), Claims.On x.g s →
    let e := s.pre.regs.flow.epi
    let r := Claims.putFlow s (fun f => { f with lc := f.lc.set x.k e.iter, epi := { f.epi with resuming := false } }) 4 e.iter.toNat
    (e.resuming = false → exec (.epi x) s = .next (Claims.putP s x.n 0)) ∧
    (e.resuming = true →
      exec (.epi x) s = .next (Claims.putP ((r.writeNow s.me (.m x.j) e.iter.toNat (2 ^ 64 - 1)).note 3 256 e.iter.toNat) x.n (2 ^ 64 - 1))))

/-- What has been added to a flag in a cycle (R121). -/
def Claims.added (c : Ctx) (n t : Nat) : Nat := ((c.posts.filter fun p => decide (p.1 = n ∧ p.2.2 = t)).map fun p => p.2.1).sum
/-- R109, R121, R124-R126, R248: counting flags, barriers, timelines and GETM.F, whose write of a flag comes before the additions
of its cycle; a wait that is not met blocks. -/
def Claims.FlagForms : Prop :=
  (∀ (x : FCountF) (s : State), Claims.On x.g s →
    let n := x.k.val s
    ((s.pre.f[x.n]).toNat < n → exec (.wait x) s = .next (s.holdSlot 1 true none)) ∧
    (n ≤ (s.pre.f[x.n]).toNat → s.pre.seg = none → exec (.wait x) s = .next (s.modMe fun c => { c with f := c.f.set x.n (c.f[x.n] - BitVec.ofNat 32 n) })) ∧
    (n ≤ (s.pre.f[x.n]).toNat → s.pre.seg.isSome = true → exec (.wait x) s = .next (s.raise 1 18 0 none)) ∧
    exec (.post x) s = .next (s.modMe fun c => { c with f := c.f.set x.n (BitVec.ofNat 32 (min ((c.f[x.n]).toNat + n) 0xFFFFFFFF)), posts := (x.n.val, n, s.now) :: c.posts.filter fun p => p.2.2 = s.now })) ∧
  (∀ (x : FCountBb) (s : State), Claims.On x.g s →
    exec (.bbset x) s = .next (Claims.putFlow s (fun f => { f with bb := f.bb.set x.n (BitVec.ofNat 32 (x.k.val s)) }) 4 (x.k.val s))) ∧
  (∀ (x : FBb) (s : State), Claims.On x.g s →
    (s.pre.regs.flow.bb[x.n] = 0 → exec (.bbwait x) s = .next s) ∧ (s.pre.regs.flow.bb[x.n] ≠ 0 → exec (.bbwait x) s = .next (s.holdSlot 1 true none))) ∧
  (∀ (x : FTlw) (s : State), Claims.On x.g s →
    let I := s.pre.regs.dat.issued[x.t]
    let d := TlwVal.num x.v s
    let v := if x.rel then I - d else d
    (I < v → exec (.tlw x) s = .next (s.raise 1 13 0 none)) ∧
    (v ≤ I → ∀ va, s.pre.suspended x.t v = some va → exec (.tlw x) s = .next (s.raise 1 14 va none)) ∧
    (v ≤ I → s.pre.suspended x.t v = none → (∃ m ∈ s.pre.cmds, m.eng = x.t ∧ m.num ≤ v ∧ 0 < m.num) → 0 < v →
      exec (.tlw x) s = .next (s.holdSlot 1 true none)) ∧
    (v ≤ I → (∀ m ∈ s.pre.cmds, m.eng = x.t → v < m.num) → exec (.tlw x) s = .next s)) ∧
  (∀ (x : FGetm) (s : State) (m : Nat), Claims.On x.g s → x.wf = true → s.rdM x.j = .ok m →
    let v := BitVec.ofNat 64 m
    (x.c.val = 0 → ∀ h : x.n.val < 4, exec (.getmF x) s = .next (Claims.putFlow s (fun f => { f with w := f.w.set x.n (v &&& ~~~0x1F) h }) 8 (v &&& ~~~0x1F).toNat)) ∧
    (x.c.val = 1 → exec (.getmF x) s = .next (Claims.putFlow s (fun f => { f with lk := v &&& ~~~0x1F }) 8 (v &&& ~~~0x1F).toNat)) ∧
    (x.c.val = 2 → ∀ h : x.n.val < 6, exec (.getmF x) s = .next (Claims.putFlow s (fun f => { f with lc := f.lc.set x.n (v.setWidth 32) h }) 4 (v.setWidth 32).toNat)) ∧
    (x.c.val = 3 → exec (.getmF x) s = .next (s.modMe fun c => { c with f := c.f.set x.n (BitVec.ofNat 32 (min (v.toNat % 2 ^ 32 + Claims.added c x.n s.now) 0xFFFFFFFF)) })) ∧
    (x.c.val = 4 → ∀ h : x.n.val < 8, exec (.getmF x) s = .next (Claims.putFlow s (fun f => { f with bb := f.bb.set x.n (v.setWidth 32) h }) 4 (v.setWidth 32).toNat)))

/-- R122, R123, R136, R370: POSTR and SEND put a message on its way to the receiver, stall at a full queue, and trap without a receiver or in
an open segment. -/
def Claims.FlowMessages : Prop :=
  (∀ (x : FPostr) (s : State), Claims.On x.g s →
    (s.pre.seg = none → ∀ r, s.receiver s.me x.t = some r → exec (.postr x) s = .next { s with
      msgs := s.msgs ++ [⟨s.me, r, .post x.n (x.k.val s), s.pre.seq, s.now + if x.t.val < 4 then 24 else 48⟩] }) ∧
    (s.pre.seg = none → s.receiver s.me x.t = none → exec (.postr x) s = .next (s.raise 1 15 0 none)) ∧
    (s.pre.seg.isSome = true → exec (.postr x) s = .next (s.raise 1 18 0 none))) ∧
  (∀ (x : FSendS) (s : State) (m : Nat), Claims.On x.g s → s.rdM x.j = .ok m →
    let q : Fin 4 := if x.t.val < 4 then 3 else 0
    (s.pre.seg = none → ∀ r, s.receiver s.me x.t = some r →
      (s.taken r q < 64 → exec (.send x) s = .next { s with
        msgs := s.msgs ++ [⟨s.me, r, .send q (BitVec.ofNat 64 m), s.pre.seq, s.now + if x.t.val < 4 then 24 else 48⟩] }) ∧
      (64 ≤ s.taken r q → exec (.send x) s = .next (s.holdSlot 1 false none))) ∧
    (s.pre.seg = none → s.receiver s.me x.t = none → exec (.send x) s = .next (s.raise 1 15 0 none)) ∧
    (s.pre.seg.isSome = true → exec (.send x) s = .next (s.raise 1 18 0 none)))
/-- R109, R121-R126, R136, R248, R370: flags, barriers, timelines and messages. -/
def Obligations.FlowFlags : Prop := Claims.FlagForms ∧ Claims.FlowMessages

/-- A suspended copy command of the context (R248). -/
abbrev Claims.Suspended (s : State) : Prop := ∃ m ∈ s.pre.cmds, m.susp.isSome = true
/-- R35-R37, R127-R131, R32: what the flow instructions wait for, and what the bundle's commit then brings about. RDV with no open segment, the bits of
PMASK of contexts that do not exist (in `State.rdvMet`), and a DRAIN that waits for held stores are the model's DESIGN CHOICES (log 33). -/
def Obligations.FlowOrder : Prop :=
  (∀ (x : FSeg) (s : State), Claims.On x.g s → exec (.seg x) s = .next (s.modOpen fun o => { o with seg := some x.m })) ∧
  (∀ (x : FNone) (s : State), Claims.On x.g s →
    let mask := match s.pre.seg with | some g => g.mask | none => 0
    ((∀ b, b < 8 → mask.getLsbD b = true → s.rdvMet s.me b = true) →
      exec (.rdv x) s = .next ((s.modMe fun c => { c with rdv := c.rdv + 1 }).modOpen fun o => { o with seg := some mask })) ∧
    ((∃ b, b < 8 ∧ mask.getLsbD b = true ∧ s.rdvMet s.me b = false) →
      exec (.rdv x) s = .next ((s.holdSlot 1 true none).modOpen fun o => { o with rdv := true }))) ∧
  (∀ (x : FNone) (s : State), Claims.On x.g s → ¬Claims.Suspended s →
    (s.pre.ridgeKey ∈ s.pre.passes → ∃ t, exec (.ridge x) s = .next t ∧
      t.ctx s.me = { s.ctx s.me with passes := (s.ctx s.me).passes.filter (· ≠ (s.ctx s.me).ridgeKey), ridging := false } ∧
      (∀ g, s.pre.seg = some g → t.opened.bind (·.seg) = some g.mask) ∧ (s.pre.seg = none → t.opened = s.opened) ∧ t.mem = s.mem ∧ ∀ j, j ≠ s.me → t.ctx j = s.ctx j) ∧
    (s.pre.ridgeKey ∉ s.pre.passes → exec (.ridge x) s = .next ((s.holdSlot 1 true none).modOpen fun o => { o with ridge := true })) ∧
    (s.pre.cmds = [] → s.pre.accs = [] → exec (.endF x) s = .next (s.modOpen fun o => { o with ends := true })) ∧
    ((s.pre.cmds ≠ [] ∨ s.pre.accs ≠ []) → exec (.endF x) s = .next (s.holdSlot 1 false none))) ∧
  (∀ (x : FNone) (s : State), Claims.On x.g s → Claims.Suspended s → ∃ va,
    exec (.ridge x) s = .next (s.raise 1 14 va none) ∧ exec (.endF x) s = .next (s.raise 1 14 va none)) ∧
  (∀ (x : FScope) (s : State), Claims.On x.g s →
    let t := if 3 ≤ x.s.val then s.flushStores s.me false else s
    let busy := s.pre.accs ≠ [] ∨ ∃ g, s.pre.seg = some g ∧ g.buf ≠ []
    (¬busy → exec (.drain x) s = .next t) ∧ (busy → exec (.drain x) s = .next (s.holdSlot 1 false none)) ∧
    (¬Claims.Suspended s → ¬busy → s.pre.cmds = [] → exec (.drainE x) s = .next t) ∧
    (¬Claims.Suspended s → (busy ∨ s.pre.cmds ≠ []) → exec (.drainE x) s = .next (s.holdSlot 1 false none)) ∧
    (Claims.Suspended s → ∃ va, exec (.drainE x) s = .next (s.raise 1 14 va none)))

/-- R132, R133, R138, R50: traps, debug halts, yields, sleeps, clocks and the queries. -/
def Obligations.FlowControl : Prop :=
  (∀ (x : FImm) (s : State), Claims.On x.g s →
    exec (.trap x) s = .next (s.raise 1 10 x.c.toNat none) ∧
    ((s.part s.pre.part).debug = true → exec (.brk x) s = .next (s.modOpen fun o => { o with halt := some x.c.toNat })) ∧
    ((s.part s.pre.part).debug = false → exec (.brk x) s = .next (s.raise 1 11 x.c.toNat none)) ∧
    exec (.sleep x) s = .next (s.modOpen fun o => { o with sleep := x.c.toNat })) ∧
  (∀ (x : FNone) (s : State), Claims.On x.g s → exec (.yield x) s = .next (s.modOpen fun o => { o with yield := true })) ∧
  (∀ (x : FClk) (s : State), Claims.On x.g s →
    (isMesh s.me = false → 1 ≤ x.c.val → x.c.val ≤ 3 → exec (.clkdiv x) s = .next (s.raise 1 2 0 none)) ∧
    ((isMesh s.me = true ∨ x.c.val = 0 ∨ x.c.val = 4) →
      ((∀ j ∈ s.bound (coreOf s.me), (s.ctx j).part = s.pre.part) → exec (.clkdiv x) s = .next (s.modOpen fun o => { o with clk := some (x.c, x.d.val) })) ∧
      ((∃ j ∈ s.bound (coreOf s.me), (s.ctx j).part ≠ s.pre.part) → exec (.clkdiv x) s = .next (s.modMe fun c => c.modSys fun r =>
        { r with sstat := r.sstat ||| 64#9 })))) ∧
  (∀ (x : FPred) (s : State), Claims.On x.g s →
    exec (.wdog x) s = .next ((Claims.putP s x.n (Claims.mask64 s.pre.wdSeen)).modMe fun c => { c with wdSeen := false }) ∧
    ∃ v, exec (.hbeat x) s = .next (Claims.putP s x.n v) ∧ (256 ≤ coreOf s.me → v = 0) ∧
      (coreOf s.me < 256 → v < 256 ∧ ∀ n : Fin 4,
        (v.testBit n = true ↔ (neighbour (coreOf s.me) n).isSome = true ∧ ((s.core (coreOf s.me)).health.views[n]).view = 0) ∧
        (v.testBit (n.val + 4) = true ↔ (neighbour (coreOf s.me) n).isSome = true ∧ ((s.core (coreOf s.me)).health.views[n]).acc = true))) ∧
  (∀ (x : FCapq) (s : State), Claims.On x.g s →
    exec (.capq x) s = .next (Claims.putP s x.n (Claims.mask64 (decide (x.i.toNat ≤ s.capCount s.pre.part))))) ∧
  (∀ (x : FPitchq) (s : State), Claims.On x.g s →
    exec (.pitchq x) s = .next (Claims.putP s x.n (Claims.mask64 (decide (x.r.val ≤ max s.pre.pitch.core s.pre.pitch.plain)))))

/-- What a launch of a stream context reads: the state once its earlier accesses have performed, the header, and the key of its status word. -/
structure Claims.Launch (x : FFlagM) (s u : State) (a : Nat) (h : List Byte) (key : Nat) (uc : Bool) : Prop where
  on : Claims.On x.g s
  stream : isStream s.me = true
  seg : s.pre.seg = none
  budget : (s.part s.pre.part).overrun = false
  addr : s.rdM x.j = .ok a
  header : s.forForm.readVirtR s.me (a % 2 ^ 64) 64 3 = .ok h
  status : s.forForm.locate s.me (le h 0x10 8 / 8 * 8) .write = .ok key uc u
/-- R29-R31, R134, R135, R316 (the STATUS address rounded down to 8 is log 23's DESIGN CHOICE, the stalls log 23's DEDUCED): LAUNCH writes BADCB or NOBIND and posts its flag, or starts a node: every context of its table Ready at its
entry, the node's record and status RUNNING; it waits for the time of its partition, and for commands that an earlier life of a context left. -/
def Obligations.FlowLaunch : Prop :=
  (∀ (x : FFlagM) (s u : State) (a : Nat) (h : List Byte) (key : Nat) (uc : Bool), Claims.Launch x s u a h key uc →
    (headerOk (a % 2 ^ 64) h = false → exec (.launch x) s = .next ((u.writeStatus key uc 7 0 0).postFlag s.me x.n 1)) ∧
    (headerOk (a % 2 ^ 64) h = true → ∀ l, u.readBlocks s.me (le h 0 8) (le h 8 4) = .ok l →
      (∀ who, badBlock (u.part s.pre.part) l = some who → exec (.launch x) s = .next ((u.writeStatus key uc 7 0 who).postFlag s.me x.n 1)) ∧
      (badBlock (u.part s.pre.part) l = none →
        let seats := seatsOf l
        let n := u.nextNode
        ((∃ y ∈ seats, u.seatOk s.pre.part seats y = false) → exec (.launch x) s = .next ((u.writeStatus key uc 6 0 0).postFlag s.me x.n 1)) ∧
        let group := decide (le h 0x18 8 ≠ 0)
        let first (o : Nat) : Nat := (l.head?.map fun b => le b.1.bytes o 4).getD 0
        let v : State := seats.foldl (fun (t : State) (y : Seat) => t.seat s.pre.part n group y) { u with nextNode := n + 1 }
        ((∀ y ∈ seats, u.seatOk s.pre.part seats y = true) → (∃ y ∈ seats, (u.ctx y.key).cmds ≠ []) →
          exec (.launch x) s = .next (s.holdSlot 1 false none)) ∧
        ((∀ y ∈ seats, u.seatOk s.pre.part seats y = true) → (∀ y ∈ seats, (u.ctx y.key).cmds = []) → l ≠ [] → exec (.launch x) s = .next ((v.setNode n { Node.none with
            run := true, part := s.pre.part, ctxs := seats.map Seat.key, status := key, owner := s.me, flag := x.n, group := le h 0x18 8,
            dmode := l.any (fun b => b.1.dmode), rank := if group then first 0x54 else 0, nrank := if group then first 0x58 else 1,
            launched := v.now, uc := uc }).writeStatus key uc 1 0 0))))) ∧
  (∀ (x : FFlagM) (s : State), Claims.On x.g s →
    (isStream s.me = false → exec (.launch x) s = .next (s.raise 1 2 0 none)) ∧
    (isStream s.me = true → s.pre.seg.isSome = true → exec (.launch x) s = .next (s.raise 1 18 0 none)) ∧
    (isStream s.me = true → s.pre.seg = none → (s.part s.pre.part).overrun = true → exec (.launch x) s = .next ((s.modOpen fun o => { o with park := true }).holdSlot 1 false none))) ∧
  (∀ (y : Seat) (p n : Nat) (group : Bool),
    let c := y.ctx p n group
    let w (o k : Nat) : Word := BitVec.ofNat 64 (le y.blk.bytes o k)
    c.status = .ready ∧ c.part = p ∧ c.node = n ∧ c.regs.flow.pc = w 0 8 &&& ~~~0x1F ∧ c.regs.sys.tl = 0 ∧ c.regs.sys.tsave = w 0x28 8 ∧
      c.regs.sys.tvec = w 0x30 8 &&& ~~~0x1F ∧ c.regs.sys.ident[6] = (if group then w 0x54 4 else 0) ∧ c.regs.sys.ident[7] = (if group then w 0x58 4 else 1) ∧
      c.regs.sys.ident[2] = w 0x10 4 ∧ c.regs.sys.ident[3] = w 0x18 2 ∧ c.regs.sys.ident[4] = w 0x14 4 ∧ c.regs.sys.ident[5] = BitVec.ofNat 64 p ∧
      c.regs.sys.seed = w 0x20 8 ∧ c.regs.sys.fmt = fmtPresets ∧ c.regs.sys.sstat = 0 ∧ c.regs.sys.dmode = y.blk.dmode ∧
      (∀ i, c.regs.dat.get (.s i) = 0) ∧ (∀ i, c.regs.dat.get (.m i) = 0) ∧ (∀ i : Fin 8, i.val ≠ 0 → c.regs.dat.get (.p i) = 0) ∧
      c.regs.dat.get (.p 0) = 2 ^ 64 - 1)

/-! Slots a and b. -/
/-- The 64 bits of lane values as a register. -/
def Claims.b32 (n : Nat) : BitVec 32 := BitVec.ofNat 32 n
/-- The register bits that the active lanes of the guard write. -/
def Claims.act (g : Guard) (s : State) : Nat := g.lanes s.pre
/-- Typed instructions of two sources (Tables 8-1, 8-2; R164-R166): bounds of integer and FP32 forms, the integer result under its
signedness, and the FP32 result. -/
def Claims.typed2 : List ((VUnit → VTyp3 → Instr) × Nat × Nat × (Bool → BitVec 32 → BitVec 32 → BitVec 32) × (Rnd → FVal → FVal → Nat)) :=
  [(.vadd, 1, 4, fun _ a b => a + b, fun r a b => fp32.round (a.add b r) r), (.vsub, 1, 4, fun _ a b => a - b, fun r a b => fp32.round (a.add b.neg r) r),
   (.vmul, 3, 4, fun _ a b => a * b, fun r a b => fp32.round (a.mul b) r),
   (.vmin, 1, 2, fun sg a b => if (if sg then b.slt a else b.ult a) then b else a, fun _ a b => fp32.round (a.min b) .rne),
   (.vmax, 1, 2, fun sg a b => if (if sg then a.slt b else a.ult b) then b else a, fun _ a b => fp32.round (a.max b) .rne),
   (.vdiv, 12, 14, fun sg a b => if b = 0 then 0 else if sg then a.sdiv b else a / b, fun r a b => fp32.round (a.div b) r)]
/-- Those that read Vd as a third source, with one rounding. -/
def Claims.typed3 : List ((VUnit → VTyp3 → Instr) × (BitVec 32 → BitVec 32 → BitVec 32 → BitVec 32) × (Rnd → FVal → FVal → FVal → Nat)) :=
  [(.vfma, fun a b d => a * b + d, fun r a b d => fp32.round ((a.mul b).add d r) r),
   (.vfms, fun a b d => d - a * b, fun r a b d => fp32.round (d.add (a.mul b).neg r) r)]
/-- R161, R164, R166: typed arithmetic, lane by lane, in the lanes of the guard. -/
def Obligations.VectorArithmetic : Prop :=
  (∀ e ∈ Claims.typed2, ∀ (u : VUnit) (x : VTyp3) (s : State) (a b : Nat), Claims.Lanes x.g s → Claims.Clear s (vLoc u x.d) →
    s.rdV u x.a = .ok a → s.rdV u x.b = .ok b →
    (x.t ≠ .f32 → Claims.Gives (e.1 u x) s
      (s.wrV u x.d (Claims.act x.g s) e.2.1 fun i => (e.2.2.2.1 (x.t == .i32) (Claims.b32 (lane a i)) (Claims.b32 (lane b i))).toNat)) ∧
    (x.t = .f32 → Claims.Gives (e.1 u x) s
      (s.wrV u x.d (Claims.act x.g s) e.2.2.1 fun i => e.2.2.2.2 x.r (fp32.read (lane a i)) (fp32.read (lane b i))))) ∧
  (∀ e ∈ Claims.typed3, ∀ (u : VUnit) (x : VTyp3) (s : State) (a b d : Nat), Claims.Lanes x.g s → Claims.Clear s (vLoc u x.d) →
    s.rdV u x.a = .ok a → s.rdV u x.b = .ok b → s.rdVD u x.d = .ok d →
    (x.t ≠ .f32 → Claims.Gives (e.1 u x) s
      (s.wrV u x.d (Claims.act x.g s) 3 fun i => (e.2.1 (Claims.b32 (lane a i)) (Claims.b32 (lane b i)) (Claims.b32 (lane d i))).toNat)) ∧
    (x.t = .f32 → Claims.Gives (e.1 u x) s
      (s.wrV u x.d (Claims.act x.g s) 4 fun i => e.2.2 x.r (fp32.read (lane a i)) (fp32.read (lane b i)) (fp32.read (lane d i))))) ∧
  (∀ (u : VUnit) (x : VTyp2) (s : State) (a : Nat), Claims.Lanes x.g s → Claims.Clear s (vLoc u x.d) → s.rdV u x.a = .ok a →
    (x.t ≠ .f32 →
      Claims.Gives (.vabs u x) s (s.wrV u x.d (Claims.act x.g s) 1 fun i => (if (Claims.b32 (lane a i)).slt 0 then -Claims.b32 (lane a i) else Claims.b32 (lane a i)).toNat) ∧
      Claims.Gives (.vneg u x) s (s.wrV u x.d (Claims.act x.g s) 1 fun i => (-Claims.b32 (lane a i)).toNat)) ∧
    (x.t = .f32 →
      Claims.Gives (.vabs u x) s (s.wrV u x.d (Claims.act x.g s) 2 fun i =>
        fp32.round (if (fp32.read (lane a i)).sgn then (fp32.read (lane a i)).neg else fp32.read (lane a i)) .rne) ∧
      Claims.Gives (.vneg u x) s (s.wrV u x.d (Claims.act x.g s) 2 fun i => fp32.round (fp32.read (lane a i)).neg .rne))) ∧
  (∀ (u : VUnit) (x : VFun) (s : State) (a : Nat), Claims.Lanes x.g s → Claims.Clear s (vLoc u x.d) → s.rdV u x.a = .ok a →
    let put (L : Nat) (f : FVal → FVal) : Res State := s.wrV u x.d (Claims.act x.g s) L fun i => fp32.round (f (fp32.read (lane a i))) x.r
    Claims.Gives (.vrcp u x) s (put 8 fun v => (FVal.fin false 1 0).div v) ∧ Claims.Gives (.vrsq u x) s (put 8 FVal.rsqrt) ∧
    Claims.Gives (.vexp2 u x) s (put 10 FVal.exp2) ∧ Claims.Gives (.vlog2 u x) s (put 10 FVal.log2))

/-- Logic and bit instructions of two sources (Table 8-4). -/
def Claims.logic2 : List ((VUnit → VRR → Instr) × (BitVec 32 → BitVec 32 → BitVec 32)) :=
  [(.vand, fun a b => a &&& b), (.vor, fun a b => a ||| b), (.vxor, fun a b => a ^^^ b), (.vandn, fun a b => a &&& ~~~b),
   (.vshl, fun a b => a <<< (b.toNat % 32)), (.vshr, fun a b => a >>> (b.toNat % 32)), (.vsar, fun a b => a.sshiftRight (b.toNat % 32))]
/-- Where a vector bit field begins, and its length. -/
def Claims.vpos (b : BitVec 32) : Nat := (b.extractLsb' 0 5).toNat
def Claims.vlen (b : BitVec 32) : Nat := min (b.extractLsb' 8 6).toNat (32 - Claims.vpos b)
/-- R168, R169, R174, R175, R183: logic, bits, selection and lane movement, in the lanes of the guard, by their bounds. -/
def Claims.LaneForms : Prop :=
  (∀ e ∈ Claims.logic2, ∀ (u : VUnit) (x : VRR) (s : State) (a b : Nat), Claims.Lanes x.g s → Claims.Clear s (vLoc u x.d) →
    s.rdV u x.a = .ok a → s.rdV u x.b = .ok b →
    Claims.Gives (e.1 u x) s (s.wrV u x.d (Claims.act x.g s) 1 fun i => (e.2 (Claims.b32 (lane a i)) (Claims.b32 (lane b i))).toNat)) ∧
  (∀ (u : VUnit) (x : VBfx) (s : State) (a b : Nat), Claims.Lanes x.g s → Claims.Clear s (vLoc u x.d) → s.rdV u x.a = .ok a → s.rdV u x.b = .ok b →
    let field (v c : BitVec 32) : BitVec 32 :=
      if Claims.vlen c = 0 then 0
      else if x.s then ((v >>> Claims.vpos c) <<< (32 - Claims.vlen c)).sshiftRight (32 - Claims.vlen c)
      else (v >>> Claims.vpos c) &&& Claims.low 32 (Claims.vlen c)
    Claims.Gives (.vbfx u x) s (s.wrV u x.d (Claims.act x.g s) 1 fun i => (field (Claims.b32 (lane a i)) (Claims.b32 (lane b i))).toNat)) ∧
  (∀ (u : VUnit) (x : VRR) (s : State) (a b d : Nat), Claims.Lanes x.g s → Claims.Clear s (vLoc u x.d) →
    s.rdV u x.a = .ok a → s.rdV u x.b = .ok b → s.rdVD u x.d = .ok d →
    let A (i : Nat) := Claims.b32 (lane a i)
    let B (i : Nat) := Claims.b32 (lane b i)
    let D (i : Nat) := Claims.b32 (lane d i)
    Claims.Gives (.vbfi u x) s (s.wrV u x.d (Claims.act x.g s) 1 fun i =>
      ((D i &&& ~~~(Claims.low 32 (Claims.vlen (B i)) <<< Claims.vpos (B i))) ||| ((A i &&& Claims.low 32 (Claims.vlen (B i))) <<< Claims.vpos (B i))).toNat) ∧
    Claims.Gives (.vfsh u x) s (s.wrV u x.d (Claims.act x.g s) 1 fun i => (((A i ++ B i) <<< ((D i).toNat % 32)).extractLsb' 32 32).toNat)) ∧
  (∀ (u : VUnit) (x : VR) (s : State) (a : Nat), Claims.Lanes x.g s → Claims.Clear s (vLoc u x.d) → s.rdV u x.a = .ok a →
    Claims.Gives (.vpopc u x) s (s.wrV u x.d (Claims.act x.g s) 1 fun i => ((List.range 32).filter fun j => (Claims.b32 (lane a i)).getLsbD j).length) ∧
    Claims.Gives (.vclz u x) s (s.wrV u x.d (Claims.act x.g s) 1 fun i => ((List.range 32).takeWhile fun j => !(Claims.b32 (lane a i)).getMsbD j).length) ∧
    Claims.Gives (.vmovs u x) s (s.wrV u x.d (Claims.act x.g s) 1 fun i => lane a i)) ∧
  (∀ (u : VUnit) (x : VSel) (s : State) (a b : Nat), Claims.Lanes x.g s → Claims.Clear s (vLoc u x.d) → s.rdV u x.a = .ok a → s.rdV u x.b = .ok b →
    Claims.Gives (.vsel u x) s (s.wrV u x.d (Claims.act x.g s) 1 fun i => if (predBits s.pre x.q).testBit i then lane a i else lane b i)) ∧
  (∀ (u : VUnit) (x : VRR) (s : State) (a b : Nat), Claims.Lanes x.g s → Claims.Clear s (vLoc u x.d) → s.rdV u x.a = .ok a → s.rdV u x.b = .ok b →
    Claims.Gives (.vperm u x) s (s.wrV u x.d (Claims.act x.g s) 2 fun i => lane a ((Claims.b32 (lane b i)).extractLsb' 0 6).toNat)) ∧
  (∀ (u : VUnit) (x : VBcast) (s : State) (a : Nat), Claims.Lanes x.g s → Claims.Clear s (vLoc u x.d) → s.rdV u x.a = .ok a →
    Claims.Gives (.vbcast u x) s (s.wrV u x.d (Claims.act x.g s) 1 fun _ => lane a x.k)) ∧
  (∀ (u : VUnit) (x : VSlide) (s : State) (a b : Nat), Claims.Lanes x.g s → Claims.Clear s (vLoc u x.d) → s.rdV u x.a = .ok a → s.rdV u x.b = .ok b →
    Claims.Gives (.vslide u x) s (s.wrV u x.d (Claims.act x.g s) 2 fun i => if i + x.n < 64 then lane a (i + x.n) else lane b (i + x.n - 64))) ∧
  (∀ (u : VUnit) (x : VD) (s : State) (o : Open), Claims.Lanes x.g s → Claims.Clear s (vLoc u x.d) → s.opened = some o →
    Claims.Gives (.viota u x) s (s.wrV u x.d (Claims.act x.g s) 1 fun i => i) ∧
    (let rand (i : Nat) : Nat :=
      let z0 : BitVec 64 := s.pre.regs.sys.seed + (64 * (s.pre.regs.dat.draws + BitVec.ofNat 64 o.draws) + BitVec.ofNat 64 i + 1) * 0x9E3779B97F4A7C15
      let z1 := (z0 ^^^ (z0 >>> 30)) * 0xBF58476D1CE4E5B9
      let z2 := (z1 ^^^ (z1 >>> 27)) * 0x94D049BB133111EB
      ((z2 ^^^ (z2 >>> 31)).extractLsb' 32 32).toNat
     Claims.Gives (.viotaRand u x) s ((s.modOpen fun o => { o with draws := o.draws + 1 }).wrV u x.d (Claims.act x.g s) 3 rand)))

/-- Comparisons (R167): integer under its signedness, and the code of the FP32 condition (R60). -/
def Claims.vcompares : List ((VUnit → VCmp → Instr) × (Bool → BitVec 32 → BitVec 32 → Bool) × Nat) :=
  [(.vcmpeq, fun _ a b => a == b, 0), (.vcmpne, fun _ a b => a != b, 1), (.vcmplt, fun sg a b => if sg then a.slt b else a.ult b, 2),
   (.vcmple, fun sg a b => if sg then a.sle b else a.ule b, 3)]
/-- The 64 bits f 0 to f 63. -/
def Claims.bits (f : Nat → Bool) : Nat := (BitVec.ofBoolListLE ((List.range 64).map f)).toNat
/-- R167, R183, R184, R185: masks, residues, moves and format registers. -/
def Obligations.VectorMoves : Prop :=
  (∀ e ∈ Claims.vcompares, ∀ (u : VUnit) (x : VCmp) (s : State) (a b : Nat), Claims.Lanes x.g s → Claims.Clear s (some (.p x.d)) →
    s.rdV u x.a = .ok a → s.rdV u x.b = .ok b →
    Claims.Gives (e.1 u x) s (s.wrP x.d (Claims.bits fun i =>
      if x.t = .f32 then fcond e.2.2 (fp32.read (lane a i)) (fp32.read (lane b i)) else e.2.1 (x.t == .i32) (Claims.b32 (lane a i)) (Claims.b32 (lane b i)))
      (Claims.act x.g s) 1 (if x.t = .f32 then 2 else 1))) ∧
  (∀ (u : VUnit) (x : VToP) (s : State) (a : Nat), Claims.Lanes x.g s → Claims.Clear s (some (.p x.d)) → s.rdV u x.a = .ok a →
    Claims.Gives (.vpmovToPredicate u x) s (s.wrP x.d (Claims.bits fun i => (Claims.b32 (lane a i)).getLsbD 0) (Claims.act x.g s) 1 1)) ∧
  (∀ (u : VUnit) (x : VFromP) (s : State), Claims.Lanes x.g s → Claims.Clear s (vLoc u x.d) →
    Claims.Gives (.vpmovFromPredicate u x) s (s.wrV u x.d (Claims.act x.g s) 1 fun i => if (predBits s.pre x.a).testBit i then 0xFFFFFFFF else 0)) ∧
  (∀ (u : VUnit) (x : VGetm) (s : State) (m : Nat), Claims.Lanes x.g s → Claims.Clear s (vLoc u x.d) → s.rdM x.j = .ok m →
    Claims.Gives (.vectorGetm u x) s (s.wr (vLoc u x.d) m (laneMask (Claims.act x.g s)) 1 2)) ∧
  (∀ (u : VUnit) (x : VPutm) (s : State) (a : Nat), Claims.Lanes x.g s → Claims.Clear s (some (.m x.j)) → s.rdV u x.a = .ok a →
    Claims.Gives (.vectorPutm u x) s (s.wr (some (.m x.j)) a (laneMask (Claims.act x.g s)) 1 2)) ∧
  (∀ (u : VUnit) (x : VXfer) (s : State) (a : Nat), x.wf u = true → s.rdV u x.a = .ok a →
    (x.s.val = 2 → Claims.On x.g s → Claims.Clear s (some (sReg x.d)) → Claims.Gives (.vectorXfer u x) s (s.wr (some (sReg x.d)) (a % 2 ^ 64) (2 ^ 64 - 1) 1 3)) ∧
    (x.s.val = 5 → Claims.On x.g s → Claims.Clear s (some (.md (Fin.ofNat 8 x.d))) →
      Claims.Gives (.vectorXfer u x) s (s.wr (some (.md (Fin.ofNat 8 x.d))) (a % 2 ^ 64) (2 ^ 64 - 1) 1 3)) ∧
    (∀ v : VUnit, x.s.val = v.slot → Claims.Lanes x.g s → Claims.Clear s (some (vReg v x.d)) →
      Claims.Gives (.vectorXfer u x) s (s.wr (some (vReg v x.d)) a (laneMask (Claims.act x.g s)) 1 3))) ∧
  (∀ (u : VUnit) (x : VEf) (s : State), Claims.Lanes x.g s → Claims.Clear s (some (.ve u x.n)) →
    Claims.Gives (.vefclr u x) s (s.wr (some (.ve u x.n)) 0 (laneMask (Claims.act x.g s)) 1 1)) ∧
  (∀ (u : VUnit) (x : VEfg) (s : State), Claims.Lanes x.g s → Claims.Clear s (vLoc u x.d) →
    Claims.Gives (.vefget u x) s (s.wr (vLoc u x.d) (s.pre.regs.dat.get (.ve u x.n)) (laneMask (Claims.act x.g s)) 1 1)) ∧
  (∀ (u : VUnit) (x : VEfp) (s : State) (a : Nat), Claims.Lanes x.g s → Claims.Clear s (some (.ve u x.n)) → s.rdV u x.a = .ok a →
    Claims.Gives (.vefput u x) s (s.wr (some (.ve u x.n)) a (laneMask (Claims.act x.g s)) 1 1)) ∧
  (∀ (u : VUnit) (x : VFmt) (s : State) (a : Nat), Claims.On x.g s → s.rdV u x.a = .ok a →
    (fmtLegal (Claims.b32 (lane a 0)) = true →
      exec (.vfmtset u x) s = .next ((s.modMe fun c => c.modSys fun y => { y with fmt := y.fmt.set x.n (Claims.b32 (lane a 0)) }).note 3 4 (lane a 0))) ∧
    (fmtLegal (Claims.b32 (lane a 0)) = false → exec (.vfmtset u x) s = .next (s.raise u.slot 4 0 none)))

/-- The value of a lane under a source code of VCVT: a 64-bit integer source is the lane's 32 bits extended by its signedness (R170). -/
def Claims.source (c v : Nat) : FVal := codeRead c 0 (if c = 6 then ((Claims.b32 v).signExtend 64).toNat else v)
/-- What a converted code leaves in a lane: an integer extended by its signedness, of 64 bits the low 32 (R170). -/
def Claims.target (c v : Nat) : Nat := (if codeSigned c then ((BitVec.ofNat (codeWidth c) v).signExtend 64).toNat else v) % 2 ^ 32
/-- The active lanes of the guard. -/
def Claims.active (g : Guard) (s : State) : List Nat := (List.range 64).filter fun i => (Claims.act g s).testBit i
/-- New residues in the active lanes of the bank that the mode field names, which enter a pair's signature (R74, R391). -/
def Claims.residues (s : State) (u : VUnit) (n : Fin 4) (g : Guard) (f : Nat → Nat) : State :=
  (s.writeNow s.me (.ve u n) (vlanes f) (laneMask (Claims.act g s))).note 3 256 (vlanes f)
/-- R170-R173, R74-R76: conversions, with and without residues; packing and unpacking of the elements of a part. -/
def Obligations.VectorConversions : Prop :=
  (∀ (u : VUnit) (x : VCvt) (s : State) (a : Nat), Claims.Lanes x.g s → Claims.Clear s (vLoc u x.d) → s.rdV u x.a = .ok a →
    (x.e = false → Claims.Gives (.vcvt u x) s (s.wrV u x.d (Claims.act x.g s) 3 fun i =>
      Claims.target x.t (codeWrite x.t 0 (Claims.source x.s (lane a i)) x.r).1)) ∧
    (x.e = true → x.wf = true →
      let n : Fin 4 := Fin.ofNat 4 x.r.enc
      let out (i : Nat) : Nat × Nat := (codeFmt x.t 0).roundEf (Claims.source x.s (lane a i)) (lane (s.pre.regs.dat.get (.ve u n)) i)
      Claims.Gives (.vcvt u x) s ((Claims.residues s u n x.g fun i => (out i).2).wrV u x.d (Claims.act x.g s) 3 fun i => (out i).1))) ∧
  (∀ (u : VUnit) (x : VPack) (s : State) (a : Nat), Claims.Lanes x.g s → Claims.Clear s (vLoc u x.d) → s.rdV u x.a = .ok a → (∃ d, s.rdVD u x.d = .ok d) →
    let y := s.pre.regs.sys
    let w := packWidth y x.c
    let place (i : Nat) : Nat := packBit w (64 * x.q + i)
    let block (b : Nat) : Nat := blockScale (packFmt y x.c) (((Claims.active x.g s).filter fun i => i / 32 = b).map fun i => fp32.read (lane a i))
    let n : Fin 4 := Fin.ofNat 4 x.r.enc
    let out (i : Nat) : Nat × Nat := packLane y x block (lane a i) (lane (s.pre.regs.dat.get (.ve u n)) i) i
    let z := if x.e then Claims.residues s u n x.g fun i => if (Claims.act x.g s).testBit i then (out i).2 else 0 else s
    let v := ((Claims.active x.g s).map fun i => (out i).1 * 2 ^ place i).sum
    let m := ((Claims.active x.g s).map fun i => (2 ^ container w - 1) * 2 ^ place i).sum
    (packParts w ≤ x.q → exec (.vpack u x) s = .next (s.raise u.slot 2 0 none)) ∧
    (x.q < packParts w →
      (packBS y x.c = false → Claims.Gives (.vpack u x) s (z.wr (vLoc u x.d) v m 1 4)) ∧
      (packBS y x.c = true → Claims.Clear s (some (.vn u 3)) → ∃ t r sv sm, z.wr (vLoc u x.d) v m 1 4 = .ok r ∧ r.wr (some (.vn u 3)) sv sm 1 4 = .ok t ∧
        exec (.vpack u x) s = .next t ∧ ∀ b, b < 2 →
          ((∃ i ∈ Claims.active x.g s, i / 32 = b) → bitsOf sv (8 * (2 * x.q + b)) 8 = block b ∧ bitsOf sm (8 * (2 * x.q + b)) 8 = 255) ∧
          ((∀ i ∈ Claims.active x.g s, i / 32 ≠ b) → bitsOf sm (8 * (2 * x.q + b)) 8 = 0)))) ∧
  (∀ (u : VUnit) (x : VUnpack) (s : State) (a : Nat), Claims.Lanes x.g s → Claims.Clear s (vLoc u x.d) → s.rdV u x.a = .ok a →
    let y := s.pre.regs.sys
    let w := packWidth y x.c
    let elem (i : Nat) : Nat := bitsOf a (packBit w (64 * x.q + i)) w
    (packParts w ≤ x.q → exec (.vunpack u x) s = .next (s.raise u.slot 2 0 none)) ∧
    (x.q < packParts w → x.c.val < 4 → Claims.Gives (.vunpack u x) s (s.wrV u x.d (Claims.act x.g s) 3 fun i =>
      if x.c.val % 2 = 0 then ((BitVec.ofNat w (elem i)).signExtend 32).toNat else elem i)) ∧
    (x.q < packParts w → 4 ≤ x.c.val → packBS y x.c = false →
      Claims.Gives (.vunpack u x) s (s.wrV u x.d (Claims.act x.g s) 3 fun i => fp32.round ((packFmt y x.c).read (elem i)) .rne)) ∧
    (∀ sc, x.q < packParts w → packBS y x.c = true → s.pre.read (.vn u 3) = .ok sc → Claims.Gives (.vunpack u x) s (s.wrV u x.d (Claims.act x.g s) 3
      fun i => fp32.round (unscale (bitsOf sc (8 * ((64 * x.q + i) / 32)) 8) ((packFmt y x.c).read (elem i))) .rne)))

/-- v[q] after n levels of R176. -/
def Claims.tree (f : Nat → Nat → Nat) (v : Nat → Nat) : Nat → Nat → Nat
  | 0, q => v q
  | n + 1, q => f (Claims.tree f v n (2 * q)) (Claims.tree f v n (2 * q + 1))
/-- A lane, or the identity in an inactive lane. -/
def Claims.contrib (g : Guard) (s : State) (a id i : Nat) : Nat := if (Claims.act g s).testBit i then lane a i else id
/-- Sums and maxima of a type, and their identities. -/
def Claims.sum (t : VType) (r : Rnd) (a b : Nat) : Nat :=
  if t = .f32 then fp32.round ((f32 a).add (f32 b) r) r else (Claims.b32 a + Claims.b32 b).toNat
def Claims.maxOf (t : VType) (a b : Nat) : Nat :=
  if t = .f32 then fp32.round ((f32 a).max (f32 b)) .rne
  else if (if t = .i32 then (Claims.b32 a).slt (Claims.b32 b) else (Claims.b32 a).ult (Claims.b32 b)) then b else a
/-- R176, R177: reductions over the fixed tree into lane 0, and prefix sums from lane 0 up. -/
def Claims.VectorReductions : Prop :=
  ∀ (u : VUnit) (x : VTyp2) (s : State) (a : Nat), Claims.Lanes x.g s → Claims.Clear s (vLoc u x.d) → s.rdV u x.a = .ok a →
    let least0 := if x.t = .f32 then 0x80000000 else 0
    let least := if x.t = .f32 then 0xFF800000 else if x.t = .i32 then 0x80000000 else 0
    Claims.Gives (.vredadd u x) s (s.wr (vLoc u x.d) (Claims.tree (Claims.sum x.t x.r) (Claims.contrib x.g s a least0) 6 0) (2 ^ 2048 - 1) 1
      (if x.t = .f32 then 12 else 6)) ∧
    Claims.Gives (.vredmax u x) s (s.wr (vLoc u x.d) (Claims.tree (Claims.maxOf x.t) (Claims.contrib x.g s a least) 6 0) (2 ^ 2048 - 1) 1 6) ∧
    Claims.Gives (.vscan u x) s (s.wrV u x.d (Claims.act x.g s) 16 fun i =>
      (List.range (i + 1)).foldl (fun acc j => Claims.sum x.t x.r acc (Claims.contrib x.g s a least0 j)) least0)
/-- R168, R169, R174-R177, R183: logic, bits, selection, lane movement, reductions and scans. -/
def Obligations.VectorLanes : Prop := Claims.LaneForms ∧ Claims.VectorReductions

/-- Addresses of Table 8-7, of the base and index operands. -/
def Claims.places : List ((VUnit → VRR → Instr) × (VUnit → VRR → Instr) × (Nat → Nat → Nat → BitVec 32)) :=
  [(.vld, .vst, fun a b i => Claims.b32 (lane a 0) + Claims.b32 (lane b 0) + 4 * BitVec.ofNat 32 i),
   (.vlds, .vsts, fun a b i => Claims.b32 (lane a 0) + BitVec.ofNat 32 i * Claims.b32 (lane b 0)),
   (.vgath, .vscat, fun a b i => Claims.b32 (lane a 0) + Claims.b32 (lane b i))]
/-- Every active lane's address is a word of the scratchpads that the context may touch, at the key it names (R178). -/
abbrev Claims.Reaches (s : State) (g : Guard) (addr key : Nat → Nat) : Prop :=
  ∀ i ∈ Claims.active g s, addr i % 4 = 0 ∧ s.padKey s.me (addr i) = some (key i)
/-- No segment is open, or its log and its buffer have room (R130). -/
abbrev Claims.Room (s : State) : Prop := ∀ g ∈ (s.ctx s.me).seg, g.logged < 512 ∧ g.used < 256 ∧ g.atoms < 256
/-- The context's own accesses act at their issue, and none of its others acts before them: no load or atomic of the bundle at hand waits
(R304), and with a segment open no access at all (R130). -/
abbrev Claims.Quiet (s : State) : Prop :=
  (s.ctx s.me).exact = false ∧ (∀ y ∈ (s.ctx s.me).accs, y.isLoad = true ∨ y.isAtom = true → y.bun ≠ s.pre.seq) ∧
    ((s.ctx s.me).seg.isSome = true → ∀ y ∈ (s.ctx s.me).accs, y.kind = .done)
/-- No segment is open, and no store or atomic of the bundle has acted. -/
abbrev Claims.Alone (s : State) : Prop := s.pre.seg = none ∧ (s.ctx s.me).seg = none ∧ s.opened.map (·.acted) = some false
/-- The words that wait join the context's list, one access for each (R22, R306); the own words of a context that runs exactly among them,
marked (R342). -/
def Claims.Joins (s t : State) (lanes : List Nat) (key : Nat → Nat) (f : Nat → Access) : Prop :=
  ∀ i ∈ lanes, ((s.ctx s.me).exact = true ∨ key i / spaceSize ≠ padSpace (coreOf s.me)) →
    ∃ q, { f i with key := key i, part := s.pre.part, scope := s.scope, width := 32, seq := q, bun := s.pre.seq,
                    own := decide (key i / spaceSize = padSpace (coreOf s.me)) } ∈ (t.ctx s.me).accs
/-- The slot raised nothing. -/
abbrev Claims.NoTrap (s t : State) : Prop := t.opened.map Open.raised = s.opened.map Open.raised
/-- Every active lane's word lies in the own scratchpad. -/
abbrev Claims.Own (s : State) (g : Guard) (key : Nat → Nat) : Prop := ∀ i ∈ Claims.active g s, key i / spaceSize = padSpace (coreOf s.me)
/-- The bound of a vector access that brings a value: 8 vector cycles, or 14 where a lane lies in another core's scratchpad (R181). -/
def Claims.lands (s : State) (g : Guard) (key : Nat → Nat) : Nat :=
  s.after (coreOf s.me) 1 (if (Claims.active g s).all fun i => key i / spaceSize == padSpace (coreOf s.me) then 8 else 14)
/-- The access of a lane whose value goes to lane i of a register. -/
def Claims.laneAccess (kind : AccKind) (l : Loc) (i due : Nat) : Access :=
  { Access.blank kind 4 with dst := some l, shift := 32 * i, cls := 1, due := due }
/-- What a vector load brings: of own words of a context that does not run exactly, `Claims.Loads`; the other words wait. -/
def Claims.LaneLoads (u : VUnit) (d : Dst) (g : Guard) (s t : State) (key : Nat → Nat) (own : Prop) : Prop :=
  ((s.ctx s.me).exact = false → Claims.Own s g key → own) ∧
    (Claims.Alone s → ∀ l, vLoc u d = some l → Claims.Joins s t (Claims.active g s) key fun i => Claims.laneAccess .load l i (Claims.lands s g key))
/-- What a load of own words brings: nothing changes at once; the active lanes' words land by 8 vector cycles (R181). -/
def Claims.Loads (u : VUnit) (d : Dst) (g : Guard) (s t : State) (key : Nat → Nat) : Prop :=
  t.mem = s.mem ∧ (t.ctx s.me).regs = (s.ctx s.me).regs ∧ (t.ctx s.me).flights = (s.ctx s.me).flights ∧ (∀ j, j ≠ s.me → t.ctx j = s.ctx j) ∧
    (∀ l, vLoc u d = some l → (t.ctx s.me).accs.length = (s.ctx s.me).accs.length + (Claims.active g s).length ∧
      (∀ y ∈ (s.ctx s.me).accs, y ∈ (t.ctx s.me).accs) ∧ ∀ i ∈ Claims.active g s, ∃ y ∈ (t.ctx s.me).accs, y.kind = .done ∧ y.dst = some l ∧
        y.shift = 32 * i ∧ y.width = 32 ∧ y.cls = 1 ∧ y.due = s.after (coreOf s.me) 1 8 ∧ y.val = s.loadMem.getN (key i) 4) ∧
    (vLoc u d = none → (t.ctx s.me).accs = (s.ctx s.me).accs)
/-- R178-R181, Table 8-7: a vector load or store whose lanes' words the context may touch completes; of own words, it reads or writes them as
said, a higher lane's value remaining; the first active lane that is not aligned or not mapped traps with its address. -/
def Claims.VectorAccesses : Prop :=
  (∀ e ∈ Claims.places, ∀ (u : VUnit) (x : VRR) (s : State) (a b : Nat) (key : Nat → Nat), Claims.Lanes x.g s → s.rdV u x.a = .ok a → s.rdV u x.b = .ok b →
    let addr (i : Nat) : Nat := (e.2.2 a b i).toNat
    (Claims.Reaches s x.g addr key → s.poison = [] → Claims.Clear s (vLoc u x.d) → ∃ t, exec (e.1 u x) s = .next t ∧ Claims.NoTrap s t ∧
      Claims.LaneLoads u x.d x.g s t key (Claims.Loads u x.d x.g s t key)) ∧
    (∀ v, s.rdVD u x.d = .ok v → Claims.Reaches s x.g addr key → Claims.Room s → ∃ t, exec (e.2.1 u x) s = .next t ∧ Claims.NoTrap s t ∧
      (Claims.Alone s → Claims.Joins s t (Claims.active x.g s) key fun i =>
        { Access.blank .store 4 with val := lane v i, due := s.now + paddedTime (coreOf s.me) (key i) }) ∧
      (s.mem.wf = true → Claims.Quiet s → Claims.Own s x.g key → (t.ctx s.me).regs = (s.ctx s.me).regs ∧ (∀ j, j ≠ s.me → t.ctx j = s.ctx j) ∧
        (∀ i ∈ Claims.active x.g s, (∀ j ∈ Claims.active x.g s, i < j → key j ≠ key i) → t.mem.getN (key i) 4 = lane v i) ∧
        (∀ n, (∀ i ∈ Claims.active x.g s, n < key i ∨ key i + 4 ≤ n) → t.mem.get n = s.mem.get n))) ∧
    (∀ i rest, Claims.active x.g s = i :: rest →
      (addr i % 4 ≠ 0 → exec (e.1 u x) s = .next (s.raise u.slot 5 (addr i) none) ∧
        ((∃ v, s.rdVD u x.d = .ok v) → exec (e.2.1 u x) s = .next (s.raise u.slot 5 (addr i) none))) ∧
      (addr i % 4 = 0 → s.padKey s.me (addr i) = none → exec (e.1 u x) s = .next (s.raise u.slot 6 (addr i) none) ∧
        ((∃ v, s.rdVD u x.d = .ok v) → exec (e.2.1 u x) s = .next (s.raise u.slot 6 (addr i) none))))) ∧
  (∀ (u : VUnit) (x : VTbl) (s : State) (a b : Nat) (key : Nat → Nat), Claims.Lanes x.g s → s.rdV u x.a = .ok a → s.rdV u x.b = .ok b →
    Claims.Reaches s x.g (fun i => (Claims.b32 (lane b 0) + 4 * BitVec.ofNat 32 (lane a i % 2 ^ x.k.val)).toNat) key → s.poison = [] → Claims.Clear s (vLoc u x.d) →
    ∃ t, exec (.vtbl u x) s = .next t ∧ Claims.NoTrap s t ∧ Claims.LaneLoads u x.d x.g s t key (Claims.Loads u x.d x.g s t key))

/-- Read-modify-write of the words of some lanes in order: the memory left, and the old values. -/
def Claims.rmw (f : Nat → Nat → Nat) (key data : Nat → Nat) : List Nat → Memory → Memory × List (Nat × Nat)
  | [], m => (m, [])
  | i :: r, m =>
    let old := m.getN (key i) 4
    let out := Claims.rmw f key data r (m.putN (key i) 4 (f old (data i)))
    (out.1, (i, old) :: out.2)
/-- R182, R155, R178: vector atomics update the words of their active lanes in ascending order and return the old values; VAFADD traps on an open
DET reduction, once the access of every lane has passed, with that lane's address as value (DESIGN CHOICE, log 33). -/
def Claims.VectorAtomics : Prop :=
  ∀ (u : VUnit) (g : Guard) (d : Dst) (p q : Src) (ty : VType) (s : State) (a b : Nat) (key : Nat → Nat), Claims.Lanes g s →
    s.rdV u p = .ok a → s.rdV u q = .ok b → Claims.Reaches s g (lane a) key → s.poison = [] → Claims.Clear s (vLoc u d) → Claims.Room s →
    let done (i : Instr) (op : AtomOp) (f : Nat → Nat → Nat) : Prop := ∃ t, exec i s = .next t ∧ Claims.NoTrap s t ∧
      (Claims.Alone s → ((s.ctx s.me).exact = true ∨ ∀ j ∈ Claims.active g s, key j / spaceSize ≠ padSpace (coreOf s.me)) → ∀ l, vLoc u d = some l →
        Claims.Joins s t (Claims.active g s) key fun i => { Claims.laneAccess (.atomic op) l i (Claims.lands s g key) with val := lane b i }) ∧
      (Claims.Quiet s → Claims.Own s g key →
      let out := Claims.rmw f key (lane b) (Claims.active g s) s.mem
      t.mem = out.1 ∧ (t.ctx s.me).regs = (s.ctx s.me).regs ∧ (∀ j, j ≠ s.me → t.ctx j = s.ctx j) ∧
      ∀ l, vLoc u d = some l → ∀ z ∈ out.2, ∃ y ∈ (t.ctx s.me).accs, y.kind = .done ∧ y.dst = some l ∧ y.shift = 32 * z.1 ∧ y.width = 32 ∧
        y.cls = 1 ∧ y.due = s.after (coreOf s.me) 1 8 ∧ y.val = z.2)
    done (.vaadd u ⟨g, d, p, q, ty⟩) .add (fun o v => (Claims.b32 o + Claims.b32 v).toNat) ∧
    ((∀ i ∈ Claims.active g s, s.inReduction (key i) 4 = false) →
      done (.vafadd u ⟨g, d, p, q⟩) .fadd fun o v => fp32.round ((fp32.read o).add (fp32.read v) .rne) .rne) ∧
    (∀ i, (Claims.active g s).find? (fun i => s.inReduction (key i) 4) = some i →
      exec (.vafadd u ⟨g, d, p, q⟩) s = .next (s.raise u.slot 19 (lane a i) none))
/-- R155, R178-R182: vector loads, stores and atomics; the place and the TVAL of VAFADD's ORDERED_CONFLICT are log 33's. -/
def Obligations.VectorMemory : Prop := Claims.VectorAccesses ∧ Claims.VectorAtomics

/-! The series unit. -/
/-- Order p of XO. -/
def Claims.p (s : State) : Nat := s.pre.regs.dat.xo.toNat % 16
/-- R187: the indices of a written register from (p + 1)² to 255 hold +0. -/
abbrev Claims.Tail (p v : Nat) : Prop := v < 2 ^ 8192 ∧ ∀ j, (p + 1) ^ 2 ≤ j → j < 256 → lane v j = 0
/-- R186-R188, R191, R197: the short series operations, by their exposed bounds in series cycles. -/
def Obligations.SeriesShort : Prop :=
  (∀ (x : XD) (s : State), Claims.On x.g s → Claims.Clear s (some (.x x.d)) → Claims.Gives (.xclr x) s (s.wr (some (.x x.d)) 0 (2 ^ 8192 - 1) 2 2)) ∧
  (∀ (x : XSeto) (s : State) (a : Nat), Claims.On x.g s → s.rdV .b x.a = .ok a →
    exec (.xseto x) s = .next ((s.modMe fun c => c.modDat fun d => { d with xo := Claims.b32 (lane a 0) ++ BitVec.ofNat 32 x.o.val }).note 3 8
      (Claims.b32 (lane a 0) ++ BitVec.ofNat 32 x.o.val).toNat)) ∧
  (∀ (x : XXX) (s : State) (a b : Nat), Claims.On x.g s → Claims.Clear s (some (.x x.d)) → s.rdX x.a = .ok a → s.rdX x.b = .ok b →
    ∃ v, Claims.Gives (.xadd x) s (s.wr (some (.x x.d)) v (2 ^ 8192 - 1) 2 8) ∧ Claims.Tail (Claims.p s) v ∧
      ∀ j, j < (Claims.p s + 1) ^ 2 → lane v j = rne ((f32 (lane a j)).add (f32 (lane b j)) .rne)) ∧
  (∀ (x : XAdm) (s : State) (a b : Nat), Claims.On x.g s → Claims.Clear s (some (.p x.d)) → s.rdV .b x.a = .ok a → s.rdV .b x.b = .ok b →
    ∃ v, Claims.Gives (.xadm x) s (s.wrP x.d v (2 ^ 64 - 1) 2 6) ∧
      ∀ j, j < 16 → bitsOf v (4 * j) 4 = if j < x.c.val ∧ admissible (s.pre.regs.dat.xo.toNat / 2 ^ 32) a b j = true then 15 else 0) ∧
  (∀ (x : XGet) (s : State) (a : Nat), Claims.On x.g s → Claims.Clear s (vLoc .b x.d) → s.rdX x.a = .ok a →
    Claims.Gives (.xget x) s (s.wr (vLoc .b x.d) (vlanes fun i => lane a (64 * x.k + i)) (2 ^ 2048 - 1) 2 3))
/-- R188, R192-R196, Table 8-10: the long series operations set their destination busy until it lands, by their bounds in series cycles. -/
def Claims.SeriesOperations : Prop :=
  (∀ (x : XForm) (s : State) (a d : Nat), Claims.On x.g s → Claims.Clear s (some (.x x.d)) → s.rdV .b x.a = .ok a → s.rdX x.d = .ok d →
    let q := Claims.p s + 1
    let v := xformAll (Claims.p s) x.c a d
    Claims.Gives (.xform x) s (s.longCharge.wrLock (some (.x x.d)) v (2 ^ 8192 - 1) 2 (16 + 4 * q ^ 2 * x.c) true) ∧ Claims.Tail (Claims.p s) v ∧
      (x.c.val = 0 → ∀ n m, m ≤ n → n ≤ Claims.p s → coefAt v n m = coefAt d n m)) ∧
  (∀ (x : XXB) (s : State) (a d b : Nat), Claims.On x.g s → Claims.Clear s (some (.x x.d)) → s.rdX x.a = .ok a → s.rdX x.d = .ok d → s.rdV .b x.b = .ok b →
    let q := Claims.p s + 1
    let put (v L : Nat) : Res State := s.longCharge.wrLock (some (.x x.d)) v (2 ^ 8192 - 1) 2 L true
    Claims.Gives (.xm2m x) s (put (xm2mAll (Claims.p s) a d b) (16 + q ^ 4)) ∧ Claims.Tail (Claims.p s) (xm2mAll (Claims.p s) a d b) ∧
    Claims.Gives (.xl2l x) s (put (xl2lAll (Claims.p s) a d b) (16 + q ^ 4)) ∧ Claims.Tail (Claims.p s) (xl2lAll (Claims.p s) a d b) ∧
    Claims.Gives (.xm2l x) s (put (xm2lAll (Claims.p s) a d b) (32 + 6 * q ^ 3)) ∧ Claims.Tail (Claims.p s) (xm2lAll (Claims.p s) a d b)) ∧
  (∀ (x : XXB) (s : State) (a b : Nat), Claims.On x.g s → Claims.Clear s (some (.x x.d)) → s.rdX x.a = .ok a → s.rdV .b x.b = .ok b →
    ∃ v, Claims.Gives (.xnorm x) s (s.longCharge.wrLock (some (.x x.d)) v (2 ^ 8192 - 1) 2 80 true) ∧ Claims.Tail (Claims.p s) v ∧
      coefAt v 0 0 = (rne ((f32 (coefAt a 0 0).1).mul (f32 0x3F800000)), 0)) ∧
  (∀ (x : XEval) (s : State) (a b : Nat), Claims.On x.g s → Claims.Clear s (vLoc .b x.d) → s.rdX x.a = .ok a → s.rdV .b x.b = .ok b →
    Claims.Gives (.xeval x) s (s.longCharge.wrLock (vLoc .b x.d) (xevalAll (Claims.p s) x.c a b) (2 ^ (128 * x.c.val) - 1) 2
      (16 + 8 * (Claims.p s + 1) ^ 2 * x.c) true))
/-- The 256 words from address a, each in the scratchpads that the context may touch (R178, R191). -/
abbrev Claims.Words (s : State) (a : Nat) (key : Nat → Nat) : Prop := ∀ j, j < 256 → s.padKey s.me (a + 4 * j) = some (key j)
/-- R191: XLD and XST move all 256 coefficients of a 64-byte aligned range; an address that is not aligned traps MISALIGNED, one outside traps
UNMAPPED. -/
def Claims.SeriesMemory : Prop :=
  ∀ (x : XMem) (s : State) (a b : Nat) (key : Nat → Nat), Claims.On x.g s → s.rdV .b x.a = .ok a → s.rdV .b x.b = .ok b →
    let A := (Claims.b32 (lane a 0) + Claims.b32 (lane b 0)).toNat
    (A % 64 ≠ 0 → exec (.xld x) s = .next (s.raise 4 5 A none)) ∧
    (A % 64 = 0 → (∃ j, j < 256 ∧ s.padKey s.me (A + 4 * j) = none) → exec (.xld x) s = .next (s.raise 4 6 A none)) ∧
    (A % 64 = 0 → Claims.Words s A key → s.poison = [] → Claims.Clear s (some (.x x.d)) → ∃ t, exec (.xld x) s = .next t ∧ Claims.NoTrap s t ∧
      ((∀ j, j < 256 → key j / spaceSize = padSpace (coreOf s.me)) →
        ((s.ctx s.me).exact = false → t.mem = s.mem ∧ ∃ y, (t.ctx s.me).accs = (s.ctx s.me).accs ++ [y] ∧ y.kind = .done ∧
          y.dst = some (.x x.d) ∧ y.shift = 0 ∧ y.width = 8192 ∧ y.cls = 2 ∧ y.due = s.after (coreOf s.me) 2 48 ∧
          ∀ j, j < 256 → lane y.val j = s.loadMem.getN (key j) 4) ∧
        ((s.ctx s.me).exact = true → Claims.Alone s → t.mem = s.mem ∧ ∃ y ∈ (t.ctx s.me).accs, y.kind = .load ∧ y.key = key 0 ∧ y.n = 1024 ∧ y.own = true ∧
          y.dst = some (.x x.d) ∧ y.shift = 0 ∧ y.width = 8192 ∧ y.cls = 2 ∧ y.due = s.after (coreOf s.me) 2 48)) ∧
      (Claims.Alone s → (∃ j, j < 256 ∧ key j / spaceSize ≠ padSpace (coreOf s.me)) → Claims.Joins s t (List.range 256) key fun j =>
        { Claims.laneAccess .load (.x x.d) j (s.after (coreOf s.me) 2 54) with cls := 2 })) ∧
    (∀ v, s.rdX x.d = .ok v →
      (A % 64 ≠ 0 → exec (.xst x) s = .next (s.raise 4 5 A none)) ∧
      (A % 64 = 0 → (∃ j, j < 256 ∧ s.padKey s.me (A + 4 * j) = none) → exec (.xst x) s = .next (s.raise 4 6 A none)) ∧
      (A % 64 = 0 → Claims.Words s A key → Claims.Room s → ∃ t, exec (.xst x) s = .next t ∧ Claims.NoTrap s t ∧
        (Claims.Alone s → Claims.Joins s t (List.range 256) key fun j =>
          { Access.blank .store 4 with val := lane v j, due := s.now + paddedTime (coreOf s.me) (key j) }) ∧
        (s.mem.wf = true → Claims.Quiet s → (∀ j, j < 256 → key j / spaceSize = padSpace (coreOf s.me)) →
          (∀ j, j < 256 → t.mem.getN (key j) 4 = lane v j) ∧ (∀ n, (∀ j, j < 256 → n < key j ∨ key j + 4 ≤ n) → t.mem.get n = s.mem.get n))))
/-- R188, R191-R196: the long series operations, and the series loads and stores. -/
def Obligations.SeriesLong : Prop := Claims.SeriesOperations ∧ Claims.SeriesMemory

/-! The matrix slot. -/
/-- Chunk k, 64 bits, of a main-file register. -/
def Claims.chunk (m k : Nat) : Nat := m / 2 ^ (64 * k) % 2 ^ 64
/-- R208, R210, R216, R217, R222, R223: descriptors, moves, the shape, and what the slot reads of the accumulators. -/
def Obligations.MatrixRegisters : Prop :=
  (∀ (x : MMdset) (s : State) (v o : Nat), Claims.On x.g s → x.s.rd s = .ok v → s.pre.read (.md x.n) = .ok o →
    let V := BitVec.ofNat 64 v
    let O := BitVec.ofNat 64 o
    let w : BitVec 64 := if x.t.val = 0 then V else if x.t.val = 1 then O.extractLsb' 32 32 ++ V.setWidth 32 else V.setWidth 32 ++ O.setWidth 32
    ∃ u, exec (.mdset x) s = .next ((s.writeNow s.me (.md x.n) u (2 ^ 64 - 1)).note 3 8 u) ∧ BitVec.ofNat 64 u = w) ∧
  (∀ (x : MMove) (s : State) (v : Nat), Claims.On x.g s → Claims.Clear s (some (.m x.j)) → s.pre.read (.md x.n) = .ok v →
    let r := s.wr (some (.m x.j)) (v * 2 ^ (64 * x.k.val)) ((2 ^ 64 - 1) * 2 ^ (64 * x.k.val)) 3 2
    Claims.Gives (.mdget x) s r ∧ Claims.Gives (.matrixPutm x) s r) ∧
  (∀ (x : MGetm) (s : State) (m : Nat), Claims.On x.g s → Claims.Clear s (some (.md x.n)) → s.rdM x.j = .ok m →
    Claims.Gives (.matrixGetm x) s (s.wr (some (.md x.n)) (Claims.chunk m x.k) (2 ^ 64 - 1) 3 2)) ∧
  (∀ (x : MXfer) (s : State) (v : Nat), Claims.On x.g s → x.wf = true → s.pre.read (.md x.n) = .ok v →
    let dest : Loc := if x.s.val = 2 then sReg x.r else if x.s.val = 3 then vReg .a x.r else vReg .b x.r
    Claims.Clear s (some dest) → Claims.Gives (.matrixXfer x) s (s.wr (some dest) v (2 ^ 64 - 1) 3 3)) ∧
  (∀ (x : MRead) (s : State), Claims.On x.g s → Claims.Clear s (some (.m x.j)) →
    let row := (s.pre.regs.dat.z[x.k].rows[x.r]).toNat
    let since := s.pre.finals.find? fun f => f.1 = x.k && decide (f.2.1 ≤ x.r.val) && decide (x.r.val < f.2.2.1)
    (x.r.val < s.pre.wz[x.k] → since = none → Claims.Gives (.mrdz x) s (s.wr (some (.m x.j)) row (2 ^ 2048 - 1) 3 4)) ∧
    (x.r.val < s.pre.wz[x.k] → ∀ f, since = some f →
      Claims.Gives (.mrdz x) s (s.wrBy (.m x.j) row (2 ^ 2048 - 1) 3 (f.2.2.2 + 4 * (s.core (coreOf s.me)).div[(3 : Fin 5)]))) ∧
    (s.pre.wz[x.k] ≤ x.r.val → exec (.mrdz x) s = .next (s.holdSlot 5 true none))) ∧
  (∀ (x : MWm) (s : State), Claims.On x.g s → Claims.Clear s (some (.p x.d)) →
    Claims.Gives (.mwm x) s (s.wrP x.d (Claims.mask64 (decide (x.r.val < s.pre.wz[x.k]))) (2 ^ 64 - 1) 3 1)) ∧
  (∀ (x : MZM) (s : State), Claims.On x.g s → Claims.Clear s (some (.m x.j)) →
    (s.pre.busyZ x.k = false → Claims.Gives (.mres x) s (s.wr (some (.m x.j))
      (mresLanes s.pre.regs.dat.z[x.k] s.pre.regs.dat.rows s.pre.regs.dat.cols s.pre.regs.sys.tol.toNat) (2 ^ 2048 - 1) 3 72)) ∧
    (s.pre.busyZ x.k = true → exec (.mres x) s = .next (s.holdSlot 5 true none))) ∧
  (∀ (x : MTag) (s : State), Claims.On x.g s → Claims.Clear s (some (.md x.n)) →
    (s.pre.busyZ x.k = false → Claims.Gives (.mtag x) s (s.wr (some (.md x.n)) s.pre.regs.dat.z[x.k].tag.toNat (2 ^ 64 - 1) 3 2)) ∧
    (s.pre.busyZ x.k = true → exec (.mtag x) s = .next (s.holdSlot 5 true none))) ∧
  (∀ (x : MMir) (s : State), Claims.On x.g s →
    exec (.mmir x) s = .next (s.modMe fun c => c.modDat fun d => { d with rows := x.r.val + 1, cols := x.c.val + 1, mirror := x.e })) ∧
  (∀ (x : MN) (s : State) (v : Nat), Claims.On x.g s → s.pre.read (.md x.n) = .ok v → v < 2 ^ 64 →
    let cap := bitsOf v 32 24
    (v / 2 ^ 56 ≠ 0 → exec (.mpitch x) s = .next (s.raise 5 16 0 none)) ∧
    (v / 2 ^ 56 = 0 → (cap = 0 ∨ s.padCheck s.me (v % 2 ^ 32) cap = .ok ()) →
      exec (.mpitch x) s = .next (s.modMe fun c => c.modDat fun d => { d with trace := ⟨v % 2 ^ 32, cap, 0⟩ })) ∧
    (v / 2 ^ 56 = 0 → cap ≠ 0 → s.padCheck s.me (v % 2 ^ 32) cap ≠ .ok () → exec (.mpitch x) s = .next (s.raise 5 6 (v % 2 ^ 32) none)))

/-- The command that an instruction issues: it takes its number and its place (R200). -/
def Claims.Issues (i : Instr) (s : State) (m : Cmd) : Prop := exec i s = .next (s.enqueue m)
/-- R99, R199, R200: a command issued takes the next number of its engine, with the scope and the time of its bundle; a command that writes an
accumulator sets its watermark to 0; nothing else of the context changes, and no memory. -/
def Obligations.CommandIssue : Prop :=
  ∀ (s : State) (m : Cmd),
    let c := s.ctx s.me
    let t := s.enqueue m
    (t.ctx s.me).regs.dat.issued = c.regs.dat.issued.set m.eng (c.regs.dat.issued[m.eng] + 1) ∧
    (t.ctx s.me).cmds = c.cmds ++ [{ m with num := c.regs.dat.issued[m.eng] + 1, scope := s.scope, issued := s.now, seqAt := s.pre.seq, order := (s.core (coreOf s.me)).order }] ∧
    (∀ z, m.writesZ = some z → (t.ctx s.me).wz = c.wz.set z 0) ∧ (m.writesZ = none → (t.ctx s.me).wz = c.wz) ∧
    t.ctx s.me = { c with cmds := (t.ctx s.me).cmds, wz := (t.ctx s.me).wz,
                          regs := { c.regs with dat := { c.regs.dat with issued := (t.ctx s.me).regs.dat.issued } } } ∧
    t.mem = s.mem ∧ (∀ j, j ≠ s.me → t.ctx j = s.ctx j) ∧
    (t.core (coreOf s.me)).order = (s.core (coreOf s.me)).order + 1

/-- An engine command of the matrix slot takes effect: its guard is on and fewer than 64 of the engine have not performed (R96, R200). -/
abbrev Claims.Cmds (g : Guard) (s : State) : Prop := Claims.On g s ∧ s.pre.pendingOf 0 < 64
/-- The guards of the matrix commands that read their operands as fields name them. -/
def Claims.muls : List ((MMul → Instr) × Bool × Bool) := [(.mma, false, false), (.mmaz, true, false), (.mchk, false, true), (.mchkz, true, true)]
/-- R203-R206, R209, R211-R213, R322: a multiplying command reads its operands, its format and its shape at issue; a nest names every k-tile. -/
def Claims.MultiplyForms : Prop :=
  (∀ e ∈ Claims.muls, ∀ (x : MMul) (s : State) (a b : MOpnd), Claims.Cmds x.g s →
    let fmt := s.pre.regs.sys.fmt[x.f]
    s.rdOperand x.a x.c fmt = .ok a → s.rdOperand x.b x.c fmt = .ok b → ∃ m, Claims.Issues (e.1 x) s m ∧ m.eng = 0 ∧
      m.op = .mul { k := x.k, clr := e.2.1, chk := e.2.2, a := a, b := b, code := x.c, fmt := fmt, rows := s.pre.regs.dat.rows, cols := s.pre.regs.dat.cols,
                    mirror := s.pre.regs.dat.mirror, steps := [(0, 0)] } ∧
      (s.pre.pitch.lat0 = 0 → m.limit = none) ∧
      (s.pre.pitch.lat0 ≠ 0 → m.limit = some (s.after (coreOf s.me) 3 (s.pre.pitch.lat0 + if e.2.2 then 8 else 0)))) ∧
  (∀ e ∈ [(Instr.mnest, false), (Instr.mnestz, true)], ∀ (x : MNest) (s : State) (t : Nat) (a b : MPair), Claims.Cmds x.g s →
    s.rdM x.j = .ok t → s.rdPair x.a = .ok a → s.rdPair x.b = .ok b →
    let fmt := s.fmtReg (lane t 1 / 16)
    let cycles := (nestCount t + 63) / 64
    let bad := nestOk t = false ∨ 2 ^ 24 < nestCount t ∨ a.ok = false ∨ b.ok = false ∨
      (isLadder (lane t 1 % 16) = true ∧ (a.stride ≠ 0 ∨ a.rot ≠ 0 ∨ b.stride ≠ 0 ∨ b.rot ≠ 0))
    (bad → exec (e.1 x) s = .next (s.raise 5 16 0 none)) ∧
    (¬bad → s.pre.checkAt = none → 0 < cycles → exec (e.1 x) s = .next ((s.modOpen fun o => { o with nest := cycles }).holdSlot 5 false none)) ∧
    (¬bad → (∃ w, s.pre.checkAt = some w ∧ w ≤ s.now) → s.nestCheck a b (lane t 1 % 16) fmt (nestSteps t) = .ok () →
      ∃ m, exec (e.1 x) s = .next ((s.note 6 256 t).enqueue m) ∧ m.eng = 0 ∧ (nestSteps t).length = nestCount t ∧
        m.op = .mul { k := x.k, clr := e.2, chk := false, a := .mem a, b := .mem b, code := lane t 1 % 16, fmt := fmt, rows := s.pre.regs.dat.rows,
                      cols := s.pre.regs.dat.cols, mirror := s.pre.regs.dat.mirror, steps := nestSteps t })) ∧
  (∀ (s : State) (g : Guard), Claims.On g s → 64 ≤ s.pre.pendingOf 0 → ∀ e ∈ Claims.muls, ∀ x : MMul, x.g = g → exec (e.1 x) s = .next (s.holdSlot 5 false none))

/-- R99, R106, R203-R206: what the issue of a command checks of a tile or descriptor operand; a tile that is busy blocks first. -/
def Claims.MatrixOperands : Prop :=
  (∀ (s : State) (i : Fin 8) (code : Nat) (fmt : BitVec 32),
    ((s.pre.busyT i = true ∨ code = 10 ∧ s.pre.busyT (i.val + 1) = true) → s.rdOperand (.t i) code fmt = .error .block) ∧
    (s.pre.busyT i = false → (code = 10 → s.pre.busyT (i.val + 1) = false) →
      (blockScaled code fmt = true → s.rdOperand (.t i) code fmt = .error (.trap 4 0)) ∧
      (blockScaled code fmt = false → s.rdOperand (.t i) code fmt = .ok (.tile i))) ∧
    s.rdOperand .zero code fmt = .ok .zero) ∧
  (∀ (s : State) (q : Fin 4) (e o code : Nat) (fmt : BitVec 32), s.pre.read (.md (Fin.ofNat 8 (2 * q.val))) = .ok e → s.pre.read (.md (Fin.ofNat 8 (2 * q.val + 1))) = .ok o →
    let p : MPair := ⟨BitVec.ofNat 64 e, BitVec.ofNat 64 o⟩
    let base := (p.even.extractLsb' 0 32).toNat
    let stride := (p.even.extractLsb' 32 16).toNat
    let bad := p.even.extractLsb' 48 3 ≠ 0 ∨ p.even.extractLsb' 56 8 ≠ 0 ∨ 23 < (p.even.extractLsb' 51 5).toNat
    (bad → s.rdOperand (.pair q) code fmt = .error (.trap 16 0)) ∧
    (¬bad → isLadder code = false → base % 16 ≠ 0 → s.rdOperand (.pair q) code fmt = .error (.trap 5 base)) ∧
    (¬bad → isLadder code = true → (stride ≠ 0 ∨ p.rot ≠ 0) → s.rdOperand (.pair q) code fmt = .error (.trap 16 0)) ∧
    (¬bad → isLadder code = false → base % 16 = 0 → stride % 16 = 0 → blockScaled code fmt = false →
      (∀ r, r < 64 → s.padCheck s.me (p.row r) (rowBytes code fmt) = .ok ()) → s.rdOperand (.pair q) code fmt = .ok (.mem p)))
/-- R203-R206, R209, R211-R213, R322: multiplying commands at their issue, and what it checks of their operands. -/
def Obligations.MatrixMultiply : Prop := Claims.MultiplyForms ∧ Claims.MatrixOperands

/-- The accumulator-port command that an instruction issues on z: its operation and its latency (R218-R221). -/
def Claims.zPort (i : Instr) (g : Guard) (z : Fin 4) (s : State) (op : CmdOp) (lat : Nat) : Prop :=
  Claims.Cmds g s → (s.pre.busyZ z = false → Claims.Issues i s { Cmd.blank 0 op with lat := lat }) ∧ (s.pre.busyZ z = true → exec i s = .next (s.holdSlot 5 true none))
/-- R99, R207, R214-R216, R218-R221: the other commands of the matrix slot; one whose tile is busy blocks. -/
def Obligations.MatrixCommands : Prop :=
  (∀ (x : MZ) (s : State), Claims.zPort (.mzero x) x.g x.k s (.mzero x.k) 8 ∧ Claims.zPort (.mactRelu x) x.g x.k s (.mact x.k 0 0) 72 ∧
    Claims.zPort (.mactAbs x) x.g x.k s (.mact x.k 1 0) 72) ∧
  (∀ (x : MScale) (s : State), Claims.zPort (.mactScale x) x.g x.k s (.mact x.k 2 x.n.toInt) 72) ∧
  (∀ (x : MZM) (s : State) (m : Nat), s.rdM x.j = .ok m →
    Claims.zPort (.mfix x) x.g x.k s (.mfix x.k (BitVec.ofNat 2048 m) s.pre.regs.dat.rows s.pre.regs.dat.cols) 72 ∧
    Claims.zPort (.mbias x) x.g x.k s (.mbias x.k (BitVec.ofNat 2048 m)) 72) ∧
  (∀ (x : MInj) (s : State), ((s.part s.pre.part).minj = true → Claims.zPort (.minj x) x.g x.k s (.minj x.k x.i x.j x.t x.b) 4) ∧
    ((s.part s.pre.part).minj = false → Claims.Cmds x.g s → s.pre.busyZ x.k = false → exec (.minj x) s = .next (s.raise 5 2 0 none))) ∧
  (∀ (x : MLoad) (s : State) (p : MPair), Claims.Cmds x.g s → s.tileFree x.n (x.c == 10) = .ok () → s.rdPair x.q = .ok p →
    let fmt := s.pre.regs.sys.fmt[x.f]
    (blockScaled x.c fmt = true → exec (.mldt x) s = .next (s.raise 5 4 0 none)) ∧
    (blockScaled x.c fmt = false → s.pairOk s.me p x.c fmt = .ok () →
      Claims.Issues (.mldt x) s { Cmd.blank 0 (.mldt x.n x.c fmt p) with lat := if isGlen s.me p.base then 78 else 72 })) ∧
  (∀ (x : MStore) (s : State) (p : MPair), Claims.Cmds x.g s → s.rdPair x.q = .ok p → s.pairOk s.me p 10 0 = .ok () →
    Claims.Issues (.mstz x) s (s.readRows { Cmd.blank 0 (.mstz x.k p false) with lat := if isGlen s.me p.base then 86 else 80 } x.k) ∧
    (p.aux % 2 ≠ 0 → exec (.mstzTag x) s = .next (s.raise 5 5 p.aux none)) ∧
    (p.aux % 2 = 0 → s.padCheck s.me p.aux 2 = .ok () →
      Claims.Issues (.mstzTag x) s (s.readRows { Cmd.blank 0 (.mstz x.k p true) with lat := if isGlen s.me p.base then 86 else 80 } x.k))) ∧
  (∀ (x : MTrans) (s : State), Claims.Cmds x.g s → s.tileFree x.a (x.c.val == 2) = .ok () → s.tileFree x.d (x.c.val == 2) = .ok () →
    Claims.Issues (.mtr x) s { Cmd.blank 0 (.mtr x.d x.a x.c) with lat := 72, hold := if x.c.val = 2 then [x.a, x.a + 1] else [x.a] }) ∧
  (∀ (x : MCvt) (s : State), Claims.Cmds x.g s → s.tileFree x.d (x.c == 10) = .ok () →
    let fmt := s.pre.regs.sys.fmt[x.f]
    (blockScaled x.c fmt = true → exec (.mcvt x) s = .next (s.raise 5 4 0 none)) ∧
    (blockScaled x.c fmt = false →
      Claims.Issues (.mcvt x) s (s.readRows { Cmd.blank 0 (.mcvt x.d x.k x.r x.c fmt) with lat := 72 } x.k))) ∧
  (∀ (x : MLoad) (y : MCvt) (s : State), (Claims.Cmds x.g s → s.pre.busyT x.n = true → exec (.mldt x) s = .next (s.holdSlot 5 true none)) ∧
    (Claims.Cmds y.g s → s.pre.busyT y.d = true → exec (.mcvt y) s = .next (s.holdSlot 5 true none)))

/-! The copy slots. -/
/-- Fields that share bits: BASE and BASEHI. -/
abbrev Claims.apart (f g : Nat) : Prop := f ≠ g ∧ ¬(f = 0 ∧ g = 12) ∧ ¬(f = 12 ∧ g = 0)
/-- The image d' is d with v written to field f (R225, R227). -/
def Claims.FieldSet (d d' : Desc) (f v : Nat) : Prop :=
  (f ≠ 0 → f ≠ 12 → Desc.field d' f = v % 2 ^ (fieldPlace f).2 ∧ ∀ g, g < 16 → Claims.apart f g → Desc.field d' g = Desc.field d g) ∧
  (f = 12 → Desc.field d' 0 = v % 2 ^ 32 * 2 ^ 32 + Desc.field d 0 % 2 ^ 32 ∧ ∀ g, g < 16 → Claims.apart f g → Desc.field d' g = Desc.field d g) ∧
  (f = 0 → Desc.base d' = v % 2 ^ 64 ∧ Desc.len d' = 0 ∧ Desc.field d' 13 = 1 ∧ Desc.aux d' = 0 ∧ Desc.node d' = 0 ∧
    ∀ i, 1 ≤ i → i ≤ 5 → Desc.count d' i = 1 ∧ Desc.stride d' i = 0)
/-- R225, R227, R228, R245: descriptor fields, moves, and the timeline state that CTLR reports. -/
def Obligations.CopyDescriptors : Prop :=
  (∀ (e : CUnit) (x : CSetI) (s : State) (d : Desc), Claims.On x.g s → s.rdCd e x.n = .ok d →
    ∃ d' : Desc, exec (.cdsetImmediate e x) s = .next ((s.writeNow s.me (.cd e x.n) d'.toNat (2 ^ 1024 - 1)).note 3 128 d'.toNat) ∧ Claims.FieldSet d d' x.f x.i.toNat) ∧
  (∀ (e : CUnit) (x : CSetR) (s : State) (d : Desc) (v : Nat), Claims.On x.g s → s.rdCd e x.n = .ok d → x.s.rd s = .ok v →
    ∃ d' : Desc, exec (.cdsetRegister e x) s = .next ((s.writeNow s.me (.cd e x.n) d'.toNat (2 ^ 1024 - 1)).note 3 128 d'.toNat) ∧ Claims.FieldSet d d' x.f v) ∧
  (∀ (e : CUnit) (x : CGet) (s : State) (d : Desc), Claims.On x.g s → Claims.Clear s (some (.m x.j)) → s.rdCd e x.n = .ok d →
    Claims.Gives (.cdget e x) s (s.wr (some (.m x.j)) (Desc.field d x.f * 2 ^ (64 * x.k.val)) ((2 ^ 64 - 1) * 2 ^ (64 * x.k.val)) 4 2)) ∧
  (∀ (e : CUnit) (x : CGetm) (s : State) (m : Nat), Claims.On x.g s → Claims.Clear s (some (.cd e x.n)) → s.rdM x.j = .ok m →
    Claims.Gives (.copyGetm e x) s (s.wr (some (.cd e x.n)) (m % 2 ^ 1024) (2 ^ 1024 - 1) 4 2)) ∧
  (∀ (e : CUnit) (x : CPutm) (s : State) (d : Desc), Claims.On x.g s → Claims.Clear s (some (.m x.j)) → s.rdCd e x.n = .ok d →
    Claims.Gives (.copyPutm e x) s (s.wr (some (.m x.j)) d.toNat (2 ^ 1024 - 1) 4 2)) ∧
  (∀ (e : CUnit) (x : CXfer) (s : State) (d : Desc), Claims.On x.g s → x.wf = true → s.rdCd e x.n = .ok d →
    let dest : Loc := if x.s.val = 2 then sReg x.r else .md (Fin.ofNat 8 x.r)
    Claims.Clear s (some dest) → Claims.Gives (.copyXfer e x) s (s.wr (some dest) (Desc.field d x.f) (2 ^ 64 - 1) 4 3)) ∧
  (∀ (e : CUnit) (x : CJ) (s : State), Claims.On x.g s → Claims.Clear s (some (.m x.j)) →
    let c := s.pre
    let susp := (c.cmds.filter fun m => m.eng = e.eng && m.susp.isSome).length
    Claims.Gives (.ctlr e x) s
      (s.wr (some (.m x.j)) (c.performedTo e.eng + c.regs.dat.issued[e.eng] * 2 ^ 64 + susp * 2 ^ 128) (2 ^ 192 - 1) 4 2))

/-- A copy command takes effect: its guard is on and fewer than 64 of its engine have not performed (R96, R200). -/
abbrev Claims.Copies (e : CUnit) (g : Guard) (s : State) : Prop := Claims.On g s ∧ s.pre.pendingOf e.eng < 64
/-- The command that goes out, with the descriptors and format registers as they stand (R201). -/
def Claims.Copied (i : Instr) (e : CUnit) (s : State) (op : CopyOp) (d c : Desc) : Prop := Claims.Issues i s (s.copyCmd e op d c)
/-- A trap of the copy slot. -/
def Claims.Traps (i : Instr) (e : CUnit) (s : State) (cause : Nat) : Prop := exec i s = .next (s.raise e.slot cause 0 none)
/-- Two streams of one length within 2^40 bytes (R230). -/
abbrev Claims.Match (d c : Desc) : Prop := Desc.bytes d = Desc.bytes c ∧ Desc.bytes d ≤ 2 ^ 40
/-- Commands of two equal streams. -/
noncomputable def Claims.streams : List ((CUnit → CTwo → Instr) × CopyOp) :=
  [(.cpy, .cpy), (.chostTo, .chost true), (.ccarrTo, .ccarr true), (.ccarrFrom, .ccarr false), (.cswp, .cswp)]
/-- R229-R238: copies, gathers, fills, conversions and prefetches, and what their issue checks. -/
def Obligations.CopyCommands : Prop :=
  (∀ r ∈ Claims.streams, ∀ (e : CUnit) (x : CTwo) (s : State) (d c : Desc), Claims.Copies e x.g s →
    s.rdCd e x.d = .ok d → s.rdCd e x.s = .ok c →
    (Desc.reserved d = false → Desc.reserved c = false → Claims.Match d c → Claims.Copied (r.1 e x) e s r.2 d c) ∧
    ((Desc.reserved d = true ∨ Desc.reserved c = true ∨ ¬Claims.Match d c) → Claims.Traps (r.1 e x) e s 16)) ∧
  (∀ (e : CUnit) (x : CTwo) (s : State) (d c : Desc), Claims.Copies e x.g s → s.takeCd e x.d = .ok d → s.takeCd e x.s = .ok c →
    (s.pre.regs.sys.dmode = true → Claims.Traps (.chostFrom e x) e s 20) ∧
    (s.pre.regs.sys.dmode = false → Claims.Match d c → Claims.Copied (.chostFrom e x) e s (.chost false) d c) ∧
    (let one (y : Desc) : Prop := ∀ i, 2 ≤ i → i ≤ 5 → Desc.count y i = 1
     (one c → Claims.Match d c → Claims.Copied (.cgath e x) e s .cgath d c) ∧ (one d → Claims.Match d c → Claims.Copied (.cscat e x) e s .cscat d c) ∧
     (¬one c → Claims.Traps (.cgath e x) e s 16) ∧ (¬one d → Claims.Traps (.cscat e x) e s 16)) ∧
    (∀ n, cvtCount d s.pre.regs.sys.fmt = .ok n → cvtCount c s.pre.regs.sys.fmt = .ok n →
      Claims.Copied (.ccvt e x) e s (.ccvt (reliefCode s.pre.pitch (Desc.code c))) d c)) ∧
  (∀ (e : CUnit) (x : CBar) (s : State) (d c : Desc), Claims.Copies e x.g s → s.takeCd e x.s = .ok c →
    (x.t = true → Desc.bytes c = 8192 → s.pre.busyT x.d = false → Claims.Copied (.cpyb e x) e s (.cpyb x.n (some x.d)) 0 c) ∧
    (x.t = true → s.pre.busyT x.d = true → exec (.cpyb e x) s = .next (s.holdSlot e.slot true none)) ∧
    (x.t = true → Desc.bytes c ≠ 8192 → s.pre.busyT x.d = false → Claims.Traps (.cpyb e x) e s 16) ∧
    (x.t = false → s.takeCd e x.d = .ok d → Claims.Match d c →
      (s.glenWalkOk s.me d = true → Claims.Copied (.cpyb e x) e s (.cpyb x.n none) d c) ∧ (s.glenWalkOk s.me d = false → Claims.Traps (.cpyb e x) e s 15))) ∧
  (∀ (e : CUnit) (x : CTile) (s : State) (c : Desc), Claims.Copies e x.g s → s.takeCd e x.s = .ok c →
    let fmt := s.pre.regs.sys.fmt[x.f]
    (s.pre.busyT x.n = true → exec (.cpyt e x) s = .next (s.holdSlot e.slot true none)) ∧
    (blockScaled x.c fmt = true → s.tileFree x.n (x.c == 10) = .ok () → Claims.Traps (.cpyt e x) e s 4) ∧
    (blockScaled x.c fmt = false → Desc.len c = rowBytes x.c fmt → Desc.runs c = 64 → s.tileFree x.n (x.c == 10) = .ok () →
      Claims.Copied (.cpyt e x) e s (.cpyt x.n x.c fmt) 0 c)) ∧
  (∀ (e : CUnit) (x : COne) (s : State) (d : Desc), Claims.Copies e x.g s → s.takeCd e x.d = .ok d → Desc.bytes d ≤ 2 ^ 40 →
    Claims.Copied (.czero e x) e s .czero d 0) ∧
  (∀ (e : CUnit) (x : CFill) (s : State) (d : Desc) (v : Nat), Claims.Copies e x.g s → s.takeCd e x.d = .ok d → x.v.rd s = .ok v → Desc.bytes d ≤ 2 ^ 40 →
    (Desc.bytes d % 4 = 0 → Claims.Copied (.cfill e x) e s (.cfill (BitVec.ofNat 32 v)) d 0) ∧ (Desc.bytes d % 4 ≠ 0 → Claims.Traps (.cfill e x) e s 16)) ∧
  (∀ (e : CUnit) (x : CSrc) (s : State) (c : Desc), Claims.Copies e x.g s → s.takeCd e x.s = .ok c → Desc.bytes c ≤ 2 ^ 40 →
    Claims.Copied (.cpref e x) e s .cpref 0 c)

/-- Element formats and shapes of a reduction (R239). -/
abbrev Claims.Elements (d c : Desc) : Prop :=
  Claims.Match d c ∧ 4 ≤ Desc.code d ∧ Desc.code d ≤ 10 ∧ Desc.code c = Desc.code d ∧ Desc.len d % (codeWidth (Desc.code d) / 8) = 0 ∧
    Desc.len c % (codeWidth (Desc.code d) / 8) = 0
/-- NODE of a DET contribution is in its range (R240). -/
abbrev Claims.NodeIn (d : Desc) : Prop :=
  let v := BitVec.ofNat 32 (Desc.node d)
  let log := (v.extractLsb' 27 5).toNat
  let lvl := (v.extractLsb' 22 5).toNat
  log ≤ 20 ∧ lvl ≤ log ∧ (v.extractLsb' 0 22).toNat < 2 ^ (log - lvl)
/-- A collective goes out as the context's next (R242). -/
def Claims.Collective (i : Instr) (e : CUnit) (s : State) (op : CopyOp) (d c : Desc) : Prop :=
  let n := (s.ctx s.me).colls + 1
  exec i s = .next ((s.enqueue (Cmd.blank e.eng (.copy { op := op, dst := d, src := c, fmts := s.pre.regs.sys.fmt, coll := n }))).modMe fun c =>
    { c with colls := n })
/-- A position of Table 7-3 whose core holds a context of the issuer's node (R241). -/
abbrev Claims.Here (s : State) (b : Nat) : Prop :=
  isMesh s.me = true ∧ s.pre.node ≠ 0 ∧ ∃ core, tgtCore (coreOf s.me) b = some core ∧ ∃ j ∈ s.bound core, (s.ctx j).node = s.pre.node
/-- Both descriptors of the command can be read. -/
abbrev Claims.Readable (s : State) (e : CUnit) (d c : Fin 8) : Prop := (∃ x, s.rdCd e d = .ok x) ∧ ∃ x, s.rdCd e c = .ok x
/-- R233, R239-R245, R354, R370: reductions, collectives, broadcasts, pulls, posts, waits and fences; in an open segment they trap SEG_ORDER. -/
def Obligations.CopyOrdered : Prop :=
  (∀ (e : CUnit) (x : CRed) (s : State) (d c : Desc), Claims.Copies e x.g s → s.pre.seg = none → s.takeCd e x.d = .ok d → s.takeCd e x.s = .ok c →
    (x.e = false → s.pre.regs.sys.dmode = true → Claims.Traps (.cred e x) e s 20 ∧ Claims.Traps (.callred e x) e s 20) ∧
    ((x.e = false → s.pre.regs.sys.dmode = false) → Claims.Elements d c →
      Claims.Collective (.callred e x) e s (.callred x.o x.e) d c ∧
      (x.e = false → Claims.Copied (.cred e x) e s (.cred x.o false) d c) ∧
      (x.e = true → Claims.NodeIn d → 0 < Desc.bytes d → Desc.bytes d ≤ 2 ^ 20 → Claims.Copied (.cred e x) e s (.cred x.o true) d c) ∧
      (x.e = true → (¬Claims.NodeIn d ∨ Desc.bytes d = 0 ∨ 2 ^ 20 < Desc.bytes d) → Claims.Traps (.cred e x) e s 16)) ∧
    ((x.e = false → s.pre.regs.sys.dmode = false) → ¬Claims.Elements d c → Claims.Traps (.cred e x) e s 16 ∧ Claims.Traps (.callred e x) e s 16)) ∧
  (∀ (e : CUnit) (x : CTwo) (s : State) (d c : Desc), Claims.Copies e x.g s → s.pre.seg = none → s.takeCd e x.d = .ok d → s.takeCd e x.s = .ok c →
    (Desc.bytes d = 8 → 1 ≤ Desc.bytes c → Desc.bytes c ≤ 2 ^ 40 → Claims.Collective (.cdigest e x) e s .cdigest d c) ∧
    ((Desc.bytes d ≠ 8 ∨ Desc.bytes c = 0 ∨ 2 ^ 40 < Desc.bytes c) → Claims.Traps (.cdigest e x) e s 16) ∧
    (isMesh s.me = true → Claims.Traps (.cpull e x) e s 2) ∧
    (let page (y : Desc) : Prop := Desc.len y = 65536 ∧ Desc.runs y = 1 ∧ Desc.base y % 65536 = 0
     (isMesh s.me = false → page d → page c → Claims.Copied (.cpull e x) e s .cpull d c) ∧
     (isMesh s.me = false → (¬page d ∨ ¬page c) → Claims.Traps (.cpull e x) e s 16))) ∧
  (∀ (e : CUnit) (x : CBar) (s : State) (d c : Desc), Claims.Copies e x.g s → s.pre.seg = none → s.takeCd e x.d = .ok d → s.takeCd e x.s = .ok c →
    Claims.Match d c → (∀ r, r < Desc.runs d → Desc.runAddr d r + Desc.len d ≤ 0x300000) →
    ((∀ b, b < 8 → (BitVec.ofNat 32 (Desc.node d)).getLsbD b = true → Claims.Here s b) →
      Claims.Copied (.cbcast e x) e s (.cbcast x.n x.t) d c) ∧
    ((∃ b, b < 8 ∧ (BitVec.ofNat 32 (Desc.node d)).getLsbD b = true ∧ ¬Claims.Here s b) → Claims.Traps (.cbcast e x) e s 15)) ∧
  (∀ (e : CUnit) (x : CPost) (s : State) (d c : Desc), Claims.Copies e x.g s → s.pre.seg = none → s.takeCd e x.d = .ok d → s.takeCd e x.s = .ok c →
    Claims.Match d c → (s.glenWalkOk s.me d = true → Claims.Copied (.cpost e x) e s (.cpost x.n) d c) ∧
      (s.glenWalkOk s.me d = false → Claims.Traps (.cpost e x) e s 15)) ∧
  (∀ (e : CUnit) (x : CWait) (s : State), Claims.Copies e x.g s → s.pre.seg = none → Claims.Copied (.cwait e x) e s (.cwait x.n x.i.toNat) 0 0) ∧
  (∀ (e : CUnit) (x : CFence) (s : State), Claims.Copies e x.g s → Claims.Copied (.cfence e x) e s (.cfence x.s) 0 0) ∧
  (∀ (e : CUnit) (x : CFence) (s : State), Claims.On x.g s → ((s.discardSusp s.me e.eng).ctx s.me).pendingOf e.eng < 64 →
    exec (.cfenceA e x) s = .next ((s.discardSusp s.me e.eng).enqueue (s.copyCmd e (.cfence x.s) 0 0)) ∧
    ∀ m ∈ ((s.discardSusp s.me e.eng).ctx s.me).cmds, m.eng = e.eng → m.susp = none) ∧
  (∀ (e : CUnit) (g : Guard) (s : State), Claims.Copies e g s → s.pre.seg.isSome = true →
    (∀ x : CRed, x.g = g → Claims.Readable s e x.d x.s → Claims.Traps (.cred e x) e s 18 ∧ Claims.Traps (.callred e x) e s 18) ∧
    (∀ x : CTwo, x.g = g → Claims.Readable s e x.d x.s → Claims.Traps (.cdigest e x) e s 18) ∧
    (∀ x : CBar, x.g = g → Claims.Readable s e x.d x.s → Claims.Traps (.cbcast e x) e s 18) ∧
    (∀ x : CPost, x.g = g → Claims.Readable s e x.d x.s → Claims.Traps (.cpost e x) e s 18) ∧
    (∀ x : CWait, x.g = g → Claims.Traps (.cwait e x) e s 18))

/-! Events: what each brings about where its condition holds, between bundles. -/
/-- The event answers a next state of which P holds. -/
def Claims.Happens (i : Instr) (s : State) (P : State → Prop) : Prop := ∃ t, exec i s = .next t ∧ P t
/-- A context that the sequencer may issue from. -/
abbrev Claims.Runs (s : State) (k : Nat) : Prop := (s.ctx k).status = .running ∨ (s.ctx k).status = .ready
/-- A deterministic or paired context's event comes at its bound, another's by it (R98, R339, R390). -/
abbrev Claims.Timely (s : State) (k due : Nat) : Prop := (s.ctx k).exact = true → due ≤ s.now

/-- R24, R50, R83, R132, R314, R344, R365: the ends of bundles and waits, asynchronous traps, and the fetch of a bundle. -/
def Obligations.SequencerEvents : Prop :=
  (∀ (bad : Bool) (s : State) (o : Open), s.opened = some o → exec (.bundleCommit bad) s = .next ((s.close bad).mirror o.ctx)) ∧
  (∀ (k a : Nat) (r : List Nat) (s : State), Claims.Between s → Claims.Runs s k → a < 65536 →
    let c := s.ctx k
    c.regs.sys.tl = 0 → c.kill = none → c.async = a :: r → c.ctl.clen < 2 → c.regs.sys.rmode ≠ 1 →
    Claims.Happens (.asynchronousTrap k) s fun t =>
      let d := t.ctx k
      let b := vget d.regs.sys.banks 0 Bank.zero
      d.regs.sys.tl = 1 ∧ d.async = r ∧ d.regs.flow.pc = c.regs.sys.tvec ∧ d.regs.flow.dly.count = 0 ∧ d.regs.flow.loops = [] ∧
        b.cause = BitVec.ofNat 64 (65536 + a) ∧ b.tpc = c.regs.flow.pc ∧ b.tval = 0 ∧ b.tmask = 0 ∧ b.tdly = tdlyOf c.regs.flow.dly ∧
        b.loops = c.regs.flow.loops ∧ d.wdPend = none ∧ (c.wdPend.isSome = true → d.wdHeld = c.wdPend)) ∧
  (∀ (c k j : Nat) (s : State), Claims.Between s → (s.core c).cur = some k → coreOf k = c → 4096 ≤ (s.ctx k).run → (s.ctx k).regs.sys.dmode = false →
    j ∈ s.bound c → j ≠ k → (s.ctx j).status = .ready →
    Claims.Happens (.fairnessYield c) s fun t => t.ctx k = { s.ctx k with status := .ready, run := 0 } ∧ (t.core c).cur = none ∧
      (t.core c).last = numOf k ∧ t.mem = s.mem ∧ ∀ i, i ≠ k → t.ctx i = s.ctx i) ∧
  (∀ (k : Nat) (s : State), Claims.Between s → (s.ctx k).status = .blocked → (s.ctx k).wait.since + 2 ^ 26 ≤ s.now →
    exec (.watchdogExpiry k) s = .next ((s.modCtx k fun c => { c with
      status := .ready, wdPend := some c.wait.mask, wdSeen := true, ridging := false, wait := Wait.none }).rouse k)) ∧
  (∀ (k w : Nat) (s : State), Claims.Between s → (s.ctx k).status = .blocked → (s.ctx k).wait.sleep = some w → w ≤ s.now →
    s.energyHeld (coreOf k) = false → exec (.sleepEnd k) s = .next ((s.modCtx k fun c => { c with status := .ready, wait := Wait.none }).rouse k)) ∧
  (∀ (k : Nat) (s : State), s.rouse k = s.modCore (coreOf k) fun c => { c with
    next := max c.next (c.edge 0 (if (s.ctx k).exact then s.now + 1 else s.now)) }) ∧
  (∀ (k a key : Nat) (uc : Bool) (s u : State), Claims.Between s → (s.ctx k).status ≠ .free → (s.ctx k).exact = false → a % 32 = 0 →
    0x1000000 ≤ a → (s.modCore (coreOf k) fun c => { c with icache := c.icache.filter fun l => !(l.1 == numOf k && l.2.1 == a) }).locate k a .fetch = .ok key uc u →
    u.poisoned key 32 = false →
    exec (.instructionFetch k a) s = .next (u.modCore (coreOf k) fun c =>
      { c with icache := (numOf k, a, BitVec.ofNat 256 (u.readAt u.mem (plainOf (coreOf k)) (u.ctx k).part 2 uc key 32)) :: c.icache }))

/-- What a landing access of a location outside the caches leaves in memory and in its register (R297, Table 7-11). -/
def Claims.Landed (a : Access) (s t : State) (k : Nat) : Prop :=
  let old := s.mem.getN a.key a.n
  let put (v : Nat) : DataRegs := match a.dst with
    | some l => if l.isP0 then (s.ctx k).regs.dat else (s.ctx k).regs.dat.merge l (v * 2 ^ a.shift) ((2 ^ a.width - 1) * 2 ^ a.shift)
    | none => (s.ctx k).regs.dat
  match a.kind with
  | .done => t.mem = s.mem ∧ (t.ctx k).regs.dat = put a.val
  | .load => t.mem = s.mem ∧ (t.ctx k).regs.dat = put old
  | .loadS => t.mem = s.mem ∧ (t.ctx k).regs.dat = put ((BitVec.ofNat (8 * a.n) old).signExtend a.width).toNat
  | .store => t.mem = s.mem.putN a.key a.n a.val ∧ (t.ctx k).regs.dat = (s.ctx k).regs.dat
  | .atomic op => t.mem = s.mem.putN a.key a.n (atomNew op (8 * a.n) old a.val a.cmp) ∧ (t.ctx k).regs.dat = put (oldValue op a.n a.width old)
/-- R98, R122, R123, R136, R188, R262, R294, R297, R303, R304, R399, R407, R455: results, accesses, messages and removals land. When an L2 that is
not the home fills is log 34's DESIGN CHOICE, and which unit a corrected error is charged to DEDUCED there. -/
def Obligations.LandingEvents : Prop :=
  (∀ (k i : Nat) (f : Flight) (s : State), Claims.Between s → (s.ctx k).flights[i]? = some f → Claims.Timely s k f.due → f.loc.isP0 = false →
    (∀ g ∈ (s.ctx k).flights.eraseIdx i, g.loc ≠ f.loc) →
    let P (t : State) : Prop := (t.ctx k).flights = (s.ctx k).flights.eraseIdx i ∧ (t.ctx k).regs.dat = (s.ctx k).regs.dat.merge f.loc f.val f.mask ∧
      (t.ctx k).regs.flow = (s.ctx k).regs.flow ∧ (t.ctx k).regs.sys = (s.ctx k).regs.sys ∧ t.mem = s.mem ∧ ∀ j, j ≠ k → t.ctx j = s.ctx j
    (f.long = false → Claims.Happens (.exposedResultLand k i) s P) ∧ (f.long = true → Claims.Happens (.longSeriesOperationLand k i) s P)) ∧
  (∀ (k i : Nat) (a : Access) (v : Evict) (s : State), Claims.Between s → (s.ctx k).accs[i]? = some a → s.inTurn k a = true →
    Claims.Timely s k (s.accDue k a) →
    let t := (s.performIdx k i).padFlits k a.key a.n
    exec (.memoryAccessPerform k i v) s = .next (match v with
      | .none => t
      | .fill => if a.kind ≠ .done ∧ cachable a.key a.uc = true ∧ (s.ctx k).exact = false then t.fillLine (plainOf (coreOf k)) a.part a.key else t
      | .corrected slice => (t.addScore (if slice = true ∧ cachable a.key a.uc = true then coreUnit (sliceCore a.key) else holderUnit a.key) 1).settleScores) ∧
    ((t.ctx k).accs.length + 1 = (s.ctx k).accs.length) ∧
    ((∀ b ∈ (s.ctx k).accs.take i, b.before a = false) →
      (t.ctx k).accs = (s.ctx k).accs.eraseIdx i ∧ (cachable a.key a.uc = false → Claims.Landed a s t k))) ∧
  (∀ (i : Nat) (m : Msg) (s : State), Claims.Between s → s.msgs[i]? = some m → (s.core (coreOf m.dst)).health.fenced = false →
    ((s.ctx m.src).exact = true → s.msgAt m ≤ s.now) →
    let u := ({ s with msgs := s.msgs.eraseIdx i } : State).linkFlits (coreOf m.src) (coreOf m.dst) 1
    (∀ q v, m.kind = .send q v → (∀ x ∈ s.msgs.take i, x.src = m.src → x.dst = m.dst → ∀ w, x.kind ≠ .send q w) →
      ((s.ctx m.dst).status ≠ .free → exec (.messageDelivery i) s = .next (u.modCtx m.dst fun c => { c with q := c.q.set q (c.q[q] ++ [v]) })) ∧
      ((s.ctx m.dst).status = .free → exec (.messageDelivery i) s = .next u)) ∧
    (∀ f n, m.kind = .post f n → (∀ a ∈ (s.ctx m.src).accs, m.after ≤ a.seq) →
      ((s.ctx m.dst).status ≠ .free → exec (.remotePostApply i) s = .next (u.modCtx m.dst fun c =>
        { c with f := c.f.set f (BitVec.ofNat 32 (min ((c.f[f]).toNat + n) 0xFFFFFFFF)), posts := (f.val, n, s.now) :: c.posts.filter fun p => p.2.2 = s.now })) ∧
      ((s.ctx m.dst).status = .free → exec (.remotePostApply i) s = .next u))) ∧
  (∀ (i : Nat) (m : Msg) (s : State), Claims.Between s → s.msgs[i]? = some m → (s.core (coreOf m.dst)).health.fenced = true →
    (s.ctx m.src).kill = none → (s.ctx m.src).status ≠ .free →
    exec (.fencedNack i) s = .next (({ s with msgs := s.msgs.eraseIdx i } : State).modCtx m.src fun c => { c with async := insertSorted 25 c.async })) ∧
  (∀ (i who p base n due : Nat) (s : State), Claims.Between s → s.dying[i]? = some (who, p, base, n, due) →
    (∀ k ∈ s.ctxKeys, (s.ctx k).part = p → ∀ g, (s.ctx k).seg = some g → ∀ a ∈ g.buf, a.va < base ∨ base + n ≤ a.va) →
    Claims.Happens (.tlbinvRemovalEnd i) s fun t => t.dying = s.dying.eraseIdx i ∧
      ∀ x, x ∈ t.tlb ↔ x ∈ s.tlb ∧ (x.part ≠ p ∨ base + n ≤ x.base ∨ x.base + x.size ≤ base))

/-- Row i and column j of the product of a k-tile and what stood in the accumulator, rounded once (R211). -/
def Claims.kdot (A B : List (List FVal)) (i j old : Nat) : Nat :=
  rne (exactSum ((List.range 64).map (fun q => ((A.getD i []).getD q (.fin false 0 0)).mul ((B.getD q []).getD j (.fin false 0 0))) ++ [f32 old]))
/-- Lane j of row i of an accumulator. -/
def Claims.zlane (z : Accum) (i j : Nat) : Nat := lane (vget z.rows i 0).toNat j
/-- The accumulator z of context k. -/
def Claims.acc (s : State) (k : Nat) (z : Fin 4) : Accum := (s.ctx k).regs.dat.z[z]
/-- R77, R78, R200-R202, R207, R211, R214-R216, R218-R221, R392, R407: the engines start a command, take in a k-tile, make a row final or move
one, and perform. When the rows of MLDT move and when MACT and the other commands of the accumulator port act is log entry 29 (DEDUCED). -/
def Obligations.MatrixEvents : Prop :=
  (∀ (k i : Nat) (m : Cmd) (c : CopyCmd) (s : State), Claims.Between s → (s.ctx k).cmds[i]? = some m → s.mayStart k m = true → m.op = .copy c →
    (s.core (coreOf k)).edge (cmdClass m.eng) s.now = s.now →
    let u := s.settleOwn k m.seqAt
    let b := u.copyBound k m c
    let due := s.now + b.2 * (s.core (coreOf k)).div[cmdClass m.eng]
    exec (.commandStart k i) s = .next (u.modCmd k i fun m => { m with
      start := some s.now, lat := b.1, final := b.2, due := due, limit := m.limit.or (some due), lastLand := s.now })) ∧
  (∀ (k i : Nat) (m : Cmd) (s : State), Claims.Between s → (s.ctx k).cmds[i]? = some m → s.mayStart k m = true → m.eng = 0 →
    (s.core (coreOf k)).edge 3 s.now = s.now → Claims.Happens (.commandStart k i) s fun t =>
      (∃ n, (t.ctx k).cmds[i]? = some n ∧ n.start = some s.now ∧ n.num = m.num ∧ n.op = m.op) ∧
      (∀ z, m.op = .mzero z → Claims.acc t k z = Accum.zero) ∧
      (∀ z v, m.op = .mbias z v → ∀ r q, r < 64 → q < 64 →
        Claims.zlane (Claims.acc t k z) r q = rne ((f32 (Claims.zlane (Claims.acc s k z) r q)).add (f32 (lane v.toNat q)) .rne)) ∧
      (∀ z fn n, m.op = .mact z fn n → ∀ r q, r < 64 → q < 64 →
        let x := Claims.zlane (Claims.acc s k z) r q
        let y := Claims.zlane (Claims.acc t k z) r q
        (fn = 0 → y = if (f32 x).isNan = true ∨ (f32 x).isZero = true ∨ (f32 x).sgn = true then 0 else x) ∧
        (fn ≠ 0 → (f32 x).isNan = true → y = 0x7FC00000) ∧
        ((f32 x).isNan = false → (fn = 1 → y = x % 2 ^ 31) ∧ (2 ≤ fn → y = rne ((f32 x).scale n)))) ∧
      (∀ z r q b, m.op = .minj z r q 0 b → b < 32 → ∀ r' q' : Fin 64, Claims.zlane (Claims.acc t k z) r' q' =
        if r' = r ∧ q' = q then Claims.zlane (Claims.acc s k z) r q ^^^ 2 ^ b else Claims.zlane (Claims.acc s k z) r' q')) ∧
  (∀ (k i : Nat) (m : Cmd) (x : MulCmd) (st : Int × Int) (w : Intake) (s : State), Claims.Between s → (s.ctx k).cmds[i]? = some m → m.op = .mul x →
    x.steps[m.done]? = some st → m.start.isSome = true → m.lastLand ≤ s.now → s.windowsOver (coreOf k) m.lastLand = true →
    (s.ctx k).pitch.cur ≤ rungOf x.code x.fmt →
    let A := s.operandRows k (x.a.at st.1) x.code x.fmt
    let B := s.operandRows k (x.b.at st.2) x.code x.fmt
    let old (r q : Nat) : Nat := if m.done = 0 ∧ x.clr = true then 0 else Claims.zlane (Claims.acc s k x.k) r q
    Claims.Happens (.ktileIntake k i w) s fun t => (∃ n, (t.ctx k).cmds[i]? = some n ∧ n.done = m.done + 1) ∧
      ∀ r q, r < 64 → q < 64 → Claims.zlane (Claims.acc t k x.k) r q =
        if r < x.rows ∧ q < x.cols then Claims.kdot A B r q (old r q) else old r q) ∧
  (∀ (k i : Nat) (d e : Bool) (m : Cmd) (x : MulCmd) (s : State), Claims.Between s → (s.ctx k).cmds[i]? = some m → m.op = .mul x → m.start.isSome = true →
    x.steps.length ≤ m.done → m.final < 64 → (s.rowTime k m).1 ≤ s.now →
    let f := if x.rows ≤ m.final + 1 then 64 else m.final + 1
    Claims.Happens (.accumulatorRowFinal k ⟨i, d, e⟩) s fun t => (∃ n, (t.ctx k).cmds[i]? = some n ∧ n.final = f) ∧
      (t.ctx k).finals = (s.ctx k).finals ++ [(x.k, m.final, f, s.now)] ∧
      ((s.ctx k).lastWriter x.k = some m.num → (t.ctx k).wz[x.k] = f) ∧ (t.ctx k).regs = (s.ctx k).regs ∧ t.mem = s.mem) ∧
  (∀ (k i : Nat) (m y : Cmd) (s u : State), Claims.Between s → (s.ctx k).cmds[i]? = some m → m.eng = 0 → m.start.isSome = true → m.susp = none →
    (∀ w ∈ (s.ctx k).cmds.take i, w.eng ≠ 0) → (∀ c, m.op ≠ .copy c) → s.matrixPerform k i m = some u → (u.ctx k).cmds[i]? = some y →
    y.num = m.num → y.eng = 0 → y.susp = none → y.page = none →
    exec (.commandPerform k i) s = .next (u.modCtx k fun c => { c with cmds := c.cmds.eraseIdx i })) ∧
  (∀ (k i : Nat) (m : Cmd) (s : State) (n : Fin 8) (z : Fin 4) (code : Nat) (fmt : BitVec 32) (p : MPair) (tag d e : Bool), Claims.Between s →
    (s.ctx k).cmds[i]? = some m → m.start.isSome = true → m.done < 64 → (s.ctx k).exact = false →
    (m.op = .mldt n code fmt p → s.poison = [] → Claims.Happens (.accumulatorRowFinal k ⟨i, d, false⟩) s fun t => t.mem = s.mem ∧ (t.ctx k).regs = (s.ctx k).regs ∧
      ∃ y, (t.ctx k).cmds[i]? = some y ∧ y.done = m.done + 1 ∧
        y.rows = m.rows ++ [BitVec.ofNat 2048 (s.padRead k (p.row m.done) (rowBytes code fmt))]) ∧
    (m.op = .mldt n code fmt p → ∀ u, exec (.accumulatorRowFinal k ⟨i, d, false⟩) s = .next u →
      exec (.accumulatorRowFinal k ⟨i, d, true⟩) s = .next (u.addScore (u.padUnit k (p.row m.done)) 1).settleScores) ∧
    (m.op = .mstz z p tag → m.snap = none → m.bad = false → exec (.accumulatorRowFinal k ⟨i, d, e⟩) s =
      .next ((s.padWrite k (p.row m.done) 256 (m.rows.getD m.done 0).toNat).modCmd k i fun m => { m with done := m.done + 1 }))) ∧
  (∀ (k i : Nat) (z : Fin 4) (p : MPair) (tag e : Bool) (m : Cmd) (s : State), Claims.Between s → (s.ctx k).cmds[i]? = some m → m.op = .mstz z p tag →
    m.start.isSome = true → m.done < 64 → (s.ctx k).rowReady m = true → m.bad = false → (s.ctx k).regs.sys.rmode.getLsbD 0 = true →
    exec (.accumulatorRowFinal k ⟨i, true, e⟩) s = .next (s.rowMismatch k m) ∧
      ((s.ctx k).seg = none → ((s.rowMismatch k m).ctx k).kill.isSome = true) ∧
      ((s.ctx k).seg.isSome = true → ((s.rowMismatch k m).ctx k).rolling = true)) ∧
  (∀ (k i : Nat) (m : Cmd) (s : State) (n : Fin 8) (code : Nat) (fmt : BitVec 32) (p : MPair), Claims.Between s → (s.ctx k).cmds[i]? = some m →
    m.op = .mldt n code fmt p → code ≠ 10 → m.eng = 0 → m.start.isSome = true → m.susp = none → m.page = none → (∀ w ∈ (s.ctx k).cmds.take i, w.eng ≠ 0) →
    Claims.Timely s k m.due → (s.ctx k).tilesClear s.now m = true → s.poison = [] → m.rows.length = m.done → m.done ≤ 64 →
    Claims.Happens (.commandPerform k i) s fun t => (t.ctx k).cmds = (s.ctx k).cmds.eraseIdx i ∧ t.mem = s.mem ∧
      ∀ r, r < 64 → tileRow (t.ctx k).regs.dat.t n code r =
        (if r < m.done then (m.rows.getD r 0).toNat else s.padRead k (p.row r) (rowBytes code fmt)) % 2 ^ 1024)

/-- Command i of context k is a started copy that is not suspended. -/
structure Claims.Moving (s : State) (k i : Nat) (m : Cmd) (c : CopyCmd) : Prop where
  between : Claims.Between s
  cmd : (s.ctx k).cmds[i]? = some m
  op : m.op = .copy c
  start : m.start.isSome = true
  susp : m.susp = none
/-- Batch b of the copy may land now (R202, R232, R236, R252). -/
abbrev Claims.MayLand (s : State) (k : Nat) (m : Cmd) (c : CopyCmd) (b : Nat) : Prop :=
  b < s.passed m c ∧ m.landedAt b = false ∧ (c.op.ordered = true → b = m.done) ∧
    ((s.ctx k).exact = true → b = m.done ∧ s.batchTime k m (s.batches c) b ≤ s.now) ∧ (m.page = none → s.now ≤ m.due) ∧ (s.ctx k).tilesClear s.now m = true
/-- n bytes of the own scratchpad from address a on, in banks of the context, at keys from key on. -/
abbrev Claims.OwnRun (s : State) (k a n key : Nat) : Prop := a + n ≤ 0x300000 ∧ key = mkey (padSpace (coreOf k)) a ∧
  ∀ j, j < n → (s.ctx k).ctl.banks.getLsbD ((a + j) / 0x20000) = true
/-- The command is suspended with a reason and address and stays on its timeline (R248). -/
def Claims.Suspends (i : Instr) (s : State) (k n reason va : Nat) : Prop :=
  Claims.Happens i s fun t => (∃ m, (t.ctx k).cmds[n]? = some m ∧ m.susp = some (reason, va)) ∧ t.mem = s.mem ∧ (t.ctx k).regs.dat = (s.ctx k).regs.dat ∧
    (∀ m, (s.ctx k).cmds[n]? = some m → (vget (s.ctx k).q 2 []).length < 64 → k ≠ mgmtKey →
      vget (t.ctx k).q 2 [] = vget (s.ctx k).q 2 [] ++ [element 0x10 (engBit m.eng * 2 ^ 55 + reason * 2 ^ 48 + m.num % 2 ^ 48)])
/-- R137, R202, R232, R233, R237, R240-R243, R248, R252, R384, R407, R438: the copy engines: batches land, bounds pass, contributions are accepted and
combined, commands perform. Model's choices: the bytes that SOURCE_FENCED counts and the late event of a held copy (log entry 22); peers'
contributions as events (log entry 30). -/
def Obligations.CopyEvents : Prop :=
  (∀ (k i b : Nat) (e : Option (Nat × Bool)) (m : Cmd) (c : CopyCmd) (s u : State), Claims.Moving s k i m c → Claims.MayLand s k m c b → c.op.isColl = false →
    s.moveBatch k i m c b = .ok ((), u) →
    let v := match m.page with | some (_, _, since) => u.modCtx k fun x => x.addLate 0 (s.now - since) | none => u
    let upto := (s.batchBytes k m c b).1 + (s.batchBytes k m c b).2
    let sent (w : State) : State := (w.sendBatch k m c b).correctBatch k m c ⟨b, e⟩
    (min (64 * b + 64) (CopyCmd.size c) ≤ upto → exec (.copyBatchLand k i ⟨b, e⟩) s =
      .next (sent (v.modCmd k i fun m => Cmd.land { m with split := m.split.filter fun x => x.1 ≠ b } b u.now))) ∧
    (upto < min (64 * b + 64) (CopyCmd.size c) → exec (.copyBatchLand k i ⟨b, e⟩) s =
      .next (sent (v.modCmd k i fun m => { m with split := (b, upto - 64 * b) :: m.split.filter fun x => x.1 ≠ b, lastLand := u.now })))) ∧
  (∀ (k i b ks kd : Nat) (m : Cmd) (c : CopyCmd) (s : State), Claims.Moving s k i m c → Claims.MayLand s k m c b → c.op = .cpy → m.split = [] → isMesh k = true →
    (s.core (coreOf k)).health.fenced = false → Desc.runs c.src = 1 → Desc.runs c.dst = 1 → Desc.len c.src = Desc.len c.dst →
    let o := 64 * b
    let n := min 64 (Desc.len c.dst - o)
    Claims.OwnRun s k (Desc.base c.src + o) n ks → Claims.OwnRun s k (Desc.base c.dst + o) n kd → (∀ j, j < n → covers (s.allKeys k c.src) (kd + j) = false) →
    s.mem.wf = true → s.poison = [] → Claims.Happens (.copyBatchLand k i ⟨b, none⟩) s fun t => t.mem.getN kd n = s.mem.getN ks n ∧
      (∀ a, (a < kd ∨ kd + n ≤ a) → t.mem.get a = s.mem.get a) ∧ (t.ctx k).regs = (s.ctx k).regs) ∧
  (∀ (k i : Nat) (m : Cmd) (c : CopyCmd) (s : State), Claims.Moving s k i m c → (s.ctx k).status ≠ .free → c.op.noMove = false → m.page = none → m.hop = none → m.due < s.now →
    ((∃ op, c.op = .cred op true) → s.batches c ≤ m.done → m.sent = false → Claims.Suspends (.copyTimeout k i) s k i 8 0) ∧
    ((∀ op, c.op ≠ .cred op true) → c.op ≠ .cpref → Claims.Suspends (.copyTimeout k i) s k i 5 0) ∧
    (c.op = .cpref → exec (.copyTimeout k i) s = .next s)) ∧
  (∀ (k i : Nat) (m : Cmd) (c : CopyCmd) (s : State), Claims.Moving s k i m c → (s.ctx k).status ≠ .free →
    (s.reachesPeer k m c = true → Claims.Suspends (.unreachableNack k i) s k i 2 0) ∧
    (c.op = .cpull → Desc.node c.src % 2 ^ 14 ≠ s.fabric → s.reachesPeer k m c = true) ∧ (c.op = .cpref → s.reachesPeer k m c = false)) ∧
  (∀ (k i op : Nat) (m : Cmd) (c : CopyCmd) (s u : State) (p : List Piece), Claims.Moving s k i m c → c.op = .cred op true → m.sent = false →
    s.batches c ≤ m.done → Claims.Timely s k m.due → s.walk k m.scope 0 c.dst false .write 0 (CopyCmd.size c) (CopyCmd.size c) = .ok (p, u) →
    (∀ x ∈ p, x.va % elemBytes (Desc.code c.dst) = 0) →
    let keys := joinRuns (p.map fun x => (x.key, x.len))
    let v := Desc.node c.dst
    let home := storeOf ((keys.head?.map Prod.fst).getD 0)
    let store := u.reds.filter fun r => r.home == home
    let held := store.foldl (fun a r => r.nodes.foldl (fun a x => a + x.2.2.length) a) 0
    let w := u.modCmd k i fun m => { m with sent := true }
    ((∀ r ∈ u.reds, rangesMeet r.keys keys = false) → store.length < 256 → held + CopyCmd.size c ≤ 2 ^ 24 →
      (nodeLvl v = nodeLog v → exec (.detContributionAccept k i) s = .next ((w.putPieces k m.scope p m.data).markAt p m.taint)) ∧
      (nodeLvl v ≠ nodeLog v → exec (.detContributionAccept k i) s = .next { w with
        reds := ⟨c.dst, keys, (u.ctx k).part, nodeLog v, Desc.code c.dst, op, m.scope, [(nodeLvl v, nodeKey v, m.data)], m.taint, home⟩ :: u.reds })) ∧
    (∀ r, u.reds.find? (fun r => rangesMeet r.keys keys) = some r → r.keys = keys → r.log = nodeLog v → r.code = Desc.code c.dst → r.op = op →
      (∀ x ∈ r.nodes, nodesMeet (x.1, x.2.1) (nodeLvl v, nodeKey v) = false) → held + CopyCmd.size c ≤ 2 ^ 24 →
      let l := joinNode (Desc.code c.dst) op r.nodes (nodeLvl v) (nodeKey v) m.data (nodeLog v + 1)
      (∀ x, l.find? (fun x => x.1 = nodeLog v) = some x →
        exec (.detContributionAccept k i) s = .next ((({ w with reds := u.reds.filter (· ≠ r) } : State).putPieces k m.scope p x.2.2).markAt p (m.taint ++ r.taint))) ∧
      (l.find? (fun x => x.1 = nodeLog v) = none →
        exec (.detContributionAccept k i) s = .next { w with reds := { r with nodes := l, taint := m.taint ++ r.taint } :: u.reds.filter (· ≠ r) }))) ∧
  (∀ (k i op : Nat) (det : Bool) (m : Cmd) (c : CopyCmd) (peer : Peer) (s : State), Claims.Between s → (s.ctx k).cmds[i]? = some m → m.op = .copy c →
    m.start.isSome = true → c.op = .callred op det → (s.node (s.ctx k).node).group ≠ 0 → peer.digest = false →
    peer.rank < (s.ctx k).regs.sys.ident[7].toNat → peer.len = CopyCmd.size c → peer.det = det → peer.op = op → peer.code = Desc.code c.dst →
    let key := s.collKey k c
    (s.coll key = none → exec (.collectiveExchange k i peer) s = .next (s.setColl
      ⟨key.1, key.2.1, key.2.2.1, key.2.2.2, (s.ctx k).regs.sys.ident[7].toNat, CopyCmd.what c, [(peer.rank, peer.data)], [], [], [], false⟩)) ∧
    (∀ x, s.coll key = some x → x.what = CopyCmd.what c → x.full = false → (∀ g ∈ x.got, g.1 ≠ peer.rank) →
      exec (.collectiveExchange k i peer) s = .next (s.setColl { x with got := x.got ++ [(peer.rank, peer.data)] }))) ∧
  (∀ (k i : Nat) (m : Cmd) (c : CopyCmd) (peer : Peer) (x : Coll) (s : State), Claims.Between s → (s.ctx k).cmds[i]? = some m → m.op = .copy c →
    m.start.isSome = true → m.susp = none → (s.ctx k).status ≠ .free → c.op = .cdigest → (s.node (s.ctx k).node).group ≠ 0 → peer.digest = true →
    peer.rank < (s.ctx k).regs.sys.ident[7].toNat → peer.len ≠ CopyCmd.size c → s.coll (s.collKey k c) = some x → x.what = CopyCmd.what c →
    x.full = false → (∀ g ∈ x.got, g.1 ≠ peer.rank) →
    Claims.Happens (.collectiveExchange k i peer) s fun t => ∃ n, (t.ctx k).cmds[i]? = some n ∧ n.susp = some (7, 0)) ∧
  (∀ (k i : Nat) (h : Nat × Nat) (m : Cmd) (c : CopyCmd) (s : State), Claims.Between s → (s.ctx k).cmds[i]? = some m → m.op = .copy c → c.op = .cpy →
    m.hop = some h → (m.start = none ∨ m.done < s.batches c) → s.passed m c ≤ m.done →
    exec (.sourceFenced k i) s = .next (s.modCtx k fun x => { x with cmds := x.cmds.eraseIdx i })) ∧
  (∀ (k i : Nat) (f : Fin 16) (h : Nat × Nat) (m : Cmd) (c : CopyCmd) (s : State), Claims.Between s → (s.ctx k).cmds[i]? = some m → m.op = .copy c →
    c.op = .cpost f → m.hop = some h → (m.start = none ∨ m.done < s.batches c) → s.passed m c ≤ m.done → max m.lastLand m.issued + 2 ^ 20 ≤ s.now →
    Claims.Happens (.sourceFenced k i) s fun t => (t.ctx k).cmds = (s.ctx k).cmds.eraseIdx i ∧ t.mem = s.mem ∧
      ∀ j, s.pieceOwner k (Desc.base c.dst) = some j → (s.ctx j).status ≠ .free → j ≠ mgmtKey → (vget (s.ctx j).q 2 []).length < 64 →
        vget (t.ctx j).q 2 [] = vget (s.ctx j).q 2 [] ++ [element 0x11 (15 * 2 ^ 52 + coreOf k % 256 * 2 ^ 44 +
          min (min (64 * (m.done + m.landed.length)) (CopyCmd.size c) + m.split.foldl (fun n x => n + x.2) 0) 0xFFFFFFFF)]) ∧
  (∀ (p page leaf since w : Nat) (s : State), Claims.Between s → (s.part p).pages.find? (fun x => x.1 = page) = some (page, leaf, since, some w) → w ≤ s.now →
    s.pageHeld p page = true →
    Claims.Happens (.migpullRepost p page) s fun t => t.mem = s.mem ∧
      ((vget (s.ctx mgmtKey).q 2 []).length < 4096 → (t.part p).pages.find? (fun x => x.1 = page) = some (page, leaf, since, none) ∧
        vget (t.ctx mgmtKey).q 2 [] = vget (s.ctx mgmtKey).q 2 [] ++ [element 0x50 (p % 64 * 2 ^ 50 + page % 2 ^ 41)]) ∧
      (4096 ≤ (vget (s.ctx mgmtKey).q 2 []).length → vget (t.ctx mgmtKey).q 2 [] = vget (s.ctx mgmtKey).q 2 [] ∧
        (t.ctx mgmtKey).regs.sys.sstat.getLsbD 8 = true ∧
        (t.part p).pages.find? (fun x => x.1 = page) = some (page, leaf, since, some (s.now + 2 ^ 16)))) ∧
  (∀ (k i p page leaf since : Nat) (m : Cmd) (s : State), Claims.Between s → k ∈ s.ctxKeys → (s.ctx k).part = p → (s.ctx k).status ≠ .free →
    (s.ctx k).cmds[i]? = some m → m.page = some (page, leaf, since) → since + 2 ^ 26 ≤ s.now → s.ctxKeys.Nodup →
    Claims.Happens (.migrationHoldTimeout p page) s fun t => ∃ n, (t.ctx k).cmds[i]? = some n ∧ n.susp = some (0, page * 65536) ∧ n.page = none) ∧
  (∀ (k i : Nat) (m : Cmd) (c : CopyCmd) (s : State), Claims.Moving s k i m c → (∀ w ∈ (s.ctx k).cmds.take i, w.eng ≠ m.eng) → s.batches c ≤ m.done →
    Claims.Timely s k m.due → c.op = .cpy → m.suspAt = 0 → m.page = none → k ≠ mgmtKey → (s.ctx k).status ≠ .free → (vget (s.ctx k).q 1 []).length < 64 →
    Claims.Happens (.commandPerform k i) s fun t => (t.ctx k).cmds = (s.ctx k).cmds.eraseIdx i ∧ t.mem = s.mem ∧
      vget (t.ctx k).q 1 [] = vget (s.ctx k).q 1 [] ++ [element 0x13 (engBit m.eng * 2 ^ 55 + m.num % 2 ^ 48)])

/-! Contexts and nodes. -/
/-- A context that a kill frees: nothing of it remains but registers and commands under way (R34, R266). -/
def Claims.Freed (s t : State) (k : Nat) : Prop :=
  (t.ctx k).status = .free ∧ (t.ctx k).accs = [] ∧ (t.ctx k).flights = [] ∧ (t.ctx k).seg = none ∧ (t.ctx k).async = [] ∧ (t.ctx k).kill = none ∧ (t.ctx k).passes = [] ∧
    (∀ m ∈ (t.ctx k).cmds, m ∈ (s.ctx k).cmds ∧ m.susp = none) ∧ (t.core (coreOf k)).cur ≠ some k
/-- R31-R38, R265, R372, R376-R379, R388, R448: the ridge, the ends of contexts and nodes, kills, gates, rollback and time sharing. Model's
choices: that peers arrive as events, and that the release waits for messages under way (log entry 30). -/
def Obligations.NodeEvents : Prop :=
  (∀ (k : Nat) (s : State), Claims.Between s → (s.ctx k).ridging = true → (s.ctx k).arrived = false → (s.ctx k).ridgeKey ∉ (s.ctx k).passes →
    (s.ctx k).status = .blocked → (s.ctx k).cmds = [] → (s.ctx k).accs = [] →
    Claims.Happens (.ridgeArrival (.here k)) s fun t => t.ctx k = { s.ctx k with arrived := true, ridgeAt := (s.ctx k).ridgeKey, narrow := [] } ∧ (t.node (s.ctx k).node).arrivedAt = s.now ∧
      ((s.node (s.ctx k).node).group ≠ 0 → (∀ j ∈ s.live (s.ctx k).node, j = k ∨ (s.ctx j).arrived = true) →
        .arrived (s.node (s.ctx k).node).group (s.node (s.ctx k).node).rank ((s.node (s.ctx k).node).gen + 1) ∈ t.answers)) ∧
  (∀ (n r : Nat) (s : State), Claims.Between s → (s.node n).run = true → r < (s.node n).nrank → r ≠ (s.node n).rank → (∀ x ∈ (s.node n).peers, x.1 ≠ r) →
    exec (.ridgeArrival (.peer n r)) s = .next (s.modNode n fun x => { x with arrivedAt := s.now, peers := (r, x.gen + 1, false) :: x.peers })) ∧
  (∀ (n k : Nat) (s : State), Claims.Between s → s.peersIn n = true → (∀ m ∈ s.msgs, s.msgOf n m = false) → (s.node n).ctxs = [k] → (s.ctx k).node = n →
    (s.ctx k).status = .blocked → (s.ctx k).regs.sys.rmode = 0 → (s.ctx k).arrived = true → (s.node n).saved = [] →
    Claims.Timely s k ((s.core (coreOf k)).edge 0 ((s.node n).arrivedAt + s.ridgeTime n)) →
    let freed (c : Ctx) : Ctx := { c with arrived := false, passes := c.ridgeAt :: c.passes, gen := c.gen + 1 }
    ((s.ctx k).ridging = true → (s.ctx k).ridgeKey = (s.ctx k).ridgeAt → s.energyHeld (coreOf k) = false → Claims.Happens (.ridgeRelease n) s fun t =>
      t.ctx k = { freed (s.ctx k) with status := .ready, wait := Wait.none } ∧ (t.node n).gen = (s.node n).gen + 1 ∧ t.mem = s.mem) ∧
    (((s.ctx k).ridging = false ∨ (s.ctx k).ridgeKey ≠ (s.ctx k).ridgeAt ∨ s.energyHeld (coreOf k) = true) → Claims.Happens (.ridgeRelease n) s fun t =>
      t.ctx k = freed (s.ctx k) ∧ (t.node n).gen = (s.node n).gen + 1 ∧ t.mem = s.mem)) ∧
  (∀ (k : Nat) (s : State), Claims.Between s → (s.ctx k).status = .ending → (s.ctx k).cmds = [] → (s.ctx k).accs = [] →
    (s.ctx k).regs.sys.rmode.getLsbD 1 = false →
    Claims.Happens (.endComplete k) s fun t => Claims.Freed s t k) ∧
  (∀ (k cause : Nat) (s : State), Claims.Between s → (s.ctx k).kill = some cause →
    let mate := keyOf (coreOf k + 1) (numOf k)
    let lead := s.ctx (keyOf (coreOf k - 1) (numOf k))
    ((s.ctx k).regs.sys.rmode.getLsbD 1 = false → Claims.Happens (.contextKill k) s fun t => Claims.Freed s t k ∧
      ((s.ctx k).regs.sys.rmode = 1 → (s.ctx mate).lead = k → (s.ctx mate).node = (s.ctx k).node → (t.ctx mate).status = .free)) ∧
    ((s.ctx k).regs.sys.rmode.getLsbD 1 = true → lead.node = (s.ctx k).node → lead.regs.sys.rmode = 1 → lead.status ≠ .free → lead.kill.isSome = true →
      exec (.contextKill k) s = .next s)) ∧
  (∀ (n : Nat) (s : State), Claims.Between s → (s.node n).run = true → ((s.node n).saved = [] ∨ (s.node n).cause.isSome = true) → s.l2 = [] → (s.node n).group = 0 →
    (∀ k ∈ (s.node n).ctxs, (s.ctx k).node ≠ n ∨ ((s.ctx k).status = .free ∧ (s.ctx k).cmds = [])) →
    s.mem.wf = true →
    Claims.Happens (.nodeEnd (.here n)) s fun t => (t.node n).run = false ∧
      (t.ctx (s.node n).owner).f = (s.ctx (s.node n).owner).f.set (s.node n).flag
        (BitVec.ofNat 32 (min (((s.ctx (s.node n).owner).f[(s.node n).flag]).toNat + 1) 0xFFFFFFFF)) ∧
      t.mem.getN (s.node n).status 8 = (match (s.node n).cause with
        | some (st, cause, who) => st + cause % 65536 * 2 ^ 16 + who % 2 ^ 32 * 2 ^ 32
        | none => 2) % 2 ^ 64) ∧
  (∀ (n k : Nat) (st : Status) (s : State), Claims.Between s → n ≠ 0 → (s.part (s.node n).part).overrun = false → 0 < (s.node n).gate → (s.node n).gate = (s.node n).expect → s.ctxKeys.Nodup →
    k ∈ s.ctxKeys → (s.ctx k).node = n → (s.ctx k).wait.gate = some st →
    Claims.Happens (.restoreGateRelease n) s fun t => (t.ctx k).status = st ∧ (t.ctx k).wait = Wait.none ∧ (t.node n).gate = 0 ∧
      (t.node n).away = (s.node n).away + (s.now - (s.node n).leftAt)) ∧
  (∀ (k : Nat) (g : Seg) (s : State), Claims.Between s → (s.ctx k).rolling = true → (s.ctx k).kill = none → (s.ctx k).seg = some g →
    ((s.ctx k).status = .ready ∨ (s.ctx k).status = .running) →
    ((g.replayed = true ∨ g.irrevocable = true) → Claims.Happens (.segmentRollback k) s fun t => (t.ctx k).kill.isSome = true ∧ (t.ctx k).rolling = false) ∧
    (g.replayed = false → g.irrevocable = false → (∀ m ∈ (s.ctx k).cmds,
      if vget g.base m.eng.val 0 < m.num then m.susp.isSome = true ∨ (s.ctx k).behind m = true else m.susp.isSome = true) →
      (s.ctx k).accs = [] → (s.ctx k).flights = [] → (s.ctx k).regs.sys.rmode = 0 →
      Claims.Happens (.segmentRollback k) s fun t => (t.ctx k).regs = g.shadow ∧ (t.ctx k).f = (s.ctx k).f ∧ (t.ctx k).q = (s.ctx k).q ∧
        (t.ctx k).seg = some { g with log := [], logged := 0, buf := [], used := 0, atoms := 0, replayed := true, irrevocable := false } ∧
        (t.ctx k).cmds = (s.ctx k).cmds.filter (fun m => decide (m.num ≤ vget g.base m.eng.val 0)) ∧
        t.mem = g.log.foldl (fun m x => m.putN x.1 x.2.1 x.2.2) s.mem)) ∧
  (∀ (k : Nat) (s : State), Claims.Between s → (s.ctx k).rolling = true → (s.ctx k).kill = none → (s.ctx k).status ≠ .free → (s.ctx k).seg = none →
    exec (.segmentRollback k) s = .next (s.modCtx k fun c => { c with rolling := false })) ∧
  (∀ (p : Nat) (s : State), Claims.Between s → (s.part p).exist = true → (s.part p).budget ≠ 0 → (s.part p).overrun = false →
    (s.part p).budget ≤ (s.part p).charged → (∀ n ∈ s.nodes, (s.node n.1).run = true → (s.node n.1).part = p → (s.node n.1).out ≠ 0) → (s.ctx mgmtKey).status ≠ .free →
    (vget (s.ctx mgmtKey).q 2 []).length < 4096 →
    Claims.Happens (.budgetOverrun p) s fun t => (t.part p).overrun = true ∧ 30 ∈ (t.ctx mgmtKey).async ∧
      vget (t.ctx mgmtKey).q 2 [] = vget (s.ctx mgmtKey).q 2 [] ++ [element 0x31 (p % 64)]) ∧
  (∀ (p : Nat) (s : State), Claims.Between s → (s.part p).exist = true →
    let free := (s.part p).budget = 0 ∨ (s.part p).period = 0
    let begins (at' : Nat) : Prop := Claims.Happens (.partitionPeriodStart p) s fun t => (t.part p).charged = 0 ∧ (t.part p).overrun = false ∧
      (t.part p).periodAt = at' ∧ (t.part p).parked = [] ∧ ∀ k pc r, (s.part p).parked = [(k, pc, r)] → (s.ctx k).status ≠ .free →
        (s.ctx k).regs.flow.pc = pc → (t.ctx k).regs.flow.pc = pc ∧ (t.ctx k).regs.dat.s = r
    (¬free → s.periodEnd p ≤ s.now → begins (s.periodEnd p)) ∧ (free → (s.part p).overrun = true → begins s.now)) ∧
  (∀ (k : Nat) (s : State), Claims.Between s → (s.ctx k).forced = true → (s.ctx k).saving = false → (s.ctx k).kill = none →
    (s.ctx k).regs.sys.rmode.getLsbD 1 = false → (s.ctx k).status ≠ .free → (s.ctx k).status ≠ .ending → (s.ctx k).cmds = [] → s.atStop k = true → s.opOn k = false →
    Claims.Happens (.epilogueStop k) s fun t => t.opOn k = true ∧ (t.ctx k).saving = true ∧ (t.ctx k).forced = false ∧
      (t.ctx k).accs = [] ∧ (t.ctx k).flights = [] ∧ (t.ctx k).seg = none ∧
      (t.ctx k).regs.flow = (let f := (s.ctx k).regs.flow
        if f.epi.used then { f with pc := f.epi.pro, epi := { f.epi with armed := false, used := false, resuming := true } } else f)) ∧
  (∀ (n w k : Nat) (s : State), Claims.Between s → (s.node n).drainAt = some w → w ≤ s.now → k ∈ s.nodeCtxs n → (s.node n).ctxs.Nodup → (s.ctx k).regs.sys.rmode.getLsbD 1 = false →
    ((s.ctx k).saving = false → Claims.Happens (.drainBoundExpiry n) s fun t => (t.node n).drainAt = none ∧ t.opOn k = true ∧ t.mem = s.mem ∧
      ∀ o ∈ t.ops, o.kind = .save → o.issuer = none → o.target ∈ s.nodeCtxs n → o.a = 0) ∧
    ((∀ j ∈ s.nodeCtxs n, (s.ctx j).saving = true) → exec (.drainBoundExpiry n) s = .next (s.modNode n fun x => { x with drainAt := none })))

/-! Windows, usage records and the ends of the asynchronous forms. -/
/-- Operation i of the list, an event of which is due between bundles. -/
abbrev Claims.Op (s : State) (i : Nat) (o : SysOp) (kind : OpKind) : Prop := Claims.Between s ∧ s.ops[i]? = some o ∧ o.kind = kind
/-- The state without operation i. -/
def Claims.less (s : State) (i : Nat) : State := { s with ops := s.ops.eraseIdx i }
/-- R325-R327, R329-R331, R333, R407, R443, R447: the ends of windows, the hourly halving and the daily record. -/
def Obligations.WindowEvents : Prop :=
  (∀ (c : Nat) (s : State), Claims.Between s →
    let e := (s.core c).energy
    let len := 256 * (s.core c).div[(0 : Fin 5)]
    e.fin ≤ s.now → s.now < e.fin + len →
    exec (.energyWindowEnd c) s = .next (s.modCore c fun y => { y with energy := { e with
      fin := e.fin + len, grant := s.coreGrant c, charge := e.charge - e.grant } })) ∧
  (∀ (c : Nat) (s : State), Claims.Between s → c < 256 → s.mulCmds c = [] →
    let g := (s.core c).gov
    let cap := (s.core c).matrixCycles ((g.win + 1) * 2048)
    (g.win + 1) * 2048 ≤ s.now →
    (∀ k, (cap < g.used ∨ g.late = true) → s.bound c = [k] → (s.ctx k).pitch.core < (s.ctx k).pitch.floor → (s.ctx k).regs.sys.dmode = false →
      (s.ctx k).pitch.rank ≤ 7 → Claims.Happens (.coreGovernorWindowEnd c) s fun t =>
        (t.ctx k).pitch = { (s.ctx k).pitch with core := (s.ctx k).pitch.core + 1 } ∧ (t.core c).gov.win = g.win + 1 ∧
        (t.core c).gov.stack = numOf k :: g.stack ∧ (t.core c).gov.quiet = 0 ∧ vget (t.core c).gov.ptr (s.ctx k).pitch.rank 0 = numOf k ∧ t.mem = s.mem) ∧
    (g.used ≤ cap * 9 / 10 → g.late = false → g.quiet < 3 → Claims.Happens (.coreGovernorWindowEnd c) s fun t =>
      t.ctxs = s.ctxs ∧ (t.core c).gov.win = g.win + 1 ∧ (t.core c).gov.stack = g.stack ∧ (t.core c).gov.quiet = g.quiet + 1) ∧
    (∀ i r, g.used ≤ cap * 9 / 10 → g.late = false → g.quiet = 3 → g.stack = i :: r → Claims.Happens (.coreGovernorWindowEnd c) s fun t =>
      (t.ctx (keyOf c i)).pitch = { (s.ctx (keyOf c i)).pitch with core := (s.ctx (keyOf c i)).pitch.core - 1 } ∧
        (t.core c).gov.stack = r ∧ (t.core c).gov.quiet = 0 ∧ (t.core c).gov.win = g.win + 1)) ∧
  (∀ (pl k r asked : Nat) (s : State), Claims.Between s → pl < 4 → r < 4 →
    let g := vget s.plains pl Governor.resetPlain
    let cap := (s.capacity pl r).1
    let short := min asked ((s.ctx k).pitch.bwg * 256) - cap
    (g.win + 1) * 2048 ≤ s.now → (∀ c, c < 256 → s.mulCmds c = []) → s.rates = [] → s.plainOwners pl = [k] → s.traffic = [⟨pl, k, r, asked, 0⟩] → cap < asked →
    (s.ctx k).pitch.relief = true → (s.ctx k).pitch.rank ≤ 7 → (s.ctx k).pitch.plain < (s.ctx k).pitch.floor → (s.ctx k).regs.sys.dmode = false →
    Claims.Happens (.plainGovernorWindowEnd pl g.win) s fun t =>
      (t.ctx k).pitch = { (s.ctx k).pitch with plain := (s.ctx k).pitch.plain + 1 } ∧ (vget t.plains pl Governor.resetPlain).win = g.win + 1 ∧
        (vget t.plains pl Governor.resetPlain).stack = k :: g.stack ∧ t.mem = s.mem ∧ t.traffic = [⟨pl, k, r, 0, asked - cap⟩] ∧
        (short = 0 → (t.ctx k).q = (s.ctx k).q) ∧ (0 < short → (vget (s.ctx k).q 2 []).length < 64 → vget (t.ctx k).q 2 [] = vget (s.ctx k).q 2 [] ++
          [element 0x30 (2 ^ 55 + r * 2 ^ 52 + min (short / 256) 0xFFFFFF * 2 ^ 24 + g.win % 2 ^ 24)])) ∧
  (∀ (cap full : Nat) (need : Nat → Nat) (owners : List Nat) (s : State), owners.Nodup →
    let served := s.serve cap full need owners
    (owners.map served).sum ≤ cap ∧ ∀ k ∈ owners, served k ≤ need k ∧ ((s.ctx k).regs.sys.dmode = true →
      ((owners.filter fun j => (s.ctx j).regs.sys.dmode).map fun j => (s.ctx j).pitch.bwg * 256).sum ≤ cap →
      min (need k) ((s.ctx k).pitch.bwg * 256) ≤ served k)) ∧
  (∀ (p : Nat) (s : State), Claims.Between s → (s.part p).exist = true → (s.part p).final = false →
    (s.part p).created + ((s.part p).emitted + 1) * Config.usagePeriod ≤ s.now →
    Claims.Happens (.usageRecordEmit p) s fun t => ∃ r, (t.part p).usage = some r ∧ (t.part p).uprev = BitVec.ofNat 512 (ofBytes (sha512 r)) ∧
      (t.part p).useq = (s.part p).useq + 1 ∧ (t.part p).emitted = (s.part p).emitted + 1 ∧ le r 64 8 = (s.part p).useq % 2 ^ 64 ∧
      le r 72 8 = (s.before + s.now) % 2 ^ 64 ∧ le r 80 8 = p % 2 ^ 64 ∧ t.mem = s.mem) ∧
  (∀ (s : State), Claims.Between s → (s.hours + 1) * Config.perHour ≤ s.now →
    Claims.Happens .scoreHalving s fun t => t.hours = s.hours + 1 ∧ ∀ u, t.unit u = { s.unit u with score := (s.unit u).score / 2 })
/-- R257, R258, R264-R268, R270, R273, R277, R380, R383, R386, R387, R407, R409, R440-R442: the ends of the asynchronous forms. Which images are
refused, and with which outcome, is log entry 24. -/
def Obligations.OperationEvents : Prop :=
  (∀ (s : State) (o : SysOp) (r k : Nat), o.issuer = some k → (s.ctx k).status ≠ .free → (s.ctx k).life = o.life →
    (vget (s.ctx k).q 2 []).length < 64 →
    let t := s.finishOp o r
    vget (t.ctx k).q 2 [] = vget (s.ctx k).q 2 [] ++ [element 0x20 (o.opcode * 2 ^ 48 + r * 2 ^ 40 + o.ticket % 2 ^ 40)] ∧
      (t.ctx k).f[o.flag] = BitVec.ofNat 32 (min (((s.ctx k).f[o.flag]).toNat + 1) 0xFFFFFFFF) ∧ t.mem = s.mem) ∧
  (∀ (i : Nat) (o : SysOp) (s u : State), Claims.Op s i o .save → s.opReady o = true → s.opTurn o = true →
    ((s.ctx o.target).status = .free → exec (.ctxsaveDone i) s = .next ((Claims.less s i).finishOp o 4)) ∧
    ((s.ctx o.target).status ≠ .free → ((Claims.less s i).quiesce o.target).saveImage o.target o.a = some u →
      let n := (s.ctx o.target).node
      let t := u.finishOp o 0
      exec (.ctxsaveDone i) s = .next ((if t.nodeCtxs n = [] then t.modNode n fun x => { x with drainAt := none } else t).tryResume n) ∧
        (u.ctx o.target).status = .free)) ∧
  (∀ (i : Nat) (o : SysOp) (s u : State), Claims.Op s i o .load → s.opTurn o = true →
    ((Claims.less s i).loadImage o.target o.b o.a = .ok u → exec (.ctxloadDone i) s = .next (u.finishOp o 0)) ∧
    (∀ e, o.issuer.isSome = true → (Claims.less s i).loadImage o.target o.b o.a = .error e →
      exec (.ctxloadDone i) s = .next ((Claims.less s i).finishOp o e)) ∧
    (let w := Claims.less s i
     ∀ e n, o.issuer = none → w.loadImage o.target o.b o.a = .error e →
      (s.nodes.map Prod.fst).find? (fun n => (s.node n).run && (s.node n).saved.any fun x => x.2 = o.a) = some n →
      exec (.ctxloadDone i) s = .next (State.killNode { w with
        ops := w.ops.filter fun x => !(x.kind == .load && x.issuer.isNone && (s.node n).saved.any fun y => y.2 == x.a) } n 3
          (if w.imageAt o.b o.a 0x40000 = true then 6 else 7) 0))) ∧
  (∀ (i : Nat) (o : SysOp) (s : State), Claims.Op s i o .create →
    (le o.data 0x48 8 < descSlots o.data → exec (.partitionCreateDone i) s = .next
      (((Claims.less s i).modPart o.target fun x => { x with busy := false }).finishOp o 5)) ∧
    (∀ u, (Claims.less s i).create o.target o.data = (0, u) → exec (.partitionCreateDone i) s = .next (u.finishOp o 0) ∧ (u.part o.target).exist = true ∧
      (u.part o.target).stopped = false ∧ (u.part o.target).hbm = (le o.data 0x20 8, le o.data 0x28 8))) ∧
  (∀ (i : Nat) (o : SysOp) (s : State), Claims.Op s i o .stop → (∀ c ∈ s.ctxs, c.2.part = o.target → c.2.status = .free ∧ c.2.cmds = []) →
    (∀ x ∈ s.ops.take i, ∀ cls, x.kind = .zero cls → (if cls = 1 then x.b else x.target) ≠ o.target) →
    Claims.Happens (.partitionStopDone i) s fun t => (t.part o.target).stopped = true ∧ (t.part o.target).busy = false ∧
      (t.part o.target).final = true ∧ (t.part o.target).eave = [] ∧ (∀ x ∈ t.tlb, x.part ≠ o.target)) ∧
  (∀ (i : Nat) (o : SysOp) (s : State), Claims.Op s i o .destroy →
    Claims.Happens (.partitionDestroyDone i) s fun t => t.part o.target = Part.absent ∧
      (∀ j, j < (s.part o.target).hbm.2 → t.mem.get (mkey 0 ((s.part o.target).hbm.1 + j)) = 0) ∧
      (∀ j, j < (s.part o.target).carr.2 → t.mem.get (mkey 1 ((s.part o.target).carr.1 + j)) = 0) ∧ (∀ l ∈ t.l2, l.part ≠ o.target) ∧
      ∀ q, q ≠ o.target → t.part q = s.part q) ∧
  (∀ (i : Nat) (o : SysOp) (s : State), Claims.Op s i o (.zero 1) →
    Claims.Happens (.zeroDone i) s fun t => ∀ b j, b < 24 → o.a / 2 ^ b % 2 = 1 → j < 0x20000 → t.mem.get (mkey (padSpace o.target) (b * 0x20000 + j)) = 0) ∧
  (∀ (i : Nat) (o : SysOp) (s : State), Claims.Op s i o (.zero 0) →
    exec (.zeroDone i) s = .next (((Claims.less s i).zeroMapped o.target 0 o.a o.b).finishOp o 0)) ∧
  (∀ (i : Nat) (o : SysOp) (s : State), Claims.Op s i o .retire → s.flash.length < 8192 →
    (256 ≤ o.target ∨ ∀ x ∈ s.nodes, x.2.run = true → x.2.cause = none ∨ ∀ k ∈ x.2.ctxs, coreOf k ≠ o.target) →
    Claims.Happens (.retirementRecord i) s fun t => ∃ r, t.flash = s.flash ++ [r] ∧ le r 64 4 = s.flash.length ∧ le r 68 4 = o.target % 2 ^ 32 ∧
      le r 72 2 = o.a % 65536 ∧ le r 74 2 = o.b % 65536 ∧ t.mem = s.mem) ∧
  (∀ (i : Nat) (o : SysOp) (s : State), Claims.Op s i o (.sign 0) →
    ((s.part o.target).exist = false → exec (.signedRecordDone i) s = .next ((Claims.less s i).finishOp o 4)) ∧
    (∀ l u, (s.part o.target).exist = true → (s.part o.target).usage = some l →
      (Claims.less s i).writeVirt (o.issuer.getD mgmtKey) o.a (l ++ List.replicate (4096 - l.length) 0) 4 = some u →
      exec (.signedRecordDone i) s = .next (u.finishOp o 0)))

/-! Health. -/
/-- Core c watches its neighbour x in direction n: it is in service and has not fenced it (R394-R396). -/
abbrev Claims.Watches (s : State) (c : Nat) (n : Fin 4) (x : Nat) : Prop :=
  Claims.Between s ∧ c < 256 ∧ neighbour c n = some x ∧ s.inService c = true ∧ (s.view c n).view ≠ 3
/-- Every neighbour of core x but `but` has a message about it on its way, at most 512 cycles long (Table 20-2). -/
def Claims.Told (s t : State) (x but : Nat) (kind : LinkMsg) : Prop :=
  ∀ (m : Fin 4) (y : Nat), neighbour x m = some y → y ≠ but → (⟨y, m + 2, kind, s.now + 512⟩ : Wire) ∈ t.wires
/-- R394-R408: heartbeats, views and votes, tests, leases. When a heartbeat fails to come, what counts as a flit, and the leases of six days are
log entry 25. -/
def Obligations.HealthEvents : Prop :=
  (∀ (c : Nat) (s : State), Claims.Between s → c < 256 → s.boot.state = 1 → s.now % 65536 = 0 → (s.core c).health.fenced = false →
    (s.unit (coreUnit c)).retired = false → (s.unit (coreUnit c)).failed = false → (∀ t, (s.core c).health.sentAt = some t → t < s.now) →
    (Config.silent c ((s.before + s.now) / 65536) = true → exec (.heartbeatSend c) s = .next
      (s.modCore c fun y => { y with health := { y.health with sentAt := some s.now } })) ∧
    (Config.silent c ((s.before + s.now) / 65536) = false → Claims.Happens (.heartbeatSend c) s fun t =>
      (t.core c).health.seq = ((s.core c).health.seq + 1) % 2 ^ 32 ∧ (t.core c).health.sentAt = some s.now ∧
      (t.core c).health.dlv = Vector.replicate 4 0 ∧ t.mem = s.mem ∧ ∀ (n : Fin 4) (y : Nat), neighbour c n = some y → ∃ p : BitVec 128,
        (⟨y, n + 2, .beat p, s.now + 256⟩ : Wire) ∈ t.wires ∧ (p.extractLsb' 0 32).toNat = (s.core c).health.seq % 2 ^ 32 ∧
        (p.extractLsb' 32 4).toNat = (if (s.unit (coreUnit c)).out then 2 else if (s.core c).health.probation then 1 else 0) ∧
        (p.extractLsb' 40 24).toNat = min ((s.core c).health.dlv[n]) 0xFFFFFF)) ∧
  (∀ (c x : Nat) (n : Fin 4) (h : BitVec 128) (s : State), Claims.Watches s c n x → s.boot.state = 1 → s.inPeriod c = true → s.inPeriod x = true →
    (s.view c n).beats < 2 → (s.view c n).accepted ≤ (h.extractLsb' 40 24).toNat + 64 → (h.extractLsb' 40 24).toNat ≤ (s.view c n).accepted + 64 →
    (s.core x).health.probation = false →
    ((s.view c n).view ≠ 1 → exec (.heartbeatReceive c n h) s = .next (((s.takeWire c n (.beat h)).getD s).modView c n fun v =>
      { v with beats := v.beats + 1, missed := 0, accepted := 0 })) ∧
    ((s.view c n).view = 1 → Claims.Happens (.heartbeatReceive c n h) s fun t => (t.view c n).view = 0 ∧ (t.view c n).acc = false ∧
      (t.view c n).set = (s.view c n).set.filter (· ≠ c) ∧ Claims.Told s t x c (.withdraw c) ∧ t.mem = s.mem)) ∧
  (∀ (c x : Nat) (n : Fin 4) (s : State), Claims.Watches s c n x → (∀ m : Fin 4, m ≠ n → neighbour c m = none ∨ (s.view c m).view = 3) →
    s.boot.state = 1 → (s.core c).health.periods < s.now / 65536 → s.boot.readyAt ≤ (s.now / 65536 - 1) * 65536 → (s.view c n).view = 0 →
    ((s.view c n).beats = 0 → 2 ≤ (s.view c n).missed → 2 ≤ s.inCount x → (s.view c n).set = [] → s.units = [] →
      Claims.Happens (.heartbeatPeriodEnd c) s fun t => (t.view c n).view = 1 ∧ (t.view c n).acc = true ∧ (t.view c n).set = [c] ∧
        (t.unit (coreUnit x)).score = 16 ∧ Claims.Told s t x c (.accuse c) ∧ (t.core c).health.periods = s.now / 65536 ∧ t.mem = s.mem) ∧
    (0 < (s.view c n).beats → Claims.Happens (.heartbeatPeriodEnd c) s fun t => (t.view c n).view = 0 ∧ (t.view c n).missed = 0 ∧ (t.view c n).beats = 0 ∧
      (t.core c).health.periods = s.now / 65536 ∧ t.mem = s.mem)) ∧
  (∀ (c x flits : Nat) (n : Fin 4) (s : State), Claims.Watches s c n x → s.boot.state = 1 →
    let v := s.view c n
    let past := s.now / 4096
    let (w, got) := match v.flits with | y :: _ => if y.1 < past then y else (past - 1, 0) | [] => (past - 1, 0)
    let beyond := if 2048 < max flits got then (if w = v.window then v.beyond else 0) + 1 else 0
    v.window < past → beyond < 8 → exec (.flitWindowEnd c n flits) s = .next
      ((s.modView c n fun v => { v with accepted := v.accepted + (flits - got), flits := v.flits.filter fun y => decide (w < y.1), window := w + 1, beyond := beyond }).modCore x
        fun y => { y with health := { y.health with dlv := vset y.health.dlv ((n.val + 2) % 4) (vget y.health.dlv ((n.val + 2) % 4) 0 + (flits - got)) } })) ∧
  (∀ (c x w : Nat) (n : Fin 4) (s u : State), Claims.Watches s c n x →
    (s.takeWire c n (.accuse w) = some u →
      ((insertSorted w (s.view c n).set).length < s.inCount x / 2 + 1 →
        exec (.accusationReceive c n w) s = .next (u.modView c n fun v => { v with set := insertSorted w v.set })) ∧
      (s.inCount x / 2 + 1 ≤ (insertSorted w (s.view c n).set).length → 0 < s.inCount x → (s.unit (coreUnit x)).retired = false →
        Claims.Happens (.accusationReceive c n w) s fun t => (t.core x).health.fenced = true)) ∧
    (s.takeWire c n (.accuse w) = none → exec (.accusationReceive c n w) s = .next s) ∧
    (s.takeWire c n (.withdraw w) = some u →
      exec (.withdrawalReceive c n w) s = .next (u.modView c n fun v => { v with set := v.set.filter (· ≠ w) }))) ∧
  (∀ (c x : Nat) (n : Fin 4) (s : State), Claims.Watches s c n x → (s.core x).health.fenced = false → (s.unit (coreUnit x)).retired = false →
    (s.majority c n x = true ∨ (s.takeWire c n .fence).isSome = true) →
    Claims.Happens (.fenceNoticeReceive c n) s fun t => (t.core x).health.fenced = true ∧
      ∀ k ∈ s.bound x, (s.ctx k).kill = none → (s.ctx k).node = 0 → (t.ctx k).kill = some 0) ∧
  (∀ (c x : Nat) (n : Fin 4) (s u : State), Claims.Between s → c < 256 → neighbour c n = some x → s.inService c = true → (s.view c n).view = 3 →
    s.takeWire c n .appeal = some u →
    (s.core x).health.probation = true → (s.core x).health.fenced = false → (s.unit (coreUnit x)).retired = false → (s.unit (coreUnit x)).out = false →
    exec (.readmissionReceive c n) s = .next (u.modView c n fun v => { View.live with accepted := v.accepted, window := v.window, flits := v.flits })) ∧
  (∀ (c : Nat) (w : Nat) (s : State), Claims.Between s → c < 256 → (s.core c).health.testing = some w → (s.unit c).retired = false →
    (∀ o ∈ s.ops, o.kind ≠ .appeal ∨ o.target ≠ c) →
    Claims.Happens (.bistResult c true) s (fun t => (t.core c).health.fenced = false ∧ (t.core c).health.probation = true ∧ (t.core c).health.testing = none ∧
      (t.core c).health.clean = 0 ∧ (∀ n, n < 4 → (s.ctx (keyOf c n)).cmds = [] → t.ctx (keyOf c n) = Ctx.zero) ∧
      (∀ n, n < 4 → (t.ctx (keyOf c n)).cmds = (s.ctx (keyOf c n)).cmds ∧ (t.ctx (keyOf c n)).status = .free) ∧
      (∀ j, j < 0x300000 → t.mem.get (mkey (padSpace c) j) = 0) ∧ Claims.Told s t c 256 .appeal) ∧
    ((s.unit c).score < 3072 → s.units.length ≤ 1 → (∀ u ∈ s.units, u.1 = c) → s.now < (s.hours + 1) * Config.perHour →
      Claims.Happens (.bistResult c false) s fun t =>
        (t.unit c).score = (s.unit c).score + 1024 ∧ (t.core c).health.testing = none ∧ (t.core c).health.fenced = (s.core c).health.fenced)) ∧
  (∀ (u : Nat) (s : State), Claims.Between s → s.boot.state = 1 → unitOk u = true → s.mayLease u = true →
    (∀ v ∈ allUnits, v ≠ u → s.mayLease v = true → s.leaseBefore u v = true) →
    exec (.leasePlacement u) s = .next { s.modUnit u fun y => { y with lease := true, out := false, stop := false, last := s.before + s.now } with
      ops := s.ops ++ [mkOp .lease 108 0 u 0 0 (s.now + 7 * Config.perDay) []] }) ∧
  (∀ (u : Nat) (s : State), Claims.Between s → (s.unit u).lease = true → (s.unit u).out = false →
    (∀ windows, 256 ≤ u → s.mayWithdraw u windows = true → exec (.leaseWithdrawal ⟨u, windows⟩) s = .next
      (s.latchRates.modUnit u fun y => { y with out := true, since := s.now, pat := s.now })) ∧
    (∀ windows p, 256 ≤ u → p ∈ s.usersOf u → p ∉ windows → exec (.leaseWithdrawal ⟨u, windows⟩) s = .next s) ∧
    (∀ windows, u < 256 → s.bound u = [] → (s.core u).health.probation = false → (s.core u).health.fenced = false →
      Claims.Happens (.leaseWithdrawal ⟨u, windows⟩) s fun t => (t.unit u).out = true ∧ (t.unit u).since = s.now ∧ t.mem = s.mem ∧
        ∀ n m : Fin 4, ∀ y, neighbour u n = some y → m.val = (n.val + 2) % 4 → (t.view y m).view = 3)) ∧
  (∀ (u : Nat) (s : State), Claims.Between s → (s.unit u).lease = true → (s.unit u).out = true →
    let ran := (s.unit u).since + (patternBounds u).2 ≤ s.now
    ((s.unit u).stop = false → ¬ran → exec (.patternEnd u true false) s = .next (s.modUnit u fun y => { y with pat := s.now })) ∧
    (∀ last : Bool, ((s.unit u).stop = true ∨ last = true ∨ ran) → 256 ≤ u → Claims.Happens (.patternEnd u true last) s fun t =>
      (t.unit u).lease = false ∧ (t.unit u).out = false ∧ (t.unit u).retired = (s.unit u).retired) ∧
    ((s.unit u).retired = false → 256 ≤ u → ∀ last, Claims.Happens (.patternEnd u false last) s fun t => (t.unit u).retired = true ∧ (t.unit u).lease = false))

/-! The outside world. -/
/-- A virtual function that answers (R430, R454): its link is up, its partition exists. -/
abbrev Claims.Live (s : State) (p : Nat) : Prop := Claims.Between s ∧ s.vfUp p = true ∧ s.vfLive p = true
/-- A port that carries traffic (R408, R453). -/
abbrev Claims.Carries (s : State) (i : Fin 18) : Prop := Claims.Between s ∧ s.portLive i = true
/-- R387, R400, R428-R440, R446, R449-R454: power, heat, bring-up, hosts and ports. Model's choices: the score per NAK, which replays count as a
row and the start value of LCRC (log entry 26); the cut of the die heat, the expiry one cycle after the lease and what a power-on reset keeps
(log entry 21); TDISP (log entry 20); reads of a stopped partition (log entry 18); messages handed on (log entry 32). -/
def Obligations.OutsideEvents : Prop :=
  (∀ s : State, Claims.Between s → Claims.Happens .powerOnReset s fun t => t.now = 0 ∧ t.before = s.before + s.now ∧ t.flash = s.flash ∧
    (∀ u, (t.unit u).score = (s.unit u).score ∧ (t.unit u).retired = (s.unit u).retired ∧ (t.unit u).lease = (s.unit u).lease) ∧ t.ctxs = [] ∧ t.parts = [] ∧
    (∀ c, (t.core c).div = Core.reset.div ∧ (c < 256 → (t.core c).health.fenced = (s.core c).health.fenced ∧
      (t.core c).health.probation = (s.core c).health.probation)) ∧
    (∀ a, (spaceOf a < 2 ∨ 20000 ≤ spaceOf a) → t.mem.get a = 0) ∧
    t.power = { State.reset.power with floor := s.power.floor, budget := s.power.floor } ∧ t.boot = State.reset.boot) ∧
  (∀ (code unit : Nat) (pass : Bool) (data : List (BitVec 8)) (s : State), Claims.Between s → s.boot.state = 0 →
    (s.boot.next = 0 → code = 1 → pass = true → Claims.Happens (.selfTest code unit pass data) s fun t =>
      t.boot = { s.boot with next := 1 } ∧ t.ctxs = s.ctxs ∧ t.mem = s.mem) ∧
    (s.boot.next = 0 → code = 1 → pass = false → Claims.Happens (.selfTest code unit pass data) s fun t => t.boot.state = 2 ∧ t.boot.code = 1 ∧
      t.boot.detail = 0 ∧ ∀ k, k ≠ mgmtKey → t.ctx k = Ctx.zero) ∧
    (s.boot.next + 1 = bootTests.length → code = 0x23 → (∃ l : Fin 2, s.links[l] ≠ 0) → Claims.Happens (.selfTest code unit pass data) s fun t =>
      t.boot = { s.boot with next := s.boot.next + 1, state := 1, readyAt := s.now } ∧ t.fabric = Config.fabricId.toNat ∧ t.mem = s.mem)) ∧
  (∀ (v : BitVec 192) (s : State), Claims.Between s → v.extractLsb' 128 64 = 0 → (∀ q, s.power.seq = some q → q < (v.extractLsb' 0 64).toNat) →
    s.ctxs = [] → Claims.Happens (.powerToken v) s fun t => t.power.seq = some (v.extractLsb' 0 64).toNat ∧
      t.power.budget = min (v.extractLsb' 64 32).toNat Config.maxBudget ∧ t.power.leaseEnd = some (s.now + (v.extractLsb' 96 32).toNat * Config.perMs) ∧
      t.power.atFloor = false) ∧
  (∀ (w : Nat) (s : State), Claims.Between s → s.power.leaseEnd = some w → w < s.now → s.ctxs = [] →
    Claims.Happens .tokenLeaseExpiry s fun t => t.power.budget = s.power.floor ∧ t.power.atFloor = true ∧ t.power.leaseEnd = none) ∧
  (∀ (st : Fin 8) (temp : Int) (s : State), Claims.Between s →
    (temp < 105 → exec (.hbmThermalMeasurement st temp) s = .next { s.latchRates with
      hbmStacks := s.hbmStacks.set st ⟨if 85 ≤ temp then true else if temp < 83 then false else s.hbmStacks[st].refresh2,
        if 95 ≤ temp then true else if temp < 93 then false else s.hbmStacks[st].cap, s.hbmStacks[st].off⟩ }) ∧
    (105 ≤ temp → Claims.Happens (.hbmThermalMeasurement st temp) s fun t => t.boot.state = 2 ∧ t.boot.code = 0x31 ∧ t.boot.detail = st.val ∧
      t.hbmStacks[st].off = true ∧ ∀ k, k ≠ mgmtKey → t.ctx k = Ctx.zero)) ∧
  (∀ (pl : Fin 4) (temp : Int) (s : State), Claims.Between s →
    (110 ≤ temp → Claims.Happens (.dieThermalMeasurement pl temp) s fun t => t.boot.state = 2 ∧ t.boot.code = 0x32 ∧ t.boot.detail = pl.val) ∧
    (100 < temp → temp < 110 → s.ctxs = [] → Claims.Happens (.dieThermalMeasurement pl temp) s fun t =>
      t.power.cut = (if s.power.cutMs = s.now / Config.perMs + 1 then s.power.cut else min 100 (s.power.cut + 10)) ∧
      t.power.cutMs = s.now / Config.perMs + 1 ∧ t.dies = s.dies.set pl true) ∧
    (temp < 95 → s.dies[pl] = true → (∀ i : Fin 4, i ≠ pl → s.dies[i] = false) → s.ctxs = [] → Claims.Happens (.dieThermalMeasurement pl temp) s fun t =>
      t.power.cut = 0 ∧ t.dies = s.dies.set pl false)) ∧
  (∀ (l : Fin 2) (width : Nat) (s : State), Claims.Between s → width ∈ [0, 4, 8, 16] →
    exec (.linkTraining l width) s = .next { s with links := s.links.set l width }) ∧
  (∀ (p off : Nat) (data : List (BitVec 8)) (s : State), Claims.Live s p → (s.part (vfPart p)).stopped = false → off + data.length ≤ 2 ^ 40 →
    (eaveSpace data.length ≤ s.vfFree p → exec (.hostWrite p off data) s = .next (s.modPart (vfPart p) fun x =>
      { x with eave := x.eave ++ [⟨vfLink p, x.vf[vfLink p].winbase.toNat + off, data⟩] })) ∧
    (s.vfFree p < eaveSpace data.length → Claims.Happens (.hostWrite p off data) s fun t => (t.part (vfPart p)).eave = (s.part (vfPart p)).eave ∧
      (t.part (vfPart p)).vf[vfLink p].status = (s.part (vfPart p)).vf[vfLink p].status ||| 1 ∧
      ((s.part (vfPart p)).vf[vfLink p].drop ≠ BitVec.allOnes 64 →
        (t.part (vfPart p)).vf[vfLink p].drop = (s.part (vfPart p)).vf[vfLink p].drop + 1) ∧ .advisory p ∈ t.answers ∧ t.mem = s.mem)) ∧
  (∀ (p off n : Nat) (s : State), Claims.Live s p →
    let runs := s.hostRuns 0 (vfPart p) ((s.part (vfPart p)).vf[vfLink p].winbase.toNat + off) n .read (n / 65536 + 2)
    (off + n ≤ 2 ^ 40 → ((s.part (vfPart p)).stopped = false ∨ Config.readsStopped = true) →
      (∀ l u, runs = .ok (l, u) → exec (.hostRead p off n) s = .next (u.answer (.hostRead p (some (l.flatMap fun r => u.getBytes r.1 r.2.1))))) ∧
      (∀ a, runs = .error a → exec (.hostRead p off n) s = .next (s.answer (.hostRead p none)))) ∧
    (off + n ≤ 2 ^ 40 → (s.part (vfPart p)).stopped = true → Config.readsStopped = false → exec (.hostRead p off n) s = .next (s.answer (.unsupported p))) ∧
    (off + n ≤ 0x10000 → exec (.hostRead (128 + p) off n) s = .next
      (s.answer (.hostRead (128 + p) (some ((List.range n).map fun i => (s.vfBlock p).getD (off + i) 0)))))) ∧
  (∀ (l : Fin 2) (off n : Nat) (s : State), Claims.Between s → s.links[l] ≠ 0 → off + n ≤ 8 →
    exec (.hostRead (256 + l.val) off n) s = .next (s.answer (.hostRead (256 + l.val) (some (((bytesOf s.bringup 8).drop off).take n))))) ∧
  (∀ (p : Nat) (v : BitVec 64) (ide : Bool) (s : State), Claims.Live s p → (s.locked (vfPart p) = true → ide = true) →
    2 ^ 40 ≤ v.toNat → v.toNat < 2 ^ 57 →
    exec (.winbase p v ide) s = .next (s.modVf p fun r => { r with winbase := v &&& ~~~0xFFFFFFFFFF })) ∧
  (∀ (p : Nat) (v : BitVec 32) (s : State), Claims.Live s p →
    exec (.status p v) s = .next (s.modVf p fun r => { r with status := r.status &&& ~~~(v.setWidth 2) })) ∧
  (∀ (p off n : Nat) (v : BitVec 64) (w : BitVec 32) (ide : Bool) (data : List (BitVec 8)) (s : State), Claims.Between s → s.vfUp p = true → s.vfLive p = false →
    (off + data.length ≤ 2 ^ 40 → exec (.hostWrite p off data) s = .next (s.answer (.unsupported p))) ∧
    exec (.hostRead p off n) s = .next (s.answer (.unsupported p)) ∧ exec (.winbase p v ide) s = .next (s.answer (.unsupported p)) ∧
    exec (.status p w) s = .next (s.answer (.unsupported p))) ∧
  (∀ (f : Nat) (msg : List (BitVec 8)) (s : State), Claims.Between s → f ≤ 64 →
    exec (.spdmRequest f msg) s = .next (s.answer (.spdm f (Config.spdmAnswer f msg)))) ∧
  (∀ (p : Nat) (s : State), Claims.Between s → (s.part p).exist = true →
    ((s.part p).tdi = .unlocked → exec (.tdispRequest p .locked) s = .next (s.modPart p fun x => { x with tdi := .locked })) ∧
    ((s.part p).tdi = .locked → exec (.tdispRequest p .run) s = .next (s.modPart p fun x => { x with tdi := .run })) ∧
    exec (.tdispRequest p .unlocked) s = .next (s.modPart p fun x => { x with tdi := .unlocked })) ∧
  (∀ (i : Fin 18) (v : BitVec 512) (s : State), Claims.Carries s i →
    let x := s.ports[i]
    let all := x.inbox ++ bytesOf (v.extractLsb' 64 448).toNat 56
    let good := (v.extractLsb' 24 6).toNat = 0 ∧ (v.extractLsb' 31 3).toNat < 6 ∧ (v.extractLsb' 50 14).toNat = s.fabric
    let took (l : List (BitVec 8)) : State := { s with ports := s.ports.set i { x with rx := (x.rx + 1) % 256, inbox := l } }
    let body := all.take (all.length - 4)
    ((flitCrc v.toNat ≠ (v.extractLsb' 0 16).toNat ∨ (v.extractLsb' 16 8).toNat ≠ x.rx) → exec (.flitReceive i v) s = .next
      (({ s with ports := s.ports.set i { x with retry := true } } : State).answer (.nak i x.rx))) ∧
    (flitCrc v.toNat = (v.extractLsb' 0 16).toNat → (v.extractLsb' 16 8).toNat = x.rx → x.retry = false →
      (¬good → exec (.flitReceive i v) s = .next (took [])) ∧
      (good → v.getLsbD 30 = false → exec (.flitReceive i v) s = .next (took all)) ∧
      (good → v.getLsbD 30 = true →
        (all.length ≤ 64 * 56 ∧ crc32 body = ofBytes (all.drop (all.length - 4)) → exec (.flitReceive i v) s = .next ((took []).answer
          (.took (v.extractLsb' 36 14).toNat (v.extractLsb' 34 2).toNat (v.extractLsb' 31 3).toNat body))) ∧
        (¬(all.length ≤ 64 * 56 ∧ crc32 body = ofBytes (all.drop (all.length - 4))) →
          exec (.flitReceive i v) s = .next ((took []).answer (.resend i)))))) ∧
  (∀ (i : Fin 18) (lseq : BitVec 8) (s : State), Claims.Carries s i →
    let x := s.ports[i]
    let fails := if x.nakAt = some lseq.toNat then x.fails + 1 else 0
    let again := x.replay.dropWhile fun f => decide (f.extractLsb' 16 8 ≠ lseq)
    (fails < 16 → Claims.Happens (.nakReceive i lseq) s fun t =>
      t.ports[i] = { x with replay := again, nakAt := some lseq.toNat, fails := fails } ∧ .replay i again ∈ t.answers ∧
      (s.units = [] → (t.unit (portUnit i)).score = 1)) ∧
    (16 ≤ fails → (s.unit (portUnit i)).lease = false → Claims.Happens (.nakReceive i lseq) s fun t =>
      t.ports[i].up = false ∧ .replay i again ∈ t.answers ∧ (t.unit (portUnit i)).lease = true ∧ (t.unit (portUnit i)).out = false))

/-! Frames. -/
def Claims.sd (d : Dst) : List Loc := (sLoc d).toList
def Claims.vd (u : VUnit) (d : Dst) : List Loc := (vLoc u d).toList
/-- The unit and register that the fields of a transfer name (R157, R185). -/
def Claims.xferTo (s : Nat) (d : Nat) : Loc := if s = 2 then sReg d else if s = 3 then vReg .a d else if s = 4 then vReg .b d else .md (Fin.ofNat 8 d)
/-- The destination registers of an instruction that writes registers only; none for every other instruction. -/
def Claims.dests (i : Instr) : Option (List Loc) :=
  match i with
  | .add x => some (Claims.sd x.d) | .sub x => some (Claims.sd x.d) | .mul x => some (Claims.sd x.d) | .mulh x => some (Claims.sd x.d)
  | .mulhu x => some (Claims.sd x.d) | .div x => some (Claims.sd x.d) | .divu x => some (Claims.sd x.d) | .rem x => some (Claims.sd x.d)
  | .remu x => some (Claims.sd x.d) | .and x => some (Claims.sd x.d) | .or x => some (Claims.sd x.d) | .xor x => some (Claims.sd x.d)
  | .andn x => some (Claims.sd x.d) | .not x => some (Claims.sd x.d) | .shl x => some (Claims.sd x.d) | .shr x => some (Claims.sd x.d)
  | .sar x => some (Claims.sd x.d) | .rot x => some (Claims.sd x.d) | .fsh x => some (Claims.sd x.d) | .bfx x => some (Claims.sd x.d)
  | .bfxs x => some (Claims.sd x.d) | .bfi x => some (Claims.sd x.d) | .clz x => some (Claims.sd x.d) | .ctz x => some (Claims.sd x.d)
  | .popc x => some (Claims.sd x.d) | .min x => some (Claims.sd x.d) | .max x => some (Claims.sd x.d) | .minu x => some (Claims.sd x.d)
  | .maxu x => some (Claims.sd x.d) | .sel x => some (Claims.sd x.d)
  | .addi x => some [.s x.d] | .movi x => some [.s x.d] | .movhi x => some [.s x.d] | .ldl x => some [.s x.d]
  | .cmpeq x => some [.p x.d] | .cmpne x => some [.p x.d] | .cmplt x => some [.p x.d] | .cmple x => some [.p x.d] | .cmpltu x => some [.p x.d]
  | .cmpleu x => some [.p x.d] | .cmpi x => some [.p x.d] | .pand x => some [.p x.d] | .por x => some [.p x.d] | .pxor x => some [.p x.d]
  | .pnot x => some [.p x.d] | .pmov x => some [.p x.d] | .fcmp x => some [.p x.d]
  | .fadd x => some (Claims.sd x.d) | .fsub x => some (Claims.sd x.d) | .fmul x => some (Claims.sd x.d) | .fma x => some (Claims.sd x.d)
  | .fdiv x => some (Claims.sd x.d) | .fsqrt x => some (Claims.sd x.d) | .fcvt x => some (Claims.sd x.d) | .fmin x => some (Claims.sd x.d)
  | .fmax x => some (Claims.sd x.d) | .mfs x => some (Claims.sd x.d) | .scalarGetm x => some (Claims.sd x.d) | .scalarPutm x => some [.m x.j]
  | .scalarXfer x => some [Claims.xferTo x.s x.d]
  | .vadd u x => some (Claims.vd u x.d) | .vsub u x => some (Claims.vd u x.d) | .vmul u x => some (Claims.vd u x.d) | .vfma u x => some (Claims.vd u x.d)
  | .vfms u x => some (Claims.vd u x.d) | .vmin u x => some (Claims.vd u x.d) | .vmax u x => some (Claims.vd u x.d) | .vabs u x => some (Claims.vd u x.d)
  | .vneg u x => some (Claims.vd u x.d) | .vrcp u x => some (Claims.vd u x.d) | .vrsq u x => some (Claims.vd u x.d) | .vexp2 u x => some (Claims.vd u x.d)
  | .vlog2 u x => some (Claims.vd u x.d) | .vdiv u x => some (Claims.vd u x.d) | .vsel u x => some (Claims.vd u x.d) | .vand u x => some (Claims.vd u x.d)
  | .vor u x => some (Claims.vd u x.d) | .vxor u x => some (Claims.vd u x.d) | .vandn u x => some (Claims.vd u x.d) | .vshl u x => some (Claims.vd u x.d)
  | .vshr u x => some (Claims.vd u x.d) | .vsar u x => some (Claims.vd u x.d) | .vbfx u x => some (Claims.vd u x.d) | .vbfi u x => some (Claims.vd u x.d)
  | .vfsh u x => some (Claims.vd u x.d) | .vpopc u x => some (Claims.vd u x.d) | .vclz u x => some (Claims.vd u x.d) | .vunpack u x => some (Claims.vd u x.d)
  | .vperm u x => some (Claims.vd u x.d) | .vbcast u x => some (Claims.vd u x.d) | .vslide u x => some (Claims.vd u x.d) | .viota u x => some (Claims.vd u x.d)
  | .viotaRand u x => some (Claims.vd u x.d) | .vredadd u x => some (Claims.vd u x.d) | .vredmax u x => some (Claims.vd u x.d)
  | .vscan u x => some (Claims.vd u x.d) | .vectorGetm u x => some (Claims.vd u x.d) | .vmovs u x => some (Claims.vd u x.d) | .vefget u x => some (Claims.vd u x.d)
  | .vpmovFromPredicate u x => some (Claims.vd u x.d)
  | .vcvt u x => some (Claims.vd u x.d ++ if x.e then [.ve u (Fin.ofNat 4 x.r.enc)] else [])
  | .vpack u x => some (Claims.vd u x.d ++ [.vn u 3] ++ if x.e then [.ve u (Fin.ofNat 4 x.r.enc)] else [])
  | .vcmpeq _ x => some [.p x.d] | .vcmpne _ x => some [.p x.d] | .vcmplt _ x => some [.p x.d] | .vcmple _ x => some [.p x.d]
  | .vpmovToPredicate _ x => some [.p x.d] | .vectorPutm _ x => some [.m x.j] | .vectorXfer _ x => some [Claims.xferTo x.s x.d]
  | .vefclr u x => some [.ve u x.n] | .vefput u x => some [.ve u x.n]
  | .xclr x => some [.x x.d] | .xadd x => some [.x x.d] | .xadm x => some [.p x.d] | .xget x => some (Claims.vd .b x.d)
  | .mdset x => some [.md x.n] | .mdget x => some [.m x.j] | .matrixGetm x => some [.md x.n] | .matrixPutm x => some [.m x.j]
  | .matrixXfer x => some [Claims.xferTo x.s x.r] | .mrdz x => some [.m x.j] | .mwm x => some [.p x.d] | .mres x => some [.m x.j] | .mtag x => some [.md x.n]
  | .cdsetImmediate e x => some [.cd e x.n] | .cdsetRegister e x => some [.cd e x.n] | .cdget _ x => some [.m x.j] | .copyGetm e x => some [.cd e x.n]
  | .copyPutm _ x => some [.m x.j] | .copyXfer _ x => some [Claims.xferTo x.s x.r] | .ctlr _ x => some [.m x.j]
  | _ => none
/-- An instruction that writes registers only leaves everything but its destination registers: memory, every other register and context, the
special registers but for sticky bits of SSTAT, flags, queues, accumulators and commands (R83, R95, R96, R98). -/
def Obligations.RegisterFrame : Prop :=
  ∀ (i : Instr) (l : List Loc) (s t : State), Claims.dests i = some l → i.wf = true → s.opened.isSome = true → exec i s = .next t → Claims.Frame s.me l s t

/-- What an access changes at its issue, with what has to act before it: memory, L2 and L1 lines, translations, marks, what owners asked of
the resources and what the meters count, the time from which its core issues, and of its context the accesses under way, the lines it has
written and the open segment. -/
structure Claims.AccessFrame (s t : State) : Prop where
  world : { t.toWorld with ctxs := s.ctxs, cores := s.cores, parts := s.parts, mem := s.mem, l2 := s.l2, tlb := s.tlb, poison := s.poison, traffic := s.traffic, fresh := s.fresh } = s.toWorld
  others : ∀ j, j ≠ s.me → t.ctx j = s.ctx j
  ctx : t.ctx s.me = { s.ctx s.me with accs := (t.ctx s.me).accs, seq := (t.ctx s.me).seq, seg := (t.ctx s.me).seg, narrow := (t.ctx s.me).narrow }
  cores : ∀ c, t.core c = { s.core c with l1 := (t.core c).l1, next := (t.core c).next }
  parts : ∀ p, t.part p = { s.part p with meters := (t.part p).meters }
/-- A byte that no older access of the context writes and no L2 line holds. -/
def Claims.Spared (s : State) (n : Nat) : Prop :=
  (∀ b ∈ (s.ctx s.me).accs, b.isLoad = true ∨ b.kind = .done ∨ n < b.key ∨ b.key + b.n ≤ n) ∧
  (∀ g ∈ (s.ctx s.me).seg, ∀ b ∈ g.buf, n < b.key ∨ b.key + b.n ≤ n) ∧ ∀ l ∈ s.l2, n / 64 ≠ l.key
/-- Every such byte outside n bytes from a key reads as before. -/
def Claims.Outside (s : State) (m m' : Memory) (key n : Nat) : Prop := ∀ a, Claims.Spared s a → (a < key ∨ key + n ≤ a) → m'.get a = m.get a
/-- Every such byte outside the words of the active lanes reads as before; with `own`, outside their own words. -/
def Claims.OutsideLanes (s t : State) (g : Guard) (addr : Nat → Nat) (own : Bool) : Prop :=
  ∀ a, Claims.Spared s a → (∀ i ∈ Claims.active g s, ∀ key, s.padKey s.me (addr i % 2 ^ 32) = some key →
    own = false ∨ key / spaceSize = padSpace (coreOf s.me) → a < key ∨ key + 4 ≤ a) → t.mem.get a = s.mem.get a
/-- Accesses: beside the accessed and dirty bits of its leaf, a load changes no byte, a store or atomic only its own bytes, each at the
address that its meaning computes; what older accesses of the context write when they have to act first, and what the L2 holds, is left out
byte by byte (R83, R151, R154, R178-R182, R191, R291, R303). None changes a register at once. -/
def Obligations.AccessFrame : Prop :=
  (∀ (s u : State) (k a key : Nat) (m : AccMode) (uc : Bool), s.mem.wf = true → s.locate k a m = .ok key uc u →
    u = { s with mem := u.mem, tlb := u.tlb, l2 := u.l2, fresh := u.fresh } ∧ (∀ l ∈ u.l2, l ∈ s.l2) ∧ u.mem.wf = true ∧ (a < 0x1000000 → u = s) ∧
    (0x1000000 ≤ a → ∃ pk, ((∃ x ∈ s.tlb, x.pteKey = pk ∧ x.base ≤ a ∧ a < x.base + x.size) ∨
      ∃ e base size, walkFrom s.mem a levels (s.part (s.ctx k).part).root = .leaf e pk base size) ∧
      ∀ n, (∀ l ∈ s.l2, n / 64 ≠ l.key) → (n < pk ∨ pk + 8 ≤ n) → u.mem.get n = s.mem.get n)) ∧
  (∀ (x : SMem) (s t : State) (a b : Nat), s.opened.isSome = true → s.mem.wf = true → s.rdS x.a = .ok a → s.rdS x.b = .ok b →
    let A := (a + b) % 2 ^ 64
    (exec (.ld x) s = .next t ∨ exec (.lds x) s = .next t → Claims.AccessFrame s t ∧
      (t.mem = s.mem ∨ ∃ key uc u, s.locate s.me A .read = .ok key uc u ∧ Claims.Outside s u.mem t.mem key 0)) ∧
    (exec (.st x) s = .next t → Claims.AccessFrame s t ∧
      (t.mem = s.mem ∨ ∃ key uc u, s.locate s.me A .write = .ok key uc u ∧ Claims.Outside s u.mem t.mem key (2 ^ x.z.val)))) ∧
  (∀ e ∈ Claims.atomics, ∀ (x : SAlu) (s t : State) (a : Nat), s.opened.isSome = true → s.mem.wf = true → s.rdS x.a = .ok a →
    exec (e.1 x) s = .next t → Claims.AccessFrame s t ∧
      (t.mem = s.mem ∨ ∃ key uc u, s.locate s.me a .write = .ok key uc u ∧ Claims.Outside s u.mem t.mem key (wBits x.w / 8))) ∧
  (∀ e ∈ Claims.places, ∀ (u : VUnit) (x : VRR) (s t : State) (a b : Nat), s.opened.isSome = true → s.mem.wf = true → s.rdV u x.a = .ok a → s.rdV u x.b = .ok b →
    (exec (e.1 u x) s = .next t → Claims.AccessFrame s t ∧ Claims.Outside s s.mem t.mem 0 0) ∧
    (exec (e.2.1 u x) s = .next t → Claims.AccessFrame s t ∧ Claims.OutsideLanes s t x.g (fun i => (e.2.2 a b i).toNat) true)) ∧
  (∀ (u : VUnit) (x : VTbl) (s t : State), s.opened.isSome = true → s.mem.wf = true → exec (.vtbl u x) s = .next t → Claims.AccessFrame s t ∧
    Claims.Outside s s.mem t.mem 0 0) ∧
  (∀ (u : VUnit) (g : Guard) (d : Dst) (p q : Src) (ty : VType) (s t : State) (a : Nat), s.opened.isSome = true → s.mem.wf = true →
    s.rdV u p = .ok a → (exec (.vaadd u ⟨g, d, p, q, ty⟩) s = .next t ∨ exec (.vafadd u ⟨g, d, p, q⟩) s = .next t) →
    Claims.AccessFrame s t ∧ Claims.OutsideLanes s t g (lane a) false) ∧
  (∀ (x : XMem) (s t : State) (a b : Nat), s.opened.isSome = true → s.mem.wf = true → s.rdV .b x.a = .ok a → s.rdV .b x.b = .ok b →
    let A := (Claims.b32 (lane a 0) + Claims.b32 (lane b 0)).toNat
    (exec (.xld x) s = .next t → Claims.AccessFrame s t ∧ Claims.Outside s s.mem t.mem 0 0) ∧
    (exec (.xst x) s = .next t → Claims.AccessFrame s t ∧ ∀ n, Claims.Spared s n →
      (∀ j, j < 256 → ∀ key, s.padKey s.me (A + 4 * j) = some key → key / spaceSize = padSpace (coreOf s.me) → n < key ∨ key + 4 ≤ n) →
      t.mem.get n = s.mem.get n))

/-- The instructions of the flow slot that touch nothing but flow registers, flags, messages and what the bundle's end is to bring. -/
def Claims.flowForm (i : Instr) : Bool :=
  match i with
  | .nopF => true | .prep _ => true | .prepm _ => true | .bt _ => true | .j _ => true | .call _ => true | .ret _ => true | .setlc _ => true
  | .spl _ => true | .wait _ => true | .post _ => true | .postr _ => true | .tlw _ => true | .bbset _ => true | .bbwait _ => true | .ridge _ => true
  | .seg _ => true | .rdv _ => true | .trap _ => true | .rtt _ => true | .endF _ => true | .yield _ => true | .clkdiv _ => true | .send _ => true
  | .getmF _ => true | .sleep _ => true | .brk _ => true | _ => false
/-- Such an instruction leaves memory, data registers, special registers but CLKDIV's bit of SSTAT, queues, commands, accesses, results in
flight and every other context. -/
def Claims.FlowPlain : Prop :=
  ∀ (i : Instr) (s t : State), Claims.flowForm i = true → s.opened.isSome = true → exec i s = .next t →
    let c := s.ctx s.me
    let d := t.ctx s.me
    d.regs.dat = c.regs.dat ∧ d.regs.sys = { c.regs.sys with sstat := d.regs.sys.sstat } ∧ ((∀ x, i ≠ .clkdiv x) → d.regs.sys = c.regs.sys) ∧
      d.q = c.q ∧ d.cmds = c.cmds ∧ d.accs = c.accs ∧ d.flights = c.flights ∧ d.seg = c.seg ∧ d.status = c.status ∧ d.wz = c.wz ∧
      t.mem = s.mem ∧ (∀ j, j ≠ s.me → t.ctx j = s.ctx j) ∧ t.parts = s.parts ∧ t.cores = s.cores ∧ t.now = s.now ∧
      ((∀ x, i ≠ .wait x) → (∀ x, i ≠ .post x) → (∀ x, i ≠ .getmF x) → d.f = c.f) ∧ ((∀ x, i ≠ .postr x) → (∀ x, i ≠ .send x) → t.msgs = s.msgs) ∧
      ((∀ x, i ≠ .bbset x) → (∀ x, i ≠ .getmF x) → d.regs.flow.bb = c.regs.flow.bb) ∧
      ((∀ x, i ≠ .prep x) → (∀ x, i ≠ .prepm x) → (∀ x, i ≠ .getmF x) → d.regs.flow.w = c.regs.flow.w) ∧
      ((∀ x, i ≠ .call x) → (∀ x, i ≠ .getmF x) → d.regs.flow.lk = c.regs.flow.lk) ∧
      ((∀ x, i ≠ .setlc x) → (∀ x, i ≠ .getmF x) → d.regs.flow.lc = c.regs.flow.lc) ∧ d.regs.flow.pc = c.regs.flow.pc
/-- The registers that EPI and the instructions of the flow slot with a predicate result write. -/
def Claims.flowDests (i : Instr) : Option (List Loc) :=
  match i with
  | .epi x => some [.m x.j, .p x.n] | .wdog x => some [.p x.n] | .hbeat x => some [.p x.n] | .capq x => some [.p x.n] | .pitchq x => some [.p x.n]
  | _ => none
/-- They leave all else: EPI writes a loop counter and the epilogue record too, WDOG clears its record. -/
def Claims.FlowWrites : Prop :=
  ∀ (i : Instr) (l : List Loc) (s t : State), Claims.flowDests i = some l → s.opened.isSome = true → exec i s = .next t →
    let c := s.ctx s.me
    let d := t.ctx s.me
    { t.toWorld with ctxs := s.ctxs } = s.toWorld ∧ (∀ j, j ≠ s.me → t.ctx j = s.ctx j) ∧ d = { c with regs := d.regs, wdSeen := d.wdSeen } ∧
      ((∀ x, i ≠ .wdog x) → d.wdSeen = c.wdSeen) ∧ d.regs.sys = c.regs.sys ∧ Claims.sameOther c.regs.dat d.regs.dat ∧
      (∀ r, r ∉ l → d.regs.dat.get r = c.regs.dat.get r) ∧ ((∀ x, i ≠ .epi x) → d.regs.flow = c.regs.flow) ∧
      (∀ x, i = .epi x → d.regs.flow = { c.regs.flow with lc := d.regs.flow.lc, epi := d.regs.flow.epi } ∧ ∀ n, n ≠ x.k → d.regs.flow.lc[n] = c.regs.flow.lc[n])
/-- LOOP changes the levels of its context, and by fetching the body the instruction cache of its core, translations, and the accessed bits of
the leaves that it fetches through (R116, R291, R314). -/
def Claims.LoopFrame : Prop :=
  ∀ (x : FLoop) (s t : State), s.opened.isSome = true → s.mem.wf = true → exec (.loop x) s = .next t →
    { t.toWorld with ctxs := s.ctxs, cores := s.cores, mem := s.mem, l2 := s.l2, tlb := s.tlb, fresh := s.fresh } = s.toWorld ∧
      (∀ j, j ≠ s.me → t.ctx j = s.ctx j) ∧ (t.ctx s.me).modFlow (fun f => { f with loops := (s.ctx s.me).regs.flow.loops }) = s.ctx s.me ∧
      (∀ q, t.core q = { s.core q with icache := (t.core q).icache }) ∧
      ∀ n, (∀ l ∈ s.l2, n / 64 ≠ l.key) → t.mem.get n = s.mem.get n ∨ t.mem.get n = s.mem.get n ||| 0x40
/-- DRAIN and DRAIN.E bring lines home and change nothing else; of a scope below package nothing at all (R131, R299). -/
def Claims.DrainFrame : Prop :=
  ∀ (x : FScope) (s t : State), s.opened.isSome = true → s.mem.wf = true → (exec (.drain x) s = .next t ∨ exec (.drainE x) s = .next t) →
    { t.toWorld with ctxs := s.ctxs, mem := s.mem, l2 := s.l2 } = s.toWorld ∧ (∀ j, j ≠ s.me → t.ctx j = s.ctx j) ∧
      t.ctx s.me = { s.ctx s.me with narrow := (t.ctx s.me).narrow } ∧ (∀ n, (∀ l ∈ s.l2, n / 64 ≠ l.key) → t.mem.get n = s.mem.get n) ∧
      (x.s.val < 3 → t.mem = s.mem ∧ t.ctx s.me = s.ctx s.me)
/-- LAUNCH: of its own context only flags change, with its older accesses done; no context that is not Free, no other node, and no byte beside
the status word, the banks that it hands over and the accessed and dirty bits of a leaf (R134). -/
def Claims.LaunchFrame : Prop :=
  ∀ (x : FFlagM) (s t : State), s.opened.isSome = true → s.mem.wf = true → exec (.launch x) s = .next t →
    let c := s.ctx s.me
    let d := t.ctx s.me
    d = { c with accs := d.accs, narrow := d.narrow, f := d.f, posts := d.posts } ∧ (∀ n, n ≠ x.n → d.f[n] = c.f[n]) ∧
      (∀ j, j ≠ s.me → (s.ctx j).status ≠ .free → t.ctx j = s.ctx j) ∧ (∀ n, n ≠ s.nextNode → t.node n = s.node n) ∧
      (∀ p, t.part p = { s.part p with meters := (t.part p).meters }) ∧ t.msgs = s.msgs ∧ t.ops = s.ops ∧ t.units = s.units ∧ t.now = s.now ∧
      ∀ n, Claims.Spared s n → isPad n = false →
        (∀ a h key uc u, s.rdM x.j = .ok a → s.forForm.readVirtR s.me (a % 2 ^ 64) 64 3 = .ok h →
          s.forForm.locate s.me (le h 0x10 8 / 8 * 8) .write = .ok key uc u → n < key ∨ key + 8 ≤ n) →
        t.mem.get n = s.mem.get n ∨ t.mem.get n = s.mem.get n ||| 0xC0
/-- R83, R109-R138: what the instructions of the flow slot leave unchanged. -/
def Obligations.FlowFrame : Prop := Claims.FlowPlain ∧ Claims.FlowWrites ∧ Claims.LoopFrame ∧ Claims.DrainFrame ∧ Claims.LaunchFrame

end
end

