-- ==== Sys2Proof/Laws/Memory.lean ====
section
/-!
SUPPORT. Laws/Memory.lean: the canonical form of memory is kept by every operation on it, and a byte reads as it was last written.
-/
namespace Sys2Proof.Machine

/-- Every listed key is above a key. -/
def Memory.above (a : Nat) (m : Memory) : Prop := ∀ c ∈ m, a < c.1

theorem Memory.wf_cons (k : Nat) (b : Byte) (r : Memory) :
    Memory.wf ((k, b) :: r) = true ↔ b ≠ 0 ∧ Memory.above k r ∧ Memory.wf r = true := by
  induction r generalizing k b with
  | nil => simp [Memory.wf, Memory.above]
  | cons x r ih =>
    obtain ⟨j, c⟩ := x
    have h := ih j c
    simp only [Memory.wf, Bool.and_eq_true, bne_iff_ne, ne_eq, decide_eq_true_eq, Memory.above, List.mem_cons, forall_eq_or_imp] at h ⊢
    constructor
    · rintro ⟨⟨hb, hk⟩, hr⟩
      have := (h.mp hr).2.1
      exact ⟨hb, ⟨hk, fun c hc => Nat.lt_trans hk (this c hc)⟩, hr⟩
    · rintro ⟨hb, ⟨hk, -⟩, hr⟩
      exact ⟨⟨hb, hk⟩, hr⟩
theorem Memory.get_above (m : Memory) (a : Nat) (h : Memory.above a m) : m.get a = 0 := by
  cases m with
  | nil => rfl
  | cons x r =>
    obtain ⟨k, b⟩ := x
    have hk : a < k := h (k, b) (List.mem_cons_self ..)
    simp [Memory.get, hk, Nat.ne_of_gt hk]
theorem Memory.above_put (m : Memory) (a j : Nat) (v : Byte) (h : Memory.above j m) (hj : j < a) : Memory.above j (m.put a v) := by
  induction m with
  | nil => unfold Memory.put; split <;> simp [Memory.above, hj]
  | cons x r ih =>
    obtain ⟨k, b⟩ := x
    have hk : j < k := h (k, b) (List.mem_cons_self ..)
    have hr : Memory.above j r := fun c hc => h c (List.mem_cons_of_mem _ hc)
    unfold Memory.put
    split_ifs
    · exact h
    · intro c hc; rcases List.mem_cons.mp hc with rfl | hc
      · exact hj
      · exact h c hc
    · exact hr
    · intro c hc; rcases List.mem_cons.mp hc with rfl | hc
      · exact hj
      · exact hr c hc
    · intro c hc; rcases List.mem_cons.mp hc with rfl | hc
      · exact hk
      · exact ih hr c hc
theorem Memory.wf_put (m : Memory) (a : Nat) (v : Byte) (h : m.wf = true) : (m.put a v).wf = true := by
  induction m with
  | nil =>
    unfold Memory.put
    split
    · rfl
    · exact (Memory.wf_cons ..).mpr ⟨‹_›, (fun c hc => nomatch hc), rfl⟩
  | cons x r ih =>
    obtain ⟨k, b⟩ := x
    obtain ⟨hb, ha, hr⟩ := (Memory.wf_cons k b r).mp h
    unfold Memory.put
    split_ifs with h1 h2 h3 h4
    · exact h
    · exact (Memory.wf_cons ..).mpr ⟨h2, fun c hc => by
        rcases List.mem_cons.mp hc with rfl | hc
        · exact h1
        · exact Nat.lt_trans h1 (ha c hc), h⟩
    · exact hr
    · exact (Memory.wf_cons ..).mpr ⟨h4, h3 ▸ ha, hr⟩
    · exact (Memory.wf_cons ..).mpr ⟨hb, Memory.above_put r a k v ha (by omega), ih hr⟩
/-- A byte just written reads as it was written. -/
theorem Memory.get_put_same (m : Memory) (a : Nat) (v : Byte) (h : m.wf = true) : (m.put a v).get a = v := by
  induction m with
  | nil => unfold Memory.put; split <;> simp [Memory.get, *]
  | cons x r ih =>
    obtain ⟨k, b⟩ := x
    obtain ⟨hb, ha, hr⟩ := (Memory.wf_cons k b r).mp h
    unfold Memory.put
    split_ifs with h1 h2 h3 h4
    · simp [Memory.get, h1, Nat.ne_of_gt h1, h2]
    · simp [Memory.get]
    · subst h3; rw [Memory.get_above r a ha, h4]
    · simp [Memory.get]
    · simp only [Memory.get, if_neg (Ne.symm h3), if_neg h1, ih hr]
/-- A write leaves every other byte. -/
theorem Memory.get_put_ne (m : Memory) (a c : Nat) (v : Byte) (h : m.wf = true) (hc : c ≠ a) : (m.put a v).get c = m.get c := by
  induction m with
  | nil => unfold Memory.put; split <;> simp [Memory.get, hc.symm]
  | cons x r ih =>
    obtain ⟨k, b⟩ := x
    obtain ⟨hb, ha, hr⟩ := (Memory.wf_cons k b r).mp h
    unfold Memory.put
    split_ifs with h1 h2 h3 h4
    · rfl
    · simp only [Memory.get, if_neg hc.symm]
      by_cases hac : c < a
      · simp [hac, show ¬k = c by omega, show c < k by omega]
      · simp [hac]
    · subst h3
      simp only [Memory.get, if_neg hc.symm]
      by_cases hac : c < a
      · simp only [hac, if_true]
        exact Memory.get_above r c fun d hd => Nat.lt_trans hac (ha d hd)
      · simp [hac]
    · subst h3; simp [Memory.get, hc.symm]
    · simp only [Memory.get, ih hr]
theorem Memory.wf_putN (m : Memory) (a n v : Nat) (h : m.wf = true) : (m.putN a n v).wf = true := by
  induction n generalizing m a v with
  | zero => exact h
  | succ n ih => exact ih _ _ _ (Memory.wf_put _ _ _ h)
theorem Memory.wf_filter (m : Memory) (p : Host.Cell → Bool) (h : m.wf = true) : Memory.wf (List.filter p m) = true := by
  induction m with
  | nil => rfl
  | cons x r ih =>
    obtain ⟨k, b⟩ := x
    obtain ⟨hb, ha, hr⟩ := (Memory.wf_cons k b r).mp h
    by_cases hp : p (k, b)
    · rw [List.filter_cons_of_pos hp]
      exact (Memory.wf_cons ..).mpr ⟨hb, fun c hc => ha c (List.mem_filter.mp hc).1, ih hr⟩
    · rw [List.filter_cons_of_neg hp]
      exact ih hr
theorem Memory.wf_zeroRange (m : Memory) (a n : Nat) (h : m.wf = true) : (zeroRange m a n).wf = true := Memory.wf_filter _ _ h

/-! The same of the state. -/
/-- The memory of the state is canonical. -/
def State.Canon (s : State) : Prop := s.mem.wf = true
theorem State.canon_putN (s : State) (a n v : Nat) (h : s.Canon) : (s.putN a n v).Canon := Memory.wf_putN _ _ _ _ h
theorem State.canon_putBytes (s : State) (a : Nat) (l : List Byte) (h : s.Canon) : (s.putBytes a l).Canon := Memory.wf_putN _ _ _ _ h
theorem State.canon_zero (s : State) (a n : Nat) (h : s.Canon) : (s.zero a n).Canon := Memory.wf_zeroRange _ _ _ h
/-- A fold of steps that keep a property keeps it. -/
theorem foldl_keeps {α β : Type} (P : β → Prop) (f : β → α → β) (l : List α) (b : β) (h : P b) (step : ∀ b a, P b → P (f b a)) :
    P (l.foldl f b) := by
  induction l generalizing b with
  | nil => exact h
  | cons a l ih => exact ih _ (step b a h)
theorem State.canon_writeBack (s : State) (l : L2Line) (h : s.Canon) : (s.writeBack l).Canon :=
  foldl_keeps State.Canon _ _ _ h fun b i hb => by
    show State.Canon (if _ then _ else _)
    split
    · exact Memory.wf_put _ _ _ hb
    · exact hb
theorem State.canon_dropLines (s : State) (f : L2Line → Bool) (h : s.Canon) : (s.dropLines f).Canon :=
  foldl_keeps State.Canon State.writeBack _ s h fun b l hb => State.canon_writeBack b l hb
/-- Only the memory counts. -/
theorem State.canon_of_mem {s t : State} (h : s.Canon) (e : t.mem = s.mem) : t.Canon := by unfold State.Canon; rw [e]; exact h
theorem State.canon_placeLine (s : State) (plain part line : Nat) (data : BitVec 512) (h : s.Canon) :
    (s.placeLine plain part line data).Canon := by
  unfold State.placeLine
  split
  · exact h
  · dsimp only
    split
    · exact h
    · exact h
    · exact State.canon_dropLines _ _ h
theorem State.canon_fillLine (s : State) (plain part key : Nat) (h : s.Canon) : (s.fillLine plain part key).Canon := by
  unfold State.fillLine
  split
  · exact h
  · exact State.canon_placeLine _ _ _ _ _ h
theorem State.canon_touchHome (s : State) (plain part scope : Nat) (uc : Bool) (key n : Nat) (h : s.Canon) :
    (s.touchHome plain part scope uc key n).Canon := by
  unfold State.touchHome
  split
  · refine foldl_keeps State.Canon _ _ _ h fun b l hb => ?_
    split
    · exact hb
    · exact State.canon_placeLine _ _ _ _ _ hb
  · exact h
theorem State.mem_noteNarrow (s : State) (k scope : Nat) (uc : Bool) (key n : Nat) (cmd : Bool) :
    (s.noteNarrow k scope uc key n cmd).mem = s.mem := by unfold State.noteNarrow; split <;> rfl
theorem State.canon_noteNarrow (s : State) (k scope : Nat) (uc : Bool) (key n : Nat) (cmd : Bool) (h : s.Canon) :
    (s.noteNarrow k scope uc key n cmd).Canon := State.canon_of_mem h (State.mem_noteNarrow ..)
theorem State.canon_modCore (s : State) (c : Nat) (f : Core → Core) (h : s.Canon) : (s.modCore c f).Canon := h
theorem State.canon_clearPoison (s : State) (key n : Nat) (h : s.Canon) : (s.clearPoison key n).Canon := h
theorem State.canon_flushStores (s : State) (k : Nat) (cmds : Bool) (h : s.Canon) : (s.flushStores k cmds).Canon :=
  State.canon_of_mem (foldl_keeps State.Canon _ _ _ h fun b _ hb => State.canon_dropLines b _ hb) rfl
theorem State.canon_writeByteAt (s : State) (plain part scope key : Nat) (uc : Bool) (v : Byte) (h : s.Canon) :
    (s.writeByteAt plain part scope key uc v).Canon := by
  unfold State.writeByteAt
  split
  · exact h
  · apply Memory.wf_put
    split
    · exact State.canon_dropLines _ _ h
    · exact h
theorem State.canon_writeAt (s : State) (plain part scope : Nat) (uc : Bool) (key n v : Nat) (h : s.Canon) :
    (s.writeAt plain part scope uc key n v).Canon := by
  induction n generalizing s key v with
  | zero => exact h
  | succ n ih => exact ih _ _ _ (State.canon_writeByteAt _ _ _ _ _ _ _ h)
theorem State.mem_meterBytes (s : State) (plain part key n : Nat) : (s.meterBytes plain part key n).mem = s.mem := by
  unfold State.meterBytes
  dsimp only
  split
  · rfl
  · split <;> rfl
theorem State.mem_askOne (s : State) (plain k res n : Nat) : (s.askOne plain k res n).mem = s.mem := by
  unfold State.askOne
  dsimp only
  split
  · rfl
  · split <;> rfl
theorem State.mem_ask (s : State) (k plain part sc : Nat) (uc : Bool) (key n : Nat) : (s.ask k plain part sc uc key n).mem = s.mem := by
  unfold State.ask
  split
  · rfl
  · refine foldl_keeps (fun t : State => t.mem = s.mem) _ _ s rfl fun t l ht => ?_
    dsimp only
    split
    · split
      · exact (State.mem_askOne ..).trans ht
      · exact (State.mem_askOne ..).trans ((State.mem_askOne ..).trans ht)
    · split
      · exact (State.mem_askOne ..).trans ht
      · split
        · simp only [State.mem_askOne, ht]
        · simp only [State.mem_askOne, ht]
theorem State.mem_askFor (s : State) (k : Nat) (a : Access) : (s.askFor k a).mem = s.mem := by
  have h : ∀ held : Bool, (if held then s.meterBytes (plainOf (coreOf k)) a.part a.key a.n
      else (s.meterBytes (plainOf (coreOf k)) a.part a.key a.n).ask k (plainOf (coreOf k)) a.part a.scope a.uc a.key a.n).mem = s.mem := fun held => by
    cases held
    · exact (State.mem_ask ..).trans (State.mem_meterBytes ..)
    · exact State.mem_meterBytes ..
  exact h _
theorem State.canon_fillNarrow (s : State) (exact : Bool) (plain part sc : Nat) (uc : Bool) (key n : Nat) (h : s.Canon) :
    (s.fillNarrow exact plain part sc uc key n).Canon := by
  unfold State.fillNarrow
  split
  · exact h
  · exact foldl_keeps State.Canon _ _ _ h fun b _ hb => State.canon_fillLine b _ _ _ hb
theorem State.mem_fillL1 (s : State) (core part key : Nat) : (s.fillL1 core part key).mem = s.mem := rfl
theorem State.canon_loadValue (s : State) (core : Nat) (exact : Bool) (a : Access) (h : s.Canon) : (s.loadValue core exact a).2.Canon := by
  unfold State.loadValue
  dsimp only
  generalize (if exact = true then max 3 a.scope else a.scope) = sc
  have ht : ∀ n, (s.touchHome (plainOf core) a.part sc a.uc a.key n).Canon := fun n => State.canon_touchHome _ _ _ _ _ _ _ h
  split
  · exact h
  · dsimp only
    split
    · exact State.canon_of_mem (ht _) rfl
    · exact ht _
/-- What an access does keeps memory canonical. -/
theorem State.canon_act (s : State) (k : Nat) (a : Access) (h : s.Canon) : (s.act k a).2.Canon := by
  have h0 : (s.askFor k a).Canon := State.canon_of_mem h (State.mem_askFor ..)
  unfold State.act
  dsimp only
  split
  · exact h
  · exact State.canon_loadValue _ _ _ _ h0
  · exact State.canon_loadValue _ _ _ _ h0
  · exact State.canon_noteNarrow _ _ _ _ _ _ _ (State.canon_touchHome _ _ _ _ _ _ _ (State.canon_clearPoison _ _ _
      (State.canon_writeAt _ _ _ _ _ _ _ _ (State.canon_modCore _ _ _ (State.canon_fillNarrow _ _ _ _ _ _ _ _ h0)))))
  · exact State.canon_noteNarrow _ _ _ _ _ _ _ (State.canon_touchHome _ _ _ _ _ _ _
      (State.canon_writeAt _ _ _ _ _ _ _ _ (State.canon_modCore _ _ _ (State.canon_fillNarrow _ _ _ _ _ _ _ _ h0))))
/-- Performing an access keeps memory canonical. -/
theorem State.canon_perform (s : State) (k : Nat) (a : Access) (h : s.Canon) : (s.perform k a).Canon := by
  unfold State.perform
  dsimp only
  split
  · exact State.canon_act s k a h
  · split
    · exact State.canon_act s k a h
    · exact State.canon_of_mem (State.canon_act s k a h) rfl
theorem State.canon_settle (s : State) (k q : Nat) (h : s.Canon) : (s.settle k q).Canon := by
  unfold State.settle
  split
  · exact h
  · exact State.canon_of_mem (State.canon_act s k _ h) rfl
theorem State.canon_settleFor (s : State) (k : Nat) (older : List Access) (a : Access) (h : s.Canon) : (s.settleFor k older a).Canon :=
  foldl_keeps State.Canon _ _ _ h fun b q hb => State.canon_settle b k q hb
theorem State.canon_settleAll (s : State) (k : Nat) (h : s.Canon) : (s.settleAll k).Canon :=
  foldl_keeps State.Canon _ _ _ h fun b a hb => State.canon_settle b k a.seq hb
theorem State.canon_performIdx (s : State) (k i : Nat) (h : s.Canon) : (s.performIdx k i).Canon := by
  unfold State.performIdx
  split
  · exact h
  · exact State.canon_perform _ _ _ (State.canon_of_mem (State.canon_settleFor _ _ _ _ h) rfl)
theorem State.canon_performAll (s : State) (k : Nat) (h : s.Canon) : (s.performAll k).Canon :=
  foldl_keeps State.Canon _ _ _ h fun b _ hb => State.canon_performIdx b k 0 hb
theorem State.canon_performLoads (s : State) (k : Nat) (h : s.Canon) : (s.performLoads k).Canon :=
  foldl_keeps State.Canon _ _ _ h fun b _ hb => by
    split
    · exact State.canon_performIdx b k _ hb
    · exact hb
theorem State.mem_putTlb (s : State) (t : Tlb) (cap : Nat) : (s.putTlb t cap).mem = s.mem := by
  unfold State.putTlb
  dsimp only
  split <;> rfl
/-- The use of a leaf sets its accessed and dirty bits; translation keeps memory canonical. -/
theorem State.canon_useLeaf (s t : State) (core part va e pk base size key : Nat) (m : AccMode) (uc : Bool) (h : s.Canon)
    (r : s.useLeaf core part va e pk base size m = .ok key uc t) : t.Canon := by
  unfold State.useLeaf at r
  dsimp only at r
  split at r
  · cases r
  split at r
  · cases r
  split at r
  · cases r
  · split at r
    · injection r with _ _ r
      subst r
      exact h
    · injection r with _ _ r
      subst r
      have hb : ∀ bits, State.Canon (if e &&& bits = bits then s else (s.toHome (pk / 64)).modMem fun m => m.putN pk 8 (m.getN pk 8 ||| bits)) := fun bits => by
        split
        · exact h
        · exact Memory.wf_putN _ _ _ _ (State.canon_dropLines s _ h)
      exact foldl_keeps State.Canon _ _ _ (hb _) fun b c hb => State.canon_of_mem hb (State.mem_putTlb ..)
theorem State.canon_translate (s t : State) (core part va key : Nat) (m : AccMode) (uc : Bool) (h : s.Canon)
    (r : s.translate core part va m = .ok key uc t) : t.Canon := by
  unfold State.translate at r
  split at r
  · exact State.canon_useLeaf _ _ _ _ _ _ _ _ _ _ _ _ h r
  · split at r
    · exact State.canon_useLeaf _ _ _ _ _ _ _ _ _ _ _ _ h r
    · split at r <;> cases r
    · cases r
/-- Where an access goes: locating it keeps memory canonical. -/
theorem State.canon_locate (s t : State) (k a key : Nat) (m : AccMode) (uc : Bool) (h : s.Canon)
    (r : s.locate k a m = .ok key uc t) : t.Canon := by
  unfold State.locate at r
  split at r
  · split at r
    · cases r; exact h
    · cases r
  · split at r
    · exact State.canon_translate _ _ _ _ _ _ _ _ h r
    · cases r

end Sys2Proof.Machine
end

