-- ==== Sys2Proof/Laws/State.lean ====
section
/-!
SUPPORT. Laws/State.lean: what each update of the state leaves, field by field, and what a table reads after a write.
-/
namespace Sys2Proof.Machine

/-! Tables. -/
@[simp] theorem Tbl.find_put_same {α : Type} (t : Tbl α) (k : Nat) (v : α) : Tbl.find (Tbl.put t k v) k = some v := by
  induction t with
  | nil => simp [Tbl.put, Tbl.find]
  | cons x r ih =>
    obtain ⟨j, u⟩ := x
    unfold Tbl.put
    split
    · simp [Tbl.find]
    · split
      · simp [Tbl.find]
      · rename_i h
        simp only [Tbl.find, if_neg (fun e : j = k => h e.symm), ih]
theorem Tbl.find_put_ne {α : Type} (t : Tbl α) (k j : Nat) (v : α) (h : j ≠ k) : Tbl.find (Tbl.put t k v) j = Tbl.find t j := by
  induction t with
  | nil => simp [Tbl.put, Tbl.find, h.symm]
  | cons x r ih =>
    obtain ⟨i, u⟩ := x
    unfold Tbl.put
    split
    · simp [Tbl.find, h.symm]
    · split
      · rename_i e; subst e; simp [Tbl.find, h.symm]
      · simp [Tbl.find, ih]
@[simp] theorem Tbl.getD_put_same {α : Type} (t : Tbl α) (k : Nat) (v d : α) : Tbl.getD (Tbl.put t k v) k d = v := by
  simp [Tbl.getD]
theorem Tbl.getD_put_ne {α : Type} (t : Tbl α) (k j : Nat) (v d : α) (h : j ≠ k) :
    Tbl.getD (Tbl.put t k v) j d = Tbl.getD t j d := by simp [Tbl.getD, Tbl.find_put_ne t k j v h]
@[simp] theorem vget_vset_same {α : Type} {n : Nat} (v : Vector α n) (i : Nat) (x d : α) (h : i < n) : vget (vset v i x) i d = x := by
  simp [vget, vset, h]
theorem vget_vset_ne {α : Type} {n : Nat} (v : Vector α n) (i j : Nat) (x d : α) (h : i ≠ j) : vget (vset v i x) j d = vget v j d := by
  unfold vget vset; split <;> [split <;> [simp [h]; rfl]; rfl]

/-! Updates of the state. -/
@[simp] theorem State.setCtx_now (s : State) (k : Nat) (c : Ctx) : (s.setCtx k c).now = s.now := rfl
@[simp] theorem State.setCtx_before (s : State) (k : Nat) (c : Ctx) : (s.setCtx k c).before = s.before := rfl
@[simp] theorem State.setCtx_product (s : State) (k : Nat) (c : Ctx) : (s.setCtx k c).product = s.product := rfl
@[simp] theorem State.setCtx_mem (s : State) (k : Nat) (c : Ctx) : (s.setCtx k c).mem = s.mem := rfl
@[simp] theorem State.setCtx_poison (s : State) (k : Nat) (c : Ctx) : (s.setCtx k c).poison = s.poison := rfl
@[simp] theorem State.setCtx_cores (s : State) (k : Nat) (c : Ctx) : (s.setCtx k c).cores = s.cores := rfl
@[simp] theorem State.setCtx_parts (s : State) (k : Nat) (c : Ctx) : (s.setCtx k c).parts = s.parts := rfl
@[simp] theorem State.setCtx_nodes (s : State) (k : Nat) (c : Ctx) : (s.setCtx k c).nodes = s.nodes := rfl
@[simp] theorem State.setCtx_units (s : State) (k : Nat) (c : Ctx) : (s.setCtx k c).units = s.units := rfl
@[simp] theorem State.setCtx_l2 (s : State) (k : Nat) (c : Ctx) : (s.setCtx k c).l2 = s.l2 := rfl
@[simp] theorem State.setCtx_tlb (s : State) (k : Nat) (c : Ctx) : (s.setCtx k c).tlb = s.tlb := rfl
@[simp] theorem State.setCtx_dying (s : State) (k : Nat) (c : Ctx) : (s.setCtx k c).dying = s.dying := rfl
@[simp] theorem State.setCtx_msgs (s : State) (k : Nat) (c : Ctx) : (s.setCtx k c).msgs = s.msgs := rfl
@[simp] theorem State.setCtx_wires (s : State) (k : Nat) (c : Ctx) : (s.setCtx k c).wires = s.wires := rfl
@[simp] theorem State.setCtx_rates (s : State) (k : Nat) (c : Ctx) : (s.setCtx k c).rates = s.rates := rfl
@[simp] theorem State.setCtx_reds (s : State) (k : Nat) (c : Ctx) : (s.setCtx k c).reds = s.reds := rfl
@[simp] theorem State.setCtx_colls (s : State) (k : Nat) (c : Ctx) : (s.setCtx k c).colls = s.colls := rfl
@[simp] theorem State.setCtx_ops (s : State) (k : Nat) (c : Ctx) : (s.setCtx k c).ops = s.ops := rfl
@[simp] theorem State.setCtx_plains (s : State) (k : Nat) (c : Ctx) : (s.setCtx k c).plains = s.plains := rfl
@[simp] theorem State.setCtx_traffic (s : State) (k : Nat) (c : Ctx) : (s.setCtx k c).traffic = s.traffic := rfl
@[simp] theorem State.setCtx_flash (s : State) (k : Nat) (c : Ctx) : (s.setCtx k c).flash = s.flash := rfl
@[simp] theorem State.setCtx_meas (s : State) (k : Nat) (c : Ctx) : (s.setCtx k c).meas = s.meas := rfl
@[simp] theorem State.setCtx_power (s : State) (k : Nat) (c : Ctx) : (s.setCtx k c).power = s.power := rfl
@[simp] theorem State.setCtx_hbmStacks (s : State) (k : Nat) (c : Ctx) : (s.setCtx k c).hbmStacks = s.hbmStacks := rfl
@[simp] theorem State.setCtx_dies (s : State) (k : Nat) (c : Ctx) : (s.setCtx k c).dies = s.dies := rfl
@[simp] theorem State.setCtx_boot (s : State) (k : Nat) (c : Ctx) : (s.setCtx k c).boot = s.boot := rfl
@[simp] theorem State.setCtx_fabric (s : State) (k : Nat) (c : Ctx) : (s.setCtx k c).fabric = s.fabric := rfl
@[simp] theorem State.setCtx_ports (s : State) (k : Nat) (c : Ctx) : (s.setCtx k c).ports = s.ports := rfl
@[simp] theorem State.setCtx_links (s : State) (k : Nat) (c : Ctx) : (s.setCtx k c).links = s.links := rfl
@[simp] theorem State.setCtx_answers (s : State) (k : Nat) (c : Ctx) : (s.setCtx k c).answers = s.answers := rfl
@[simp] theorem State.setCtx_nextNode (s : State) (k : Nat) (c : Ctx) : (s.setCtx k c).nextNode = s.nextNode := rfl
@[simp] theorem State.setCtx_stash (s : State) (k : Nat) (c : Ctx) : (s.setCtx k c).stash = s.stash := rfl
@[simp] theorem State.setCtx_fresh (s : State) (k : Nat) (c : Ctx) : (s.setCtx k c).fresh = s.fresh := rfl
@[simp] theorem State.setCtx_hours (s : State) (k : Nat) (c : Ctx) : (s.setCtx k c).hours = s.hours := rfl
@[simp] theorem State.setCtx_cur (s : State) (k : Nat) (c : Ctx) : (s.setCtx k c).cur = s.cur := rfl
@[simp] theorem State.setCtx_opened (s : State) (k : Nat) (c : Ctx) : (s.setCtx k c).opened = s.opened := rfl
@[simp] theorem State.setCtx_agenda (s : State) (k : Nat) (c : Ctx) : (s.setCtx k c).agenda = s.agenda := rfl
@[simp] theorem State.setCtx_core (s : State) (k : Nat) (c : Ctx) (j : Nat) : (s.setCtx k c).core j = s.core j := rfl
@[simp] theorem State.setCtx_part (s : State) (k : Nat) (c : Ctx) (j : Nat) : (s.setCtx k c).part j = s.part j := rfl
@[simp] theorem State.setCtx_node (s : State) (k : Nat) (c : Ctx) (j : Nat) : (s.setCtx k c).node j = s.node j := rfl
@[simp] theorem State.setCtx_unit (s : State) (k : Nat) (c : Ctx) (j : Nat) : (s.setCtx k c).unit j = s.unit j := rfl
@[simp] theorem State.modCtx_now (s : State) (k : Nat) (g : Ctx → Ctx) : (s.modCtx k g).now = s.now := rfl
@[simp] theorem State.modCtx_before (s : State) (k : Nat) (g : Ctx → Ctx) : (s.modCtx k g).before = s.before := rfl
@[simp] theorem State.modCtx_product (s : State) (k : Nat) (g : Ctx → Ctx) : (s.modCtx k g).product = s.product := rfl
@[simp] theorem State.modCtx_mem (s : State) (k : Nat) (g : Ctx → Ctx) : (s.modCtx k g).mem = s.mem := rfl
@[simp] theorem State.modCtx_poison (s : State) (k : Nat) (g : Ctx → Ctx) : (s.modCtx k g).poison = s.poison := rfl
@[simp] theorem State.modCtx_cores (s : State) (k : Nat) (g : Ctx → Ctx) : (s.modCtx k g).cores = s.cores := rfl
@[simp] theorem State.modCtx_parts (s : State) (k : Nat) (g : Ctx → Ctx) : (s.modCtx k g).parts = s.parts := rfl
@[simp] theorem State.modCtx_nodes (s : State) (k : Nat) (g : Ctx → Ctx) : (s.modCtx k g).nodes = s.nodes := rfl
@[simp] theorem State.modCtx_units (s : State) (k : Nat) (g : Ctx → Ctx) : (s.modCtx k g).units = s.units := rfl
@[simp] theorem State.modCtx_l2 (s : State) (k : Nat) (g : Ctx → Ctx) : (s.modCtx k g).l2 = s.l2 := rfl
@[simp] theorem State.modCtx_tlb (s : State) (k : Nat) (g : Ctx → Ctx) : (s.modCtx k g).tlb = s.tlb := rfl
@[simp] theorem State.modCtx_dying (s : State) (k : Nat) (g : Ctx → Ctx) : (s.modCtx k g).dying = s.dying := rfl
@[simp] theorem State.modCtx_msgs (s : State) (k : Nat) (g : Ctx → Ctx) : (s.modCtx k g).msgs = s.msgs := rfl
@[simp] theorem State.modCtx_wires (s : State) (k : Nat) (g : Ctx → Ctx) : (s.modCtx k g).wires = s.wires := rfl
@[simp] theorem State.modCtx_rates (s : State) (k : Nat) (g : Ctx → Ctx) : (s.modCtx k g).rates = s.rates := rfl
@[simp] theorem State.modCtx_reds (s : State) (k : Nat) (g : Ctx → Ctx) : (s.modCtx k g).reds = s.reds := rfl
@[simp] theorem State.modCtx_colls (s : State) (k : Nat) (g : Ctx → Ctx) : (s.modCtx k g).colls = s.colls := rfl
@[simp] theorem State.modCtx_ops (s : State) (k : Nat) (g : Ctx → Ctx) : (s.modCtx k g).ops = s.ops := rfl
@[simp] theorem State.modCtx_plains (s : State) (k : Nat) (g : Ctx → Ctx) : (s.modCtx k g).plains = s.plains := rfl
@[simp] theorem State.modCtx_traffic (s : State) (k : Nat) (g : Ctx → Ctx) : (s.modCtx k g).traffic = s.traffic := rfl
@[simp] theorem State.modCtx_flash (s : State) (k : Nat) (g : Ctx → Ctx) : (s.modCtx k g).flash = s.flash := rfl
@[simp] theorem State.modCtx_meas (s : State) (k : Nat) (g : Ctx → Ctx) : (s.modCtx k g).meas = s.meas := rfl
@[simp] theorem State.modCtx_power (s : State) (k : Nat) (g : Ctx → Ctx) : (s.modCtx k g).power = s.power := rfl
@[simp] theorem State.modCtx_hbmStacks (s : State) (k : Nat) (g : Ctx → Ctx) : (s.modCtx k g).hbmStacks = s.hbmStacks := rfl
@[simp] theorem State.modCtx_dies (s : State) (k : Nat) (g : Ctx → Ctx) : (s.modCtx k g).dies = s.dies := rfl
@[simp] theorem State.modCtx_boot (s : State) (k : Nat) (g : Ctx → Ctx) : (s.modCtx k g).boot = s.boot := rfl
@[simp] theorem State.modCtx_fabric (s : State) (k : Nat) (g : Ctx → Ctx) : (s.modCtx k g).fabric = s.fabric := rfl
@[simp] theorem State.modCtx_ports (s : State) (k : Nat) (g : Ctx → Ctx) : (s.modCtx k g).ports = s.ports := rfl
@[simp] theorem State.modCtx_links (s : State) (k : Nat) (g : Ctx → Ctx) : (s.modCtx k g).links = s.links := rfl
@[simp] theorem State.modCtx_answers (s : State) (k : Nat) (g : Ctx → Ctx) : (s.modCtx k g).answers = s.answers := rfl
@[simp] theorem State.modCtx_nextNode (s : State) (k : Nat) (g : Ctx → Ctx) : (s.modCtx k g).nextNode = s.nextNode := rfl
@[simp] theorem State.modCtx_stash (s : State) (k : Nat) (g : Ctx → Ctx) : (s.modCtx k g).stash = s.stash := rfl
@[simp] theorem State.modCtx_fresh (s : State) (k : Nat) (g : Ctx → Ctx) : (s.modCtx k g).fresh = s.fresh := rfl
@[simp] theorem State.modCtx_hours (s : State) (k : Nat) (g : Ctx → Ctx) : (s.modCtx k g).hours = s.hours := rfl
@[simp] theorem State.modCtx_cur (s : State) (k : Nat) (g : Ctx → Ctx) : (s.modCtx k g).cur = s.cur := rfl
@[simp] theorem State.modCtx_opened (s : State) (k : Nat) (g : Ctx → Ctx) : (s.modCtx k g).opened = s.opened := rfl
@[simp] theorem State.modCtx_agenda (s : State) (k : Nat) (g : Ctx → Ctx) : (s.modCtx k g).agenda = s.agenda := rfl
@[simp] theorem State.modCtx_core (s : State) (k : Nat) (g : Ctx → Ctx) (j : Nat) : (s.modCtx k g).core j = s.core j := rfl
@[simp] theorem State.modCtx_part (s : State) (k : Nat) (g : Ctx → Ctx) (j : Nat) : (s.modCtx k g).part j = s.part j := rfl
@[simp] theorem State.modCtx_node (s : State) (k : Nat) (g : Ctx → Ctx) (j : Nat) : (s.modCtx k g).node j = s.node j := rfl
@[simp] theorem State.modCtx_unit (s : State) (k : Nat) (g : Ctx → Ctx) (j : Nat) : (s.modCtx k g).unit j = s.unit j := rfl
@[simp] theorem State.setCore_now (s : State) (k : Nat) (c : Core) : (s.setCore k c).now = s.now := rfl
@[simp] theorem State.setCore_before (s : State) (k : Nat) (c : Core) : (s.setCore k c).before = s.before := rfl
@[simp] theorem State.setCore_product (s : State) (k : Nat) (c : Core) : (s.setCore k c).product = s.product := rfl
@[simp] theorem State.setCore_mem (s : State) (k : Nat) (c : Core) : (s.setCore k c).mem = s.mem := rfl
@[simp] theorem State.setCore_poison (s : State) (k : Nat) (c : Core) : (s.setCore k c).poison = s.poison := rfl
@[simp] theorem State.setCore_ctxs (s : State) (k : Nat) (c : Core) : (s.setCore k c).ctxs = s.ctxs := rfl
@[simp] theorem State.setCore_parts (s : State) (k : Nat) (c : Core) : (s.setCore k c).parts = s.parts := rfl
@[simp] theorem State.setCore_nodes (s : State) (k : Nat) (c : Core) : (s.setCore k c).nodes = s.nodes := rfl
@[simp] theorem State.setCore_units (s : State) (k : Nat) (c : Core) : (s.setCore k c).units = s.units := rfl
@[simp] theorem State.setCore_l2 (s : State) (k : Nat) (c : Core) : (s.setCore k c).l2 = s.l2 := rfl
@[simp] theorem State.setCore_tlb (s : State) (k : Nat) (c : Core) : (s.setCore k c).tlb = s.tlb := rfl
@[simp] theorem State.setCore_dying (s : State) (k : Nat) (c : Core) : (s.setCore k c).dying = s.dying := rfl
@[simp] theorem State.setCore_msgs (s : State) (k : Nat) (c : Core) : (s.setCore k c).msgs = s.msgs := rfl
@[simp] theorem State.setCore_wires (s : State) (k : Nat) (c : Core) : (s.setCore k c).wires = s.wires := rfl
@[simp] theorem State.setCore_rates (s : State) (k : Nat) (c : Core) : (s.setCore k c).rates = s.rates := rfl
@[simp] theorem State.setCore_reds (s : State) (k : Nat) (c : Core) : (s.setCore k c).reds = s.reds := rfl
@[simp] theorem State.setCore_colls (s : State) (k : Nat) (c : Core) : (s.setCore k c).colls = s.colls := rfl
@[simp] theorem State.setCore_ops (s : State) (k : Nat) (c : Core) : (s.setCore k c).ops = s.ops := rfl
@[simp] theorem State.setCore_plains (s : State) (k : Nat) (c : Core) : (s.setCore k c).plains = s.plains := rfl
@[simp] theorem State.setCore_traffic (s : State) (k : Nat) (c : Core) : (s.setCore k c).traffic = s.traffic := rfl
@[simp] theorem State.setCore_flash (s : State) (k : Nat) (c : Core) : (s.setCore k c).flash = s.flash := rfl
@[simp] theorem State.setCore_meas (s : State) (k : Nat) (c : Core) : (s.setCore k c).meas = s.meas := rfl
@[simp] theorem State.setCore_power (s : State) (k : Nat) (c : Core) : (s.setCore k c).power = s.power := rfl
@[simp] theorem State.setCore_hbmStacks (s : State) (k : Nat) (c : Core) : (s.setCore k c).hbmStacks = s.hbmStacks := rfl
@[simp] theorem State.setCore_dies (s : State) (k : Nat) (c : Core) : (s.setCore k c).dies = s.dies := rfl
@[simp] theorem State.setCore_boot (s : State) (k : Nat) (c : Core) : (s.setCore k c).boot = s.boot := rfl
@[simp] theorem State.setCore_fabric (s : State) (k : Nat) (c : Core) : (s.setCore k c).fabric = s.fabric := rfl
@[simp] theorem State.setCore_ports (s : State) (k : Nat) (c : Core) : (s.setCore k c).ports = s.ports := rfl
@[simp] theorem State.setCore_links (s : State) (k : Nat) (c : Core) : (s.setCore k c).links = s.links := rfl
@[simp] theorem State.setCore_answers (s : State) (k : Nat) (c : Core) : (s.setCore k c).answers = s.answers := rfl
@[simp] theorem State.setCore_nextNode (s : State) (k : Nat) (c : Core) : (s.setCore k c).nextNode = s.nextNode := rfl
@[simp] theorem State.setCore_stash (s : State) (k : Nat) (c : Core) : (s.setCore k c).stash = s.stash := rfl
@[simp] theorem State.setCore_fresh (s : State) (k : Nat) (c : Core) : (s.setCore k c).fresh = s.fresh := rfl
@[simp] theorem State.setCore_hours (s : State) (k : Nat) (c : Core) : (s.setCore k c).hours = s.hours := rfl
@[simp] theorem State.setCore_cur (s : State) (k : Nat) (c : Core) : (s.setCore k c).cur = s.cur := rfl
@[simp] theorem State.setCore_opened (s : State) (k : Nat) (c : Core) : (s.setCore k c).opened = s.opened := rfl
@[simp] theorem State.setCore_agenda (s : State) (k : Nat) (c : Core) : (s.setCore k c).agenda = s.agenda := rfl
@[simp] theorem State.setCore_ctx (s : State) (k : Nat) (c : Core) (j : Nat) : (s.setCore k c).ctx j = s.ctx j := rfl
@[simp] theorem State.setCore_part (s : State) (k : Nat) (c : Core) (j : Nat) : (s.setCore k c).part j = s.part j := rfl
@[simp] theorem State.setCore_node (s : State) (k : Nat) (c : Core) (j : Nat) : (s.setCore k c).node j = s.node j := rfl
@[simp] theorem State.setCore_unit (s : State) (k : Nat) (c : Core) (j : Nat) : (s.setCore k c).unit j = s.unit j := rfl
@[simp] theorem State.modCore_now (s : State) (k : Nat) (g : Core → Core) : (s.modCore k g).now = s.now := rfl
@[simp] theorem State.modCore_before (s : State) (k : Nat) (g : Core → Core) : (s.modCore k g).before = s.before := rfl
@[simp] theorem State.modCore_product (s : State) (k : Nat) (g : Core → Core) : (s.modCore k g).product = s.product := rfl
@[simp] theorem State.modCore_mem (s : State) (k : Nat) (g : Core → Core) : (s.modCore k g).mem = s.mem := rfl
@[simp] theorem State.modCore_poison (s : State) (k : Nat) (g : Core → Core) : (s.modCore k g).poison = s.poison := rfl
@[simp] theorem State.modCore_ctxs (s : State) (k : Nat) (g : Core → Core) : (s.modCore k g).ctxs = s.ctxs := rfl
@[simp] theorem State.modCore_parts (s : State) (k : Nat) (g : Core → Core) : (s.modCore k g).parts = s.parts := rfl
@[simp] theorem State.modCore_nodes (s : State) (k : Nat) (g : Core → Core) : (s.modCore k g).nodes = s.nodes := rfl
@[simp] theorem State.modCore_units (s : State) (k : Nat) (g : Core → Core) : (s.modCore k g).units = s.units := rfl
@[simp] theorem State.modCore_l2 (s : State) (k : Nat) (g : Core → Core) : (s.modCore k g).l2 = s.l2 := rfl
@[simp] theorem State.modCore_tlb (s : State) (k : Nat) (g : Core → Core) : (s.modCore k g).tlb = s.tlb := rfl
@[simp] theorem State.modCore_dying (s : State) (k : Nat) (g : Core → Core) : (s.modCore k g).dying = s.dying := rfl
@[simp] theorem State.modCore_msgs (s : State) (k : Nat) (g : Core → Core) : (s.modCore k g).msgs = s.msgs := rfl
@[simp] theorem State.modCore_wires (s : State) (k : Nat) (g : Core → Core) : (s.modCore k g).wires = s.wires := rfl
@[simp] theorem State.modCore_rates (s : State) (k : Nat) (g : Core → Core) : (s.modCore k g).rates = s.rates := rfl
@[simp] theorem State.modCore_reds (s : State) (k : Nat) (g : Core → Core) : (s.modCore k g).reds = s.reds := rfl
@[simp] theorem State.modCore_colls (s : State) (k : Nat) (g : Core → Core) : (s.modCore k g).colls = s.colls := rfl
@[simp] theorem State.modCore_ops (s : State) (k : Nat) (g : Core → Core) : (s.modCore k g).ops = s.ops := rfl
@[simp] theorem State.modCore_plains (s : State) (k : Nat) (g : Core → Core) : (s.modCore k g).plains = s.plains := rfl
@[simp] theorem State.modCore_traffic (s : State) (k : Nat) (g : Core → Core) : (s.modCore k g).traffic = s.traffic := rfl
@[simp] theorem State.modCore_flash (s : State) (k : Nat) (g : Core → Core) : (s.modCore k g).flash = s.flash := rfl
@[simp] theorem State.modCore_meas (s : State) (k : Nat) (g : Core → Core) : (s.modCore k g).meas = s.meas := rfl
@[simp] theorem State.modCore_power (s : State) (k : Nat) (g : Core → Core) : (s.modCore k g).power = s.power := rfl
@[simp] theorem State.modCore_hbmStacks (s : State) (k : Nat) (g : Core → Core) : (s.modCore k g).hbmStacks = s.hbmStacks := rfl
@[simp] theorem State.modCore_dies (s : State) (k : Nat) (g : Core → Core) : (s.modCore k g).dies = s.dies := rfl
@[simp] theorem State.modCore_boot (s : State) (k : Nat) (g : Core → Core) : (s.modCore k g).boot = s.boot := rfl
@[simp] theorem State.modCore_fabric (s : State) (k : Nat) (g : Core → Core) : (s.modCore k g).fabric = s.fabric := rfl
@[simp] theorem State.modCore_ports (s : State) (k : Nat) (g : Core → Core) : (s.modCore k g).ports = s.ports := rfl
@[simp] theorem State.modCore_links (s : State) (k : Nat) (g : Core → Core) : (s.modCore k g).links = s.links := rfl
@[simp] theorem State.modCore_answers (s : State) (k : Nat) (g : Core → Core) : (s.modCore k g).answers = s.answers := rfl
@[simp] theorem State.modCore_nextNode (s : State) (k : Nat) (g : Core → Core) : (s.modCore k g).nextNode = s.nextNode := rfl
@[simp] theorem State.modCore_stash (s : State) (k : Nat) (g : Core → Core) : (s.modCore k g).stash = s.stash := rfl
@[simp] theorem State.modCore_fresh (s : State) (k : Nat) (g : Core → Core) : (s.modCore k g).fresh = s.fresh := rfl
@[simp] theorem State.modCore_hours (s : State) (k : Nat) (g : Core → Core) : (s.modCore k g).hours = s.hours := rfl
@[simp] theorem State.modCore_cur (s : State) (k : Nat) (g : Core → Core) : (s.modCore k g).cur = s.cur := rfl
@[simp] theorem State.modCore_opened (s : State) (k : Nat) (g : Core → Core) : (s.modCore k g).opened = s.opened := rfl
@[simp] theorem State.modCore_agenda (s : State) (k : Nat) (g : Core → Core) : (s.modCore k g).agenda = s.agenda := rfl
@[simp] theorem State.modCore_ctx (s : State) (k : Nat) (g : Core → Core) (j : Nat) : (s.modCore k g).ctx j = s.ctx j := rfl
@[simp] theorem State.modCore_part (s : State) (k : Nat) (g : Core → Core) (j : Nat) : (s.modCore k g).part j = s.part j := rfl
@[simp] theorem State.modCore_node (s : State) (k : Nat) (g : Core → Core) (j : Nat) : (s.modCore k g).node j = s.node j := rfl
@[simp] theorem State.modCore_unit (s : State) (k : Nat) (g : Core → Core) (j : Nat) : (s.modCore k g).unit j = s.unit j := rfl
@[simp] theorem State.setPart_now (s : State) (k : Nat) (c : Part) : (s.setPart k c).now = s.now := rfl
@[simp] theorem State.setPart_before (s : State) (k : Nat) (c : Part) : (s.setPart k c).before = s.before := rfl
@[simp] theorem State.setPart_product (s : State) (k : Nat) (c : Part) : (s.setPart k c).product = s.product := rfl
@[simp] theorem State.setPart_mem (s : State) (k : Nat) (c : Part) : (s.setPart k c).mem = s.mem := rfl
@[simp] theorem State.setPart_poison (s : State) (k : Nat) (c : Part) : (s.setPart k c).poison = s.poison := rfl
@[simp] theorem State.setPart_ctxs (s : State) (k : Nat) (c : Part) : (s.setPart k c).ctxs = s.ctxs := rfl
@[simp] theorem State.setPart_cores (s : State) (k : Nat) (c : Part) : (s.setPart k c).cores = s.cores := rfl
@[simp] theorem State.setPart_nodes (s : State) (k : Nat) (c : Part) : (s.setPart k c).nodes = s.nodes := rfl
@[simp] theorem State.setPart_units (s : State) (k : Nat) (c : Part) : (s.setPart k c).units = s.units := rfl
@[simp] theorem State.setPart_l2 (s : State) (k : Nat) (c : Part) : (s.setPart k c).l2 = s.l2 := rfl
@[simp] theorem State.setPart_tlb (s : State) (k : Nat) (c : Part) : (s.setPart k c).tlb = s.tlb := rfl
@[simp] theorem State.setPart_dying (s : State) (k : Nat) (c : Part) : (s.setPart k c).dying = s.dying := rfl
@[simp] theorem State.setPart_msgs (s : State) (k : Nat) (c : Part) : (s.setPart k c).msgs = s.msgs := rfl
@[simp] theorem State.setPart_wires (s : State) (k : Nat) (c : Part) : (s.setPart k c).wires = s.wires := rfl
@[simp] theorem State.setPart_rates (s : State) (k : Nat) (c : Part) : (s.setPart k c).rates = s.rates := rfl
@[simp] theorem State.setPart_reds (s : State) (k : Nat) (c : Part) : (s.setPart k c).reds = s.reds := rfl
@[simp] theorem State.setPart_colls (s : State) (k : Nat) (c : Part) : (s.setPart k c).colls = s.colls := rfl
@[simp] theorem State.setPart_ops (s : State) (k : Nat) (c : Part) : (s.setPart k c).ops = s.ops := rfl
@[simp] theorem State.setPart_plains (s : State) (k : Nat) (c : Part) : (s.setPart k c).plains = s.plains := rfl
@[simp] theorem State.setPart_traffic (s : State) (k : Nat) (c : Part) : (s.setPart k c).traffic = s.traffic := rfl
@[simp] theorem State.setPart_flash (s : State) (k : Nat) (c : Part) : (s.setPart k c).flash = s.flash := rfl
@[simp] theorem State.setPart_meas (s : State) (k : Nat) (c : Part) : (s.setPart k c).meas = s.meas := rfl
@[simp] theorem State.setPart_power (s : State) (k : Nat) (c : Part) : (s.setPart k c).power = s.power := rfl
@[simp] theorem State.setPart_hbmStacks (s : State) (k : Nat) (c : Part) : (s.setPart k c).hbmStacks = s.hbmStacks := rfl
@[simp] theorem State.setPart_dies (s : State) (k : Nat) (c : Part) : (s.setPart k c).dies = s.dies := rfl
@[simp] theorem State.setPart_boot (s : State) (k : Nat) (c : Part) : (s.setPart k c).boot = s.boot := rfl
@[simp] theorem State.setPart_fabric (s : State) (k : Nat) (c : Part) : (s.setPart k c).fabric = s.fabric := rfl
@[simp] theorem State.setPart_ports (s : State) (k : Nat) (c : Part) : (s.setPart k c).ports = s.ports := rfl
@[simp] theorem State.setPart_links (s : State) (k : Nat) (c : Part) : (s.setPart k c).links = s.links := rfl
@[simp] theorem State.setPart_answers (s : State) (k : Nat) (c : Part) : (s.setPart k c).answers = s.answers := rfl
@[simp] theorem State.setPart_nextNode (s : State) (k : Nat) (c : Part) : (s.setPart k c).nextNode = s.nextNode := rfl
@[simp] theorem State.setPart_stash (s : State) (k : Nat) (c : Part) : (s.setPart k c).stash = s.stash := rfl
@[simp] theorem State.setPart_fresh (s : State) (k : Nat) (c : Part) : (s.setPart k c).fresh = s.fresh := rfl
@[simp] theorem State.setPart_hours (s : State) (k : Nat) (c : Part) : (s.setPart k c).hours = s.hours := rfl
@[simp] theorem State.setPart_cur (s : State) (k : Nat) (c : Part) : (s.setPart k c).cur = s.cur := rfl
@[simp] theorem State.setPart_opened (s : State) (k : Nat) (c : Part) : (s.setPart k c).opened = s.opened := rfl
@[simp] theorem State.setPart_agenda (s : State) (k : Nat) (c : Part) : (s.setPart k c).agenda = s.agenda := rfl
@[simp] theorem State.setPart_ctx (s : State) (k : Nat) (c : Part) (j : Nat) : (s.setPart k c).ctx j = s.ctx j := rfl
@[simp] theorem State.setPart_core (s : State) (k : Nat) (c : Part) (j : Nat) : (s.setPart k c).core j = s.core j := rfl
@[simp] theorem State.setPart_node (s : State) (k : Nat) (c : Part) (j : Nat) : (s.setPart k c).node j = s.node j := rfl
@[simp] theorem State.setPart_unit (s : State) (k : Nat) (c : Part) (j : Nat) : (s.setPart k c).unit j = s.unit j := rfl
@[simp] theorem State.modPart_now (s : State) (k : Nat) (g : Part → Part) : (s.modPart k g).now = s.now := rfl
@[simp] theorem State.modPart_before (s : State) (k : Nat) (g : Part → Part) : (s.modPart k g).before = s.before := rfl
@[simp] theorem State.modPart_product (s : State) (k : Nat) (g : Part → Part) : (s.modPart k g).product = s.product := rfl
@[simp] theorem State.modPart_mem (s : State) (k : Nat) (g : Part → Part) : (s.modPart k g).mem = s.mem := rfl
@[simp] theorem State.modPart_poison (s : State) (k : Nat) (g : Part → Part) : (s.modPart k g).poison = s.poison := rfl
@[simp] theorem State.modPart_ctxs (s : State) (k : Nat) (g : Part → Part) : (s.modPart k g).ctxs = s.ctxs := rfl
@[simp] theorem State.modPart_cores (s : State) (k : Nat) (g : Part → Part) : (s.modPart k g).cores = s.cores := rfl
@[simp] theorem State.modPart_nodes (s : State) (k : Nat) (g : Part → Part) : (s.modPart k g).nodes = s.nodes := rfl
@[simp] theorem State.modPart_units (s : State) (k : Nat) (g : Part → Part) : (s.modPart k g).units = s.units := rfl
@[simp] theorem State.modPart_l2 (s : State) (k : Nat) (g : Part → Part) : (s.modPart k g).l2 = s.l2 := rfl
@[simp] theorem State.modPart_tlb (s : State) (k : Nat) (g : Part → Part) : (s.modPart k g).tlb = s.tlb := rfl
@[simp] theorem State.modPart_dying (s : State) (k : Nat) (g : Part → Part) : (s.modPart k g).dying = s.dying := rfl
@[simp] theorem State.modPart_msgs (s : State) (k : Nat) (g : Part → Part) : (s.modPart k g).msgs = s.msgs := rfl
@[simp] theorem State.modPart_wires (s : State) (k : Nat) (g : Part → Part) : (s.modPart k g).wires = s.wires := rfl
@[simp] theorem State.modPart_rates (s : State) (k : Nat) (g : Part → Part) : (s.modPart k g).rates = s.rates := rfl
@[simp] theorem State.modPart_reds (s : State) (k : Nat) (g : Part → Part) : (s.modPart k g).reds = s.reds := rfl
@[simp] theorem State.modPart_colls (s : State) (k : Nat) (g : Part → Part) : (s.modPart k g).colls = s.colls := rfl
@[simp] theorem State.modPart_ops (s : State) (k : Nat) (g : Part → Part) : (s.modPart k g).ops = s.ops := rfl
@[simp] theorem State.modPart_plains (s : State) (k : Nat) (g : Part → Part) : (s.modPart k g).plains = s.plains := rfl
@[simp] theorem State.modPart_traffic (s : State) (k : Nat) (g : Part → Part) : (s.modPart k g).traffic = s.traffic := rfl
@[simp] theorem State.modPart_flash (s : State) (k : Nat) (g : Part → Part) : (s.modPart k g).flash = s.flash := rfl
@[simp] theorem State.modPart_meas (s : State) (k : Nat) (g : Part → Part) : (s.modPart k g).meas = s.meas := rfl
@[simp] theorem State.modPart_power (s : State) (k : Nat) (g : Part → Part) : (s.modPart k g).power = s.power := rfl
@[simp] theorem State.modPart_hbmStacks (s : State) (k : Nat) (g : Part → Part) : (s.modPart k g).hbmStacks = s.hbmStacks := rfl
@[simp] theorem State.modPart_dies (s : State) (k : Nat) (g : Part → Part) : (s.modPart k g).dies = s.dies := rfl
@[simp] theorem State.modPart_boot (s : State) (k : Nat) (g : Part → Part) : (s.modPart k g).boot = s.boot := rfl
@[simp] theorem State.modPart_fabric (s : State) (k : Nat) (g : Part → Part) : (s.modPart k g).fabric = s.fabric := rfl
@[simp] theorem State.modPart_ports (s : State) (k : Nat) (g : Part → Part) : (s.modPart k g).ports = s.ports := rfl
@[simp] theorem State.modPart_links (s : State) (k : Nat) (g : Part → Part) : (s.modPart k g).links = s.links := rfl
@[simp] theorem State.modPart_answers (s : State) (k : Nat) (g : Part → Part) : (s.modPart k g).answers = s.answers := rfl
@[simp] theorem State.modPart_nextNode (s : State) (k : Nat) (g : Part → Part) : (s.modPart k g).nextNode = s.nextNode := rfl
@[simp] theorem State.modPart_stash (s : State) (k : Nat) (g : Part → Part) : (s.modPart k g).stash = s.stash := rfl
@[simp] theorem State.modPart_fresh (s : State) (k : Nat) (g : Part → Part) : (s.modPart k g).fresh = s.fresh := rfl
@[simp] theorem State.modPart_hours (s : State) (k : Nat) (g : Part → Part) : (s.modPart k g).hours = s.hours := rfl
@[simp] theorem State.modPart_cur (s : State) (k : Nat) (g : Part → Part) : (s.modPart k g).cur = s.cur := rfl
@[simp] theorem State.modPart_opened (s : State) (k : Nat) (g : Part → Part) : (s.modPart k g).opened = s.opened := rfl
@[simp] theorem State.modPart_agenda (s : State) (k : Nat) (g : Part → Part) : (s.modPart k g).agenda = s.agenda := rfl
@[simp] theorem State.modPart_ctx (s : State) (k : Nat) (g : Part → Part) (j : Nat) : (s.modPart k g).ctx j = s.ctx j := rfl
@[simp] theorem State.modPart_core (s : State) (k : Nat) (g : Part → Part) (j : Nat) : (s.modPart k g).core j = s.core j := rfl
@[simp] theorem State.modPart_node (s : State) (k : Nat) (g : Part → Part) (j : Nat) : (s.modPart k g).node j = s.node j := rfl
@[simp] theorem State.modPart_unit (s : State) (k : Nat) (g : Part → Part) (j : Nat) : (s.modPart k g).unit j = s.unit j := rfl
@[simp] theorem State.setNode_now (s : State) (k : Nat) (c : Node) : (s.setNode k c).now = s.now := rfl
@[simp] theorem State.setNode_before (s : State) (k : Nat) (c : Node) : (s.setNode k c).before = s.before := rfl
@[simp] theorem State.setNode_product (s : State) (k : Nat) (c : Node) : (s.setNode k c).product = s.product := rfl
@[simp] theorem State.setNode_mem (s : State) (k : Nat) (c : Node) : (s.setNode k c).mem = s.mem := rfl
@[simp] theorem State.setNode_poison (s : State) (k : Nat) (c : Node) : (s.setNode k c).poison = s.poison := rfl
@[simp] theorem State.setNode_ctxs (s : State) (k : Nat) (c : Node) : (s.setNode k c).ctxs = s.ctxs := rfl
@[simp] theorem State.setNode_cores (s : State) (k : Nat) (c : Node) : (s.setNode k c).cores = s.cores := rfl
@[simp] theorem State.setNode_parts (s : State) (k : Nat) (c : Node) : (s.setNode k c).parts = s.parts := rfl
@[simp] theorem State.setNode_units (s : State) (k : Nat) (c : Node) : (s.setNode k c).units = s.units := rfl
@[simp] theorem State.setNode_l2 (s : State) (k : Nat) (c : Node) : (s.setNode k c).l2 = s.l2 := rfl
@[simp] theorem State.setNode_tlb (s : State) (k : Nat) (c : Node) : (s.setNode k c).tlb = s.tlb := rfl
@[simp] theorem State.setNode_dying (s : State) (k : Nat) (c : Node) : (s.setNode k c).dying = s.dying := rfl
@[simp] theorem State.setNode_msgs (s : State) (k : Nat) (c : Node) : (s.setNode k c).msgs = s.msgs := rfl
@[simp] theorem State.setNode_wires (s : State) (k : Nat) (c : Node) : (s.setNode k c).wires = s.wires := rfl
@[simp] theorem State.setNode_rates (s : State) (k : Nat) (c : Node) : (s.setNode k c).rates = s.rates := rfl
@[simp] theorem State.setNode_reds (s : State) (k : Nat) (c : Node) : (s.setNode k c).reds = s.reds := rfl
@[simp] theorem State.setNode_colls (s : State) (k : Nat) (c : Node) : (s.setNode k c).colls = s.colls := rfl
@[simp] theorem State.setNode_ops (s : State) (k : Nat) (c : Node) : (s.setNode k c).ops = s.ops := rfl
@[simp] theorem State.setNode_plains (s : State) (k : Nat) (c : Node) : (s.setNode k c).plains = s.plains := rfl
@[simp] theorem State.setNode_traffic (s : State) (k : Nat) (c : Node) : (s.setNode k c).traffic = s.traffic := rfl
@[simp] theorem State.setNode_flash (s : State) (k : Nat) (c : Node) : (s.setNode k c).flash = s.flash := rfl
@[simp] theorem State.setNode_meas (s : State) (k : Nat) (c : Node) : (s.setNode k c).meas = s.meas := rfl
@[simp] theorem State.setNode_power (s : State) (k : Nat) (c : Node) : (s.setNode k c).power = s.power := rfl
@[simp] theorem State.setNode_hbmStacks (s : State) (k : Nat) (c : Node) : (s.setNode k c).hbmStacks = s.hbmStacks := rfl
@[simp] theorem State.setNode_dies (s : State) (k : Nat) (c : Node) : (s.setNode k c).dies = s.dies := rfl
@[simp] theorem State.setNode_boot (s : State) (k : Nat) (c : Node) : (s.setNode k c).boot = s.boot := rfl
@[simp] theorem State.setNode_fabric (s : State) (k : Nat) (c : Node) : (s.setNode k c).fabric = s.fabric := rfl
@[simp] theorem State.setNode_ports (s : State) (k : Nat) (c : Node) : (s.setNode k c).ports = s.ports := rfl
@[simp] theorem State.setNode_links (s : State) (k : Nat) (c : Node) : (s.setNode k c).links = s.links := rfl
@[simp] theorem State.setNode_answers (s : State) (k : Nat) (c : Node) : (s.setNode k c).answers = s.answers := rfl
@[simp] theorem State.setNode_nextNode (s : State) (k : Nat) (c : Node) : (s.setNode k c).nextNode = s.nextNode := rfl
@[simp] theorem State.setNode_stash (s : State) (k : Nat) (c : Node) : (s.setNode k c).stash = s.stash := rfl
@[simp] theorem State.setNode_fresh (s : State) (k : Nat) (c : Node) : (s.setNode k c).fresh = s.fresh := rfl
@[simp] theorem State.setNode_hours (s : State) (k : Nat) (c : Node) : (s.setNode k c).hours = s.hours := rfl
@[simp] theorem State.setNode_cur (s : State) (k : Nat) (c : Node) : (s.setNode k c).cur = s.cur := rfl
@[simp] theorem State.setNode_opened (s : State) (k : Nat) (c : Node) : (s.setNode k c).opened = s.opened := rfl
@[simp] theorem State.setNode_agenda (s : State) (k : Nat) (c : Node) : (s.setNode k c).agenda = s.agenda := rfl
@[simp] theorem State.setNode_ctx (s : State) (k : Nat) (c : Node) (j : Nat) : (s.setNode k c).ctx j = s.ctx j := rfl
@[simp] theorem State.setNode_core (s : State) (k : Nat) (c : Node) (j : Nat) : (s.setNode k c).core j = s.core j := rfl
@[simp] theorem State.setNode_part (s : State) (k : Nat) (c : Node) (j : Nat) : (s.setNode k c).part j = s.part j := rfl
@[simp] theorem State.setNode_unit (s : State) (k : Nat) (c : Node) (j : Nat) : (s.setNode k c).unit j = s.unit j := rfl
@[simp] theorem State.modNode_now (s : State) (k : Nat) (g : Node → Node) : (s.modNode k g).now = s.now := rfl
@[simp] theorem State.modNode_before (s : State) (k : Nat) (g : Node → Node) : (s.modNode k g).before = s.before := rfl
@[simp] theorem State.modNode_product (s : State) (k : Nat) (g : Node → Node) : (s.modNode k g).product = s.product := rfl
@[simp] theorem State.modNode_mem (s : State) (k : Nat) (g : Node → Node) : (s.modNode k g).mem = s.mem := rfl
@[simp] theorem State.modNode_poison (s : State) (k : Nat) (g : Node → Node) : (s.modNode k g).poison = s.poison := rfl
@[simp] theorem State.modNode_ctxs (s : State) (k : Nat) (g : Node → Node) : (s.modNode k g).ctxs = s.ctxs := rfl
@[simp] theorem State.modNode_cores (s : State) (k : Nat) (g : Node → Node) : (s.modNode k g).cores = s.cores := rfl
@[simp] theorem State.modNode_parts (s : State) (k : Nat) (g : Node → Node) : (s.modNode k g).parts = s.parts := rfl
@[simp] theorem State.modNode_units (s : State) (k : Nat) (g : Node → Node) : (s.modNode k g).units = s.units := rfl
@[simp] theorem State.modNode_l2 (s : State) (k : Nat) (g : Node → Node) : (s.modNode k g).l2 = s.l2 := rfl
@[simp] theorem State.modNode_tlb (s : State) (k : Nat) (g : Node → Node) : (s.modNode k g).tlb = s.tlb := rfl
@[simp] theorem State.modNode_dying (s : State) (k : Nat) (g : Node → Node) : (s.modNode k g).dying = s.dying := rfl
@[simp] theorem State.modNode_msgs (s : State) (k : Nat) (g : Node → Node) : (s.modNode k g).msgs = s.msgs := rfl
@[simp] theorem State.modNode_wires (s : State) (k : Nat) (g : Node → Node) : (s.modNode k g).wires = s.wires := rfl
@[simp] theorem State.modNode_rates (s : State) (k : Nat) (g : Node → Node) : (s.modNode k g).rates = s.rates := rfl
@[simp] theorem State.modNode_reds (s : State) (k : Nat) (g : Node → Node) : (s.modNode k g).reds = s.reds := rfl
@[simp] theorem State.modNode_colls (s : State) (k : Nat) (g : Node → Node) : (s.modNode k g).colls = s.colls := rfl
@[simp] theorem State.modNode_ops (s : State) (k : Nat) (g : Node → Node) : (s.modNode k g).ops = s.ops := rfl
@[simp] theorem State.modNode_plains (s : State) (k : Nat) (g : Node → Node) : (s.modNode k g).plains = s.plains := rfl
@[simp] theorem State.modNode_traffic (s : State) (k : Nat) (g : Node → Node) : (s.modNode k g).traffic = s.traffic := rfl
@[simp] theorem State.modNode_flash (s : State) (k : Nat) (g : Node → Node) : (s.modNode k g).flash = s.flash := rfl
@[simp] theorem State.modNode_meas (s : State) (k : Nat) (g : Node → Node) : (s.modNode k g).meas = s.meas := rfl
@[simp] theorem State.modNode_power (s : State) (k : Nat) (g : Node → Node) : (s.modNode k g).power = s.power := rfl
@[simp] theorem State.modNode_hbmStacks (s : State) (k : Nat) (g : Node → Node) : (s.modNode k g).hbmStacks = s.hbmStacks := rfl
@[simp] theorem State.modNode_dies (s : State) (k : Nat) (g : Node → Node) : (s.modNode k g).dies = s.dies := rfl
@[simp] theorem State.modNode_boot (s : State) (k : Nat) (g : Node → Node) : (s.modNode k g).boot = s.boot := rfl
@[simp] theorem State.modNode_fabric (s : State) (k : Nat) (g : Node → Node) : (s.modNode k g).fabric = s.fabric := rfl
@[simp] theorem State.modNode_ports (s : State) (k : Nat) (g : Node → Node) : (s.modNode k g).ports = s.ports := rfl
@[simp] theorem State.modNode_links (s : State) (k : Nat) (g : Node → Node) : (s.modNode k g).links = s.links := rfl
@[simp] theorem State.modNode_answers (s : State) (k : Nat) (g : Node → Node) : (s.modNode k g).answers = s.answers := rfl
@[simp] theorem State.modNode_nextNode (s : State) (k : Nat) (g : Node → Node) : (s.modNode k g).nextNode = s.nextNode := rfl
@[simp] theorem State.modNode_stash (s : State) (k : Nat) (g : Node → Node) : (s.modNode k g).stash = s.stash := rfl
@[simp] theorem State.modNode_fresh (s : State) (k : Nat) (g : Node → Node) : (s.modNode k g).fresh = s.fresh := rfl
@[simp] theorem State.modNode_hours (s : State) (k : Nat) (g : Node → Node) : (s.modNode k g).hours = s.hours := rfl
@[simp] theorem State.modNode_cur (s : State) (k : Nat) (g : Node → Node) : (s.modNode k g).cur = s.cur := rfl
@[simp] theorem State.modNode_opened (s : State) (k : Nat) (g : Node → Node) : (s.modNode k g).opened = s.opened := rfl
@[simp] theorem State.modNode_agenda (s : State) (k : Nat) (g : Node → Node) : (s.modNode k g).agenda = s.agenda := rfl
@[simp] theorem State.modNode_ctx (s : State) (k : Nat) (g : Node → Node) (j : Nat) : (s.modNode k g).ctx j = s.ctx j := rfl
@[simp] theorem State.modNode_core (s : State) (k : Nat) (g : Node → Node) (j : Nat) : (s.modNode k g).core j = s.core j := rfl
@[simp] theorem State.modNode_part (s : State) (k : Nat) (g : Node → Node) (j : Nat) : (s.modNode k g).part j = s.part j := rfl
@[simp] theorem State.modNode_unit (s : State) (k : Nat) (g : Node → Node) (j : Nat) : (s.modNode k g).unit j = s.unit j := rfl
@[simp] theorem State.modUnit_now (s : State) (k : Nat) (g : UnitSt → UnitSt) : (s.modUnit k g).now = s.now := rfl
@[simp] theorem State.modUnit_before (s : State) (k : Nat) (g : UnitSt → UnitSt) : (s.modUnit k g).before = s.before := rfl
@[simp] theorem State.modUnit_product (s : State) (k : Nat) (g : UnitSt → UnitSt) : (s.modUnit k g).product = s.product := rfl
@[simp] theorem State.modUnit_mem (s : State) (k : Nat) (g : UnitSt → UnitSt) : (s.modUnit k g).mem = s.mem := rfl
@[simp] theorem State.modUnit_poison (s : State) (k : Nat) (g : UnitSt → UnitSt) : (s.modUnit k g).poison = s.poison := rfl
@[simp] theorem State.modUnit_ctxs (s : State) (k : Nat) (g : UnitSt → UnitSt) : (s.modUnit k g).ctxs = s.ctxs := rfl
@[simp] theorem State.modUnit_cores (s : State) (k : Nat) (g : UnitSt → UnitSt) : (s.modUnit k g).cores = s.cores := rfl
@[simp] theorem State.modUnit_parts (s : State) (k : Nat) (g : UnitSt → UnitSt) : (s.modUnit k g).parts = s.parts := rfl
@[simp] theorem State.modUnit_nodes (s : State) (k : Nat) (g : UnitSt → UnitSt) : (s.modUnit k g).nodes = s.nodes := rfl
@[simp] theorem State.modUnit_l2 (s : State) (k : Nat) (g : UnitSt → UnitSt) : (s.modUnit k g).l2 = s.l2 := rfl
@[simp] theorem State.modUnit_tlb (s : State) (k : Nat) (g : UnitSt → UnitSt) : (s.modUnit k g).tlb = s.tlb := rfl
@[simp] theorem State.modUnit_dying (s : State) (k : Nat) (g : UnitSt → UnitSt) : (s.modUnit k g).dying = s.dying := rfl
@[simp] theorem State.modUnit_msgs (s : State) (k : Nat) (g : UnitSt → UnitSt) : (s.modUnit k g).msgs = s.msgs := rfl
@[simp] theorem State.modUnit_wires (s : State) (k : Nat) (g : UnitSt → UnitSt) : (s.modUnit k g).wires = s.wires := rfl
@[simp] theorem State.modUnit_rates (s : State) (k : Nat) (g : UnitSt → UnitSt) : (s.modUnit k g).rates = s.rates := rfl
@[simp] theorem State.modUnit_reds (s : State) (k : Nat) (g : UnitSt → UnitSt) : (s.modUnit k g).reds = s.reds := rfl
@[simp] theorem State.modUnit_colls (s : State) (k : Nat) (g : UnitSt → UnitSt) : (s.modUnit k g).colls = s.colls := rfl
@[simp] theorem State.modUnit_ops (s : State) (k : Nat) (g : UnitSt → UnitSt) : (s.modUnit k g).ops = s.ops := rfl
@[simp] theorem State.modUnit_plains (s : State) (k : Nat) (g : UnitSt → UnitSt) : (s.modUnit k g).plains = s.plains := rfl
@[simp] theorem State.modUnit_traffic (s : State) (k : Nat) (g : UnitSt → UnitSt) : (s.modUnit k g).traffic = s.traffic := rfl
@[simp] theorem State.modUnit_flash (s : State) (k : Nat) (g : UnitSt → UnitSt) : (s.modUnit k g).flash = s.flash := rfl
@[simp] theorem State.modUnit_meas (s : State) (k : Nat) (g : UnitSt → UnitSt) : (s.modUnit k g).meas = s.meas := rfl
@[simp] theorem State.modUnit_power (s : State) (k : Nat) (g : UnitSt → UnitSt) : (s.modUnit k g).power = s.power := rfl
@[simp] theorem State.modUnit_hbmStacks (s : State) (k : Nat) (g : UnitSt → UnitSt) : (s.modUnit k g).hbmStacks = s.hbmStacks := rfl
@[simp] theorem State.modUnit_dies (s : State) (k : Nat) (g : UnitSt → UnitSt) : (s.modUnit k g).dies = s.dies := rfl
@[simp] theorem State.modUnit_boot (s : State) (k : Nat) (g : UnitSt → UnitSt) : (s.modUnit k g).boot = s.boot := rfl
@[simp] theorem State.modUnit_fabric (s : State) (k : Nat) (g : UnitSt → UnitSt) : (s.modUnit k g).fabric = s.fabric := rfl
@[simp] theorem State.modUnit_ports (s : State) (k : Nat) (g : UnitSt → UnitSt) : (s.modUnit k g).ports = s.ports := rfl
@[simp] theorem State.modUnit_links (s : State) (k : Nat) (g : UnitSt → UnitSt) : (s.modUnit k g).links = s.links := rfl
@[simp] theorem State.modUnit_answers (s : State) (k : Nat) (g : UnitSt → UnitSt) : (s.modUnit k g).answers = s.answers := rfl
@[simp] theorem State.modUnit_nextNode (s : State) (k : Nat) (g : UnitSt → UnitSt) : (s.modUnit k g).nextNode = s.nextNode := rfl
@[simp] theorem State.modUnit_stash (s : State) (k : Nat) (g : UnitSt → UnitSt) : (s.modUnit k g).stash = s.stash := rfl
@[simp] theorem State.modUnit_fresh (s : State) (k : Nat) (g : UnitSt → UnitSt) : (s.modUnit k g).fresh = s.fresh := rfl
@[simp] theorem State.modUnit_hours (s : State) (k : Nat) (g : UnitSt → UnitSt) : (s.modUnit k g).hours = s.hours := rfl
@[simp] theorem State.modUnit_cur (s : State) (k : Nat) (g : UnitSt → UnitSt) : (s.modUnit k g).cur = s.cur := rfl
@[simp] theorem State.modUnit_opened (s : State) (k : Nat) (g : UnitSt → UnitSt) : (s.modUnit k g).opened = s.opened := rfl
@[simp] theorem State.modUnit_agenda (s : State) (k : Nat) (g : UnitSt → UnitSt) : (s.modUnit k g).agenda = s.agenda := rfl
@[simp] theorem State.modUnit_ctx (s : State) (k : Nat) (g : UnitSt → UnitSt) (j : Nat) : (s.modUnit k g).ctx j = s.ctx j := rfl
@[simp] theorem State.modUnit_core (s : State) (k : Nat) (g : UnitSt → UnitSt) (j : Nat) : (s.modUnit k g).core j = s.core j := rfl
@[simp] theorem State.modUnit_part (s : State) (k : Nat) (g : UnitSt → UnitSt) (j : Nat) : (s.modUnit k g).part j = s.part j := rfl
@[simp] theorem State.modUnit_node (s : State) (k : Nat) (g : UnitSt → UnitSt) (j : Nat) : (s.modUnit k g).node j = s.node j := rfl
@[simp] theorem State.answer_now (s : State) (a : Answer) : (s.answer a).now = s.now := rfl
@[simp] theorem State.answer_before (s : State) (a : Answer) : (s.answer a).before = s.before := rfl
@[simp] theorem State.answer_product (s : State) (a : Answer) : (s.answer a).product = s.product := rfl
@[simp] theorem State.answer_mem (s : State) (a : Answer) : (s.answer a).mem = s.mem := rfl
@[simp] theorem State.answer_poison (s : State) (a : Answer) : (s.answer a).poison = s.poison := rfl
@[simp] theorem State.answer_ctxs (s : State) (a : Answer) : (s.answer a).ctxs = s.ctxs := rfl
@[simp] theorem State.answer_cores (s : State) (a : Answer) : (s.answer a).cores = s.cores := rfl
@[simp] theorem State.answer_parts (s : State) (a : Answer) : (s.answer a).parts = s.parts := rfl
@[simp] theorem State.answer_nodes (s : State) (a : Answer) : (s.answer a).nodes = s.nodes := rfl
@[simp] theorem State.answer_units (s : State) (a : Answer) : (s.answer a).units = s.units := rfl
@[simp] theorem State.answer_l2 (s : State) (a : Answer) : (s.answer a).l2 = s.l2 := rfl
@[simp] theorem State.answer_tlb (s : State) (a : Answer) : (s.answer a).tlb = s.tlb := rfl
@[simp] theorem State.answer_dying (s : State) (a : Answer) : (s.answer a).dying = s.dying := rfl
@[simp] theorem State.answer_msgs (s : State) (a : Answer) : (s.answer a).msgs = s.msgs := rfl
@[simp] theorem State.answer_wires (s : State) (a : Answer) : (s.answer a).wires = s.wires := rfl
@[simp] theorem State.answer_rates (s : State) (a : Answer) : (s.answer a).rates = s.rates := rfl
@[simp] theorem State.answer_reds (s : State) (a : Answer) : (s.answer a).reds = s.reds := rfl
@[simp] theorem State.answer_colls (s : State) (a : Answer) : (s.answer a).colls = s.colls := rfl
@[simp] theorem State.answer_ops (s : State) (a : Answer) : (s.answer a).ops = s.ops := rfl
@[simp] theorem State.answer_plains (s : State) (a : Answer) : (s.answer a).plains = s.plains := rfl
@[simp] theorem State.answer_traffic (s : State) (a : Answer) : (s.answer a).traffic = s.traffic := rfl
@[simp] theorem State.answer_flash (s : State) (a : Answer) : (s.answer a).flash = s.flash := rfl
@[simp] theorem State.answer_meas (s : State) (a : Answer) : (s.answer a).meas = s.meas := rfl
@[simp] theorem State.answer_power (s : State) (a : Answer) : (s.answer a).power = s.power := rfl
@[simp] theorem State.answer_hbmStacks (s : State) (a : Answer) : (s.answer a).hbmStacks = s.hbmStacks := rfl
@[simp] theorem State.answer_dies (s : State) (a : Answer) : (s.answer a).dies = s.dies := rfl
@[simp] theorem State.answer_boot (s : State) (a : Answer) : (s.answer a).boot = s.boot := rfl
@[simp] theorem State.answer_fabric (s : State) (a : Answer) : (s.answer a).fabric = s.fabric := rfl
@[simp] theorem State.answer_ports (s : State) (a : Answer) : (s.answer a).ports = s.ports := rfl
@[simp] theorem State.answer_links (s : State) (a : Answer) : (s.answer a).links = s.links := rfl
@[simp] theorem State.answer_nextNode (s : State) (a : Answer) : (s.answer a).nextNode = s.nextNode := rfl
@[simp] theorem State.answer_stash (s : State) (a : Answer) : (s.answer a).stash = s.stash := rfl
@[simp] theorem State.answer_fresh (s : State) (a : Answer) : (s.answer a).fresh = s.fresh := rfl
@[simp] theorem State.answer_hours (s : State) (a : Answer) : (s.answer a).hours = s.hours := rfl
@[simp] theorem State.answer_cur (s : State) (a : Answer) : (s.answer a).cur = s.cur := rfl
@[simp] theorem State.answer_opened (s : State) (a : Answer) : (s.answer a).opened = s.opened := rfl
@[simp] theorem State.answer_agenda (s : State) (a : Answer) : (s.answer a).agenda = s.agenda := rfl
@[simp] theorem State.answer_ctx (s : State) (a : Answer) (j : Nat) : (s.answer a).ctx j = s.ctx j := rfl
@[simp] theorem State.answer_core (s : State) (a : Answer) (j : Nat) : (s.answer a).core j = s.core j := rfl
@[simp] theorem State.answer_part (s : State) (a : Answer) (j : Nat) : (s.answer a).part j = s.part j := rfl
@[simp] theorem State.answer_node (s : State) (a : Answer) (j : Nat) : (s.answer a).node j = s.node j := rfl
@[simp] theorem State.answer_unit (s : State) (a : Answer) (j : Nat) : (s.answer a).unit j = s.unit j := rfl
@[simp] theorem State.putN_now (s : State) (a n v : Nat) : (s.putN a n v).now = s.now := rfl
@[simp] theorem State.putN_before (s : State) (a n v : Nat) : (s.putN a n v).before = s.before := rfl
@[simp] theorem State.putN_product (s : State) (a n v : Nat) : (s.putN a n v).product = s.product := rfl
@[simp] theorem State.putN_poison (s : State) (a n v : Nat) : (s.putN a n v).poison = s.poison := rfl
@[simp] theorem State.putN_ctxs (s : State) (a n v : Nat) : (s.putN a n v).ctxs = s.ctxs := rfl
@[simp] theorem State.putN_cores (s : State) (a n v : Nat) : (s.putN a n v).cores = s.cores := rfl
@[simp] theorem State.putN_parts (s : State) (a n v : Nat) : (s.putN a n v).parts = s.parts := rfl
@[simp] theorem State.putN_nodes (s : State) (a n v : Nat) : (s.putN a n v).nodes = s.nodes := rfl
@[simp] theorem State.putN_units (s : State) (a n v : Nat) : (s.putN a n v).units = s.units := rfl
@[simp] theorem State.putN_l2 (s : State) (a n v : Nat) : (s.putN a n v).l2 = s.l2 := rfl
@[simp] theorem State.putN_tlb (s : State) (a n v : Nat) : (s.putN a n v).tlb = s.tlb := rfl
@[simp] theorem State.putN_dying (s : State) (a n v : Nat) : (s.putN a n v).dying = s.dying := rfl
@[simp] theorem State.putN_msgs (s : State) (a n v : Nat) : (s.putN a n v).msgs = s.msgs := rfl
@[simp] theorem State.putN_wires (s : State) (a n v : Nat) : (s.putN a n v).wires = s.wires := rfl
@[simp] theorem State.putN_rates (s : State) (a n v : Nat) : (s.putN a n v).rates = s.rates := rfl
@[simp] theorem State.putN_reds (s : State) (a n v : Nat) : (s.putN a n v).reds = s.reds := rfl
@[simp] theorem State.putN_colls (s : State) (a n v : Nat) : (s.putN a n v).colls = s.colls := rfl
@[simp] theorem State.putN_ops (s : State) (a n v : Nat) : (s.putN a n v).ops = s.ops := rfl
@[simp] theorem State.putN_plains (s : State) (a n v : Nat) : (s.putN a n v).plains = s.plains := rfl
@[simp] theorem State.putN_traffic (s : State) (a n v : Nat) : (s.putN a n v).traffic = s.traffic := rfl
@[simp] theorem State.putN_flash (s : State) (a n v : Nat) : (s.putN a n v).flash = s.flash := rfl
@[simp] theorem State.putN_meas (s : State) (a n v : Nat) : (s.putN a n v).meas = s.meas := rfl
@[simp] theorem State.putN_power (s : State) (a n v : Nat) : (s.putN a n v).power = s.power := rfl
@[simp] theorem State.putN_hbmStacks (s : State) (a n v : Nat) : (s.putN a n v).hbmStacks = s.hbmStacks := rfl
@[simp] theorem State.putN_dies (s : State) (a n v : Nat) : (s.putN a n v).dies = s.dies := rfl
@[simp] theorem State.putN_boot (s : State) (a n v : Nat) : (s.putN a n v).boot = s.boot := rfl
@[simp] theorem State.putN_fabric (s : State) (a n v : Nat) : (s.putN a n v).fabric = s.fabric := rfl
@[simp] theorem State.putN_ports (s : State) (a n v : Nat) : (s.putN a n v).ports = s.ports := rfl
@[simp] theorem State.putN_links (s : State) (a n v : Nat) : (s.putN a n v).links = s.links := rfl
@[simp] theorem State.putN_answers (s : State) (a n v : Nat) : (s.putN a n v).answers = s.answers := rfl
@[simp] theorem State.putN_nextNode (s : State) (a n v : Nat) : (s.putN a n v).nextNode = s.nextNode := rfl
@[simp] theorem State.putN_stash (s : State) (a n v : Nat) : (s.putN a n v).stash = s.stash := rfl
@[simp] theorem State.putN_fresh (s : State) (a n v : Nat) : (s.putN a n v).fresh = s.fresh := rfl
@[simp] theorem State.putN_hours (s : State) (a n v : Nat) : (s.putN a n v).hours = s.hours := rfl
@[simp] theorem State.putN_cur (s : State) (a n v : Nat) : (s.putN a n v).cur = s.cur := rfl
@[simp] theorem State.putN_opened (s : State) (a n v : Nat) : (s.putN a n v).opened = s.opened := rfl
@[simp] theorem State.putN_agenda (s : State) (a n v : Nat) : (s.putN a n v).agenda = s.agenda := rfl
@[simp] theorem State.putN_ctx (s : State) (a n v : Nat) (j : Nat) : (s.putN a n v).ctx j = s.ctx j := rfl
@[simp] theorem State.putN_core (s : State) (a n v : Nat) (j : Nat) : (s.putN a n v).core j = s.core j := rfl
@[simp] theorem State.putN_part (s : State) (a n v : Nat) (j : Nat) : (s.putN a n v).part j = s.part j := rfl
@[simp] theorem State.putN_node (s : State) (a n v : Nat) (j : Nat) : (s.putN a n v).node j = s.node j := rfl
@[simp] theorem State.putN_unit (s : State) (a n v : Nat) (j : Nat) : (s.putN a n v).unit j = s.unit j := rfl
@[simp] theorem State.zero_now (s : State) (a n : Nat) : (s.zero a n).now = s.now := rfl
@[simp] theorem State.zero_before (s : State) (a n : Nat) : (s.zero a n).before = s.before := rfl
@[simp] theorem State.zero_product (s : State) (a n : Nat) : (s.zero a n).product = s.product := rfl
@[simp] theorem State.zero_poison (s : State) (a n : Nat) : (s.zero a n).poison = s.poison := rfl
@[simp] theorem State.zero_ctxs (s : State) (a n : Nat) : (s.zero a n).ctxs = s.ctxs := rfl
@[simp] theorem State.zero_cores (s : State) (a n : Nat) : (s.zero a n).cores = s.cores := rfl
@[simp] theorem State.zero_parts (s : State) (a n : Nat) : (s.zero a n).parts = s.parts := rfl
@[simp] theorem State.zero_nodes (s : State) (a n : Nat) : (s.zero a n).nodes = s.nodes := rfl
@[simp] theorem State.zero_units (s : State) (a n : Nat) : (s.zero a n).units = s.units := rfl
@[simp] theorem State.zero_l2 (s : State) (a n : Nat) : (s.zero a n).l2 = s.l2 := rfl
@[simp] theorem State.zero_tlb (s : State) (a n : Nat) : (s.zero a n).tlb = s.tlb := rfl
@[simp] theorem State.zero_dying (s : State) (a n : Nat) : (s.zero a n).dying = s.dying := rfl
@[simp] theorem State.zero_msgs (s : State) (a n : Nat) : (s.zero a n).msgs = s.msgs := rfl
@[simp] theorem State.zero_wires (s : State) (a n : Nat) : (s.zero a n).wires = s.wires := rfl
@[simp] theorem State.zero_rates (s : State) (a n : Nat) : (s.zero a n).rates = s.rates := rfl
@[simp] theorem State.zero_reds (s : State) (a n : Nat) : (s.zero a n).reds = s.reds := rfl
@[simp] theorem State.zero_colls (s : State) (a n : Nat) : (s.zero a n).colls = s.colls := rfl
@[simp] theorem State.zero_ops (s : State) (a n : Nat) : (s.zero a n).ops = s.ops := rfl
@[simp] theorem State.zero_plains (s : State) (a n : Nat) : (s.zero a n).plains = s.plains := rfl
@[simp] theorem State.zero_traffic (s : State) (a n : Nat) : (s.zero a n).traffic = s.traffic := rfl
@[simp] theorem State.zero_flash (s : State) (a n : Nat) : (s.zero a n).flash = s.flash := rfl
@[simp] theorem State.zero_meas (s : State) (a n : Nat) : (s.zero a n).meas = s.meas := rfl
@[simp] theorem State.zero_power (s : State) (a n : Nat) : (s.zero a n).power = s.power := rfl
@[simp] theorem State.zero_hbmStacks (s : State) (a n : Nat) : (s.zero a n).hbmStacks = s.hbmStacks := rfl
@[simp] theorem State.zero_dies (s : State) (a n : Nat) : (s.zero a n).dies = s.dies := rfl
@[simp] theorem State.zero_boot (s : State) (a n : Nat) : (s.zero a n).boot = s.boot := rfl
@[simp] theorem State.zero_fabric (s : State) (a n : Nat) : (s.zero a n).fabric = s.fabric := rfl
@[simp] theorem State.zero_ports (s : State) (a n : Nat) : (s.zero a n).ports = s.ports := rfl
@[simp] theorem State.zero_links (s : State) (a n : Nat) : (s.zero a n).links = s.links := rfl
@[simp] theorem State.zero_answers (s : State) (a n : Nat) : (s.zero a n).answers = s.answers := rfl
@[simp] theorem State.zero_nextNode (s : State) (a n : Nat) : (s.zero a n).nextNode = s.nextNode := rfl
@[simp] theorem State.zero_stash (s : State) (a n : Nat) : (s.zero a n).stash = s.stash := rfl
@[simp] theorem State.zero_fresh (s : State) (a n : Nat) : (s.zero a n).fresh = s.fresh := rfl
@[simp] theorem State.zero_hours (s : State) (a n : Nat) : (s.zero a n).hours = s.hours := rfl
@[simp] theorem State.zero_cur (s : State) (a n : Nat) : (s.zero a n).cur = s.cur := rfl
@[simp] theorem State.zero_opened (s : State) (a n : Nat) : (s.zero a n).opened = s.opened := rfl
@[simp] theorem State.zero_agenda (s : State) (a n : Nat) : (s.zero a n).agenda = s.agenda := rfl
@[simp] theorem State.zero_ctx (s : State) (a n : Nat) (j : Nat) : (s.zero a n).ctx j = s.ctx j := rfl
@[simp] theorem State.zero_core (s : State) (a n : Nat) (j : Nat) : (s.zero a n).core j = s.core j := rfl
@[simp] theorem State.zero_part (s : State) (a n : Nat) (j : Nat) : (s.zero a n).part j = s.part j := rfl
@[simp] theorem State.zero_node (s : State) (a n : Nat) (j : Nat) : (s.zero a n).node j = s.node j := rfl
@[simp] theorem State.zero_unit (s : State) (a n : Nat) (j : Nat) : (s.zero a n).unit j = s.unit j := rfl
@[simp] theorem State.clearPoison_now (s : State) (a n : Nat) : (s.clearPoison a n).now = s.now := rfl
@[simp] theorem State.clearPoison_before (s : State) (a n : Nat) : (s.clearPoison a n).before = s.before := rfl
@[simp] theorem State.clearPoison_product (s : State) (a n : Nat) : (s.clearPoison a n).product = s.product := rfl
@[simp] theorem State.clearPoison_mem (s : State) (a n : Nat) : (s.clearPoison a n).mem = s.mem := rfl
@[simp] theorem State.clearPoison_ctxs (s : State) (a n : Nat) : (s.clearPoison a n).ctxs = s.ctxs := rfl
@[simp] theorem State.clearPoison_cores (s : State) (a n : Nat) : (s.clearPoison a n).cores = s.cores := rfl
@[simp] theorem State.clearPoison_parts (s : State) (a n : Nat) : (s.clearPoison a n).parts = s.parts := rfl
@[simp] theorem State.clearPoison_nodes (s : State) (a n : Nat) : (s.clearPoison a n).nodes = s.nodes := rfl
@[simp] theorem State.clearPoison_units (s : State) (a n : Nat) : (s.clearPoison a n).units = s.units := rfl
@[simp] theorem State.clearPoison_l2 (s : State) (a n : Nat) : (s.clearPoison a n).l2 = s.l2 := rfl
@[simp] theorem State.clearPoison_tlb (s : State) (a n : Nat) : (s.clearPoison a n).tlb = s.tlb := rfl
@[simp] theorem State.clearPoison_dying (s : State) (a n : Nat) : (s.clearPoison a n).dying = s.dying := rfl
@[simp] theorem State.clearPoison_msgs (s : State) (a n : Nat) : (s.clearPoison a n).msgs = s.msgs := rfl
@[simp] theorem State.clearPoison_wires (s : State) (a n : Nat) : (s.clearPoison a n).wires = s.wires := rfl
@[simp] theorem State.clearPoison_rates (s : State) (a n : Nat) : (s.clearPoison a n).rates = s.rates := rfl
@[simp] theorem State.clearPoison_reds (s : State) (a n : Nat) : (s.clearPoison a n).reds = s.reds := rfl
@[simp] theorem State.clearPoison_colls (s : State) (a n : Nat) : (s.clearPoison a n).colls = s.colls := rfl
@[simp] theorem State.clearPoison_ops (s : State) (a n : Nat) : (s.clearPoison a n).ops = s.ops := rfl
@[simp] theorem State.clearPoison_plains (s : State) (a n : Nat) : (s.clearPoison a n).plains = s.plains := rfl
@[simp] theorem State.clearPoison_traffic (s : State) (a n : Nat) : (s.clearPoison a n).traffic = s.traffic := rfl
@[simp] theorem State.clearPoison_flash (s : State) (a n : Nat) : (s.clearPoison a n).flash = s.flash := rfl
@[simp] theorem State.clearPoison_meas (s : State) (a n : Nat) : (s.clearPoison a n).meas = s.meas := rfl
@[simp] theorem State.clearPoison_power (s : State) (a n : Nat) : (s.clearPoison a n).power = s.power := rfl
@[simp] theorem State.clearPoison_hbmStacks (s : State) (a n : Nat) : (s.clearPoison a n).hbmStacks = s.hbmStacks := rfl
@[simp] theorem State.clearPoison_dies (s : State) (a n : Nat) : (s.clearPoison a n).dies = s.dies := rfl
@[simp] theorem State.clearPoison_boot (s : State) (a n : Nat) : (s.clearPoison a n).boot = s.boot := rfl
@[simp] theorem State.clearPoison_fabric (s : State) (a n : Nat) : (s.clearPoison a n).fabric = s.fabric := rfl
@[simp] theorem State.clearPoison_ports (s : State) (a n : Nat) : (s.clearPoison a n).ports = s.ports := rfl
@[simp] theorem State.clearPoison_links (s : State) (a n : Nat) : (s.clearPoison a n).links = s.links := rfl
@[simp] theorem State.clearPoison_answers (s : State) (a n : Nat) : (s.clearPoison a n).answers = s.answers := rfl
@[simp] theorem State.clearPoison_nextNode (s : State) (a n : Nat) : (s.clearPoison a n).nextNode = s.nextNode := rfl
@[simp] theorem State.clearPoison_stash (s : State) (a n : Nat) : (s.clearPoison a n).stash = s.stash := rfl
@[simp] theorem State.clearPoison_fresh (s : State) (a n : Nat) : (s.clearPoison a n).fresh = s.fresh := rfl
@[simp] theorem State.clearPoison_hours (s : State) (a n : Nat) : (s.clearPoison a n).hours = s.hours := rfl
@[simp] theorem State.clearPoison_cur (s : State) (a n : Nat) : (s.clearPoison a n).cur = s.cur := rfl
@[simp] theorem State.clearPoison_opened (s : State) (a n : Nat) : (s.clearPoison a n).opened = s.opened := rfl
@[simp] theorem State.clearPoison_agenda (s : State) (a n : Nat) : (s.clearPoison a n).agenda = s.agenda := rfl
@[simp] theorem State.clearPoison_ctx (s : State) (a n : Nat) (j : Nat) : (s.clearPoison a n).ctx j = s.ctx j := rfl
@[simp] theorem State.clearPoison_core (s : State) (a n : Nat) (j : Nat) : (s.clearPoison a n).core j = s.core j := rfl
@[simp] theorem State.clearPoison_part (s : State) (a n : Nat) (j : Nat) : (s.clearPoison a n).part j = s.part j := rfl
@[simp] theorem State.clearPoison_node (s : State) (a n : Nat) (j : Nat) : (s.clearPoison a n).node j = s.node j := rfl
@[simp] theorem State.clearPoison_unit (s : State) (a n : Nat) (j : Nat) : (s.clearPoison a n).unit j = s.unit j := rfl
@[simp] theorem State.writeNow_now (s : State) (k : Nat) (l : Loc) (v m : Nat) : (s.writeNow k l v m).now = s.now := rfl
@[simp] theorem State.writeNow_before (s : State) (k : Nat) (l : Loc) (v m : Nat) : (s.writeNow k l v m).before = s.before := rfl
@[simp] theorem State.writeNow_product (s : State) (k : Nat) (l : Loc) (v m : Nat) : (s.writeNow k l v m).product = s.product := rfl
@[simp] theorem State.writeNow_mem (s : State) (k : Nat) (l : Loc) (v m : Nat) : (s.writeNow k l v m).mem = s.mem := rfl
@[simp] theorem State.writeNow_poison (s : State) (k : Nat) (l : Loc) (v m : Nat) : (s.writeNow k l v m).poison = s.poison := rfl
@[simp] theorem State.writeNow_cores (s : State) (k : Nat) (l : Loc) (v m : Nat) : (s.writeNow k l v m).cores = s.cores := rfl
@[simp] theorem State.writeNow_parts (s : State) (k : Nat) (l : Loc) (v m : Nat) : (s.writeNow k l v m).parts = s.parts := rfl
@[simp] theorem State.writeNow_nodes (s : State) (k : Nat) (l : Loc) (v m : Nat) : (s.writeNow k l v m).nodes = s.nodes := rfl
@[simp] theorem State.writeNow_units (s : State) (k : Nat) (l : Loc) (v m : Nat) : (s.writeNow k l v m).units = s.units := rfl
@[simp] theorem State.writeNow_l2 (s : State) (k : Nat) (l : Loc) (v m : Nat) : (s.writeNow k l v m).l2 = s.l2 := rfl
@[simp] theorem State.writeNow_tlb (s : State) (k : Nat) (l : Loc) (v m : Nat) : (s.writeNow k l v m).tlb = s.tlb := rfl
@[simp] theorem State.writeNow_dying (s : State) (k : Nat) (l : Loc) (v m : Nat) : (s.writeNow k l v m).dying = s.dying := rfl
@[simp] theorem State.writeNow_msgs (s : State) (k : Nat) (l : Loc) (v m : Nat) : (s.writeNow k l v m).msgs = s.msgs := rfl
@[simp] theorem State.writeNow_wires (s : State) (k : Nat) (l : Loc) (v m : Nat) : (s.writeNow k l v m).wires = s.wires := rfl
@[simp] theorem State.writeNow_rates (s : State) (k : Nat) (l : Loc) (v m : Nat) : (s.writeNow k l v m).rates = s.rates := rfl
@[simp] theorem State.writeNow_reds (s : State) (k : Nat) (l : Loc) (v m : Nat) : (s.writeNow k l v m).reds = s.reds := rfl
@[simp] theorem State.writeNow_colls (s : State) (k : Nat) (l : Loc) (v m : Nat) : (s.writeNow k l v m).colls = s.colls := rfl
@[simp] theorem State.writeNow_ops (s : State) (k : Nat) (l : Loc) (v m : Nat) : (s.writeNow k l v m).ops = s.ops := rfl
@[simp] theorem State.writeNow_plains (s : State) (k : Nat) (l : Loc) (v m : Nat) : (s.writeNow k l v m).plains = s.plains := rfl
@[simp] theorem State.writeNow_traffic (s : State) (k : Nat) (l : Loc) (v m : Nat) : (s.writeNow k l v m).traffic = s.traffic := rfl
@[simp] theorem State.writeNow_flash (s : State) (k : Nat) (l : Loc) (v m : Nat) : (s.writeNow k l v m).flash = s.flash := rfl
@[simp] theorem State.writeNow_meas (s : State) (k : Nat) (l : Loc) (v m : Nat) : (s.writeNow k l v m).meas = s.meas := rfl
@[simp] theorem State.writeNow_power (s : State) (k : Nat) (l : Loc) (v m : Nat) : (s.writeNow k l v m).power = s.power := rfl
@[simp] theorem State.writeNow_hbmStacks (s : State) (k : Nat) (l : Loc) (v m : Nat) : (s.writeNow k l v m).hbmStacks = s.hbmStacks := rfl
@[simp] theorem State.writeNow_dies (s : State) (k : Nat) (l : Loc) (v m : Nat) : (s.writeNow k l v m).dies = s.dies := rfl
@[simp] theorem State.writeNow_boot (s : State) (k : Nat) (l : Loc) (v m : Nat) : (s.writeNow k l v m).boot = s.boot := rfl
@[simp] theorem State.writeNow_fabric (s : State) (k : Nat) (l : Loc) (v m : Nat) : (s.writeNow k l v m).fabric = s.fabric := rfl
@[simp] theorem State.writeNow_ports (s : State) (k : Nat) (l : Loc) (v m : Nat) : (s.writeNow k l v m).ports = s.ports := rfl
@[simp] theorem State.writeNow_links (s : State) (k : Nat) (l : Loc) (v m : Nat) : (s.writeNow k l v m).links = s.links := rfl
@[simp] theorem State.writeNow_answers (s : State) (k : Nat) (l : Loc) (v m : Nat) : (s.writeNow k l v m).answers = s.answers := rfl
@[simp] theorem State.writeNow_nextNode (s : State) (k : Nat) (l : Loc) (v m : Nat) : (s.writeNow k l v m).nextNode = s.nextNode := rfl
@[simp] theorem State.writeNow_stash (s : State) (k : Nat) (l : Loc) (v m : Nat) : (s.writeNow k l v m).stash = s.stash := rfl
@[simp] theorem State.writeNow_fresh (s : State) (k : Nat) (l : Loc) (v m : Nat) : (s.writeNow k l v m).fresh = s.fresh := rfl
@[simp] theorem State.writeNow_hours (s : State) (k : Nat) (l : Loc) (v m : Nat) : (s.writeNow k l v m).hours = s.hours := rfl
@[simp] theorem State.writeNow_cur (s : State) (k : Nat) (l : Loc) (v m : Nat) : (s.writeNow k l v m).cur = s.cur := rfl
@[simp] theorem State.writeNow_opened (s : State) (k : Nat) (l : Loc) (v m : Nat) : (s.writeNow k l v m).opened = s.opened := rfl
@[simp] theorem State.writeNow_agenda (s : State) (k : Nat) (l : Loc) (v m : Nat) : (s.writeNow k l v m).agenda = s.agenda := rfl
@[simp] theorem State.writeNow_core (s : State) (k : Nat) (l : Loc) (v m : Nat) (j : Nat) : (s.writeNow k l v m).core j = s.core j := rfl
@[simp] theorem State.writeNow_part (s : State) (k : Nat) (l : Loc) (v m : Nat) (j : Nat) : (s.writeNow k l v m).part j = s.part j := rfl
@[simp] theorem State.writeNow_node (s : State) (k : Nat) (l : Loc) (v m : Nat) (j : Nat) : (s.writeNow k l v m).node j = s.node j := rfl
@[simp] theorem State.writeNow_unit (s : State) (k : Nat) (l : Loc) (v m : Nat) (j : Nat) : (s.writeNow k l v m).unit j = s.unit j := rfl
@[simp] theorem State.raise_now (s : State) (i c v : Nat) (u : Option Nat) : (s.raise i c v u).now = s.now := rfl
@[simp] theorem State.raise_before (s : State) (i c v : Nat) (u : Option Nat) : (s.raise i c v u).before = s.before := rfl
@[simp] theorem State.raise_product (s : State) (i c v : Nat) (u : Option Nat) : (s.raise i c v u).product = s.product := rfl
@[simp] theorem State.raise_mem (s : State) (i c v : Nat) (u : Option Nat) : (s.raise i c v u).mem = s.mem := rfl
@[simp] theorem State.raise_poison (s : State) (i c v : Nat) (u : Option Nat) : (s.raise i c v u).poison = s.poison := rfl
@[simp] theorem State.raise_ctxs (s : State) (i c v : Nat) (u : Option Nat) : (s.raise i c v u).ctxs = s.ctxs := rfl
@[simp] theorem State.raise_cores (s : State) (i c v : Nat) (u : Option Nat) : (s.raise i c v u).cores = s.cores := rfl
@[simp] theorem State.raise_parts (s : State) (i c v : Nat) (u : Option Nat) : (s.raise i c v u).parts = s.parts := rfl
@[simp] theorem State.raise_nodes (s : State) (i c v : Nat) (u : Option Nat) : (s.raise i c v u).nodes = s.nodes := rfl
@[simp] theorem State.raise_units (s : State) (i c v : Nat) (u : Option Nat) : (s.raise i c v u).units = s.units := rfl
@[simp] theorem State.raise_l2 (s : State) (i c v : Nat) (u : Option Nat) : (s.raise i c v u).l2 = s.l2 := rfl
@[simp] theorem State.raise_tlb (s : State) (i c v : Nat) (u : Option Nat) : (s.raise i c v u).tlb = s.tlb := rfl
@[simp] theorem State.raise_dying (s : State) (i c v : Nat) (u : Option Nat) : (s.raise i c v u).dying = s.dying := rfl
@[simp] theorem State.raise_msgs (s : State) (i c v : Nat) (u : Option Nat) : (s.raise i c v u).msgs = s.msgs := rfl
@[simp] theorem State.raise_wires (s : State) (i c v : Nat) (u : Option Nat) : (s.raise i c v u).wires = s.wires := rfl
@[simp] theorem State.raise_rates (s : State) (i c v : Nat) (u : Option Nat) : (s.raise i c v u).rates = s.rates := rfl
@[simp] theorem State.raise_reds (s : State) (i c v : Nat) (u : Option Nat) : (s.raise i c v u).reds = s.reds := rfl
@[simp] theorem State.raise_colls (s : State) (i c v : Nat) (u : Option Nat) : (s.raise i c v u).colls = s.colls := rfl
@[simp] theorem State.raise_ops (s : State) (i c v : Nat) (u : Option Nat) : (s.raise i c v u).ops = s.ops := rfl
@[simp] theorem State.raise_plains (s : State) (i c v : Nat) (u : Option Nat) : (s.raise i c v u).plains = s.plains := rfl
@[simp] theorem State.raise_traffic (s : State) (i c v : Nat) (u : Option Nat) : (s.raise i c v u).traffic = s.traffic := rfl
@[simp] theorem State.raise_flash (s : State) (i c v : Nat) (u : Option Nat) : (s.raise i c v u).flash = s.flash := rfl
@[simp] theorem State.raise_meas (s : State) (i c v : Nat) (u : Option Nat) : (s.raise i c v u).meas = s.meas := rfl
@[simp] theorem State.raise_power (s : State) (i c v : Nat) (u : Option Nat) : (s.raise i c v u).power = s.power := rfl
@[simp] theorem State.raise_hbmStacks (s : State) (i c v : Nat) (u : Option Nat) : (s.raise i c v u).hbmStacks = s.hbmStacks := rfl
@[simp] theorem State.raise_dies (s : State) (i c v : Nat) (u : Option Nat) : (s.raise i c v u).dies = s.dies := rfl
@[simp] theorem State.raise_boot (s : State) (i c v : Nat) (u : Option Nat) : (s.raise i c v u).boot = s.boot := rfl
@[simp] theorem State.raise_fabric (s : State) (i c v : Nat) (u : Option Nat) : (s.raise i c v u).fabric = s.fabric := rfl
@[simp] theorem State.raise_ports (s : State) (i c v : Nat) (u : Option Nat) : (s.raise i c v u).ports = s.ports := rfl
@[simp] theorem State.raise_links (s : State) (i c v : Nat) (u : Option Nat) : (s.raise i c v u).links = s.links := rfl
@[simp] theorem State.raise_answers (s : State) (i c v : Nat) (u : Option Nat) : (s.raise i c v u).answers = s.answers := rfl
@[simp] theorem State.raise_nextNode (s : State) (i c v : Nat) (u : Option Nat) : (s.raise i c v u).nextNode = s.nextNode := rfl
@[simp] theorem State.raise_stash (s : State) (i c v : Nat) (u : Option Nat) : (s.raise i c v u).stash = s.stash := rfl
@[simp] theorem State.raise_fresh (s : State) (i c v : Nat) (u : Option Nat) : (s.raise i c v u).fresh = s.fresh := rfl
@[simp] theorem State.raise_hours (s : State) (i c v : Nat) (u : Option Nat) : (s.raise i c v u).hours = s.hours := rfl
@[simp] theorem State.raise_cur (s : State) (i c v : Nat) (u : Option Nat) : (s.raise i c v u).cur = s.cur := rfl
@[simp] theorem State.raise_agenda (s : State) (i c v : Nat) (u : Option Nat) : (s.raise i c v u).agenda = s.agenda := rfl
@[simp] theorem State.raise_ctx (s : State) (i c v : Nat) (u : Option Nat) (j : Nat) : (s.raise i c v u).ctx j = s.ctx j := rfl
@[simp] theorem State.raise_core (s : State) (i c v : Nat) (u : Option Nat) (j : Nat) : (s.raise i c v u).core j = s.core j := rfl
@[simp] theorem State.raise_part (s : State) (i c v : Nat) (u : Option Nat) (j : Nat) : (s.raise i c v u).part j = s.part j := rfl
@[simp] theorem State.raise_node (s : State) (i c v : Nat) (u : Option Nat) (j : Nat) : (s.raise i c v u).node j = s.node j := rfl
@[simp] theorem State.raise_unit (s : State) (i c v : Nat) (u : Option Nat) (j : Nat) : (s.raise i c v u).unit j = s.unit j := rfl
@[simp] theorem State.holdSlot_now (s : State) (i : Nat) (b : Bool) (p : Option (Nat × Nat × Nat)) : (s.holdSlot i b p).now = s.now := rfl
@[simp] theorem State.holdSlot_before (s : State) (i : Nat) (b : Bool) (p : Option (Nat × Nat × Nat)) : (s.holdSlot i b p).before = s.before := rfl
@[simp] theorem State.holdSlot_product (s : State) (i : Nat) (b : Bool) (p : Option (Nat × Nat × Nat)) : (s.holdSlot i b p).product = s.product := rfl
@[simp] theorem State.holdSlot_mem (s : State) (i : Nat) (b : Bool) (p : Option (Nat × Nat × Nat)) : (s.holdSlot i b p).mem = s.mem := rfl
@[simp] theorem State.holdSlot_poison (s : State) (i : Nat) (b : Bool) (p : Option (Nat × Nat × Nat)) : (s.holdSlot i b p).poison = s.poison := rfl
@[simp] theorem State.holdSlot_ctxs (s : State) (i : Nat) (b : Bool) (p : Option (Nat × Nat × Nat)) : (s.holdSlot i b p).ctxs = s.ctxs := rfl
@[simp] theorem State.holdSlot_cores (s : State) (i : Nat) (b : Bool) (p : Option (Nat × Nat × Nat)) : (s.holdSlot i b p).cores = s.cores := rfl
@[simp] theorem State.holdSlot_parts (s : State) (i : Nat) (b : Bool) (p : Option (Nat × Nat × Nat)) : (s.holdSlot i b p).parts = s.parts := rfl
@[simp] theorem State.holdSlot_nodes (s : State) (i : Nat) (b : Bool) (p : Option (Nat × Nat × Nat)) : (s.holdSlot i b p).nodes = s.nodes := rfl
@[simp] theorem State.holdSlot_units (s : State) (i : Nat) (b : Bool) (p : Option (Nat × Nat × Nat)) : (s.holdSlot i b p).units = s.units := rfl
@[simp] theorem State.holdSlot_l2 (s : State) (i : Nat) (b : Bool) (p : Option (Nat × Nat × Nat)) : (s.holdSlot i b p).l2 = s.l2 := rfl
@[simp] theorem State.holdSlot_tlb (s : State) (i : Nat) (b : Bool) (p : Option (Nat × Nat × Nat)) : (s.holdSlot i b p).tlb = s.tlb := rfl
@[simp] theorem State.holdSlot_dying (s : State) (i : Nat) (b : Bool) (p : Option (Nat × Nat × Nat)) : (s.holdSlot i b p).dying = s.dying := rfl
@[simp] theorem State.holdSlot_msgs (s : State) (i : Nat) (b : Bool) (p : Option (Nat × Nat × Nat)) : (s.holdSlot i b p).msgs = s.msgs := rfl
@[simp] theorem State.holdSlot_wires (s : State) (i : Nat) (b : Bool) (p : Option (Nat × Nat × Nat)) : (s.holdSlot i b p).wires = s.wires := rfl
@[simp] theorem State.holdSlot_rates (s : State) (i : Nat) (b : Bool) (p : Option (Nat × Nat × Nat)) : (s.holdSlot i b p).rates = s.rates := rfl
@[simp] theorem State.holdSlot_reds (s : State) (i : Nat) (b : Bool) (p : Option (Nat × Nat × Nat)) : (s.holdSlot i b p).reds = s.reds := rfl
@[simp] theorem State.holdSlot_colls (s : State) (i : Nat) (b : Bool) (p : Option (Nat × Nat × Nat)) : (s.holdSlot i b p).colls = s.colls := rfl
@[simp] theorem State.holdSlot_ops (s : State) (i : Nat) (b : Bool) (p : Option (Nat × Nat × Nat)) : (s.holdSlot i b p).ops = s.ops := rfl
@[simp] theorem State.holdSlot_plains (s : State) (i : Nat) (b : Bool) (p : Option (Nat × Nat × Nat)) : (s.holdSlot i b p).plains = s.plains := rfl
@[simp] theorem State.holdSlot_traffic (s : State) (i : Nat) (b : Bool) (p : Option (Nat × Nat × Nat)) : (s.holdSlot i b p).traffic = s.traffic := rfl
@[simp] theorem State.holdSlot_flash (s : State) (i : Nat) (b : Bool) (p : Option (Nat × Nat × Nat)) : (s.holdSlot i b p).flash = s.flash := rfl
@[simp] theorem State.holdSlot_meas (s : State) (i : Nat) (b : Bool) (p : Option (Nat × Nat × Nat)) : (s.holdSlot i b p).meas = s.meas := rfl
@[simp] theorem State.holdSlot_power (s : State) (i : Nat) (b : Bool) (p : Option (Nat × Nat × Nat)) : (s.holdSlot i b p).power = s.power := rfl
@[simp] theorem State.holdSlot_hbmStacks (s : State) (i : Nat) (b : Bool) (p : Option (Nat × Nat × Nat)) : (s.holdSlot i b p).hbmStacks = s.hbmStacks := rfl
@[simp] theorem State.holdSlot_dies (s : State) (i : Nat) (b : Bool) (p : Option (Nat × Nat × Nat)) : (s.holdSlot i b p).dies = s.dies := rfl
@[simp] theorem State.holdSlot_boot (s : State) (i : Nat) (b : Bool) (p : Option (Nat × Nat × Nat)) : (s.holdSlot i b p).boot = s.boot := rfl
@[simp] theorem State.holdSlot_fabric (s : State) (i : Nat) (b : Bool) (p : Option (Nat × Nat × Nat)) : (s.holdSlot i b p).fabric = s.fabric := rfl
@[simp] theorem State.holdSlot_ports (s : State) (i : Nat) (b : Bool) (p : Option (Nat × Nat × Nat)) : (s.holdSlot i b p).ports = s.ports := rfl
@[simp] theorem State.holdSlot_links (s : State) (i : Nat) (b : Bool) (p : Option (Nat × Nat × Nat)) : (s.holdSlot i b p).links = s.links := rfl
@[simp] theorem State.holdSlot_answers (s : State) (i : Nat) (b : Bool) (p : Option (Nat × Nat × Nat)) : (s.holdSlot i b p).answers = s.answers := rfl
@[simp] theorem State.holdSlot_nextNode (s : State) (i : Nat) (b : Bool) (p : Option (Nat × Nat × Nat)) : (s.holdSlot i b p).nextNode = s.nextNode := rfl
@[simp] theorem State.holdSlot_stash (s : State) (i : Nat) (b : Bool) (p : Option (Nat × Nat × Nat)) : (s.holdSlot i b p).stash = s.stash := rfl
@[simp] theorem State.holdSlot_fresh (s : State) (i : Nat) (b : Bool) (p : Option (Nat × Nat × Nat)) : (s.holdSlot i b p).fresh = s.fresh := rfl
@[simp] theorem State.holdSlot_hours (s : State) (i : Nat) (b : Bool) (p : Option (Nat × Nat × Nat)) : (s.holdSlot i b p).hours = s.hours := rfl
@[simp] theorem State.holdSlot_cur (s : State) (i : Nat) (b : Bool) (p : Option (Nat × Nat × Nat)) : (s.holdSlot i b p).cur = s.cur := rfl
@[simp] theorem State.holdSlot_agenda (s : State) (i : Nat) (b : Bool) (p : Option (Nat × Nat × Nat)) : (s.holdSlot i b p).agenda = s.agenda := rfl
@[simp] theorem State.holdSlot_ctx (s : State) (i : Nat) (b : Bool) (p : Option (Nat × Nat × Nat)) (j : Nat) : (s.holdSlot i b p).ctx j = s.ctx j := rfl
@[simp] theorem State.holdSlot_core (s : State) (i : Nat) (b : Bool) (p : Option (Nat × Nat × Nat)) (j : Nat) : (s.holdSlot i b p).core j = s.core j := rfl
@[simp] theorem State.holdSlot_part (s : State) (i : Nat) (b : Bool) (p : Option (Nat × Nat × Nat)) (j : Nat) : (s.holdSlot i b p).part j = s.part j := rfl
@[simp] theorem State.holdSlot_node (s : State) (i : Nat) (b : Bool) (p : Option (Nat × Nat × Nat)) (j : Nat) : (s.holdSlot i b p).node j = s.node j := rfl
@[simp] theorem State.holdSlot_unit (s : State) (i : Nat) (b : Bool) (p : Option (Nat × Nat × Nat)) (j : Nat) : (s.holdSlot i b p).unit j = s.unit j := rfl
@[simp] theorem State.postQ_now (s : State) (k q : Nat) (e : Word) : (s.postQ k q e).now = s.now := rfl
@[simp] theorem State.postQ_before (s : State) (k q : Nat) (e : Word) : (s.postQ k q e).before = s.before := rfl
@[simp] theorem State.postQ_product (s : State) (k q : Nat) (e : Word) : (s.postQ k q e).product = s.product := rfl
@[simp] theorem State.postQ_mem (s : State) (k q : Nat) (e : Word) : (s.postQ k q e).mem = s.mem := rfl
@[simp] theorem State.postQ_poison (s : State) (k q : Nat) (e : Word) : (s.postQ k q e).poison = s.poison := rfl
@[simp] theorem State.postQ_cores (s : State) (k q : Nat) (e : Word) : (s.postQ k q e).cores = s.cores := rfl
@[simp] theorem State.postQ_parts (s : State) (k q : Nat) (e : Word) : (s.postQ k q e).parts = s.parts := rfl
@[simp] theorem State.postQ_nodes (s : State) (k q : Nat) (e : Word) : (s.postQ k q e).nodes = s.nodes := rfl
@[simp] theorem State.postQ_units (s : State) (k q : Nat) (e : Word) : (s.postQ k q e).units = s.units := rfl
@[simp] theorem State.postQ_l2 (s : State) (k q : Nat) (e : Word) : (s.postQ k q e).l2 = s.l2 := rfl
@[simp] theorem State.postQ_tlb (s : State) (k q : Nat) (e : Word) : (s.postQ k q e).tlb = s.tlb := rfl
@[simp] theorem State.postQ_dying (s : State) (k q : Nat) (e : Word) : (s.postQ k q e).dying = s.dying := rfl
@[simp] theorem State.postQ_msgs (s : State) (k q : Nat) (e : Word) : (s.postQ k q e).msgs = s.msgs := rfl
@[simp] theorem State.postQ_wires (s : State) (k q : Nat) (e : Word) : (s.postQ k q e).wires = s.wires := rfl
@[simp] theorem State.postQ_rates (s : State) (k q : Nat) (e : Word) : (s.postQ k q e).rates = s.rates := rfl
@[simp] theorem State.postQ_reds (s : State) (k q : Nat) (e : Word) : (s.postQ k q e).reds = s.reds := rfl
@[simp] theorem State.postQ_colls (s : State) (k q : Nat) (e : Word) : (s.postQ k q e).colls = s.colls := rfl
@[simp] theorem State.postQ_ops (s : State) (k q : Nat) (e : Word) : (s.postQ k q e).ops = s.ops := rfl
@[simp] theorem State.postQ_plains (s : State) (k q : Nat) (e : Word) : (s.postQ k q e).plains = s.plains := rfl
@[simp] theorem State.postQ_traffic (s : State) (k q : Nat) (e : Word) : (s.postQ k q e).traffic = s.traffic := rfl
@[simp] theorem State.postQ_flash (s : State) (k q : Nat) (e : Word) : (s.postQ k q e).flash = s.flash := rfl
@[simp] theorem State.postQ_meas (s : State) (k q : Nat) (e : Word) : (s.postQ k q e).meas = s.meas := rfl
@[simp] theorem State.postQ_power (s : State) (k q : Nat) (e : Word) : (s.postQ k q e).power = s.power := rfl
@[simp] theorem State.postQ_hbmStacks (s : State) (k q : Nat) (e : Word) : (s.postQ k q e).hbmStacks = s.hbmStacks := rfl
@[simp] theorem State.postQ_dies (s : State) (k q : Nat) (e : Word) : (s.postQ k q e).dies = s.dies := rfl
@[simp] theorem State.postQ_boot (s : State) (k q : Nat) (e : Word) : (s.postQ k q e).boot = s.boot := rfl
@[simp] theorem State.postQ_fabric (s : State) (k q : Nat) (e : Word) : (s.postQ k q e).fabric = s.fabric := rfl
@[simp] theorem State.postQ_ports (s : State) (k q : Nat) (e : Word) : (s.postQ k q e).ports = s.ports := rfl
@[simp] theorem State.postQ_links (s : State) (k q : Nat) (e : Word) : (s.postQ k q e).links = s.links := rfl
@[simp] theorem State.postQ_answers (s : State) (k q : Nat) (e : Word) : (s.postQ k q e).answers = s.answers := rfl
@[simp] theorem State.postQ_nextNode (s : State) (k q : Nat) (e : Word) : (s.postQ k q e).nextNode = s.nextNode := rfl
@[simp] theorem State.postQ_stash (s : State) (k q : Nat) (e : Word) : (s.postQ k q e).stash = s.stash := rfl
@[simp] theorem State.postQ_fresh (s : State) (k q : Nat) (e : Word) : (s.postQ k q e).fresh = s.fresh := rfl
@[simp] theorem State.postQ_hours (s : State) (k q : Nat) (e : Word) : (s.postQ k q e).hours = s.hours := rfl
@[simp] theorem State.postQ_cur (s : State) (k q : Nat) (e : Word) : (s.postQ k q e).cur = s.cur := rfl
@[simp] theorem State.postQ_opened (s : State) (k q : Nat) (e : Word) : (s.postQ k q e).opened = s.opened := rfl
@[simp] theorem State.postQ_agenda (s : State) (k q : Nat) (e : Word) : (s.postQ k q e).agenda = s.agenda := rfl
@[simp] theorem State.postQ_core (s : State) (k q : Nat) (e : Word) (j : Nat) : (s.postQ k q e).core j = s.core j := rfl
@[simp] theorem State.postQ_part (s : State) (k q : Nat) (e : Word) (j : Nat) : (s.postQ k q e).part j = s.part j := rfl
@[simp] theorem State.postQ_node (s : State) (k q : Nat) (e : Word) (j : Nat) : (s.postQ k q e).node j = s.node j := rfl
@[simp] theorem State.postQ_unit (s : State) (k q : Nat) (e : Word) (j : Nat) : (s.postQ k q e).unit j = s.unit j := rfl
@[simp] theorem State.postFlag_now (s : State) (k : Nat) (f : Fin 16) (n : Nat) : (s.postFlag k f n).now = s.now := rfl
@[simp] theorem State.postFlag_before (s : State) (k : Nat) (f : Fin 16) (n : Nat) : (s.postFlag k f n).before = s.before := rfl
@[simp] theorem State.postFlag_product (s : State) (k : Nat) (f : Fin 16) (n : Nat) : (s.postFlag k f n).product = s.product := rfl
@[simp] theorem State.postFlag_mem (s : State) (k : Nat) (f : Fin 16) (n : Nat) : (s.postFlag k f n).mem = s.mem := rfl
@[simp] theorem State.postFlag_poison (s : State) (k : Nat) (f : Fin 16) (n : Nat) : (s.postFlag k f n).poison = s.poison := rfl
@[simp] theorem State.postFlag_cores (s : State) (k : Nat) (f : Fin 16) (n : Nat) : (s.postFlag k f n).cores = s.cores := rfl
@[simp] theorem State.postFlag_parts (s : State) (k : Nat) (f : Fin 16) (n : Nat) : (s.postFlag k f n).parts = s.parts := rfl
@[simp] theorem State.postFlag_nodes (s : State) (k : Nat) (f : Fin 16) (n : Nat) : (s.postFlag k f n).nodes = s.nodes := rfl
@[simp] theorem State.postFlag_units (s : State) (k : Nat) (f : Fin 16) (n : Nat) : (s.postFlag k f n).units = s.units := rfl
@[simp] theorem State.postFlag_l2 (s : State) (k : Nat) (f : Fin 16) (n : Nat) : (s.postFlag k f n).l2 = s.l2 := rfl
@[simp] theorem State.postFlag_tlb (s : State) (k : Nat) (f : Fin 16) (n : Nat) : (s.postFlag k f n).tlb = s.tlb := rfl
@[simp] theorem State.postFlag_dying (s : State) (k : Nat) (f : Fin 16) (n : Nat) : (s.postFlag k f n).dying = s.dying := rfl
@[simp] theorem State.postFlag_msgs (s : State) (k : Nat) (f : Fin 16) (n : Nat) : (s.postFlag k f n).msgs = s.msgs := rfl
@[simp] theorem State.postFlag_wires (s : State) (k : Nat) (f : Fin 16) (n : Nat) : (s.postFlag k f n).wires = s.wires := rfl
@[simp] theorem State.postFlag_rates (s : State) (k : Nat) (f : Fin 16) (n : Nat) : (s.postFlag k f n).rates = s.rates := rfl
@[simp] theorem State.postFlag_reds (s : State) (k : Nat) (f : Fin 16) (n : Nat) : (s.postFlag k f n).reds = s.reds := rfl
@[simp] theorem State.postFlag_colls (s : State) (k : Nat) (f : Fin 16) (n : Nat) : (s.postFlag k f n).colls = s.colls := rfl
@[simp] theorem State.postFlag_ops (s : State) (k : Nat) (f : Fin 16) (n : Nat) : (s.postFlag k f n).ops = s.ops := rfl
@[simp] theorem State.postFlag_plains (s : State) (k : Nat) (f : Fin 16) (n : Nat) : (s.postFlag k f n).plains = s.plains := rfl
@[simp] theorem State.postFlag_traffic (s : State) (k : Nat) (f : Fin 16) (n : Nat) : (s.postFlag k f n).traffic = s.traffic := rfl
@[simp] theorem State.postFlag_flash (s : State) (k : Nat) (f : Fin 16) (n : Nat) : (s.postFlag k f n).flash = s.flash := rfl
@[simp] theorem State.postFlag_meas (s : State) (k : Nat) (f : Fin 16) (n : Nat) : (s.postFlag k f n).meas = s.meas := rfl
@[simp] theorem State.postFlag_power (s : State) (k : Nat) (f : Fin 16) (n : Nat) : (s.postFlag k f n).power = s.power := rfl
@[simp] theorem State.postFlag_hbmStacks (s : State) (k : Nat) (f : Fin 16) (n : Nat) : (s.postFlag k f n).hbmStacks = s.hbmStacks := rfl
@[simp] theorem State.postFlag_dies (s : State) (k : Nat) (f : Fin 16) (n : Nat) : (s.postFlag k f n).dies = s.dies := rfl
@[simp] theorem State.postFlag_boot (s : State) (k : Nat) (f : Fin 16) (n : Nat) : (s.postFlag k f n).boot = s.boot := rfl
@[simp] theorem State.postFlag_fabric (s : State) (k : Nat) (f : Fin 16) (n : Nat) : (s.postFlag k f n).fabric = s.fabric := rfl
@[simp] theorem State.postFlag_ports (s : State) (k : Nat) (f : Fin 16) (n : Nat) : (s.postFlag k f n).ports = s.ports := rfl
@[simp] theorem State.postFlag_links (s : State) (k : Nat) (f : Fin 16) (n : Nat) : (s.postFlag k f n).links = s.links := rfl
@[simp] theorem State.postFlag_answers (s : State) (k : Nat) (f : Fin 16) (n : Nat) : (s.postFlag k f n).answers = s.answers := rfl
@[simp] theorem State.postFlag_nextNode (s : State) (k : Nat) (f : Fin 16) (n : Nat) : (s.postFlag k f n).nextNode = s.nextNode := rfl
@[simp] theorem State.postFlag_stash (s : State) (k : Nat) (f : Fin 16) (n : Nat) : (s.postFlag k f n).stash = s.stash := rfl
@[simp] theorem State.postFlag_fresh (s : State) (k : Nat) (f : Fin 16) (n : Nat) : (s.postFlag k f n).fresh = s.fresh := rfl
@[simp] theorem State.postFlag_hours (s : State) (k : Nat) (f : Fin 16) (n : Nat) : (s.postFlag k f n).hours = s.hours := rfl
@[simp] theorem State.postFlag_cur (s : State) (k : Nat) (f : Fin 16) (n : Nat) : (s.postFlag k f n).cur = s.cur := rfl
@[simp] theorem State.postFlag_opened (s : State) (k : Nat) (f : Fin 16) (n : Nat) : (s.postFlag k f n).opened = s.opened := rfl
@[simp] theorem State.postFlag_agenda (s : State) (k : Nat) (f : Fin 16) (n : Nat) : (s.postFlag k f n).agenda = s.agenda := rfl
@[simp] theorem State.postFlag_core (s : State) (k : Nat) (f : Fin 16) (n : Nat) (j : Nat) : (s.postFlag k f n).core j = s.core j := rfl
@[simp] theorem State.postFlag_part (s : State) (k : Nat) (f : Fin 16) (n : Nat) (j : Nat) : (s.postFlag k f n).part j = s.part j := rfl
@[simp] theorem State.postFlag_node (s : State) (k : Nat) (f : Fin 16) (n : Nat) (j : Nat) : (s.postFlag k f n).node j = s.node j := rfl
@[simp] theorem State.postFlag_unit (s : State) (k : Nat) (f : Fin 16) (n : Nat) (j : Nat) : (s.postFlag k f n).unit j = s.unit j := rfl
@[simp] theorem State.pend_now (s : State) (k c : Nat) : (s.pend k c).now = s.now := rfl
@[simp] theorem State.pend_before (s : State) (k c : Nat) : (s.pend k c).before = s.before := rfl
@[simp] theorem State.pend_product (s : State) (k c : Nat) : (s.pend k c).product = s.product := rfl
@[simp] theorem State.pend_mem (s : State) (k c : Nat) : (s.pend k c).mem = s.mem := rfl
@[simp] theorem State.pend_poison (s : State) (k c : Nat) : (s.pend k c).poison = s.poison := rfl
@[simp] theorem State.pend_cores (s : State) (k c : Nat) : (s.pend k c).cores = s.cores := rfl
@[simp] theorem State.pend_parts (s : State) (k c : Nat) : (s.pend k c).parts = s.parts := rfl
@[simp] theorem State.pend_nodes (s : State) (k c : Nat) : (s.pend k c).nodes = s.nodes := rfl
@[simp] theorem State.pend_units (s : State) (k c : Nat) : (s.pend k c).units = s.units := rfl
@[simp] theorem State.pend_l2 (s : State) (k c : Nat) : (s.pend k c).l2 = s.l2 := rfl
@[simp] theorem State.pend_tlb (s : State) (k c : Nat) : (s.pend k c).tlb = s.tlb := rfl
@[simp] theorem State.pend_dying (s : State) (k c : Nat) : (s.pend k c).dying = s.dying := rfl
@[simp] theorem State.pend_msgs (s : State) (k c : Nat) : (s.pend k c).msgs = s.msgs := rfl
@[simp] theorem State.pend_wires (s : State) (k c : Nat) : (s.pend k c).wires = s.wires := rfl
@[simp] theorem State.pend_rates (s : State) (k c : Nat) : (s.pend k c).rates = s.rates := rfl
@[simp] theorem State.pend_reds (s : State) (k c : Nat) : (s.pend k c).reds = s.reds := rfl
@[simp] theorem State.pend_colls (s : State) (k c : Nat) : (s.pend k c).colls = s.colls := rfl
@[simp] theorem State.pend_ops (s : State) (k c : Nat) : (s.pend k c).ops = s.ops := rfl
@[simp] theorem State.pend_plains (s : State) (k c : Nat) : (s.pend k c).plains = s.plains := rfl
@[simp] theorem State.pend_traffic (s : State) (k c : Nat) : (s.pend k c).traffic = s.traffic := rfl
@[simp] theorem State.pend_flash (s : State) (k c : Nat) : (s.pend k c).flash = s.flash := rfl
@[simp] theorem State.pend_meas (s : State) (k c : Nat) : (s.pend k c).meas = s.meas := rfl
@[simp] theorem State.pend_power (s : State) (k c : Nat) : (s.pend k c).power = s.power := rfl
@[simp] theorem State.pend_hbmStacks (s : State) (k c : Nat) : (s.pend k c).hbmStacks = s.hbmStacks := rfl
@[simp] theorem State.pend_dies (s : State) (k c : Nat) : (s.pend k c).dies = s.dies := rfl
@[simp] theorem State.pend_boot (s : State) (k c : Nat) : (s.pend k c).boot = s.boot := rfl
@[simp] theorem State.pend_fabric (s : State) (k c : Nat) : (s.pend k c).fabric = s.fabric := rfl
@[simp] theorem State.pend_ports (s : State) (k c : Nat) : (s.pend k c).ports = s.ports := rfl
@[simp] theorem State.pend_links (s : State) (k c : Nat) : (s.pend k c).links = s.links := rfl
@[simp] theorem State.pend_answers (s : State) (k c : Nat) : (s.pend k c).answers = s.answers := rfl
@[simp] theorem State.pend_nextNode (s : State) (k c : Nat) : (s.pend k c).nextNode = s.nextNode := rfl
@[simp] theorem State.pend_stash (s : State) (k c : Nat) : (s.pend k c).stash = s.stash := rfl
@[simp] theorem State.pend_fresh (s : State) (k c : Nat) : (s.pend k c).fresh = s.fresh := rfl
@[simp] theorem State.pend_hours (s : State) (k c : Nat) : (s.pend k c).hours = s.hours := rfl
@[simp] theorem State.pend_cur (s : State) (k c : Nat) : (s.pend k c).cur = s.cur := rfl
@[simp] theorem State.pend_opened (s : State) (k c : Nat) : (s.pend k c).opened = s.opened := rfl
@[simp] theorem State.pend_agenda (s : State) (k c : Nat) : (s.pend k c).agenda = s.agenda := rfl
@[simp] theorem State.pend_core (s : State) (k c : Nat) (j : Nat) : (s.pend k c).core j = s.core j := rfl
@[simp] theorem State.pend_part (s : State) (k c : Nat) (j : Nat) : (s.pend k c).part j = s.part j := rfl
@[simp] theorem State.pend_node (s : State) (k c : Nat) (j : Nat) : (s.pend k c).node j = s.node j := rfl
@[simp] theorem State.pend_unit (s : State) (k c : Nat) (j : Nat) : (s.pend k c).unit j = s.unit j := rfl

/-! What is read after a write of the same part of the state, and of another. -/
@[simp] theorem State.ctx_setCtx_same (s : State) (k : Nat) (c : Ctx) : (s.setCtx k c).ctx k = c := Tbl.getD_put_same ..
theorem State.ctx_setCtx_ne (s : State) (k j : Nat) (c : Ctx) (h : j ≠ k) : (s.setCtx k c).ctx j = s.ctx j := Tbl.getD_put_ne _ _ _ _ _ h
@[simp] theorem State.ctx_modCtx_same (s : State) (k : Nat) (g : Ctx → Ctx) : (s.modCtx k g).ctx k = g (s.ctx k) := Tbl.getD_put_same ..
theorem State.ctx_modCtx_ne (s : State) (k j : Nat) (g : Ctx → Ctx) (h : j ≠ k) : (s.modCtx k g).ctx j = s.ctx j := Tbl.getD_put_ne _ _ _ _ _ h
@[simp] theorem State.core_setCore_same (s : State) (k : Nat) (c : Core) : (s.setCore k c).core k = c := Tbl.getD_put_same ..
theorem State.core_setCore_ne (s : State) (k j : Nat) (c : Core) (h : j ≠ k) : (s.setCore k c).core j = s.core j := Tbl.getD_put_ne _ _ _ _ _ h
@[simp] theorem State.core_modCore_same (s : State) (k : Nat) (g : Core → Core) : (s.modCore k g).core k = g (s.core k) := Tbl.getD_put_same ..
theorem State.core_modCore_ne (s : State) (k j : Nat) (g : Core → Core) (h : j ≠ k) : (s.modCore k g).core j = s.core j := Tbl.getD_put_ne _ _ _ _ _ h
@[simp] theorem State.part_setPart_same (s : State) (k : Nat) (c : Part) : (s.setPart k c).part k = c := Tbl.getD_put_same ..
theorem State.part_setPart_ne (s : State) (k j : Nat) (c : Part) (h : j ≠ k) : (s.setPart k c).part j = s.part j := Tbl.getD_put_ne _ _ _ _ _ h
@[simp] theorem State.part_modPart_same (s : State) (k : Nat) (g : Part → Part) : (s.modPart k g).part k = g (s.part k) := Tbl.getD_put_same ..
theorem State.part_modPart_ne (s : State) (k j : Nat) (g : Part → Part) (h : j ≠ k) : (s.modPart k g).part j = s.part j := Tbl.getD_put_ne _ _ _ _ _ h
@[simp] theorem State.node_setNode_same (s : State) (k : Nat) (c : Node) : (s.setNode k c).node k = c := Tbl.getD_put_same ..
theorem State.node_setNode_ne (s : State) (k j : Nat) (c : Node) (h : j ≠ k) : (s.setNode k c).node j = s.node j := Tbl.getD_put_ne _ _ _ _ _ h
@[simp] theorem State.node_modNode_same (s : State) (k : Nat) (g : Node → Node) : (s.modNode k g).node k = g (s.node k) := Tbl.getD_put_same ..
theorem State.node_modNode_ne (s : State) (k j : Nat) (g : Node → Node) (h : j ≠ k) : (s.modNode k g).node j = s.node j := Tbl.getD_put_ne _ _ _ _ _ h
@[simp] theorem State.unit_modUnit_same (s : State) (k : Nat) (g : UnitSt → UnitSt) : (s.modUnit k g).unit k = g (s.unit k) := Tbl.getD_put_same ..
theorem State.unit_modUnit_ne (s : State) (k j : Nat) (g : UnitSt → UnitSt) (h : j ≠ k) : (s.modUnit k g).unit j = s.unit j := Tbl.getD_put_ne _ _ _ _ _ h

/-! Updates of a context's registers. -/
@[simp] theorem Ctx.modFlow_f (c : Ctx) (g : FlowRegs → FlowRegs) : (c.modFlow g).f = c.f := rfl
@[simp] theorem Ctx.modFlow_q (c : Ctx) (g : FlowRegs → FlowRegs) : (c.modFlow g).q = c.q := rfl
@[simp] theorem Ctx.modFlow_wz (c : Ctx) (g : FlowRegs → FlowRegs) : (c.modFlow g).wz = c.wz := rfl
@[simp] theorem Ctx.modFlow_status (c : Ctx) (g : FlowRegs → FlowRegs) : (c.modFlow g).status = c.status := rfl
@[simp] theorem Ctx.modFlow_wait (c : Ctx) (g : FlowRegs → FlowRegs) : (c.modFlow g).wait = c.wait := rfl
@[simp] theorem Ctx.modFlow_run (c : Ctx) (g : FlowRegs → FlowRegs) : (c.modFlow g).run = c.run := rfl
@[simp] theorem Ctx.modFlow_wdPend (c : Ctx) (g : FlowRegs → FlowRegs) : (c.modFlow g).wdPend = c.wdPend := rfl
@[simp] theorem Ctx.modFlow_wdHeld (c : Ctx) (g : FlowRegs → FlowRegs) : (c.modFlow g).wdHeld = c.wdHeld := rfl
@[simp] theorem Ctx.modFlow_wdSeen (c : Ctx) (g : FlowRegs → FlowRegs) : (c.modFlow g).wdSeen = c.wdSeen := rfl
@[simp] theorem Ctx.modFlow_async (c : Ctx) (g : FlowRegs → FlowRegs) : (c.modFlow g).async = c.async := rfl
@[simp] theorem Ctx.modFlow_node (c : Ctx) (g : FlowRegs → FlowRegs) : (c.modFlow g).node = c.node := rfl
@[simp] theorem Ctx.modFlow_part (c : Ctx) (g : FlowRegs → FlowRegs) : (c.modFlow g).part = c.part := rfl
@[simp] theorem Ctx.modFlow_idx (c : Ctx) (g : FlowRegs → FlowRegs) : (c.modFlow g).idx = c.idx := rfl
@[simp] theorem Ctx.modFlow_lead (c : Ctx) (g : FlowRegs → FlowRegs) : (c.modFlow g).lead = c.lead := rfl
@[simp] theorem Ctx.modFlow_ctl (c : Ctx) (g : FlowRegs → FlowRegs) : (c.modFlow g).ctl = c.ctl := rfl
@[simp] theorem Ctx.modFlow_pitch (c : Ctx) (g : FlowRegs → FlowRegs) : (c.modFlow g).pitch = c.pitch := rfl
@[simp] theorem Ctx.modFlow_flights (c : Ctx) (g : FlowRegs → FlowRegs) : (c.modFlow g).flights = c.flights := rfl
@[simp] theorem Ctx.modFlow_accs (c : Ctx) (g : FlowRegs → FlowRegs) : (c.modFlow g).accs = c.accs := rfl
@[simp] theorem Ctx.modFlow_cmds (c : Ctx) (g : FlowRegs → FlowRegs) : (c.modFlow g).cmds = c.cmds := rfl
@[simp] theorem Ctx.modFlow_seq (c : Ctx) (g : FlowRegs → FlowRegs) : (c.modFlow g).seq = c.seq := rfl
@[simp] theorem Ctx.modFlow_seg (c : Ctx) (g : FlowRegs → FlowRegs) : (c.modFlow g).seg = c.seg := rfl
@[simp] theorem Ctx.modFlow_gen (c : Ctx) (g : FlowRegs → FlowRegs) : (c.modFlow g).gen = c.gen := rfl
@[simp] theorem Ctx.modFlow_arrived (c : Ctx) (g : FlowRegs → FlowRegs) : (c.modFlow g).arrived = c.arrived := rfl
@[simp] theorem Ctx.modFlow_ridging (c : Ctx) (g : FlowRegs → FlowRegs) : (c.modFlow g).ridging = c.ridging := rfl
@[simp] theorem Ctx.modFlow_rdv (c : Ctx) (g : FlowRegs → FlowRegs) : (c.modFlow g).rdv = c.rdv := rfl
@[simp] theorem Ctx.modFlow_rdvAt (c : Ctx) (g : FlowRegs → FlowRegs) : (c.modFlow g).rdvAt = c.rdvAt := rfl
@[simp] theorem Ctx.modFlow_tickets (c : Ctx) (g : FlowRegs → FlowRegs) : (c.modFlow g).tickets = c.tickets := rfl
@[simp] theorem Ctx.modFlow_colls (c : Ctx) (g : FlowRegs → FlowRegs) : (c.modFlow g).colls = c.colls := rfl
@[simp] theorem Ctx.modFlow_abort (c : Ctx) (g : FlowRegs → FlowRegs) : (c.modFlow g).abort = c.abort := rfl
@[simp] theorem Ctx.modFlow_forced (c : Ctx) (g : FlowRegs → FlowRegs) : (c.modFlow g).forced = c.forced := rfl
@[simp] theorem Ctx.modFlow_saving (c : Ctx) (g : FlowRegs → FlowRegs) : (c.modFlow g).saving = c.saving := rfl
@[simp] theorem Ctx.modFlow_rolling (c : Ctx) (g : FlowRegs → FlowRegs) : (c.modFlow g).rolling = c.rolling := rfl
@[simp] theorem Ctx.modFlow_kill (c : Ctx) (g : FlowRegs → FlowRegs) : (c.modFlow g).kill = c.kill := rfl
@[simp] theorem Ctx.modFlow_held (c : Ctx) (g : FlowRegs → FlowRegs) : (c.modFlow g).held = c.held := rfl
@[simp] theorem Ctx.modFlow_checkAt (c : Ctx) (g : FlowRegs → FlowRegs) : (c.modFlow g).checkAt = c.checkAt := rfl
@[simp] theorem Ctx.modFlow_late (c : Ctx) (g : FlowRegs → FlowRegs) : (c.modFlow g).late = c.late := rfl
@[simp] theorem Ctx.modFlow_narrow (c : Ctx) (g : FlowRegs → FlowRegs) : (c.modFlow g).narrow = c.narrow := rfl
@[simp] theorem Ctx.modFlow_posts (c : Ctx) (g : FlowRegs → FlowRegs) : (c.modFlow g).posts = c.posts := rfl
@[simp] theorem Ctx.modFlow_marks (c : Ctx) (g : FlowRegs → FlowRegs) : (c.modFlow g).marks = c.marks := rfl
@[simp] theorem Ctx.modFlow_stopAt (c : Ctx) (g : FlowRegs → FlowRegs) : (c.modFlow g).stopAt = c.stopAt := rfl
@[simp] theorem Ctx.modFlow_finals (c : Ctx) (g : FlowRegs → FlowRegs) : (c.modFlow g).finals = c.finals := rfl
@[simp] theorem Ctx.modFlow_life (c : Ctx) (g : FlowRegs → FlowRegs) : (c.modFlow g).life = c.life := rfl
@[simp] theorem Ctx.modFlow_ridgeAt (c : Ctx) (g : FlowRegs → FlowRegs) : (c.modFlow g).ridgeAt = c.ridgeAt := rfl
@[simp] theorem Ctx.modFlow_passes (c : Ctx) (g : FlowRegs → FlowRegs) : (c.modFlow g).passes = c.passes := rfl
@[simp] theorem Ctx.modFlow_regs_sys (c : Ctx) (g : FlowRegs → FlowRegs) : (c.modFlow g).regs.sys = c.regs.sys := rfl
@[simp] theorem Ctx.modFlow_regs_dat (c : Ctx) (g : FlowRegs → FlowRegs) : (c.modFlow g).regs.dat = c.regs.dat := rfl
@[simp] theorem Ctx.modFlow_regs_flow (c : Ctx) (g : FlowRegs → FlowRegs) : (c.modFlow g).regs.flow = g c.regs.flow := rfl
@[simp] theorem Ctx.modSys_f (c : Ctx) (g : SysRegs → SysRegs) : (c.modSys g).f = c.f := rfl
@[simp] theorem Ctx.modSys_q (c : Ctx) (g : SysRegs → SysRegs) : (c.modSys g).q = c.q := rfl
@[simp] theorem Ctx.modSys_wz (c : Ctx) (g : SysRegs → SysRegs) : (c.modSys g).wz = c.wz := rfl
@[simp] theorem Ctx.modSys_status (c : Ctx) (g : SysRegs → SysRegs) : (c.modSys g).status = c.status := rfl
@[simp] theorem Ctx.modSys_wait (c : Ctx) (g : SysRegs → SysRegs) : (c.modSys g).wait = c.wait := rfl
@[simp] theorem Ctx.modSys_run (c : Ctx) (g : SysRegs → SysRegs) : (c.modSys g).run = c.run := rfl
@[simp] theorem Ctx.modSys_wdPend (c : Ctx) (g : SysRegs → SysRegs) : (c.modSys g).wdPend = c.wdPend := rfl
@[simp] theorem Ctx.modSys_wdHeld (c : Ctx) (g : SysRegs → SysRegs) : (c.modSys g).wdHeld = c.wdHeld := rfl
@[simp] theorem Ctx.modSys_wdSeen (c : Ctx) (g : SysRegs → SysRegs) : (c.modSys g).wdSeen = c.wdSeen := rfl
@[simp] theorem Ctx.modSys_async (c : Ctx) (g : SysRegs → SysRegs) : (c.modSys g).async = c.async := rfl
@[simp] theorem Ctx.modSys_node (c : Ctx) (g : SysRegs → SysRegs) : (c.modSys g).node = c.node := rfl
@[simp] theorem Ctx.modSys_part (c : Ctx) (g : SysRegs → SysRegs) : (c.modSys g).part = c.part := rfl
@[simp] theorem Ctx.modSys_idx (c : Ctx) (g : SysRegs → SysRegs) : (c.modSys g).idx = c.idx := rfl
@[simp] theorem Ctx.modSys_lead (c : Ctx) (g : SysRegs → SysRegs) : (c.modSys g).lead = c.lead := rfl
@[simp] theorem Ctx.modSys_ctl (c : Ctx) (g : SysRegs → SysRegs) : (c.modSys g).ctl = c.ctl := rfl
@[simp] theorem Ctx.modSys_pitch (c : Ctx) (g : SysRegs → SysRegs) : (c.modSys g).pitch = c.pitch := rfl
@[simp] theorem Ctx.modSys_flights (c : Ctx) (g : SysRegs → SysRegs) : (c.modSys g).flights = c.flights := rfl
@[simp] theorem Ctx.modSys_accs (c : Ctx) (g : SysRegs → SysRegs) : (c.modSys g).accs = c.accs := rfl
@[simp] theorem Ctx.modSys_cmds (c : Ctx) (g : SysRegs → SysRegs) : (c.modSys g).cmds = c.cmds := rfl
@[simp] theorem Ctx.modSys_seq (c : Ctx) (g : SysRegs → SysRegs) : (c.modSys g).seq = c.seq := rfl
@[simp] theorem Ctx.modSys_seg (c : Ctx) (g : SysRegs → SysRegs) : (c.modSys g).seg = c.seg := rfl
@[simp] theorem Ctx.modSys_gen (c : Ctx) (g : SysRegs → SysRegs) : (c.modSys g).gen = c.gen := rfl
@[simp] theorem Ctx.modSys_arrived (c : Ctx) (g : SysRegs → SysRegs) : (c.modSys g).arrived = c.arrived := rfl
@[simp] theorem Ctx.modSys_ridging (c : Ctx) (g : SysRegs → SysRegs) : (c.modSys g).ridging = c.ridging := rfl
@[simp] theorem Ctx.modSys_rdv (c : Ctx) (g : SysRegs → SysRegs) : (c.modSys g).rdv = c.rdv := rfl
@[simp] theorem Ctx.modSys_rdvAt (c : Ctx) (g : SysRegs → SysRegs) : (c.modSys g).rdvAt = c.rdvAt := rfl
@[simp] theorem Ctx.modSys_tickets (c : Ctx) (g : SysRegs → SysRegs) : (c.modSys g).tickets = c.tickets := rfl
@[simp] theorem Ctx.modSys_colls (c : Ctx) (g : SysRegs → SysRegs) : (c.modSys g).colls = c.colls := rfl
@[simp] theorem Ctx.modSys_abort (c : Ctx) (g : SysRegs → SysRegs) : (c.modSys g).abort = c.abort := rfl
@[simp] theorem Ctx.modSys_forced (c : Ctx) (g : SysRegs → SysRegs) : (c.modSys g).forced = c.forced := rfl
@[simp] theorem Ctx.modSys_saving (c : Ctx) (g : SysRegs → SysRegs) : (c.modSys g).saving = c.saving := rfl
@[simp] theorem Ctx.modSys_rolling (c : Ctx) (g : SysRegs → SysRegs) : (c.modSys g).rolling = c.rolling := rfl
@[simp] theorem Ctx.modSys_kill (c : Ctx) (g : SysRegs → SysRegs) : (c.modSys g).kill = c.kill := rfl
@[simp] theorem Ctx.modSys_held (c : Ctx) (g : SysRegs → SysRegs) : (c.modSys g).held = c.held := rfl
@[simp] theorem Ctx.modSys_checkAt (c : Ctx) (g : SysRegs → SysRegs) : (c.modSys g).checkAt = c.checkAt := rfl
@[simp] theorem Ctx.modSys_late (c : Ctx) (g : SysRegs → SysRegs) : (c.modSys g).late = c.late := rfl
@[simp] theorem Ctx.modSys_narrow (c : Ctx) (g : SysRegs → SysRegs) : (c.modSys g).narrow = c.narrow := rfl
@[simp] theorem Ctx.modSys_posts (c : Ctx) (g : SysRegs → SysRegs) : (c.modSys g).posts = c.posts := rfl
@[simp] theorem Ctx.modSys_marks (c : Ctx) (g : SysRegs → SysRegs) : (c.modSys g).marks = c.marks := rfl
@[simp] theorem Ctx.modSys_stopAt (c : Ctx) (g : SysRegs → SysRegs) : (c.modSys g).stopAt = c.stopAt := rfl
@[simp] theorem Ctx.modSys_finals (c : Ctx) (g : SysRegs → SysRegs) : (c.modSys g).finals = c.finals := rfl
@[simp] theorem Ctx.modSys_life (c : Ctx) (g : SysRegs → SysRegs) : (c.modSys g).life = c.life := rfl
@[simp] theorem Ctx.modSys_ridgeAt (c : Ctx) (g : SysRegs → SysRegs) : (c.modSys g).ridgeAt = c.ridgeAt := rfl
@[simp] theorem Ctx.modSys_passes (c : Ctx) (g : SysRegs → SysRegs) : (c.modSys g).passes = c.passes := rfl
@[simp] theorem Ctx.modSys_regs_flow (c : Ctx) (g : SysRegs → SysRegs) : (c.modSys g).regs.flow = c.regs.flow := rfl
@[simp] theorem Ctx.modSys_regs_dat (c : Ctx) (g : SysRegs → SysRegs) : (c.modSys g).regs.dat = c.regs.dat := rfl
@[simp] theorem Ctx.modSys_regs_sys (c : Ctx) (g : SysRegs → SysRegs) : (c.modSys g).regs.sys = g c.regs.sys := rfl
@[simp] theorem Ctx.modDat_f (c : Ctx) (g : DataRegs → DataRegs) : (c.modDat g).f = c.f := rfl
@[simp] theorem Ctx.modDat_q (c : Ctx) (g : DataRegs → DataRegs) : (c.modDat g).q = c.q := rfl
@[simp] theorem Ctx.modDat_wz (c : Ctx) (g : DataRegs → DataRegs) : (c.modDat g).wz = c.wz := rfl
@[simp] theorem Ctx.modDat_status (c : Ctx) (g : DataRegs → DataRegs) : (c.modDat g).status = c.status := rfl
@[simp] theorem Ctx.modDat_wait (c : Ctx) (g : DataRegs → DataRegs) : (c.modDat g).wait = c.wait := rfl
@[simp] theorem Ctx.modDat_run (c : Ctx) (g : DataRegs → DataRegs) : (c.modDat g).run = c.run := rfl
@[simp] theorem Ctx.modDat_wdPend (c : Ctx) (g : DataRegs → DataRegs) : (c.modDat g).wdPend = c.wdPend := rfl
@[simp] theorem Ctx.modDat_wdHeld (c : Ctx) (g : DataRegs → DataRegs) : (c.modDat g).wdHeld = c.wdHeld := rfl
@[simp] theorem Ctx.modDat_wdSeen (c : Ctx) (g : DataRegs → DataRegs) : (c.modDat g).wdSeen = c.wdSeen := rfl
@[simp] theorem Ctx.modDat_async (c : Ctx) (g : DataRegs → DataRegs) : (c.modDat g).async = c.async := rfl
@[simp] theorem Ctx.modDat_node (c : Ctx) (g : DataRegs → DataRegs) : (c.modDat g).node = c.node := rfl
@[simp] theorem Ctx.modDat_part (c : Ctx) (g : DataRegs → DataRegs) : (c.modDat g).part = c.part := rfl
@[simp] theorem Ctx.modDat_idx (c : Ctx) (g : DataRegs → DataRegs) : (c.modDat g).idx = c.idx := rfl
@[simp] theorem Ctx.modDat_lead (c : Ctx) (g : DataRegs → DataRegs) : (c.modDat g).lead = c.lead := rfl
@[simp] theorem Ctx.modDat_ctl (c : Ctx) (g : DataRegs → DataRegs) : (c.modDat g).ctl = c.ctl := rfl
@[simp] theorem Ctx.modDat_pitch (c : Ctx) (g : DataRegs → DataRegs) : (c.modDat g).pitch = c.pitch := rfl
@[simp] theorem Ctx.modDat_flights (c : Ctx) (g : DataRegs → DataRegs) : (c.modDat g).flights = c.flights := rfl
@[simp] theorem Ctx.modDat_accs (c : Ctx) (g : DataRegs → DataRegs) : (c.modDat g).accs = c.accs := rfl
@[simp] theorem Ctx.modDat_cmds (c : Ctx) (g : DataRegs → DataRegs) : (c.modDat g).cmds = c.cmds := rfl
@[simp] theorem Ctx.modDat_seq (c : Ctx) (g : DataRegs → DataRegs) : (c.modDat g).seq = c.seq := rfl
@[simp] theorem Ctx.modDat_seg (c : Ctx) (g : DataRegs → DataRegs) : (c.modDat g).seg = c.seg := rfl
@[simp] theorem Ctx.modDat_gen (c : Ctx) (g : DataRegs → DataRegs) : (c.modDat g).gen = c.gen := rfl
@[simp] theorem Ctx.modDat_arrived (c : Ctx) (g : DataRegs → DataRegs) : (c.modDat g).arrived = c.arrived := rfl
@[simp] theorem Ctx.modDat_ridging (c : Ctx) (g : DataRegs → DataRegs) : (c.modDat g).ridging = c.ridging := rfl
@[simp] theorem Ctx.modDat_rdv (c : Ctx) (g : DataRegs → DataRegs) : (c.modDat g).rdv = c.rdv := rfl
@[simp] theorem Ctx.modDat_rdvAt (c : Ctx) (g : DataRegs → DataRegs) : (c.modDat g).rdvAt = c.rdvAt := rfl
@[simp] theorem Ctx.modDat_tickets (c : Ctx) (g : DataRegs → DataRegs) : (c.modDat g).tickets = c.tickets := rfl
@[simp] theorem Ctx.modDat_colls (c : Ctx) (g : DataRegs → DataRegs) : (c.modDat g).colls = c.colls := rfl
@[simp] theorem Ctx.modDat_abort (c : Ctx) (g : DataRegs → DataRegs) : (c.modDat g).abort = c.abort := rfl
@[simp] theorem Ctx.modDat_forced (c : Ctx) (g : DataRegs → DataRegs) : (c.modDat g).forced = c.forced := rfl
@[simp] theorem Ctx.modDat_saving (c : Ctx) (g : DataRegs → DataRegs) : (c.modDat g).saving = c.saving := rfl
@[simp] theorem Ctx.modDat_rolling (c : Ctx) (g : DataRegs → DataRegs) : (c.modDat g).rolling = c.rolling := rfl
@[simp] theorem Ctx.modDat_kill (c : Ctx) (g : DataRegs → DataRegs) : (c.modDat g).kill = c.kill := rfl
@[simp] theorem Ctx.modDat_held (c : Ctx) (g : DataRegs → DataRegs) : (c.modDat g).held = c.held := rfl
@[simp] theorem Ctx.modDat_checkAt (c : Ctx) (g : DataRegs → DataRegs) : (c.modDat g).checkAt = c.checkAt := rfl
@[simp] theorem Ctx.modDat_late (c : Ctx) (g : DataRegs → DataRegs) : (c.modDat g).late = c.late := rfl
@[simp] theorem Ctx.modDat_narrow (c : Ctx) (g : DataRegs → DataRegs) : (c.modDat g).narrow = c.narrow := rfl
@[simp] theorem Ctx.modDat_posts (c : Ctx) (g : DataRegs → DataRegs) : (c.modDat g).posts = c.posts := rfl
@[simp] theorem Ctx.modDat_marks (c : Ctx) (g : DataRegs → DataRegs) : (c.modDat g).marks = c.marks := rfl
@[simp] theorem Ctx.modDat_stopAt (c : Ctx) (g : DataRegs → DataRegs) : (c.modDat g).stopAt = c.stopAt := rfl
@[simp] theorem Ctx.modDat_finals (c : Ctx) (g : DataRegs → DataRegs) : (c.modDat g).finals = c.finals := rfl
@[simp] theorem Ctx.modDat_life (c : Ctx) (g : DataRegs → DataRegs) : (c.modDat g).life = c.life := rfl
@[simp] theorem Ctx.modDat_ridgeAt (c : Ctx) (g : DataRegs → DataRegs) : (c.modDat g).ridgeAt = c.ridgeAt := rfl
@[simp] theorem Ctx.modDat_passes (c : Ctx) (g : DataRegs → DataRegs) : (c.modDat g).passes = c.passes := rfl
@[simp] theorem Ctx.modDat_regs_flow (c : Ctx) (g : DataRegs → DataRegs) : (c.modDat g).regs.flow = c.regs.flow := rfl
@[simp] theorem Ctx.modDat_regs_sys (c : Ctx) (g : DataRegs → DataRegs) : (c.modDat g).regs.sys = c.regs.sys := rfl
@[simp] theorem Ctx.modDat_regs_dat (c : Ctx) (g : DataRegs → DataRegs) : (c.modDat g).regs.dat = g c.regs.dat := rfl

/-- Only the registers of the context change in a write of a register. -/
@[simp] theorem State.ctx_writeNow_same (s : State) (k : Nat) (l : Loc) (v m : Nat) :
    (s.writeNow k l v m).ctx k = (s.ctx k).modDat fun d => d.merge l v m := Tbl.getD_put_same ..
theorem State.ctx_writeNow_ne (s : State) (k j : Nat) (l : Loc) (v m : Nat) (h : j ≠ k) : (s.writeNow k l v m).ctx j = s.ctx j :=
  Tbl.getD_put_ne _ _ _ _ _ h

end Sys2Proof.Machine
end

