-- ==== Sys2Proof/Laws/Ops.lean ====
section
/-!
SUPPORT. Laws/Ops.lean: for each shared operation, everything it can do, said once.
-/
namespace Sys2Proof.Machine

/-! Registers by name. -/
/-- A write of a register that is not P0 is read back, at the register's width. -/
theorem DataRegs.get_set_same (d : DataRegs) (l : Loc) (v : Nat) (h : l.isP0 = false) : (d.set l v).get l = v % 2 ^ locBits l := by
  cases l with
  | p i =>
    have hi : ¬i.val = 0 := by simpa [Loc.isP0] using h
    simp [DataRegs.set, DataRegs.get, hi, locBits]
  | v u i => cases u <;> simp only [DataRegs.set, DataRegs.get, DataRegs.unit, DataRegs.setUnit, locBits, Fin.getElem_fin, Vector.getElem_set_self, BitVec.toNat_ofNat]
  | vn u i => cases u <;> simp only [DataRegs.set, DataRegs.get, DataRegs.unit, DataRegs.setUnit, locBits, Fin.getElem_fin, Vector.getElem_set_self, BitVec.toNat_ofNat]
  | ve u i => cases u <;> simp only [DataRegs.set, DataRegs.get, DataRegs.unit, DataRegs.setUnit, locBits, Fin.getElem_fin, Vector.getElem_set_self, BitVec.toNat_ofNat]
  | cd e i => cases e <;> simp [DataRegs.set, DataRegs.get, locBits]
  | _ => simp [DataRegs.set, DataRegs.get, locBits]
/-- Predicate 0 reads as all ones, whatever it holds. -/
theorem DataRegs.get_p0 (d : DataRegs) : d.get (.p 0) = 2 ^ 64 - 1 := rfl
theorem DataRegs.set_p0 (d : DataRegs) (v : Nat) : d.set (.p 0) v = d := rfl
/-- A register file of a unit after a write of another of its registers. -/
theorem Vector.getElem_set_fin {α : Type} {n : Nat} (v : Vector α n) (i j : Fin n) (x : α) (h : i ≠ j) : (v.set i x)[j] = v[j] := by
  simp only [Fin.getElem_fin]
  exact Vector.getElem_set_ne _ _ (fun e => h (Fin.ext e))
/-- A write of a register leaves every other register. -/
theorem DataRegs.get_set_ne (d : DataRegs) (l m : Loc) (v : Nat) (h : l ≠ m) : (d.set l v).get m = d.get m := by
  cases l with
  | s i => cases m with
    | s j => simp only [DataRegs.set, DataRegs.get, Vector.getElem_set_fin _ i j _ fun e => h (e ▸ rfl)]
    | cd e j => cases e <;> rfl
    | _ => rfl
  | sn i => cases m with
    | sn j => simp only [DataRegs.set, DataRegs.get, Vector.getElem_set_fin _ i j _ fun e => h (e ▸ rfl)]
    | cd e j => cases e <;> rfl
    | _ => rfl
  | v u i => cases m with
    | v w j =>
      cases u <;> cases w <;> first
        | rfl
        | simp only [DataRegs.set, DataRegs.get, DataRegs.unit, DataRegs.setUnit, Vector.getElem_set_fin _ i j _ fun e => h (e ▸ rfl)]
    | vn w j => cases u <;> cases w <;> rfl
    | ve w j => cases u <;> cases w <;> rfl
    | cd e j => cases u <;> cases e <;> rfl
    | _ => cases u <;> rfl
  | vn u i => cases m with
    | vn w j =>
      cases u <;> cases w <;> first
        | rfl
        | simp only [DataRegs.set, DataRegs.get, DataRegs.unit, DataRegs.setUnit, Vector.getElem_set_fin _ i j _ fun e => h (e ▸ rfl)]
    | v w j => cases u <;> cases w <;> rfl
    | ve w j => cases u <;> cases w <;> rfl
    | cd e j => cases u <;> cases e <;> rfl
    | _ => cases u <;> rfl
  | ve u i => cases m with
    | ve w j =>
      cases u <;> cases w <;> first
        | rfl
        | simp only [DataRegs.set, DataRegs.get, DataRegs.unit, DataRegs.setUnit, Vector.getElem_set_fin _ i j _ fun e => h (e ▸ rfl)]
    | v w j => cases u <;> cases w <;> rfl
    | vn w j => cases u <;> cases w <;> rfl
    | cd e j => cases u <;> cases e <;> rfl
    | _ => cases u <;> rfl
  | p i =>
    by_cases hi : i.val = 0
    · simp [DataRegs.set, hi]
    · cases m with
      | p j => simp only [DataRegs.set, DataRegs.get, if_neg hi, Vector.getElem_set_fin _ i j _ fun e => h (e ▸ rfl)]
      | cd e j => cases e <;> simp [DataRegs.set, DataRegs.get, hi]
      | v w j => cases w <;> simp [DataRegs.set, DataRegs.get, DataRegs.unit, hi]
      | vn w j => cases w <;> simp [DataRegs.set, DataRegs.get, DataRegs.unit, hi]
      | ve w j => cases w <;> simp [DataRegs.set, DataRegs.get, DataRegs.unit, hi]
      | _ => simp [DataRegs.set, DataRegs.get, hi]
  | m i => cases m with
    | m j => simp only [DataRegs.set, DataRegs.get, Vector.getElem_set_fin _ i j _ fun e => h (e ▸ rfl)]
    | cd e j => cases e <;> rfl
    | _ => rfl
  | x i => cases m with
    | x j => simp only [DataRegs.set, DataRegs.get, Vector.getElem_set_fin _ i j _ fun e => h (e ▸ rfl)]
    | cd e j => cases e <;> rfl
    | _ => rfl
  | md i => cases m with
    | md j => simp only [DataRegs.set, DataRegs.get, Vector.getElem_set_fin _ i j _ fun e => h (e ▸ rfl)]
    | cd e j => cases e <;> rfl
    | _ => rfl
  | cd u i => cases u <;> cases m with
    | cd e j => cases e <;> first
        | rfl
        | simp only [DataRegs.set, DataRegs.get, Vector.getElem_set_fin _ i j _ fun e => h (e ▸ rfl)]
    | _ => rfl
/-- A merge writes no other register. -/
theorem DataRegs.get_merge_ne (d : DataRegs) (l m : Loc) (v mask : Nat) (h : l ≠ m) : (d.merge l v mask).get m = d.get m :=
  DataRegs.get_set_ne d l m _ h

/-! Notes for the signature touch the open bundle alone. -/
theorem State.note_toWorld (s : State) (g b v : Nat) : (s.note g b v).toWorld = s.toWorld := by unfold State.note; split <;> rfl
theorem State.note_ctx (s : State) (g b v k : Nat) : (s.note g b v).ctx k = s.ctx k := by
  unfold State.ctx; rw [State.note_toWorld]
theorem State.note_agenda (s : State) (g b v : Nat) : (s.note g b v).agenda = s.agenda := by unfold State.note; split <;> rfl
theorem State.note_me (s : State) (g b v : Nat) : (s.note g b v).me = s.me := by
  unfold State.note
  split
  · unfold State.me; cases s.opened <;> rfl
  · rfl

/-! Slots of an open bundle. -/
theorem State.inBundle_open (s : State) (f : State → State) (h : s.opened.isSome = true) : s.inBundle f = .next (f s) := by
  unfold State.inBundle; cases hs : s.opened with
  | none => simp [hs] at h
  | some o => rfl
theorem State.inBundle_outside (s : State) (f : State → State) (h : s.opened = none) :
    s.inBundle f = .next ((f (s.openBundle s.cur 0 0 [])).close false) := by unfold State.inBundle; rw [h]
/-- A slot's operation always answers a state. -/
theorem State.inBundle_next (s : State) (f : State → State) : ∃ t, s.inBundle f = .next t := by
  cases h : s.opened with
  | none => exact ⟨_, State.inBundle_outside s f h⟩
  | some o => exact ⟨_, State.inBundle_open s f (by rw [h]; rfl)⟩
theorem State.slotDo_ok (s t : State) (i : Nat) (body : State → Res State) (h : body s = .ok t) : s.slotDo i body = t := by
  unfold State.slotDo; rw [h]
theorem State.slotDo_error (s : State) (i : Nat) (body : State → Res State) (e : Stop) (h : body s = .error e) :
    s.slotDo i body = s.stopSlot i e := by unfold State.slotDo; rw [h]
theorem runSlot_next (i : Nat) (g : Guard) (s : State) (body : State → Res State) : ∃ t, runSlot i g s body = .next t :=
  State.inBundle_next ..
/-- An operation guarded off does nothing. -/
theorem runSlot_off (i : Nat) (g : Guard) (s : State) (body : State → Res State) (h : s.opened.isSome = true) (hg : g.on s.pre = false) :
    runSlot i g s body = .next s := by unfold runSlot; rw [State.inBundle_open _ _ h]; simp [hg]
/-- What its body gives, if it gives a state. -/
theorem runSlot_ok (i : Nat) (g : Guard) (s t : State) (body : State → Res State) (h : s.opened.isSome = true) (hg : g.on s.pre = true)
    (hb : body s = .ok t) : runSlot i g s body = .next t := by
  unfold runSlot; rw [State.inBundle_open _ _ h]; simp [hg, State.slotDo_ok s t i body hb]
/-- What stops it is recorded in the open bundle. -/
theorem runSlot_error (i : Nat) (g : Guard) (s : State) (body : State → Res State) (e : Stop) (h : s.opened.isSome = true)
    (hg : g.on s.pre = true) (hb : body s = .error e) : runSlot i g s body = .next (s.stopSlot i e) := by
  unfold runSlot; rw [State.inBundle_open _ _ h]; simp [hg, State.slotDo_error s i body e hb]
theorem runLanes_next (u : VUnit) (g : Guard) (s : State) (body : State → Nat → Res State) : ∃ t, runLanes u g s body = .next t :=
  State.inBundle_next ..
theorem runLanes_off (u : VUnit) (g : Guard) (s : State) (body : State → Nat → Res State) (h : s.opened.isSome = true)
    (hg : g.lanes s.pre = 0) : runLanes u g s body = .next s := by unfold runLanes; rw [State.inBundle_open _ _ h]; simp [hg]
theorem runLanes_ok (u : VUnit) (g : Guard) (s t : State) (body : State → Nat → Res State) (h : s.opened.isSome = true)
    (hg : g.lanes s.pre ≠ 0) (hb : body s (g.lanes s.pre) = .ok t) : runLanes u g s body = .next t := by
  unfold runLanes; rw [State.inBundle_open _ _ h]; simp only [if_neg hg]
  rw [State.slotDo_ok s t u.slot _ hb]
theorem runLanes_error (u : VUnit) (g : Guard) (s : State) (body : State → Nat → Res State) (e : Stop) (h : s.opened.isSome = true)
    (hg : g.lanes s.pre ≠ 0) (hb : body s (g.lanes s.pre) = .error e) : runLanes u g s body = .next (s.stopSlot u.slot e) := by
  unfold runLanes; rw [State.inBundle_open _ _ h]; simp only [if_neg hg]
  rw [State.slotDo_error s u.slot _ e hb]
/-- A privileged operation traps on a mesh core, and in an open segment. -/
theorem runPriv_mesh (g : Guard) (s : State) (body : State → Res State) (h : s.opened.isSome = true) (hg : g.on s.pre = true)
    (hm : isMesh s.me = true) : runPriv g s body = .next (s.raise 2 2 0 none) :=
  runSlot_error 2 g s _ (.trap 2 0) h hg (by simp [hm])
theorem runPriv_seg (g : Guard) (s : State) (body : State → Res State) (h : s.opened.isSome = true) (hg : g.on s.pre = true)
    (hm : isMesh s.me = false) (hs : s.pre.seg.isSome = true) : runPriv g s body = .next (s.raise 2 18 0 none) :=
  runSlot_error 2 g s _ (.trap 18 0) h hg (by simp [hm, State.noSeg, hs])
theorem runPriv_ok (g : Guard) (s t : State) (body : State → Res State) (h : s.opened.isSome = true) (hg : g.on s.pre = true)
    (hm : isMesh s.me = false) (hs : s.pre.seg = none) (hb : body s = .ok t) : runPriv g s body = .next t :=
  runSlot_ok 2 g s t _ h hg (by simp [hm, State.noSeg, hs, hb])
/-- A command guarded off takes its number. -/
theorem runCmd_off (i : Nat) (e : Fin 3) (g : Guard) (s : State) (body : State → Res Cmd) (h : s.opened.isSome = true)
    (hg : g.on s.pre = false) : runCmd i e g s body = .next (s.takeNumber e) := by
  unfold runCmd; rw [State.inBundle_open _ _ h]; simp [hg]
/-- A full queue stalls. -/
theorem runCmd_full (i : Nat) (e : Fin 3) (g : Guard) (s : State) (body : State → Res Cmd) (h : s.opened.isSome = true)
    (hg : g.on s.pre = true) (hf : 64 ≤ s.pre.pendingOf e) : runCmd i e g s body = .next (s.holdSlot i false none) := by
  unfold runCmd; rw [State.inBundle_open _ _ h]; simp only [hg, if_true]
  rw [State.slotDo_error s i _ .stall (by simp [hf])]; rfl
theorem runCmd_ok (i : Nat) (e : Fin 3) (g : Guard) (s : State) (body : State → Res Cmd) (m : Cmd) (h : s.opened.isSome = true)
    (hg : g.on s.pre = true) (hf : s.pre.pendingOf e < 64) (hb : body s = .ok m) : runCmd i e g s body = .next (s.enqueue m) := by
  unfold runCmd; rw [State.inBundle_open _ _ h]; simp only [hg, if_true]
  rw [State.slotDo_ok s (s.enqueue m) i _ (by simp [Nat.not_le.mpr hf, hb]; rfl)]
theorem runCmd_error (i : Nat) (e : Fin 3) (g : Guard) (s : State) (body : State → Res Cmd) (x : Stop) (h : s.opened.isSome = true)
    (hg : g.on s.pre = true) (hf : s.pre.pendingOf e < 64) (hb : body s = .error x) : runCmd i e g s body = .next (s.stopSlot i x) := by
  unfold runCmd; rw [State.inBundle_open _ _ h]; simp only [hg, if_true]
  rw [State.slotDo_error s i _ x (by simp [Nat.not_le.mpr hf, hb]; rfl)]

/-! Events. -/
theorem occur_open (s : State) (f : State → Option State) (h : s.opened.isSome = true) : occur s f = .next s := by simp [occur, h]
theorem occur_none (s : State) (f : State → Option State) (h : f s = none) : occur s f = .next s := by
  unfold occur; split <;> simp [h]
theorem occur_some (s t : State) (f : State → Option State) (ho : s.opened = none) (h : f s = some t) : occur s f = .next t := by
  simp [occur, ho, h]
/-- An event always answers a state: its own effect, or the state as it was. -/
theorem occur_cases (s : State) (f : State → Option State) : occur s f = .next s ∨ ∃ t, s.opened = none ∧ f s = some t ∧ occur s f = .next t := by
  cases ho : s.opened with
  | some o => exact .inl (occur_open s f (by rw [ho]; rfl))
  | none => cases hf : f s with
    | none => exact .inl (occur_none s f hf)
    | some t => exact .inr ⟨t, rfl, rfl, occur_some s t f ho hf⟩

/-! Results. -/
/-- Where a result may be written at all, and what a write is. -/
theorem State.wr_cases (s t : State) (l : Option Loc) (v mask : Nat) (cls : Fin 5) (L : Nat) (h : s.wr l v mask cls L = .ok t) :
    (l = none ∧ t = s) ∨ ∃ m, l = some m ∧ s.pre.locked m = false ∧
      t = (s.result s.me m v mask cls L false false).note 3 (locBits m / 8) v := by
  unfold State.wr at h
  cases l with
  | none => exact .inl ⟨rfl, (Except.ok.inj h).symm⟩
  | some m =>
    right
    by_cases hl : s.pre.locked m = true
    · simp [hl] at h
    · simp only [Bool.not_eq_true] at hl
      refine ⟨m, rfl, hl, ?_⟩
      simpa [hl] using h.symm
theorem State.wr_ok (s : State) (m : Loc) (v mask : Nat) (cls : Fin 5) (L : Nat) (h : s.pre.locked m = false) :
    s.wr (some m) v mask cls L = .ok ((s.result s.me m v mask cls L false false).note 3 (locBits m / 8) v) := by
  simp [State.wr, h]
theorem State.wr_void (s : State) (v mask : Nat) (cls : Fin 5) (L : Nat) : s.wr none v mask cls L = .ok s := rfl
/-- A write over an interlocked result that has still to land stalls. -/
theorem State.wr_locked (s : State) (m : Loc) (v mask : Nat) (cls : Fin 5) (L : Nat) (h : s.pre.locked m = true) :
    s.wr (some m) v mask cls L = .error .stall := by simp [State.wr, h]
/-- What a result can do: nothing to P0; be written at once; or, with a free value where it meets a result in flight, go in flight. -/
theorem State.result_cases (s : State) (k : Nat) (l : Loc) (v mask : Nat) (cls : Fin 5) (L : Nat) (lock long : Bool) :
    (l.isP0 = true ∧ s.result k l v mask cls L lock long = s) ∨
    s.result k l v mask cls L lock long = s.writeNow k l v mask ∨
    ∃ (u : State) (due : Nat), (u = s ∨ ∃ x y, u = ({ s with fresh := s.fresh + 1 } : State).writeNow k l x y) ∧
      s.result k l v mask cls L lock long = u.modCtx k fun c => { c with flights := c.flights ++ [⟨l, v, mask, cls, due, lock, long⟩] } := by
  unfold State.result State.resultBy
  split
  · exact .inl ⟨‹_›, rfl⟩
  · right
    dsimp only
    split
    · exact .inl rfl
    · right
      split
      · exact ⟨_, _, .inr ⟨_, _, rfl⟩, rfl⟩
      · exact ⟨_, _, .inl rfl, rfl⟩
/-- A result leaves memory and every other context. -/
theorem State.result_frame (s : State) (k : Nat) (l : Loc) (v mask : Nat) (cls : Fin 5) (L : Nat) (lock long : Bool) :
    (s.result k l v mask cls L lock long).mem = s.mem ∧ (s.result k l v mask cls L lock long).opened = s.opened ∧
      ∀ j, j ≠ k → (s.result k l v mask cls L lock long).ctx j = s.ctx j := by
  rcases State.result_cases s k l v mask cls L lock long with ⟨-, h⟩ | h | ⟨u, due, (rfl | ⟨x, y, rfl⟩), h⟩ <;> rw [h]
  · exact ⟨rfl, rfl, fun _ _ => rfl⟩
  · exact ⟨rfl, rfl, fun j hj => State.ctx_writeNow_ne s k j l v mask hj⟩
  · exact ⟨rfl, rfl, fun j hj => State.ctx_modCtx_ne _ k j _ hj⟩
  · exact ⟨rfl, rfl, fun j hj => (State.ctx_modCtx_ne _ k j _ hj).trans (State.ctx_writeNow_ne _ k j l x y hj)⟩

/-! Landing. -/
theorem State.ctx_free (s : State) (j : Nat) : (s.free).2.ctx j = s.ctx j := rfl
/-- A landing does nothing, or takes the result off the list and writes its bits, or also writes a free value where another result
in flight covers them. -/
theorem State.landFlight_cases (s : State) (k i : Nat) :
    s.landFlight k i = s ∨ ∃ c l v m, s.landFlight k i = (s.setCtx k c).writeNow k l v m ∨
      ∃ x y, s.landFlight k i = (((s.setCtx k c).writeNow k l v m).free).2.writeNow k l x y := by
  unfold State.landFlight
  cases h : (s.ctx k).flights[i]? with
  | none => exact .inl (by simp only [h])
  | some f =>
    right
    simp only [h]
    generalize (if (s.ctx k).exact = true then 0 else
      List.foldl (fun m g => if g.loc = f.loc then m ||| (g.mask &&& f.mask) else m) 0 ((s.ctx k).flights.eraseIdx i)) = b
    split
    · exact ⟨_, _, _, _, .inl rfl⟩
    · exact ⟨_, _, _, _, .inr ⟨_, _, rfl⟩⟩
theorem State.landFlight_frame (s : State) (k i : Nat) :
    (s.landFlight k i).mem = s.mem ∧ (s.landFlight k i).opened = s.opened ∧ (s.landFlight k i).cores = s.cores ∧
      ∀ j, j ≠ k → (s.landFlight k i).ctx j = s.ctx j := by
  rcases State.landFlight_cases s k i with h | ⟨c, l, v, m, h | ⟨x, y, h⟩⟩ <;> rw [h]
  · exact ⟨rfl, rfl, rfl, fun _ _ => rfl⟩
  · exact ⟨rfl, rfl, rfl, fun j hj => (State.ctx_writeNow_ne _ k j l v m hj).trans (State.ctx_setCtx_ne _ k j c hj)⟩
  · refine ⟨rfl, rfl, rfl, fun j hj => ?_⟩
    rw [State.ctx_writeNow_ne _ k j l x y hj, State.ctx_free, State.ctx_writeNow_ne _ k j l v m hj, State.ctx_setCtx_ne _ k j c hj]
theorem State.landAllFlights_frame (s : State) (k : Nat) :
    (s.landAllFlights k).mem = s.mem ∧ ∀ j, j ≠ k → (s.landAllFlights k).ctx j = s.ctx j :=
  foldl_keeps (fun t : State => t.mem = s.mem ∧ ∀ j, j ≠ k → t.ctx j = s.ctx j) _ _ s ⟨rfl, fun _ _ => rfl⟩ fun t _ ht =>
    ⟨(State.landFlight_frame t k 0).1.trans ht.1, fun j hj => ((State.landFlight_frame t k 0).2.2.2 j hj).trans (ht.2 j hj)⟩
theorem State.landDue_frame (s : State) (k n : Nat) :
    (s.landDue k n).mem = s.mem ∧ ∀ j, j ≠ k → (s.landDue k n).ctx j = s.ctx j :=
  foldl_keeps (fun t : State => t.mem = s.mem ∧ ∀ j, j ≠ k → t.ctx j = s.ctx j) _ _ s ⟨rfl, fun _ _ => rfl⟩ fun t f ht => by
    split
    · split
      · exact ⟨(State.landFlight_frame t k _).1.trans ht.1, fun j hj => ((State.landFlight_frame t k _).2.2.2 j hj).trans (ht.2 j hj)⟩
      · exact ht
    · exact ht
theorem State.canon_landAll (s : State) (k : Nat) (h : s.Canon) : (s.landAll k).Canon := by
  have h1 : ((s.performLoads k).landAllFlights k).Canon :=
    State.canon_of_mem (State.canon_performLoads s k h) (State.landAllFlights_frame _ k).1
  unfold State.landAll
  dsimp only
  split <;> exact h1

/-! Meters and charges touch the meters, energies and charges alone. -/
theorem State.charge_frame (s : State) (core p nJ : Nat) :
    (s.charge core p nJ).mem = s.mem ∧ (s.charge core p nJ).ctxs = s.ctxs ∧ (s.charge core p nJ).opened = s.opened := ⟨rfl, rfl, rfl⟩
theorem State.ctx_meterBytes (s : State) (plain part key n k : Nat) : (s.meterBytes plain part key n).ctx k = s.ctx k := by
  unfold State.meterBytes
  dsimp only
  split
  · rfl
  · split <;> rfl

/-! Taking a trap, and returning. -/
/-- Below level 2 a trap changes the context's level, banks and flow registers, after its results have landed. -/
theorem State.takeTrap_taken (s : State) (k cause : Nat) (val : Word) (mask : BitVec 8) (async : Bool)
    (h : ((s.landAll k).ctx k).regs.sys.tl < 2) :
    ∃ c, s.takeTrap k cause val mask async = (s.landAll k).setCtx k c ∧ c.regs.dat = ((s.landAll k).ctx k).regs.dat ∧
      c.status = ((s.landAll k).ctx k).status := by
  unfold State.takeTrap
  simp only [if_neg (Nat.not_le.mpr h)]
  exact ⟨_, rfl, rfl, rfl⟩
/-- A return changes the context alone. -/
theorem State.rttArrive_frame (s : State) (k L : Nat) :
    (s.rttArrive k L).mem = s.mem ∧ (s.rttArrive k L).cores = s.cores ∧ ∀ j, j ≠ k → (s.rttArrive k L).ctx j = s.ctx j :=
  ⟨rfl, rfl, fun j hj => State.ctx_modCtx_ne s k j _ hj⟩

/-! The end of a bundle. -/
theorem State.revert_toWorld (s : State) (w : World) : (s.revert w).toWorld = w := rfl
/-- A bundle with a blocking condition blocks, with a stall stalls, with a condition traps; else it commits or halts. -/
theorem Open.verdict_commit (o : Open) (h1 : o.holds = []) (h2 : o.raised = []) (h3 : o.halt = none) : o.verdict = .commit := by
  simp [Open.verdict, h1, h2, h3, lowest]
theorem Open.verdict_block (o : Open) (h : o.holds.any (·.block) = true) : ∃ m, o.verdict = .block m := by
  unfold Open.verdict; rw [if_pos h]; exact ⟨_, rfl⟩
theorem Open.verdict_stall (o : Open) (h : o.holds.any (·.block) = false) (hn : o.holds ≠ []) :
    o.verdict = .stall (o.holds.filterMap (·.page)) := by simp [Open.verdict, h, hn]

end Sys2Proof.Machine
end

