-- ==== Sys2Proof/Tests/Slice0.lean ====
section
/-!
SUPPORT. Tests/Slice0.lean: checks of the model. Words are laid out from the encoding tables of the spec (R91, R92, R93, R108, Tables 9-3
and 9-7); expected results are worked out from the rules that each test names; the last part shows, for every statement with premises, a
state and operands that meet them.
-/
namespace Sys2Proof.Tests
open Machine
set_option maxRecDepth 20000
set_option Elab.async false
noncomputable section

/-- Every word decodes in its slot to the instruction beside it. -/
def readsAs (l : List (Slot × Nat × Instr)) : Bool :=
  l.all fun x => match decode x.1 (BitVec.ofNat 32 x.2.1) with | .ok i => decide (i = x.2.2) | .error _ => false
def flow1Words : List (Slot × Nat × Instr) :=
  [(.f, 0, .nopF),
   (.f, 0b000001_1_011_10_10110000000110101000, .prep ⟨⟨true, 3⟩, 2, 0xb01a8⟩),
   (.f, 0b000010_0_101_00_00000000000000_011111, .prepm ⟨⟨false, 5⟩, 0, 31⟩),
   (.f, 0b000011_1_011_00_1101_0110_1101_0100_1011, .bt ⟨⟨true, 3⟩, 13, 6, 13, 4, 11⟩),
   (.f, 0b000100_0_101_1010010100101000101111, .j ⟨⟨false, 5⟩, 0x294a2f⟩),
   (.f, 0b000101_1_011_01_00000000000000000000, .call ⟨⟨true, 3⟩, 1⟩),
   (.f, 0b000110_0_101_0000000000000000000000, .ret ⟨⟨false, 5⟩⟩),
   (.f, 0b000111_1_011_101_0000000000000_111111, .loop ⟨⟨true, 3⟩, 5, 63⟩),
   (.f, 0b001000_0_101_0101_0_000_10001101000101, .setlc ⟨⟨false, 5⟩, 5, .imm 0x2345⟩),
   (.f, 0b001001_1_011_10_101_00000000000000000, .spl ⟨⟨true, 3⟩, 2, 5⟩),
   (.f, 0b001010_0_101_1111_1_000_00000000000000, .wait ⟨⟨false, 5⟩, 15, .lit⟩),
   (.f, 0b001011_1_011_0000_1_000_00000000000000, .post ⟨⟨true, 3⟩, 0, .lit⟩),
   (.f, 0b001100_0_101_1001_1_110_00000000000000, .postr ⟨⟨false, 5⟩, 9, 6, .lit⟩),
   (.f, 0b001101_1_011_10_1_0_00_0001001000110100, .tlw ⟨⟨true, 3⟩, 2, true, .imm 0x1234⟩),
   (.f, 0b001110_0_101_0110_1_000_00000000000000, .bbset ⟨⟨false, 5⟩, 6, .lit⟩),
   (.f, 0b001111_1_011_0100_000000000000000000, .bbwait ⟨⟨true, 3⟩, 4⟩),
   (.f, 0b010000_0_101_0000000000000000000000, .ridge ⟨⟨false, 5⟩⟩),
   (.f, 0b010001_1_011_00000000000000_10110110, .seg ⟨⟨true, 3⟩, 0xb6⟩),
   (.f, 0b010010_0_101_0000000000000000000000, .rdv ⟨⟨false, 5⟩⟩),
   (.f, 0b010011_1_011_000000_1110011000110111, .trap ⟨⟨true, 3⟩, 0xe637⟩),
   (.f, 0b010100_0_101_0000000000000000000000, .rtt ⟨⟨false, 5⟩⟩),
   (.f, 0b010101_1_011_0000000000000000000000, .endF ⟨⟨true, 3⟩⟩),
   (.f, 0b010110_0_101_0000000000000000000000, .yield ⟨⟨false, 5⟩⟩),
   (.f, 0b010111_1_011_101_0000000000000000000, .drain ⟨⟨true, 3⟩, 5⟩),
   (.f, 0b010111_0_101_010_1000000000000000000, .drainE ⟨⟨false, 5⟩, 2⟩),
   (.f, 0b011000_1_011_011_000000000000000_1001, .clkdiv ⟨⟨true, 3⟩, 3, 9⟩),
   (.f, 0b011001_0_101_0001_000000000000_001000, .launch ⟨⟨false, 5⟩, 1, 8⟩),
   (.f, 0b011010_1_011_111_0000000000000_010110, .send ⟨⟨true, 3⟩, 7, 22⟩),
   (.f, 0b011011_0_101_010_0101_000000000_011101, .getmF ⟨⟨false, 5⟩, 2, 5, 29⟩),
   (.f, 0b011100_1_011_101_011_0000000000_100100, .epi ⟨⟨true, 3⟩, 5, 3, 36⟩)]
theorem test_decode_flow1 : readsAs flow1Words = true := by decide +kernel
def flow2Words : List (Slot × Nat × Instr) :=
  [(.f, 0b011101_0_101_011_0000000000000000000, .wdog ⟨⟨false, 5⟩, 3⟩),
   (.f, 0b011110_1_011_010_0000000000000000000, .hbeat ⟨⟨true, 3⟩, 2⟩),
   (.f, 0b011111_0_101_001_000_0010100101000001, .capq ⟨⟨false, 5⟩, 1, 0x2941⟩),
   (.f, 0b100000_1_011_111_00000000000000000_10, .pitchq ⟨⟨true, 3⟩, 7, 2⟩),
   (.f, 0b100001_0_101_000000_0010001111000100, .sleep ⟨⟨false, 5⟩, 0x23c4⟩),
   (.f, 0b100010_1_011_000000_0111011101000101, .brk ⟨⟨true, 3⟩, 0x7745⟩)]
theorem test_decode_flow2 : readsAs flow2Words = true := by decide +kernel
def scalar1Words : List (Slot × Nat × Instr) :=
  [(.s, 0, .scalarNop),
   (.s, 0b0000001_1_011_01001_11000_11000_00000_1, .add ⟨⟨true, 3⟩, .r 9, .lit, .lit, true⟩),
   (.s, 0b0000010_0_101_00001_11000_11000_00000_1, .sub ⟨⟨false, 5⟩, .r 1, .lit, .lit, true⟩),
   (.s, 0b0000011_1_011_0_0010_0000110111010000, .addi ⟨⟨true, 3⟩, false, 2, 0xdd0⟩),
   (.s, 0b0000100_0_101_0_0111_0000100001010011, .movi ⟨⟨false, 5⟩, false, 7, 0x853⟩),
   (.s, 0b0000101_1_011_0_1100_0000001011010110, .movhi ⟨⟨true, 3⟩, false, 12, 0x2d6⟩),
   (.s, 0b0000110_0_101_10001_11000_11000_00000_0, .mul ⟨⟨false, 5⟩, .n 1, .lit, .lit, false⟩),
   (.s, 0b0000111_1_011_01111_11000_11000_00000_1, .mulh ⟨⟨true, 3⟩, .r 15, .lit, .lit, true⟩),
   (.s, 0b0001000_0_101_01001_11000_11000_00000_1, .mulhu ⟨⟨false, 5⟩, .r 9, .lit, .lit, true⟩),
   (.s, 0b0001001_1_011_00001_11000_11000_00000_0, .div ⟨⟨true, 3⟩, .r 1, .lit, .lit, false⟩),
   (.s, 0b0001010_0_101_11001_11000_11000_00000_1, .divu ⟨⟨false, 5⟩, .void, .lit, .lit, true⟩),
   (.s, 0b0001011_1_011_10001_11000_11000_00000_1, .rem ⟨⟨true, 3⟩, .n 1, .lit, .lit, true⟩),
   (.s, 0b0001100_0_101_01111_11000_11000_00000_0, .remu ⟨⟨false, 5⟩, .r 15, .lit, .lit, false⟩),
   (.s, 0b0001101_1_011_01001_11000_11000_00000_1, .and ⟨⟨true, 3⟩, .r 9, .lit, .lit, true⟩),
   (.s, 0b0001110_0_101_00001_11000_11000_00000_1, .or ⟨⟨false, 5⟩, .r 1, .lit, .lit, true⟩),
   (.s, 0b0001111_1_011_11001_11000_11000_00000_0, .xor ⟨⟨true, 3⟩, .void, .lit, .lit, false⟩),
   (.s, 0b0010000_0_101_10001_11000_11000_00000_1, .andn ⟨⟨false, 5⟩, .n 1, .lit, .lit, true⟩),
   (.s, 0b0010001_1_011_01111_11000_0000000000_1, .not ⟨⟨true, 3⟩, .r 15, .lit, true⟩),
   (.s, 0b0010010_0_101_00001_11000_11000_00000_1, .shl ⟨⟨false, 5⟩, .r 1, .lit, .lit, true⟩),
   (.s, 0b0010011_1_011_11001_11000_11000_00000_0, .shr ⟨⟨true, 3⟩, .void, .lit, .lit, false⟩),
   (.s, 0b0010100_0_101_10001_11000_11000_00000_1, .sar ⟨⟨false, 5⟩, .n 1, .lit, .lit, true⟩),
   (.s, 0b0010101_1_011_01111_11000_11000_00000_1, .rot ⟨⟨true, 3⟩, .r 15, .lit, .lit, true⟩),
   (.s, 0b0010110_0_101_01001_11000_11000_00000_0, .fsh ⟨⟨false, 5⟩, .r 9, .lit, .lit, false⟩),
   (.s, 0b0010111_1_011_00001_11000_11000_00000_1, .bfx ⟨⟨true, 3⟩, .r 1, .lit, .lit, true⟩),
   (.s, 0b0011000_0_101_11001_11000_11000_00000_1, .bfxs ⟨⟨false, 5⟩, .void, .lit, .lit, true⟩),
   (.s, 0b0011001_1_011_10001_11000_11000_00000_0, .bfi ⟨⟨true, 3⟩, .n 1, .lit, .lit, false⟩),
   (.s, 0b0011010_0_101_01111_11000_0000000000_0, .clz ⟨⟨false, 5⟩, .r 15, .lit, false⟩),
   (.s, 0b0011011_1_011_00001_11000_0000000000_0, .ctz ⟨⟨true, 3⟩, .r 1, .lit, false⟩),
   (.s, 0b0011100_0_101_10001_11000_0000000000_0, .popc ⟨⟨false, 5⟩, .n 1, .lit, false⟩),
   (.s, 0b0011101_1_011_01001_11000_11000_00000_1, .min ⟨⟨true, 3⟩, .r 9, .lit, .lit, true⟩)]
theorem test_decode_scalar1 : readsAs scalar1Words = true := by decide +kernel
def scalar2Words : List (Slot × Nat × Instr) :=
  [(.s, 0b0011110_0_101_00001_11000_11000_00000_1, .max ⟨⟨false, 5⟩, .r 1, .lit, .lit, true⟩),
   (.s, 0b0011111_1_011_11001_11000_11000_00000_0, .minu ⟨⟨true, 3⟩, .void, .lit, .lit, false⟩),
   (.s, 0b0100000_0_101_10001_11000_11000_00000_1, .maxu ⟨⟨false, 5⟩, .n 1, .lit, .lit, true⟩),
   (.s, 0b0100001_1_011_01111_11000_11000_00_111_0, .sel ⟨⟨true, 3⟩, .r 15, .lit, .lit, 7, false⟩),
   (.s, 0b0100010_0_101_00101_11000_11000_00000_1, .cmpeq ⟨⟨false, 5⟩, 5, .lit, .lit, true⟩),
   (.s, 0b0100011_1_011_00001_11000_11000_00000_1, .cmpne ⟨⟨true, 3⟩, 1, .lit, .lit, true⟩),
   (.s, 0b0100100_0_101_00101_11000_11000_00000_0, .cmplt ⟨⟨false, 5⟩, 5, .lit, .lit, false⟩),
   (.s, 0b0100101_1_011_00001_11000_11000_00000_1, .cmple ⟨⟨true, 3⟩, 1, .lit, .lit, true⟩),
   (.s, 0b0100110_0_101_00101_11000_11000_00000_1, .cmpltu ⟨⟨false, 5⟩, 5, .lit, .lit, true⟩),
   (.s, 0b0100111_1_011_00001_11000_11000_00000_0, .cmpleu ⟨⟨true, 3⟩, 1, .lit, .lit, false⟩),
   (.s, 0b0101000_0_101_1_100_1011_010_1001100000, .cmpi ⟨⟨false, 5⟩, true, 4, 11, 2, 0x260⟩),
   (.s, 0b0101001_1_011_00000_00111_00110_000000, .pand ⟨⟨true, 3⟩, 0, 7, 6⟩),
   (.s, 0b0101010_0_101_00101_00100_00011_000000, .por ⟨⟨false, 5⟩, 5, 4, 3⟩),
   (.s, 0b0101011_1_011_00010_00001_00000_000000, .pxor ⟨⟨true, 3⟩, 2, 1, 0⟩),
   (.s, 0b0101100_0_101_00111_00110_00000000000, .pnot ⟨⟨false, 5⟩, 7, 6⟩),
   (.s, 0b0101101_1_011_00101_00100_00000000000, .pmov ⟨⟨true, 3⟩, 5, 4⟩),
   (.s, 0b0101110_0_101_11001_11000_11000_00_011_1, .fadd ⟨⟨false, 5⟩, .void, .lit, .lit, .rup, true⟩),
   (.s, 0b0101111_1_011_11001_11000_11000_00_010_1, .fsub ⟨⟨true, 3⟩, .void, .lit, .lit, .rdn, true⟩),
   (.s, 0b0110000_0_101_11001_11000_11000_00_001_0, .fmul ⟨⟨false, 5⟩, .void, .lit, .lit, .rz, false⟩),
   (.s, 0b0110001_1_011_11001_11000_11000_00_011_1, .fma ⟨⟨true, 3⟩, .void, .lit, .lit, .rup, true⟩),
   (.s, 0b0110010_0_101_11001_11000_11000_00_010_1, .fdiv ⟨⟨false, 5⟩, .void, .lit, .lit, .rdn, true⟩),
   (.s, 0b0110011_1_011_11001_11000_0000000_011_1, .fsqrt ⟨⟨true, 3⟩, .void, .lit, .rup, true⟩),
   (.s, 0b0110100_0_101_10001_11000_0_1011_0101_10, .fcvt ⟨⟨false, 5⟩, .n 1, .lit, 11, 5, .rdn⟩),
   (.s, 0b0110101_1_011_00100_11000_11000_00_100_1, .fcmp ⟨⟨true, 3⟩, 4, .lit, .lit, 4, true⟩),
   (.s, 0b0110110_0_101_11001_11000_11000_00000_0, .fmin ⟨⟨false, 5⟩, .void, .lit, .lit, false⟩),
   (.s, 0b0110111_1_011_10001_11000_11000_00000_1, .fmax ⟨⟨true, 3⟩, .n 1, .lit, .lit, true⟩),
   (.s, 0b0111000_0_101_01111_11000_11000_0000_01, .ld ⟨⟨false, 5⟩, .r 15, .lit, .lit, 1⟩),
   (.s, 0b0111001_1_011_01001_11000_11000_0000_01, .lds ⟨⟨true, 3⟩, .r 9, .lit, .lit, 1⟩),
   (.s, 0b0111010_0_101_00001_11000_11000_0000_01, .st ⟨⟨false, 5⟩, .r 1, .lit, .lit, 1⟩),
   (.s, 0b0111011_1_011_1_0011_0010111100100111, .ldl ⟨⟨true, 3⟩, true, 3, 0x2f27⟩)]
theorem test_decode_scalar2 : readsAs scalar2Words = true := by decide +kernel
def scalar3Words : List (Slot × Nat × Instr) :=
  [(.s, 0b0111100_0_101_00000_11000_11000_000000, .invl ⟨⟨false, 5⟩, .lit, .lit⟩),
   (.s, 0b0111101_1_011_000000000000000000000, .fll1 ⟨⟨true, 3⟩⟩),
   (.s, 0b0111110_0_101_11001_11000_11000_00000_1, .aadd ⟨⟨false, 5⟩, .void, .lit, .lit, true⟩),
   (.s, 0b0111111_1_011_10001_11000_11000_00000_1, .axchg ⟨⟨true, 3⟩, .n 1, .lit, .lit, true⟩),
   (.s, 0b1000000_0_101_01111_11000_11000_00000_0, .acas ⟨⟨false, 5⟩, .r 15, .lit, .lit, false⟩),
   (.s, 0b1000001_1_011_01001_11000_11000_0000_1_1, .amin ⟨⟨true, 3⟩, .r 9, .lit, .lit, true, true⟩),
   (.s, 0b1000010_0_101_01001_11000_11000_0000_0_1, .amax ⟨⟨false, 5⟩, .r 9, .lit, .lit, false, true⟩),
   (.s, 0b1000011_1_011_01001_11000_11000_00000_1, .aand ⟨⟨true, 3⟩, .r 9, .lit, .lit, true⟩),
   (.s, 0b1000100_0_101_00001_11000_11000_00000_0, .aor ⟨⟨false, 5⟩, .r 1, .lit, .lit, false⟩),
   (.s, 0b1000101_1_011_11001_11000_11000_00000_1, .afadd ⟨⟨true, 3⟩, .void, .lit, .lit, true⟩),
   (.s, 0b1000110_0_101_10001_00000_10100_011011, .scalarGetm ⟨⟨false, 5⟩, .n 1, 20, 27⟩),
   (.s, 0b1000111_1_011_00010_11000_00000_110000, .scalarPutm ⟨⟨true, 3⟩, 2, .lit, 48⟩),
   (.s, 0b1001000_0_101_10001_11000_000000_1_0_011, .scalarXfer ⟨⟨false, 5⟩, 17, .lit, true, 3⟩),
   (.s, 0b1001001_1_011_00001_0000000000_100111, .mfs ⟨⟨true, 3⟩, .r 1, 39⟩),
   (.s, 0b1001010_0_101_00000_11000_00000_001110, .mts ⟨⟨false, 5⟩, .lit, 14⟩),
   (.s, 0b1100100_1_011_01111_11000_00000000000, .tlbinvPage ⟨⟨true, 3⟩, .r 15, .lit⟩),
   (.s, 0b1100100_0_101_11001_11000_11000_000001, .tlbinvRange ⟨⟨false, 5⟩, .void, .lit, .lit⟩),
   (.s, 0b1100100_1_011_01111_11000_00000000010, .tlbinvAll ⟨⟨true, 3⟩, .r 15, .lit⟩),
   (.s, 0b1100101_0_101_11001_0000000000000000, .tlbsync ⟨⟨false, 5⟩, .void⟩),
   (.s, 0b1100110_1_011_00001_11000_0000000_0010, .ctxsave ⟨⟨true, 3⟩, .r 1, .lit, 2⟩),
   (.s, 0b1100111_0_101_10001_11000_11000_00_1110, .ctxload ⟨⟨false, 5⟩, .n 1, .lit, .lit, 14⟩),
   (.s, 0b1101000_1_011_01111_11000_11000_000000, .ctxkill ⟨⟨true, 3⟩, .r 15, .lit, .lit⟩),
   (.s, 0b1101001_0_101_00001_11000_0000000_1000, .partsetCreate ⟨⟨false, 5⟩, .r 1, .lit, 8⟩),
   (.s, 0b1101001_1_011_10001_11000_0000001_1101, .partsetUpdate ⟨⟨true, 3⟩, .n 1, .lit, 13⟩),
   (.s, 0b1101001_0_101_01001_11000_0000010_0010, .partsetStop ⟨⟨false, 5⟩, .r 9, .lit, 2⟩),
   (.s, 0b1101001_1_011_11001_11000_0000011_0111, .partsetDestroy ⟨⟨true, 3⟩, .void, .lit, 7⟩),
   (.s, 0b1101010_0_101_01111_11000_11000_000000, .wayset ⟨⟨false, 5⟩, .r 15, .lit, .lit⟩),
   (.s, 0b1101011_1_011_00001_11000_11000_00_1000, .zeroMem ⟨⟨true, 3⟩, .r 1, .lit, .lit, 8⟩),
   (.s, 0b1101011_0_101_11001_11000_11000_01_0100, .zeroBanks ⟨⟨false, 5⟩, .void, .lit, .lit, 4⟩),
   (.s, 0b1101011_1_011_10001_11000_11000_10_0000, .zeroCarr ⟨⟨true, 3⟩, .n 1, .lit, .lit, 0⟩)]
theorem test_decode_scalar3 : readsAs scalar3Words = true := by decide +kernel
def scalar4Words : List (Slot × Nat × Instr) :=
  [(.s, 0b1101011_0_101_01111_11000_11000_11_1100, .zeroL2 ⟨⟨false, 5⟩, .r 15, .lit, .lit, 12⟩),
   (.s, 0b1101100_1_011_01001_11000_0000000_0001, .lease ⟨⟨true, 3⟩, .r 9, .lit, 1⟩),
   (.s, 0b1101101_0_101_11001_11000_00000000000, .unlease ⟨⟨false, 5⟩, .void, .lit⟩),
   (.s, 0b1101110_1_011_01001_11000_00000000000, .score ⟨⟨true, 3⟩, .r 9, .lit⟩),
   (.s, 0b1101110_0_101_10001_11000_11000_000001, .scoreAdd ⟨⟨false, 5⟩, .n 1, .lit, .lit⟩),
   (.s, 0b1101111_1_011_01001_11000_11000_00_1110, .retire ⟨⟨true, 3⟩, .r 9, .lit, .lit, 14⟩),
   (.s, 0b1101111_0_101_00001_11000_11000_01_1010, .retireForce ⟨⟨false, 5⟩, .r 1, .lit, .lit, 10⟩),
   (.s, 0b1110000_1_011_11001_11000_00000000000, .fenceq ⟨⟨true, 3⟩, .void, .lit⟩),
   (.s, 0b1110001_0_101_01001_11000_0000000_1101, .appeal ⟨⟨false, 5⟩, .r 9, .lit, 13⟩),
   (.s, 0b1110001_1_011_11001_11000_0000001_0010, .appealBar ⟨⟨true, 3⟩, .void, .lit, 2⟩),
   (.s, 0b1110010_0_101_01111_11000_11000_000000, .meter ⟨⟨false, 5⟩, .r 15, .lit, .lit⟩),
   (.s, 0b1110011_1_011_00001_11000_11000_00_0011, .signqUsage ⟨⟨true, 3⟩, .r 1, .lit, .lit, 3⟩),
   (.s, 0b1110011_0_101_11001_11000_11000_01_1111, .signqRetired ⟨⟨false, 5⟩, .void, .lit, .lit, 15⟩),
   (.s, 0b1110011_1_011_10001_11000_11000_10_1011, .signqQuote ⟨⟨true, 3⟩, .n 1, .lit, .lit, 11⟩),
   (.s, 0b1110100_0_101_01111_11001_00011_000000, .powqPkg ⟨⟨false, 5⟩, .r 15, .zero, .r 3⟩),
   (.s, 0b1110100_1_011_10001_11000_00000000001, .powqCore ⟨⟨true, 3⟩, .n 1, .lit⟩),
   (.s, 0b1110100_0_101_00001_11000_11000_000010, .powqGrant ⟨⟨false, 5⟩, .r 1, .lit, .lit⟩),
   (.s, 0b1110101_1_011_10001_11000_11000_000000, .injOff ⟨⟨true, 3⟩, .n 1, .lit, .lit⟩),
   (.s, 0b1110101_0_101_01001_11000_11000_000001, .injOn ⟨⟨false, 5⟩, .r 9, .lit, .lit⟩),
   (.s, 0b1110101_1_011_11001_11000_11000_000010, .injPoison ⟨⟨true, 3⟩, .void, .lit, .lit⟩)]
theorem test_decode_scalar4 : readsAs scalar4Words = true := by decide +kernel
def vector1Words : List (Slot × Nat × Instr) :=
  [(.a, 0, .vectorNop .a),
   (.b, 0b0000001_1_011_01111_11000_11000_1010_10, .vadd .b ⟨⟨true, 3⟩, .r 15, .lit, .lit, .f32, .rdn⟩),
   (.a, 0b0000010_0_101_01111_11000_11000_1010_01, .vsub .a ⟨⟨false, 5⟩, .r 15, .lit, .lit, .f32, .rz⟩),
   (.b, 0b0000011_1_011_01111_11000_11000_1010_11, .vmul .b ⟨⟨true, 3⟩, .r 15, .lit, .lit, .f32, .rup⟩),
   (.a, 0b0000100_0_101_01111_11000_11000_1010_10, .vfma .a ⟨⟨false, 5⟩, .r 15, .lit, .lit, .f32, .rdn⟩),
   (.b, 0b0000101_1_011_01111_11000_11000_1010_01, .vfms .b ⟨⟨true, 3⟩, .r 15, .lit, .lit, .f32, .rz⟩),
   (.a, 0b0000110_0_101_01111_11000_11000_1010_11, .vmin .a ⟨⟨false, 5⟩, .r 15, .lit, .lit, .f32, .rup⟩),
   (.b, 0b0000111_1_011_01111_11000_11000_1010_10, .vmax .b ⟨⟨true, 3⟩, .r 15, .lit, .lit, .f32, .rdn⟩),
   (.a, 0b0001000_0_101_01111_11000_00000_0100_00, .vabs .a ⟨⟨false, 5⟩, .r 15, .lit, .i32, .rne⟩),
   (.b, 0b0001001_1_011_11001_11000_00000_1010_11, .vneg .b ⟨⟨true, 3⟩, .void, .lit, .f32, .rup⟩),
   (.a, 0b0001010_0_101_01001_11000_000001010_11, .vrcp .a ⟨⟨false, 5⟩, .r 9, .lit, .rup⟩),
   (.b, 0b0001011_1_011_11001_11000_000001010_11, .vrsq .b ⟨⟨true, 3⟩, .void, .lit, .rup⟩),
   (.a, 0b0001100_0_101_01111_11000_000001010_11, .vexp2 .a ⟨⟨false, 5⟩, .r 15, .lit, .rup⟩),
   (.b, 0b0001101_1_011_00001_11000_000001010_11, .vlog2 .b ⟨⟨true, 3⟩, .r 1, .lit, .rup⟩),
   (.a, 0b0001110_0_101_10001_11000_11000_1010_10, .vdiv .a ⟨⟨false, 5⟩, .n 1, .lit, .lit, .f32, .rdn⟩),
   (.b, 0b0001111_1_011_00011_11000_11000_1010_00, .vcmpeq .b ⟨⟨true, 3⟩, 3, .lit, .lit, .f32⟩),
   (.a, 0b0010000_0_101_00111_11000_11000_1010_00, .vcmpne .a ⟨⟨false, 5⟩, 7, .lit, .lit, .f32⟩),
   (.b, 0b0010001_1_011_00011_11000_11000_1010_00, .vcmplt .b ⟨⟨true, 3⟩, 3, .lit, .lit, .f32⟩),
   (.a, 0b0010010_0_101_00111_11000_11000_1010_00, .vcmple .a ⟨⟨false, 5⟩, 7, .lit, .lit, .f32⟩),
   (.b, 0b0010011_1_011_11001_11000_11000_000_000, .vsel .b ⟨⟨true, 3⟩, .void, .lit, .lit, 0⟩),
   (.a, 0b0010100_0_101_10001_11000_11000_000000, .vand .a ⟨⟨false, 5⟩, .n 1, .lit, .lit⟩),
   (.b, 0b0010101_1_011_01001_11000_11000_000000, .vor .b ⟨⟨true, 3⟩, .r 9, .lit, .lit⟩),
   (.a, 0b0010110_0_101_11001_11000_11000_000000, .vxor .a ⟨⟨false, 5⟩, .void, .lit, .lit⟩),
   (.b, 0b0010111_1_011_01111_11000_11000_000000, .vandn .b ⟨⟨true, 3⟩, .r 15, .lit, .lit⟩),
   (.a, 0b0011000_0_101_00001_11000_11000_000000, .vshl .a ⟨⟨false, 5⟩, .r 1, .lit, .lit⟩),
   (.b, 0b0011001_1_011_10001_11000_11000_000000, .vshr .b ⟨⟨true, 3⟩, .n 1, .lit, .lit⟩),
   (.a, 0b0011010_0_101_01001_11000_11000_000000, .vsar .a ⟨⟨false, 5⟩, .r 9, .lit, .lit⟩),
   (.b, 0b0011011_1_011_11001_11000_11000_00000_0, .vbfx .b ⟨⟨true, 3⟩, .void, .lit, .lit, false⟩),
   (.a, 0b0011100_0_101_10001_11000_11000_000000, .vbfi .a ⟨⟨false, 5⟩, .n 1, .lit, .lit⟩),
   (.b, 0b0011101_1_011_01001_11000_11000_000000, .vfsh .b ⟨⟨true, 3⟩, .r 9, .lit, .lit⟩)]
theorem test_decode_vector1 : readsAs vector1Words = true := by decide +kernel
def vector2Words : List (Slot × Nat × Instr) :=
  [(.a, 0b0011110_0_101_11001_11000_00000000000, .vpopc .a ⟨⟨false, 5⟩, .void, .lit⟩),
   (.b, 0b0011111_1_011_01001_11000_00000000000, .vclz .b ⟨⟨true, 3⟩, .r 9, .lit⟩),
   (.a, 0b0100000_0_101_10001_11000_1_1001_0100_01, .vcvt .a ⟨⟨false, 5⟩, .n 1, .lit, true, 9, 4, .rz⟩),
   (.b, 0b0100001_1_011_00001_11000_1_0010_1001_11, .vpack .b ⟨⟨true, 3⟩, .r 1, .lit, true, 2, 9, .rup⟩),
   (.a, 0b0100010_0_101_01111_11000_0_0001_0011_00, .vunpack .a ⟨⟨false, 5⟩, .r 15, .lit, 1, 3⟩),
   (.b, 0b0100011_1_011_11001_11000_11000_000000, .vperm .b ⟨⟨true, 3⟩, .void, .lit, .lit⟩),
   (.a, 0b0100100_0_101_01111_11000_00000_000001, .vbcast .a ⟨⟨false, 5⟩, .r 15, .lit, 1⟩),
   (.b, 0b0100101_1_011_00001_11000_11000_011101, .vslide .b ⟨⟨true, 3⟩, .r 1, .lit, .lit, 29⟩),
   (.a, 0b0100110_0_101_11001_0000000000010000, .viota .a ⟨⟨false, 5⟩, .void⟩),
   (.b, 0b0100110_1_011_00001_0000000000010001, .viotaRand .b ⟨⟨true, 3⟩, .r 1⟩),
   (.a, 0b0100111_0_101_01001_11000_00000_1010_01, .vredadd .a ⟨⟨false, 5⟩, .r 9, .lit, .f32, .rz⟩),
   (.b, 0b0101000_1_011_00001_11000_00000_1010_10, .vredmax .b ⟨⟨true, 3⟩, .r 1, .lit, .f32, .rdn⟩),
   (.a, 0b0101001_0_101_11001_11000_00000_1010_11, .vscan .a ⟨⟨false, 5⟩, .void, .lit, .f32, .rup⟩),
   (.b, 0b0101010_1_011_10001_11000_11000_000000, .vld .b ⟨⟨true, 3⟩, .n 1, .lit, .lit⟩),
   (.a, 0b0101011_0_101_01001_11000_11000_000000, .vst .a ⟨⟨false, 5⟩, .r 9, .lit, .lit⟩),
   (.b, 0b0101100_1_011_11001_11000_11000_000000, .vlds .b ⟨⟨true, 3⟩, .void, .lit, .lit⟩),
   (.a, 0b0101101_0_101_01111_11000_11000_000000, .vsts .a ⟨⟨false, 5⟩, .r 15, .lit, .lit⟩),
   (.b, 0b0101110_1_011_00001_11000_11000_000000, .vgath .b ⟨⟨true, 3⟩, .r 1, .lit, .lit⟩),
   (.a, 0b0101111_0_101_10001_11000_11000_000000, .vscat .a ⟨⟨false, 5⟩, .n 1, .lit, .lit⟩),
   (.b, 0b0110000_1_011_01001_11000_11000_0_10100, .vtbl .b ⟨⟨true, 3⟩, .r 9, .lit, .lit, 20⟩),
   (.a, 0b0110001_0_101_11001_11000_11000_0101_00, .vaadd .a ⟨⟨false, 5⟩, .void, .lit, .lit, .u32⟩),
   (.b, 0b0110010_1_011_01111_11000_11000_000000, .vafadd .b ⟨⟨true, 3⟩, .r 15, .lit, .lit⟩),
   (.a, 0b0110011_0_101_00001_0000000000_001010, .vectorGetm .a ⟨⟨false, 5⟩, .r 1, 10⟩),
   (.b, 0b0110100_1_011_00000_11000_00000_011000, .vectorPutm .b ⟨⟨true, 3⟩, .lit, 24⟩),
   (.a, 0b0110101_0_101_00111_11000_00000000_010, .vectorXfer .a ⟨⟨false, 5⟩, 7, .lit, 2⟩),
   (.b, 0b0110110_1_011_00001_11000_00000000000, .vmovs .b ⟨⟨true, 3⟩, .r 1, .lit⟩),
   (.a, 0b0110111_0_101_00100_11000_00000000000, .vpmovToPredicate .a ⟨⟨false, 5⟩, 4, .lit⟩),
   (.b, 0b0110111_1_011_11001_00001_00000000001, .vpmovFromPredicate .b ⟨⟨true, 3⟩, .void, 1⟩),
   (.a, 0b0111000_0_101_0000000000000000000_00, .vefclr .a ⟨⟨false, 5⟩, 0⟩),
   (.b, 0b0111001_1_011_01111_00000000000000_10, .vefget .b ⟨⟨true, 3⟩, .r 15, 2⟩)]
theorem test_decode_vector2 : readsAs vector2Words = true := by decide +kernel
def vector3Words : List (Slot × Nat × Instr) :=
  [(.a, 0b0111010_0_101_00000_11000_000000000_00, .vefput .a ⟨⟨false, 5⟩, .lit, 0⟩),
   (.b, 0b0111011_1_011_00000_11000_00000000_010, .vfmtset .b ⟨⟨true, 3⟩, .lit, 2⟩)]
theorem test_decode_vector3 : readsAs vector3Words = true := by decide +kernel
def seriesWords : List (Slot × Nat × Instr) :=
  [(.b, 0b1000000_0_101_00001_0000000000000000, .xclr ⟨⟨false, 5⟩, 1⟩),
   (.b, 0b1000001_1_011_00000_11000_0000000_1111, .xseto ⟨⟨true, 3⟩, .lit, 15⟩),
   (.b, 0b1000010_0_101_00110_11000_000000_10000, .xform ⟨⟨false, 5⟩, 6, .lit, 16⟩),
   (.b, 0b1000011_1_011_00100_01011_11000_000000, .xm2m ⟨⟨true, 3⟩, 4, 11, .lit⟩),
   (.b, 0b1000100_0_101_01001_00000_11000_000000, .xm2l ⟨⟨false, 5⟩, 9, 0, .lit⟩),
   (.b, 0b1000101_1_011_01110_00101_11000_000000, .xl2l ⟨⟨true, 3⟩, 14, 5, .lit⟩),
   (.b, 0b1000110_0_101_01111_01010_11000_0_01001, .xeval ⟨⟨false, 5⟩, .r 15, 10, .lit, 9⟩),
   (.b, 0b1000111_1_011_00000_11000_11000_0_10000, .xadm ⟨⟨true, 3⟩, 0, .lit, .lit, 16⟩),
   (.b, 0b1001000_0_101_01101_00100_01011_000000, .xadd ⟨⟨false, 5⟩, 13, 4, 11⟩),
   (.b, 0b1001001_1_011_00010_11000_11000_000000, .xld ⟨⟨true, 3⟩, 2, .lit, .lit⟩),
   (.b, 0b1001010_0_101_00111_11000_11000_000000, .xst ⟨⟨false, 5⟩, 7, .lit, .lit⟩),
   (.b, 0b1001011_1_011_01100_00011_11000_000000, .xnorm ⟨⟨true, 3⟩, 12, 3, .lit⟩),
   (.b, 0b1001100_0_101_00001_01000_000000000_11, .xget ⟨⟨false, 5⟩, .r 1, 8, 3⟩)]
theorem test_decode_series : readsAs seriesWords = true := by decide +kernel
def matrixWords : List (Slot × Nat × Instr) :=
  [(.m, 0, .matrixNop),
   (.m, 0b0000001_0_101_00110_10111_000000000_01, .mdset ⟨⟨false, 5⟩, 6, .q 3, 1⟩),
   (.m, 0b0000010_1_011_01011_00010_00000_011001, .mdget ⟨⟨true, 3⟩, 11, 2, 25⟩),
   (.m, 0b0000011_0_101_00101_01000_00010_1111_00, .mldt ⟨⟨false, 5⟩, 5, 0, 2, 15⟩),
   (.m, 0b0000100_1_011_000_11_01010_00000000000, .mstz ⟨⟨true, 3⟩, 3, 2⟩),
   (.m, 0b0000100_0_101_000_01_01000_00000000001, .mstzTag ⟨⟨false, 5⟩, 1, 0⟩),
   (.m, 0b0000101_1_011_011_11_00010_01001_1111_00, .mma ⟨⟨true, 3⟩, 3, 3, .t 2, .pair 1, 15⟩),
   (.m, 0b0000110_0_101_011_10_00010_01001_1111_00, .mmaz ⟨⟨false, 5⟩, 3, 2, .t 2, .pair 1, 15⟩),
   (.m, 0b0000111_1_011_000_01_01000_01011_100110, .mnest ⟨⟨true, 3⟩, 1, 0, 3, 38⟩),
   (.m, 0b0000111_0_101_001_01_01000_01011_000010, .mnestz ⟨⟨false, 5⟩, 1, 0, 3, 2⟩),
   (.m, 0b0001000_1_011_000_01_0000000000000000, .mzero ⟨⟨true, 3⟩, 1⟩),
   (.m, 0b0001001_0_101_00010_00100_000000000_10, .mtr ⟨⟨false, 5⟩, 2, 4, 2⟩),
   (.m, 0b0001010_1_011_010000_11_0000000_011110, .mrdz ⟨⟨true, 3⟩, 16, 3, 30⟩),
   (.m, 0b0001011_0_101_101_00_110011_0000000000, .mwm ⟨⟨false, 5⟩, 5, 0, 51⟩),
   (.m, 0b0001100_1_011_011_10_00010_01001_1111_00, .mchk ⟨⟨true, 3⟩, 3, 2, .t 2, .pair 1, 15⟩),
   (.m, 0b0001100_0_101_011_01_00010_01001_1111_01, .mchkz ⟨⟨false, 5⟩, 3, 1, .t 2, .pair 1, 15⟩),
   (.m, 0b0001101_1_011_000_00_0000000000_001111, .mres ⟨⟨true, 3⟩, 0, 15⟩),
   (.m, 0b0001110_0_101_000_10_0000000000_011101, .mfix ⟨⟨false, 5⟩, 2, 29⟩),
   (.m, 0b0001111_1_011_100100_101011_00000000_1, .mmir ⟨⟨true, 3⟩, 36, 43, true⟩),
   (.m, 0b0010000_0_101_11_111111_000101_10_11111, .minj ⟨⟨false, 5⟩, 3, 63, 5, 2, 31⟩),
   (.m, 0b0010001_1_011_00001_00000_00000000000, .mtag ⟨⟨true, 3⟩, 1, 0⟩),
   (.m, 0b0010010_0_101_000_11_00110_000_10_1001_00, .mcvt ⟨⟨false, 5⟩, 0, 3, 6, .rdn, 9⟩),
   (.m, 0b0010011_1_011_000_00_0000000000_100011, .mbias ⟨⟨true, 3⟩, 0, 35⟩),
   (.m, 0b0010100_0_101_000_10_0000000000000000, .mactRelu ⟨⟨false, 5⟩, 2⟩),
   (.m, 0b0010100_1_011_000_01_0000000000000001, .mactAbs ⟨⟨true, 3⟩, 1⟩),
   (.m, 0b0010100_0_101_000_00_0000000000_1010_10, .mactScale ⟨⟨false, 5⟩, 0, 0xa⟩),
   (.m, 0b0010101_1_011_00000_00110_00000000000, .mpitch ⟨⟨true, 3⟩, 6⟩),
   (.m, 0b0010110_0_101_00101_00000_10100_011011, .matrixGetm ⟨⟨false, 5⟩, 5, 20, 27⟩),
   (.m, 0b0010111_1_011_00010_00001_00000_110000, .matrixPutm ⟨⟨true, 3⟩, 2, 1, 48⟩),
   (.m, 0b0011000_0_101_10010_00111_00000000_100, .matrixXfer ⟨⟨false, 5⟩, 18, 7, 4⟩)]
theorem test_decode_matrix : readsAs matrixWords = true := by decide +kernel
def copy1Words : List (Slot × Nat × Instr) :=
  [(.d, 0, .copyNop .d),
   (.c, 0b0000001_0_101_1_110_101_11000111010101, .cdsetImmediate .c ⟨⟨false, 5⟩, 6, 5, 0x31d5⟩),
   (.d, 0b0000001_1_011_0_011_0_11000_00000_001110, .cdsetRegister .d ⟨⟨true, 3⟩, 3, .lit, 14⟩),
   (.c, 0b0000010_0_101_00001_000_00_01101_101111, .cdget .c ⟨⟨false, 5⟩, 1, 0, 13, 47⟩),
   (.d, 0b0000011_1_011_00110_00101_00000000000, .cpy .d ⟨⟨true, 3⟩, 6, 5⟩),
   (.c, 0b0000100_0_101_00100_00011_00010_00000_1, .cpyb .c ⟨⟨false, 5⟩, 4, 3, 2, true⟩),
   (.d, 0b0000101_1_011_00010_00000_00000_1010_00, .cpyt .d ⟨⟨true, 3⟩, 2, 0, 0, 10⟩),
   (.c, 0b0000110_0_101_00111_00110_00000000000, .cgath .c ⟨⟨false, 5⟩, 7, 6⟩),
   (.d, 0b0000111_1_011_00101_00100_00000000000, .cscat .d ⟨⟨true, 3⟩, 5, 4⟩),
   (.c, 0b0001000_0_101_00011_0000000000000000, .czero .c ⟨⟨false, 5⟩, 3⟩),
   (.d, 0b0001001_1_011_00010_10111_00000000000, .cfill .d ⟨⟨true, 3⟩, 2, .q 3⟩),
   (.c, 0b0001010_0_101_00000_00111_00000000_1_10, .cred .c ⟨⟨false, 5⟩, 0, 7, true, 2⟩),
   (.d, 0b0001011_1_011_00110_00101_00100_00000_0, .cbcast .d ⟨⟨true, 3⟩, 6, 5, 4, false⟩),
   (.c, 0b0001100_0_101_00010_00001_00000000_0_01, .callred .c ⟨⟨false, 5⟩, 2, 1, false, 1⟩),
   (.d, 0b0001101_1_011_00000_00111_00000000000, .cdigest .d ⟨⟨true, 3⟩, 0, 7⟩),
   (.c, 0b0001110_0_101_00110_00101_00000000000, .cpull .c ⟨⟨false, 5⟩, 6, 5⟩),
   (.d, 0b0001111_1_011_00100_00011_01010_000000, .cpost .d ⟨⟨true, 3⟩, 4, 3, 10⟩),
   (.c, 0b0010000_0_101_00001_00000_00000000000, .chostTo .c ⟨⟨false, 5⟩, 1, 0⟩),
   (.d, 0b0010000_1_011_00111_00110_00000000001, .chostFrom .d ⟨⟨true, 3⟩, 7, 6⟩),
   (.c, 0b0010001_0_101_00101_00100_00000000000, .ccarrTo .c ⟨⟨false, 5⟩, 5, 4⟩),
   (.d, 0b0010001_1_011_00011_00010_00000000001, .ccarrFrom .d ⟨⟨true, 3⟩, 3, 2⟩),
   (.c, 0b0010010_0_101_000000000000000_111001, .ctlr .c ⟨⟨false, 5⟩, 57⟩),
   (.d, 0b0010011_1_011_0000_0_0001111110000010, .cwait .d ⟨⟨true, 3⟩, 0, 0x1f82⟩),
   (.c, 0b0010100_0_101_000000000000000000_101, .cfence .c ⟨⟨false, 5⟩, 5⟩),
   (.d, 0b0010100_1_011_000000000000000001_100, .cfenceA .d ⟨⟨true, 3⟩, 4⟩),
   (.c, 0b0010101_0_101_00110_00101_00000000000, .ccvt .c ⟨⟨false, 5⟩, 6, 5⟩),
   (.d, 0b0010110_1_011_00000_00100_00000000000, .cpref .d ⟨⟨true, 3⟩, 4⟩),
   (.c, 0b0010111_0_101_00011_00010_00000000000, .cswp .c ⟨⟨false, 5⟩, 3, 2⟩),
   (.d, 0b0011000_1_011_00001_0000000000_111000, .copyGetm .d ⟨⟨true, 3⟩, 1, 56⟩),
   (.c, 0b0011001_0_101_00000_00111_00000_000110, .copyPutm .c ⟨⟨false, 5⟩, 7, 6⟩)]
theorem test_decode_copy1 : readsAs copy1Words = true := by decide +kernel
def copy2Words : List (Slot × Nat × Instr) :=
  [(.d, 0b0011010_1_011_00110_101_00_00100_000_101, .copyXfer .d ⟨⟨true, 3⟩, 6, 5, 4, 5⟩)]
theorem test_decode_copy2 : readsAs copy2Words = true := by decide +kernel

/-! Ill-formed terms, one for each check of WellFormed.lean. -/
def ga : Guard := ⟨false, 0⟩
def illFlow : List Instr :=
  [.clkdiv ⟨ga, 0, 1⟩, .getmF ⟨ga, 0, 4, 0⟩, .getmF ⟨ga, 1, 1, 0⟩, .getmF ⟨ga, 2, 6, 0⟩, .getmF ⟨ga, 4, 8, 0⟩]
def illScalar : List Instr :=
  [.scalarXfer ⟨ga, 20, .r 1, false, 3⟩, .scalarXfer ⟨ga, 20, .r 1, false, 4⟩, .scalarXfer ⟨ga, 8, .r 1, false, 5⟩,
   .scalarXfer ⟨ga, 8, .r 1, true, 5⟩, .scalarXfer ⟨ga, 1, .r 1, false, 2⟩, .mts ⟨ga, .r 1, 0⟩, .mts ⟨ga, .r 1, 9⟩, .mts ⟨ga, .r 1, 23⟩,
   .mts ⟨ga, .r 1, 31⟩]
def illVector : List Instr :=
  [.vadd .a ⟨ga, .r 1, .r 2, .r 3, .i32, .rz⟩, .vredadd .b ⟨ga, .r 1, .r 2, .u32, .rup⟩, .vabs .a ⟨ga, .r 1, .r 2, .u32, .rne⟩,
   .vneg .b ⟨ga, .r 1, .r 2, .u32, .rne⟩, .vcvt .a ⟨ga, .r 1, .r 2, true, 4, 10, .rne⟩, .vpack .a ⟨ga, .r 1, .r 2, false, 4, 0, .rne⟩,
   .vpack .a ⟨ga, .r 1, .r 2, false, 2, 2, .rne⟩, .vpack .a ⟨ga, .r 1, .r 2, false, 0, 6, .rne⟩, .vpack .b ⟨ga, .r 1, .r 2, true, 0, 1, .rne⟩,
   .vpack .b ⟨ga, .r 1, .r 2, false, 0, 1, .rz⟩, .vunpack .b ⟨ga, .r 1, .r 2, 2, 5⟩, .vaadd .a ⟨ga, .r 1, .r 2, .r 3, .f32⟩] ++
  [.vectorXfer .a ⟨ga, 1, .r 2, 3⟩, .vectorXfer .b ⟨ga, 1, .r 2, 4⟩, .vectorXfer .a ⟨ga, 20, .r 2, 2⟩, .vectorXfer .a ⟨ga, 8, .r 2, 5⟩,
   .vectorXfer .a ⟨ga, 20, .r 2, 4⟩, .vectorXfer .b ⟨ga, 20, .r 2, 3⟩, .vectorXfer .a ⟨ga, 1, .r 2, 1⟩]
def illEngines : List Instr :=
  [.matrixXfer ⟨ga, 20, 1, 2⟩, .matrixXfer ⟨ga, 20, 1, 3⟩, .matrixXfer ⟨ga, 20, 1, 4⟩, .matrixXfer ⟨ga, 1, 1, 5⟩, .copyXfer .c ⟨ga, 20, 1, 0, 2⟩,
   .copyXfer .d ⟨ga, 8, 1, 0, 5⟩, .copyXfer .c ⟨ga, 1, 1, 0, 3⟩, .mldt ⟨ga, 0, 1, 1, 8⟩, .mldt ⟨ga, 0, 1, 1, 9⟩, .mldt ⟨ga, 0, 1, 1, 10⟩,
   .mldt ⟨ga, 1, 1, 0, 10⟩, .cpyt .c ⟨ga, 0, 1, 0, 12⟩, .mcvt ⟨ga, 0, 1, 1, .rne, 10⟩] ++
  [.mma ⟨ga, 0, 1, .t 0, .t 1, 7⟩, .mmaz ⟨ga, 0, 1, .t 0, .t 1, 11⟩, .mchk ⟨ga, 1, 1, .t 0, .t 1, 9⟩, .mchkz ⟨ga, 0, 1, .t 1, .t 2, 10⟩,
   .mma ⟨ga, 0, 1, .t 2, .t 1, 10⟩, .mma ⟨ga, 0, 1, .t 0, .pair 1, 13⟩, .mtr ⟨ga, 1, 2, 2⟩, .mtr ⟨ga, 2, 1, 2⟩]
theorem test_wellFormed_refuses : ([illFlow, illScalar, illVector, illEngines].all fun l => l.all fun i => !i.wf) = true := by decide +kernel
/-- The same layouts at the nearest legal values. -/
theorem test_wellFormed_admits : ([Instr.clkdiv ⟨ga, 0, 2⟩, .getmF ⟨ga, 0, 3, 0⟩, .getmF ⟨ga, 2, 5, 0⟩, .scalarXfer ⟨ga, 19, .r 1, true, 4⟩,
    .scalarXfer ⟨ga, 7, .r 1, true, 5⟩, .mts ⟨ga, .r 1, 8⟩, .mts ⟨ga, .r 1, 22⟩, .vadd .a ⟨ga, .r 1, .r 2, .r 3, .f32, .rz⟩,
    .vcvt .a ⟨ga, .r 1, .r 2, true, 8, 10, .rne⟩, .vpack .a ⟨ga, .r 1, .r 2, false, 3, 0, .rne⟩, .vpack .a ⟨ga, .r 1, .r 2, true, 15, 8, .rup⟩,
    .vectorXfer .b ⟨ga, 1, .r 2, 3⟩, .mldt ⟨ga, 0, 1, 0, 10⟩, .mldt ⟨ga, 1, 1, 7, 15⟩, .mma ⟨ga, 0, 1, .pair 0, .pair 1, 13⟩, .mtr ⟨ga, 1, 2, 1⟩].all
    fun i => i.wf) = true := by decide +kernel

/-- Words that no slot takes: unassigned opcodes, set reserved bits, field values without a meaning (R105, Table 6-12); and Table 11-3's
opcode 0 with a bit set. -/
def badWords : List (Slot × Nat × Bool) :=
  [(.f, 0b100100_0_000_0000000000000000000000, true), (.s, 0b1010000_0_000_00000_00000_00000_000000, true), (.a, 1, false), (.m, 1, false), (.c, 1, false),
   (.f, 0b000010_0_000_00_00000000000001_000000, false), (.f, 0b000111_0_000_110_0000000000000_000000, false), (.s, 0b0000001_0_000_10100_00000_00000_000000, false),
   (.s, 0b0000001_0_000_00000_11010_00000_000000, false), (.s, 0b0000001_0_000_00000_00000_00000_000010, false), (.a, 0b0000001_0_000_00000_00000_00000_001100, false)]
theorem test_decode_rejects : (badWords.all fun x => decide (decode x.1 (BitVec.ofNat 32 x.2.1) = .error (if x.2.2 then .unassigned else .badField))) = true := by
  decide +kernel
/-- Table 11-3: the five bundles and what their encoding check answers: cause, TVAL, TMASK. -/
def rows11_3 : List (Nat × Option (Nat × Nat × Nat)) :=
  [(0x20000000 + 0x02031601 * 2 ^ 64, some (1, 0x20000000, 0x05)), (0x00000001 + 80 * 2 ^ 25 * 2 ^ 64, some (1, 1, 0x01)), (2 ^ 96, some (2, 1, 0x08)),
   (0b1000110_0_000_00001_00000_00000_000010 * 2 ^ 64, some (1, 0, 0x05)), (7 + 0xFFFFFFFF * 2 ^ 224, none)]
theorem test_encoding_table11_3 : (rows11_3.all fun r => decide (encodingTrap 0 false r.1 = r.2)) = true := by decide +kernel

/-! One instruction at a time. A mesh context, a stream context and the management context, with a few registers filled. -/
def someCtx (part : Nat) : Ctx :=
  { Ctx.zero with
    status := .running, part := part, ctl := { Control.zero with banks := BitVec.allOnes 24 },
    regs := { Regs.zero with
      flow := { FlowRegs.zero with pc := 0x40000000 },
      dat := { DataRegs.zero with s := (((((Vector.replicate 16 0).set 1 6).set 2 7).set 3 3).set 4 0x100).set 5 0xFFFFFFFFFFFFFFFF } } }
/-- Partition 1, with translation tables, a GiB of HBM from 0x40000000, and L2 way 0. -/
def part1 : Part := { Part.absent with exist := true, root := 0x1000, hbm := (0x40000000, 0x40000000), ways := 1 }
def base : State :=
  { State.reset with
    mem := placeTables [], ctxs := [(0, someCtx 1), (4096, someCtx 1), (8192, someCtx 0)],
    parts := [(0, { Part.absent with exist := true }), (1, part1)] }
/-- The same with a bundle of context k open, its literal 9. -/
def opn (k : Nat) (s : State) : State := s.openBundle k 0 9 []
def with0 (f : Ctx → Ctx) (s : State) : State := s.modCtx 0 f
def setS (n : Fin 16) (v : Nat) : Ctx → Ctx := fun c => c.modDat fun d => { d with s := d.s.set n (BitVec.ofNat 64 v) }
def s0 : State := opn 0 base
def sS : State := opn 4096 base
def sM : State := opn 8192 base
/-- The register l of context k once every result has landed. -/
def landed (k : Nat) (l : Loc) (i : Instr) (s : State) : Option Nat :=
  match exec i s with | .next t => some (((t.landAll k).ctx k).regs.dat.get l) | _ => none
/-- What f says of the state that i leads to. -/
def after {α : Type} (i : Instr) (s : State) (f : State → α) : Option α := match exec i s with | .next t => some (f t) | _ => none
/-- The conditions that the open bundle has met: slot, cause, value. -/
def raised (s : State) : List (Nat × Nat × Nat) := (s.opened.map fun o => o.raised.map fun r => (r.slot, r.cause, r.val)).getD []
/-- Its stalls and blocks: slot, and whether it blocks. -/
def held (s : State) : List (Nat × Bool) := (s.opened.map fun o => o.holds.map fun h => (h.slot, h.block)).getD []
def sab (a b : Nat) : State := opn 0 (with0 (setS 1 a) (with0 (setS 2 b) base))

/-- R140, R142: a .32 sum wraps and is sign-extended; MULH of -1 and -1 is 0; R55: the most negative number over -1. -/
theorem test_add_wraps : landed 0 (.s 3) (.add ⟨ga, .r 3, .r 1, .r 2, false⟩) (sab 0x7FFFFFFF 1) = some 0xFFFFFFFF80000000 := by decide +kernel
theorem test_sub_borrows : landed 0 (.s 3) (.sub ⟨ga, .r 3, .r 1, .r 2, true⟩) (sab 0 1) = some 0xFFFFFFFFFFFFFFFF := by decide +kernel
theorem test_mulh_signed : landed 0 (.s 3) (.mulh ⟨ga, .r 3, .r 1, .r 2, true⟩) (sab (2 ^ 64 - 1) (2 ^ 64 - 1)) = some 0 := by decide +kernel
theorem test_mulhu : landed 0 (.s 3) (.mulhu ⟨ga, .r 3, .r 1, .r 2, true⟩) (sab (2 ^ 64 - 1) (2 ^ 64 - 1)) = some (2 ^ 64 - 2) := by decide +kernel
theorem test_div_overflows : landed 0 (.s 3) (.div ⟨ga, .r 3, .r 1, .r 2, true⟩) (sab (2 ^ 63) (2 ^ 64 - 1)) = some (2 ^ 63) := by decide +kernel
theorem test_rem_by_zero : landed 0 (.s 3) (.rem ⟨ga, .r 3, .r 1, .r 2, true⟩) (sab 77 0) = some 77 := by decide +kernel
/-- The literal reads as 9 (R90), the zero source as 0, and a source that is also the destination is read before (R83). -/
theorem test_source_is_destination : landed 0 (.s 1) (.andn ⟨ga, .r 1, .lit, .r 1, true⟩) (sab 8 0) = some 1 := by decide +kernel
theorem test_guarded_off : after (.add ⟨⟨false, 1⟩, .r 3, .r 1, .r 2, true⟩) (sab 1 1) (fun t => (t.ctx 0).flights) = some [] := by decide +kernel
/-- R144: a field of 8 bits at bit 4, and one that ends at the word's top. -/
theorem test_bfx : landed 0 (.s 3) (.bfx ⟨ga, .r 3, .r 1, .r 2, true⟩) (sab 0xABC0 (8 * 256 + 4)) = some 0xBC := by decide +kernel
theorem test_bfxs_clips : landed 0 (.s 3) (.bfxs ⟨ga, .r 3, .r 1, .r 2, false⟩) (sab 0x80000000 (8 * 256 + 28)) = some 0xFFFFFFFFFFFFFFF8 := by decide +kernel
theorem test_clz : landed 0 (.s 3) (.clz ⟨ga, .r 3, .r 1, false⟩) (sab 0 0) = some 32 := by decide +kernel
/-- R146, R147: all 64 bits of the predicate; P0 stays all ones (R95). -/
theorem test_cmplt : landed 0 (.p 1) (.cmplt ⟨ga, 1, .r 5, .r 1, true⟩) s0 = some (2 ^ 64 - 1) := by decide +kernel
theorem test_cmpltu : landed 0 (.p 1) (.cmpltu ⟨ga, 1, .r 5, .r 1, true⟩) s0 = some 0 := by decide +kernel
theorem test_p0_discards : landed 0 (.p 0) (.pxor ⟨ga, 0, 0, 0⟩) s0 = some (2 ^ 64 - 1) := by decide +kernel
/-- Example 11-2: 1.0 + 2.0 by a bound of 4. -/
theorem test_fadd : landed 0 (.s 1) (.fadd ⟨ga, .r 1, .r 1, .r 2, .rne, false⟩) (sab 0x3F800000 0x40000000) = some 0x40400000 := by decide +kernel
/-- R60: the square root of -0 is -0, and of a negative number NaN. -/
theorem test_fsqrt : landed 0 (.s 3) (.fsqrt ⟨ga, .r 3, .r 1, .rne, false⟩) (sab 0x80000000 0) = some 0x80000000 := by decide +kernel
/-- Table 5-1: 300, 470, 61440, 70000, -0.001 and NaN into FMT1 (E4M3) and FMT0 (E5M2). -/
def narrow : List (Nat × Nat × Nat) :=
  [(0x43960000, 0x79, 0x5D), (0x43EB0000, 0x7E, 0x5F), (0x47700000, 0x7E, 0x7C), (0x4788B800, 0x7E, 0x7C), (0xBA83126F, 0x81, 0x94), (0x7FC00000, 0x7F, 0x7E)]
theorem test_narrow : (narrow.all fun x => (miniFmt fmtPresets[1]).round (f32 x.1) .rne == x.2.1 && (miniFmt fmtPresets[0]).round (f32 x.1) .rne == x.2.2) = true := by
  decide +kernel
/-- Table 5-3: value, residue before, code, residue after, in FMT4 (E2M1). -/
def feedback : List (Nat × Nat × Nat × Nat) :=
  [(0x3FA00000, 0, 2, 0x3E800000), (0x3FA00000, 0x3E800000, 3, 0), (0x40B00000, 0x3E800000, 7, 0xBE800000), (0x40F00000, 0xBE800000, 7, 0x3FA00000),
   (0, 0x3FA00000, 2, 0x3E800000), (0x7F800000, 0x3E800000, 7, 0)]
theorem test_feedback : (feedback.all fun x => decide ((miniFmt fmtPresets[4]).roundEf (f32 x.1) x.2.1 = x.2.2)) = true := by decide +kernel
/-- Table 5-4: width, element, first bit. -/
theorem test_packing : ([(2, 0, 0), (2, 1, 32), (2, 8, 2), (2, 127, 254), (4, 1, 32), (4, 63, 252), (6, 1, 48), (6, 9, 54)].all fun x =>
    packBit x.1 x.2.1 == x.2.2) = true := by decide +kernel
/-- R151, R305: a store of two bytes in the own scratchpad, least significant first, and the load of one of them. -/
theorem test_store : after (.st ⟨ga, .r 5, .r 4, .zero, 1⟩) s0 (fun t => (t.mem.get (mkey (padSpace 0) 0x100), t.mem.get (mkey (padSpace 0) 0x101),
    t.mem.get (mkey (padSpace 0) 0x102))) = some (0xFF, 0xFF, 0) := by decide +kernel
theorem test_load_signed : landed 0 (.s 6) (.lds ⟨ga, .r 6, .r 4, .zero, 0⟩) (opn 0 { base with mem := base.mem.putN (mkey (padSpace 0) 0x100) 2 0x1280 }) =
    some 0xFFFFFFFFFFFFFF80 := by decide +kernel
theorem test_misaligned : after (.ld ⟨ga, .r 6, .r 1, .zero, 2⟩) s0 raised = some [(2, 5, 6)] := by decide +kernel
theorem test_atomic_add : after (.aadd ⟨ga, .r 6, .r 4, .r 1, true⟩) (opn 0 { base with mem := base.mem.putN (mkey (padSpace 0) 0x100) 8 5 })
    (fun t => t.mem.getN (mkey (padSpace 0) 0x100) 8) = some 11 := by decide +kernel
/-- R101: a privileged form in a mesh context. -/
theorem test_privileged : after (.tlbsync ⟨ga, .r 6⟩) s0 raised = some [(2, 2, 0)] := by decide +kernel
/-- R111, R113, R114: a jump goes to PC + 32 × offset; a call also links the bundle after the two delay bundles. -/
theorem test_jump : after (.j ⟨ga, 0x3FFFFF⟩) s0 (fun t => t.opened.bind (·.jump)) = some (some (0x3FFFFFE0, 0)) := by decide +kernel
theorem test_call : after (.call ⟨ga, 2⟩) s0 (fun t => (t.ctx 0).regs.flow.lk) = some 0x40000060 := by decide +kernel
/-- R112, Table 7-2: of the chain of four tests, shape 0, none holds but the third, so the third leaf is taken. -/
theorem test_branch_tree : after (.bt ⟨ga, 0, 1, 2, 3, 4⟩) (opn 0 (with0 (fun c => (c.modFlow fun f => { f with w := f.w.set 2 0x5000 }).modDat fun d => { d with
    p := d.p.set 3 1 }) base)) (fun t => t.opened.bind (·.jump)) = some (some (0x5000, 0)) := by decide +kernel
theorem test_trap : after (.trap ⟨ga, 0xBEEF⟩) s0 raised = some [(1, 10, 0xBEEF)] := by decide +kernel
theorem test_wait_blocks : after (.wait ⟨ga, 3, .imm 1⟩) s0 held = some [(1, true)] := by decide +kernel
theorem test_post_saturates : after (.post ⟨ga, 3, .imm 2⟩) (opn 0 (with0 (fun c => { c with f := c.f.set 3 0xFFFFFFFE }) base)) (fun t => (t.ctx 0).f[3]) =
    some 0xFFFFFFFF := by decide +kernel
/-- R124: a wait past the last number. -/
theorem test_tlw_past : after (.tlw ⟨ga, 1, false, .imm 3⟩) s0 raised = some [(1, 13, 0)] := by decide +kernel

/-! Premises. For every statement with premises, a state and operands that meet them, clause by clause. -/
/-! The machine and the bundle. -/
/-- StepRunsDecoded: ADD.64 S1, S2, S3 alone in the bundle that is fetched next. -/
def word1 : Nat := 0b0000001_0_000_00001_00010_00011_00000_1
def placed : State := State.reset.withFetchWord 32 word1
def placedGo : State := { placed with agenda := [] }
def placed1 : State := (State.bound placedGo 0).foldl (fun s k => s.landDue k s.now) (State.wakeCore placedGo 0)
def placed2 : State := match placed1.fetch 0 with | .ok _ u => u | _ => placed1
def slots1 (i : Nat) : Instr :=
  match i with
  | 1 => .nopF | 2 => .add ⟨ga, .r 1, .r 2, .r 3, true⟩ | 3 => .vectorNop .a | 4 => .vectorNop .b | 5 => .matrixNop | 6 => .copyNop .c | _ => .copyNop .d
theorem test_premises_StepRunsDecoded :
    placed.agenda = [.issue 0 false] ∧ placed.opened = none ∧ firstDue placed placed.exactDues = none ∧ firstDue placed placed.dues = none ∧ (placed.core 0).next ≤ placed.now ∧
    (placed.core 0).edge 0 placed.now = placed.now ∧
    (placed.core 0).health.fenced = false ∧ (State.courseCores placedGo 0).find? (State.energyHeld placedGo) = none ∧ (placed1.core 0).next ≤ placed.now ∧
    placed1.choose 0 = some 0 ∧ Claims.Plain placed1 0 ∧
    placed1.fetch 0 = .ok (word1 * 2 ^ 64) placed2 ∧ encodingTrap 0 ((placed2.ctx 0).regs.flow.dly.count != 0) (word1 * 2 ^ 64) = none ∧
    (∀ i, 1 ≤ i → i ≤ 7 → i ≠ hdrLit (bundleWord (word1 * 2 ^ 64) 0) → decodeOpt (slotAt i) (bundleWord (word1 * 2 ^ 64) i) = some (slots1 i)) := by
  have h : ∀ i ∈ [1, 2, 3, 4, 5, 6, 7], decodeOpt (slotAt i) (bundleWord (word1 * 2 ^ 64) i) = some (slots1 i) := by decide +kernel
  and_intros
  case refine_2.refine_2.refine_2.refine_2.refine_2.refine_2.refine_2.refine_2.refine_2.refine_2.refine_2.refine_2.refine_2 => exact fun i h1 h2 _ => h i (by simp; omega)
  all_goals decide +kernel
def evented : State := { base with agenda := [.event (.sleepEnd 0)] }
theorem test_premises_StepRunsEvent : evented.agenda = .event (.sleepEnd 0) :: [] ∧ firstDue evented evented.exactDues = none := by decide +kernel
/-- What the placed step does: S1 := S2 + S3, and the pc goes on. -/
def placedWith : State := placed.modCtx 0 fun c => setS 2 5 (setS 3 6 c)
theorem test_placed_step : (match step placedWith with | .next t => some (((t.ctx 0).regs.flow.pc, (t.ctx 0).regs.dat.get (.s 1))) | _ => none) =
    some (0x40000020, 11) := by decide +kernel

/-- DecodeEncode: an instruction at the ends of its fields. EncodeDecode: its word. -/
theorem test_premises_DecodeEncode : (Instr.mchk ⟨⟨true, 7⟩, 7, 3, .pair 3, .zero, 15⟩).slot = some .m ∧ (Instr.mchk ⟨⟨true, 7⟩, 7, 3, .pair 3, .zero, 15⟩).wf = true ∧
    (encode (.mchk ⟨⟨true, 7⟩, 7, 3, .pair 3, .zero, 15⟩)).isSome = true := by decide +kernel
theorem test_premises_EncodeDecode : decode .m (BitVec.ofNat 32 0b0001100_1_111_111_11_01011_11001_1111_00) = .ok (.mchk ⟨⟨true, 7⟩, 7, 3, .pair 3, .zero, 15⟩) := by
  decide +kernel
/-- StepKeepsMemory. -/
theorem test_premises_StepKeepsMemory : State.reset.Sound ∧ ∃ t, step State.reset = .next t :=
  ⟨⟨by decide +kernel, fun _ h => nomatch h⟩, _, rfl⟩
/-- OutsideBundle and WithoutEffect. -/
theorem test_premises_OutsideBundle : (Instr.scalarNop).slot.isSome = true ∧ base.opened = none := by decide +kernel
def offS : Guard := ⟨false, 1⟩
theorem test_premises_GuardOff :
    (Instr.add ⟨offS, .r 1, .r 2, .r 3, true⟩).guard = some offS ∧ (Instr.cpy .c ⟨offS, 1, 2⟩).guard = some offS ∧ (Instr.vadd .a ⟨offS, .r 1, .r 2, .r 3, .i32, .rne⟩).guard = some offS ∧
    s0.opened.isSome = true ∧ offS.on s0.pre = false ∧ offS.lanes s0.pre = 0 ∧
    (Instr.sleepEnd 0).slot = none := by decide +kernel
/-- WritesHold: a write beside bytes that are listed, and a result that lands in a register with none in flight. -/
theorem test_premises_WritesHold : base.mem.wf = true ∧ ((3 : Nat) < 4 ∨ 4 + 2 ≤ 3) ∧ ((6 : Nat) < 4 ∨ 4 + 2 ≤ 6) ∧ (Loc.s 3).isP0 = false ∧ (7 : Nat) < 2 ^ locBits (.s 3) ∧
    (∀ f ∈ (s0.ctx s0.me).flights, f.loc ≠ .s 3) ∧ (∃ t, s0.wr (some (.s 3)) 7 0xFF 0 1 = .ok t) ∧ (∃ t, s0.wr (some (.p 0)) 7 0xFF 0 1 = .ok t) :=
  ⟨by decide +kernel, by decide, by decide, by decide, by decide +kernel, by decide +kernel, ⟨_, rfl⟩, ⟨_, rfl⟩⟩

/-! Exceptions. -/
def atLevel (n : Nat) (s : State) : State := with0 (fun c => { c.modSys fun y => { y with tl := n } with node := 1 }) s
theorem test_premises_TrapEntry : ((base.landAll 0).ctx 0).regs.sys.tl < 2 ∧ (10 : Nat) < 65536 ∧ (((atLevel 1 base).landAll 0).ctx 0).regs.sys.tl < 2 ∧
    2 ≤ (((atLevel 2 base).landAll 0).ctx 0).regs.sys.tl ∧ (((atLevel 2 base).landAll 0).ctx 0).kill = none ∧ (((atLevel 2 base).landAll 0).ctx 0).node ≠ 0 ∧
    (65535 : Nat) < 65536 ∧ isStream 4096 = true ∧ 2 ≤ (((base.modCtx 4096 fun c => c.modSys fun y => { y with tl := 2 }).landAll 4096).ctx 4096).regs.sys.tl ∧
    (vget ((base.landAll 4096).ctx mgmtKey).q 2 []).length < 4096 := by decide +kernel
/-- Entry from level 0 and return: the trap's address, cause and old pc; the transfer of RTT gives the pc back (R132, R363). -/
theorem test_trap_and_return :
    let t := (with0 (fun c => c.modSys fun y => { y with tvec := 0x9000 }) base).takeTrap 0 10 7 2 false
    let c := t.ctx 0
    (c.regs.flow.pc, c.regs.sys.tl, (vget c.regs.sys.banks 0 Bank.zero).cause, (vget c.regs.sys.banks 0 Bank.zero).tpc, (vget c.regs.sys.banks 0 Bank.zero).tval,
      ((t.rttArrive 0 1).ctx 0).regs.flow.pc, ((t.rttArrive 0 1).ctx 0).regs.sys.tl) = (0x9000, 1, 10, 0x40000000, 7, 0x40000000, 0) := by decide +kernel
theorem test_premises_TrapReturn : (1 : Nat) ≤ 1 ∧ 2 ≤ 2 ∧
    (vget ((base.takeTrap 0 10 7 2 false).ctx 0).regs.sys.banks 0 Bank.zero).tdly.toNat % 4 = 0 := by decide +kernel
/-- BundleEnds: a bundle that traps in two slots, one that blocks, one that stalls. -/
def trapping : State := (s0.raise 2 5 6 none).raise 1 10 7 none
theorem test_premises_BundleEnds :
    trapping.opened.map Open.verdict = some (.trap ⟨1, 10, 7, none⟩ 2) ∧ (s0.holdSlot 1 true none).opened.map Open.verdict = some (.block 2) ∧
    (s0.holdSlot 1 true none).opened.map (·.ridge) = some false ∧ (s0.holdSlot 2 false none).opened.map Open.verdict = some (.stall []) ∧
    (s0.holdSlot 2 false none).opened.map (·.nest) = some 0 := by decide +kernel
/-- CommitAdvances: a bundle with a jump, one that a LOOP skips, one after another, both delay bundles, the end of a body. -/
def flow0 : FlowRegs := { FlowRegs.zero with pc := 0x40 }
def delay (n : Nat) : FlowRegs := { flow0 with dly := ⟨n, 0x800, 0⟩ }
def body1 (n : BitVec 32) : FlowRegs := { flow0 with loops := [⟨2, 0x20, 0x40, []⟩], lc := FlowRegs.zero.lc.set 2 n }
def openOf (s : State) : Open := s.opened.getD ⟨0, 0, 0, [], s.toWorld, [], [], [], none, none, false, 0, false, none, 0, none, 0, 0, false, false, false, none, false, [], []⟩
theorem test_premises_CommitAdvances :
    flow0.dly.count = 0 ∧ (openOf (s0.jumpTo 0x800 0)).jump = some (0x800, 0) ∧ (openOf s0).jump = none ∧ (openOf s0).skip = none ∧
    (openOf (s0.modOpen fun o => { o with skip := some 0x60 })).skip = some 0x60 ∧ (∀ l ∈ flow0.loops, l.last ≠ flow0.pc.toNat) ∧ (delay 2).dly.count = 2 ∧
    (delay 1).dly.count = 1 ∧ (body1 2).loops = [⟨2, 0x20, 0x40, []⟩] ∧ (0x40 : Nat) = (body1 2).pc.toNat ∧ (body1 2).dly.count = 0 ∧
    1 < ((body1 2).lc[(2 : Fin 6)]).toNat ∧ ((body1 1).lc[(2 : Fin 6)]).toNat ≤ 1 := by decide +kernel

/-! The scalar slot. -/
def dze : State := opn 0 (with0 (fun c => c.modSys fun y => { y with sstat := 0x80 }) base)
theorem test_premises_ScalarInteger :
    Claims.On ga s0 ∧ Claims.Clear s0 (sLoc (.r 3)) ∧ Claims.Clear s0 (sLoc .void) ∧ s0.rdS (.r 1) = .ok 6 ∧ s0.rdS (.r 2) = .ok 7 ∧ s0.rdD (.r 3) = .ok 3 ∧
    BitVec.ofNat 64 7 ≠ 0 ∧ s0.rdS .zero = .ok 0 ∧ BitVec.ofNat 32 0 = 0 ∧ s0.pre.regs.sys.sstat.getLsbD 7 = false ∧
    Claims.On ga dze ∧ dze.rdS (.r 1) = .ok 6 ∧ dze.rdS .zero = .ok 0 ∧ dze.pre.regs.sys.sstat.getLsbD 7 = true ∧
    Claims.Clear s0 (some (.s 3)) := by decide +kernel
theorem test_premises_ScalarPredicates : Claims.On ga s0 ∧ Claims.Clear s0 (some (.p 7)) ∧ s0.rdS (.r 5) = .ok (2 ^ 64 - 1) ∧ s0.rdS (.r 1) = .ok 6 := by decide +kernel
theorem test_premises_ScalarFloat : Claims.On ga s0 ∧ Claims.Clear s0 (sLoc (.r 3)) ∧ s0.rdS (.r 1) = .ok 6 ∧ s0.rdS (.r 2) = .ok 7 ∧ s0.rdD (.r 3) = .ok 3 ∧
    Claims.Clear s0 (some (.p 1)) := by decide +kernel

/-! Accesses: S4 names a word of the own scratchpad, S6 one of HBM that the tables map, S8 host memory's page. -/
def seg1 : Seg := ⟨Regs.zero, [], 0, [], 0, 0, 0, 0, false, false, Vector.replicate 3 0, 0⟩
def inSeg (g : Seg) (s : State) : State := with0 (fun c => { c with seg := some g }) s
/-- A second leaf of 1 GiB, of host memory, for 0x80000000. -/
def far : State := with0 (setS 8 0x80000100) (with0 (setS 6 0x40000100) { base with mem := base.mem.putN (mkey 0 0x3010) 8 (0x80000000000000DF + 0x40000000) })
def sFar : State := opn 0 far
def keyPad : Nat := mkey (padSpace 0) 0x100
def keyHbm : Nat := mkey 0 0x40000100
def there (s : State) (a : Nat) (m : AccMode) : State := match s.locate s.me a m with | .ok _ _ u => u | _ => s
def line1 : Line := ⟨1, keyHbm / 64, 0x11⟩
def lined : State := opn 0 (far.modCore 0 fun c => { c with l1 := [line1] })
def buffered : Access := { Claims.access sFar .store 8 0x40000100 keyHbm false with val := 5 }
def sBuf : State := opn 0 (inSeg { seg1 with buf := [buffered], used := 1 } far)
/-- The context runs exactly; a store of the bundle has acted. -/
def sExact : State := opn 0 (with0 (fun c => c.modSys fun y => { y with dmode := true }) far)
def sActed : State := sFar.modOpen fun o => { o with acted := true, undo := [(keyHbm, 8, 3)] }
def ldPad : SMem := ⟨ga, .r 6, .r 4, .zero, 3⟩
def ldFar : SMem := ⟨ga, .r 7, .r 6, .zero, 3⟩
theorem test_premises_ScalarLoads :
    Claims.On ga sFar ∧ sFar.rdS (.r 4) = .ok 0x100 ∧ sFar.rdS .zero = .ok 0 ∧ Claims.Clear sFar (sLoc (.r 6)) ∧ (0x100 + 0) % 2 ^ 64 % 2 ^ 3 = 0 ∧
    sFar.locate sFar.me 0x100 .read = .ok keyPad false (there sFar 0x100 .read) ∧ (there sFar 0x100 .read).poisoned keyPad 8 = false ∧
    keyPad / spaceSize = padSpace (coreOf sFar.me) ∧
    sFar.rdS (.r 6) = .ok 0x40000100 ∧ sFar.locate sFar.me 0x40000100 .read = .ok keyHbm false (there sFar 0x40000100 .read) ∧
    (there sFar 0x40000100 .read).poisoned keyHbm 8 = false ∧ keyHbm / spaceSize ≠ padSpace (coreOf sFar.me) ∧ sFar.pre.seg = none ∧
    (((there sFar 0x100 .read).note 5 8 0x100).ctx sFar.me).exact = false ∧ (((there sExact 0x100 .read).note 5 8 0x100).ctx sExact.me).exact = true ∧
    sExact.locate sExact.me 0x100 .read = .ok keyPad false (there sExact 0x100 .read) := by decide +kernel
/-- A load that meets a store which the segment holds; a core with 767 accesses outstanding and with 768. -/
def crowded (n : Nat) : State := opn 0 (with0 (fun c => { c with accs := List.replicate n buffered }) far)
theorem test_premises_ScalarLoads_buffer :
    Claims.On ga sBuf ∧ sBuf.rdS (.r 6) = .ok 0x40000100 ∧ sBuf.locate sBuf.me 0x40000100 .read = .ok keyHbm false (there sBuf 0x40000100 .read) ∧
    sBuf.pre.seg = some { seg1 with buf := [buffered], used := 1 } ∧ (sBuf.ctx sBuf.me).accs = [] ∧
    (∃ z ∈ [buffered], z.overlaps { Claims.access sBuf (Claims.loadKind false) 8 0x40000100 keyHbm false with dst := sLoc (.r 7) } = true) ∧
    buffered.kind ≠ .done ∧ buffered.isLoad = false ∧ { buffered with kind := .load }.isLoad = true ∧ (sBuf.ctx 0).seg.isSome = true ∧
    (crowded 767).outstanding (coreOf 0) < 768 ∧ 768 ≤ (crowded 768).outstanding (coreOf 0) ∧ buffered.own = false ∧
    (match (sActed.queueAccess 0 { buffered with kind := .load }).opened with | some o => o.acted | none => false) = true ∧ (sActed.ctx 0).accs = [] ∧
    (match (sFar.queueAccess 0 { buffered with kind := .load }).opened with | some o => o.acted | none => false) = false := by decide +kernel
/-- The state that a store of v at a is noted in, and segments with the last place of their logs and buffers free, and full. -/
def sSeg (logged used : Nat) : State := opn 0 (inSeg { seg1 with logged := logged, used := used } far)
def noted (s : State) (a v : Nat) : State := ((there s a .write).note 4 8 a).note 4 8 v
theorem test_premises_ScalarStores :
    Claims.On ga sFar ∧ sFar.rdS (.r 4) = .ok 0x100 ∧ sFar.rdS (.r 6) = .ok 0x40000100 ∧ sFar.rdS .zero = .ok 0 ∧ sFar.rdD (.r 1) = .ok 6 ∧
    sFar.locate sFar.me 0x100 .write = .ok keyPad false (there sFar 0x100 .write) ∧ ((noted sFar 0x100 6).ctx sFar.me).seg = none ∧
    sFar.locate sFar.me 0x40000100 .write = .ok keyHbm false (there sFar 0x40000100 .write) ∧ ((noted sFar 0x40000100 6).ctx sFar.me).seg = none ∧
    (sSeg 511 0).locate 0 0x100 .write = .ok keyPad false (there (sSeg 511 0) 0x100 .write) ∧
    (((noted (sSeg 511 0) 0x100 6).ctx 0).seg.map (·.logged) = some 511) ∧ (((noted (sSeg 512 0) 0x100 6).ctx 0).seg.map (·.logged) = some 512) ∧
    (((noted (sSeg 0 255) 0x40000100 6).ctx 0).seg.map (·.used) = some 255) ∧ (((noted (sSeg 0 256) 0x40000100 6).ctx 0).seg.map (·.used) = some 256) ∧
    sExact.locate sExact.me 0x100 .write = .ok keyPad false (there sExact 0x100 .write) ∧ ((noted sExact 0x100 6).ctx 0).seg = none ∧ ((noted sExact 0x100 6).ctx 0).exact = true := by
  decide +kernel
/-- The buffer's stores perform before an atomic, whose entry is then the last free one of 256, or there is none. -/
def sAtoms (n : Nat) : State := noted (opn 0 (inSeg { seg1 with used := 256, atoms := n } far)) 0x40000100 6
theorem test_premises_ScalarAtomics :
    Claims.On ga sFar ∧ sFar.rdS (.r 4) = .ok 0x100 ∧ sFar.rdS (.r 1) = .ok 6 ∧ sFar.rdD (.r 2) = .ok 7 ∧ Claims.Clear sFar (sLoc (.r 2)) ∧ 0x100 % 8 = 0 ∧
    sFar.locate sFar.me 0x100 .write = .ok keyPad false (there sFar 0x100 .write) ∧ spaceOf keyPad ≠ 2 ∧ (there sFar 0x100 .write).inReduction keyPad 8 = false ∧
    (there sFar 0x100 .write).poisoned keyPad 8 = false ∧ sFar.locate sFar.me 0x40000100 .write = .ok keyHbm false (there sFar 0x40000100 .write) ∧
    spaceOf keyHbm ≠ 2 ∧ (there sFar 0x40000100 .write).inReduction keyHbm 8 = false ∧ (there sFar 0x40000100 .write).poisoned keyHbm 8 = false ∧
    ((((sAtoms 255).performBuf 0).ctx 0).seg.map (·.used) = some 255) ∧ ((((sAtoms 256).performBuf 0).ctx 0).seg.map (·.used) = some 256) ∧
    (((noted (sSeg 511 0) 0x100 6).ctx 0).seg.map (·.logged) = some 511) := by decide +kernel
def keyHost : Nat := mkey 2 0x40000100
/-- An open DET reduction over the HBM word. -/
def reducing : State := opn 0 { far with reds := [⟨0, [(keyHbm, 8)], 1, 3, 10, 0, 0, [], [], 0⟩] }
theorem test_premises_ScalarAccessTraps :
    sFar.rdS (.r 1) = .ok 6 ∧ 6 % 2 ^ 3 ≠ 0 ∧ sFar.rdS .zero = .ok 0 ∧ 0x300000 % 2 ^ 3 = 0 ∧ sFar.locate sFar.me 0x300000 .read = .fault 6 ∧
    sFar.locate sFar.me 0x300000 .write = .fault 6 ∧ 6 % 8 ≠ 0 ∧ sFar.rdS (.r 8) = .ok 0x80000100 ∧
    sFar.locate sFar.me 0x80000100 .write = .ok keyHost false (there sFar 0x80000100 .write) ∧ spaceOf keyHost = 2 ∧ 0x80000100 % 8 = 0 ∧
    Claims.On ga reducing ∧ reducing.rdS (.r 6) = .ok 0x40000100 ∧
    reducing.locate reducing.me 0x40000100 .write = .ok keyHbm false (there reducing 0x40000100 .write) ∧ (there reducing 0x40000100 .write).inReduction keyHbm 8 = true ∧
    (opn 0 (with0 (setS 6 0x300000) base)).rdS (.r 6) = .ok 0x300000 := by decide +kernel
/-- INVL at its boundaries: nothing, one byte, all but one of 65,536, and all; within one page, unmapped; FLL1 with and without a store waiting. -/
def waiting : State := opn 0 (with0 (fun c => { c with accs := [buffered] }) far)
theorem test_premises_ScalarMoves :
    Claims.On ga lined ∧ lined.rdS (.r 6) = .ok 0x40000100 ∧ lined.rdS .zero = .ok 0 ∧ lined.rdS .lit = .ok 9 ∧ 0x40000100 / 65536 = (0x40000100 + 9 - 1) / 65536 ∧
    lined.locate lined.me 0x40000100 .probe = .ok keyHbm false (there lined 0x40000100 .probe) ∧
    (match lined.locate lined.me 0x300000 .probe with | .ok _ _ _ => true | _ => false) = false ∧ 0x300000 / 65536 = (0x300000 + 9 - 1) / 65536 ∧
    lined.rdS (.r 5) = .ok (2 ^ 64 - 1) ∧ 65536 ≤ 2 ^ 64 - 1 ∧ lined.pre.scalarStores = false ∧ Claims.On ga waiting ∧ waiting.pre.scalarStores = true ∧ sBuf.pre.scalarStores = true ∧
    Claims.Clear s0 (sLoc (.r 3)) ∧ s0.rdM 63 = .ok 0 ∧ Claims.Clear s0 (some (.m 63)) ∧ (⟨ga, 19, .r 1, true, 3⟩ : SXfer).wf = true ∧ VUnit.a.slot = 3 ∧
    Claims.Clear s0 (some (vReg .a 19)) ∧ Claims.Clear s0 (some (.md (Fin.ofNat 8 7))) := by decide +kernel
/-- MTS at the ends of its ranges: every register it may write, COUNT 3, a legal and an illegal format. -/
theorem test_premises_SpecialRegisters :
    Claims.On ga s0 ∧ Claims.Clear s0 (sLoc (.r 3)) ∧ s0.rdS (.r 3) = .ok 3 ∧ 3 % 4 = 3 ∧ s0.rdS (.r 1) = .ok 6 ∧ 6 % 4 ≠ 3 ∧ isMesh s0.me = true ∧ isMesh sS.me = false ∧
    ([8, 10, 11, 12, 13, 14, 15, 16, 17, 18, 19, 20, 21, 22, 26, 30, 32, 39].all fun n => (⟨ga, .r 1, Fin.ofNat 40 n⟩ : SMts).wf) = true ∧
    fmtLegal (BitVec.ofNat 32 6) = false ∧ fmtLegal 0x01B0F508 = true ∧ (opn 0 (with0 (setS 1 0x01B0F508) base)).rdS (.r 1) = .ok 0x01B0F508 ∧
    Claims.On ga sS ∧ sS.rdS (.r 1) = .ok 6 := by decide +kernel

/-! Privileged forms. -/
def setSk (k : Nat) (n : Fin 16) (v : Nat) (s : State) : State := s.modCtx k (setS n v)
/-- Context k with a in S1 and b in S2, its bundle open. -/
def withAB (k a b : Nat) (s : State) : State := opn k (setSk k 1 a (setSk k 2 b s))
def mmA (a b : Nat) : State := withAB 8192 a b base
def strA (a b : Nat) : State := withAB 4096 a b base
theorem test_premises_PrivilegedTraps :
    Claims.privileged (.tlbsync ⟨ga, .r 3⟩) = some ga ∧ Claims.On ga s0 ∧ isMesh s0.me = true ∧ Claims.On ga sS ∧ isMesh sS.me = false ∧
    (opn 4096 (base.modCtx 4096 fun c => { c with seg := some seg1 })).pre.seg.isSome = true ∧ isMgmt sS.me = false ∧ Claims.Priv ga (.r 3) sS ∧
    sS.rdS (.r 1) = .ok 6 ∧ sS.rdS (.r 2) = .ok 7 := by decide +kernel
/-- Partition 1 of the issuer, partition 2 of another, a reserved bit; the ends of a range; a removal of the issuer's under way. -/
theorem test_premises_PrivilegedSync_translation :
    Claims.Priv ga (.r 3) (strA (1 * 2 ^ 57 + 0x1000) 1) ∧ (strA (1 * 2 ^ 57 + 0x1000) 1).rdS (.r 1) = .ok (1 * 2 ^ 57 + 0x1000) ∧ 1 * 2 ^ 57 + 0x1000 < 2 ^ 63 ∧
    bitsOf (1 * 2 ^ 57 + 0x1000) 57 6 = sS.pre.part ∧ (strA (2 ^ 63) 1).rdS (.r 1) = .ok (2 ^ 63) ∧ bitsOf (2 * 2 ^ 57) 57 6 ≠ sS.pre.part ∧ isMgmt sS.me = false ∧
    (strA (2 * 2 ^ 57) 1).rdS (.r 1) = .ok (2 * 2 ^ 57) ∧ isMgmt sM.me = true ∧ Claims.Priv ga (.r 3) sM ∧ (∀ y ∈ sS.dying, y.1 ≠ sS.me) ∧
    Claims.Priv ga (.r 3) (opn 4096 { base with dying := [(4096, 1, 0, 1, 9)] }) ∧ (∃ y ∈ (opn 4096 { base with dying := [(4096, 1, 0, 1, 9)] }).dying, y.1 = 4096) := by decide +kernel
theorem test_premises_PrivilegedQueries :
    Claims.Priv ga (.r 3) (strA 255 0) ∧ (strA 255 0).rdS (.r 1) = .ok 255 ∧ unitOk 255 = true ∧ 255 < 256 ∧ unitOk 256 = false ∧ unitOk 0x10000000 = true ∧ 256 ≤ 0x10000000 ∧
    handle 0x1004 = none ∧ handle 0 = some 0 ∧ isMgmt sM.me = true ∧ isMgmt sS.me = false ∧ (∀ n, n < ctxCount (coreOf 0) → (sS.part sS.pre.part).grants (keyOf (coreOf 0) n) = false) ∧
    (strA 1 0).rdS (.r 2) = .ok 0 ∧ 1 < 64 ∧ meterIndex 0 = true ∧ (strA 1 0).mine 1 = true ∧ ((strA 1 0).part 1).exist = true ∧ (strA 1 0).mine 2 = false ∧ 64 ≤ 64 ∧
    ((opn 4096 (base.modPart 1 fun p => { p with cgrant := 1 })).part 1).grants (keyOf (coreOf 0) 0) = true ∧ meterIndex 10000000 = false := by decide +kernel
/-- CTXKILL of a mesh context of the issuer's, of a Free one with and without an operation on it, of another partition's; the others at their ends. -/
def loading : State := { base with ops := [{ mkOp .load 103 1 1 0 1 5 [] with issuer := some 4096, ticket := 1 }] }
theorem test_premises_PrivilegedSync_contexts :
    Claims.Priv ga (.r 3) (strA 0 7) ∧ (strA 0 7).rdS (.r 1) = .ok 0 ∧ (strA 0 7).rdS (.r 2) = .ok 7 ∧ handle 0 = some 0 ∧ (strA 0 7).mineCtx 0 = true ∧
    ((strA 0 7).ctx 0).status ≠ .free ∧ handle 1 = some 1 ∧ (withAB 8192 1 7 loading).mineCtx 1 = true ∧ ((withAB 8192 1 7 loading).ctx 1).status = .free ∧
    (withAB 8192 1 7 loading).opOn 1 = true ∧ (mmA 1 7).mineCtx 1 = true ∧ (mmA 1 7).opOn 1 = false ∧
    (withAB 4096 0 7 (base.modCtx 0 fun c => { c with part := 2 })).mineCtx 0 = false ∧ isMgmt (mmA 1 65535).me = true ∧ 1 < 64 ∧ 65535 < 65536 ∧ (mmA 1 65535).locked 1 = false ∧
    ((mmA 1 65535).part 1).exist = true ∧ unitOk 1 = true ∧ Claims.Priv ga (.r 3) (mmA 1 65535) ∧
    ((mmA 0 5).ctx 0).regs.sys.dmode = false := by decide +kernel
def injecting : State := base.modPart 1 fun p => { p with inject := true }
def testing (y : UnitSt) : State := withAB 8192 3 0 { base with units := [(3, y)] }
theorem test_premises_PrivilegedSync_units :
    Claims.Priv ga (.r 3) (withAB 4096 1 0 injecting) ∧ (withAB 4096 1 0 injecting).mine 1 = true ∧ ((withAB 4096 1 0 injecting).part 1).inject = true ∧
    ((withAB 4096 1 0 injecting).part 1).exist = true ∧ 0x1000000 ≤ 0x40000123 ∧ 0x40000123 < 2 ^ 57 ∧
    walkFrom (withAB 4096 1 0x40000123 injecting).mem 0x40000123 levels ((withAB 4096 1 0x40000123 injecting).part 1).root =
      .leaf 0x400000DF (mkey 0 0x3008) 0x40000000 0x40000000 ∧
    (withAB 4096 1 0x40000123 injecting).physOk 0x400000DF (pteAddr 0x400000DF + (0x40000123 - 0x40000000)) = true ∧
    Claims.Priv ga (.r 3) (testing UnitSt.new) ∧ (testing UnitSt.new).rdS (.r 1) = .ok 3 ∧ unitOk 3 = true ∧ ((testing UnitSt.new).unit 3).lease = false ∧
    ((testing { UnitSt.new with lease := true, out := true }).unit 3).lease = true ∧ ((testing { UnitSt.new with lease := true, out := true }).unit 3).out = true ∧
    ((testing { UnitSt.new with lease := true }).unit 3).out = false := by decide +kernel
def fenced0 : State := base.modCore 0 fun c => { c with health := { c.health with fenced := true } }
def noded : State := base.modCtx 0 fun c => { c with node := 1 }
def granted : State := (base.modPart 1 fun p => { p with cgrant := BitVec.allOnes 1024, sgrant := BitVec.allOnes 64 }).modCtx 0 fun c => { c with ctl := { c.ctl with banks := 0 } }
theorem test_premises_PrivilegedAsync :
    Claims.Priv ga (.r 3) (strA 0 7) ∧ handle 0 = some 0 ∧ (strA 0 7).mineCtx 0 = true ∧ (strA 0 7).opOn 0 = false ∧ ((strA 0 7).ctx 0).status ≠ .free ∧
    Claims.Priv ga (.r 3) (mmA 5 0) ∧ isMgmt (mmA 5 0).me = true ∧ unitOk 5 = true ∧ (mmA 5 0).leasable 5 = true ∧ ((mmA 5 0).unit 5).retired = false ∧ ((mmA 5 0).unit 5).lease = false ∧
    ((withAB 8192 0 0 fenced0).core 0).health.fenced = true ∧ ((withAB 8192 0 0 fenced0).unit 0).retired = false ∧ (∀ o ∈ (withAB 8192 0 0 fenced0).ops, o.kind ≠ .appeal ∨ o.target ≠ 0) ∧
    (strA 1 0).opOn 1 = false ∧ ((strA 1 0).ctx 1).status = .free ∧ (∀ k ∈ (mmA 5 0).bound 5, ((mmA 5 0).ctx k).node = 0) ∧
    (∃ k ∈ (withAB 8192 0 0 noded).bound 0, ((withAB 8192 0 0 noded).ctx k).node ≠ 0) ∧ 256 ≤ 0x10000000 ∧ unitOk 0x10000000 = true ∧
    1 * 2 ^ 57 + 65536 < 2 ^ 63 ∧ (1 * 2 ^ 57 + 65536) % 2 ^ 57 % 65536 = 0 ∧ bitsOf (1 * 2 ^ 57 + 65536) 57 6 = 1 ∧ (strA 1 0).mine 1 = true ∧ ((strA 1 0).part 1).exist = true ∧
    handle 0 = some 0 ∧ 2 ^ 24 - 1 < 2 ^ (if isMesh 0 then 24 else 8) ∧ (withAB 4096 0 1 granted).granted 0 = some 1 ∧ (withAB 4096 0 1 granted).mine 1 = true ∧
    (∀ i, i < 24 → 1 / 2 ^ i % 2 = 1 → (∀ q ∈ (withAB 4096 0 1 granted).bankOwner (coreOf 0) i, q = 1) ∧
      ∀ j ∈ (withAB 4096 0 1 granted).bound (coreOf 0), ((withAB 4096 0 1 granted).ctx j).ctl.banks.getLsbD i = false) ∧
    (64 : Nat) % 64 = 0 ∧ bitsOf 1 6 2 = 0 ∧ (1 : Nat) < 64 := by decide +kernel
/-- PARTSET: a descriptor of 512 bytes in the management context's scratchpad, for a new partition 2, a present 3, one busy, stopped or locked. -/
def descBytes (l : List (Nat × Nat)) : List Byte := (List.range 64).flatMap fun i => bytesOf (((l.find? fun x => x.1 = 8 * i).map Prod.snd).getD 0) 8
def desc (p : Nat) : List Byte :=
  descBytes [(0, p), (8, 5), (0x10, 0xFFFF), (0x20, 0x80000000), (0x28, 0x40000000), (0x40, 0x2000000000), (0x48, 1048576), (0x50, 2 ^ 40)]
def partset (p : Nat) (f : Part → Part) : State :=
  withAB 8192 0x200 0 ({ base with mem := base.mem.putN (mkey (padSpace 260) 0x200) 512 (ofBytes (desc p)) }.modPart p f)
def isDesc (s : State) (p : Nat) : Prop :=
  Claims.Priv ga (.r 3) s ∧ isMgmt s.me = true ∧ s.rdS (.r 1) = .ok 0x200 ∧ 0x200 % 512 = 0 ∧ s.forForm.readVirt s.forForm.me 0x200 512 3 = some (desc p) ∧
    descOk (desc p) = true ∧ le (desc p) 0 8 = p
theorem test_premises_PrivilegedAsync_partset :
    isDesc (partset 2 id) 2 ∧ ((partset 2 id).forForm.part 2).busy = false ∧ (partset 2 id).forForm.createState (desc 2) = true ∧
    isDesc (partset 3 fun p => { p with busy := true }) 3 ∧ ((partset 3 fun p => { p with busy := true }).forForm.part 3).busy = true ∧
    isDesc (partset 3 fun p => { p with exist := true }) 3 ∧ ((partset 3 fun p => { p with exist := true }).forForm.part 3).exist = true ∧
    ((partset 3 fun p => { p with exist := true }).forForm.part 3).stopped = false ∧
    (∀ c ∈ (partset 3 fun p => { p with exist := true }).forForm.ctxs, c.2.status = .free ∨ c.2.part ≠ 3) ∧ (partset 3 fun p => { p with exist := true }).forForm.locked 3 = false ∧
    ((partset 3 fun p => { p with exist := true, stopped := true }).forForm.part 3).stopped = true ∧
    (partset 3 fun p => { p with exist := true, tdi := .run }).forForm.locked 3 = true ∧ 0x208 % 512 ≠ 0 := by
  unfold isDesc
  decide +kernel

/-! The flow slot. -/
def flowing (f : FlowRegs → FlowRegs) : State := opn 0 (with0 (fun c => c.modFlow f) base)
def leafOf (s : State) (x : FBt) : Nat :=
  let test (t : Fin 16) : Bool := (predBits s.pre (Fin.ofNat 8 (t % 8)) % 2 == 1) != decide (8 ≤ t.val)
  Claims.leaf (fun i => [test x.t1, test x.t2, test x.t3, test x.t4].getD i false) (Claims.shapes.getD x.s .L) 0 0
theorem test_premises_FlowTransfers :
    Claims.On ga s0 ∧ s0.rdM 63 = .ok 0 ∧ leafOf s0 ⟨ga, 0, 0, 0, 0, 0⟩ = 0 ∧ leafOf s0 ⟨ga, 0, 1, 1, 1, 0⟩ = 3 ∧ leafOf s0 ⟨ga, 13, 8, 8, 8, 8⟩ = 4 ∧ s0.pre.regs.sys.tl = 0 ∧
    (opn 0 (atLevel 2 base)).pre.regs.sys.tl = 1 + 1 := by decide +kernel
/-- LOOP: six levels, its own level active, a body that ends before, one that ends together; a counter of 0 and one above. -/
def level (n : Fin 6) (last : Nat) : Level := ⟨n, 0x3FFFFFE0, last, []⟩
def loopS (l : List Level) (n : BitVec 32) : State := flowing fun f => { f with loops := l, lc := f.lc.set 2 n }
def loopX : FLoop := ⟨ga, 2, 63⟩
def nests (s : State) : Prop :=
  6 ≤ s.pre.regs.flow.loops.length ∨ ∃ l ∈ s.pre.regs.flow.loops, l.n = loopX.n ∨ l.last < s.pre.regs.flow.pc.toNat + 32 * (loopX.len.val + 1)
theorem test_premises_FlowLoops :
    Claims.On ga (loopS [] 0) ∧ nests (loopS (List.replicate 6 (level 1 0x50000000)) 1) ∧ nests (loopS [level 2 0x50000000] 1) ∧ nests (loopS [level 1 0x400007E0] 1) ∧
    ¬nests (loopS [level 1 0x40000800] 1) ∧ ¬nests (loopS [] 0) ∧ (loopS [] 0).pre.regs.flow.lc[loopX.n] = 0 ∧ (loopS [] 1).pre.regs.flow.lc[loopX.n] ≠ 0 ∧
    (flowing fun f => { f with epi := { f.epi with resuming := true } }).pre.regs.flow.epi.resuming = true ∧ s0.pre.regs.flow.epi.resuming = false := by
  unfold nests
  decide +kernel
def flag3 (v : BitVec 32) (f : Ctx → Ctx) : State := opn 0 (with0 (fun c => f { c with f := c.f.set 3 v }) base)
def timeline (cs : List Cmd) (i : Nat) : State := opn 0 (with0 (fun c => { c with cmds := cs }.modDat fun d => { d with issued := d.issued.set 1 i }) base)
def cmdOf (n : Nat) (su : Option (Nat × Nat)) : Cmd := { Cmd.blank 1 .nop with num := n, susp := su }
/-- WAIT just short of its count and just enough, in and out of a segment; TLW past I, at a suspended command, at one to come, and met. -/
theorem test_premises_FlowFlags :
    Claims.On ga (flag3 4 id) ∧ ((flag3 4 id).pre.f[(3 : Fin 16)]).toNat < (Count.imm 5).val (flag3 4 id) ∧ (Count.imm 5).val (flag3 5 id) ≤ ((flag3 5 id).pre.f[(3 : Fin 16)]).toNat ∧
    (flag3 5 id).pre.seg = none ∧ (flag3 5 fun c => { c with seg := some seg1 }).pre.seg.isSome = true ∧ s0.pre.regs.flow.bb[(7 : Fin 8)] = 0 ∧
    (flowing fun f => { f with bb := f.bb.set 7 1 }).pre.regs.flow.bb[(7 : Fin 8)] ≠ 0 ∧ (timeline [] 3).pre.regs.dat.issued[(1 : Fin 3)] < 4 ∧
    3 ≤ (timeline [cmdOf 2 (some (5, 7)), cmdOf 3 none] 3).pre.regs.dat.issued[(1 : Fin 3)] ∧ (timeline [cmdOf 2 (some (5, 7)), cmdOf 3 none] 3).pre.suspended 1 2 = some 7 ∧
    (timeline [cmdOf 3 none] 3).pre.suspended 1 3 = none ∧ (∃ m ∈ (timeline [cmdOf 3 none] 3).pre.cmds, m.eng = 1 ∧ m.num ≤ 3 ∧ 0 < m.num) ∧
    (∀ m ∈ (timeline [cmdOf 3 none] 3).pre.cmds, m.eng = 1 → 2 < m.num) ∧
    (⟨ga, 0, 3, 63⟩ : FGetm).wf = true ∧ (⟨ga, 1, 0, 63⟩ : FGetm).wf = true ∧ (⟨ga, 2, 5, 63⟩ : FGetm).wf = true ∧ (⟨ga, 3, 15, 63⟩ : FGetm).wf = true ∧
    (⟨ga, 4, 7, 63⟩ : FGetm).wf = true ∧ s0.rdM 63 = .ok 0 := by decide +kernel
/-- A node with contexts on cores 0, 1 and 8, which are neighbours; core 9 is of the glen too and has none. -/
def noded3 : State :=
  { base with ctxs := [(0, { someCtx 1 with node := 1 }), (1, { someCtx 1 with node := 1 }), (8, { someCtx 1 with node := 1 }), (4096, someCtx 1), (8192, someCtx 0)],
              nodes := [(1, { Node.none with run := true, part := 1, ctxs := [0, 1, 8], owner := 4096 })], nextNode := 2 }
def sN (f : State → State) : State := opn 0 (f noded3)
def fullQueue : State := sN fun s => s.modCtx 1 fun c => { c with q := c.q.set 0 (List.replicate 64 0) }
theorem test_premises_FlowFlags_messages :
    Claims.On ga (sN id) ∧ (sN id).pre.seg = none ∧ (sN id).receiver 0 1 = some 1 ∧ (sN id).receiver 0 5 = some 8 ∧ (sN id).receiver 0 3 = none ∧ (sN id).receiver 0 7 = none ∧
    (sN id).rdM 63 = .ok 0 ∧ (sN id).taken 1 3 < 64 ∧ 64 ≤ fullQueue.taken 1 0 ∧ fullQueue.receiver 0 4 = some 1 ∧ (sN (inSeg seg1)).pre.seg.isSome = true := by decide +kernel
def masked (f : State → State) : State := sN fun s => f (inSeg { seg1 with mask := 0x10 } s)
def has (f : Ctx → Ctx) : State := opn 0 (with0 f base)
theorem test_premises_FlowOrder :
    Claims.On ga (masked id) ∧ (∃ b, b < 8 ∧ (0x10 : BitVec 8).getLsbD b = true ∧ (masked id).rdvMet (masked id).me b = false) ∧
    (∀ b, b < 8 → (0x10 : BitVec 8).getLsbD b = true → (masked fun s => s.modCtx 1 fun c => { c with rdv := 1 }).rdvMet 0 b = true) ∧
    ¬Claims.Suspended s0 ∧ s0.pre.ridgeKey ∉ s0.pre.passes ∧ (has fun c => { c with passes := [c.ridgeKey] }).pre.ridgeKey ∈ (has fun c => { c with passes := [c.ridgeKey] }).pre.passes ∧ s0.pre.cmds = [] ∧ s0.pre.accs = [] ∧
    (has fun c => { c with cmds := [cmdOf 1 none] }).pre.cmds ≠ [] ∧ ¬Claims.Suspended (has fun c => { c with cmds := [cmdOf 1 none] }) ∧ waiting.pre.accs ≠ [] ∧
    (∃ g, s0.pre.seg = some g ∧ g.buf ≠ []) = False ∧ sBuf.pre.seg = some { seg1 with buf := [buffered], used := 1 } ∧
    Claims.Suspended (has fun c => { c with cmds := [cmdOf 1 (some (3, 99))] }) := by decide +kernel
def debugging : State := opn 0 (base.modPart 1 fun p => { p with debug := true })
def shared : State := opn 0 { base with ctxs := [(0, someCtx 1), (256, someCtx 2), (4096, someCtx 1), (8192, someCtx 0)] }
theorem test_premises_FlowControl :
    Claims.On ga s0 ∧ (debugging.part debugging.pre.part).debug = true ∧ (s0.part s0.pre.part).debug = false ∧ isMesh sS.me = false ∧ Claims.On ga sS ∧
    (∀ j ∈ s0.bound (coreOf s0.me), (s0.ctx j).part = s0.pre.part) ∧ (∃ j ∈ shared.bound (coreOf shared.me), (shared.ctx j).part ≠ shared.pre.part) ∧ Claims.On ga shared ∧
    (neighbour (coreOf s0.me) 0).isSome = true ∧ (neighbour (coreOf s0.me) 2).isSome = false ∧ 256 ≤ coreOf sS.me ∧ coreOf s0.me < 256 := by decide +kernel

/-! LAUNCH: header at 0x1000 and control blocks at 0x2000 of the stream core's scratchpad. -/
def field (l : List (Nat × Nat)) (n : Nat) : List Byte := bytesOf (l.foldl (fun a x => a + x.2 * 256 ^ x.1) 0) n
def header (blocks count : Nat) : List Byte := field [(0, blocks), (8, count), (0x10, 0x3000), (0x18, 5)] 64
def block (entry ctx core lcore : Nat) : List Byte :=
  field [(0, entry), (0x0C, ctx), (0x0E, core), (0x10, lcore), (0x14, 2), (0x1C, 0xFF), (0x20, 77), (0x28, 0x200), (0x30, 0x9000),
    (0x40, 0x340000 * (4 * core + ctx)), (0x58, 1)] 128
def launches (h b1 b2 : List Byte) : State :=
  opn 4096 ({ base with
    ctxs := [(4096, (someCtx 1).modDat fun d => { d with m := d.m.set 5 0x1000 }), (8192, someCtx 0)],
    mem := (base.mem.putN (mkey (padSpace 256) 0x1000) 64 (ofBytes h)).putN (mkey (padSpace 256) 0x2000) 256 (ofBytes (b1 ++ b2)) }.modPart 1 fun p =>
      { p with cgrant := BitVec.allOnes 1024 })
def launchX : FFlagM := ⟨ga, 6, 5⟩
def statusKey : Nat := mkey (padSpace 256) 0x3000
def unlocked (s : State) : State := there s.forForm 0x3000 .write
theorem premises_launch (h b1 b2 : List Byte) (hs : (launches h b1 b2).pre.seg = none) (he : Claims.On ga (launches h b1 b2)) (hm : (launches h b1 b2).me = 4096)
    (hb : ((launches h b1 b2).part (launches h b1 b2).pre.part).overrun = false) (ha : (launches h b1 b2).rdM 5 = .ok 0x1000)
    (hh : (launches h b1 b2).forForm.readVirtR (launches h b1 b2).me (0x1000 % 2 ^ 64) 64 3 = .ok h)
    (hk : (launches h b1 b2).forForm.locate (launches h b1 b2).me (le h 0x10 8 / 8 * 8) .write = .ok statusKey false (unlocked (launches h b1 b2))) :
    Claims.Launch launchX (launches h b1 b2) (unlocked (launches h b1 b2)) 0x1000 h statusKey false :=
  ⟨he, by rw [hm]; decide, hs, hb, ha, hh, hk⟩
def good : State := launches (header 0x2000 2) (block 0x40000000 0 3 0) (block 0x40000020 1 3 1)
theorem test_premises_FlowLaunch : Claims.Launch launchX good (unlocked good) 0x1000 (header 0x2000 2) statusKey false :=
  by apply premises_launch <;> decide +kernel
/-- What the blocks of a launch come to: refused at its header (1), at a block (2), at a seat (3), started (4), or held by old commands (5). -/
def verdictOf (s : State) (h : List Byte) : Nat :=
  let u := unlocked s
  if !headerOk 0x1000 h then 1
  else match u.readBlocks s.me (le h 0 8) (le h 8 4) with
    | .ok l =>
      let seats := seatsOf l
      if (badBlock (u.part s.pre.part) l).isSome then 2
      else if !seats.all fun y => u.seatOk s.pre.part seats y then 3
      else if seats.all fun y => (u.ctx y.key).cmds.isEmpty then 4 else 5
    | .error _ => 0
def verdictFor (h b1 b2 : List Byte) : Nat := verdictOf (launches h b1 b2) h
/-- The same launch, the Free context 0 of core 3 still with a command of an earlier life. -/
def stale : State := good.modCtx (keyOf 3 0) fun c => { c with cmds := [cmdOf 1 none] }
theorem test_premises_FlowLaunch_cases :
    verdictFor (header 0x2040 2) (block 0x40000000 0 3 0) (block 0x40000020 1 3 1) = 1 ∧ verdictFor (header 0x2000 2) (block 0x40000000 0 3 2) (block 0x40000020 1 3 1) = 2 ∧
    verdictFor (header 0x2000 2) (block 0x40000000 0 3 0) (block 0x40000020 0 3 1) = 3 ∧ verdictFor (header 0x2000 2) (block 0x40000000 0 3 0) (block 0x40000020 1 3 1) = 4 ∧
    verdictOf stale (header 0x2000 2) = 5 ∧
    Claims.On ga s0 ∧ isStream s0.me = false ∧ (opn 4096 (base.modCtx 4096 fun c => { c with seg := some seg1 })).pre.seg.isSome = true ∧ isStream sS.me = true ∧
    ((opn 4096 (base.modPart 1 fun p => { p with overrun := true })).part 1).overrun = true := by decide +kernel

/-! Slots a and b. A context with lanes in V1 (the addresses 4 × i from 0x100, lane 1 the same as lane 0), V2 and V3, a series in X1 and M9. -/
def lanesOf (f : Nat → Nat) : BitVec 2048 := BitVec.ofNat 2048 (vlanes f)
def vecRegs : DataRegs → DataRegs := fun r =>
  { r with a := { r.a with r := ((r.a.r.set 1 (lanesOf fun i => if i = 1 then 0x100 else 0x100 + 4 * i)).set 2 (lanesOf fun i => 3 * i + 1)).set 3 (lanesOf fun _ => 0x0103) },
           b := { r.b with r := ((r.b.r.set 1 (lanesOf fun i => if i = 1 then 0x100 else 0x100 + 4 * i)).set 2 (lanesOf fun i => 3 * i + 1)).set 3 (lanesOf fun i => if i = 0 then 0x300000 else i) } }
def vctx (f : Ctx → Ctx := id) (g : State → State := id) : State := opn 0 (g (with0 (fun c => f (c.modDat vecRegs)) base))
def vbase : State := vctx
theorem test_premises_VectorArithmetic :
    Claims.Lanes ga vbase ∧ Claims.Clear vbase (vLoc .a (.r 3)) ∧ Claims.Clear vbase (vLoc .b .void) ∧ (vbase.rdV .a (.r 2)).isOk = true ∧ (vbase.rdV .b (.r 2)).isOk = true ∧
    (vbase.rdV .b .lit).isOk = true ∧ (vbase.rdVD .a (.r 3)).isOk = true ∧ (vbase.rdVD .b .void).isOk = true ∧ VType.i32 ≠ .f32 := by decide +kernel
theorem test_premises_VectorMoves :
    Claims.Lanes ga vbase ∧ Claims.On ga vbase ∧ Claims.Clear vbase (some (.p 1)) ∧ (vbase.rdV .a (.r 2)).isOk = true ∧ (vbase.rdM 9).isOk = true ∧ Claims.Clear vbase (some (.m 9)) ∧
    (⟨ga, 3, .r 2, 2⟩ : VXfer).wf .a = true ∧ (⟨ga, 3, .r 2, 5⟩ : VXfer).wf .a = true ∧ (⟨ga, 3, .r 2, 4⟩ : VXfer).wf .a = true ∧ (⟨ga, 3, .r 2, 3⟩ : VXfer).wf .b = true ∧
    VUnit.b.slot = 4 ∧ VUnit.a.slot = 3 ∧ Claims.Clear vbase (some (sReg 3)) ∧ Claims.Clear vbase (some (.md (Fin.ofNat 8 3))) ∧ Claims.Clear vbase (some (vReg .b 3)) ∧
    Claims.Clear vbase (some (vReg .a 3)) ∧ Claims.Clear vbase (some (.ve .a 1)) ∧ vbase.rdV .a .lit = .ok (vlanes fun _ => 9) ∧
    fmtLegal 9 = false ∧ fmtLegal (fmtPresets[4]) = true ∧ (vbase.rdV .a .zero = .ok 0) ∧ fmtLegal 0 = false := by decide +kernel
def narrowed : State := vctx fun c => c.modDat fun r => { r with p := r.p.set 1 0xFFFFFFFF }
/-- Packing at the last part and at the next one, with a plain format and one with block scales, lanes in both blocks and in one. -/
theorem test_premises_VectorConversions :
    Claims.Lanes ga vbase ∧ Claims.Clear vbase (vLoc .a (.r 3)) ∧ (vbase.rdV .a (.r 2)).isOk = true ∧ (vbase.rdVD .a (.r 3)).isOk = true ∧
    (⟨ga, .r 3, .r 2, true, 8, 4, .rne⟩ : VCvt).wf = true ∧ (⟨ga, .r 3, .r 2, false, 6, 4, .rne⟩ : VCvt).e = false ∧
    packParts (packWidth vbase.pre.regs.sys 12) = 8 ∧ packBS vbase.pre.regs.sys 12 = false ∧ packParts (packWidth vbase.pre.regs.sys 14) = 8 ∧
    packBS vbase.pre.regs.sys 14 = true ∧ Claims.Clear vbase (some (.vn .a 3)) ∧ (∃ i ∈ Claims.active ga vbase, i / 32 = 0) ∧ (∃ i ∈ Claims.active ga vbase, i / 32 = 1) ∧
    (∀ i ∈ Claims.active ⟨false, 1⟩ narrowed, i / 32 ≠ 1) ∧ Claims.Lanes ⟨false, 1⟩ narrowed ∧ packParts (packWidth vbase.pre.regs.sys 3) = 2 ∧ (vbase.pre.read (.vn .a 3)).isOk = true := by
  decide +kernel
theorem test_premises_VectorLanes :
    Claims.Lanes ga vbase ∧ Claims.Clear vbase (vLoc .a (.r 3)) ∧ (vbase.rdV .a (.r 2)).isOk = true ∧ (vbase.rdV .a (.r 3)).isOk = true ∧ (vbase.rdVD .a (.r 3)).isOk = true ∧
    vbase.opened.isSome = true := by decide +kernel
/-- Bases at the start of the own scratchpad, not aligned, and past the last core's; a segment with the last place of log and buffer free. -/
def vkey (a : Nat) (i : Nat) : Nat := mkey (padSpace 0) (0x100 + a * i)
def based (v : Nat) : State := vctx (fun c => c.modDat fun r => { r with b := { r.b with r := r.b.r.set 4 (lanesOf fun i => if i = 0 then v else i) } })
def dmode0 (c : Ctx) : Ctx := c.modSys fun y => { y with dmode := true }
def vseg : State := vctx (fun c => { c with seg := some { seg1 with logged := 511, used := 255 } })
def vexact : State := vctx dmode0
def lanes (s : State) (u : VUnit) (x : Src) (i : Nat) : Nat := match s.rdV u x with | .ok v => lane v i | .error _ => 0
theorem test_premises_VectorMemory :
    Claims.Lanes ga (based 0x100) ∧ ((based 0x100).rdV .b (.r 4)).isOk = true ∧ (based 0x100).rdV .b .zero = .ok 0 ∧ lanes (based 0x100) .b (.r 4) 0 = 0x100 ∧
    Claims.Reaches (based 0x100) ga (fun i => 0x100 + 4 * i) (vkey 4) ∧ (based 0x100).poison = [] ∧ Claims.Clear (based 0x100) (vLoc .b (.r 3)) ∧
    Claims.Own (based 0x100) ga (vkey 4) ∧ ((based 0x100).rdVD .b (.r 2)).isOk = true ∧ Claims.Room (based 0x100) ∧ Claims.Room vseg ∧ vseg.pre.seg.isSome = true ∧
    Claims.active ga (based 0x102) = 0 :: List.range' 1 63 ∧ lanes (based 0x102) .b (.r 4) 0 = 0x102 ∧ 0x102 % 4 ≠ 0 ∧ 0x300000 % 4 = 0 ∧
    lanes (based 0x300000) .b (.r 4) 0 = 0x300000 ∧ (based 0x300000).padKey 0 0x300000 = none ∧ ((based 0x100).ctx 0).exact = false ∧ Claims.Alone (based 0x100) ∧
    Claims.Quiet (based 0x100) ∧ (based 0x100).mem.wf = true ∧ (vexact.ctx vexact.me).exact = true ∧ Claims.Alone vexact := by decide +kernel
/-- Words of core 1's scratchpad, where a context of the node holds the banks. -/
def vfar : State := opn 0 ((noded3.modCtx 0 fun c => c.modDat vecRegs).modCtx 0 fun c => c.modDat fun r =>
  { r with xo := 2, x := r.x.set 1 (BitVec.ofNat 8192 0x3F800000), b := { r.b with r := r.b.r.set 4 (lanesOf fun i => 0x700000 + 4 * i) } })
def farKey (a : Nat) (i : Nat) : Nat := mkey (padSpace 1) (a + 4 * i)
theorem test_premises_VectorMemory_elsewhere :
    Claims.Lanes ga vfar ∧ (vfar.rdV .b (.r 4)).isOk = true ∧ Claims.Reaches vfar ga (fun i => 0x700000 + 4 * i) (farKey 0) ∧ vfar.poison = [] ∧ Claims.Room vfar ∧
    Claims.Alone vfar ∧ (∀ j ∈ Claims.active ga vfar, farKey 0 j / spaceSize ≠ padSpace (coreOf 0)) ∧ Claims.Clear vfar (vLoc .b (.r 3)) ∧
    Claims.Words vfar 0x700000 (farKey 0) ∧ Claims.Clear vfar (some (.x 1)) ∧ lanes vfar .b (.r 4) 0 = 0x700000 := by decide +kernel
/-- A table at 0x100, indices 3 × i + 1 of 4 bits; atomics at the addresses of V1, with and without a reduction over their second word. -/
def vred : State := vctx id fun s => { s with reds := [⟨0, [(mkey (padSpace 0) 0x108, 4)], 1, 3, 10, 0, 0, [], [], 0⟩] }
theorem test_premises_VectorMemory_atomics :
    Claims.Reaches (based 0x100) ga (fun i => (Claims.b32 (lanes (based 0x100) .b (.r 4) 0) + 4 * BitVec.ofNat 32 (lanes (based 0x100) .b (.r 2) i % 2 ^ 4)).toNat)
      (fun i => mkey (padSpace 0) (0x100 + 4 * ((3 * i + 1) % 16))) ∧
    Claims.Reaches vbase ga (lanes vbase .a (.r 1)) (fun i => mkey (padSpace 0) (if i = 1 then 0x100 else 0x100 + 4 * i)) ∧ vbase.poison = [] ∧ Claims.Room vbase ∧ Claims.Quiet vbase ∧ Claims.Alone vbase ∧
    Claims.Own vbase ga (fun i => mkey (padSpace 0) (if i = 1 then 0x100 else 0x100 + 4 * i)) ∧
    Claims.Reaches vexact ga (lanes vexact .a (.r 1)) (fun i => mkey (padSpace 0) (if i = 1 then 0x100 else 0x100 + 4 * i)) ∧ vexact.poison = [] ∧ Claims.Room vexact ∧
    (∀ i ∈ Claims.active ga vbase, vbase.inReduction (mkey (padSpace 0) (if i = 1 then 0x100 else 0x100 + 4 * i)) 4 = false) ∧
    Claims.Reaches vred ga (lanes vred .a (.r 1)) (fun i => mkey (padSpace 0) (if i = 1 then 0x100 else 0x100 + 4 * i)) ∧
    ((Claims.active ga vred).find? fun i => vred.inReduction (mkey (padSpace 0) (if i = 1 then 0x100 else 0x100 + 4 * i)) 4).isSome = true := by decide +kernel

/-! Series, with XO of order 2, and words at a range that is aligned, one that is not, one that runs past the last scratchpad. -/
def sctx (a : Nat) : State :=
  vctx (fun c => c.modDat fun r => { r with xo := 2, x := r.x.set 1 (BitVec.ofNat 8192 0x3F800000), b := { r.b with r := r.b.r.set 4 (lanesOf fun _ => a) } })
def sexact (a : Nat) : State :=
  vctx (fun c => (dmode0 c).modDat fun r => { r with xo := 2, b := { r.b with r := r.b.r.set 4 (lanesOf fun _ => a) } })
theorem test_premises_SeriesShort :
    Claims.On ga (sctx 64) ∧ Claims.Clear (sctx 64) (some (.x 1)) ∧ ((sctx 64).rdX 1).isOk = true ∧ ((sctx 64).rdV .b (.r 4)).isOk = true ∧ Claims.Clear (sctx 64) (some (.p 1)) ∧
    Claims.Clear (sctx 64) (vLoc .b (.r 3)) ∧ Claims.p (sctx 64) = 2 := by decide +kernel
theorem test_premises_SeriesLong :
    Claims.On ga (sctx 64) ∧ (sctx 64).rdV .b .zero = .ok 0 ∧ lanes (sctx 64) .b (.r 4) 0 = 64 ∧ Claims.Words (sctx 64) 64 (fun j => mkey (padSpace 0) (64 + 4 * j)) ∧
    (sctx 64).poison = [] ∧ Claims.Clear (sctx 64) (some (.x 1)) ∧ Claims.Room (sctx 64) ∧ ((sctx 64).rdX 1).isOk = true ∧
    ((sctx 64).ctx 0).exact = false ∧ (∀ j, j < 256 → mkey (padSpace 0) (64 + 4 * j) / spaceSize = padSpace (coreOf 0)) ∧ (sctx 64).mem.wf = true ∧ Claims.Quiet (sctx 64) ∧
    ((sexact 64).ctx 0).exact = true ∧ Claims.Alone (sexact 64) ∧ Claims.Words (sexact 64) 64 (fun j => mkey (padSpace 0) (64 + 4 * j)) ∧
    lanes (sctx 32) .b (.r 4) 0 = 32 ∧ 32 % 64 ≠ 0 ∧ 0x2FFFC0 % 64 = 0 ∧ (∃ j, j < 256 ∧ (sctx 0x2FFFC0).padKey 0 (0x2FFFC0 + 4 * j) = none) := by
  have h : ∃ j, j < 256 ∧ (sctx 0x2FFFC0).padKey 0 (0x2FFFC0 + 4 * j) = none := ⟨16, by decide +kernel⟩
  and_intros
  any_goals assumption
  all_goals decide +kernel

/-! The matrix slot. MD0 and MD1 are the operand pair (e, o), MD2 and MD3 another, M9 holds m. -/
def mdRegs (e o m : Nat) : DataRegs → DataRegs := fun r =>
  { r with md := (((r.md.set 0 (BitVec.ofNat 64 e)).set 1 (BitVec.ofNat 64 o)).set 2 (BitVec.ofNat 64 (0x1000 + 128 * 2 ^ 32))).set 3 0, m := r.m.set 9 (BitVec.ofNat 2048 m) }
def mctx (e o m : Nat) (f : Ctx → Ctx := id) (g : State → State := id) : State := opn 0 (g (with0 (fun c => f (c.modDat (mdRegs e o m))) base))
def rows256 : Nat := 0x2000 + 256 * 2 ^ 32
/-- The first row of Z0 written; a command that still writes Z1 and one that still writes T3; 64 commands outstanding. -/
def wm1 : Ctx → Ctx := fun c => { c with wz := c.wz.set 0 1 }
def cmdNum (op : CmdOp) (n : Nat) : Cmd := { Cmd.blank 0 op with num := n }
def writing : Ctx → Ctx := fun c => { c with cmds := [cmdNum (.mzero 1) 1, cmdNum (.mldt 3 8 0 ⟨0, 0⟩) 2] }
def sixtyFour : Ctx → Ctx := fun c => { c with cmds := (List.range 64).map fun i => cmdNum (.mzero 1) (i + 1) }
theorem test_premises_MatrixRegisters :
    Claims.On ga (mctx rows256 0 0 wm1) ∧ (LSrc.lit.rd (mctx rows256 0 0 wm1)).isOk = true ∧ ((mctx rows256 0 0 wm1).pre.read (.md 2)).isOk = true ∧
    Claims.Clear (mctx rows256 0 0 wm1) (some (.m 9)) ∧ Claims.Clear (mctx rows256 0 0 wm1) (some (.md 2)) ∧ ((mctx rows256 0 0 wm1).rdM 9).isOk = true ∧
    (⟨ga, 3, 2, 2⟩ : MXfer).wf = true ∧ (⟨ga, 3, 2, 3⟩ : MXfer).wf = true ∧ (⟨ga, 3, 2, 4⟩ : MXfer).wf = true ∧ Claims.Clear (mctx rows256 0 0 wm1) (some (sReg 3)) ∧
    Claims.Clear (mctx rows256 0 0 wm1) (some (vReg .b 3)) ∧ 0 < (mctx rows256 0 0 wm1).pre.wz[(0 : Fin 4)] ∧ (mctx rows256 0 0 wm1).pre.wz[(0 : Fin 4)] ≤ 1 ∧
    (mctx rows256 0 0 writing).pre.busyZ 0 = false ∧ (mctx rows256 0 0 writing).pre.busyZ 1 = true ∧ Claims.On ga (mctx rows256 0 0 writing) ∧
    Claims.Clear (mctx rows256 0 0 writing) (some (.m 9)) ∧
    ((mctx rows256 0 0 wm1).pre.finals.find? fun f => f.1 = 0 && decide (f.2.1 ≤ 0) && decide (0 < f.2.2.1)) = none ∧
    (let s := mctx rows256 0 0 fun c => { wm1 c with finals := [(0, 0, 1, 7)] }
     (s.pre.finals.find? fun f => f.1 = 0 && decide (f.2.1 ≤ 0) && decide (0 < f.2.2.1)) = some (0, 0, 1, 7) ∧ 0 < s.pre.wz[(0 : Fin 4)]) := by decide +kernel
/-- MPITCH with no trace, with one that ends at the own scratchpad's last byte, with one past the last scratchpad, and with a reserved bit. -/
theorem test_premises_MatrixRegisters_trace :
    (mctx (0x400 * 2 ^ 32) 0 0).pre.read (.md 0) = .ok (0x400 * 2 ^ 32) ∧ 0x400 * 2 ^ 32 < 2 ^ 64 ∧ 0x400 * 2 ^ 32 / 2 ^ 56 = 0 ∧ bitsOf (0x400 * 2 ^ 32) 32 24 = 0x400 ∧
    (mctx 0 0 0).padCheck 0 0 0x400 = .ok () ∧ bitsOf 7 32 24 = 0 ∧ (mctx 0 0 0).padCheck 0 (0x300000 - 0x400 + 64) 0x400 ≠ .ok () ∧ 2 ^ 56 / 2 ^ 56 ≠ 0 ∧ Claims.On ga (mctx 0 0 0) := by
  decide +kernel
def okTile : MOp := .t 2
theorem test_premises_MatrixMultiply :
    Claims.Cmds ga (mctx rows256 0 0) ∧ (mctx rows256 0 0).rdOperand (.pair 0) 8 fmtPresets[0] = .ok (.mem ⟨BitVec.ofNat 64 rows256, 0⟩) ∧
    (mctx rows256 0 0).rdOperand okTile 10 fmtPresets[0] = .ok (.tile 2) ∧ (mctx rows256 0 0).pre.pitch.lat0 = 0 ∧
    (mctx rows256 0 0 (fun c => { c with pitch := { c.pitch with lat0 := 80 } })).pre.pitch.lat0 ≠ 0 ∧ Claims.On ga (mctx rows256 0 0 sixtyFour) ∧
    64 ≤ (mctx rows256 0 0 sixtyFour).pre.pendingOf 0 := by decide +kernel
def nest (n f : Nat) (l : List (Nat × Nat × Nat)) : Nat :=
  n + f * 2 ^ 32 + (l.zipIdx.map fun x => x.1.1 * 2 ^ (32 * (2 + x.2)) + x.1.2.1 * 2 ^ (32 * (8 + x.2)) + x.1.2.2 * 2 ^ (32 * (14 + x.2))).sum
def nested (m : Nat) (t : Option Nat) : State := mctx rows256 0 m fun c => { c with checkAt := t }
def nest2 : Nat := nest 2 8 [(2, 0x2000, 0x1000), (3, 0x100, 0x200)]
/-- A nest of two dimensions whose check has not begun and has ended; one of seven dimensions. -/
theorem test_premises_MatrixMultiply_nest :
    Claims.Cmds ga (nested nest2 none) ∧ ((nested nest2 none).rdM 9).isOk = true ∧ ((nested nest2 none).rdPair 0).isOk = true ∧ ((nested nest2 none).rdPair 1).isOk = true ∧
    nestOk nest2 = true ∧ nestCount nest2 = 6 ∧ MPair.ok ⟨BitVec.ofNat 64 rows256, 0⟩ = true ∧ (nested nest2 none).pre.checkAt = none ∧
    (nested nest2 (some 0)).pre.checkAt = some 0 ∧ 0 ≤ (nested nest2 (some 0)).now ∧
    (nested nest2 (some 0)).nestCheck ⟨BitVec.ofNat 64 rows256, 0⟩ ⟨0x8000001000, 0⟩ (lane nest2 1 % 16) fmtPresets[0] (nestSteps nest2) = .ok () ∧
    nestOk (nest 7 8 []) = false ∧ nestOk (nest 3 10 [(65535, 0, 0), (255, 0, 0), (2, 0, 0)]) = true ∧ 2 ^ 24 < nestCount (nest 3 10 [(65535, 0, 0), (255, 0, 0), (2, 0, 0)]) ∧
    nestCount (nest 1 8 [(0, 0, 0)]) = 0 := by decide +kernel
/-- Operands: a tile that is busy, the second of a pair that is, a pair with a reserved bit, one not aligned, a ladder block with a stride, rows in the scratchpad. -/
theorem test_premises_MatrixMultiply_operands :
    blockScaled 15 fmtPresets[5] = true ∧ blockScaled 8 fmtPresets[0] = false ∧ (mctx rows256 0 0 writing).pre.busyT 3 = true ∧
    (mctx rows256 0 0 writing).pre.busyT 2 = false ∧ (mctx rows256 0 0 writing).pre.busyT ((2 : Fin 8).val + 1) = true ∧ isLadder 8 = false ∧ isLadder 12 = true ∧
    (mctx rows256 0 0).pre.read (.md (Fin.ofNat 8 0)) = .ok rows256 ∧ (mctx rows256 0 0).pre.read (.md (Fin.ofNat 8 1)) = .ok 0 ∧
    (BitVec.ofNat 64 (rows256 + 2 ^ 48)).extractLsb' 48 3 ≠ 0 ∧ 23 < ((BitVec.ofNat 64 (rows256 + 24 * 2 ^ 51)).extractLsb' 51 5).toNat ∧ (rows256 + 4) % 16 ≠ 0 ∧
    (256 : Nat) ≠ 0 ∧ rows256 % 2 ^ 32 % 16 = 0 ∧ rows256 / 2 ^ 32 % 16 = 0 ∧
    (∀ r, r < 64 → (mctx rows256 0 0).padCheck 0 (MPair.row ⟨BitVec.ofNat 64 rows256, 0⟩ r) (rowBytes 8 fmtPresets[0]) = .ok ()) := by decide +kernel
def aux200 : Nat := 0x200 * 2 ^ 32
def aux201 : Nat := 0x201 * 2 ^ 32
theorem test_premises_MatrixCommands :
    Claims.Cmds ga (mctx rows256 0 0 writing) ∧ (mctx rows256 0 0 writing).pre.busyZ 0 = false ∧ (mctx rows256 0 0 writing).pre.busyZ 1 = true ∧
    (mctx rows256 0 0 writing).pre.busyT 3 = true ∧ blockScaled 15 fmtPresets[5] = true ∧ blockScaled 8 fmtPresets[0] = false ∧ ((mctx rows256 0 0 writing).rdM 9).isOk = true ∧ ((mctx rows256 0 0).part (mctx rows256 0 0).pre.part).minj = false ∧
    ((mctx rows256 0 0 id fun s => s.modPart 1 fun p => { p with minj := true }).part 1).minj = true ∧ (mctx rows256 aux200 0).rdPair 0 = .ok ⟨BitVec.ofNat 64 rows256, BitVec.ofNat 64 aux200⟩ ∧
    (mctx rows256 aux200 0).tileFree 0 true = .ok () ∧ (mctx rows256 aux200 0).pairOk 0 ⟨BitVec.ofNat 64 rows256, BitVec.ofNat 64 aux200⟩ 10 0 = .ok () ∧
    MPair.aux ⟨BitVec.ofNat 64 rows256, BitVec.ofNat 64 aux200⟩ = 0x200 ∧ (mctx rows256 aux200 0).padCheck 0 0x200 2 = .ok () ∧ MPair.aux ⟨BitVec.ofNat 64 rows256, BitVec.ofNat 64 aux201⟩ % 2 ≠ 0 ∧
    (mctx rows256 aux201 0).rdPair 0 = .ok ⟨BitVec.ofNat 64 rows256, BitVec.ofNat 64 aux201⟩ ∧ (mctx rows256 aux201 0).pairOk 0 ⟨BitVec.ofNat 64 rows256, BitVec.ofNat 64 aux201⟩ 10 0 = .ok () := by decide +kernel

/-! The copy slots. Descriptor 1 of both is d, descriptor 2 is c. -/
def mkDesc (l : List (Nat × Nat)) : Desc := l.foldl (fun d x => Desc.write d x.1 x.2) 0
def cdRegs (d c : Desc) : DataRegs → DataRegs := fun r => { r with cd := (r.cd.set 1 d).set 2 c, dd := (r.dd.set 1 d).set 2 c }
def cctx (k : Nat) (d c : Desc) (f : Ctx → Ctx := id) (g : State → State := id) : State := opn k (g (base.modCtx k fun x => f (x.modDat (cdRegs d c))))
/-- 64 bytes at 0x200; with a reserved bit; 65536 runs of 2^24 bytes and one byte more than that; a page; fields of two dimensions. -/
def d64 : Desc := mkDesc [(0, 0x200), (1, 64)]
def dBad : Desc := mkDesc [(0, 0x200), (1, 64), (13, 0x401)]
def dMax : Desc := mkDesc [(0, 0x200), (1, 2 ^ 24), (2, 65536)]
def dOver : Desc := mkDesc [(0, 0x200), (1, 2 ^ 24 + 1), (2, 65536)]
def dPage : Desc := mkDesc [(0, 0x10000), (1, 65536)]
def dTwo : Desc := mkDesc [(0, 0x200), (1, 16), (2, 2), (3, 64), (4, 2), (5, 128)]
def copying (n : Nat) (susp : Option (Nat × Nat)) (c : Ctx) : Ctx :=
  { c with cmds := (List.range n).map fun i => { cmdNum (.copy ⟨.czero, d64, 0, fmtPresets, 0⟩) (i + 1) with eng := 1, susp := susp } }
theorem test_premises_CopyDescriptors :
    Claims.On ga (cctx 0 d64 d64) ∧ (cctx 0 d64 d64).rdCd .c 1 = .ok d64 ∧ (cctx 0 d64 d64).rdCd .d 1 = .ok d64 ∧ LSrc.lit.rd (cctx 0 d64 d64) = .ok 9 ∧
    Claims.Clear (cctx 0 d64 d64) (some (.m 9)) ∧ ((cctx 0 d64 d64).rdM 9).isOk = true ∧ Claims.Clear (cctx 0 d64 d64) (some (.cd .c 1)) ∧
    (⟨ga, 3, 1, 3, 2⟩ : CXfer).wf = true ∧ (⟨ga, 3, 1, 3, 5⟩ : CXfer).wf = true ∧ Claims.Clear (cctx 0 d64 d64) (some (sReg 3)) ∧
    Claims.Clear (cctx 0 d64 d64) (some (.md (Fin.ofNat 8 3))) ∧ Claims.apart 2 13 ∧ Desc.aux d64 = 0 ∧ Desc.len d64 = 64 := by decide +kernel
def dmode (c : Ctx) : Ctx := c.modSys fun y => { y with dmode := true }
def dRows : Desc := mkDesc [(0, 0x200), (1, 128), (2, 64), (3, 128)]
def dGlen (a : Nat) : Desc := mkDesc [(0, a), (1, 64)]
theorem test_premises_CopyCommands :
    Claims.Copies .c ga (cctx 0 d64 d64) ∧ Claims.Copies .d ga (cctx 0 d64 dMax (copying 63 none)) ∧ Desc.reserved d64 = false ∧ Desc.reserved dBad = true ∧
    Claims.Match d64 d64 ∧ Claims.Match dMax dMax ∧ Desc.bytes dMax = 2 ^ 40 ∧ ¬Claims.Match dOver dOver ∧ ¬Claims.Match d64 dMax ∧ (cctx 0 d64 d64).takeCd .c 1 = .ok d64 ∧
    (cctx 0 d64 d64).takeCd .c 2 = .ok d64 ∧ (cctx 0 d64 d64 dmode).pre.regs.sys.dmode = true ∧ (cctx 0 d64 d64).pre.regs.sys.dmode = false ∧ Desc.count d64 2 = 1 ∧
    Desc.count dTwo 2 ≠ 1 ∧ cvtCount (mkDesc [(0, 0x200), (1, 64), (13, 8)]) fmtPresets = .ok 32 ∧ cvtCount (mkDesc [(0, 0x200), (1, 128), (13, 10)]) fmtPresets = .ok 32 := by
  decide +kernel
theorem test_premises_CopyCommands_tile :
    Desc.bytes dRows = 8192 ∧ (cctx 0 d64 dRows).takeCd .c 2 = .ok dRows ∧ (cctx 0 d64 dRows).pre.busyT 3 = false ∧
    (cctx 0 d64 dRows writing).pre.busyT 3 = true ∧ Claims.Copies .c ga (cctx 0 d64 dRows writing) ∧ Desc.bytes d64 ≠ 8192 ∧ (cctx 0 (dGlen 0x400000) d64).glenWalkOk 0 (dGlen 0x400000) = true ∧
    (cctx 0 (dGlen 0x9FFFE0) d64).glenWalkOk 0 (dGlen 0x9FFFE0) = false ∧ (cctx 0 (dGlen 0x9FFFE0) d64).takeCd .c 1 = .ok (dGlen 0x9FFFE0) ∧
    Claims.Match (dGlen 0x9FFFE0) d64 ∧ blockScaled 15 fmtPresets[5] = true ∧ blockScaled 8 fmtPresets[0] = false ∧ Desc.len dRows = rowBytes 8 fmtPresets[0] ∧ Desc.runs dRows = 64 ∧
    (cctx 0 d64 dRows).tileFree 3 false = .ok () ∧ Desc.bytes d64 % 4 = 0 ∧ Desc.bytes (mkDesc [(0, 0), (1, 6)]) % 4 ≠ 0 := by decide +kernel
def dRed (fmt node len : Nat) : Desc := mkDesc [(0, 0x200), (1, len), (13, fmt), (15, node)]
/-- NODE at its bounds: LOG 20 and 21, KEY the last of its level and the next; no byte, and 2^20 and more. -/
theorem test_premises_CopyOrdered :
    Claims.Copies .c ga (cctx 0 d64 d64) ∧ (cctx 0 d64 d64).pre.seg = none ∧ (cctx 0 d64 d64 dmode).pre.regs.sys.dmode = true ∧ Claims.Elements (dRed 10 0 64) (dRed 10 0 64) ∧
    ¬Claims.Elements (dRed 3 0 64) (dRed 3 0 64) ∧ Claims.Elements (dRed 4 0 64) (dRed 4 0 64) ∧ ¬Claims.Elements (dRed 10 0 62) (dRed 10 0 62) ∧ ¬Claims.Elements (dRed 11 0 64) (dRed 11 0 64) ∧
    Claims.NodeIn (dRed 10 (20 * 2 ^ 27 + 20 * 2 ^ 22) 64) ∧ ¬Claims.NodeIn (dRed 10 (21 * 2 ^ 27) 64) ∧ Claims.NodeIn (dRed 10 (2 * 2 ^ 27 + 2 ^ 22 + 1) 64) ∧
    ¬Claims.NodeIn (dRed 10 (2 * 2 ^ 27 + 2 ^ 22 + 2) 64) ∧ Desc.bytes (dRed 10 0 0) = 0 ∧ Desc.bytes (dRed 10 0 (2 ^ 20)) = 2 ^ 20 ∧ 2 ^ 20 < Desc.bytes (dRed 10 0 (2 ^ 20 + 4)) := by decide +kernel
theorem test_premises_CopyOrdered_pages :
    Desc.bytes (dRed 0 0 8) = 8 ∧ 1 ≤ Desc.bytes d64 ∧ isMesh (cctx 0 d64 d64).me = true ∧ isMesh (cctx 8192 dPage dPage).me = false ∧ Claims.Copies .c ga (cctx 8192 dPage dPage) ∧
    Desc.len dPage = 65536 ∧ Desc.runs dPage = 1 ∧ Desc.base dPage % 65536 = 0 ∧ (cctx 8192 dPage dPage).takeCd .c 1 = .ok dPage := by decide +kernel
def casting (d : Desc) : State := sN fun s => s.modCtx 0 fun c => c.modDat (cdRegs d d64)
theorem test_premises_CopyOrdered_targets :
    Claims.Copies .c ga (casting (dRed 0 4 64)) ∧ Claims.Match (dRed 0 4 64) d64 ∧ (∀ r, r < Desc.runs d64 → Desc.runAddr (dRed 0 4 64) r + Desc.len (dRed 0 4 64) ≤ 0x300000) ∧
    Claims.Here (casting (dRed 0 4 64)) 2 ∧ (BitVec.ofNat 32 (Desc.node (dRed 0 4 64))).getLsbD 2 = true ∧ Desc.node (dRed 0 4 64) = 4 ∧
    ¬Claims.Here (casting (dRed 0 8 64)) 3 ∧ (BitVec.ofNat 32 (Desc.node (dRed 0 8 64))).getLsbD 3 = true ∧
    ((((cctx 0 d64 d64 (copying 64 (some (3, 9)))).discardSusp 0 1).ctx 0).pendingOf 1 < 64) ∧ Claims.On ga (cctx 0 d64 d64 (copying 64 (some (3, 9)))) ∧
    (cctx 0 d64 d64 fun c => { c with seg := some seg1 }).pre.seg.isSome = true ∧ Claims.Copies .c ga (cctx 0 d64 d64 fun c => { c with seg := some seg1 }) ∧
    (cctx 0 d64 d64 fun c => { c with seg := some seg1 }).rdCd .c 1 = .ok d64 ∧ (cctx 0 d64 d64 fun c => { c with seg := some seg1 }).rdCd .c 2 = .ok d64 := by decide +kernel

/-! Events. Context 256 is the second of core 0. -/
def between (f : State → State) : State := f { base with ctxs := [(0, someCtx 1), (256, { someCtx 1 with status := .ready }), (4096, someCtx 1), (8192, someCtx 0)] }
def ev0 (f : Ctx → Ctx) : State := between (with0 f)
def asyncs : State := ev0 fun c => { c with async := [65535, 7], wdPend := some 3 }
def longRun : State := (ev0 fun c => { c with run := 4096 }).modCore 0 fun c => { c with cur := some 0 }
def blockedAt (w : Wait) : State := { (ev0 fun c => { c with status := .blocked, wait := w }) with now := 2 ^ 26 }
def noLine (s : State) (k a : Nat) : State := s.modCore (coreOf k) fun c => { c with icache := c.icache.filter fun l => !(l.1 == numOf k && l.2.1 == a) }
def fetched (a : Nat) : State := match (noLine base 0 a).locate 0 a .fetch with | .ok _ _ u => u | _ => base
theorem test_premises_SequencerEvents :
    s0.opened.isSome = true ∧ Claims.Between asyncs ∧ Claims.Runs asyncs 0 ∧ 65535 < 65536 ∧ (asyncs.ctx 0).regs.sys.tl = 0 ∧ (asyncs.ctx 0).kill = none ∧ (asyncs.ctx 0).async = [65535, 7] ∧
    (asyncs.ctx 0).ctl.clen < 2 ∧ (asyncs.ctx 0).regs.sys.rmode ≠ 1 ∧ Claims.Between longRun ∧ (longRun.core 0).cur = some 0 ∧ coreOf 0 = 0 ∧ 4096 ≤ (longRun.ctx 0).run ∧
    (longRun.ctx 0).regs.sys.dmode = false ∧ 256 ∈ longRun.bound 0 ∧ 256 ≠ 0 ∧ (longRun.ctx 256).status = .ready := by decide +kernel
theorem test_premises_SequencerEvents_waits :
    Claims.Between (blockedAt ⟨3, 0, none, none⟩) ∧ ((blockedAt ⟨3, 0, none, none⟩).ctx 0).status = .blocked ∧
    ((blockedAt ⟨3, 0, none, none⟩).ctx 0).wait.since + 2 ^ 26 ≤ (blockedAt ⟨3, 0, none, none⟩).now ∧
    ((blockedAt ⟨3, 0, some 77, none⟩).ctx 0).wait.sleep = some 77 ∧ 77 ≤ (blockedAt ⟨3, 0, some 77, none⟩).now ∧
    (blockedAt ⟨3, 0, some 77, none⟩).energyHeld (coreOf 0) = false ∧ (base.ctx 0).exact = false ∧ Claims.Between base ∧ (base.ctx 0).status ≠ .free ∧
    0x40000020 % 32 = 0 ∧ 0x1000000 ≤ 0x40000020 ∧ (noLine base 0 0x40000020).locate 0 0x40000020 .fetch = .ok (mkey 0 0x40000020) false (fetched 0x40000020) ∧
    (fetched 0x40000020).poisoned (mkey 0 0x40000020) 32 = false := by decide +kernel
/-- Landings: two results in flight, three accesses, messages, a removal. -/
def flying (long : Bool) : State := ev0 fun c => { c with flights := [⟨.s 1, 0xAA, 0xFF, 1, 5, true, long⟩, ⟨.s 2, 1, 1, 1, 6, false, false⟩] }
def acc1 (kind : AccKind) (key : Nat) : Access := { Access.blank kind 4 with seq := 1, bun := 1, key := key, val := 0x80000001, cmp := 5, dst := some (.s 6), due := 9, part := 1 }
def accessing (kind : AccKind) : State :=
  { ev0 fun c => { c with accs := [acc1 .store keyHbm, { acc1 kind keyPad with seq := 2, bun := 2 }] } with mem := (base.mem.putN keyPad 4 0x80000003) }
def msg (kind : MsgKind) : State := { base with ctxs := [(0, someCtx 1), (1, someCtx 1)], msgs := [⟨1, 0, .send 2 5, 0, 0⟩, ⟨0, 1, kind, 3, 7⟩], cores := [] }
def msgFree (kind : MsgKind) : State := { msg kind with ctxs := [(0, someCtx 1)] }
def msgFenced : State := (msg (.send 1 9)).modCore 1 fun c => { c with health := { c.health with fenced := true } }
def removing : State := { base with dying := [(4096, 1, 0x40000000, 0x10000, 9)], tlb := [⟨0, 1, 0x40000000, 0x40000000, 0, 0⟩, ⟨2, 1, 0x80000000, 0x40000000, 0, 0⟩, ⟨1, 2, 0x40000000, 0x40000000, 0, 0⟩] }
theorem test_premises_LandingEvents :
    Claims.Between (flying true) ∧ ((flying true).ctx 0).flights[0]? = some ⟨.s 1, 0xAA, 0xFF, 1, 5, true, true⟩ ∧ Claims.Timely (flying true) 0 5 ∧ (Loc.s 1).isP0 = false ∧
    (∀ g ∈ ((flying true).ctx 0).flights.eraseIdx 0, g.loc ≠ .s 1) ∧ ((flying false).ctx 0).flights[0]? = some ⟨.s 1, 0xAA, 0xFF, 1, 5, true, false⟩ ∧
    Claims.Between (accessing .loadS) ∧ ((accessing .loadS).ctx 0).accs[1]? = some { acc1 .loadS keyPad with seq := 2, bun := 2 } ∧
    (accessing .loadS).inTurn 0 { acc1 .loadS keyPad with seq := 2, bun := 2 } = true ∧ (∀ b ∈ ((accessing .loadS).ctx 0).accs.take 1, b.before { acc1 .loadS keyPad with seq := 2, bun := 2 } = false) ∧
    Claims.Timely (accessing .loadS) 0 ((accessing .loadS).accDue 0 { acc1 .loadS keyPad with seq := 2, bun := 2 }) ∧ ((accessing .loadS).ctx 0).exact = false ∧ cachable keyPad false = false ∧ cachable keyHbm false = true := by decide +kernel
theorem test_premises_LandingEvents_messages :
    Claims.Between (msg (.send 1 9)) ∧ (msg (.send 1 9)).msgs[1]? = some ⟨0, 1, .send 1 9, 3, 7⟩ ∧ ((msg (.send 1 9)).core (coreOf 1)).health.fenced = false ∧
    (((msg (.send 1 9)).ctx 0).exact = true → (msg (.send 1 9)).msgAt ⟨0, 1, .send 1 9, 3, 7⟩ ≤ (msg (.send 1 9)).now) ∧ (∀ x ∈ (msg (.send 1 9)).msgs.take 1, x.src = 0 → x.dst = 1 → ∀ w, x.kind ≠ .send 1 w) ∧ ((msg (.send 1 9)).ctx 1).status ≠ .free ∧
    ((msgFree (.send 1 9)).ctx 1).status = .free ∧ (∀ a ∈ ((msg (.post 1 9)).ctx 0).accs, 3 ≤ a.seq) ∧ ((msgFree (.post 1 9)).ctx 1).status = .free ∧
    Claims.Between msgFenced ∧ msgFenced.msgs[1]? = some ⟨0, 1, .send 1 9, 3, 7⟩ ∧ (msgFenced.core (coreOf 1)).health.fenced = true ∧ (msgFenced.ctx 0).kill = none ∧
    (msgFenced.ctx 0).status ≠ .free ∧ Claims.Between removing ∧ removing.dying[0]? = some (4096, 1, 0x40000000, 0x10000, 9) ∧
    (∀ k ∈ removing.ctxKeys, (removing.ctx k).part = 1 → ∀ g ∈ (removing.ctx k).seg, ∀ a ∈ g.buf, a.va < 0x40000000 ∨ 0x40000000 + 0x10000 ≤ a.va) := by
  have h : ∀ x ∈ (msg (.send 1 9)).msgs.take 1, x.src = 0 → x.dst = 1 → ∀ w, x.kind ≠ .send 1 w := by
    intro x hx
    have : x = ⟨1, 0, .send 2 5, 0, 0⟩ := by simpa [msg] using hx
    subst this
    exact fun h => absurd h (by decide)
  refine ⟨?_, ?_, ?_, ?_, h, ?_⟩ <;> decide +kernel

/-! Matrix events. -/
def matrixIn (cs : List Cmd) (f : DataRegs → DataRegs := id) : State := ev0 fun c => { c with cmds := cs }.modDat (f ∘ mdRegs rows256 0 0)
/-- The accumulators: row 1 of Z2 holds 1.0, -2.0, NaN and -0. -/
def z2 : DataRegs → DataRegs := fun r => { r with z := r.z.set 2 { Accum.zero with rows := Accum.zero.rows.set 1 (BitVec.ofNat 2048 (0x3F800000 + 0xC0000000 * 2 ^ 32 + 0x7FC00000 * 2 ^ 64 + 0x80000000 * 2 ^ 96)), tag := 0x1234 } }
def starting (op : CmdOp) : State := matrixIn [cmdNum op 1] z2
def started (op : CmdOp) : Cmd := { cmdNum op 1 with start := some 0 }
theorem test_premises_MatrixEvents_start :
    Claims.Between (starting (.mzero 2)) ∧ ((starting (.mzero 2)).ctx 0).cmds[0]? = some (cmdNum (.mzero 2) 1) ∧ (starting (.mzero 2)).mayStart 0 (cmdNum (.mzero 2) 1) = true ∧
    (cmdNum (.mzero 2) 1).eng = 0 ∧ (starting (.mbias 2 5)).mayStart 0 (cmdNum (.mbias 2 5) 1) = true ∧
    ((starting (.mzero 2)).core (coreOf 0)).edge 3 (starting (.mzero 2)).now = (starting (.mzero 2)).now ∧
    (starting (.mact 2 0 0)).mayStart 0 (cmdNum (.mact 2 0 0) 1) = true ∧ (starting (.minj 2 1 0 0 31)).mayStart 0 (cmdNum (.minj 2 1 0 0 31) 1) = true := by decide +kernel
/-- A product of T1 and T2 in FP16, one of two rows; before its only k-tile, after it, at its last row, and with all rows final. -/
def product (clr : Bool) : MulCmd := ⟨2, clr, false, .tile 1, .tile 2, 8, fmtPresets[0], 2, 2, false, [(0, 0)]⟩
def tiles12 : DataRegs → DataRegs := fun r => z2 { r with t := (r.t.set 1 (BitVec.ofNat _ (0x3C00 + 0x4000 * 2 ^ 16))).set 2 (BitVec.ofNat _ (0x4200 + 0x4400 * 2 ^ 16)) }
def multiplying (clr : Bool) (done final : Nat) : State := matrixIn [{ started (.mul (product clr)) with done := done, final := final, lastLand := 0 }] tiles12
theorem test_premises_MatrixEvents_rows :
    Claims.Between (multiplying true 0 0) ∧ ((multiplying true 0 0).ctx 0).cmds[0]? = some { started (.mul (product true)) with done := 0, final := 0, lastLand := 0 } ∧
    (product true).steps[0]? = some (0, 0) ∧ (multiplying true 0 0).now = 0 ∧ (multiplying true 0 0).windowsOver (coreOf 0) 0 = true ∧ ((multiplying true 0 0).ctx 0).pitch.cur ≤ rungOf 8 fmtPresets[0] ∧
    (product true).steps.length ≤ 1 ∧ ((multiplying true 1 0).rowTime 0 { started (.mul (product true)) with done := 1, final := 0, lastLand := 0 }).1 ≤ 0 ∧
    ((multiplying true 1 1).rowTime 0 { started (.mul (product true)) with done := 1, final := 1, lastLand := 0 }).1 ≤ 0 ∧ (product true).rows ≤ 1 + 1 ∧
    ((multiplying true 1 1).ctx 0).lastWriter 2 = some 1 := by decide +kernel
def loadT : Cmd := started (.mldt 3 8 fmtPresets[0] ⟨BitVec.ofNat 64 rows256, 0⟩)
def loading3 : State := { matrixIn [loadT] with mem := base.mem.putN (mkey (padSpace 0) 0x2100) 16 0x112233445566778899AABBCCDDEEFF }
/-- A copy command that may start at an edge of its engine; rows of an MSTZ of a pair, in and out of a segment. -/
def waitingCopy : Cmd := { cmdNum (.copy ⟨.cpy, mkDesc [(0, 0x2000), (1, 130)], mkDesc [(0, 0x1000), (1, 130)], fmtPresets, 0⟩) 1 with eng := 1 }
theorem test_premises_MatrixEvents_copy :
    Claims.Between (matrixIn [waitingCopy]) ∧ ((matrixIn [waitingCopy]).ctx 0).cmds[0]? = some waitingCopy ∧ (matrixIn [waitingCopy]).mayStart 0 waitingCopy = true ∧
    ((matrixIn [waitingCopy]).core (coreOf 0)).edge (cmdClass waitingCopy.eng) (matrixIn [waitingCopy]).now = (matrixIn [waitingCopy]).now := by decide +kernel
def paired (g : Option Seg) : State := (matrixIn [started (.mstz 2 ⟨BitVec.ofNat 64 rows256, 0⟩ true)]).modCtx 0 fun c => { c.modSys fun y => { y with rmode := 1 } with seg := g }
theorem test_premises_MatrixEvents_pair :
    Claims.Between (paired none) ∧ ((paired none).ctx 0).cmds[0]? = some (started (.mstz 2 ⟨BitVec.ofNat 64 rows256, 0⟩ true)) ∧
    ((paired none).ctx 0).rowReady (started (.mstz 2 ⟨BitVec.ofNat 64 rows256, 0⟩ true)) = true ∧ (started (.mstz 2 ⟨BitVec.ofNat 64 rows256, 0⟩ true)).bad = false ∧
    ((paired none).ctx 0).regs.sys.rmode.getLsbD 0 = true ∧ ((paired none).ctx 0).seg = none ∧ ((paired (some seg1)).ctx 0).seg.isSome = true := by decide +kernel
theorem test_row_of_mldt : (exec (.accumulatorRowFinal 0 ⟨0, false, false⟩) loading3 matches .next _) = true := by decide +kernel
def performing : State := multiplying true 1 64
def finished : Cmd := { started (.mul (product true)) with done := 1, final := 64, lastLand := 0 }
def storing : State := matrixIn [started (.mstz 2 ⟨BitVec.ofNat 64 rows256, 0⟩ true)]
theorem test_premises_MatrixEvents_perform :
    Claims.Between loading3 ∧ (loading3.ctx 0).cmds[0]? = some loadT ∧ loadT.eng = 0 ∧ loadT.start.isSome = true ∧ loadT.susp = none ∧ loadT.page = none ∧
    (∀ w ∈ (loading3.ctx 0).cmds.take 0, w.eng ≠ 0) ∧ Claims.Timely loading3 0 loadT.due ∧ (loading3.ctx 0).tilesClear loading3.now loadT = true ∧ loading3.poison = [] ∧ (8 : Nat) ≠ 10 ∧
    loadT.rows.length = loadT.done ∧ loadT.done < 64 ∧ (loading3.ctx 0).exact = false ∧ (started (.mstz 2 ⟨BitVec.ofNat 64 rows256, 0⟩ true)).snap = none ∧ (storing.ctx 0).exact = false ∧
    Claims.Between storing ∧ (performing.ctx 0).cmds[0]? = some finished ∧ finished.susp = none ∧ (performing.matrixPerform 0 0 finished).isSome = true ∧
    (∀ u ∈ performing.matrixPerform 0 0 finished, ∃ y ∈ (u.ctx 0).cmds[0]?, y.num = finished.num ∧ y.eng = 0 ∧ y.susp = none ∧ y.page = none) := by decide +kernel

/-! Copy events: CPY of 130 bytes from 0x1000 to 0x2000 of the own scratchpad. -/
def dst130 : Desc := mkDesc [(0, 0x2000), (1, 130)]
def src130 : Desc := mkDesc [(0, 0x1000), (1, 130)]
def cp130 : CopyCmd := ⟨.cpy, dst130, src130, fmtPresets, 0⟩
def moving (c : CopyCmd) (f : Cmd → Cmd := id) : Cmd := f { cmdNum (.copy c) 1 with eng := 1, start := some 0, due := 1000 }
def copyIn (cs : List Cmd) (f : Ctx → Ctx := id) : State := { ev0 fun c => f { c with cmds := cs } with mem := base.mem.putN (mkey (padSpace 0) 0x1000) 130 (0x0123456789ABCDEF * 2 ^ 970 + 0xFEDCBA98) }
def isMoving (s : State) (m : Cmd) (c : CopyCmd) : Prop := Claims.Between s ∧ (s.ctx 0).cmds[0]? = some m ∧ m.op = .copy c ∧ m.start.isSome = true ∧ m.susp = none
theorem moving_of {s : State} {m : Cmd} {c : CopyCmd} (h : isMoving s m c) : Claims.Moving s 0 0 m c := ⟨h.1, h.2.1, h.2.2.1, h.2.2.2.1, h.2.2.2.2⟩
def copy130 : State := copyIn [moving cp130]
/-- The last of three batches, of two bytes; out of order. -/
theorem test_premises_CopyEvents_land : Claims.Moving copy130 0 0 (moving cp130) cp130 ∧ Claims.MayLand copy130 0 (moving cp130) cp130 2 ∧ cp130.op.isColl = false ∧ (moving cp130).split = [] ∧ (copy130.moveBatch 0 0 (moving cp130) cp130 2).isOk = true ∧
    (moving cp130).page = none ∧ min (64 * 2 + 64) (CopyCmd.size cp130) ≤ (copy130.batchBytes 0 (moving cp130) cp130 2).1 + (copy130.batchBytes 0 (moving cp130) cp130 2).2 ∧
    isMesh 0 = true ∧ (copy130.core 0).health.fenced = false ∧ Desc.runs src130 = 1 ∧ Desc.runs dst130 = 1 ∧ Desc.len src130 = Desc.len dst130 ∧
    Claims.OwnRun copy130 0 (0x1000 + 128) 2 (mkey (padSpace 0) 0x1080) ∧ Claims.OwnRun copy130 0 (0x2000 + 128) 2 (mkey (padSpace 0) 0x2080) ∧
    (∀ j, j < 2 → covers (copy130.allKeys 0 src130) (mkey (padSpace 0) 0x2080 + j) = false) ∧ copy130.mem.wf = true ∧ copy130.poison = [] := by
  refine ⟨moving_of (by unfold isMoving; decide +kernel), by decide +kernel⟩
/-- A CPYB of 64 bytes, of which the first 32 are core 0's and the others core 1's: its one batch lands in two pieces. -/
def cpyb64 : CopyCmd := ⟨.cpyb 3 none, dGlen 0x6FFFE0, d64, fmtPresets, 0⟩
def cut64 : State := noded3.modCtx 0 fun c => { c with cmds := [moving cpyb64] }
theorem test_premises_CopyEvents_split : Claims.Moving cut64 0 0 (moving cpyb64) cpyb64 ∧ Claims.MayLand cut64 0 (moving cpyb64) cpyb64 0 ∧ cpyb64.op.isColl = false ∧
    (cut64.moveBatch 0 0 (moving cpyb64) cpyb64 0).isOk = true ∧ cut64.batchBytes 0 (moving cpyb64) cpyb64 0 = (0, 32) ∧ 0 + 32 < min (64 * 0 + 64) (CopyCmd.size cpyb64) := by
  refine ⟨moving_of (by unfold isMoving; decide +kernel), by decide +kernel⟩
def late130 : State := { copyIn [moving cp130] with now := 1001 }
def detCmd (node : Nat) : CopyCmd := ⟨.cred 0 true, mkDesc [(0, 0x2000), (1, 8), (13, 10), (15, node)], mkDesc [(0, 0x1000), (1, 8), (13, 10)], fmtPresets, 0⟩
def pullCmd : CopyCmd := ⟨.cpull, dPage, dPage, fmtPresets, 0⟩
def pullFar : CopyCmd := ⟨.cpull, dPage, mkDesc [(0, 0x10000), (1, 65536), (15, 7)], fmtPresets, 0⟩
def detLate : Cmd := moving (detCmd 0) fun m => { m with done := 1 }
def prefCmd : CopyCmd := ⟨.cpref, 0, src130, fmtPresets, 0⟩
theorem test_premises_CopyEvents_timeout :
    Claims.Moving late130 0 0 (moving cp130) cp130 ∧ (late130.ctx 0).status ≠ .free ∧ cp130.op.noMove = false ∧ (moving cp130).page = none ∧ (moving cp130).hop = none ∧ (moving cp130).due < late130.now ∧
    Claims.Moving { copyIn [detLate] with now := 1001 } 0 0 detLate (detCmd 0) ∧ State.batches { copyIn [detLate] with now := 1001 } (detCmd 0) ≤ 1 ∧ detLate.sent = false ∧
    Claims.Moving { copyIn [moving prefCmd] with now := 1001 } 0 0 (moving prefCmd) prefCmd ∧ prefCmd.op.noMove = false ∧
    Claims.Moving (copyIn [moving pullFar]) 0 0 (moving pullFar) pullFar ∧ (copyIn [moving pullFar]).reachesPeer 0 (moving pullFar) pullFar = true ∧
    Desc.node pullFar.src % 2 ^ 14 ≠ (copyIn [moving pullFar]).fabric ∧ prefCmd.op = .cpref ∧ (∃ op, (detCmd 0).op = .cred op true) := by
  have h1 : Claims.Moving late130 0 0 (moving cp130) cp130 := moving_of (by unfold isMoving; decide +kernel)
  have h2 : Claims.Moving { copyIn [detLate] with now := 1001 } 0 0 detLate (detCmd 0) := moving_of (by unfold isMoving; decide +kernel)
  have h3 : Claims.Moving { copyIn [moving prefCmd] with now := 1001 } 0 0 (moving prefCmd) prefCmd := moving_of (by unfold isMoving; decide +kernel)
  have h5 : ∃ op, (detCmd 0).op = .cred op true := ⟨0, rfl⟩
  have h4 : Claims.Moving (copyIn [moving pullFar]) 0 0 (moving pullFar) pullFar := moving_of (by unfold isMoving; decide +kernel)
  and_intros
  any_goals assumption
  all_goals decide +kernel
/-- Contributions: the only leaf of its tree; the first of two leaves; the second of them. -/
def det (node : Nat) (reds : List Reduction) : State := { copyIn [moving (detCmd node) fun m => { m with done := 1, data := bytesOf 0x3F80000040000000 8 }] with reds := reds }
def detM (node : Nat) : Cmd := moving (detCmd node) fun m => { m with done := 1, data := bytesOf 0x3F80000040000000 8 }
def detWalk (node : Nat) (reds : List Reduction) : Option (List Piece × State) := match (det node reds).walk 0 0 0 (detCmd node).dst false .write 0 8 8 with | .ok x => some x | .error _ => none
def open1 : Reduction := ⟨(detCmd (2 ^ 27)).dst, [(mkey (padSpace 0) 0x2000, 8)], 1, 1, 10, 0, 0, [(0, 0, bytesOf 0x4040000040400000 8)], [], storeOf (mkey (padSpace 0) 0x2000)⟩
theorem test_premises_CopyEvents_contribution :
    Claims.Moving (det 0 []) 0 0 (detM 0) (detCmd 0) ∧ (detM 0).sent = false ∧ (det 0 []).batches (detCmd 0) ≤ (detM 0).done ∧ Claims.Timely (det 0 []) 0 (detM 0).due ∧
    (detWalk 0 []).isSome = true ∧ (∀ y ∈ detWalk 0 [], ∀ x ∈ y.1, x.va % elemBytes (Desc.code (detCmd 0).dst) = 0) ∧ (∀ y ∈ detWalk 0 [], y.2.reds = []) ∧
    nodeLvl 0 = nodeLog 0 ∧ nodeLvl (2 ^ 27) ≠ nodeLog (2 ^ 27) ∧
    (∀ y ∈ detWalk (2 ^ 27 + 1) [open1], y.2.reds.find? (fun r => rangesMeet r.keys (joinRuns (y.1.map fun x => (x.key, x.len)))) = some open1 ∧
      open1.keys = joinRuns (y.1.map fun x => (x.key, x.len))) ∧
    (∀ y ∈ detWalk 0 [], (y.2.reds.filter fun r => r.home == storeOf (((joinRuns (y.1.map fun x => (x.key, x.len))).head?.map Prod.fst).getD 0)) = []) ∧
    open1.log = nodeLog (2 ^ 27 + 1) ∧ open1.code = Desc.code (detCmd (2 ^ 27 + 1)).dst ∧ open1.op = 0 ∧ 8 + CopyCmd.size (detCmd 0) ≤ 2 ^ 24 ∧ (∀ x ∈ open1.nodes, nodesMeet (x.1, x.2.1) (nodeLvl (2 ^ 27 + 1), nodeKey (2 ^ 27 + 1)) = false) ∧
    ((joinNode 10 0 open1.nodes (nodeLvl (2 ^ 27 + 1)) (nodeKey (2 ^ 27 + 1)) (detM 0).data 2).find? (fun x => x.1 = 1)).isSome = true ∧ (detWalk (2 ^ 27 + 1) [open1]).isSome = true := by
  refine ⟨moving_of (by unfold isMoving; decide +kernel), by decide +kernel⟩
/-- A node of a ridge group of two ranks, and what a peer sends; a collective that waits for it. -/
def allred : CopyCmd := ⟨.callred 0 true, mkDesc [(0, 0x2000), (1, 8), (13, 10)], mkDesc [(0, 0x1000), (1, 8), (13, 10)], fmtPresets, 1⟩
def grouped (l : List Coll) : State :=
  { copyIn [moving allred] (fun c => { c.modSys fun y => { y with ident := y.ident.set 7 2 } with node := 1 }) with
    nodes := [(1, { Node.none with run := true, part := 1, ctxs := [0], group := 5, owner := 4096 })], colls := l }
def peer1 : Peer := ⟨1, false, true, 0, 10, 8, bytesOf 0x1122334455667788 8⟩
/-- A digest over 8 bytes, for which a peer sends one of 16. -/
def digest : CopyCmd := ⟨.cdigest, mkDesc [(0, 0x2000), (1, 8)], mkDesc [(0, 0x1000), (1, 8)], fmtPresets, 1⟩
def peer2 : Peer := ⟨1, true, false, 0, 0, 16, bytesOf 0x55 8⟩
def digesting : State := { grouped [⟨((grouped []).collKey 0 digest).1, ((grouped []).collKey 0 digest).2.1, ((grouped []).collKey 0 digest).2.2.1, ((grouped []).collKey 0 digest).2.2.2, 2,
  CopyCmd.what digest, [], [], [], [], false⟩] with ctxs := (grouped []).ctxs.map fun x => if x.1 = 0 then (x.1, { x.2 with cmds := [moving digest] }) else x }
theorem test_premises_CopyEvents_digest :
    Claims.Between digesting ∧ (digesting.ctx 0).cmds[0]? = some (moving digest) ∧ (moving digest).start.isSome = true ∧ (moving digest).susp = none ∧ (digesting.ctx 0).status ≠ .free ∧
    (digesting.node (digesting.ctx 0).node).group ≠ 0 ∧ peer2.digest = true ∧ peer2.rank < (digesting.ctx 0).regs.sys.ident[7].toNat ∧ peer2.len ≠ CopyCmd.size digest ∧
    (digesting.coll (digesting.collKey 0 digest)).map (fun x => (decide (x.what = CopyCmd.what digest), x.full, x.got.map Prod.fst)) = some (true, false, []) := by decide +kernel
def coll1 : Coll := ⟨(1, 1), 0, 0, 1, 2, CopyCmd.what allred, [(0, bytesOf 7 8)], [0], [], [], false⟩
theorem test_premises_CopyEvents_collective :
    Claims.Between (grouped []) ∧ ((grouped []).ctx 0).cmds[0]? = some (moving allred) ∧ (moving allred).start.isSome = true ∧ ((grouped []).node ((grouped []).ctx 0).node).group ≠ 0 ∧
    peer1.digest = false ∧ peer1.rank < ((grouped []).ctx 0).regs.sys.ident[7].toNat ∧ peer1.len = CopyCmd.size allred ∧ peer1.det = true ∧ peer1.op = 0 ∧
    peer1.code = Desc.code allred.dst ∧ (grouped []).coll ((grouped []).collKey 0 allred) = none ∧ (grouped [coll1]).coll ((grouped [coll1]).collKey 0 allred) = some coll1 ∧
    coll1.what = CopyCmd.what allred ∧ coll1.full = false ∧ (∀ g ∈ coll1.got, g.1 ≠ peer1.rank) := by decide +kernel
def postCmd : CopyCmd := ⟨.cpost 3, dst130, src130, fmtPresets, 0⟩
/-- Of a copy of a core that has been fenced, no batch had passed its first hop. -/
def hopped (c : CopyCmd) : Cmd := moving c fun m => { m with hop := some (0, 0) }
def cpyFenced : State := copyIn [hopped cp130]
def postFenced : State := { (copyIn [hopped postCmd]).modCore 0 fun c => { c with health := { c.health with fenced := true } } with now := 2 ^ 20 }
def heldCmd : Cmd := moving cp130 fun m => { m with page := some (0x4000, 0x3008, 5) }
def pulling (w : Option Nat) (f : Ctx → Ctx := id) (n : Nat) : State := { (ev0 f).modPart 1 (fun p => { p with pages := [(0x4000, 0x3008, 5, w)] }) with now := n }
def heldCopy : State := pulling none (fun c => { c with cmds := [heldCmd] }) (5 + 2 ^ 26)
def done130 : State := copyIn [moving cp130 fun m => { m with done := 3 }]
theorem test_premises_CopyEvents_ends :
    Claims.Between postFenced ∧ (postFenced.ctx 0).cmds[0]? = some (hopped postCmd) ∧ (hopped postCmd).hop = some (0, 0) ∧ (hopped postCmd).done < postFenced.batches postCmd ∧
    postFenced.passed (hopped postCmd) postCmd ≤ (hopped postCmd).done ∧ Claims.Between cpyFenced ∧ (cpyFenced.ctx 0).cmds[0]? = some (hopped cp130) ∧
    (hopped cp130).done < cpyFenced.batches cp130 ∧ cpyFenced.passed (hopped cp130) cp130 ≤ (hopped cp130).done ∧
    max (hopped postCmd).lastLand (hopped postCmd).issued + 2 ^ 20 ≤ postFenced.now ∧ postFenced.pieceOwner 0 (Desc.base postCmd.dst) = some 0 ∧ 0 ≠ mgmtKey ∧
    (vget (postFenced.ctx 0).q 2 []).length < 64 ∧ Claims.Between (pulling (some 9) id 9) ∧
    ((pulling (some 9) id 9).part 1).pages.find? (fun x => x.1 = 0x4000) = some (0x4000, 0x3008, 5, some 9) ∧
    (pulling (some 9) (fun c => { c with cmds := [heldCmd] }) 9).pageHeld 1 0x4000 = true ∧ Claims.Between (pulling (some 9) (fun c => { c with cmds := [heldCmd] }) 9) ∧ (vget ((pulling (some 9) id 9).ctx mgmtKey).q 2 []).length < 4096 ∧
    4096 ≤ (vget (((pulling (some 9) id 9).modCtx mgmtKey fun c => { c with q := c.q.set 2 (List.replicate 4096 0) }).ctx mgmtKey).q 2 []).length ∧
    Claims.Between heldCopy ∧ 0 ∈ heldCopy.ctxKeys ∧ (heldCopy.ctx 0).part = 1 ∧ (heldCopy.ctx 0).status ≠ .free ∧ (heldCopy.ctx 0).cmds[0]? = some heldCmd ∧
    heldCmd.page = some (0x4000, 0x3008, 5) ∧ 5 + 2 ^ 26 ≤ heldCopy.now ∧ heldCopy.ctxKeys.Nodup ∧ done130.batches cp130 ≤ 3 ∧ Claims.Timely done130 0 1000 ∧
    (done130.ctx 0).status ≠ .free ∧ (vget (done130.ctx 0).q 1 []).length < 64 ∧ (∀ w ∈ (done130.ctx 0).cmds.take 0, w.eng ≠ 1) := by decide +kernel
theorem test_premises_CopyEvents_perform : Claims.Moving done130 0 0 (moving cp130 fun m => { m with done := 3 }) cp130 ∧ (moving cp130).suspAt = 0 :=
  ⟨moving_of (by unfold isMoving; decide +kernel), by decide +kernel⟩

/-! Node events. Node 1 with the context 0 alone. -/
def inNode (f : Ctx → Ctx) (g : Node → Node := id) : State :=
  { ev0 fun c => f { c with node := 1 } with nodes := [(1, g { Node.none with run := true, part := 1, ctxs := [0], owner := 4096, flag := 3, status := mkey (padSpace 256) 0x3000 })], nextNode := 2 }
def ridging : State := inNode fun c => { c with ridging := true, status := .blocked }
def releasing : State := { inNode (fun c => { c with arrived := true, ridging := true, ridgeAt := c.ridgeKey, status := .blocked }) with now := 512 }
/-- At another RIDGE than the one that the context arrived at. -/
def handling : State := { inNode (fun c => { c with arrived := true, ridging := true, ridgeAt := (0, 0x20), status := .blocked }) with now := 512 }
def ending : State := inNode fun c => { c with status := .ending, flights := [⟨.s 1, 1, 1, 1, 5, true, false⟩] }
def killed : State := inNode fun c => { c with kill := some 22, cmds := [moving cp130] }
/-- Both cores of a pair, killed. -/
def killedPair : State :=
  let c := killed.ctx 0
  { killed with ctxs := [(0, c.modSys fun y => { y with rmode := 1 }), (1, { c.modSys fun y => { y with rmode := 3 } with lead := 0, cmds := [] }), (4096, someCtx 1), (8192, someCtx 0)] }
def freeNode : State := inNode fun c => { c with status := .free }
def gated : State := { inNode (fun c => { c with status := .blocked, wait := ⟨0, 0, none, some .ready⟩ }) (fun n => { n with gate := 1, expect := 1, leftAt := 3, away := 4 }) with now := 10 }
/-- The same with a peer package in the node's ridge group, which has not arrived. -/
def ridging2 : State := inNode (fun c => { c with ridging := true, status := .blocked }) fun n => { n with group := 5, nrank := 2, rank := 0, peers := [] }
theorem test_premises_NodeEvents_ridge :
    Claims.Between ridging ∧ (ridging.ctx 0).ridging = true ∧ (ridging.ctx 0).arrived = false ∧ (ridging.ctx 0).ridgeKey ∉ (ridging.ctx 0).passes ∧ (ridging.ctx 0).status = .blocked ∧ (ridging.ctx 0).cmds = [] ∧
    (ridging.ctx 0).accs = [] ∧ (ridging2.node (ridging2.ctx 0).node).group ≠ 0 ∧ (∀ j ∈ ridging2.live (ridging2.ctx 0).node, j = 0 ∨ (ridging2.ctx j).arrived = true) ∧
    (ridging2.node 1).run = true ∧ 1 < (ridging2.node 1).nrank ∧ 1 ≠ (ridging2.node 1).rank ∧ (∀ x ∈ (ridging2.node 1).peers, x.1 ≠ 1) ∧
    Claims.Between releasing ∧ releasing.peersIn 1 = true ∧ (∀ m ∈ releasing.msgs, releasing.msgOf 1 m = false) ∧ (releasing.node 1).ctxs = [0] ∧ (releasing.ctx 0).node = 1 ∧ (releasing.ctx 0).status = .blocked ∧
    (releasing.ctx 0).regs.sys.rmode = 0 ∧ (releasing.ctx 0).arrived = true ∧ (releasing.node 1).saved = [] ∧
    Claims.Timely releasing 0 ((releasing.core 0).edge 0 ((releasing.node 1).arrivedAt + releasing.ridgeTime 1)) ∧
    (releasing.ctx 0).ridging = true ∧ (releasing.ctx 0).ridgeKey = (releasing.ctx 0).ridgeAt ∧ releasing.energyHeld (coreOf 0) = false ∧
    (handling.ctx 0).ridging = true ∧ (handling.ctx 0).ridgeKey ≠ (handling.ctx 0).ridgeAt ∧ (handling.ctx 0).arrived = true ∧ handling.peersIn 1 = true := by decide +kernel
theorem test_premises_NodeEvents_ends :
    Claims.Between ending ∧ (ending.ctx 0).status = .ending ∧ (ending.ctx 0).cmds = [] ∧ (ending.ctx 0).accs = [] ∧ (ending.ctx 0).regs.sys.rmode.getLsbD 1 = false ∧ (killed.ctx 0).regs.sys.rmode.getLsbD 1 = false ∧ Claims.Between killed ∧ (killed.ctx 0).kill = some 22 ∧ Claims.Between freeNode ∧
    (freeNode.node 1).run = true ∧ (freeNode.node 1).saved = [] ∧ freeNode.l2 = [] ∧ (freeNode.node 1).group = 0 ∧
    (∀ k ∈ (freeNode.node 1).ctxs, (freeNode.ctx k).node ≠ 1 ∨ ((freeNode.ctx k).status = .free ∧ (freeNode.ctx k).cmds = [])) ∧ freeNode.mem.wf = true ∧ Claims.Between gated ∧ 1 ≠ 0 ∧
    (gated.part (gated.node 1).part).overrun = false ∧ (killedPair.ctx 0).kill.isSome = true ∧ (killedPair.ctx 0).regs.sys.rmode = 1 ∧ (killedPair.ctx 1).lead = 0 ∧ (killedPair.ctx 1).node = (killedPair.ctx 0).node ∧
    (killedPair.ctx 1).kill.isSome = true ∧ (killedPair.ctx 1).regs.sys.rmode.getLsbD 1 = true ∧ keyOf (coreOf 0 + 1) (numOf 0) = 1 ∧ keyOf (coreOf 1 - 1) (numOf 1) = 0 ∧ (killedPair.ctx 0).status ≠ .free ∧
    0 < (gated.node 1).gate ∧ (gated.node 1).gate = (gated.node 1).expect ∧ gated.ctxKeys.Nodup ∧ 0 ∈ gated.ctxKeys ∧ (gated.ctx 0).node = 1 ∧ (gated.ctx 0).wait.gate = some .ready := by
  decide +kernel
/-- A segment with a log of one entry and a command issued since; the same after a replay; a rollback recognised with no segment open. -/
def seg2 : Seg := { seg1 with shadow := { Regs.zero with flow := { FlowRegs.zero with pc := 0x40000100 } }, log := [(keyPad, 4, 77)], logged := 1 }
def rolling (g : Option Seg) (cs : List Cmd) : State := { inNode fun c => { c with rolling := true, seg := g, cmds := cs } with mem := base.mem.putN keyPad 4 5 }
theorem test_premises_NodeEvents_rollback :
    Claims.Between (rolling (some seg2) []) ∧ ((rolling (some seg2) []).ctx 0).rolling = true ∧ ((rolling (some seg2) []).ctx 0).kill = none ∧ ((rolling (some seg2) []).ctx 0).seg = some seg2 ∧
    ((rolling (some seg2) []).ctx 0).status = .running ∧ ((rolling (some seg2) []).ctx 0).accs = [] ∧ ((rolling (some seg2) []).ctx 0).flights = [] ∧
    ((rolling (some seg2) []).ctx 0).regs.sys.rmode = 0 ∧ seg2.replayed = false ∧ seg2.irrevocable = false ∧
    (∀ m ∈ ((rolling (some seg2) [moving cp130 fun m => { m with susp := some (3, 9) }]).ctx 0).cmds,
      if vget seg2.base m.eng.val 0 < m.num then m.susp.isSome = true ∨ ((rolling (some seg2) [moving cp130 fun m => { m with susp := some (3, 9) }]).ctx 0).behind m = true else m.susp.isSome = true) ∧
    ((rolling (some { seg2 with replayed := true }) []).ctx 0).seg = some { seg2 with replayed := true } ∧ ({ seg2 with irrevocable := true } : Seg).irrevocable = true ∧
    ((rolling none []).ctx 0).seg = none ∧ ((rolling none []).ctx 0).status ≠ .free := by decide +kernel
def budgeted (charged : Nat) : State := ev0 id |>.modPart 1 fun p => { p with budget := 100, period := 1000, charged := charged }
theorem test_premises_NodeEvents_budget :
    Claims.Between (budgeted 100) ∧ ((budgeted 100).part 1).exist = true ∧ ((budgeted 100).part 1).budget ≠ 0 ∧ ((budgeted 100).part 1).overrun = false ∧
    ((budgeted 100).part 1).budget ≤ ((budgeted 100).part 1).charged ∧ (∀ n ∈ (budgeted 100).nodes, ((budgeted 100).node n.1).run = true → ((budgeted 100).node n.1).part = 1 → ((budgeted 100).node n.1).out ≠ 0) ∧
    ((budgeted 100).ctx mgmtKey).status ≠ .free ∧ (vget ((budgeted 100).ctx mgmtKey).q 2 []).length < 4096 ∧
    (({ budgeted 100 with now := 1000 } : State).periodEnd 1) ≤ 1000 ∧ ¬(((budgeted 100).part 1).budget = 0 ∨ ((budgeted 100).part 1).period = 0) ∧
    (let s := (budgeted 100).modPart 1 fun p => { p with budget := 0, overrun := true }
     ((s.part 1).budget = 0 ∨ (s.part 1).period = 0) ∧ (s.part 1).overrun = true ∧ (s.part 1).exist = true) ∧
    ((budgeted 100).ctx 4096).status ≠ .free ∧ ((budgeted 100).ctx 4096).regs.flow.pc = 0x40000000 ∧
    (({ budgeted 100 with now := 1000 }.modPart 1 fun p => { p with parked := [(4096, 0x40, Vector.replicate 16 7)] } : State).part 1).parked = [(4096, 0x40, Vector.replicate 16 7)] := by decide +kernel
def drainAt (t : Nat) : State := { inNode id (fun n => { n with drainAt := some t }) with now := 9 }
theorem test_premises_NodeEvents_drain :
    Claims.Between (drainAt 9) ∧ ((drainAt 9).node 1).drainAt = some 9 ∧ 9 ≤ (drainAt 9).now ∧ 0 ∈ (drainAt 9).nodeCtxs 1 ∧ ((drainAt 9).node 1).ctxs.Nodup ∧
    ((drainAt 9).ctx 0).regs.sys.rmode.getLsbD 1 = false ∧ ((drainAt 9).ctx 0).saving = false ∧
    (let s := (drainAt 9).modCtx 0 fun c => { c with saving := true }
     (∀ j ∈ s.nodeCtxs 1, (s.ctx j).saving = true) ∧ 0 ∈ s.nodeCtxs 1) := by decide +kernel
/-- A context marked for its epilogue before an END, with no banks and a region for its image. -/
def stopping : State :=
  { ((ev0 fun c => { c with forced := true, ctl := { c.ctl with banks := 0, ctxreg := 0x50000000 } }).modPart 1 fun p => { p with ctxr := (0x50000000, 0x10000000), desc := List.replicate 512 0xFF }) with
    mem := base.mem.putN (mkey 0 0x40000000) 8 (21 * 2 ^ 58) }
theorem test_premises_NodeEvents_epilogue :
    Claims.Between stopping ∧ (stopping.ctx 0).forced = true ∧ (stopping.ctx 0).saving = false ∧ (stopping.ctx 0).kill = none ∧ (stopping.ctx 0).status ≠ .free ∧ (stopping.ctx 0).status ≠ .ending ∧
    (stopping.ctx 0).cmds = [] ∧ stopping.atStop 0 = true ∧ stopping.opOn 0 = false ∧ (stopping.ctx 0).regs.sys.rmode.getLsbD 1 = false := by decide +kernel

/-! Windows, operations, health, the outside. -/
def at' (n : Nat) (s : State) : State := { s with now := n }
def pitched (g : Governor → Governor) (p : Pitch → Pitch := id) : State := at' 2048 (((with0 (fun c => { c with pitch := p { c.pitch with floor := 3, rank := 2, relief := true } }) base)).modCore 0 fun y => { y with gov := g y.gov })
def narrowing : State := pitched fun g => { g with used := 100000 }
def widening : State := pitched (fun g => { g with quiet := 3, stack := [0] }) fun p => { p with core := 1 }
/-- Energy at the window's first and last cycles; a core governor that narrows, is quiet, widens; a plain governor that narrows. -/
theorem test_premises_WindowEvents :
    Claims.Between base ∧ ((at' 512 base).core 0).energy.fin ≤ 512 ∧ 1023 < ((at' 1023 base).core 0).energy.fin + 256 * ((at' 1023 base).core 0).div[(0 : Fin 5)] ∧  narrowing.mulCmds 0 = [] ∧ ((narrowing.core 0).gov.win + 1) * 2048 ≤ narrowing.now ∧
    (narrowing.core 0).matrixCycles 2048 < (narrowing.core 0).gov.used ∧ narrowing.bound 0 = [0] ∧ (narrowing.ctx 0).pitch.core < (narrowing.ctx 0).pitch.floor ∧
    (narrowing.ctx 0).regs.sys.dmode = false ∧ (narrowing.ctx 0).pitch.rank ≤ 7 ∧ (widening.core 0).gov.used ≤ (widening.core 0).matrixCycles 2048 * 9 / 10 ∧ (widening.core 0).gov.late = false ∧
    (widening.core 0).gov.quiet = 3 ∧ (widening.core 0).gov.stack = [0] ∧ ((pitched id).core 0).gov.quiet < 3 ∧ ((pitched id).core 0).gov.used ≤ ((pitched id).core 0).matrixCycles 2048 * 9 / 10 ∧
    ((vget (pitched id).plains 0 Governor.resetPlain).win + 1) * 2048 ≤ (pitched id).now ∧ (∀ c, c < 256 → (pitched id).mulCmds c = []) := by decide +kernel
/-- The only owner of plain 0 asks 2^40 bytes of its HBM, with and without a bandwidth of its contract. -/
def alone (bwg : Nat) : State :=
  let s := pitched id fun p => { p with bwg := bwg }
  { s with ctxs := [(0, s.ctx 0), (8192, someCtx 0)], traffic := [⟨0, 0, 1, 2 ^ 40, 0⟩] }
def served : State := with0 (fun c => dmode { c with pitch := { c.pitch with bwg := 3 } }) base
theorem test_premises_WindowEvents_plain :
    Claims.Between (alone 0) ∧ ((vget (alone 0).plains 0 Governor.resetPlain).win + 1) * 2048 ≤ (alone 0).now ∧ (∀ c, c < 256 → (alone 0).mulCmds c = []) ∧ (alone 0).plainOwners 0 = [0] ∧ (alone 0).rates = [] ∧
    (alone 0).traffic = [⟨0, 0, 1, 2 ^ 40, 0⟩] ∧ ((alone 0).capacity 0 1).1 < 2 ^ 40 ∧
    ((alone 0).ctx 0).pitch.relief = true ∧ ((alone 0).ctx 0).pitch.rank ≤ 7 ∧ ((alone 0).ctx 0).pitch.plain < ((alone 0).ctx 0).pitch.floor ∧ ((alone 0).ctx 0).regs.sys.dmode = false ∧
    min (2 ^ 40) (((alone 0).ctx 0).pitch.bwg * 256) - ((alone 0).capacity 0 1).1 = 0 ∧ 0 < min (2 ^ 40) (((alone (2 ^ 32)).ctx 0).pitch.bwg * 256) - ((alone (2 ^ 32)).capacity 0 1).1 ∧
    (vget ((alone 0).ctx 0).q 2 []).length < 64 ∧ [0, 4096].Nodup ∧ (served.ctx 0).regs.sys.dmode = true ∧
    (([0, 4096].filter fun j => (served.ctx j).regs.sys.dmode).map fun j => (served.ctx j).pitch.bwg * 256).sum ≤ 768 ∧
    ((at' Config.usagePeriod base).part 1).exist = true ∧ ((at' Config.usagePeriod base).part 1).final = false ∧
    ((at' Config.usagePeriod base).part 1).created + (((at' Config.usagePeriod base).part 1).emitted + 1) * Config.usagePeriod ≤ Config.usagePeriod ∧
    ((at' Config.perHour base).hours + 1) * Config.perHour ≤ Config.perHour := by decide +kernel
def op1 (kind : OpKind) (target a b : Nat) (data : List Byte := []) : SysOp := { mkOp kind 102 3 target a b 5 data with issuer := some 4096, ticket := 7 }
def opState (o : SysOp) (s : State := base) : State := { s with ops := [o] }
def freed1 : State := { base with ctxs := [(4096, someCtx 1), (8192, someCtx 0)] }
/-- Saves of a Free context and of one with an image region, loads of what is no image. -/
theorem test_premises_OperationEvents_images :
    Claims.Op (opState (op1 .save 0 0 0) freed1) 0 (op1 .save 0 0 0) .save ∧ (opState (op1 .save 0 0 0) freed1).opReady (op1 .save 0 0 0) = true ∧
    (opState (op1 .save 0 0 0) freed1).opTurn (op1 .save 0 0 0) = true ∧ ((opState (op1 .save 0 0 0) freed1).ctx 0).status = .free ∧
    Claims.Op (opState (op1 .save 0 0 0) stopping) 0 (op1 .save 0 0 0) .save ∧ (opState (op1 .save 0 0 0) stopping).opReady (op1 .save 0 0 0) = true ∧
    (opState (op1 .save 0 0 0) stopping).opTurn (op1 .save 0 0 0) = true ∧ ((opState (op1 .save 0 0 0) stopping).ctx 0).status ≠ .free ∧
    (((Claims.less (opState (op1 .save 0 0 0) stopping) 0).quiesce 0).saveImage 0 0).isSome = true ∧
    Claims.Op (opState (op1 .load 0 0x50000000 1) freed1) 0 (op1 .load 0 0x50000000 1) .load ∧ (opState (op1 .load 0 0x50000000 1) freed1).opTurn (op1 .load 0 0x50000000 1) = true ∧
    (op1 .load 0 0x50000000 1).issuer.isSome = true ∧ (match (Claims.less (opState (op1 .load 0 0x50000000 1) freed1) 0).loadImage 0 1 0x50000000 with | .error _ => true | .ok _ => false) = true := by
  decide +kernel
/-- A load of the device's own, of an image that can be read and does not check, and of one outside the partition's memory. -/
def resuming (a : Nat) : State :=
  { (stopping.modPart 1 fun p => { p with ctxr := (0x50000000, 0x1000000) }) with
    ops := [{ op1 .load 0 a 1 with issuer := none }], ctxs := [(4096, someCtx 1), (8192, someCtx 0)], nodes := [(1, { Node.none with run := true, part := 1, saved := [(0, a)] })] }
def ownLoad (a : Nat) : SysOp := { op1 .load 0 a 1 with issuer := none }
theorem test_premises_OperationEvents_own :
    ([0x50000000, 0x3F000000].all fun a => decide (Claims.Op (resuming a) 0 (ownLoad a) .load ∧ (resuming a).opTurn (ownLoad a) = true) &&
      (match (Claims.less (resuming a) 0).loadImage 0 1 a with | .error _ => true | .ok _ => false) &&
      (((resuming a).nodes.map Prod.fst).find? fun n => ((resuming a).node n).run && ((resuming a).node n).saved.any fun x => x.2 = a) == some 1) = true ∧
    (Claims.less (resuming 0x50000000) 0).imageAt 1 0x50000000 0x40000 = true ∧ (Claims.less (resuming 0x3F000000) 0).imageAt 1 0x3F000000 0x40000 = false := by decide +kernel
theorem test_premises_OperationEvents_finish :
    (op1 .save 0 0 0).issuer = some 4096 ∧ (base.ctx 4096).status ≠ .free ∧ (base.ctx 4096).life = (op1 .save 0 0 0).life ∧ (vget (base.ctx 4096).q 2 []).length < 64 := by decide +kernel
/-- Partition descriptors: with grants and no region, and with none; a template image of one empty page of tables. -/
def desc2 : List Byte := descBytes [(0, 2), (0x18, 0x8000), (0x20, 0x80000000), (0x28, 0x40000000), (0x48, 0), (0x80, 1)]
def desc3 : List Byte := descBytes [(0, 2), (0x18, 0x8000), (0x20, 0x80000000), (0x28, 0x40000000), (0x48, 0x400000)]
def template : State := { base with mem := ((base.mem.putN (mkey 2 0x8000) 4 0x50540001).putN (mkey 2 0x8008) 8 4096).putN (mkey 2 0x8010) 8 0 }
def signed1 : State := base.modPart 1 fun p => { p with usage := some [1, 2, 3] }
theorem test_premises_OperationEvents_partitions :
    Claims.Op (opState (op1 .create 2 0 0 desc2)) 0 (op1 .create 2 0 0 desc2) .create ∧ le desc2 0x48 8 < descSlots desc2 ∧
    Claims.Op (opState (op1 .create 2 0 0 desc3) template) 0 (op1 .create 2 0 0 desc3) .create ∧ ((Claims.less (opState (op1 .create 2 0 0 desc3) template) 0).create 2 desc3).1 = 0 ∧
    Claims.Op (opState (op1 .stop 3 0 0)) 0 (op1 .stop 3 0 0) .stop ∧ (∀ c ∈ (opState (op1 .stop 3 0 0)).ctxs, c.2.part = 3 → c.2.status = .free ∧ c.2.cmds = []) ∧
    Claims.Op (opState (op1 .destroy 1 0 0)) 0 (op1 .destroy 1 0 0) .destroy ∧ Claims.Op (opState (op1 (.zero 1) 0 1 0)) 0 (op1 (.zero 1) 0 1 0) (.zero 1) ∧
    Claims.Op (opState (op1 (.zero 0) 1 0x40000000 65536)) 0 (op1 (.zero 0) 1 0x40000000 65536) (.zero 0) ∧
    (∀ x ∈ (opState (op1 .stop 3 0 0)).ops.take 0, ∀ cls ∈ [0, 1, 2, 3], x.kind = .zero cls → (if cls = 1 then x.b else x.target) ≠ 3) ∧
    (5 < 256 ∧ ∀ x ∈ (opState (op1 .retire 5 0 0)).nodes, x.2.run = true → x.2.cause = none ∨ ∀ k ∈ x.2.ctxs, coreOf k ≠ 5) ∧
    Claims.Op (opState (op1 .retire 5 0 0)) 0 (op1 .retire 5 0 0) .retire ∧ (opState (op1 .retire 5 0 0)).flash.length < 8192 ∧
    Claims.Op (opState (op1 (.sign 0) 9 0x40000000 0)) 0 (op1 (.sign 0) 9 0x40000000 0) (.sign 0) ∧ ((opState (op1 (.sign 0) 9 0x40000000 0)).part 9).exist = false ∧
    Claims.Op (opState (op1 (.sign 0) 1 0x40000000 0) signed1) 0 (op1 (.sign 0) 1 0x40000000 0) (.sign 0) ∧ (signed1.part 1).exist = true ∧ (signed1.part 1).usage = some [1, 2, 3] ∧
    ((Claims.less (opState (op1 (.sign 0) 1 0x40000000 0) signed1) 0).writeVirt ((op1 (.sign 0) 1 0x40000000 0).issuer.getD mgmtKey) 0x40000000 ([1, 2, 3] ++ List.replicate 4093 0) 4).isSome = true := by
  decide +kernel

/-! Health: core 0 watches one neighbour; bring-up has ended. -/
def ready (s : State) : State := { s with boot := { s.boot with state := 1 } }
def healthy (f : Health → Health) (n : Nat := 0) : State := ready (at' n (base.modCore 0 fun c => { c with health := f c.health }))
def viewing (d : Fin 4) (v : View) (n : Nat := 0) : State := healthy (fun h => { h with views := (Vector.replicate 4 { View.live with view := 3 }).set d v }) n
def missing : State := viewing 0 { View.live with missed := 2 } 65536
def returning : State := { (viewing 0 { View.live with view := 3 }).modCore 1 fun c => { c with health := { c.health with probation := true } } with wires := [⟨0, 0, .appeal, 9⟩] }
def tested : State := { healthy fun h => { h with testing := some 9, fenced := true } with ctxs := [(4096, someCtx 1), (8192, someCtx 0)] }
def unitIn (u : Nat) (y : UnitSt) : State := ready { base with units := [(u, y)], ctxs := [(4096, someCtx 1), (8192, someCtx 0)] }
def leased : UnitSt := { UnitSt.new with lease := true }
/-- A channel of a stack of plain 0. -/
def chan : Nat := 0x30000000
/-- A node of partition 1 runs on plain 0. -/
def running (u : Nat) : State := { unitIn u leased with nodes := [(1, { Node.none with run := true, part := 1, ctxs := [0] })], ctxs := [(0, { someCtx 1 with node := 1 }), (4096, someCtx 1), (8192, someCtx 0)] }
def beat64 : BitVec 128 := 64 * 2 ^ 40
theorem test_premises_HealthEvents_beats :
    Claims.Between (ready base) ∧ (ready base).boot.state = 1 ∧ (ready base).now % 65536 = 0 ∧ ((ready base).core 0).health.fenced = false ∧ ((ready base).unit (coreUnit 0)).retired = false ∧
    ((ready base).unit (coreUnit 0)).failed = false ∧ ((ready base).core 0).health.sentAt = none ∧
    Claims.Watches (ready base) 0 0 1 ∧ (ready base).inPeriod 0 = true ∧ (ready base).inPeriod 1 = true ∧ ((ready base).view 0 0).view = 0 ∧ ((ready base).view 0 0).beats < 2 ∧
    ((ready base).view 0 0).accepted ≤ (beat64.extractLsb' 40 24).toNat + 64 ∧ (beat64.extractLsb' 40 24).toNat ≤ ((ready base).view 0 0).accepted + 64 ∧
    ((ready base).core 1).health.probation = false ∧ ((viewing 0 { View.live with view := 1, acc := true, set := [0] }).view 0 0).view = 1 ∧
    Claims.Watches (viewing 0 { View.live with view := 1, acc := true, set := [0] }) 0 0 1 ∧
    (viewing 0 { View.live with beats := 1, accepted := 64 }).view 0 0 = { View.live with beats := 1, accepted := 64 } := by decide +kernel
theorem test_premises_HealthEvents_silent : Config.silent 0 0 = true ∨ Config.silent 0 0 = false := by cases Config.silent 0 0 <;> simp
theorem test_premises_HealthEvents_periods :
    Claims.Watches missing 0 0 1 ∧ (∀ m : Fin 4, m ≠ 0 → neighbour 0 m = none ∨ (missing.view 0 m).view = 3) ∧ missing.boot.state = 1 ∧
    (missing.core 0).health.periods < missing.now / 65536 ∧ missing.boot.readyAt ≤ (missing.now / 65536 - 1) * 65536 ∧ (missing.view 0 0).view = 0 ∧
    (missing.view 0 0).beats = 0 ∧ 2 ≤ (missing.view 0 0).missed ∧ 2 ≤ missing.inCount 1 ∧ (missing.view 0 0).set = [] ∧ missing.units = [] ∧
    0 < ((viewing 0 { View.live with beats := 1 } 65536).view 0 0).beats ∧ Claims.Watches (viewing 0 { View.live with beats := 1 } 65536) 0 0 1 ∧
    ((viewing 0 { View.live with beyond := 7, flits := [(0, 2049)] } 4096).view 0 0).window < 4096 / 4096 ∧ Claims.Watches (viewing 0 { View.live with beyond := 6, flits := [(0, 2049)] } 4096) 0 0 1 ∧
    (if 2048 < max 0 2049 then (if 0 = 0 then 6 else 0) + 1 else 0) < 8 := by decide +kernel
def told (kind : LinkMsg) (set : List Nat := []) : State := { viewing 0 { View.live with set := set } with wires := [⟨0, 0, kind, 9⟩] }
theorem test_premises_HealthEvents_votes :
    Claims.Watches (told (.accuse 2)) 0 0 1 ∧ ((told (.accuse 2)).takeWire 0 0 (.accuse 2)).isSome = true ∧
    (insertSorted 2 ((told (.accuse 2)).view 0 0).set).length < (told (.accuse 2)).inCount 1 / 2 + 1 ∧
    (told (.accuse 2) [0]).inCount 1 / 2 + 1 ≤ (insertSorted 2 ((told (.accuse 2) [0]).view 0 0).set).length ∧ 0 < (told (.accuse 2) [0]).inCount 1 ∧
    ((told (.accuse 2) [0]).unit (coreUnit 1)).retired = false ∧ (told .fence).takeWire 0 0 (.accuse 2) = none ∧ ((told (.withdraw 2) [2]).takeWire 0 0 (.withdraw 2)).isSome = true ∧
    Claims.Watches (told .fence) 0 0 1 ∧ ((told .fence).core 1).health.fenced = false ∧ ((told .fence).unit (coreUnit 1)).retired = false ∧
    ((told .fence).takeWire 0 0 .fence).isSome = true ∧ (viewing 0 { View.live with set := [0, 2] }).majority 0 0 1 = true := by decide +kernel
theorem test_premises_HealthEvents_tests :
    Claims.Between returning ∧ neighbour 0 0 = some 1 ∧ returning.inService 0 = true ∧ (returning.takeWire 0 0 .appeal).isSome = true ∧
    (returning.view 0 0).view = 3 ∧ (returning.core 1).health.probation = true ∧ (returning.core 1).health.fenced = false ∧ (returning.unit (coreUnit 1)).retired = false ∧
    (returning.unit (coreUnit 1)).out = false ∧
    Claims.Between tested ∧ (tested.core 0).health.testing = some 9 ∧ (tested.unit 0).retired = false ∧ (∀ o ∈ tested.ops, o.kind ≠ .appeal ∨ o.target ≠ 0) ∧
    (tested.unit 0).score < 3072 ∧ tested.units.length ≤ 1 ∧ (∀ u ∈ tested.units, u.1 = 0) ∧ tested.now < (tested.hours + 1) * Config.perHour := by decide +kernel
theorem test_premises_HealthEvents_leases :
    unitOk 0 = true ∧ (ready base).boot.state = 1 ∧ (ready base).mayLease 0 = true ∧
    (∀ v ∈ allUnits, v ≠ 0 → (ready base).mayLease v = true → (ready base).leaseBefore 0 v = true) ∧ ((unitIn chan leased).unit chan).lease = true ∧ ((unitIn chan leased).unit chan).out = false ∧ 256 ≤ chan ∧
    (unitIn chan leased).mayWithdraw chan [] = true ∧ 1 ∈ (running chan).usersOf chan ∧ 1 ∉ [2] ∧ ((running chan).unit chan).lease = true ∧
    (running chan).mayWithdraw chan [1] = true ∧ ((unitIn 0 leased).core 0).health.fenced = false ∧ ((unitIn 0 leased).unit 0).lease = true ∧ (unitIn 0 leased).bound 0 = [] ∧ ((unitIn 0 leased).core 0).health.probation = false ∧
    ((unitIn chan { leased with out := true }).unit chan).out = true ∧ ((unitIn chan { leased with out := true }).unit chan).stop = false ∧
    ((unitIn chan { leased with out := true }).unit chan).retired = false ∧
    ¬((unitIn chan { leased with out := true }).unit chan).since + (patternBounds chan).2 ≤ (unitIn chan { leased with out := true }).now ∧
    (let s := at' (patternBounds chan).2 (unitIn chan { leased with out := true })
     (s.unit chan).since + (patternBounds chan).2 ≤ s.now) := by decide +kernel

/-! The outside. -/
def lastTest : State := { base with boot := { base.boot with next := bootTests.length - 1 } }
def powered (p : Power → Power) (n : Nat := 0) : State := { at' n base with ctxs := [], power := p base.power }
def linked (f : Part → Part := id) : State := { base with links := #v[16, 0] } |>.modPart 1 f
theorem test_premises_OutsideEvents_power :
    Claims.Between base ∧ base.boot.state = 0 ∧ base.boot.next = 0 ∧ lastTest.boot.state = 0 ∧ lastTest.boot.next + 1 = bootTests.length ∧ (∃ l : Fin 2, lastTest.links[l] ≠ 0) ∧
    (base.dies[(0 : Fin 4)] = false) ∧ (let s := { powered id with dies := base.dies.set 0 true }; s.dies[(0 : Fin 4)] = true ∧ ∀ i : Fin 4, i ≠ 0 → s.dies[i] = false) ∧ (94 : Int) < 95 ∧ (7 : BitVec 192).extractLsb' 128 64 = 0 ∧ (∀ q ∈ (powered fun p => { p with seq := some 6 }).power.seq, q < ((7 : BitVec 192).extractLsb' 0 64).toNat) ∧
    (powered id).ctxs = [] ∧ (powered (fun p => { p with leaseEnd := some 9 }) 10).power.leaseEnd = some 9 ∧ 9 < (powered (fun p => { p with leaseEnd := some 9 }) 10).now ∧
    (104 : Int) < 105 ∧ (105 : Int) ≤ 105 ∧ (110 : Int) ≤ 110 ∧ (100 : Int) < 101 ∧ (101 : Int) < 110 ∧ 8 ∈ [0, 4, 8, 16] := by decide +kernel
theorem test_premises_OutsideEvents_hosts :
    Claims.Live linked 1 ∧ (linked.part 1).stopped = false ∧ 0 + 8 ≤ 2 ^ 40 ∧ eaveSpace 8 ≤ linked.vfFree 1 ∧
    (linked fun p => { p with eave := [⟨0, 0x40000000, List.replicate 0x40000 0⟩] }).vfFree 1 < eaveSpace 8 ∧ (linked.part 1).vf[(0 : Fin 2)].drop ≠ BitVec.allOnes 64 ∧
    ((linked fun p => { p with vf := p.vf.set 0 { p.vf[(0 : Fin 2)] with winbase := 0x40000000 } }).hostRuns 0 1 0x40000000 8 .read 2).isOk = true ∧ linked.locked 1 = false ∧
    (linked fun p => { p with tdi := .run }).locked 1 = true ∧ 2 ^ 40 ≤ (0x0000010000000000 : BitVec 64).toNat ∧ (0x0000010000000000 : BitVec 64).toNat < 2 ^ 57 ∧
    linked.vfUp 3 = true ∧ linked.vfLive 3 = false ∧ (linked fun p => { p with stopped := true }).vfLive 1 = true ∧ ((linked fun p => { p with stopped := true }).part 1).stopped = true ∧
    linked.links[(0 : Fin 2)] ≠ 0 ∧ Claims.Live linked (vfPart 1) ∧ (match linked.hostRuns 0 1 0x0000010000000000 8 .read 2 with | .error _ => true | .ok _ => false) = true ∧ 64 ≤ 64 ∧ (base.part 1).exist = true ∧ (base.part 1).tdi = .unlocked ∧ ((base.modPart 1 fun p => { p with tdi := .locked }).part 1).tdi = .locked := by decide +kernel
def flit (seq : Nat) (last : Nat) : BitVec 512 := BitVec.ofNat 512 (let v := seq * 2 ^ 16 + last * 2 ^ 30 + 5 * 2 ^ 64; v + flitCrc v)
def nacked : State := { base with ports := base.ports.set 0 { base.ports[0] with replay := [flit 3 0], fails := 14, nakAt := some 3 } }
def failing : State := { base with ports := base.ports.set 0 { base.ports[0] with replay := [flit 3 0], fails := 15, nakAt := some 3 } }
theorem test_premises_OutsideEvents_ports :
    Claims.Carries base 0 ∧ ((flit 0 0).extractLsb' 24 6).toNat = 0 ∧ ((flit 0 0).extractLsb' 31 3).toNat < 6 ∧ ((flit 0 0).extractLsb' 50 14).toNat = base.fabric ∧
    flitCrc (flit 0 1).toNat = ((flit 0 1).extractLsb' 0 16).toNat ∧ ((flit 0 1).extractLsb' 16 8).toNat = base.ports[(0 : Fin 18)].rx ∧ (flit 0 1).getLsbD 30 = true ∧
    flitCrc (flit 0 2).toNat = ((flit 0 2).extractLsb' 0 16).toNat ∧ ((flit 0 2).extractLsb' 31 3).toNat < 6 ∧ ((flit 0 4).extractLsb' 31 3).toNat < 6 ∧ ¬((flit 0 13).extractLsb' 31 3).toNat < 6 ∧
    flitCrc (flit 0 13).toNat = ((flit 0 13).extractLsb' 0 16).toNat ∧ flitCrc (flit 0 0).toNat = ((flit 0 0).extractLsb' 0 16).toNat ∧ ((flit 0 0).extractLsb' 16 8).toNat = base.ports[(0 : Fin 18)].rx ∧
    base.ports[(0 : Fin 18)].retry = false ∧ (flit 0 0).getLsbD 30 = false ∧ flitCrc (flit 0 0 + 1).toNat ≠ ((flit 0 0 + 1).extractLsb' 0 16).toNat ∧
    ((flit 1 0).extractLsb' 16 8).toNat ≠ base.ports[(0 : Fin 18)].rx ∧ Claims.Carries nacked 0 ∧ nacked.units = [] ∧ nacked.ports[(0 : Fin 18)].fails + 1 < 16 ∧ nacked.ports[(0 : Fin 18)].nakAt = some 3 ∧
    nacked.ports[(0 : Fin 18)].replay = [flit 3 0] ∧ (flit 3 0).extractLsb' 16 8 = 3 ∧ Claims.Carries failing 0 ∧ failing.ports[(0 : Fin 18)].nakAt = some 3 ∧ 16 ≤ failing.ports[(0 : Fin 18)].fails + 1 ∧ failing.ports[(0 : Fin 18)].replay = [flit 3 0] ∧
    failing.ports[(0 : Fin 18)].fails = 15 ∧ (failing.unit (portUnit 0)).lease = false ∧ (failing.unit (portUnit 0)).retired = false := by decide +kernel

/-! Frames: an instruction of each kind that answers a next state. -/
theorem test_premises_RegisterFrame :
    Claims.dests (.add ⟨ga, .r 3, .r 1, .r 2, true⟩) = some [.s 3] ∧ (Instr.add ⟨ga, .r 3, .r 1, .r 2, true⟩).wf = true ∧ s0.opened.isSome = true ∧
    (after (.add ⟨ga, .r 3, .r 1, .r 2, true⟩) s0 fun _ => true) = some true := by decide +kernel
theorem test_premises_AccessFrame :
    sFar.mem.wf = true ∧ sFar.locate sFar.me 0x40000100 .write = .ok keyHbm false (there sFar 0x40000100 .write) ∧ 0x1000000 ≤ 0x40000100 ∧ sFar.opened.isSome = true ∧
    sFar.rdS (.r 6) = .ok 0x40000100 ∧ (after (.st ⟨ga, .r 1, .r 6, .zero, 3⟩) sFar fun _ => true) = some true ∧
    (after (.ld ⟨ga, .r 1, .r 6, .zero, 3⟩) sFar fun _ => true) = some true ∧ (after (.aadd ⟨ga, .r 1, .r 6, .r 2, true⟩) sFar fun _ => true) = some true ∧
    Claims.Spared sFar (keyHbm + 8) ∧ vbase.mem.wf = true ∧ Claims.Spared vbase keyHbm ∧ (after (.vst .b ⟨ga, .r 2, .r 4, .zero⟩) (based 0x100) fun _ => true) = some true ∧
    (after (.vaadd .a ⟨ga, .r 3, .r 1, .r 2, .i32⟩) vbase fun _ => true) = some true ∧ (after (.xst ⟨ga, 1, .r 4, .zero⟩) (sctx 64) fun _ => true) = some true ∧
    (after (.xld ⟨ga, 1, .r 4, .zero⟩) (sctx 64) fun _ => true) = some true ∧ (after (.vld .b ⟨ga, .r 2, .r 4, .zero⟩) (based 0x100) fun _ => true) = some true ∧
    (after (.vtbl .b ⟨ga, .r 3, .r 4, .r 2, 4⟩) (based 0x100) fun _ => true) = some true := by
  unfold Claims.Spared
  decide +kernel
theorem test_premises_OutsideEvents_reads : Config.readsStopped = true ∨ Config.readsStopped = false := by cases Config.readsStopped <;> simp
theorem test_premises_FlowFrame_parts :
    Claims.flowDests (.epi ⟨ga, 5, 3, 36⟩) = some [.m 36, .p 3] ∧ (after (.epi ⟨ga, 5, 3, 36⟩) s0 fun _ => true) = some true ∧
    s0.mem.wf = true ∧ (after (.loop ⟨ga, 2, 0⟩) (loopS [] 1) fun _ => true) = some true ∧ (loopS [] 1).mem.wf = true ∧ (after (.drain ⟨ga, 2⟩) s0 fun _ => true) = some true ∧
    (after (.drainE ⟨ga, 5⟩) s0 fun _ => true) = some true ∧ good.mem.wf = true ∧ good.opened.isSome = true ∧ (after (.launch launchX) good fun _ => true) = some true := by decide +kernel
theorem test_premises_FlowFrame :
    Claims.flowForm (.j ⟨ga, 2⟩) = true ∧ s0.opened.isSome = true ∧ (after (.j ⟨ga, 2⟩) s0 fun _ => true) = some true := by decide +kernel

/-- R221: RELU gives +0 for what is not above zero, a NaN among it, and ABS keeps a NaN canonical. -/
theorem test_relu_nan : actElem 0 0 0x7FC00000 = 0 ∧ actElem 0 0 0x40000000 = 0x40000000 ∧ actElem 1 0 0xFFC00001 = 0x7FC00000 := by decide +kernel

end
end Sys2Proof.Tests
end

namespace Sys2Proof.Machine

/-!
PROOFS. O7: every step keeps a state sound (`State.Sound`). Each function of the model that gives a state has one lemma, named after it in
the namespace `State.Sound`, that it keeps a state sound; the lemma about a caller is put together from those about what it calls, in the order
of the calls. Only what writes memory or the open bundle has more to say than that it leaves both. The order is that of the model: the operations of the
state, the instructions, the events, `exec`, the issue of bundles and `step`.
-/

/-! What keeps a state sound. -/
/-- Only the memory and the open bundle count. -/
theorem State.Sound.of_eq {s t : State} (h : s.Sound) (hm : t.mem = s.mem) (ho : t.opened = s.opened) : t.Sound := by
  unfold State.Sound
  rw [hm, ho]
  exact h
/-- A change of memory that keeps its form, with the open bundle as it was. -/
theorem State.Sound.of_canon {s t : State} (h : s.Sound) (hm : t.Canon) (ho : t.opened = s.opened) : t.Sound :=
  ⟨hm, ho ▸ h.2⟩
/-- A change of the open bundle that leaves the memories it goes back to. -/
theorem State.Sound.mapOpened {s t : State} (h : s.Sound) (f : Open → Open) (hm : t.mem = s.mem) (ho : t.opened = s.opened.map f)
    (hf : ∀ o, (f o).saved = o.saved ∧ (f o).mem = o.mem) : t.Sound := by
  refine ⟨hm ▸ h.1, fun o e => ?_⟩
  obtain ⟨p, hp, rfl⟩ := Option.map_eq_some_iff.mp (ho ▸ e)
  rw [(hf p).1, (hf p).2]
  exact h.2 p hp
theorem State.Sound.foldl {α : Type} {f : State → α → State} {l : List α} {s : State} (h : s.Sound)
    (step : ∀ b a, b.Sound → (f b a).Sound) : (l.foldl f s).Sound := foldl_keeps State.Sound f l s h step
theorem State.Sound.ite {c : Prop} [Decidable c] {s t : State} (hs : s.Sound) (ht : t.Sound) : State.Sound (if c then s else t) := by
  split
  · exact hs
  · exact ht

variable {s : State}
theorem State.Sound.setCtx {k : Nat} {c : Ctx} (h : s.Sound) : (s.setCtx k c).Sound := h
theorem State.Sound.modCtx {k : Nat} {f : Ctx → Ctx} (h : s.Sound) : (s.modCtx k f).Sound := h
theorem State.Sound.modCore {k : Nat} {f : Core → Core} (h : s.Sound) : (s.modCore k f).Sound := h
theorem State.Sound.modPart {k : Nat} {f : Part → Part} (h : s.Sound) : (s.modPart k f).Sound := h
theorem State.Sound.writeNow {k : Nat} {l : Loc} {v mask : Nat} (h : s.Sound) : (s.writeNow k l v mask).Sound := h

/-! Memory and the L2. -/
theorem State.Sound.putN {key n v : Nat} (h : s.Sound) : (s.putN key n v).Sound := h.of_canon (s.canon_putN key n v h.1) rfl
theorem State.Sound.putBytes {key : Nat} {l : List Byte} (h : s.Sound) : (s.putBytes key l).Sound := h.of_canon (s.canon_putBytes key l h.1) rfl
theorem State.Sound.zero {a n : Nat} (h : s.Sound) : (s.zero a n).Sound := h.of_canon (s.canon_zero a n h.1) rfl
theorem State.Sound.clearPoison {key n : Nat} (h : s.Sound) : (s.clearPoison key n).Sound := h
theorem State.Sound.writeBack {l : L2Line} (h : s.Sound) : (s.writeBack l).Sound :=
  h.foldl fun _ _ hb => .ite (hb.of_canon (Memory.wf_put _ _ _ hb.1) rfl) hb
theorem State.Sound.dropLines {f : L2Line → Bool} (h : s.Sound) : (s.dropLines f).Sound :=
  (h.foldl fun _ _ hb => hb.writeBack).of_eq rfl rfl
theorem State.Sound.toHome {line : Nat} (h : s.Sound) : (s.toHome line).Sound := h.dropLines
theorem State.Sound.placeLine {plain part line : Nat} {data : BitVec 512} (h : s.Sound) : (s.placeLine plain part line data).Sound := by
  unfold State.placeLine
  refine .ite h ?_
  dsimp only
  split
  · exact h
  · exact h
  · exact State.Sound.dropLines (s := (s.pick _).2) h
theorem State.Sound.fillLine {plain part key : Nat} (h : s.Sound) : (s.fillLine plain part key).Sound := .ite h h.placeLine
theorem State.Sound.touchHome {plain part scope key n : Nat} {uc : Bool} (h : s.Sound) : (s.touchHome plain part scope uc key n).Sound :=
  .ite (h.foldl fun _ _ hb => .ite hb hb.placeLine) h
theorem State.Sound.noteNarrow {k scope key n : Nat} {uc cmd : Bool} (h : s.Sound) : (s.noteNarrow k scope uc key n cmd).Sound := .ite h h
theorem State.Sound.flushStores {k : Nat} {cmds : Bool} (h : s.Sound) : (s.flushStores k cmds).Sound :=
  (h.foldl fun _ _ hb => hb.toHome).modCtx
theorem State.Sound.writeByteAt {plain part scope key : Nat} {uc : Bool} {v : Byte} (h : s.Sound) :
    (s.writeByteAt plain part scope key uc v).Sound := by
  have hs : ∀ c : Prop, ∀ [Decidable c], State.Sound (if c then s.toHome (key / 64) else s) :=
    fun _ _ => .ite h.toHome h
  exact .ite h ((hs _).of_canon (Memory.wf_put _ _ _ (hs _).1) rfl)
theorem State.Sound.writeAt {plain part scope key n v : Nat} {uc : Bool} (h : s.Sound) : (s.writeAt plain part scope uc key n v).Sound := by
  induction n generalizing s key v with
  | zero => exact h
  | succ n ih => exact ih h.writeByteAt

/-! Meters and traffic. -/
theorem State.Sound.meter {p i n : Nat} (h : s.Sound) : (s.meter p i n).Sound := h
theorem State.Sound.charge {core p nJ : Nat} (h : s.Sound) : (s.charge core p nJ).Sound := h
theorem State.Sound.meterBytes {plain part key n : Nat} (h : s.Sound) : (s.meterBytes plain part key n).Sound := .ite h (.ite h h)
theorem State.Sound.askOne {plain k res n : Nat} (h : s.Sound) : (s.askOne plain k res n).Sound := .ite h (.ite h h)
theorem State.Sound.ask {k plain part sc key n : Nat} {uc : Bool} (h : s.Sound) : (s.ask k plain part sc uc key n).Sound :=
  .ite h (h.foldl fun _ _ hb => .ite (.ite hb.askOne hb.askOne.askOne) (.ite hb.askOne (.ite hb.askOne.askOne.askOne hb.askOne.askOne.askOne.askOne)))
theorem State.Sound.askFor {k : Nat} {a : Access} (h : s.Sound) : (s.askFor k a).Sound := .ite h.meterBytes h.meterBytes.ask

/-! Accesses act and perform. -/
theorem State.Sound.fillNarrow {exact uc : Bool} {plain part sc key n : Nat} (h : s.Sound) : (s.fillNarrow exact plain part sc uc key n).Sound :=
  .ite h (h.foldl fun _ _ hb => hb.fillLine)
theorem State.Sound.fillL1 {core part key : Nat} (h : s.Sound) : (s.fillL1 core part key).Sound := h
theorem State.Sound.loadValue {core : Nat} {exact : Bool} {a : Access} (h : s.Sound) : (s.loadValue core exact a).2.Sound := by
  unfold State.loadValue
  dsimp only
  split
  · exact h
  · exact .ite h.touchHome.fillL1 h.touchHome
theorem State.Sound.act {k : Nat} {a : Access} (h : s.Sound) : (s.act k a).2.Sound := by
  unfold State.act
  dsimp only
  split
  · exact h
  · exact h.askFor.loadValue
  · exact h.askFor.loadValue
  · exact h.askFor.fillNarrow.modCore.writeAt.clearPoison.touchHome.noteNarrow
  · exact h.askFor.fillNarrow.modCore.writeAt.touchHome.noteNarrow
theorem State.Sound.perform {k : Nat} {a : Access} (h : s.Sound) : (s.perform k a).Sound := by
  unfold State.perform
  dsimp only
  split
  · exact h.act
  · exact .ite h.act h.act.writeNow
theorem State.Sound.settle {k q : Nat} (h : s.Sound) : (s.settle k q).Sound := by
  unfold State.settle
  split
  · exact h
  · exact h.act.modCtx
theorem State.Sound.settleFor {k : Nat} {older : List Access} {a : Access} (h : s.Sound) : (s.settleFor k older a).Sound :=
  h.foldl fun _ _ hb => hb.settle
theorem State.Sound.settleAll {k : Nat} (h : s.Sound) : (s.settleAll k).Sound := h.foldl fun _ _ hb => hb.settle
theorem State.Sound.performIdx {k i : Nat} (h : s.Sound) : (s.performIdx k i).Sound := by
  unfold State.performIdx
  split
  · exact h
  · exact h.settleFor.modCtx.perform
theorem State.Sound.performAll {k : Nat} (h : s.Sound) : (s.performAll k).Sound := h.foldl fun _ _ hb => hb.performIdx
theorem State.Sound.performLoads {k : Nat} (h : s.Sound) : (s.performLoads k).Sound := h.foldl fun _ _ hb => by
  split
  · exact hb.performIdx
  · exact hb

/-! Results land; traps and kills. -/
theorem State.Sound.resultBy {k v mask due : Nat} {l : Loc} {cls : Fin 5} {lock long : Bool} (h : s.Sound) :
    (s.resultBy k l v mask cls due lock long).Sound := .ite h (.ite h (State.Sound.modCtx (.ite h h)))
theorem State.Sound.result {k v mask L : Nat} {l : Loc} {cls : Fin 5} {lock long : Bool} (h : s.Sound) :
    (s.result k l v mask cls L lock long).Sound := h.resultBy
theorem State.Sound.landFlight {k i : Nat} (h : s.Sound) : (s.landFlight k i).Sound :=
  h.of_eq (s.landFlight_frame k i).1 (s.landFlight_frame k i).2.1
theorem State.Sound.landDue {k t : Nat} (h : s.Sound) : (s.landDue k t).Sound := h.foldl fun _ _ hb => .ite (by
  split
  · exact hb.landFlight
  · exact hb) hb
theorem State.Sound.landAllFlights {k : Nat} (h : s.Sound) : (s.landAllFlights k).Sound := h.foldl fun _ _ hb => hb.landFlight
theorem State.Sound.landAll {k : Nat} (h : s.Sound) : (s.landAll k).Sound :=
  .ite h.performLoads.landAllFlights.modCore h.performLoads.landAllFlights
theorem State.Sound.killNode {n state cause who : Nat} (h : s.Sound) : (s.killNode n state cause who).Sound :=
  State.Sound.foldl (s := s.modNode n _) h fun _ _ hb => hb
theorem State.Sound.killCtx {k cause : Nat} (h : s.Sound) : (s.killCtx k cause).Sound := .ite h h.modCtx.killNode
theorem State.Sound.postQ {k q : Nat} {e : Word} (h : s.Sound) : (s.postQ k q e).Sound := h
theorem State.Sound.postFlag {k n : Nat} {f : Fin 16} (h : s.Sound) : (s.postFlag k f n).Sound := h
theorem State.Sound.takeTrap {k cause : Nat} {val : Word} {mask : BitVec 8} {async : Bool} (h : s.Sound) :
    (s.takeTrap k cause val mask async).Sound :=
  .ite (State.Sound.killCtx (.ite h.landAll.postQ h.landAll)) h.landAll.setCtx
theorem State.Sound.rttArrive {k L : Nat} (h : s.Sound) : (s.rttArrive k L).Sound := h

/-! Rows, scores, links and status. -/
theorem State.Sound.beginRows {core t : Nat} (h : s.Sound) : (s.beginRows core t).Sound :=
  .ite h (State.Sound.modCore (h.foldl fun _ _ hb => hb.charge))
theorem State.Sound.chargeRows {core p n : Nat} (h : s.Sound) : (s.chargeRows core p n).Sound := .ite h h
theorem State.Sound.halve (h : s.Sound) : s.halve.Sound := .ite h h
theorem State.Sound.modUnit {u : Nat} {f : UnitSt → UnitSt} (h : s.Sound) : (s.modUnit u f).Sound := h
theorem State.Sound.modNode {n : Nat} {f : Node → Node} (h : s.Sound) : (s.modNode n f).Sound := h
theorem State.Sound.answer {a : Answer} (h : s.Sound) : (s.answer a).Sound := h
theorem State.Sound.addScore {u n : Nat} (h : s.Sound) : (s.addScore u n).Sound := h.halve.modUnit
theorem State.Sound.linkFlits {a b n : Nat} (h : s.Sound) : (s.linkFlits a b n).Sound := by
  unfold State.linkFlits
  split
  · exact h
  · exact h
theorem State.Sound.padFlits {k key n : Nat} (h : s.Sound) : (s.padFlits k key n).Sound := .ite h h.linkFlits.linkFlits
theorem State.Sound.rouse {k : Nat} (h : s.Sound) : (s.rouse k).Sound := h
theorem State.Sound.ready {k : Nat} (h : s.Sound) : (s.ready k).Sound := .ite h.modCtx.rouse h

end Sys2Proof.Machine

namespace Sys2Proof.Machine

/-! Results that may be refused. -/
/-- What a computation gives, if it gives anything, has a property. -/
def Res.All {ε α : Type} (P : α → Prop) (r : Except ε α) : Prop := match r with | .ok a => P a | .error _ => True
section
variable {ε α β : Type} {P : α → Prop} {Q : β → Prop}
theorem Res.All.ok {a : α} (h : P a) : Res.All P (.ok a : Except ε α) := h
theorem Res.All.of_ok {r : Except ε α} {a : α} (h : Res.All P r) (e : r = .ok a) : P a := by rw [e] at h; exact h
theorem Res.All.bind {r : Except ε α} {f : α → Except ε β} (hr : Res.All P r) (hf : ∀ a, P a → Res.All Q (f a)) : Res.All Q (r >>= f) := by
  cases r with
  | ok a => exact hf a hr
  | error e => trivial
/-- Whatever a read gives. -/
theorem Res.All.read {r : Except ε α} {f : α → Except ε β} (hf : ∀ a, Res.All Q (f a)) : Res.All Q (r >>= f) := by
  cases r with
  | ok a => exact hf a
  | error e => trivial
theorem Res.All.ite {c : Prop} [Decidable c] {r t : Except ε α} (hr : Res.All P r) (ht : Res.All P t) : Res.All P (if c then r else t) := by
  split
  · exact hr
  · exact ht
/-- Two ways to what goes on. -/
theorem Res.All.iteBind {c : Prop} [Decidable c] {r t : Except ε α} {f : α → Except ε β} (hr : Res.All P r) (ht : Res.All P t)
    (hf : ∀ a, P a → Res.All Q (f a)) : Res.All Q (if c then r >>= f else t >>= f) := .ite (hr.bind hf) (ht.bind hf)
end
/-- A sound state, or none. -/
abbrev Res.Sound (r : Res State) : Prop := Res.All State.Sound r

/-! The open bundle. -/
variable {s : State}
theorem State.Sound.modOpen {f : Open → Open} (h : s.Sound) (hf : ∀ o, (f o).saved = o.saved ∧ (f o).mem = o.mem) : (s.modOpen f).Sound :=
  h.mapOpened f rfl rfl hf
theorem State.Sound.raise {slot cause val : Nat} {unit : Option Nat} (h : s.Sound) : (s.raise slot cause val unit).Sound :=
  h.modOpen fun _ => ⟨rfl, rfl⟩
theorem State.Sound.holdSlot {slot : Nat} {block : Bool} {page : Option (Nat × Nat × Nat)} (h : s.Sound) : (s.holdSlot slot block page).Sound :=
  h.modOpen fun _ => ⟨rfl, rfl⟩
theorem State.Sound.stopSlot {slot : Nat} {e : Stop} (h : s.Sound) : (s.stopSlot slot e).Sound := by
  cases e with
  | trap c v => exact h.raise
  | poison v u => exact h.raise
  | block => exact h.holdSlot
  | stall => exact h.holdSlot
  | page p g l => exact h.holdSlot
theorem State.Sound.note {g b v : Nat} (h : s.Sound) : (s.note g b v).Sound := .ite (h.modOpen fun _ => ⟨rfl, rfl⟩) h
theorem State.Sound.slotDo {slot : Nat} {body : State → Res State} (h : s.Sound) (hb : Res.Sound (body s)) : (s.slotDo slot body).Sound := by
  unfold State.slotDo
  split
  · exact hb.of_ok ‹_›
  · exact h.stopSlot
theorem Res.All.noSeg {body : State → Res State} (hb : Res.Sound (body s)) : Res.Sound (s.noSeg body) := .ite trivial hb

/-! Writes of registers. -/
theorem State.Sound.wr {l : Option Loc} {v mask L : Nat} {cls : Fin 5} (h : s.Sound) : Res.Sound (s.wr l v mask cls L) := by
  cases l with
  | none => exact h
  | some l => exact .ite trivial h.result.note
theorem State.Sound.wrBy {l : Loc} {v mask due : Nat} {cls : Fin 5} (h : s.Sound) : Res.Sound (s.wrBy l v mask cls due) :=
  .ite trivial h.resultBy.note
theorem State.Sound.wrS {d : Dst} {v L : Nat} (h : s.Sound) : Res.Sound (s.wrS d v L) := h.wr
theorem State.Sound.wrP {p : Fin 8} {v mask L : Nat} {cls : Fin 5} (h : s.Sound) : Res.Sound (s.wrP p v mask cls L) := h.wr
theorem State.Sound.wrLock {l : Option Loc} {v mask L : Nat} {cls : Fin 5} {long : Bool} (h : s.Sound) :
    Res.Sound (s.wrLock l v mask cls L long) := by
  cases l with
  | none => exact h
  | some l => exact .ite trivial h.result.note

/-! Translation. -/
/-- A located access leaves a sound state. -/
def XRes.Sound (r : XRes) : Prop := match r with | .ok _ _ t => t.Sound | _ => True
theorem XRes.Sound.of_ok {r : XRes} {key : Nat} {uc : Bool} {t : State} (h : r.Sound) (e : r = .ok key uc t) : t.Sound := by
  rw [e] at h; exact h
theorem XRes.Sound.ite {c : Prop} [Decidable c] {r t : XRes} (hr : r.Sound) (ht : t.Sound) : XRes.Sound (if c then r else t) := by
  split
  · exact hr
  · exact ht
theorem State.Sound.putTlb {t : Tlb} {cap : Nat} (h : s.Sound) : (s.putTlb t cap).Sound := .ite h h
theorem State.Sound.useLeaf {core part va e pk base size : Nat} {m : AccMode} (h : s.Sound) :
    XRes.Sound (s.useLeaf core part va e pk base size m) := by
  have hb : ∀ bits, State.Sound (if e &&& bits = bits then s else (s.toHome (pk / 64)).modMem fun m => m.putN pk 8 (m.getN pk 8 ||| bits)) :=
    fun _ => .ite h h.toHome.putN
  have ht : ∀ bits (t : Tlb), State.Sound ((cachesOf core).foldl (fun s c => s.putTlb { t with cache := c.1 } c.2)
      (if e &&& bits = bits then s else (s.toHome (pk / 64)).modMem fun m => m.putN pk 8 (m.getN pk 8 ||| bits))) :=
    fun bits _ => (hb bits).foldl fun _ _ hb => hb.putTlb
  exact .ite trivial (.ite trivial (.ite trivial (.ite h (ht _ _))))
theorem State.Sound.translate {core part va : Nat} {m : AccMode} (h : s.Sound) : XRes.Sound (s.translate core part va m) := by
  unfold State.translate
  split
  · exact h.useLeaf
  · split
    · exact h.useLeaf
    · exact .ite trivial trivial
    · trivial
theorem State.Sound.locate {k a : Nat} {m : AccMode} (h : s.Sound) : XRes.Sound (s.locate k a m) := by
  refine .ite ?_ (.ite h.translate trivial)
  split
  · exact h
  · trivial

/-! Issue of accesses. -/
theorem State.Sound.logOwn {k : Nat} {cells : List (Nat × Nat)} (h : s.Sound) : Res.Sound (s.logOwn k cells) := by
  unfold State.logOwn
  split
  · exact h
  · exact .ite trivial (State.Sound.modCtx (h.foldl fun _ _ hb => hb.settleFor))
theorem State.Sound.queueAccess {k : Nat} {a : Access} (h : s.Sound) : (s.queueAccess k a).Sound := State.Sound.modCtx (.ite h.holdSlot h)
theorem State.Sound.queueDone {k v : Nat} {a : Access} (h : s.Sound) : (s.queueDone k a v).Sound := h.queueAccess
theorem State.Sound.loadsFirst {k : Nat} (h : s.Sound) : (s.loadsFirst k).Sound :=
  (h.modOpen (f := fun o => { o with acted := true }) fun _ => ⟨rfl, rfl⟩).foldl fun _ _ hb => .ite hb.settleFor.settle hb
theorem State.Sound.keepOld {key n : Nat} (h : s.Sound) : (s.keepOld key n).Sound := h.modOpen fun _ => ⟨rfl, rfl⟩
theorem State.Sound.ownFirst {k : Nat} {own : Bool} (h : s.Sound) : (s.ownFirst k own).Sound := .ite h.loadsFirst h
theorem State.Sound.settleOwn {k q : Nat} (h : s.Sound) : (s.settleOwn k q).Sound := h.foldl fun _ _ hb => .ite hb.settle hb
theorem State.Sound.atomsFirst {k : Nat} (h : s.Sound) : (s.atomsFirst k).Sound :=
  h.foldl fun _ _ hb => .ite hb.settleFor.keepOld.settle hb
theorem State.Sound.queueLoad {k : Nat} {a : Access} (h : s.Sound) : (s.queueLoad k a).Sound := by
  unfold State.queueLoad
  dsimp only
  exact .ite h.queueAccess h.queueAccess.settleFor.act.modCtx
theorem State.Sound.performBuf {k : Nat} (h : s.Sound) : (s.performBuf k).Sound := by
  unfold State.performBuf
  split
  · exact h
  · exact .ite (State.Sound.modCore (h.modCtx.foldl fun _ _ hb => State.Sound.perform (.ite hb.settleFor.keepOld hb.settleFor)))
      (h.modCtx.foldl fun _ _ hb => State.Sound.perform (.ite hb.settleFor.keepOld hb.settleFor))
theorem State.Sound.remoteStore {k : Nat} {a : Access} (h : s.Sound) : (s.remoteStore k a).Sound := by
  unfold State.remoteStore
  split
  · exact h.queueAccess
  · exact h.modCtx
theorem State.Sound.bufEntry {k : Nat} {elsewhere atom : Bool} (h : s.Sound) : Res.Sound (s.bufEntry k elsewhere atom) := by
  have hp : State.Sound (if elsewhere && atom then s.performBuf k else s) := .ite h.performBuf h
  unfold State.bufEntry
  dsimp only
  split
  · exact hp
  · exact .ite hp (.ite trivial hp.modCtx)
theorem State.Sound.remoteAtomic {k : Nat} {a : Access} (h : s.Sound) : (s.remoteAtomic k a).Sound :=
  .ite h.queueAccess h.queueAccess.loadsFirst.settleFor.keepOld.settle
theorem State.Sound.ownAccess {k : Nat} {a : Access} (h : s.Sound) : (s.ownAccess k a).Sound := by
  refine .ite (.ite h.queueLoad h.queueAccess) ?_
  split
  · exact h.queueDone
  · exact h.queueDone
  · exact h.putN.clearPoison.queueDone
  · exact h.atomsFirst.putN.queueDone
  · exact h
theorem State.Sound.scalarAccess {addr : Nat} {a : Access} (h : s.Sound) : Res.Sound (s.scalarAccess addr a) := by
  unfold State.scalarAccess
  refine .ite trivial ?_
  split
  · trivial
  · trivial
  · next key uc t e =>
    have ht : t.Sound := h.locate.of_ok e
    have hn : ∀ (c : Prop) [Decidable c], State.Sound (if c then t.note 5 8 addr else t.note 4 8 addr) := fun _ _ => .ite ht.note ht.note
    have hm : ∀ (c : Prop) [Decidable c], State.Sound (if c then (if c then t.note 5 8 addr else t.note 4 8 addr)
        else (if c then t.note 5 8 addr else t.note 4 8 addr).note 4 a.n a.val) := fun _ _ => .ite (hn _) (hn _).note
    refine .ite trivial (.ite trivial (.ite trivial (.ite trivial (.ite (.ite (hm _).ownAccess ?_) (.ite (hm _).queueLoad ?_)))))
    · exact (hm _).logOwn.bind fun _ hb => hb.ownFirst.ownAccess
    · exact (hm _).bufEntry.bind fun _ hb => State.Sound.ite hb.remoteAtomic hb.remoteStore

/-! Vector and series accesses. -/
theorem State.Sound.vload {u : VUnit} {d : Dst} {mask : Nat} {addr : Nat → Nat} (h : s.Sound) : Res.Sound (s.vload u d mask addr) := by
  refine .read fun keys => ?_
  split
  · exact State.Sound.foldl h fun _ _ hb => hb.note
  · exact .ite trivial (State.Sound.foldl h fun _ _ hb => .ite hb.note.ownAccess hb.note.queueLoad)
theorem State.Sound.vstore {mask : Nat} {addr data : Nat → Nat} (h : s.Sound) : Res.Sound (s.vstore mask addr data) :=
  .read fun _ => Res.All.iteBind (.ok h) h.logOwn fun _ hb => hb.bufEntry.bind fun _ hc =>
    hc.ownFirst.foldl fun _ _ hb => .ite hb.note.note.ownAccess hb.note.note.remoteStore
theorem State.Sound.vatomic {u : VUnit} {d : Dst} {mask : Nat} {addr data : Nat → Nat} {op : AtomOp} (h : s.Sound) :
    Res.Sound (s.vatomic u d mask addr data op) := by
  refine .read fun keys => ?_
  split
  · trivial
  · exact .ite trivial (Res.All.iteBind (.ok h) h.logOwn fun _ hb => hb.bufEntry.bind fun _ hc =>
      hc.ownFirst.foldl fun _ _ hb => .ite hb.note.note.ownAccess hb.note.note.remoteAtomic)
theorem State.Sound.xload {d : Fin 16} {a : Nat} (h : s.Sound) : Res.Sound (s.xload d a) := by
  refine .ite trivial (.read fun keys => ?_)
  dsimp only
  split
  · trivial
  · exact .ite trivial (State.Sound.ite h.note.ownAccess (h.note.foldl fun _ _ hb => .ite hb.ownAccess hb.queueLoad))
theorem State.Sound.xstore {v a : Nat} (h : s.Sound) : Res.Sound (s.xstore v a) :=
  .ite trivial (.read fun _ => Res.All.iteBind (.ok h) h.logOwn fun _ hb => hb.bufEntry.bind fun _ hc =>
    hc.note.note.ownFirst.foldl fun _ _ hb => .ite hb.ownAccess hb.remoteStore)

/-! Nodes, capacity and fences. -/
theorem State.Sound.finishOp {op : SysOp} {outcome : Nat} (h : s.Sound) : (s.finishOp op outcome).Sound := by
  unfold State.finishOp
  dsimp only
  split
  · exact h
  · exact h.postQ.postFlag
theorem State.Sound.postCapacity {core reason : Nat} (h : s.Sound) : (s.postCapacity core reason).Sound := h.foldl fun _ _ hb => by
  dsimp only
  split
  · exact hb.modPart
  · exact hb.modPart.postQ
theorem State.Sound.leaveGovernors {k : Nat} (h : s.Sound) : (s.leaveGovernors k).Sound := h
theorem State.Sound.freeCtx {k : Nat} {discard : Bool} (h : s.Sound) : (s.freeCtx k discard).Sound :=
  h.performAll.flushStores.leaveGovernors.modPart.modCtx.modCore
theorem State.Sound.writeStatus {key state cause who : Nat} {uc : Bool} (h : s.Sound) : (s.writeStatus key uc state cause who).Sound := h.writeAt
theorem State.Sound.abortNode {n : Nat} (h : s.Sound) : (s.abortNode n).Sound :=
  h.killNode.foldl fun _ _ hb => .ite hb.modCtx.takeTrap hb
theorem State.Sound.endNode {n : Nat} (h : s.Sound) : (s.endNode n).Sound :=
  .ite h.writeStatus.postFlag.modNode h.writeStatus.postFlag.modNode.answer
theorem State.Sound.latchRates (h : s.Sound) : s.latchRates.Sound := by
  unfold State.latchRates
  exact h.of_eq rfl rfl
/-- A list of asynchronous forms ends. -/
theorem State.Sound.finishOps {l : List SysOp} {outcome : Nat} (h : s.Sound) : (l.foldl (fun s o => s.finishOp o outcome) s).Sound :=
  h.foldl fun _ _ hb => hb.finishOp
theorem State.Sound.endLease {u outcome : Nat} (h : s.Sound) : (s.endLease u outcome).Sound :=
  State.Sound.modUnit (.ite (h.finishOps.of_eq rfl rfl) (h.finishOps.of_eq rfl rfl))
theorem State.Sound.setViews {x : Nat} {f : View → View} (h : s.Sound) : (s.setViews x f).Sound := h.foldl fun _ _ hb => by
  split
  · exact hb
  · exact hb.modCore
theorem State.Sound.dropFlits {x : Nat} (h : s.Sound) : (s.dropFlits x).Sound :=
  State.Sound.foldl (h.foldl fun _ _ hb => .ite hb (.ite hb hb)) fun _ _ hb =>
    State.Sound.foldl (hb.foldl fun _ _ hc => .ite hc (.ite hc hc)) fun _ _ hc => .ite hc hc
theorem State.Sound.fenceBase {x : Nat} (h : s.Sound) : (s.fenceBase x).Sound := by
  refine .ite h (State.Sound.postCapacity (State.Sound.setViews (.ite (State.Sound.endLease ?_) ?_)))
  · exact (h.modCore.dropFlits.foldl fun _ _ hb => hb.modCtx).foldl fun _ _ hb => .ite hb hb.killNode
  · exact (h.modCore.dropFlits.foldl fun _ _ hb => hb.modCtx).foldl fun _ _ hb => .ite hb hb.killNode
theorem State.Sound.retireUnit {u reason leaseOut : Nat} {op : SysOp} (h : s.Sound) : (s.retireUnit u reason op leaseOut).Sound := by
  unfold State.retireUnit
  refine .ite h ?_
  extract_lets core s1 s2 s3 s4 mine s5 s6
  have h1 : s1.Sound := .ite h.fenceBase h
  have h2 : s2.Sound := .ite h1.endLease h1
  have h3 : s3.Sound := h2.latchRates.modUnit
  have h4 : s4.Sound := .ite h3.setViews.postCapacity h3
  have h5 : s5.Sound := h4.finishOps
  exact h5.of_eq rfl rfl
theorem State.Sound.settleScores (h : s.Sound) : s.settleScores.Sound := h.foldl fun _ _ hb => hb.retireUnit
theorem State.Sound.fenceCore {x : Nat} (h : s.Sound) : (s.fenceCore x).Sound := .ite h (.ite h.fenceBase.retireUnit h.fenceBase)
theorem State.Sound.takeBank {core part b : Nat} (h : s.Sound) : (s.takeBank core part b).Sound := State.Sound.modCore (.ite h h.zero)
theorem State.Sound.takeBanks {core part : Nat} {mask : BitVec 24} (h : s.Sound) : (s.takeBanks core part mask).Sound :=
  h.foldl fun _ _ hb => hb.takeBank
theorem State.Sound.mirror {k : Nat} (h : s.Sound) : (s.mirror k).Sound := .ite h h

end Sys2Proof.Machine

namespace Sys2Proof.Machine

/-! Bundles: what they go back to is canonical. -/
/-- The memories that an open bundle holds are canonical. -/
def Open.Sound (o : Open) : Prop := o.saved.mem.wf = true ∧ o.mem.wf = true
section
variable {s : State}
theorem State.Sound.openOf {o : Open} (h : s.Sound) (e : s.opened = some o) : o.Sound := h.2 o e
/-- With no bundle open, the memory alone counts. -/
theorem State.Sound.closed {t : State} (hm : t.mem.wf = true) (ho : t.opened = none) : t.Sound := by
  refine ⟨hm, fun o e => ?_⟩
  rw [ho] at e
  cases e
theorem State.Sound.revert {o : Open} (h : o.Sound) : (s.revert o.saved).Sound := .closed h.1 rfl

/-! Fetch. -/
/-- A fetched bundle leaves a sound state. -/
def Fetched.Sound (r : Fetched) : Prop := match r with | .ok _ t => t.Sound | _ => True
theorem Fetched.Sound.of_ok {r : Fetched} {b : Nat} {t : State} (h : r.Sound) (e : r = .ok b t) : t.Sound := by
  rw [e] at h; exact h
theorem Fetched.Sound.ite {c : Prop} [Decidable c] {r t : Fetched} (hr : r.Sound) (ht : t.Sound) : Fetched.Sound (if c then r else t) := by
  split
  · exact hr
  · exact ht
theorem State.Sound.fetchAt {k pc : Nat} (h : s.Sound) : Fetched.Sound (s.fetchAt k pc) := by
  unfold State.fetchAt
  dsimp only
  split
  · exact h
  · refine .ite trivial ?_
    split
    · trivial
    · split
      · exact .ite trivial trivial
      · trivial
    · next e => exact .ite trivial (h.locate.of_ok e).modCore
theorem State.Sound.keepBody {k pc b : Nat} (h : s.Sound) : (s.keepBody k pc b).Sound := .ite h h
theorem State.Sound.fetch {k : Nat} (h : s.Sound) : Fetched.Sound (s.fetch k) := by
  unfold State.fetch
  dsimp only
  split
  · exact h
  · split
    · next e => exact State.Sound.keepBody (h.fetchAt.of_ok e)
    · exact h.fetchAt
theorem State.Sound.fetchBody {k pc n : Nat} {outer : List Level} (h : s.Sound) : (s.fetchBody k outer pc n).2.Sound := by
  induction n generalizing s pc with
  | zero => exact h
  | succ n ih =>
    have hf : Fetched.Sound (match bodyAt outer pc with | some b => .ok b s | none => s.fetchAt k pc) := by
      split
      · exact h
      · exact h.fetchAt
    unfold State.fetchBody
    split
    · next e => exact ih (hf.of_ok e)
    · exact h
theorem State.Sound.refetch {k : Nat} {l : List Level} (h : s.Sound) : (s.refetch k l).2.Sound := by
  induction l with
  | nil => exact h
  | cons l r ih =>
    unfold State.refetch
    exact ih.fetchBody

/-! Host writes. -/
/-- What goes on in a sound state, beside what it gives. -/
abbrev Walked {ε α : Type} (r : Except ε (α × State)) : Prop := Res.All (fun x => x.2.Sound) r
theorem State.Sound.hostRuns {core part va n fuel : Nat} {m : AccMode} (h : s.Sound) : Walked (s.hostRuns core part va n m fuel) := by
  induction fuel generalizing s va n with
  | zero => exact h
  | succ fuel ih =>
    unfold State.hostRuns
    refine .ite h (.ite trivial ?_)
    dsimp only
    split
    · next e =>
      have ht := ih (va := va + min n (65536 - va % 65536)) (n := n - min n (65536 - va % 65536)) (h.translate.of_ok e)
      split
      · next e =>
        have hr := ht.of_ok e
        exact hr
      · trivial
    · trivial
theorem State.Sound.writeRuns {plain part : Nat} {r : List (Nat × Nat × Bool)} {l : List Byte} (h : s.Sound) : (s.writeRuns plain part r l).Sound := by
  induction r generalizing s l with
  | nil => exact h
  | cons x r ih => exact ih h.writeAt.clearPoison.touchHome
theorem State.Sound.applyWrites {core part : Nat} {bad : Option Nat} {l : List HostWrite} (h : s.Sound) : (s.applyWrites core part bad l).1.Sound := by
  induction l generalizing s bad with
  | nil => exact h
  | cons w r ih =>
    have hr := h.hostRuns (core := core) (part := part) (va := w.addr) (n := w.data.length) (m := .write) (fuel := w.data.length / 65536 + 2)
    unfold State.applyWrites
    split
    · next e => exact ih (State.Sound.writeRuns (hr.of_ok e))
    · exact ih h.modPart
theorem State.Sound.applyHost {k : Nat} (h : s.Sound) : (s.applyHost k).Sound := by
  unfold State.applyHost
  dsimp only
  split
  · exact h.applyWrites.modPart
  · exact h.applyWrites.modPart.postQ

/-! A bundle opens. -/
theorem State.Sound.openBundle {k : Nat} {hdr lit : BitVec 32} {words : List (BitVec 32)} (h : s.Sound) : (s.openBundle k hdr lit words).Sound := by
  unfold State.openBundle
  extract_lets saved s1 pops o s2 c s3
  have h1 : s1.Sound := .ite h.applyHost h
  have h2 : s2.Sound := ⟨h1.1, fun p e => by cases e; exact ⟨h.1, h1.1⟩⟩
  have h3 : s3.Sound := .ite h2.holdSlot h2
  exact .ite h3.raise h3

/-! A bundle ends. -/
theorem State.Sound.stepCore {core : Nat} (h : s.Sound) : (s.stepCore core).Sound := h
theorem State.Sound.leaveCore {k : Nat} (h : s.Sound) : (s.leaveCore k).Sound := h
theorem State.Sound.openSeg {k : Nat} {mask : BitVec 8} (h : s.Sound) : (s.openSeg k mask).Sound := h.performBuf.setCtx
theorem State.Sound.closeSeg {k : Nat} (h : s.Sound) : (s.closeSeg k).Sound := h.performBuf.modCtx
theorem State.Sound.block {k : Nat} {mask : BitVec 8} {ridge rdv : Bool} (h : s.Sound) : (s.block k mask ridge rdv).Sound :=
  State.Sound.leaveCore (.ite h.modCtx.performBuf.modCtx h.modCtx)
theorem State.Sound.postPull {p page : Nat} (h : s.Sound) : (s.postPull p page).Sound := h
theorem State.Sound.askPage {p page leaf : Nat} (h : s.Sound) : (s.askPage p page leaf).Sound := .ite h h.modPart.postPull
theorem State.Sound.stall {k nest : Nat} {pages : List (Nat × Nat × Nat)} (h : s.Sound) : (s.stall k nest pages).Sound := by
  have hc : ∀ (c : Prop) [Decidable c] (f : Ctx → Ctx), State.Sound (if c then s else s.modCtx k f) := fun _ _ _ => .ite h h
  exact State.Sound.stepCore ((hc _ _).foldl fun _ _ hb => hb.askPage.modCtx)
theorem State.Sound.trapBundle {k : Nat} {all : List Raise} {r : Raise} {mask : BitVec 8} (h : s.Sound) : (s.trapBundle k all r mask).Sound := by
  unfold State.trapBundle
  extract_lets s1 s2
  have h1 : s1.Sound := h.foldl fun _ _ hb => by
    split
    · exact hb.addScore
    · exact hb
  have h2 : s2.Sound := .ite h1 h1.takeTrap
  exact h2.settleScores.stepCore
theorem State.Sound.setDiv {core d t : Nat} {cls : Fin 5} (h : s.Sound) : (s.setDiv core cls d t).Sound :=
  State.Sound.modCore (h.foldl fun _ _ hb => hb.modCtx)
theorem State.Sound.applyClk {core : Nat} (h : s.Sound) : (s.applyClk core).Sound := by
  unfold State.applyClk
  split
  · exact h.setDiv.modCore
  · exact h
theorem State.Sound.haltCtx {k code : Nat} (h : s.Sound) : (s.haltCtx k code).Sound := h
theorem State.Sound.park {k : Nat} {b : Bool} (h : s.Sound) : (s.park k b).Sound := .ite h.landAll.modPart h
theorem State.Sound.commit {o : Open} (h : s.Sound) : (s.commit o).Sound := by
  unfold State.commit
  extract_lets k core pre c q g regs dat
  split
  extract_lets s1 s2 s3 s4 s5 s6 s7 s8
  have h2 : s2.Sound := .closed h.1 rfl
  have h4 : s4.Sound := .ite h2 (h2.rttArrive.modCtx.refetch.modCtx)
  have h6 : s6.Sound := h4.charge.stepCore
  have h7 : s7.Sound := by
    unfold s7
    split
    · exact h6.modCore
    · exact h6
  have h8 : s8.Sound := by
    unfold s8
    split
    · exact h7.openSeg
    · exact h7
  exact .ite h8.closeSeg.modCtx (.ite h8.modCtx.leaveCore (.ite h8.modCtx.leaveCore h8))
theorem State.Sound.finish {o : Open} (h : s.Sound) (ho : o.Sound) : (s.finish o).Sound := by
  unfold State.finish
  split
  · exact h.commit
  · exact State.Sound.block (.revert ho)
  · exact State.Sound.park (State.Sound.stall (.revert ho))
  · exact State.Sound.trapBundle (.revert ho)
  · exact State.Sound.haltCtx (.revert ho)
theorem State.Sound.mismatch {o : Open} (ho : o.Sound) : (s.mismatch o).Sound := by
  have h : ((s.revert o.saved).addScore (coreUnit (coreOf o.ctx)) 64).Sound := State.Sound.addScore (.revert ho)
  exact State.Sound.stepCore (State.Sound.settleScores (.ite h.addScore.modCtx h.addScore.killCtx))
theorem State.Sound.close {sigBad : Bool} (h : s.Sound) : (s.close sigBad).Sound := by
  unfold State.close
  split
  · exact h
  · next e => exact .ite (.mismatch (h.openOf e)) (h.finish (h.openOf e))
end

/-! Events and outcomes. -/
/-- An event's state, if it has an effect, is sound. -/
def Opt.Sound (o : Option State) : Prop := match o with | some t => t.Sound | none => True
theorem Opt.Sound.of_some {o : Option State} {t : State} (h : Opt.Sound o) (e : o = some t) : t.Sound := by rw [e] at h; exact h
theorem Opt.Sound.read {α : Type} {o : Option α} {f : α → Option State} (hf : ∀ a, Opt.Sound (f a)) : Opt.Sound (o >>= f) := by
  cases o with
  | some a => exact hf a
  | none => trivial
theorem Opt.Sound.ite {c : Prop} [Decidable c] {o p : Option State} (ho : Opt.Sound o) (hp : Opt.Sound p) : Opt.Sound (if c then o else p) := by
  split
  · exact ho
  · exact hp
theorem Opt.Sound.map {o : Option State} {f : State → State} (ho : Opt.Sound o) (hf : ∀ t : State, t.Sound → (f t).Sound) : Opt.Sound (o.map f) := by
  cases o with
  | some t => exact hf t ho
  | none => trivial
/-- The next state, if there is one, is sound. -/
def Out.Sound (r : Out) : Prop := match r with | .next t => t.Sound | _ => True
theorem Out.Sound.of_next {r : Out} {t : State} (h : Out.Sound r) (e : r = .next t) : t.Sound := by rw [e] at h; exact h
section
variable {s : State} (h : s.Sound)
include h
theorem State.Sound.inBundle {f : State → State} (hf : ∀ t : State, t.Sound → (f t).Sound) : Out.Sound (s.inBundle f) := by
  unfold State.inBundle
  split
  · exact hf s h
  · exact (hf _ h.openBundle).close
theorem State.Sound.runSlot {i : Nat} {g : Guard} {body : State → Res State} (hb : ∀ t : State, t.Sound → Res.Sound (body t)) :
    Out.Sound (runSlot i g s body) := h.inBundle fun t ht => .ite (ht.slotDo (hb t ht)) ht
theorem State.Sound.runLanes {u : VUnit} {g : Guard} {body : State → Nat → Res State} (hb : ∀ (t : State) m, t.Sound → Res.Sound (body t m)) :
    Out.Sound (runLanes u g s body) := h.inBundle fun t ht => .ite ht (ht.slotDo (hb t _ ht))
theorem State.Sound.occur {f : State → Option State} (hf : Opt.Sound (f s)) : Out.Sound (occur s f) := by
  rcases occur_cases s f with e | ⟨t, -, ht, e⟩
  · rw [e]
    exact h
  · rw [e]
    rw [ht] at hf
    exact hf
end

end Sys2Proof.Machine

namespace Sys2Proof.Machine
variable {s : State}

/-! The flow slot. -/
theorem State.Sound.jumpTo {t : Word} {rtt : Nat} (h : s.Sound) : (s.jumpTo t rtt).Sound := h.modOpen fun _ => ⟨rfl, rfl⟩
theorem State.Sound.modMe {f : Ctx → Ctx} (h : s.Sound) : (s.modMe f).Sound := h
theorem State.Sound.setW {n : Fin 4} {v : Word} (h : s.Sound) : (s.setW n v).Sound := h.modMe.note
theorem State.Sound.setP {p : Fin 8} {v : Nat} (h : s.Sound) : (s.setP p v).Sound := h.writeNow.note
theorem State.Sound.drainTo {sc : Nat} (h : s.Sound) : (s.drainTo sc).Sound := .ite h.flushStores h
section
variable (h : s.Sound)
include h
theorem State.Sound.execNopF : Out.Sound (execNopF s) := h.inBundle fun _ ht => ht
theorem State.Sound.execPrep (x : FPrep) : Out.Sound (execPrep x s) := h.runSlot fun _ ht => ht.setW
theorem State.Sound.execPrepm (x : FPrepM) : Out.Sound (execPrepm x s) := h.runSlot fun _ ht => .read fun _ => ht.setW
theorem State.Sound.execBt (x : FBt) : Out.Sound (execBt x s) := h.runSlot fun _ ht => State.Sound.ite ht.jumpTo ht
theorem State.Sound.execJ (x : FJump) : Out.Sound (execJ x s) := h.runSlot fun _ ht => ht.jumpTo
theorem State.Sound.execCall (x : FTgt) : Out.Sound (execCall x s) := h.runSlot fun _ ht => ht.modMe.note.jumpTo
theorem State.Sound.execRet (x : FNone) : Out.Sound (execRet x s) := h.runSlot fun _ ht => ht.jumpTo
theorem State.Sound.execLoop (x : FLoop) : Out.Sound (execLoop x s) := h.runSlot fun _ ht => by
  dsimp only
  exact .ite trivial (.ite (ht.modOpen fun _ => ⟨rfl, rfl⟩) ht.fetchBody.modMe)
theorem State.Sound.execSetlc (x : FCountLc) : Out.Sound (execSetlc x s) := h.runSlot fun _ ht => ht.modMe.note
theorem State.Sound.execSpl (x : FSpl) : Out.Sound (execSpl x s) := h.runSlot fun _ ht => ht.modMe
theorem State.Sound.execWait (x : FCountF) : Out.Sound (execWait x s) := h.runSlot fun _ ht => .ite trivial (.noSeg ht.modMe)
theorem State.Sound.execPost (x : FCountF) : Out.Sound (execPost x s) := h.runSlot fun _ ht => ht.postFlag
theorem State.Sound.execPostr (x : FPostr) : Out.Sound (execPostr x s) := h.runSlot fun _ ht => .noSeg (by
  split
  · trivial
  · exact ht)
theorem State.Sound.execTlw (x : FTlw) : Out.Sound (execTlw x s) := h.runSlot fun _ ht => .ite trivial (by
  split
  · trivial
  · exact .ite trivial ht)
theorem State.Sound.execBbset (x : FCountBb) : Out.Sound (execBbset x s) := h.runSlot fun _ ht => ht.modMe.note
theorem State.Sound.execBbwait (x : FBb) : Out.Sound (execBbwait x s) := h.runSlot fun _ ht => .ite ht trivial
theorem State.Sound.execRidge (x : FNone) : Out.Sound (execRidge x s) := h.runSlot fun _ ht => by
  dsimp only
  split
  · trivial
  · refine .ite ?_ (ht.holdSlot.modOpen fun _ => ⟨rfl, rfl⟩)
    split
    · exact ht.modMe.modOpen fun _ => ⟨rfl, rfl⟩
    · exact ht.modMe
theorem State.Sound.execSeg (x : FSeg) : Out.Sound (execSeg x s) := h.runSlot fun _ ht => ht.modOpen fun _ => ⟨rfl, rfl⟩
theorem State.Sound.execRdv (x : FNone) : Out.Sound (execRdv x s) := h.runSlot fun _ ht =>
  .ite (ht.modMe.modOpen fun _ => ⟨rfl, rfl⟩) (ht.holdSlot.modOpen fun _ => ⟨rfl, rfl⟩)
theorem State.Sound.execTrap (x : FImm) : Out.Sound (execTrap x s) := h.runSlot fun _ _ => trivial
theorem State.Sound.execRtt (x : FNone) : Out.Sound (execRtt x s) := h.runSlot fun _ ht => .ite trivial ht.jumpTo
theorem State.Sound.execEndF (x : FNone) : Out.Sound (execEndF x s) := h.runSlot fun _ ht => by
  split
  · trivial
  · exact .ite (ht.modOpen fun _ => ⟨rfl, rfl⟩) trivial
theorem State.Sound.execYield (x : FNone) : Out.Sound (execYield x s) := h.runSlot fun _ ht => ht.modOpen fun _ => ⟨rfl, rfl⟩
theorem State.Sound.execDrain (x : FScope) : Out.Sound (execDrain x s) := h.runSlot fun _ ht => .ite trivial ht.drainTo
theorem State.Sound.execDrainE (x : FScope) : Out.Sound (execDrainE x s) := h.runSlot fun _ ht => by
  split
  · trivial
  · exact .ite trivial ht.drainTo
theorem State.Sound.execClkdiv (x : FClk) : Out.Sound (execClkdiv x s) := h.runSlot fun _ ht =>
  .ite trivial (.ite ht.modMe (ht.modOpen fun _ => ⟨rfl, rfl⟩))
theorem State.Sound.execSend (x : FSendS) : Out.Sound (execSend x s) := h.runSlot fun _ ht => .noSeg (by
  split
  · trivial
  · exact .read fun _ => .ite trivial ht)
theorem State.Sound.execGetmF (x : FGetm) : Out.Sound (execGetmF x s) := h.runSlot fun _ ht => .read fun _ => by
  dsimp only
  split
  · exact ht.modMe.note
  · exact ht.modMe.note
  · exact ht.modMe
  · exact ht.modMe.note
theorem State.Sound.execEpi (x : FEpi) : Out.Sound (execEpi x s) := h.runSlot fun _ ht =>
  State.Sound.ite ht.modMe.note.writeNow.note.setP ht.setP
theorem State.Sound.execWdog (x : FPred) : Out.Sound (execWdog x s) := h.runSlot fun _ ht => ht.setP.modMe
theorem State.Sound.execHbeat (x : FPred) : Out.Sound (execHbeat x s) := h.runSlot fun _ ht => ht.setP
theorem State.Sound.execCapq (x : FCapq) : Out.Sound (execCapq x s) := h.runSlot fun _ ht => ht.setP
theorem State.Sound.execPitchq (x : FPitchq) : Out.Sound (execPitchq x s) := h.runSlot fun _ ht => ht.setP
theorem State.Sound.execSleep (x : FImm) : Out.Sound (execSleep x s) := h.runSlot fun _ ht => ht.modOpen fun _ => ⟨rfl, rfl⟩
theorem State.Sound.execBrk (x : FImm) : Out.Sound (execBrk x s) := h.runSlot fun _ ht => .ite (ht.modOpen fun _ => ⟨rfl, rfl⟩) trivial
end

/-! The scalar slot. -/
theorem State.Sound.setSticky {b : Nat} (h : s.Sound) : (s.setSticky b).Sound := h
theorem State.Sound.fpOut {d : Dst} {f : Bool} {v : FVal} {r : Rnd} {fl : FFlags → FFlags} {L : Nat} (h : s.Sound) :
    Res.Sound (s.fpOut d f v r fl L) := h.setSticky.wrS
theorem State.Sound.xferLanes {u : VUnit} {i v : Nat} {all : Bool} {cls : Fin 5} (h : s.Sound) : Res.Sound (s.xferLanes u i all v cls) :=
  .ite h.wr h.wr
section
variable (h : s.Sound)
include h
theorem State.Sound.execScalarNop : Out.Sound (execScalarNop s) := h.inBundle fun _ ht => ht
theorem State.Sound.alu2 (x : SAlu) (L : Nat) (f : Nat → Nat → Nat → Nat) : Out.Sound (alu2 x L f s) :=
  h.runSlot fun _ ht => .read fun _ => .read fun _ => ht.wrS
theorem State.Sound.alu3 (x : SAlu) (f : Nat → Nat → Nat → Nat → Nat) : Out.Sound (alu3 x f s) :=
  h.runSlot fun _ ht => .read fun _ => .read fun _ => .read fun _ => ht.wrS
theorem State.Sound.alu1 (x : SUn) (f : Nat → Nat → Nat) : Out.Sound (alu1 x f s) := h.runSlot fun _ ht => .read fun _ => ht.wrS
theorem State.Sound.aluDiv (x : SAlu) (f : Nat → Nat → Nat → Nat) (zero : Nat → Nat) : Out.Sound (aluDiv x f zero s) :=
  h.runSlot fun _ ht => .read fun _ => .read fun _ => .ite (.ite trivial ht.setSticky.wrS) ht.wrS
theorem State.Sound.execBfi (x : SAlu) : Out.Sound (execBfi x s) :=
  h.runSlot fun _ ht => .read fun _ => .read fun _ => .read fun _ => ht.wrS
theorem State.Sound.execSel (x : SSel) : Out.Sound (execSel x s) := h.runSlot fun _ ht => .read fun _ => .read fun _ => ht.wrS
theorem State.Sound.execAddi (x : SImm) : Out.Sound (execAddi x s) := h.runSlot fun _ ht => .read fun _ => ht.wrS
theorem State.Sound.execMovi (x : SImm) : Out.Sound (execMovi x s) := h.runSlot fun _ ht => ht.wrS
theorem State.Sound.execMovhi (x : SImm) : Out.Sound (execMovhi x s) := h.runSlot fun _ ht => .read fun _ => ht.wrS
theorem State.Sound.execLdl (x : SImm) : Out.Sound (execLdl x s) := h.runSlot fun _ ht => ht.wrS
theorem State.Sound.cmp2 (x : SCmp) (cond : Nat) : Out.Sound (cmp2 x cond s) := h.runSlot fun _ ht => .read fun _ => .read fun _ => ht.wrP
theorem State.Sound.execCmpi (x : SCmpi) : Out.Sound (execCmpi x s) := h.runSlot fun _ ht => .read fun _ => ht.wrP
theorem State.Sound.pred2 (x : SPred3) (f : Nat → Nat → Nat) : Out.Sound (pred2 x f s) := h.runSlot fun _ ht => ht.wrP
theorem State.Sound.execPnot (x : SPred2) : Out.Sound (execPnot x s) := h.runSlot fun _ ht => ht.wrP
theorem State.Sound.execPmov (x : SPred2) : Out.Sound (execPmov x s) := h.runSlot fun _ ht => ht.wrP
theorem State.Sound.execFadd (x : SFlt3) : Out.Sound (execFadd x s) := h.runSlot fun _ ht => .read fun _ => .read fun _ => ht.fpOut
theorem State.Sound.execFsub (x : SFlt3) : Out.Sound (execFsub x s) := h.runSlot fun _ ht => .read fun _ => .read fun _ => ht.fpOut
theorem State.Sound.execFmul (x : SFlt3) : Out.Sound (execFmul x s) := h.runSlot fun _ ht => .read fun _ => .read fun _ => ht.fpOut
theorem State.Sound.execFma (x : SFlt3) : Out.Sound (execFma x s) :=
  h.runSlot fun _ ht => .read fun _ => .read fun _ => .read fun _ => ht.fpOut
theorem State.Sound.execFdiv (x : SFlt3) : Out.Sound (execFdiv x s) := h.runSlot fun _ ht => .read fun _ => .read fun _ => ht.fpOut
theorem State.Sound.execFsqrt (x : SFlt2) : Out.Sound (execFsqrt x s) := h.runSlot fun _ ht => .read fun _ => ht.fpOut
theorem State.Sound.execFcvt (x : SFcvt) : Out.Sound (execFcvt x s) := h.runSlot fun _ ht => .read fun _ => ht.setSticky.wrS
theorem State.Sound.execFcmp (x : SFcmp) : Out.Sound (execFcmp x s) := h.runSlot fun _ ht => .read fun _ => .read fun _ => ht.setSticky.wrP
theorem State.Sound.fminmax (x : SFmin) (f : FVal → FVal → FVal) : Out.Sound (fminmax x f s) :=
  h.runSlot fun _ ht => .read fun _ => .read fun _ => ht.setSticky.wrS
theorem State.Sound.loadOp (x : SMem) (kind : AccKind) : Out.Sound (loadOp x kind s) :=
  h.runSlot fun _ ht => .read fun _ => .read fun _ => ht.scalarAccess
theorem State.Sound.execSt (x : SMem) : Out.Sound (execSt x s) :=
  h.runSlot fun _ ht => .read fun _ => .read fun _ => .read fun _ => ht.scalarAccess
theorem State.Sound.execInvl (x : SInv) : Out.Sound (execInvl x s) :=
  h.runSlot fun _ ht => .read fun _ => .read fun _ => .ite ht.modCore ht.modCore
theorem State.Sound.execFll1 (x : SNone) : Out.Sound (execFll1 x s) := h.runSlot fun _ ht => .ite trivial ht.modCore
theorem State.Sound.atomicOp (g : Guard) (d : Dst) (a b : Src) (w : Bool) (op : AtomOp) : Out.Sound (atomicOp g d a b w op s) :=
  h.runSlot fun _ ht => .read fun _ => .read fun _ => .ite (.read fun _ => ht.scalarAccess) (.read fun _ => ht.scalarAccess)
theorem State.Sound.execScalarGetm (x : SGetm) : Out.Sound (execScalarGetm x s) := h.runSlot fun _ ht => .read fun _ => ht.wrS
theorem State.Sound.execScalarPutm (x : SPutm) : Out.Sound (execScalarPutm x s) := h.runSlot fun _ ht => .read fun _ => ht.wr
theorem State.Sound.execScalarXfer (x : SXfer) : Out.Sound (execScalarXfer x s) := h.runSlot fun _ ht => .read fun _ => by
  split
  · exact ht.xferLanes
  · exact ht.xferLanes
  · exact ht.wr
end

/-! Special registers and the privileged forms. -/
theorem State.Sound.sd {d : Dst} {v : Nat} (h : s.Sound) : Res.Sound (s.sd d v) := h.wrS
theorem State.Sound.accept {d : Dst} {op : SysOp} (h : s.Sound) : Res.Sound (s.accept d op) := State.Sound.sd h
theorem State.Sound.forForm (h : s.Sound) : s.forForm.Sound := h.settleAll.flushStores
theorem State.Sound.tlbinv {d : Dst} {a base n : Nat} (h : s.Sound) : Res.Sound (s.tlbinv d a base n) :=
  .ite h.sd (.ite h.sd (.ite h.sd (State.Sound.sd h)))
theorem State.Sound.askSave {k kind : Nat} (h : s.Sound) : (s.askSave k kind).Sound := .ite h h
theorem State.Sound.failOps {k : Nat} (h : s.Sound) : (s.failOps k).Sound := h.finishOps.of_eq rfl rfl
theorem State.Sound.zeroPages {x : PDABn} {cls : Nat} (h : s.Sound) : Res.Sound (s.zeroPages x cls) :=
  .read fun _ => .read fun _ => .ite h.sd (.ite h.sd (.ite h.sd h.accept))
theorem State.Sound.retireForm {x : PDABn} {force : Bool} (h : s.Sound) : Res.Sound (s.retireForm x force) :=
  .read fun _ => .read fun _ => .ite h.sd (.ite h.sd (.ite h.sd (.ite h.sd h.modMe.retireUnit.sd)))
theorem State.Sound.signForm {x : PDABn} {kind p b : Nat} (h : s.Sound) : Res.Sound (s.signForm x kind p b) :=
  .read fun _ => .ite h.sd (.ite h.sd h.forForm.accept)
section
variable (h : s.Sound)
include h
theorem State.Sound.execMfs (x : SMfs) : Out.Sound (execMfs x s) := h.runSlot fun _ ht => ht.wrS
theorem State.Sound.execMts (x : SMts) : Out.Sound (execMts x s) :=
  h.runSlot fun _ ht => .read fun _ => .ite trivial (.ite trivial (.ite trivial (.ite ht ht.modMe.note)))
theorem State.Sound.runPriv {g : Guard} {body : State → Res State} (hb : ∀ t : State, t.Sound → Res.Sound (body t)) :
    Out.Sound (runPriv g s body) := h.runSlot fun t ht => .ite trivial (.noSeg (hb t ht))
theorem State.Sound.execTlbinvPage (x : PDA) : Out.Sound (execTlbinvPage x s) := h.runPriv fun _ ht => .read fun _ => ht.tlbinv
theorem State.Sound.execTlbinvRange (x : PDAB) : Out.Sound (execTlbinvRange x s) :=
  h.runPriv fun _ ht => .read fun _ => .read fun _ => ht.tlbinv
theorem State.Sound.execTlbinvAll (x : PDA) : Out.Sound (execTlbinvAll x s) := h.runPriv fun _ ht => .read fun _ => ht.tlbinv
theorem State.Sound.execTlbsync (x : PD) : Out.Sound (execTlbsync x s) := h.runPriv fun _ ht => .ite trivial ht.sd
theorem State.Sound.execCtxsave (x : PDAn) : Out.Sound (execCtxsave x s) := h.runPriv fun _ ht => .read fun _ => by
  split
  · exact ht.sd
  · exact .ite ht.sd (.ite ht.sd (.ite ht.sd (State.Sound.accept (ht.modCtx.foldl fun _ _ hb => hb.askSave))))
theorem State.Sound.execCtxload (x : PDABn) : Out.Sound (execCtxload x s) := h.runPriv fun _ ht => .read fun _ => .read fun _ => by
  split
  · exact ht.sd
  · exact .ite ht.sd (.ite ht.sd ht.forForm.accept)
theorem State.Sound.execCtxkill (x : PDAB) : Out.Sound (execCtxkill x s) := h.runPriv fun _ ht => .read fun _ => .read fun _ => by
  split
  · exact ht.sd
  · exact .ite ht.sd (.ite (.ite ht.failOps.sd ht.sd) ht.failOps.killCtx.modCtx.sd)
theorem State.Sound.partset (x : PDAn) {body : State → List Byte → Nat → Res State}
    (hb : ∀ (t : State) l p, t.Sound → Res.Sound (body t l p)) : Out.Sound (partset x s body) :=
  h.runPriv fun _ ht => .read fun _ => .ite ht.sd (.ite ht.sd (by
    dsimp only
    split
    · exact ht.forForm.sd
    · exact .ite ht.forForm.sd (.ite ht.forForm.sd (hb _ _ _ ht.forForm))))
theorem State.Sound.execPartsetCreate (x : PDAn) : Out.Sound (execPartsetCreate x s) := h.partset x fun _ _ _ ht => .ite ht.sd ht.modPart.accept
theorem State.Sound.execPartsetUpdate (x : PDAn) : Out.Sound (execPartsetUpdate x s) :=
  h.partset x fun _ _ _ ht => .ite ht.sd (.ite ht.sd ht.modPart.modMe.finishOp.sd)
theorem State.Sound.execPartsetStop (x : PDAn) : Out.Sound (execPartsetStop x s) := h.partset x fun _ _ _ ht => .ite ht.sd ht.modPart.accept
theorem State.Sound.execPartsetDestroy (x : PDAn) : Out.Sound (execPartsetDestroy x s) :=
  h.partset x fun _ _ _ ht => .ite ht.sd ht.modPart.accept
theorem State.Sound.execWayset (x : PDAB) : Out.Sound (execWayset x s) :=
  h.runPriv fun _ ht => .read fun _ => .read fun _ => .ite ht.sd (.ite ht.sd (.ite ht.sd (.ite ht.sd ht.modPart.sd)))
theorem State.Sound.execZeroMem (x : PDABn) : Out.Sound (execZeroMem x s) := h.runPriv fun _ ht => ht.zeroPages
theorem State.Sound.execZeroCarr (x : PDABn) : Out.Sound (execZeroCarr x s) := h.runPriv fun _ ht => ht.zeroPages
theorem State.Sound.execZeroBanks (x : PDABn) : Out.Sound (execZeroBanks x s) := h.runPriv fun _ ht => .read fun _ => .read fun _ => by
  split
  · exact ht.sd
  · refine .ite ht.sd ?_
    split
    · exact ht.sd
    · exact .ite ht.sd (.ite ht.sd (.ite ht.sd ht.accept))
theorem State.Sound.execZeroL2 (x : PDABn) : Out.Sound (execZeroL2 x s) :=
  h.runPriv fun _ ht => .read fun _ => .read fun _ => .ite ht.sd (.ite ht.sd (.ite ht.sd ht.accept))
theorem State.Sound.execLease (x : PDAn) : Out.Sound (execLease x s) :=
  h.runPriv fun _ ht => .read fun _ => .ite ht.sd (.ite ht.sd (.ite ht.sd (.ite ht.sd ht.modUnit.accept)))
theorem State.Sound.execUnlease (x : PDA) : Out.Sound (execUnlease x s) :=
  h.runPriv fun _ ht => .read fun _ => .ite ht.sd (.ite ht.sd (.ite ht.sd (.ite ht.modUnit.sd ht.endLease.sd)))
theorem State.Sound.execScore (x : PDA) : Out.Sound (execScore x s) := h.runPriv fun _ ht => .read fun _ => .ite ht.sd ht.sd
theorem State.Sound.execScoreAdd (x : PDAB) : Out.Sound (execScoreAdd x s) :=
  h.runPriv fun _ ht => .read fun _ => .read fun _ => .ite ht.sd ht.addScore.settleScores.sd
theorem State.Sound.execRetire (x : PDABn) : Out.Sound (execRetire x s) := h.runPriv fun _ ht => ht.retireForm
theorem State.Sound.execRetireForce (x : PDABn) : Out.Sound (execRetireForce x s) := h.runPriv fun _ ht => ht.retireForm
theorem State.Sound.execFenceq (x : PDA) : Out.Sound (execFenceq x s) := h.runPriv fun _ ht => .read fun _ => .ite ht.sd ht.sd
theorem State.Sound.execAppeal (x : PDAn) : Out.Sound (execAppeal x s) :=
  h.runPriv fun _ ht => .read fun _ => .ite ht.sd (.ite ht.sd (.ite ht.sd (.ite ht.sd ht.modCore.accept)))
theorem State.Sound.execAppealBar (x : PDAn) : Out.Sound (execAppealBar x s) :=
  h.runPriv fun _ ht => .read fun _ => .ite ht.sd (.ite ht.sd (.ite ht.sd ht.modCore.modMe.finishOp.sd))
theorem State.Sound.execMeter (x : PDAB) : Out.Sound (execMeter x s) := h.runPriv fun _ ht => .read fun _ => .read fun _ => .ite ht.sd ht.sd
theorem State.Sound.execSignqUsage (x : PDABn) : Out.Sound (execSignqUsage x s) := h.runPriv fun _ ht => .read fun _ => .ite ht.sd ht.signForm
theorem State.Sound.execSignqRetired (x : PDABn) : Out.Sound (execSignqRetired x s) :=
  h.runPriv fun _ ht => .read fun _ => .ite ht.sd ht.signForm
theorem State.Sound.execSignqQuote (x : PDABn) : Out.Sound (execSignqQuote x s) := h.runPriv fun _ ht => .read fun _ => .ite ht.sd ht.signForm
theorem State.Sound.execPowqPkg (x : PDAB) : Out.Sound (execPowqPkg x s) :=
  h.runPriv fun _ ht => .read fun _ => .read fun _ => .ite ht.sd ht.sd
theorem State.Sound.execPowqCore (x : PDA) : Out.Sound (execPowqCore x s) := h.runPriv fun _ ht => .read fun _ => by
  split
  · exact ht.sd
  · exact .ite ht.sd ht.sd
theorem State.Sound.execPowqGrant (x : PDAB) : Out.Sound (execPowqGrant x s) := h.runPriv fun _ ht => .read fun _ => .read fun _ => .ite ht.sd (by
  split
  · exact ht.sd
  · exact .ite ht.sd ht.modCtx.sd)
theorem State.Sound.injForm (x : PDAB) {body : State → Nat → Nat → Res State} (hb : ∀ (t : State) p b, t.Sound → Res.Sound (body t p b)) :
    Out.Sound (injForm x s body) :=
  h.runPriv fun _ ht => .read fun _ => .read fun _ => .ite ht.sd (.ite ht.sd (.ite ht.sd (hb _ _ _ ht)))
theorem State.Sound.execInjOff (x : PDAB) : Out.Sound (execInjOff x s) := h.injForm x fun _ _ _ ht => .ite ht.sd ht.modPart.sd
theorem State.Sound.execInjOn (x : PDAB) : Out.Sound (execInjOn x s) := h.injForm x fun _ _ _ ht => .ite ht.sd ht.modPart.sd
theorem State.Sound.execInjPoison (x : PDAB) : Out.Sound (execInjPoison x s) := h.injForm x fun _ _ _ ht => .ite ht.sd (by
  split
  · exact .ite (State.Sound.sd ht) ht.sd
  · exact ht.sd)
end

end Sys2Proof.Machine

namespace Sys2Proof.Machine
variable {s : State}

/-! The vector slots. -/
theorem State.Sound.wrV {u : VUnit} {d : Dst} {mask L : Nat} {f : Nat → Nat} (h : s.Sound) : Res.Sound (s.wrV u d mask L f) := h.wr
theorem State.Sound.wrEf {u : VUnit} {n : Rnd} {mask : Nat} {f : Nat → Nat} (h : s.Sound) : (s.wrEf u n mask f).Sound := h.writeNow.note
section
variable (h : s.Sound)
include h
theorem State.Sound.execVectorNop (u : VUnit) : Out.Sound (execVectorNop u s) := h.inBundle fun _ ht => ht
theorem State.Sound.lanes1 (u : VUnit) (g : Guard) (d : Dst) (a : Src) (L : Nat) (f : Nat → Nat) : Out.Sound (lanes1 u g d a L f s) :=
  h.runLanes fun _ _ ht => .read fun _ => ht.wrV
theorem State.Sound.lanes2 (u : VUnit) (g : Guard) (d : Dst) (a b : Src) (L : Nat) (f : Nat → Nat → Nat) : Out.Sound (lanes2 u g d a b L f s) :=
  h.runLanes fun _ _ ht => .read fun _ => .read fun _ => ht.wrV
theorem State.Sound.lanes3 (u : VUnit) (g : Guard) (d : Dst) (a b : Src) (L : Nat) (f : Nat → Nat → Nat → Nat) :
    Out.Sound (lanes3 u g d a b L f s) := h.runLanes fun _ _ ht => .read fun _ => .read fun _ => .read fun _ => ht.wrV
theorem State.Sound.vcmp (u : VUnit) (x : VCmp) (f : Nat → Nat → Bool) : Out.Sound (vcmp u x f s) :=
  h.runLanes fun _ _ ht => .read fun _ => .read fun _ => ht.wrP
theorem State.Sound.execVsel (u : VUnit) (x : VSel) : Out.Sound (execVsel u x s) :=
  h.runLanes fun _ _ ht => .read fun _ => .read fun _ => ht.wrV
theorem State.Sound.execVcvt (u : VUnit) (x : VCvt) : Out.Sound (execVcvt u x s) :=
  h.runLanes fun _ _ ht => .read fun _ => .ite ht.wrEf.wrV ht.wrV
theorem State.Sound.execVpack (u : VUnit) (x : VPack) : Out.Sound (execVpack u x s) := h.runLanes fun _ _ ht =>
  .ite trivial (.read fun _ => .read fun _ => (State.Sound.wr (.ite ht.wrEf ht)).bind fun _ hb => .ite hb.wr (.ok hb))
theorem State.Sound.execVunpack (u : VUnit) (x : VUnpack) : Out.Sound (execVunpack u x s) :=
  h.runLanes fun _ _ ht => .ite trivial (.read fun _ => .ite (.read fun _ => ht.wrV) (.read fun _ => ht.wrV))
theorem State.Sound.execVperm (u : VUnit) (x : VRR) : Out.Sound (execVperm u x s) :=
  h.runLanes fun _ _ ht => .read fun _ => .read fun _ => ht.wrV
theorem State.Sound.execVbcast (u : VUnit) (x : VBcast) : Out.Sound (execVbcast u x s) := h.runLanes fun _ _ ht => .read fun _ => ht.wrV
theorem State.Sound.execVslide (u : VUnit) (x : VSlide) : Out.Sound (execVslide u x s) :=
  h.runLanes fun _ _ ht => .read fun _ => .read fun _ => ht.wrV
theorem State.Sound.execViota (u : VUnit) (x : VD) : Out.Sound (execViota u x s) := h.runLanes fun _ _ ht => ht.wrV
theorem State.Sound.execViotaRand (u : VUnit) (x : VD) : Out.Sound (execViotaRand u x s) :=
  h.runLanes fun _ _ ht => State.Sound.wrV (.modOpen ht fun _ => ⟨rfl, rfl⟩)
theorem State.Sound.vreduce (u : VUnit) (x : VTyp2) (L ident : Nat) (f : Nat → Nat → Nat) : Out.Sound (vreduce u x L ident f s) :=
  h.runLanes fun _ _ ht => .read fun _ => ht.wr
theorem State.Sound.execVscan (u : VUnit) (x : VTyp2) : Out.Sound (execVscan u x s) := h.runLanes fun _ _ ht => .read fun _ => ht.wrV
theorem State.Sound.vloadOp (u : VUnit) (x : VRR) (f : Nat → Nat → Nat → Nat) : Out.Sound (vloadOp u x f s) :=
  h.runLanes fun _ _ ht => .read fun _ => ht.vload
theorem State.Sound.vstoreOp (u : VUnit) (x : VRR) (f : Nat → Nat → Nat → Nat) : Out.Sound (vstoreOp u x f s) :=
  h.runLanes fun _ _ ht => .read fun _ => .read fun _ => ht.vstore
theorem State.Sound.execVtbl (u : VUnit) (x : VTbl) : Out.Sound (execVtbl u x s) := h.runLanes fun _ _ ht => .read fun _ => ht.vload
theorem State.Sound.vatomicOp (u : VUnit) (g : Guard) (d : Dst) (a b : Src) (op : AtomOp) : Out.Sound (vatomicOp u g d a b op s) :=
  h.runLanes fun _ _ ht => .read fun _ => .read fun _ => ht.vatomic
theorem State.Sound.execVectorGetm (u : VUnit) (x : VGetm) : Out.Sound (execVectorGetm u x s) := h.runLanes fun _ _ ht => .read fun _ => ht.wr
theorem State.Sound.execVectorPutm (u : VUnit) (x : VPutm) : Out.Sound (execVectorPutm u x s) := h.runLanes fun _ _ ht => .read fun _ => ht.wr
theorem State.Sound.execVectorXfer (u : VUnit) (x : VXfer) : Out.Sound (execVectorXfer u x s) := h.inBundle fun _ ht => by
  split
  · exact .ite (ht.slotDo (.read fun _ => ht.wr)) ht
  · exact .ite (ht.slotDo (.read fun _ => ht.wr)) ht
  · exact .ite ht (ht.slotDo (.read fun _ => ht.wr))
theorem State.Sound.execVpmovToPredicate (u : VUnit) (x : VToP) : Out.Sound (execVpmovToPredicate u x s) :=
  h.runLanes fun _ _ ht => .read fun _ => ht.wrP
theorem State.Sound.execVpmovFromPredicate (u : VUnit) (x : VFromP) : Out.Sound (execVpmovFromPredicate u x s) := h.runLanes fun _ _ ht => ht.wrV
theorem State.Sound.execVefclr (u : VUnit) (x : VEf) : Out.Sound (execVefclr u x s) := h.runLanes fun _ _ ht => ht.wr
theorem State.Sound.execVefget (u : VUnit) (x : VEfg) : Out.Sound (execVefget u x s) := h.runLanes fun _ _ ht => ht.wr
theorem State.Sound.execVefput (u : VUnit) (x : VEfp) : Out.Sound (execVefput u x s) := h.runLanes fun _ _ ht => .read fun _ => ht.wr
theorem State.Sound.execVfmtset (u : VUnit) (x : VFmt) : Out.Sound (execVfmtset u x s) :=
  h.runSlot fun _ ht => .read fun _ => .ite trivial ht.modMe.note
end

/-! The series unit. -/
theorem State.Sound.longCharge (h : s.Sound) : s.longCharge.Sound := h
theorem State.Sound.wrX {d : Fin 16} {v L : Nat} (h : s.Sound) : Res.Sound (s.wrX d v L) := h.wr
theorem State.Sound.wrXLong {d : Fin 16} {v L : Nat} (h : s.Sound) : Res.Sound (s.wrXLong d v L) := h.longCharge.wrLock
section
variable (h : s.Sound)
include h
theorem State.Sound.execXclr (x : XD) : Out.Sound (execXclr x s) := h.runSlot fun _ ht => ht.wrX
theorem State.Sound.execXseto (x : XSeto) : Out.Sound (execXseto x s) := h.runSlot fun _ ht => .read fun _ => ht.modMe.note
theorem State.Sound.execXform (x : XForm) : Out.Sound (execXform x s) := h.runSlot fun _ ht => .read fun _ => .read fun _ => ht.wrXLong
theorem State.Sound.execXm2m (x : XXB) : Out.Sound (execXm2m x s) := h.runSlot fun _ ht => .read fun _ => .read fun _ => .read fun _ => ht.wrXLong
theorem State.Sound.execXl2l (x : XXB) : Out.Sound (execXl2l x s) := h.runSlot fun _ ht => .read fun _ => .read fun _ => .read fun _ => ht.wrXLong
theorem State.Sound.execXm2l (x : XXB) : Out.Sound (execXm2l x s) := h.runSlot fun _ ht => .read fun _ => .read fun _ => .read fun _ => ht.wrXLong
theorem State.Sound.execXeval (x : XEval) : Out.Sound (execXeval x s) := h.runSlot fun _ ht => .read fun _ => .read fun _ => ht.longCharge.wrLock
theorem State.Sound.execXadm (x : XAdm) : Out.Sound (execXadm x s) := h.runSlot fun _ ht => .read fun _ => .read fun _ => ht.wrP
theorem State.Sound.execXadd (x : XXX) : Out.Sound (execXadd x s) := h.runSlot fun _ ht => .read fun _ => .read fun _ => ht.wrX
theorem State.Sound.execXld (x : XMem) : Out.Sound (execXld x s) := h.runSlot fun _ ht => .read fun _ => ht.longCharge.xload
theorem State.Sound.execXst (x : XMem) : Out.Sound (execXst x s) := h.runSlot fun _ ht => .read fun _ => .read fun _ => ht.xstore
theorem State.Sound.execXnorm (x : XXB) : Out.Sound (execXnorm x s) := h.runSlot fun _ ht => .read fun _ => .read fun _ => ht.wrXLong
theorem State.Sound.execXget (x : XGet) : Out.Sound (execXget x s) := h.runSlot fun _ ht => .read fun _ => ht.wr
end

/-! Engine commands issue. -/
theorem State.Sound.takeNumber {e : Fin 3} (h : s.Sound) : (s.takeNumber e).Sound := h
theorem State.Sound.noteCopy {c : CopyCmd} (h : s.Sound) : (s.noteCmd (.copy c)).Sound := by
  obtain ⟨op, dst, src, fmts, coll⟩ := c
  cases op with
  | cwait n imm => exact h
  | cfence sc => exact h
  | cpyb n t =>
    cases t with
    | none => exact h.note.note
    | some t => exact h.note
  | czero => exact h.note
  | cpref => exact h.note
  | cpyt n code fmt => exact h.note
  | _ => exact h.note.note
theorem State.Sound.noteCmd {op : CmdOp} (h : s.Sound) : (s.noteCmd op).Sound := by
  cases op with
  | copy c => exact h.noteCopy
  | mldt n code fmt p => exact h.note.note
  | mstz k p tag => exact h.note.note
  | mul c =>
    unfold State.noteCmd
    dsimp only
    split
    · split
      · exact h.note.note.note.note
      · exact h.note.note
    · split
      · exact h.note.note
      · exact h
  | mfix k v rows cols => exact h.note
  | mbias k v => exact h.note
  | _ => exact h
theorem State.Sound.enqueue {m : Cmd} (h : s.Sound) : (s.enqueue m).Sound := h.noteCmd.takeNumber.modCore.modCtx
theorem State.Sound.padWrite {k a n v : Nat} (h : s.Sound) : (s.padWrite k a n v).Sound := by
  unfold State.padWrite
  split
  · exact h
  · exact foldl_keeps (fun x : State × Nat => x.1.Sound) _ _ (s, v) h fun _ _ hb => hb.putN.clearPoison
section
variable (h : s.Sound)
include h
theorem State.Sound.runCmd {i : Nat} {e : Fin 3} {g : Guard} {body : State → Res Cmd} : Out.Sound (runCmd i e g s body) :=
  h.inBundle fun _ ht => .ite (ht.slotDo (.ite trivial (.read fun _ => ht.enqueue))) ht.takeNumber

/-! The matrix slot. -/
theorem State.Sound.execMatrixNop : Out.Sound (execMatrixNop s) := h.inBundle fun _ ht => ht
theorem State.Sound.execMdset (x : MMdset) : Out.Sound (execMdset x s) := h.runSlot fun _ ht => .read fun _ => .read fun _ => ht.writeNow.note
theorem State.Sound.execMdget (x : MMove) : Out.Sound (execMdget x s) := h.runSlot fun _ ht => .read fun _ => ht.wr
theorem State.Sound.execMatrixPutm (x : MMove) : Out.Sound (execMatrixPutm x s) := h.runSlot fun _ ht => .read fun _ => ht.wr
theorem State.Sound.execMatrixGetm (x : MGetm) : Out.Sound (execMatrixGetm x s) := h.runSlot fun _ ht => .read fun _ => ht.wr
theorem State.Sound.execMatrixXfer (x : MXfer) : Out.Sound (execMatrixXfer x s) := h.runSlot fun _ ht => .read fun _ => by
  split
  · exact ht.wr
  · exact ht.wr
  · exact ht.wr
theorem State.Sound.nestOp (x : MNest) (clr : Bool) : Out.Sound (nestOp x clr s) := h.inBundle fun _ ht =>
  .ite ht.takeNumber (ht.slotDo (.read fun _ => .read fun _ => .read fun _ => .ite trivial (.ite trivial
    (.ite (State.Sound.holdSlot (.modOpen ht fun _ => ⟨rfl, rfl⟩)) (.read fun _ => ht.note.enqueue)))))
theorem State.Sound.execMrdz (x : MRead) : Out.Sound (execMrdz x s) := h.runSlot fun _ ht => .ite trivial (by
  dsimp only
  split
  · exact ht.wrBy
  · exact ht.wr)
theorem State.Sound.execMwm (x : MWm) : Out.Sound (execMwm x s) := h.runSlot fun _ ht => ht.wrP
theorem State.Sound.execMres (x : MZM) : Out.Sound (execMres x s) := h.runSlot fun _ ht => .ite trivial ht.wr
theorem State.Sound.execMtag (x : MTag) : Out.Sound (execMtag x s) := h.runSlot fun _ ht => .ite trivial ht.wr
theorem State.Sound.execMmir (x : MMir) : Out.Sound (execMmir x s) := h.runSlot fun _ ht => ht.modMe
theorem State.Sound.execMpitch (x : MN) : Out.Sound (execMpitch x s) :=
  h.runSlot fun _ ht => .read fun _ => .ite trivial (.ite (.read fun _ => ht.modMe) (.read fun _ => ht.modMe))

/-! The copy slots. -/
theorem State.Sound.execCopyNop (e : CUnit) : Out.Sound (execCopyNop e s) := h.inBundle fun _ ht => ht
theorem State.Sound.cdset {e : CUnit} {n : Fin 8} {f v : Nat} : Res.Sound (s.cdset e n f v) := .read fun _ => h.writeNow.note
theorem State.Sound.execCdsetImmediate (e : CUnit) (x : CSetI) : Out.Sound (execCdsetImmediate e x s) := h.runSlot fun _ ht => ht.cdset
theorem State.Sound.execCdsetRegister (e : CUnit) (x : CSetR) : Out.Sound (execCdsetRegister e x s) := h.runSlot fun _ ht => .read fun _ => ht.cdset
theorem State.Sound.execCdget (e : CUnit) (x : CGet) : Out.Sound (execCdget e x s) := h.runSlot fun _ ht => .read fun _ => ht.wr
theorem State.Sound.execCopyGetm (e : CUnit) (x : CGetm) : Out.Sound (execCopyGetm e x s) := h.runSlot fun _ ht => .read fun _ => ht.wr
theorem State.Sound.execCopyPutm (e : CUnit) (x : CPutm) : Out.Sound (execCopyPutm e x s) := h.runSlot fun _ ht => .read fun _ => ht.wr
theorem State.Sound.execCopyXfer (e : CUnit) (x : CXfer) : Out.Sound (execCopyXfer e x s) := h.runSlot fun _ ht => .read fun _ => .ite ht.wr ht.wr
theorem State.Sound.execCtlr (e : CUnit) (x : CJ) : Out.Sound (execCtlr e x s) := h.runSlot fun _ ht => ht.wr
theorem State.Sound.runColl {e : CUnit} {g : Guard} {body : State → Res Cmd} : Out.Sound (runColl e g s body) :=
  h.inBundle fun _ ht => .ite (ht.slotDo (.ite trivial (.read fun _ => ht.enqueue.modMe))) ht.takeNumber
theorem State.Sound.discardSusp {k : Nat} {e : Fin 3} : (s.discardSusp k e).Sound := h
theorem State.Sound.execCfenceA (e : CUnit) (x : CFence) : Out.Sound (execCfenceA e x s) :=
  h.inBundle fun _ ht => .ite (ht.slotDo (.ite trivial ht.discardSusp.enqueue)) ht.takeNumber
end

end Sys2Proof.Machine

namespace Sys2Proof.Machine
variable {s : State}

/-! Walks of copy commands. -/
theorem State.Sound.copyLoc {k sp va : Nat} {m : AccMode} (h : s.Sound) : Walked (s.copyLoc k sp va m) := by
  refine .ite trivial ?_
  split
  · next e => exact .ite trivial (h.locate.of_ok e)
  · trivial
  · trivial
theorem State.Sound.engWrite {k sc key n v : Nat} {uc : Bool} (h : s.Sound) : (s.engWrite k sc key n v uc).Sound :=
  h.fillNarrow.writeAt.clearPoison.noteNarrow
theorem State.Sound.reach {k sc key n : Nat} {uc : Bool} (h : s.Sound) : (s.reach k sc key n uc).Sound := h.ask.touchHome
theorem State.Sound.streamAt {k sc sp o : Nat} {d : Desc} {ix : Bool} (h : s.Sound) : Walked (s.streamAt k sc sp d ix o) :=
  .ite (.ite trivial (h.copyLoc.bind fun ⟨⟨_, _⟩, _⟩ hs => State.Sound.reach hs)) h
theorem State.Sound.walk {k sc sp o n fuel : Nat} {d : Desc} {ix : Bool} {m : AccMode} (h : s.Sound) :
    Walked (s.walk k sc sp d ix m o n fuel) := by
  induction fuel generalizing s o n with
  | zero => exact h
  | succ fuel ih =>
    exact .ite h (h.streamAt.bind fun ⟨_, _⟩ hs => (State.Sound.copyLoc hs).bind fun ⟨⟨_, _⟩, _⟩ ht =>
      (ih (State.Sound.reach ht)).bind fun ⟨_, _⟩ hu => hu)
theorem State.Sound.putPieces {k sc : Nat} {p : List Piece} {l : List Byte} (h : s.Sound) : (s.putPieces k sc p l).Sound := by
  induction p generalizing s l with
  | nil => exact h
  | cons p r ih => exact ih h.engWrite
theorem State.Sound.poisonPieces {l : List Piece} (h : s.Sound) : (s.poisonPieces l).Sound := h.foldl fun _ _ hb => hb
theorem State.Sound.mark {bad dst : List Piece} (h : s.Sound) : (s.mark bad dst).Sound :=
  .ite h (State.Sound.poisonPieces (h.foldl fun _ _ hb => hb.addScore)).settleScores
theorem State.Sound.markAt {dst : List Piece} {taint : List Nat} (h : s.Sound) : (s.markAt dst taint).Sound := h.poisonPieces
theorem State.Sound.meterPieces {k : Nat} {l : List Piece} (h : s.Sound) : (s.meterPieces k l).Sound := h.foldl fun _ _ hb => hb.meterBytes.padFlits
theorem State.Sound.account {k : Nat} {l : List Piece} (h : s.Sound) : (s.account k l).Sound := h.meterPieces.charge
theorem State.Sound.blur {other : List (Nat × Nat)} {dst : List Piece} {data : List Byte} (h : s.Sound) : (s.blur other dst data).2.Sound := by
  unfold State.blur
  dsimp only
  split
  · exact h
  · exact h
theorem State.Sound.modCmd {k i : Nat} {f : Cmd → Cmd} (h : s.Sound) : (s.modCmd k i f).Sound := h
theorem State.Sound.suspend {k i reason va : Nat} (h : s.Sound) : (s.suspend k i reason va).Sound := by
  unfold State.suspend
  split
  · exact h
  · exact .ite h.modCtx h.modCmd.postQ
theorem State.Sound.walkStop {k i : Nat} {e : WalkStop} (h : s.Sound) : (s.walkStop k i e).Sound := by
  cases e with
  | susp r va => exact h.suspend
  | hold page leaf => exact h.askPage.modCmd
theorem State.Sound.lowerBar {k n : Nat} {b : Fin 8} (h : s.Sound) : (s.lowerBar k b n).Sound := h

/-! Conversion. -/
theorem State.Sound.cvtByte {k sc va n : Nat} (h : s.Sound) : Walked (s.cvtByte k sc va n) := h.walk.bind fun ⟨_, _⟩ hs => hs
theorem State.Sound.cvtRead {k sc n e : Nat} {d : Desc} {fmt : BitVec 32} {relief : Option Nat} (h : s.Sound) :
    Walked (s.cvtRead k sc d fmt relief n e) := by
  refine .ite ?_ ?_
  · exact h.cvtByte.bind fun ⟨⟨_, _⟩, _⟩ h1 => (State.Sound.cvtByte h1).bind fun ⟨⟨_, _⟩, _⟩ h2 =>
      .iteBind (.ok h2) (State.Sound.cvtByte h2) fun ⟨⟨_, _⟩, _⟩ h3 =>
      .iteBind (State.Sound.cvtByte h3) (.ok h3) fun ⟨⟨_, _⟩, _⟩ h4 => h4
  · exact h.walk.bind fun ⟨_, _⟩ hs => .ite trivial (.ite ((State.Sound.cvtByte hs).bind fun ⟨⟨_, _⟩, _⟩ ht => ht) hs)
theorem State.Sound.cvtReads {k sc n e m : Nat} {d : Desc} {fmt : BitVec 32} {relief : Option Nat} (h : s.Sound) :
    Walked (s.cvtReads k sc d fmt relief n e m) := by
  induction m generalizing s e with
  | zero => exact h
  | succ m ih => exact h.cvtRead.bind fun ⟨⟨_, _⟩, _⟩ hs => (ih hs).bind fun ⟨⟨_, _⟩, _⟩ ht => ht
theorem State.Sound.cvtStore {k sc va : Nat} {l : List Byte} (h : s.Sound) : Walked (s.cvtStore k sc va l) :=
  h.walk.bind fun ⟨_, _⟩ hs => State.Sound.putPieces hs
theorem State.Sound.cvtWrite {k sc n e : Nat} {d : Desc} {fmt : BitVec 32} {l : List FVal} (h : s.Sound) :
    Walked (s.cvtWrite k sc d fmt n e l) := by
  refine .ite ?_ ?_
  · exact h.cvtStore.bind fun ⟨_, _⟩ h1 => (State.Sound.cvtStore h1).bind fun ⟨_, _⟩ h2 =>
      .iteBind (.ok h2) (State.Sound.cvtStore h2) fun ⟨_, _⟩ h3 => .iteBind (State.Sound.cvtStore h3) (.ok h3) fun ⟨_, _⟩ h4 => h4
  · refine h.walk.bind fun ⟨_, _⟩ hs => ?_
    dsimp only
    split
    · trivial
    · exact .ite ((State.Sound.cvtStore (State.Sound.putPieces hs)).bind fun ⟨_, _⟩ ht => ht) (State.Sound.putPieces hs)
theorem State.Sound.cvtBatch {k b : Nat} {m : Cmd} {c : CopyCmd} {relief : Option Nat} (h : s.Sound) : Walked (s.cvtBatch k m c relief b) :=
  h.cvtReads.bind fun ⟨⟨_, _⟩, _⟩ hs => (State.Sound.cvtWrite hs).bind fun ⟨_, _⟩ ht => (State.Sound.mark ht).meterPieces.charge

/-! Batches. -/
theorem State.Sound.pullBytes {p va n : Nat} {c : CopyCmd} (h : s.Sound) : Walked (s.pullBytes p c va n) := by
  refine .ite trivial (.ite ?_ h)
  split
  · exact .ite h trivial
  · trivial
theorem State.Sound.lowerOwners {k : Nat} {bb : Fin 8} {l : List Piece} (h : s.Sound) : (s.lowerOwners k bb l).Sound := h.foldl fun _ _ hb => by
  split
  · exact hb.lowerBar
  · exact hb

/-- What lands of a copy whose streams may overlap. -/
theorem State.Sound.ifBlur {z : Bool} {other : List (Nat × Nat)} {dst : List Piece} {data : List Byte} (h : s.Sound) :
    (if z then s.blur other dst data else (data, s)).2.Sound := by
  split
  · exact h.blur
  · exact h
theorem State.Sound.moveBatch {k i b : Nat} {m : Cmd} {c : CopyCmd} (h : s.Sound) : Walked (s.moveBatch k i m c b) := by
  obtain ⟨op, dst, src, fmts, coll⟩ := c
  unfold State.moveBatch
  split
  next o n _ =>
  extract_lets sc first read write copy rb line l page pt code red
  have hr : ∀ (t : State) sp ix, t.Sound → Walked (read t sp ix) := fun _ _ _ ht => ht.walk
  have hw : ∀ (t : State) sp ix, t.Sound → Walked (write t sp ix) := fun _ _ _ ht => ht.walk
  have hc : ∀ (t : State) p q x y z, t.Sound → Walked (copy t p q x y z) := fun t p _ x _ _ ht =>
    (hr t p x ht).bind fun ⟨_, _⟩ h1 => (hw _ _ _ h1).bind fun ⟨_, _⟩ h2 => by
      dsimp only
      exact (State.Sound.ifBlur h2).putPieces.mark.account
  have hl : ∀ (t : State) j, t.Sound → (line t j).Sound := fun t j ht => by
    unfold line
    split
    · exact ht
    · next e =>
      have hs : State.Sound _ := ht.streamAt.of_ok e
      refine .ite hs ?_
      split
      · next e =>
        have hu : State.Sound _ := hs.copyLoc.of_ok e
        exact .ite hu.reach.fillLine hu
      · exact hs
  clear_value read write copy line
  cases op with
  | cpy => exact (hc _ _ _ _ _ _ h).bind fun ⟨_, _⟩ hs => hs
  | cpost n => exact (hc _ _ _ _ _ _ h).bind fun ⟨_, _⟩ hs => hs
  | chost out => exact (hc _ _ _ _ _ _ h).bind fun ⟨_, _⟩ hs => hs
  | ccarr out => exact .ite trivial ((hc _ _ _ _ _ _ h).bind fun ⟨_, _⟩ hs => hs)
  | cgath => exact (hc _ _ _ _ _ _ h).bind fun ⟨_, _⟩ hs => hs
  | cscat => exact (hc _ _ _ _ _ _ h).bind fun ⟨_, _⟩ hs => hs
  | cpyb bb t =>
    cases t with
    | none => exact (hc _ _ _ _ _ _ h).bind fun ⟨_, _⟩ hs => State.Sound.lowerOwners hs
    | some t => exact (hr _ _ _ h).bind fun ⟨_, _⟩ hs => (State.Sound.modCtx hs).mark.account.lowerBar.mirror
  | cpyt t code fmt => exact (hr _ _ _ h).bind fun ⟨_, _⟩ hs => (State.Sound.modCtx hs).mark.account.mirror
  | czero => exact (hw _ _ _ h).bind fun ⟨_, _⟩ hs => (State.Sound.putPieces hs).account
  | cfill v => exact (hw _ _ _ h).bind fun ⟨_, _⟩ hs => (State.Sound.putPieces hs).account
  | cswp =>
    exact h.walk.bind fun ⟨_, _⟩ h1 => (hw _ _ _ h1).bind fun ⟨_, _⟩ h2 => (hr _ _ _ h2).bind fun ⟨_, _⟩ h3 =>
      (State.Sound.walk h3).bind fun ⟨_, _⟩ h4 => by
        dsimp only
        exact (State.Sound.blur h4).blur.putPieces.putPieces.mark.mark.account
  | cpref => exact h.foldl hl
  | cred op det =>
    cases det with
    | false =>
      refine (hr _ _ _ h).bind fun ⟨_, _⟩ h1 => (hw _ _ _ h1).bind fun ⟨_, _⟩ h2 => (State.Sound.walk h2).bind fun ⟨_, _⟩ h3 => ?_
      dsimp only
      split
      · trivial
      · exact (State.Sound.putPieces h3).mark.account
    | true =>
      refine (hr _ _ _ h).bind fun ⟨_, _⟩ hs => ?_
      dsimp only
      split
      · trivial
      · exact (State.Sound.modCmd hs).mark.account
  | cbcast bb low =>
    refine (hr _ _ _ h).bind fun ⟨_, _⟩ hs => .read fun q => ?_
    extract_lets data bad s1 s2
    have h1 : s1.Sound := State.Sound.foldl hs fun _ _ hb => by
      split
      · exact hb.putPieces
      · exact hb
    have h2 : s2.Sound := h1.mark.account
    exact State.Sound.ite (h2.foldl fun _ _ hb => by
      split
      · exact hb.lowerBar
      · exact hb) h2
  | cpull =>
    exact h.pullBytes.bind fun ⟨⟨_, _⟩, _⟩ hs => .read fun _ => (State.Sound.writeAt hs).clearPoison.touchHome.mark.account
  | ccvt relief => exact h.cvtBatch
  | cwait n imm => exact h
  | cfence sc => exact h
  | _ =>
    refine (hr _ _ _ h).bind fun ⟨_, _⟩ hs => ?_
    dsimp only
    split
    · trivial
    · exact (State.Sound.modCmd hs).mark.account

/-! Energy and the windows of the governors. -/
theorem State.Sound.rollEnergy {core : Nat} (h : s.Sound) : (s.rollEnergy core).Sound := .ite h h.modCore
theorem State.Sound.addGrant {k : Nat} (h : s.Sound) : (s.addGrant k).Sound := h
theorem State.Sound.coreWindow {core : Nat} (h : s.Sound) : (s.coreWindow core).Sound := by
  unfold State.coreWindow
  extract_lets y g lo hi d cmds busy beyond waiting demand cap late cand set
  have hs : ∀ (t : State) i f, t.Sound → (set t i f).Sound := fun t i f ht => by
    cases i with
    | some i => exact ht.modCtx
    | none => exact ht
  clear_value set
  split
  dsimp only
  exact hs _ _ _ (hs _ _ _ h.modCore)
theorem State.Sound.rollCore {core : Nat} (h : s.Sound) : (s.rollCore core).Sound := by
  unfold State.rollCore
  extract_lets s1 s2 s3 pl
  have h1 : s1.Sound := h.rollEnergy
  have h3 : s3.Sound := .ite (State.Sound.modCore (.ite h1.coreWindow h1)) h1
  exact .ite h3 h3
theorem State.Sound.breachBandwidth {k res short win : Nat} (h : s.Sound) : (s.breachBandwidth k res short win).Sound := h
theorem State.Sound.plainWindow {pl : Nat} (h : s.Sound) : (s.plainWindow pl).Sound := by
  unfold State.plainWindow
  extract_lets g use demand cap isOver need owners served breaches exceeded quiet cand s1 set
  have h1 : s1.Sound := h.foldl fun _ _ hb => hb.breachBandwidth
  have hs : ∀ (t : State) i f, t.Sound → (set t i f).Sound := fun t i f ht => by
    cases i with
    | some k => exact ht.modCtx
    | none => exact ht
  clear_value set s1 breaches exceeded quiet cand
  split
  dsimp only
  exact hs _ _ _ (hs _ _ _ (h1.of_eq rfl rfl))

end Sys2Proof.Machine

namespace Sys2Proof.Machine
variable {s : State}

/-! The matrix engine. -/
theorem State.Sound.modZ {k : Nat} {z : Fin 4} {f : Accum → Accum} (h : s.Sound) : (s.modZ k z f).Sound := h
theorem State.Sound.takeRows {k num : Nat} {z : Fin 4} (h : s.Sound) : (s.takeRows k num z).Sound := h
theorem State.Sound.freeReaders {k num : Nat} (h : s.Sound) : (s.freeReaders k num).Sound := h
theorem State.Sound.pend {k cause : Nat} (h : s.Sound) : (s.pend k cause).Sound := h
theorem State.Sound.execCommandStart (k i : Nat) (h : s.Sound) : Out.Sound (execCommandStart k i s) := h.occur (.read fun m => .ite trivial (by
  have hs : (s.settleOwn k m.seqAt).Sound := h.settleOwn
  dsimp only
  split
  · exact hs.modCmd
  · exact State.Sound.ite (State.Sound.takeRows (State.Sound.modCore (State.Sound.modCmd (.ite hs.modZ hs))))
      (State.Sound.modCore (State.Sound.modCmd (.ite hs.modZ hs)))
  · split
    · split
      · exact hs.modCmd.modZ.takeRows.chargeRows
      · exact hs.modCmd.modZ.takeRows.chargeRows
      · exact hs.modCmd.modZ.takeRows
    · split
      · exact hs.modCmd.chargeRows
      · exact hs.modCmd.chargeRows
      · exact hs.modCmd))
theorem State.Sound.engineError {k : Nat} {units : List Nat} (h : s.Sound) : (s.engineError k units).Sound := by
  have hs : (units.foldl (fun s u => s.addScore u 256) s).Sound := h.foldl fun _ _ hb => hb.addScore
  exact .ite hs (State.Sound.settleScores (.ite hs.modCtx hs.pend))
theorem State.Sound.intake {k i : Nat} {m : Cmd} {x : MulCmd} {st : Int × Int} {bad : Bool} (h : s.Sound) : (s.intake k i m x st bad).Sound := by
  unfold State.intake
  extract_lets core c g r l cyc d s1 a b code conv A B err s2 s3 s4 t s5 fin s6 hit s7 s8 s9 s10
  have h1 : s1.Sound := .ite h.modZ h
  have h3 : s3.Sound := h1.modZ.meter
  have h4 : s4.Sound := .ite h3.meter h3
  have h5 : s5.Sound := .ite h4.padWrite.modCtx h4
  have h7 : s7.Sound := h5.charge.modCore.modCmd
  have h8 : s8.Sound := .ite h7.takeRows h7
  have h9 : s9.Sound := h8.engineError
  have h10 : s10.Sound := h9.addScore.settleScores
  exact .ite (.ite h10.modCtx h10.modCmd) h9
theorem State.Sound.corrected {u : Nat} (h : s.Sound) : (s.corrected u).Sound := h.addScore.settleScores
theorem State.Sound.execKtileIntake (k i : Nat) (t : Intake) (h : s.Sound) : Out.Sound (execKtileIntake k i t s) := h.occur (.read fun m => by
  split
  · refine .read fun st => .ite ?_ trivial
    dsimp only
    split
    · exact h.intake.corrected
    · exact h.intake
  · trivial)
theorem State.Sound.moveRow {k i : Nat} {m : Cmd} (h : s.Sound) : (s.moveRow k i m).Sound := by
  unfold State.moveRow
  dsimp only
  split
  · exact h.modCmd.engineError
  · exact h.modCmd.engineError
  · exact State.Sound.modCmd (.ite h h.padWrite)
  · exact h
theorem State.Sound.moveRows {k i n : Nat} (h : s.Sound) : (s.moveRows k i n).Sound := by
  induction n generalizing s with
  | zero => exact h
  | succ n ih =>
    unfold State.moveRows
    split
    · exact .ite (ih h.moveRow) h
    · exact h
theorem State.Sound.rowMismatch {k : Nat} {m : Cmd} (h : s.Sound) : (s.rowMismatch k m).Sound := by
  unfold State.rowMismatch
  extract_lets s1 s2
  have h2 : s2.Sound := h.addScore.addScore.modCtx
  exact State.Sound.settleScores (State.Sound.mirror (.ite h2.modCtx h2.killCtx))
theorem State.Sound.execAccumulatorRowFinal (k : Nat) (r : RowFinal) (h : s.Sound) : Out.Sound (execAccumulatorRowFinal k r s) :=
  h.occur (.read fun m => by
    split
    · refine .ite ?_ trivial
      extract_lets f s1 s2 waiting s3 s4
      have h3 : s3.Sound := h.modCmd.modCtx.chargeRows
      have h4 : s4.Sound := .ite h3.modCtx h3
      exact State.Sound.ite h4.freeReaders h4
    · exact .ite trivial (.ite (.ite trivial h.rowMismatch) (.ite trivial h.moveRow))
    · exact .ite (State.Sound.ite h.moveRow.corrected h.moveRow) trivial
    · exact .ite h.moveRow trivial)
theorem State.Sound.breachLatency {k : Nat} {m : Cmd} (h : s.Sound) : (s.breachLatency k m).Sound := by
  unfold State.breachLatency
  split
  · exact .ite h.meter.modCore.postQ h
  · exact h
theorem State.Sound.fillTile {k code : Nat} {i : Fin 8} {rows : List Nat} (h : s.Sound) : (s.fillTile k i code rows).Sound := h
theorem State.Sound.matrixPerform {k i : Nat} {m : Cmd} (h : s.Sound) : Opt.Sound (s.matrixPerform k i m) := by
  unfold State.matrixPerform
  dsimp only
  split
  · exact .ite (State.Sound.ite h.breachLatency.pend h.breachLatency) trivial
  · exact .ite h.moveRows.fillTile trivial
  · exact .ite (State.Sound.ite h.moveRows.padWrite h.moveRows) trivial
  · exact .ite h.moveRows.fillTile trivial
  · exact .ite h.fillTile trivial
  · exact h
  · trivial
  · refine .ite ?_ trivial
    split
    · exact State.Sound.freeReaders (.ite h.modCtx h)
    · exact h

/-! Collectives. -/
theorem State.Sound.setColl {c : Coll} (h : s.Sound) : (s.setColl c).Sound := h
theorem State.Sound.leaveColl {c : Coll} {rank : Nat} (h : s.Sound) : (s.leaveColl c rank).Sound := .ite h h
theorem State.Sound.suspendColl {key : (Nat × Nat) × Nat × Nat × Nat} (h : s.Sound) : (s.suspendColl key).Sound :=
  h.foldl fun _ _ hb => hb.foldl fun _ _ hc => by
    split
    · split
      · exact .ite hc.suspend hc
      · exact hc
    · exact hc
theorem State.Sound.joinColl {k i : Nat} {m : Cmd} {c : CopyCmd} (h : s.Sound) : (s.joinColl k i m c).Sound := by
  unfold State.joinColl
  extract_lets key y rank go data
  have hg : ∀ (t : State) l, t.Sound → (go t l).Sound := fun t l ht => by
    unfold go
    dsimp only
    split
    · exact ht.modCmd.setColl
    · exact .ite ht.modCmd.setColl.suspendColl ht.modCmd.setColl
  clear_value go
  split
  · split
    · next e =>
      have ht := h.walk.of_ok e
      exact hg _ _ (State.Sound.putPieces ht).markAt
    · exact h.walkStop
  · exact hg _ _ h

/-! Copies perform. -/
theorem State.Sound.pulled {k : Nat} {c : CopyCmd} (h : s.Sound) : (s.pulled k c).Sound := by
  unfold State.pulled
  extract_lets va page p s1 s2
  have h1 : s1.Sound := by
    unfold s1
    split
    · exact h.writeAt
    · exact h
  exact State.Sound.foldl h1.modPart fun _ _ hb => .ite hb.modCtx hb
theorem State.Sound.copyPerform {k i : Nat} {m : Cmd} {c : CopyCmd} (h : s.Sound) : Opt.Sound (s.copyPerform k i m c) := by
  unfold State.copyPerform
  split
  · exact .ite h.modCtx trivial
  · split
    · exact h.postFlag
    · exact h
  · exact .ite h trivial
  · split
    · refine .ite h.suspend (.ite trivial ?_)
      split
      · next e =>
        have ht := h.walk.of_ok e
        exact (State.Sound.putPieces ht).markAt.account.leaveColl
      · exact h.walkStop
    · trivial
  · split
    · refine .ite h.suspend (.ite trivial (State.Sound.leaveColl ?_))
      dsimp only
      split
      · exact .ite h.postQ.answer.modPart h.postQ
      · exact h
    · trivial
  · exact h.pulled
  · exact State.Sound.ite h.flushStores h
  · exact h
theorem State.Sound.retireCmd {k i : Nat} {m : Cmd} (h : s.Sound) : (s.retireCmd k i m).Sound := by
  unfold State.retireCmd
  split
  · exact h
  · refine .ite h ?_
    dsimp only
    split
    · exact h.modCtx
    · exact .ite (.ite h.modCtx h.modCtx.postQ) (State.Sound.modCtx (.ite h.modCtx h.modCtx.postQ))
theorem State.Sound.execCommandPerform (k i : Nat) (h : s.Sound) : Out.Sound (execCommandPerform k i s) := h.occur (.read fun m => .ite trivial (by
  split
  · exact .ite trivial (.ite h.joinColl (h.copyPerform.map fun _ ht => ht.retireCmd))
  · exact h.matrixPerform.map fun _ ht => ht.retireCmd))

theorem State.Sound.withReds {l : List Reduction} (h : s.Sound) : State.Sound { s with reds := l } := h

/-! Copy batches, timeouts and the reduction store. -/
theorem State.Sound.sendMessage {dst type idx : Nat} (h : s.Sound) : (s.sendMessage dst type idx).Sound := by
  unfold State.sendMessage
  dsimp only
  split
  · exact h
  · exact h
theorem State.Sound.sendBatch {k b : Nat} {m : Cmd} {c : CopyCmd} (h : s.Sound) : (s.sendBatch k m c b).Sound := by
  unfold State.sendBatch
  extract_lets go
  have hg : ∀ (t : State) key type, t.Sound → (go t key type).Sound := fun t key type ht => by
    cases key with
    | some x => exact .ite ht.sendMessage ht
    | none => exact ht
  clear_value go
  split
  · exact .ite h h.sendMessage
  · exact hg _ _ _ (hg _ _ _ h)
theorem State.Sound.correctBatch {k : Nat} {m : Cmd} {c : CopyCmd} {b : BatchLand} (h : s.Sound) : (s.correctBatch k m c b).Sound := by
  unfold State.correctBatch
  split
  · exact h
  · split
    · exact h.corrected
    · exact h
section
variable (h : s.Sound)
include h
theorem State.Sound.execCopyBatchLand (k i : Nat) (w : BatchLand) : Out.Sound (execCopyBatchLand k i w s) :=
  h.occur (.read fun m => .read fun c => .ite trivial (by
    have hm := h.moveBatch (k := k) (i := i) (m := m) (c := c) (b := w.num)
    split
    · exact h.walkStop
    · next t e =>
      have ht : t.Sound := hm.of_ok e
      split
      extract_lets s1 s2 s3
      have h1 : s1.Sound := by
        unfold s1
        split
        · exact ht.modCtx
        · exact ht
      have h3 : s3.Sound := h1.modCmd.sendBatch.correctBatch
      clear_value s3
      split
      · exact .ite h3.joinColl h3
      · exact h3))
theorem State.Sound.execCopyTimeout (k i : Nat) : Out.Sound (execCopyTimeout k i s) :=
  h.occur (.read fun _ => .read fun _ => .ite trivial h.suspend)
theorem State.Sound.execDetContributionAccept (k i : Nat) : Out.Sound (execDetContributionAccept k i s) :=
  h.occur (.read fun m => .read fun c => by
    split
    · refine .ite trivial ?_
      dsimp only
      split
      · exact h.walkStop
      · next e =>
        have ht : State.Sound _ := h.walk.of_ok e
        split
        · exact ht.suspend
        · split
          · refine .ite ht.suspend (.ite ht.suspend (.ite trivial ?_))
            split
            · exact ht.modCmd.withReds.putPieces.markAt
            · exact ht
          · exact .ite trivial (.ite ht.modCmd.putPieces.markAt ht)
    · trivial)
theorem State.Sound.execCollectiveExchange (k i : Nat) (peer : Peer) : Out.Sound (execCollectiveExchange k i peer s) :=
  h.occur (.read fun _ => .read fun _ => .ite trivial (by
    dsimp only
    split
    · exact .ite h.setColl.suspendColl h.setColl
    · exact .ite trivial (.ite h.setColl.suspendColl h.setColl)))
theorem State.Sound.execSourceFenced (k i : Nat) : Out.Sound (execSourceFenced k i s) :=
  h.occur (.read fun _ => .read fun _ => .ite trivial (by
    dsimp only
    split
    · exact h.modCtx
    · exact .ite trivial (State.Sound.modCtx (h.foldl fun _ _ hb => hb.postQ))))
theorem State.Sound.execUnreachableNack (k i : Nat) : Out.Sound (execUnreachableNack k i s) :=
  h.occur (.read fun _ => .read fun _ => .ite trivial h.suspend)
end

end Sys2Proof.Machine

namespace Sys2Proof.Machine
variable {s : State}
/-- A state carried beside something else. -/
theorem State.Sound.foldlPair {α β : Type} {f : β × State → α → β × State} {l : List α} {b : β} (h : s.Sound)
    (step : ∀ x a, x.2.Sound → (f x a).2.Sound) : (l.foldl f (b, s)).2.Sound := foldl_keeps (fun x : β × State => x.2.Sound) f l (b, s) h step

/-! LAUNCH. -/
theorem State.Sound.seat {p node : Nat} {group : Bool} {x : Seat} (h : s.Sound) : (s.seat p node group x).Sound :=
  h.rollCore.leaveGovernors.takeBanks.setCtx.addGrant.modCore
theorem State.Sound.launch {a : Nat} {flag : Fin 16} (h : s.Sound) : Res.Sound (s.launch a flag) := by
  unfold State.launch
  dsimp only
  split
  · trivial
  · split
    · trivial
    · trivial
    · next e =>
      have hs := h.forForm.locate.of_ok e
      refine .ite hs.writeStatus.postFlag (.read fun l => ?_)
      split
      · exact hs.writeStatus.postFlag
      · exact .ite hs.writeStatus.postFlag (.ite trivial (State.Sound.writeStatus
          (State.Sound.foldl hs fun _ _ hb => hb.seat)))
theorem State.Sound.execLaunch (x : FFlagM) (h : s.Sound) : Out.Sound (execLaunch x s) := h.runSlot fun _ ht => .ite trivial (.noSeg
  (.ite (State.Sound.holdSlot (.modOpen ht fun _ => ⟨rfl, rfl⟩)) (.read fun _ => ht.launch)))

/-! Contexts and nodes. -/
section
variable (h : s.Sound)
include h
theorem State.Sound.execBundleCommit (sigBad : Bool) : Out.Sound (execBundleCommit sigBad s) := by
  unfold Machine.execBundleCommit
  split
  · exact h.close.mirror
  · exact h
theorem State.Sound.execAsynchronousTrap (k : Nat) : Out.Sound (execAsynchronousTrap k s) := h.occur (by
  dsimp only
  split
  · trivial
  · exact .ite trivial (State.Sound.foldl h fun _ _ hb => by
      refine State.Sound.mirror (State.Sound.stepCore (State.Sound.modCtx ?_))
      split
      · exact .ite hb.modCtx.takeTrap hb.takeTrap
      · exact hb.takeTrap))
theorem State.Sound.execFairnessYield (c : Nat) : Out.Sound (execFairnessYield c s) :=
  h.occur (.read fun _ => .ite h.modCtx.leaveCore trivial)
theorem State.Sound.execWatchdogExpiry (k : Nat) : Out.Sound (execWatchdogExpiry k s) := h.occur (.ite h.modCtx.rouse trivial)
theorem State.Sound.execSleepEnd (k : Nat) : Out.Sound (execSleepEnd k s) := h.occur (.read fun _ => .ite h.ready trivial)
theorem State.Sound.landIf {k i : Nat} {long : Bool} : Opt.Sound (landIf k i long s) := .read fun _ => .ite h.landFlight trivial
theorem State.Sound.execExposedResultLand (k i : Nat) : Out.Sound (execExposedResultLand k i s) := h.occur h.landIf
theorem State.Sound.execLongSeriesOperationLand (k i : Nat) : Out.Sound (execLongSeriesOperationLand k i s) := h.occur h.landIf
theorem State.Sound.execMemoryAccessPerform (k i : Nat) (v : Evict) : Out.Sound (execMemoryAccessPerform k i v s) :=
  h.occur (.read fun a => .ite (by
    have hp : ((s.performIdx k i).padFlits k a.key a.n).Sound := h.performIdx.padFlits
    dsimp only
    split
    · exact hp
    · exact State.Sound.ite hp.fillLine hp
    · exact hp.corrected) trivial)
theorem State.Sound.execInstructionFetch (k a : Nat) : Out.Sound (execInstructionFetch k a s) := h.occur (.ite trivial (by
  dsimp only
  split
  · next e => exact h.modCore.fetchAt.of_ok e
  · trivial))
theorem State.Sound.withMsgs {l : List Msg} : State.Sound { s with msgs := l } := h
theorem State.Sound.execMessageDelivery (i : Nat) : Out.Sound (execMessageDelivery i s) := h.occur (.read fun m => by
  split
  · exact .ite (State.Sound.ite h.withMsgs.linkFlits h.withMsgs.linkFlits.modCtx) trivial
  · trivial)
theorem State.Sound.execRemotePostApply (i : Nat) : Out.Sound (execRemotePostApply i s) := h.occur (.read fun m => by
  split
  · exact .ite (State.Sound.ite h.withMsgs.linkFlits h.withMsgs.linkFlits.postFlag) trivial
  · trivial)
theorem State.Sound.execFencedNack (i : Nat) : Out.Sound (execFencedNack i s) :=
  h.occur (.read fun _ => .ite (State.Sound.ite h (State.Sound.pend h)) trivial)
theorem State.Sound.execRidgeArrival (w : Arriver) : Out.Sound (execRidgeArrival w s) := h.occur (by
  cases w with
  | here k => exact .ite (State.Sound.ite h.flushStores.modCtx.modNode.answer h.flushStores.modCtx.modNode) trivial
  | peer n r =>
    dsimp only
    split
    · exact .ite h.modNode trivial
    · exact .ite h.modNode trivial)
theorem State.Sound.release {k : Nat} : (s.release k).Sound := .ite h.modCtx.ready h.modCtx
theorem State.Sound.execRidgeRelease (n : Nat) : Out.Sound (execRidgeRelease n s) :=
  h.occur (.ite (State.Sound.modNode (h.foldl fun _ _ hb => hb.release)) trivial)
theorem State.Sound.execEndComplete (k : Nat) : Out.Sound (execEndComplete k s) :=
  h.occur (.ite (State.Sound.ite h.freeCtx.freeCtx h.freeCtx) trivial)
theorem State.Sound.execNodeEnd (w : Ender) : Out.Sound (execNodeEnd w s) := h.occur (by
  cases w with
  | here n => exact .ite (State.Sound.dropLines (h.foldl fun _ _ hb => hb.flushStores)).endNode trivial
  | peer n r done => exact .ite (State.Sound.ite h.modNode h.modNode.abortNode) trivial)
theorem State.Sound.execContextKill (k : Nat) : Out.Sound (execContextKill k s) :=
  h.occur (.read fun _ => .ite trivial (State.Sound.ite h.failOps.modCtx.freeCtx.freeCtx h.failOps.modCtx.freeCtx))
theorem State.Sound.discardStuck {k : Nat} {since : Cmd → Bool} : (s.discardStuck k since).Sound :=
  State.Sound.modCtx (h.foldl fun _ _ hb => hb.modCtx)
theorem State.Sound.execSegmentRollback (k : Nat) : Out.Sound (execSegmentRollback k s) := h.occur (.ite trivial (by
  dsimp only
  split
  · exact h.modCtx
  · refine .ite h.addScore.settleScores.modCtx.killCtx (.ite (.ite trivial h.discardStuck) ?_)
    exact State.Sound.mirror (State.Sound.stepCore (State.Sound.meter (State.Sound.modCtx
      (h.discardStuck.landAll.settleOwn.foldl fun _ _ hb => hb.putN))))))
/-- The stores of a segment that are translated again. -/
theorem State.Sound.relocateBuf {k base n : Nat} : (s.relocateBuf k base n).Sound := by
  unfold State.relocateBuf
  split
  · exact h
  · exact .ite h (State.Sound.modCtx (h.foldlPair fun _ _ hb => by
      split
      · exact hb
      · split
        · next e => exact hb.locate.of_ok e
        · exact hb))
theorem State.Sound.execTlbinvRemovalEnd (i : Nat) : Out.Sound (execTlbinvRemovalEnd i s) := h.occur (.read fun _ =>
  State.Sound.dropLines (State.Sound.foldl h fun _ _ hb => .ite hb.settleAll.flushStores.relocateBuf hb))
theorem State.Sound.execMigpullRepost (p page : Nat) : Out.Sound (execMigpullRepost p page s) :=
  h.occur (.read fun _ => .read fun _ => .ite h.postPull trivial)
theorem State.Sound.execMigrationHoldTimeout (p page : Nat) : Out.Sound (execMigrationHoldTimeout p page s) :=
  h.occur (.ite trivial (State.Sound.foldl h fun _ _ hb => hb.suspend))
end

/-! Context images. -/
theorem State.Sound.postLate {k : Nat} (h : s.Sound) : (s.postLate k).Sound := State.Sound.modCtx (h.foldl fun _ _ hb => hb.postQ)
theorem State.Sound.quiesce {k : Nat} (h : s.Sound) : (s.quiesce k).Sound := h.postLate.performAll.landAllFlights.closeSeg
theorem State.Sound.saveImage {k kind : Nat} (h : s.Sound) : Opt.Sound (s.saveImage k kind) := by
  unfold State.saveImage
  extract_lets c p nb size copies id control rest banks count head base put s1 s2 s3 s4
  have h1 : s1.Sound := h.writeAt.writeAt
  have h2 : s2.Sound := .ite h1 h1
  have h3 : s3.Sound := .ite h2 h2.modNode
  have h4 : s4.Sound := h3.freeCtx
  exact .ite trivial (State.Sound.ite h4.freeCtx h4)
theorem State.Sound.withNextNode {n : Nat} (h : s.Sound) : State.Sound { s with nextNode := n } := h
theorem State.Sound.loadImage {k part addr : Nat} (h : s.Sound) : Res.All State.Sound (s.loadImage k part addr) := by
  unfold State.loadImage
  refine .ite trivial (.ite trivial (.ite trivial (.ite trivial (.ite trivial (.ok ?_)))))
  refine State.Sound.modNode (State.Sound.withNextNode (State.Sound.modCore ?_))
  exact .ite (State.Sound.setCtx (State.Sound.takeBanks (State.Sound.setCtx (h.rollCore.leaveGovernors.takeBanks.foldl fun _ _ hb => hb.putBytes))))
    (State.Sound.setCtx (h.rollCore.leaveGovernors.takeBanks.foldl fun _ _ hb => hb.putBytes))

/-! Time sharing. -/
theorem State.Sound.askLoad {k addr part : Nat} (h : s.Sound) : (s.askLoad k addr part).Sound := h
theorem State.Sound.tryResume {n : Nat} (h : s.Sound) : (s.tryResume n).Sound :=
  .ite (State.Sound.modNode (h.foldl fun _ _ hb => hb.askLoad)) h
theorem State.Sound.dropLoads {n : Nat} (h : s.Sound) : (s.dropLoads n).Sound := h
theorem State.Sound.preempt {n : Nat} (h : s.Sound) : (s.preempt n).Sound :=
  .ite (h.dropLoads.modNode.foldl fun _ _ hb => hb.askSave) (h.dropLoads.modNode.foldl fun _ _ hb => hb.modCtx)
section
variable (h : s.Sound)
include h
theorem State.Sound.execEpilogueStop (k : Nat) : Out.Sound (execEpilogueStop k s) := h.occur (.ite trivial h.quiesce.modCtx.askSave)
theorem State.Sound.execDrainBoundExpiry (n : Nat) : Out.Sound (execDrainBoundExpiry n s) :=
  h.occur (.read fun _ => .ite trivial (.ite h.modNode (State.Sound.foldl h fun _ _ hb => hb.askSave)))
theorem State.Sound.execRestoreGateRelease (n : Nat) : Out.Sound (execRestoreGateRelease n s) := h.occur (.ite (by
  extract_lets held away leadOf leads s1 s2 s3
  have h1 : s1.Sound := h.foldl fun _ _ hb => hb.modCtx
  have h2 : s2.Sound := h1.foldl fun _ _ hb =>
    .ite hb.modCtx.modCtx.addGrant.refetch.modCtx.modCore hb.modCtx.modCtx.addGrant.refetch.modCtx
  exact State.Sound.ite h2.modNode.preempt h2.modNode) trivial)
theorem State.Sound.execBudgetOverrun (p : Nat) : Out.Sound (execBudgetOverrun p s) :=
  h.occur (.ite (State.Sound.foldl h fun _ _ hb => hb.preempt) trivial)
theorem State.Sound.execPartitionPeriodStart (p : Nat) : Out.Sound (execPartitionPeriodStart p s) :=
  h.occur (.ite (State.Sound.foldl (State.Sound.modPart (h.modPart.foldl fun _ _ hb => hb.modCtx)) fun _ _ hb => hb.modNode.tryResume) trivial)
theorem State.Sound.execEnergyWindowEnd (c : Nat) : Out.Sound (execEnergyWindowEnd c s) := h.occur (.ite h.rollEnergy trivial)
theorem State.Sound.execCoreGovernorWindowEnd (c : Nat) : Out.Sound (execCoreGovernorWindowEnd c s) := h.occur (.ite h.coreWindow trivial)
theorem State.Sound.execPlainGovernorWindowEnd (pl w : Nat) : Out.Sound (execPlainGovernorWindowEnd pl w s) :=
  h.occur (.ite h.plainWindow trivial)
end

end Sys2Proof.Machine

namespace Sys2Proof.Machine
variable {s : State}

/-- The state of a pair that a function gives. -/
theorem State.Sound.snd {α : Type} {x : α × State} {a : α} {t : State} (h : x.2.Sound) (e : x = (a, t)) : t.Sound := by
  subst e
  exact h

/-! Asynchronous privileged forms end. -/
theorem State.Sound.dropOp {i : Nat} (h : s.Sound) : (s.dropOp i).Sound := h
theorem State.Sound.setPart {p : Nat} {x : Part} (h : s.Sound) : (s.setPart p x).Sound := h
theorem State.Sound.withL2 {l : List L2Line} (h : s.Sound) : State.Sound { s with l2 := l } := h
theorem State.Sound.withOps {l : List SysOp} (h : s.Sound) : State.Sound { s with ops := l } := h
theorem State.Sound.withFlash {l : List (List Byte)} (h : s.Sound) : State.Sound { s with flash := l } := h
theorem State.Sound.wipe {key n : Nat} (h : s.Sound) : (s.wipe key n).Sound := h.zero.clearPoison
theorem State.Sound.writeVirt {k a fuel : Nat} {l : List Byte} (h : s.Sound) : Opt.Sound (s.writeVirt k a l fuel) := by
  induction fuel generalizing s a l with
  | zero => trivial
  | succ fuel ih =>
    unfold State.writeVirt
    refine .ite h ?_
    dsimp only
    split
    · next e => exact ih (State.Sound.writeAt (h.locate.of_ok e)).clearPoison
    · trivial
theorem State.Sound.sourceOf {src : Nat} (h : s.Sound) : (s.sourceOf src).2.Sound := by
  unfold State.sourceOf
  split
  · exact h
  · exact h.foldlPair (b := ([] : List Nat)) (f := fun a _ => (a.1 ++ [a.2.free.1], a.2.free.2)) (l := List.range 10) fun _ _ hb => hb
theorem State.Sound.create {p : Nat} {l : List Byte} (h : s.Sound) : (s.create p l).2.Sound := by
  unfold State.create
  extract_lets fl hbm carr ptt size root idle rd
  split
  · exact h.modPart
  · split
    · exact h.modPart
    · split
      · exact h.modPart
      · next entries _ =>
        have hs : State.Sound (entries.reverse.foldl (fun s x => s.putN (mkey 0 (hbm.1 + x.1)) 8 x.2) (s.putBytes (mkey 0 hbm.1) (s.getBytes (ptt + 64) size))) :=
          h.putBytes.foldl fun _ _ hb => hb.putN
        split
        · exact State.Sound.setPart hs.sourceOf
        · exact State.Sound.setPart hs
theorem State.Sound.emitUsage {p : Nat} {fin : Bool} (h : s.Sound) : (s.emitUsage p fin).Sound := h.modPart
theorem State.Sound.partPages {p va fuel : Nat} {l : List Byte} (h : s.Sound) : (s.partPages p va l fuel).Sound := by
  induction fuel generalizing s va l with
  | zero => exact h
  | succ fuel ih =>
    unfold State.partPages
    refine .ite h (ih ?_)
    split
    · next e => exact State.Sound.writeRuns (h.hostRuns.of_ok e)
    · exact h
theorem State.Sound.partWrite {p va : Nat} {l : List Byte} (h : s.Sound) : (s.partWrite p va l).Sound := h.partPages
theorem State.Sound.stopPart {p : Nat} (h : s.Sound) : (s.stopPart p).Sound := by
  unfold State.stopPart
  extract_lets x lost s1 s2 leaves a b s3 s4 s5
  have h4 : s4.Sound := h.modPart.dropLines.emitUsage.partWrite.partWrite
  have h5 : s5.Sound := h4
  exact h5.modPart
theorem State.Sound.destroy {p : Nat} (h : s.Sound) : (s.destroy p).Sound := by
  unfold State.destroy
  extract_lets x s1 s2 s3 s4
  have h1 : s1.Sound := h
  have h2 : s2.Sound := h1.foldl fun _ _ hb => hb.foldl fun _ _ hc => hc.wipe.modCore
  have h3 : s3.Sound := h2.foldl fun _ _ hb => hb.setCtx
  have h4 : s4.Sound := h3.wipe.wipe.wipe
  exact h4.setPart
theorem State.Sound.zeroMapped {p ty base n : Nat} (h : s.Sound) : (s.zeroMapped p ty base n).Sound := h.foldl fun _ _ hb => by
  dsimp only
  split
  · exact .ite (State.Sound.wipe (State.Sound.withL2 (State.Sound.putN hb.toHome))) hb
  · exact hb
theorem State.Sound.zeroL2 {p : Nat} (h : s.Sound) : (s.zeroL2 p).Sound := h.foldl fun _ _ hb => hb.dropLines.wipe
section
variable (h : s.Sound)
include h
theorem State.Sound.execCtxsaveDone (i : Nat) : Out.Sound (execCtxsaveDone i s) := h.occur (.read fun o => .ite trivial (State.Sound.ite h.dropOp.finishOp (by
  split
  · next e =>
    have ht : State.Sound _ := (State.Sound.saveImage (State.Sound.quiesce h.dropOp)).of_some e
    exact State.Sound.tryResume (.ite ht.finishOp.modNode ht.finishOp)
  · exact h.dropOp.modCtx.finishOp)))
theorem State.Sound.execCtxloadDone (i : Nat) : Out.Sound (execCtxloadDone i s) := h.occur (.read fun o => .ite trivial (by
  dsimp only
  split
  · next e => exact State.Sound.finishOp (h.dropOp.loadImage.of_ok e)
  · refine State.Sound.ite h.dropOp.finishOp ?_
    split
    · exact h.dropOp.finishOp.withOps.killNode
    · exact h.dropOp.finishOp))
theorem State.Sound.execPartitionCreateDone (i : Nat) : Out.Sound (execPartitionCreateDone i s) :=
  h.occur (.read fun o => .ite trivial (by
    split
    next e => exact State.Sound.finishOp (h.dropOp.create.snd e)))
theorem State.Sound.execUsageRecordEmit (p : Nat) : Out.Sound (execUsageRecordEmit p s) := h.occur (.ite h.emitUsage trivial)
theorem State.Sound.execRetirementRecord (i : Nat) : Out.Sound (execRetirementRecord i s) :=
  h.occur (.read fun _ => .ite trivial (State.Sound.ite h.dropOp.finishOp (State.Sound.finishOp (State.Sound.withFlash h.dropOp))))
theorem State.Sound.execSignedRecordDone (i : Nat) : Out.Sound (execSignedRecordDone i s) := h.occur (.read fun o => by
  extract_lets k
  split
  · extract_lets r
    clear_value r
    split
    · exact h.dropOp.finishOp
    · split
      · next e => exact State.Sound.finishOp (h.dropOp.writeVirt.of_some e)
      · exact h.dropOp.finishOp
  · trivial)
theorem State.Sound.execPartitionStopDone (i : Nat) : Out.Sound (execPartitionStopDone i s) :=
  h.occur (.read fun _ => .ite trivial h.dropOp.stopPart.finishOp)
theorem State.Sound.execPartitionDestroyDone (i : Nat) : Out.Sound (execPartitionDestroyDone i s) :=
  h.occur (.read fun _ => .ite trivial h.dropOp.destroy.finishOp)
theorem State.Sound.execZeroDone (i : Nat) : Out.Sound (execZeroDone i s) := h.occur (.read fun o => by
  split
  · refine State.Sound.finishOp ?_
    split
    · exact h.dropOp.zeroMapped
    · exact h.dropOp.zeroMapped
    · exact h.dropOp.foldl fun _ _ hb => hb.wipe.modCore
    · exact h.dropOp.zeroL2
  · trivial)
end

end Sys2Proof.Machine

namespace Sys2Proof.Machine
variable {s : State}

/-! Heartbeats, votes and fences. -/
theorem State.Sound.tell {x but within : Nat} {kind : Nat → LinkMsg} (h : s.Sound) : (s.tell x but kind within).Sound := h
theorem State.Sound.takeWire {c n : Nat} {kind : LinkMsg} (h : s.Sound) : Opt.Sound (s.takeWire c n kind) := by
  unfold State.takeWire
  cases s.wires.find? fun w => w.dst == c && w.dir.val == n && w.kind == kind with
  | none => trivial
  | some w => exact h
theorem State.Sound.modView {c n : Nat} {f : View → View} (h : s.Sound) : (s.modView c n f).Sound := h.modCore
theorem State.Sound.vote {c n x : Nat} (h : s.Sound) : (s.vote c n x).Sound := .ite h.fenceCore.tell h
theorem State.Sound.setAccused {x n : Nat} {on : Bool} (h : s.Sound) : (s.setAccused x n on).Sound := h.modCore
theorem State.Sound.accuse {c n x view : Nat} (h : s.Sound) : (s.accuse c n x view).Sound :=
  .ite h h.modView.setAccused.tell.addScore.vote.settleScores
theorem State.Sound.unaccuse {c n x : Nat} (h : s.Sound) : (s.unaccuse c n x).Sound := h.modView.setAccused.tell
theorem State.Sound.babble {c n x : Nat} (h : s.Sound) : (s.babble c n x).Sound := .ite h.modView.accuse h.modView
theorem State.Sound.probationBeat {x : Nat} (h : s.Sound) : (s.probationBeat x).Sound :=
  .ite (.ite h.modCore h.modCore.modCore.postCapacity) h
theorem State.Sound.hear {c n : Nat} {kind : LinkMsg} {f : State → State} (h : s.Sound) (hf : ∀ t : State, t.Sound → (f t).Sound) :
    Opt.Sound (s.hear c n kind f) := .ite trivial (h.takeWire.map fun _ ht => .ite ht (hf _ ht))
/-- A message taken, or none. -/
theorem Opt.Sound.getD {o : Option State} (ho : Opt.Sound o) (h : s.Sound) : (o.getD s).Sound := by
  cases o with
  | some t => exact ho
  | none => exact h

/-! Patrol. -/
theorem State.Sound.placeLease {u : Nat} (h : s.Sound) : (s.placeLease u).Sound := h
theorem State.Sound.withPorts {l : Vector Port 18} (h : s.Sound) : State.Sound { s with ports := l } := h
theorem State.Sound.returnUnit {u outcome : Nat} (h : s.Sound) : (s.returnUnit u outcome).Sound := by
  have hl : ∀ f, ((s.latchRates.modUnit u f).endLease u outcome).Sound := fun f => h.latchRates.modUnit.endLease
  have hp : ∀ (c : Prop) [Decidable c] f l,
      State.Sound (if c then { (s.latchRates.modUnit u f).endLease u outcome with ports := l } else (s.latchRates.modUnit u f).endLease u outcome) :=
    fun _ _ f _ => .ite (hl f).withPorts (hl f)
  exact .ite (hp _ _ _).setViews.postCapacity (hp _ _ _)

section
variable (h : s.Sound)
include h
theorem State.Sound.execHeartbeatSend (c : Nat) : Out.Sound (execHeartbeatSend c s) :=
  h.occur (.ite (.ite h.modCore h.tell.modCore) trivial)
theorem State.Sound.execHeartbeatReceive (c : Nat) (n : Fin 4) (b : BitVec 128) : Out.Sound (execHeartbeatReceive c n b s) :=
  h.occur (.read fun x => .ite trivial (.ite h.takeWire (by
    extract_lets dlv bad s1 s2 s3
    have h1 : s1.Sound := State.Sound.modView (h.takeWire.getD h)
    have h2 : s2.Sound := .ite h1.unaccuse h1
    have h3 : s3.Sound := .ite h2.babble h2
    exact h3.probationBeat)))
theorem State.Sound.execHeartbeatPeriodEnd (c : Nat) : Out.Sound (execHeartbeatPeriodEnd c s) :=
  h.occur (.ite trivial (State.Sound.foldl h.modCore fun _ _ hb => by
    split
    · exact hb
    · exact .ite hb.modView (.ite hb.modView.accuse (.ite hb.modView.unaccuse hb.modView))))
theorem State.Sound.execFlitWindowEnd (c : Nat) (n : Fin 4) (flits : Nat) : Out.Sound (execFlitWindowEnd c n flits s) :=
  h.occur (.read fun _ => .ite trivial (State.Sound.ite h.modView.modCore.babble h.modView.modCore))
theorem State.Sound.execAccusationReceive (c : Nat) (n : Fin 4) (w : Nat) : Out.Sound (execAccusationReceive c n w s) :=
  h.occur (.read fun _ => h.hear fun _ ht => ht.modView.vote)
theorem State.Sound.execWithdrawalReceive (c : Nat) (n : Fin 4) (w : Nat) : Out.Sound (execWithdrawalReceive c n w s) :=
  h.occur (h.hear fun _ ht => ht.modView)
theorem State.Sound.execFenceNoticeReceive (c : Nat) (n : Fin 4) : Out.Sound (execFenceNoticeReceive c n s) :=
  h.occur (.read fun _ => .ite h.vote (h.hear fun _ ht => ht.fenceCore))
theorem State.Sound.execReadmissionReceive (c : Nat) (n : Fin 4) : Out.Sound (execReadmissionReceive c n s) := h.occur (.read fun x => by
  have hw := h.takeWire (c := c) (n := n.val) (kind := .appeal)
  cases e : s.takeWire c n.val .appeal with
  | none => trivial
  | some t =>
    have ht : t.Sound := hw.of_some e
    exact .ite trivial (State.Sound.ite ht ht.modView))
theorem State.Sound.execBistResult (c : Nat) (pass : Bool) : Out.Sound (execBistResult c pass s) := h.occur (.read fun _ => .ite trivial (by
  extract_lets mine done s1 s2 s3 s4
  have hd : ∀ (t : State) r, t.Sound → (done t r).Sound := fun t r ht => ht.finishOps.withOps
  clear_value done
  have h1 : s1.Sound := h.modCore
  have h3 : s3.Sound := h1.wipe.foldl fun _ _ hb => hb.setCtx
  exact State.Sound.ite (hd _ _ h3.modCore.tell) (hd _ _ h1.addScore).settleScores))
theorem State.Sound.execLeasePlacement (u : Nat) : Out.Sound (execLeasePlacement u s) := h.occur (.ite h.placeLease trivial)
theorem State.Sound.execLeaseWithdrawal (w : Withdrawal) : Out.Sound (execLeaseWithdrawal w s) :=
  h.occur (.ite (State.Sound.ite h.latchRates.modUnit.setViews.modCore.postCapacity h.latchRates.modUnit) trivial)
theorem State.Sound.execPatternEnd (u : Nat) (pass last : Bool) : Out.Sound (execPatternEnd u pass last s) :=
  h.occur (.ite trivial (State.Sound.ite h.addScore.retireUnit (.ite h.returnUnit (.ite h.returnUnit h.modUnit))))
theorem State.Sound.execScoreHalving : Out.Sound (execScoreHalving s) := h.occur (.ite h.halve trivial)
end

end Sys2Proof.Machine

namespace Sys2Proof.Machine
variable {s : State}

/-! Power, heat and bring-up. -/
theorem State.Sound.withPower {p : Power} (h : s.Sound) : State.Sound { s with power := p } := h
theorem State.Sound.withStacks {l : Vector Thermal 8} (h : s.Sound) : State.Sound { s with hbmStacks := l } := h
theorem State.Sound.withBoot {b : BringUp} (h : s.Sound) : State.Sound { s with boot := b } := h
theorem State.Sound.withMeas {m : Vector (BitVec 512) 4} (h : s.Sound) : State.Sound { s with meas := m } := h
theorem State.Sound.withDies {p : Power} {d : Vector Bool 4} (h : s.Sound) : State.Sound { s with dies := d, power := p } := h
theorem State.Sound.budgetChange (h : s.Sound) : s.budgetChange.Sound := by
  unfold State.budgetChange
  extract_lets live det other cap d all left s1
  have h1 : s1.Sound := h.foldl fun _ _ hb => hb.modCtx
  exact .ite (h1.foldl fun _ _ hb => hb.killNode) h1
theorem State.Sound.safeState {code detail : Nat} (h : s.Sound) : (s.safeState code detail).Sound := h
theorem State.Sound.modPort {i : Fin 18} {f : Port → Port} (h : s.Sound) : (s.modPort i f).Sound := h
theorem State.Sound.modVf {p : Nat} {f : VfRegs → VfRegs} (h : s.Sound) : (s.modVf p f).Sound := h.modPart
section
variable (h : s.Sound)
include h
theorem State.Sound.execPowerToken (t : BitVec 192) : Out.Sound (execPowerToken t s) := h.occur (.ite trivial h.withPower.budgetChange)
theorem State.Sound.execTokenLeaseExpiry : Out.Sound (execTokenLeaseExpiry s) :=
  h.occur (.read fun _ => .ite h.withPower.budgetChange trivial)
theorem State.Sound.execHbmThermalMeasurement (st : Fin 8) (temp : Int) : Out.Sound (execHbmThermalMeasurement st temp s) :=
  h.occur (State.Sound.ite h.latchRates.withStacks.safeState h.latchRates.withStacks)
theorem State.Sound.execDieThermalMeasurement (pl : Fin 4) (temp : Int) : Out.Sound (execDieThermalMeasurement pl temp s) :=
  h.occur (.ite h.safeState (.ite h.withDies.budgetChange (.ite h.withDies.budgetChange h)))
theorem State.Sound.execPowerOnReset : Out.Sound (execPowerOnReset s) :=
  h.occur (f := _) (State.Sound.closed (Memory.wf_filter _ _ h.1) rfl)
theorem State.Sound.execSelfTest (code unit : Nat) (pass : Bool) (data : List (BitVec 8)) : Out.Sound (execSelfTest code unit pass data s) :=
  h.occur (.read fun x => by
    split
    refine .ite trivial ?_
    extract_lets fw ok next b s1 s2 b'
    have h1 : s1.Sound := .ite h h
    have h2 : s2.Sound := h1.latchRates
    clear_value s1 s2 ok
    split
    · exact State.Sound.ite h1 (State.Sound.settleScores (.ite h2.withBoot.addScore.modUnit.setViews h2.withBoot.addScore.modUnit))
    · exact State.Sound.ite (.ite h1.withMeas h1) h1.safeState)

/-! The host's links and the ports. -/
theorem State.Sound.execLinkTraining (l : Fin 2) (width : Nat) : Out.Sound (execLinkTraining l width s) := h.occur (.ite h trivial)
theorem State.Sound.execHostWrite (p off : Nat) (data : List (BitVec 8)) : Out.Sound (execHostWrite p off data s) :=
  h.occur (.ite trivial (.ite h.answer (.ite trivial (.ite h.modVf.answer h.modPart))))
theorem State.Sound.execHostRead (p off n : Nat) : Out.Sound (execHostRead p off n s) :=
  h.occur (.ite (.ite trivial (.ite h.answer h.answer)) (.ite trivial (.ite h.answer (.ite (.ite trivial h.answer) (.ite trivial (.ite h.answer (by
    split
    · next e => exact State.Sound.answer (h.hostRuns.of_ok e)
    · exact h.answer)))))))
theorem State.Sound.execWinbase (p : Nat) (v : BitVec 64) (ide : Bool) : Out.Sound (execWinbase p v ide s) :=
  h.occur (.ite trivial (.ite h.answer (.ite trivial h.modVf)))
theorem State.Sound.execStatus (p : Nat) (v : BitVec 32) : Out.Sound (execStatus p v s) := h.occur (.ite trivial (.ite h.answer h.modVf))
theorem State.Sound.execSpdmRequest (f : Nat) (msg : List (BitVec 8)) : Out.Sound (execSpdmRequest f msg s) := h.occur (.ite h.answer trivial)
theorem State.Sound.execTdispRequest (p : Nat) (want : Tdi) : Out.Sound (execTdispRequest p want s) := h.occur (.ite trivial (by
  split
  · exact h.modPart
  · exact h.modPart
  · exact h.modPart
  · trivial))
theorem State.Sound.execFlitReceive (port : Fin 18) (flit : BitVec 512) : Out.Sound (execFlitReceive port flit s) := by
  refine h.occur ?_
  extract_lets x v s1 all good s2 body
  have h1 : s1.Sound := .ite h.addScore.settleScores h
  have h2 : s2.Sound := h1.modPort
  generalize flitCrc v = crc
  exact .ite trivial (.ite h.modPort.answer (.ite h2 (State.Sound.ite h2.answer h2.answer)))
theorem State.Sound.execNakReceive (port : Fin 18) (lseq : BitVec 8) : Out.Sound (execNakReceive port lseq s) := h.occur (.ite trivial (by
  extract_lets again fails s1 s2
  have h1 : s1.Sound := h.modPort.answer
  exact .ite h1.addScore.settleScores (State.Sound.ite h1.modPort h1.modPort.placeLease)))
end

end Sys2Proof.Machine

namespace Sys2Proof.Machine
variable {s : State}

/-- What an instruction makes of a sound state is sound. -/
theorem State.Sound.exec (i : Instr) (h : s.Sound) : Out.Sound (exec i s) := by
  cases i with
  | nopF => exact h.execNopF
  | prep x => exact h.execPrep x
  | prepm x => exact h.execPrepm x
  | bt x => exact h.execBt x
  | j x => exact h.execJ x
  | call x => exact h.execCall x
  | ret x => exact h.execRet x
  | loop x => exact h.execLoop x
  | setlc x => exact h.execSetlc x
  | spl x => exact h.execSpl x
  | wait x => exact h.execWait x
  | post x => exact h.execPost x
  | postr x => exact h.execPostr x
  | tlw x => exact h.execTlw x
  | bbset x => exact h.execBbset x
  | bbwait x => exact h.execBbwait x
  | ridge x => exact h.execRidge x
  | seg x => exact h.execSeg x
  | rdv x => exact h.execRdv x
  | trap x => exact h.execTrap x
  | rtt x => exact h.execRtt x
  | endF x => exact h.execEndF x
  | yield x => exact h.execYield x
  | drain x => exact h.execDrain x
  | drainE x => exact h.execDrainE x
  | clkdiv x => exact h.execClkdiv x
  | launch x => exact h.execLaunch x
  | send x => exact h.execSend x
  | getmF x => exact h.execGetmF x
  | epi x => exact h.execEpi x
  | wdog x => exact h.execWdog x
  | hbeat x => exact h.execHbeat x
  | capq x => exact h.execCapq x
  | pitchq x => exact h.execPitchq x
  | sleep x => exact h.execSleep x
  | brk x => exact h.execBrk x
  | scalarNop => exact h.execScalarNop
  | add x => exact (h.alu2 .. : Out.Sound (execAdd x s))
  | sub x => exact (h.alu2 .. : Out.Sound (execSub x s))
  | addi x => exact h.execAddi x
  | movi x => exact h.execMovi x
  | movhi x => exact h.execMovhi x
  | mul x => exact (h.alu2 .. : Out.Sound (execMul x s))
  | mulh x => exact (h.alu2 .. : Out.Sound (execMulh x s))
  | mulhu x => exact (h.alu2 .. : Out.Sound (execMulhu x s))
  | div x => exact (h.aluDiv .. : Out.Sound (execDiv x s))
  | divu x => exact (h.aluDiv .. : Out.Sound (execDivu x s))
  | rem x => exact (h.aluDiv .. : Out.Sound (execRem x s))
  | remu x => exact (h.aluDiv .. : Out.Sound (execRemu x s))
  | and x => exact (h.alu2 .. : Out.Sound (execAnd x s))
  | or x => exact (h.alu2 .. : Out.Sound (execOr x s))
  | xor x => exact (h.alu2 .. : Out.Sound (execXor x s))
  | andn x => exact (h.alu2 .. : Out.Sound (execAndn x s))
  | not x => exact (h.alu1 .. : Out.Sound (execNot x s))
  | shl x => exact (h.alu2 .. : Out.Sound (execShl x s))
  | shr x => exact (h.alu2 .. : Out.Sound (execShr x s))
  | sar x => exact (h.alu2 .. : Out.Sound (execSar x s))
  | rot x => exact (h.alu2 .. : Out.Sound (execRot x s))
  | fsh x => exact (h.alu3 .. : Out.Sound (execFsh x s))
  | bfx x => exact (h.alu2 .. : Out.Sound (execBfx x s))
  | bfxs x => exact (h.alu2 .. : Out.Sound (execBfxs x s))
  | bfi x => exact h.execBfi x
  | clz x => exact (h.alu1 .. : Out.Sound (execClz x s))
  | ctz x => exact (h.alu1 .. : Out.Sound (execCtz x s))
  | popc x => exact (h.alu1 .. : Out.Sound (execPopc x s))
  | min x => exact (h.alu2 .. : Out.Sound (execMin x s))
  | max x => exact (h.alu2 .. : Out.Sound (execMax x s))
  | minu x => exact (h.alu2 .. : Out.Sound (execMinu x s))
  | maxu x => exact (h.alu2 .. : Out.Sound (execMaxu x s))
  | sel x => exact h.execSel x
  | cmpeq x => exact (h.cmp2 .. : Out.Sound (execCmpeq x s))
  | cmpne x => exact (h.cmp2 .. : Out.Sound (execCmpne x s))
  | cmplt x => exact (h.cmp2 .. : Out.Sound (execCmplt x s))
  | cmple x => exact (h.cmp2 .. : Out.Sound (execCmple x s))
  | cmpltu x => exact (h.cmp2 .. : Out.Sound (execCmpltu x s))
  | cmpleu x => exact (h.cmp2 .. : Out.Sound (execCmpleu x s))
  | cmpi x => exact h.execCmpi x
  | pand x => exact (h.pred2 .. : Out.Sound (execPand x s))
  | por x => exact (h.pred2 .. : Out.Sound (execPor x s))
  | pxor x => exact (h.pred2 .. : Out.Sound (execPxor x s))
  | pnot x => exact h.execPnot x
  | pmov x => exact h.execPmov x
  | fadd x => exact h.execFadd x
  | fsub x => exact h.execFsub x
  | fmul x => exact h.execFmul x
  | fma x => exact h.execFma x
  | fdiv x => exact h.execFdiv x
  | fsqrt x => exact h.execFsqrt x
  | fcvt x => exact h.execFcvt x
  | fcmp x => exact h.execFcmp x
  | fmin x => exact (h.fminmax .. : Out.Sound (execFmin x s))
  | fmax x => exact (h.fminmax .. : Out.Sound (execFmax x s))
  | ld x => exact (h.loadOp .. : Out.Sound (execLd x s))
  | lds x => exact (h.loadOp .. : Out.Sound (execLds x s))
  | st x => exact h.execSt x
  | ldl x => exact h.execLdl x
  | invl x => exact h.execInvl x
  | fll1 x => exact h.execFll1 x
  | aadd x => exact (h.atomicOp .. : Out.Sound (execAadd x s))
  | axchg x => exact (h.atomicOp .. : Out.Sound (execAxchg x s))
  | acas x => exact (h.atomicOp .. : Out.Sound (execAcas x s))
  | amin x => exact (h.atomicOp .. : Out.Sound (execAmin x s))
  | amax x => exact (h.atomicOp .. : Out.Sound (execAmax x s))
  | aand x => exact (h.atomicOp .. : Out.Sound (execAand x s))
  | aor x => exact (h.atomicOp .. : Out.Sound (execAor x s))
  | afadd x => exact (h.atomicOp .. : Out.Sound (execAfadd x s))
  | scalarGetm x => exact h.execScalarGetm x
  | scalarPutm x => exact h.execScalarPutm x
  | scalarXfer x => exact h.execScalarXfer x
  | mfs x => exact h.execMfs x
  | mts x => exact h.execMts x
  | tlbinvPage x => exact h.execTlbinvPage x
  | tlbinvRange x => exact h.execTlbinvRange x
  | tlbinvAll x => exact h.execTlbinvAll x
  | tlbsync x => exact h.execTlbsync x
  | ctxsave x => exact h.execCtxsave x
  | ctxload x => exact h.execCtxload x
  | ctxkill x => exact h.execCtxkill x
  | partsetCreate x => exact h.execPartsetCreate x
  | partsetUpdate x => exact h.execPartsetUpdate x
  | partsetStop x => exact h.execPartsetStop x
  | partsetDestroy x => exact h.execPartsetDestroy x
  | wayset x => exact h.execWayset x
  | zeroMem x => exact h.execZeroMem x
  | zeroBanks x => exact h.execZeroBanks x
  | zeroCarr x => exact h.execZeroCarr x
  | zeroL2 x => exact h.execZeroL2 x
  | lease x => exact h.execLease x
  | unlease x => exact h.execUnlease x
  | score x => exact h.execScore x
  | scoreAdd x => exact h.execScoreAdd x
  | retire x => exact h.execRetire x
  | retireForce x => exact h.execRetireForce x
  | fenceq x => exact h.execFenceq x
  | appeal x => exact h.execAppeal x
  | appealBar x => exact h.execAppealBar x
  | meter x => exact h.execMeter x
  | signqUsage x => exact h.execSignqUsage x
  | signqRetired x => exact h.execSignqRetired x
  | signqQuote x => exact h.execSignqQuote x
  | powqPkg x => exact h.execPowqPkg x
  | powqCore x => exact h.execPowqCore x
  | powqGrant x => exact h.execPowqGrant x
  | injOff x => exact h.execInjOff x
  | injOn x => exact h.execInjOn x
  | injPoison x => exact h.execInjPoison x
  | vectorNop u => exact h.execVectorNop u
  | vadd u x => exact (h.lanes2 .. : Out.Sound (execVadd u x s))
  | vsub u x => exact (h.lanes2 .. : Out.Sound (execVsub u x s))
  | vmul u x => exact (h.lanes2 .. : Out.Sound (execVmul u x s))
  | vfma u x => exact (h.lanes3 .. : Out.Sound (execVfma u x s))
  | vfms u x => exact (h.lanes3 .. : Out.Sound (execVfms u x s))
  | vmin u x => exact (h.lanes2 .. : Out.Sound (execVmin u x s))
  | vmax u x => exact (h.lanes2 .. : Out.Sound (execVmax u x s))
  | vabs u x => exact (h.lanes1 .. : Out.Sound (execVabs u x s))
  | vneg u x => exact (h.lanes1 .. : Out.Sound (execVneg u x s))
  | vrcp u x => exact (h.lanes1 .. : Out.Sound (execVrcp u x s))
  | vrsq u x => exact (h.lanes1 .. : Out.Sound (execVrsq u x s))
  | vexp2 u x => exact (h.lanes1 .. : Out.Sound (execVexp2 u x s))
  | vlog2 u x => exact (h.lanes1 .. : Out.Sound (execVlog2 u x s))
  | vdiv u x => exact (h.lanes2 .. : Out.Sound (execVdiv u x s))
  | vcmpeq u x => exact (h.vcmp .. : Out.Sound (execVcmpeq u x s))
  | vcmpne u x => exact (h.vcmp .. : Out.Sound (execVcmpne u x s))
  | vcmplt u x => exact (h.vcmp .. : Out.Sound (execVcmplt u x s))
  | vcmple u x => exact (h.vcmp .. : Out.Sound (execVcmple u x s))
  | vsel u x => exact h.execVsel u x
  | vand u x => exact (h.lanes2 .. : Out.Sound (execVand u x s))
  | vor u x => exact (h.lanes2 .. : Out.Sound (execVor u x s))
  | vxor u x => exact (h.lanes2 .. : Out.Sound (execVxor u x s))
  | vandn u x => exact (h.lanes2 .. : Out.Sound (execVandn u x s))
  | vshl u x => exact (h.lanes2 .. : Out.Sound (execVshl u x s))
  | vshr u x => exact (h.lanes2 .. : Out.Sound (execVshr u x s))
  | vsar u x => exact (h.lanes2 .. : Out.Sound (execVsar u x s))
  | vbfx u x => exact (h.lanes2 .. : Out.Sound (execVbfx u x s))
  | vbfi u x => exact (h.lanes3 .. : Out.Sound (execVbfi u x s))
  | vfsh u x => exact (h.lanes3 .. : Out.Sound (execVfsh u x s))
  | vpopc u x => exact (h.lanes1 .. : Out.Sound (execVpopc u x s))
  | vclz u x => exact (h.lanes1 .. : Out.Sound (execVclz u x s))
  | vcvt u x => exact h.execVcvt u x
  | vpack u x => exact h.execVpack u x
  | vunpack u x => exact h.execVunpack u x
  | vperm u x => exact h.execVperm u x
  | vbcast u x => exact h.execVbcast u x
  | vslide u x => exact h.execVslide u x
  | viota u x => exact h.execViota u x
  | viotaRand u x => exact h.execViotaRand u x
  | vredadd u x => exact (h.vreduce .. : Out.Sound (execVredadd u x s))
  | vredmax u x => exact (h.vreduce .. : Out.Sound (execVredmax u x s))
  | vscan u x => exact h.execVscan u x
  | vld u x => exact (h.vloadOp .. : Out.Sound (execVld u x s))
  | vst u x => exact (h.vstoreOp .. : Out.Sound (execVst u x s))
  | vlds u x => exact (h.vloadOp .. : Out.Sound (execVlds u x s))
  | vsts u x => exact (h.vstoreOp .. : Out.Sound (execVsts u x s))
  | vgath u x => exact (h.vloadOp .. : Out.Sound (execVgath u x s))
  | vscat u x => exact (h.vstoreOp .. : Out.Sound (execVscat u x s))
  | vtbl u x => exact h.execVtbl u x
  | vaadd u x => exact (h.vatomicOp .. : Out.Sound (execVaadd u x s))
  | vafadd u x => exact (h.vatomicOp .. : Out.Sound (execVafadd u x s))
  | vectorGetm u x => exact h.execVectorGetm u x
  | vectorPutm u x => exact h.execVectorPutm u x
  | vectorXfer u x => exact h.execVectorXfer u x
  | vmovs u x => exact (h.lanes1 .. : Out.Sound (execVmovs u x s))
  | vpmovToPredicate u x => exact h.execVpmovToPredicate u x
  | vpmovFromPredicate u x => exact h.execVpmovFromPredicate u x
  | vefclr u x => exact h.execVefclr u x
  | vefget u x => exact h.execVefget u x
  | vefput u x => exact h.execVefput u x
  | vfmtset u x => exact h.execVfmtset u x
  | xclr x => exact h.execXclr x
  | xseto x => exact h.execXseto x
  | xform x => exact h.execXform x
  | xm2m x => exact h.execXm2m x
  | xm2l x => exact h.execXm2l x
  | xl2l x => exact h.execXl2l x
  | xeval x => exact h.execXeval x
  | xadm x => exact h.execXadm x
  | xadd x => exact h.execXadd x
  | xld x => exact h.execXld x
  | xst x => exact h.execXst x
  | xnorm x => exact h.execXnorm x
  | xget x => exact h.execXget x
  | matrixNop => exact h.execMatrixNop
  | mdset x => exact h.execMdset x
  | mdget x => exact h.execMdget x
  | mldt x => exact (h.runCmd : Out.Sound (execMldt x s))
  | mstz x => exact (h.runCmd : Out.Sound (execMstz x s))
  | mstzTag x => exact (h.runCmd : Out.Sound (execMstzTag x s))
  | mma x => exact (h.runCmd : Out.Sound (execMma x s))
  | mmaz x => exact (h.runCmd : Out.Sound (execMmaz x s))
  | mnest x => exact (h.nestOp .. : Out.Sound (execMnest x s))
  | mnestz x => exact (h.nestOp .. : Out.Sound (execMnestz x s))
  | mzero x => exact (h.runCmd : Out.Sound (execMzero x s))
  | mtr x => exact (h.runCmd : Out.Sound (execMtr x s))
  | mrdz x => exact h.execMrdz x
  | mwm x => exact h.execMwm x
  | mchk x => exact (h.runCmd : Out.Sound (execMchk x s))
  | mchkz x => exact (h.runCmd : Out.Sound (execMchkz x s))
  | mres x => exact h.execMres x
  | mfix x => exact (h.runCmd : Out.Sound (execMfix x s))
  | mmir x => exact h.execMmir x
  | minj x => exact (h.runCmd : Out.Sound (execMinj x s))
  | mtag x => exact h.execMtag x
  | mcvt x => exact (h.runCmd : Out.Sound (execMcvt x s))
  | mbias x => exact (h.runCmd : Out.Sound (execMbias x s))
  | mactRelu x => exact (h.runCmd : Out.Sound (execMactRelu x s))
  | mactAbs x => exact (h.runCmd : Out.Sound (execMactAbs x s))
  | mactScale x => exact (h.runCmd : Out.Sound (execMactScale x s))
  | mpitch x => exact h.execMpitch x
  | matrixGetm x => exact h.execMatrixGetm x
  | matrixPutm x => exact h.execMatrixPutm x
  | matrixXfer x => exact h.execMatrixXfer x
  | copyNop e => exact h.execCopyNop e
  | cdsetImmediate e x => exact h.execCdsetImmediate e x
  | cdsetRegister e x => exact h.execCdsetRegister e x
  | cdget e x => exact h.execCdget e x
  | cpy e x => exact (h.runCmd : Out.Sound (execCpy e x s))
  | cpyb e x => exact (h.runCmd : Out.Sound (execCpyb e x s))
  | cpyt e x => exact (h.runCmd : Out.Sound (execCpyt e x s))
  | cgath e x => exact (h.runCmd : Out.Sound (execCgath e x s))
  | cscat e x => exact (h.runCmd : Out.Sound (execCscat e x s))
  | czero e x => exact (h.runCmd : Out.Sound (execCzero e x s))
  | cfill e x => exact (h.runCmd : Out.Sound (execCfill e x s))
  | cred e x => exact (h.runCmd : Out.Sound (execCred e x s))
  | cbcast e x => exact (h.runCmd : Out.Sound (execCbcast e x s))
  | callred e x => exact (h.runColl : Out.Sound (execCallred e x s))
  | cdigest e x => exact (h.runColl : Out.Sound (execCdigest e x s))
  | cpull e x => exact (h.runCmd : Out.Sound (execCpull e x s))
  | cpost e x => exact (h.runCmd : Out.Sound (execCpost e x s))
  | chostTo e x => exact (h.runCmd : Out.Sound (execChostTo e x s))
  | chostFrom e x => exact (h.runCmd : Out.Sound (execChostFrom e x s))
  | ccarrTo e x => exact (h.runCmd : Out.Sound (execCcarrTo e x s))
  | ccarrFrom e x => exact (h.runCmd : Out.Sound (execCcarrFrom e x s))
  | ctlr e x => exact h.execCtlr e x
  | cwait e x => exact (h.runCmd : Out.Sound (execCwait e x s))
  | cfence e x => exact (h.runCmd : Out.Sound (execCfence e x s))
  | cfenceA e x => exact h.execCfenceA e x
  | ccvt e x => exact (h.runCmd : Out.Sound (execCcvt e x s))
  | cpref e x => exact (h.runCmd : Out.Sound (execCpref e x s))
  | cswp e x => exact (h.runCmd : Out.Sound (execCswp e x s))
  | copyGetm e x => exact h.execCopyGetm e x
  | copyPutm e x => exact h.execCopyPutm e x
  | copyXfer e x => exact h.execCopyXfer e x
  | bundleCommit sigBad => exact h.execBundleCommit sigBad
  | asynchronousTrap k => exact h.execAsynchronousTrap k
  | fairnessYield c => exact h.execFairnessYield c
  | watchdogExpiry k => exact h.execWatchdogExpiry k
  | sleepEnd k => exact h.execSleepEnd k
  | exposedResultLand k j => exact h.execExposedResultLand k j
  | memoryAccessPerform k j v => exact h.execMemoryAccessPerform k j v
  | migpullRepost p page => exact h.execMigpullRepost p page
  | migrationHoldTimeout p page => exact h.execMigrationHoldTimeout p page
  | messageDelivery j => exact h.execMessageDelivery j
  | remotePostApply j => exact h.execRemotePostApply j
  | fencedNack j => exact h.execFencedNack j
  | ridgeArrival w => exact h.execRidgeArrival w
  | ridgeRelease n => exact h.execRidgeRelease n
  | endComplete k => exact h.execEndComplete k
  | nodeEnd w => exact h.execNodeEnd w
  | contextKill k => exact h.execContextKill k
  | restoreGateRelease n => exact h.execRestoreGateRelease n
  | commandStart k j => exact h.execCommandStart k j
  | ktileIntake k j bad => exact h.execKtileIntake k j bad
  | accumulatorRowFinal k j => exact h.execAccumulatorRowFinal k j
  | commandPerform k j => exact h.execCommandPerform k j
  | copyBatchLand k j b => exact h.execCopyBatchLand k j b
  | copyTimeout k j => exact h.execCopyTimeout k j
  | detContributionAccept k j => exact h.execDetContributionAccept k j
  | collectiveExchange k j peer => exact h.execCollectiveExchange k j peer
  | sourceFenced k j => exact h.execSourceFenced k j
  | segmentRollback k => exact h.execSegmentRollback k
  | budgetOverrun p => exact h.execBudgetOverrun p
  | partitionPeriodStart p => exact h.execPartitionPeriodStart p
  | epilogueStop k => exact h.execEpilogueStop k
  | drainBoundExpiry n => exact h.execDrainBoundExpiry n
  | coreGovernorWindowEnd c => exact h.execCoreGovernorWindowEnd c
  | plainGovernorWindowEnd pl w => exact h.execPlainGovernorWindowEnd pl w
  | energyWindowEnd c => exact h.execEnergyWindowEnd c
  | usageRecordEmit p => exact h.execUsageRecordEmit p
  | ctxsaveDone j => exact h.execCtxsaveDone j
  | ctxloadDone j => exact h.execCtxloadDone j
  | partitionCreateDone j => exact h.execPartitionCreateDone j
  | partitionStopDone j => exact h.execPartitionStopDone j
  | partitionDestroyDone j => exact h.execPartitionDestroyDone j
  | zeroDone j => exact h.execZeroDone j
  | retirementRecord j => exact h.execRetirementRecord j
  | signedRecordDone j => exact h.execSignedRecordDone j
  | heartbeatSend c => exact h.execHeartbeatSend c
  | heartbeatReceive c n b => exact h.execHeartbeatReceive c n b
  | heartbeatPeriodEnd c => exact h.execHeartbeatPeriodEnd c
  | flitWindowEnd c n flits => exact h.execFlitWindowEnd c n flits
  | accusationReceive c n w => exact h.execAccusationReceive c n w
  | withdrawalReceive c n w => exact h.execWithdrawalReceive c n w
  | fenceNoticeReceive c n => exact h.execFenceNoticeReceive c n
  | readmissionReceive c n => exact h.execReadmissionReceive c n
  | bistResult c pass => exact h.execBistResult c pass
  | leasePlacement u => exact h.execLeasePlacement u
  | leaseWithdrawal w => exact h.execLeaseWithdrawal w
  | patternEnd u pass last => exact h.execPatternEnd u pass last
  | scoreHalving => exact h.execScoreHalving
  | powerOnReset => exact h.execPowerOnReset
  | selfTest code unit pass data => exact h.execSelfTest code unit pass data
  | powerToken t => exact h.execPowerToken t
  | tokenLeaseExpiry => exact h.execTokenLeaseExpiry
  | hbmThermalMeasurement st temp => exact h.execHbmThermalMeasurement st temp
  | dieThermalMeasurement pl temp => exact h.execDieThermalMeasurement pl temp
  | hostWrite p off data => exact h.execHostWrite p off data
  | hostRead p off n => exact h.execHostRead p off n
  | winbase p v ide => exact h.execWinbase p v ide
  | status p v => exact h.execStatus p v
  | spdmRequest f msg => exact h.execSpdmRequest f msg
  | tdispRequest p want => exact h.execTdispRequest p want
  | flitReceive port flit => exact h.execFlitReceive port flit
  | nakReceive port lseq => exact h.execNakReceive port lseq
  | unreachableNack k j => exact h.execUnreachableNack k j
  | instructionFetch k a => exact h.execInstructionFetch k a
  | longSeriesOperationLand k j => exact h.execLongSeriesOperationLand k j
  | tlbinvRemovalEnd j => exact h.execTlbinvRemovalEnd j
  | linkTraining l width => exact h.execLinkTraining l width

end Sys2Proof.Machine

namespace Sys2Proof.Machine
variable {s : State}

/-! Issue of bundles. -/
theorem State.Sound.doInstr {i : Instr} (h : s.Sound) : (s.doInstr i).Sound := by
  unfold State.doInstr
  split
  · next e => exact (h.exec i).of_next e
  · exact h
theorem State.Sound.runSlots {b : Nat} {member : Bool} {l : List Nat} (h : s.Sound) : (s.runSlots b member l).Sound := by
  induction l generalizing s with
  | nil => exact h
  | cons i r ih =>
    refine ih (.ite h ?_)
    split
    · exact h.doInstr
    · exact h
theorem State.Sound.openRun {k b : Nat} {member : Bool} (h : s.Sound) : (s.openRun k b member).Sound := h.openBundle.runSlots
theorem State.Sound.meet {k : Nat} (h : s.Sound) : (s.meet k).2.Sound := by
  unfold State.meet
  split
  · exact h
  · exact h
  · exact h
  · next e =>
    have ht : State.Sound _ := h.fetch.of_ok e
    split
    · exact ht
    · exact ht
theorem State.Sound.lateAccess {k : Nat} {held : Option (Nat × Nat × Nat)} (h : s.Sound) : (s.lateAccess k held).Sound := by
  unfold State.lateAccess
  split
  · exact .ite h.modCtx h
  · exact h
theorem State.Sound.issueAlone {k : Nat} {sigBad : Bool} (h : s.Sound) : (s.issueAlone k sigBad).Sound := by
  unfold State.issueAlone
  dsimp only
  split
  · next e => exact (State.Sound.trapBundle (h.meet.snd e)).mirror
  · next e => exact (State.Sound.trapBundle (h.meet.snd e)).mirror
  · next e => exact State.Sound.stall (h.meet.snd e)
  · next e => exact (State.Sound.trapBundle (h.meet.snd e)).mirror
  · next e => exact (State.Sound.openRun (h.meet.snd e)).doInstr.lateAccess

/-! Courses. -/
theorem State.Sound.followLead {lead : Open} {f : FlowRegs} {k : Nat} (h : s.Sound) : (s.followLead lead f k).Sound := h.modCtx
theorem State.Sound.withJump {l : Open} (h : s.Sound) :
    State.Sound { s with opened := s.opened.map fun o => { o with jump := l.jump, skip := l.skip, clk := l.clk } } :=
  h.mapOpened _ rfl rfl fun _ => ⟨rfl, rfl⟩
theorem State.Sound.blank {k : Nat} (h : s.Sound) : (Open.blank k s.toWorld).Sound := ⟨h.1, h.1⟩
/-- The bundle that is open, or the one of no-ops. -/
theorem State.Sound.openGetD {o : Open} (h : s.Sound) (ho : o.Sound) : (s.opened.getD o).Sound := by
  cases e : s.opened with
  | none => exact ho
  | some p => exact h.openOf e
theorem State.Sound.memberRun {b k : Nat} {led : Option (Open × FlowRegs)} (h : s.Sound) :
    (s.memberRun b k led).1.Sound ∧ (s.memberRun b k led).2.Sound := by
  have ht : (s.memberRun b k led).2.Sound := by
    cases led with
    | some x => exact h.openRun.withJump.followLead
    | none => exact h.openRun
  exact ⟨ht.openGetD h.blank, ht⟩
/-- What the members met, and the state. -/
theorem State.Sound.courseRun {b : Nat} {led : Option (Open × FlowRegs)} {l : List Nat} (h : s.Sound) :
    (∀ x ∈ (s.courseRun b led l).1, x.2.Sound) ∧ (s.courseRun b led l).2.Sound := by
  induction l generalizing s led with
  | nil => exact ⟨by simp [State.courseRun], h⟩
  | cons k r ih =>
    obtain ⟨ho, ht⟩ := h.memberRun (b := b) (k := k) (led := led)
    have hu : State.Sound (if (s.memberRun b k led).1.verdict = .commit then (s.memberRun b k led).2.doInstr (.bundleCommit false) else s) :=
      .ite ht.doInstr h
    obtain ⟨hl, hs⟩ := ih (led := some (led.getD ((s.memberRun b k led).1, ((s.memberRun b k led).2.ctx k).regs.flow))) hu
    exact ⟨fun x hx => (List.mem_cons.mp hx).elim (fun e => e ▸ ho) (hl x), hs⟩
theorem State.Sound.courseTraps {own : List (Nat × Raise × BitVec 8)} {all : List Nat} (h : s.Sound) : (s.courseTraps own all).Sound :=
  h.foldl fun _ _ hb => by
    split
    · exact hb.trapBundle.mirror
    · exact hb.takeTrap.stepCore.mirror
theorem State.Sound.issueCourse {lead : Nat} {bad : Option Nat} (h : s.Sound) : (s.issueCourse lead bad).Sound := by
  unfold State.issueCourse
  dsimp only
  split
  · next e => exact State.Sound.courseTraps (h.meet.snd e)
  · next e => exact State.Sound.courseTraps (h.meet.snd e)
  · next e => exact State.Sound.stall (h.meet.snd e)
  · next e => exact State.Sound.courseTraps (h.meet.snd e)
  · next b t e =>
    have ht : t.Sound := h.meet.snd e
    obtain ⟨ho, hu⟩ := ht.courseRun (b := b) (led := none) (l := s.course lead)
    refine .ite ?_ (.ite (ht.foldl fun _ _ hb => hb.block.mirror) (.ite (ht.foldl fun _ _ hb => hb.stall).stepCore
      (.ite ht.courseTraps (ht.foldl fun _ _ hb => hb.haltCtx.mirror))))
    split
    · next x hx => exact (State.Sound.mismatch (ho x (List.mem_of_find?_eq_some hx))).stepCore
    · exact hu.foldl fun _ _ hb => hb.lateAccess

/-! What a core does at its edge. -/
theorem State.Sound.atBoundary {k : Nat} {bad : Option Nat} (h : s.Sound) : (s.atBoundary k bad).Sound := by
  have hp : (s.postLate k).Sound := h.postLate
  unfold State.atBoundary
  dsimp only
  refine .ite hp.doInstr (.ite hp.doInstr.stepCore (.ite hp.stepCore (.ite hp.doInstr ?_)))
  split
  · exact hp.foldl fun _ _ hb => hb.modCtx.takeTrap.stepCore.mirror
  · exact .ite hp.issueCourse hp.issueAlone
theorem State.Sound.issueCtx {k : Nat} {bad : Option Nat} (h : s.Sound) : (s.issueCtx k bad).Sound := by
  unfold State.issueCtx
  extract_lets first async dog all s1
  have h1 : s1.Sound := h.foldl fun _ _ hb => hb.modCtx.modCore
  refine .ite h.atBoundary (.ite h.stepCore ?_)
  split
  · exact h1.atBoundary.stepCore
  · exact h1.atBoundary
theorem State.Sound.energyStall {core : Nat} (h : s.Sound) : (s.energyStall core).Sound :=
  h.modCore.foldl fun _ _ hb => hb.foldl fun _ _ hc => hc.modCtx
theorem State.Sound.wakeCore {core : Nat} (h : s.Sound) : (s.wakeCore core).Sound := .ite h (h.foldl fun _ _ hb => hb.ready)
theorem State.Sound.issueCore {core : Nat} {sigBad : Bool} (h : s.Sound) : (s.issueCore core sigBad).Sound := by
  unfold State.issueCore
  refine .ite h (.ite h.modCore ?_)
  split
  · exact .ite h.energyStall h.energyStall.modCore
  · extract_lets s1 s2
    have h1 : s1.Sound := h.wakeCore.foldl fun _ _ hb => hb.landDue
    have h2 : s2.Sound := by
      unfold s2
      split
      · exact .ite h1.doInstr h1
      · exact h1
    refine .ite h2 ?_
    split
    · split
      · exact .ite h2.issueCtx h2
      · exact h2
    · exact .ite h2.issueCtx (.ite h2.modCtx.modCore.stepCore h2.modCtx.modCore.issueCtx)

/-! Time passes. -/
theorem State.Sound.firstDue {l : List (Nat × Instr)} (h : s.Sound) : Opt.Sound (firstDue s l) := by
  induction l with
  | nil => trivial
  | cons x r ih =>
    unfold Machine.firstDue
    refine .ite ?_ ih
    split
    · next e => exact .ite ih ((h.exec x.2).of_next e)
    · exact ih
theorem State.Sound.meterCore {t c : Nat} (h : s.Sound) : (s.meterCore t c).Sound :=
  .ite h (h.foldl fun _ _ hb => .ite hb.meter.meter hb.meter.meter)
theorem State.Sound.chargePart {t p : Nat} (h : s.Sound) : (s.chargePart t p).Sound := .ite h h.modPart
theorem State.Sound.withNow {t : Nat} (h : s.Sound) : State.Sound { s with now := t } := h
theorem State.Sound.withAgenda {l : List Move} (h : s.Sound) : State.Sound { s with agenda := l } := h
theorem State.Sound.advance {t : Nat} (h : s.Sound) : (s.advance t).Sound := by
  refine .ite h (State.Sound.withNow (State.Sound.foldl (State.Sound.foldl h fun b c hb => ?_) fun _ _ hb => hb.chargePart))
  split
  · exact .ite hb.meterCore.beginRows.applyClk.withNow.meterCore.withNow.beginRows hb.meterCore.beginRows
  · exact hb.meterCore.beginRows
theorem State.Sound.waitFor {n : Nat} {rest : List Move} (h : s.Sound) : (s.waitFor n rest).Sound := by
  unfold State.waitFor
  dsimp only
  split
  · exact h.issueCore
  · exact h.advance.withAgenda
theorem State.Sound.idle (h : s.Sound) : s.idle.Sound := by
  unfold State.idle
  dsimp only
  split
  · exact h.issueCore
  · exact h.advance
/-- A step keeps a state sound. -/
theorem State.Sound.step (h : s.Sound) : Out.Sound (step s) := by
  unfold Machine.step
  split
  · next e => exact h.firstDue.of_some e
  · split
    · exact h.withAgenda.exec _
    · split
      · next e => exact h.firstDue.of_some e
      · split
        · exact h.withAgenda.issueCore
        · exact h.waitFor
        · exact h.idle

/-- Settles O7: each operation that a step is made of keeps the canonical form of the memory and of what an open bundle goes back to. -/
theorem stepKeepsMemory : Obligations.StepKeepsMemory := fun _ _ h e => h.step.of_next e

end Sys2Proof.Machine

namespace Sys2Proof.Machine

/-!
PROOFS. O11: what is written is what is read. A result with no other of its register in flight is written at once or stands last in the list of
results in flight; those before it leave its register, so it lands whole.
-/

/-! Memory: what is written is what is read. -/
/-- A write of many bytes leaves every other byte. -/
theorem Memory.get_putN_ne (m : Memory) (a n v b : Nat) (h : m.wf = true) (hb : b < a ∨ a + n ≤ b) : (m.putN a n v).get b = m.get b := by
  induction n generalizing m a v with
  | zero => rfl
  | succ n ih =>
    calc ((m.put a (BitVec.ofNat 8 v)).putN (a + 1) n (v / 256)).get b
        = (m.put a (BitVec.ofNat 8 v)).get b := ih _ _ _ (Memory.wf_put _ _ _ h) (by omega)
      _ = m.get b := Memory.get_put_ne m a b _ h (by omega)
/-- Bytes just written read as they were written. -/
theorem Memory.getN_putN (m : Memory) (a n v : Nat) (h : m.wf = true) : (m.putN a n v).getN a n = v % 2 ^ (8 * n) := by
  induction n generalizing m a v with
  | zero => simp [Memory.getN, Nat.mod_one]
  | succ n ih =>
    have hm := Memory.wf_put m a (BitVec.ofNat 8 v) h
    have first : ((m.put a (BitVec.ofNat 8 v)).putN (a + 1) n (v / 256)).get a = BitVec.ofNat 8 v := by
      rw [Memory.get_putN_ne _ _ _ _ _ hm (by omega), Memory.get_put_same m a _ h]
    have width : 2 ^ (8 * (n + 1)) = 256 * 2 ^ (8 * n) := by rw [Nat.mul_succ, Nat.pow_add, Nat.mul_comm]
    simp only [Memory.getN, Memory.putN, first, ih _ _ _ hm, BitVec.toNat_ofNat, width]
    exact (Nat.mod_mul ..).symm

/-! Registers: values within their width. -/
theorem DataRegs.get_lt (d : DataRegs) (l : Loc) : d.get l < 2 ^ locBits l := by
  cases l with
  | p i =>
    by_cases hi : i.val = 0
    · simp [DataRegs.get, hi, locBits]
    · simpa [DataRegs.get, hi, locBits] using (d.p[i]).isLt
  | cd e i =>
    cases e with
    | c => simpa only [DataRegs.get, locBits] using (d.cd[i]).isLt
    | d => simpa only [DataRegs.get, locBits] using (d.dd[i]).isLt
  | s i => simpa only [DataRegs.get, locBits] using (d.s[i]).isLt
  | sn i => simpa only [DataRegs.get, locBits] using (d.sn[i]).isLt
  | v u i => simpa only [DataRegs.get, locBits] using ((d.unit u).r[i]).isLt
  | vn u i => simpa only [DataRegs.get, locBits] using ((d.unit u).n[i]).isLt
  | ve u i => simpa only [DataRegs.get, locBits] using ((d.unit u).e[i]).isLt
  | m i => simpa only [DataRegs.get, locBits] using (d.m[i]).isLt
  | x i => simpa only [DataRegs.get, locBits] using (d.x[i]).isLt
  | md i => simpa only [DataRegs.get, locBits] using (d.md[i]).isLt
theorem mergeBits_lt (old v mask w : Nat) (ho : old < 2 ^ w) (hv : v < 2 ^ w) : mergeBits old v mask < 2 ^ w :=
  Nat.or_lt_two_pow (Nat.xor_lt_two_pow ho (Nat.lt_of_le_of_lt Nat.and_le_left ho)) (Nat.lt_of_le_of_lt Nat.and_le_left hv)
/-- A merge is read back. -/
theorem DataRegs.get_merge_same (d : DataRegs) (l : Loc) (v mask : Nat) (hl : l.isP0 = false) (hv : v < 2 ^ locBits l) :
    (d.merge l v mask).get l = mergeBits (d.get l) v mask :=
  (DataRegs.get_set_same d l _ hl).trans (Nat.mod_eq_of_lt (mergeBits_lt _ _ _ _ (d.get_lt l) hv))

/-! Results land. -/
section
variable (k : Nat)
theorem State.dat_writeNow (s : State) (l : Loc) (v mask : Nat) : ((s.writeNow k l v mask).ctx k).regs.dat = (s.ctx k).regs.dat.merge l v mask := by
  simp [State.writeNow, Ctx.modDat]
theorem State.flights_writeNow (s : State) (l : Loc) (v mask : Nat) : ((s.writeNow k l v mask).ctx k).flights = (s.ctx k).flights := by
  simp [State.writeNow, Ctx.modDat]
/-- The first result in flight lands: it leaves the list, no other register changes, and of the only one every bit lands. -/
theorem State.landFlight_head (s : State) (f : Flight) (rest : List Flight) (h : (s.ctx k).flights = f :: rest) :
    ((s.landFlight k 0).ctx k).flights = rest ∧
    (∀ l, f.loc ≠ l → ((s.landFlight k 0).ctx k).regs.dat.get l = (s.ctx k).regs.dat.get l) ∧
    (rest = [] → ((s.landFlight k 0).ctx k).regs.dat = (s.ctx k).regs.dat.merge f.loc f.val f.mask) := by
  unfold State.landFlight
  simp only [h, List.getElem?_cons_zero, List.eraseIdx_cons_zero]
  generalize e : (if (s.ctx k).exact = true then 0 else
    List.foldl (fun m g => if g.loc = f.loc then m ||| (g.mask &&& f.mask) else m) 0 rest) = beyond
  have alone : rest = [] → beyond = 0 := by
    rintro rfl
    simpa using e.symm
  split
  next hb =>
    refine ⟨by rw [State.flights_writeNow, State.ctx_setCtx_same], fun l hl => ?_, fun hr => ?_⟩
    · rw [State.dat_writeNow, State.ctx_setCtx_same, DataRegs.get_merge_ne _ _ _ _ _ hl]
    · rw [State.dat_writeNow, State.ctx_setCtx_same, hb, Nat.and_zero, Nat.xor_zero]
  next hb =>
    refine ⟨by rw [State.flights_writeNow, State.ctx_free, State.flights_writeNow, State.ctx_setCtx_same], fun l hl => ?_, fun hr => ?_⟩
    · rw [State.dat_writeNow, State.ctx_free, DataRegs.get_merge_ne _ _ _ _ _ hl, State.dat_writeNow, State.ctx_setCtx_same, DataRegs.get_merge_ne _ _ _ _ _ hl]
    · exact absurd (alone hr) hb
/-- Results of other registers leave a register as it is. -/
theorem State.landList_other (fs : List Flight) (s : State) (l : Loc) (h : (s.ctx k).flights = fs) (hl : ∀ f ∈ fs, f.loc ≠ l) :
    ((fs.foldl (fun s _ => s.landFlight k 0) s).ctx k).regs.dat.get l = (s.ctx k).regs.dat.get l := by
  induction fs generalizing s with
  | nil => rfl
  | cons f rest ih =>
    obtain ⟨hr, ho, -⟩ := State.landFlight_head k s f rest h
    exact (ih _ hr fun g hg => hl g (List.mem_cons_of_mem _ hg)).trans (ho l (hl f List.mem_cons_self))
/-- The last result in flight, and the only one of its register, lands whole. -/
theorem State.landList_last (fs : List Flight) (f : Flight) (s : State) (h : (s.ctx k).flights = fs ++ [f]) (hl : ∀ g ∈ fs, g.loc ≠ f.loc)
    (hp : f.loc.isP0 = false) (hv : f.val < 2 ^ locBits f.loc) :
    (((fs ++ [f]).foldl (fun s _ => s.landFlight k 0) s).ctx k).regs.dat.get f.loc = mergeBits ((s.ctx k).regs.dat.get f.loc) f.val f.mask := by
  induction fs generalizing s with
  | nil =>
    obtain ⟨-, -, hm⟩ := State.landFlight_head k s f [] h
    exact (congrArg (DataRegs.get · f.loc) (hm rfl)).trans (DataRegs.get_merge_same _ _ _ _ hp hv)
  | cons g rest ih =>
    obtain ⟨hr, ho, -⟩ := State.landFlight_head k s g (rest ++ [f]) h
    rw [← ho f.loc (hl g List.mem_cons_self)]
    exact ih _ hr fun g hg => hl g (List.mem_cons_of_mem _ hg)
end

/-- A register without a result in flight is pending in no bit. -/
theorem Ctx.pendingOn_of_other (c : Ctx) (l : Loc) (mask : Nat) (h : ∀ f ∈ c.flights, f.loc ≠ l) : c.pendingOn l mask = false := by
  simp only [Ctx.pendingOn, List.any_eq_false, Bool.and_eq_true, decide_eq_true_eq]
  exact fun f hf e => h f hf e.1
/-- A result whose register has no other in flight is written at once or goes in flight. -/
theorem State.result_alone (s : State) (k : Nat) (l : Loc) (v mask : Nat) (cls : Fin 5) (L : Nat) (lock long : Bool)
    (hp : l.isP0 = false) (h : ∀ f ∈ (s.ctx k).flights, f.loc ≠ l) :
    s.result k l v mask cls L lock long = s.writeNow k l v mask ∨
    ∃ due, s.result k l v mask cls L lock long = s.modCtx k fun c => { c with flights := c.flights ++ [⟨l, v, mask, cls, due, lock, long⟩] } := by
  simp only [State.result, State.resultBy, hp, Ctx.pendingOn_of_other _ l mask h]
  split
  · contradiction
  · split
    · exact .inl rfl
    · exact .inr ⟨_, rfl⟩
/-- A result that is landed stands in its register. -/
theorem State.get_landAll_result (s t : State) (k : Nat) (l : Loc) (v mask : Nat) (cls : Fin 5) (L : Nat) (lock long : Bool)
    (hp : l.isP0 = false) (hv : v < 2 ^ locBits l) (h : ∀ f ∈ (s.ctx k).flights, f.loc ≠ l)
    (ht : t.ctx k = (s.result k l v mask cls L lock long).ctx k) :
    ((t.landAllFlights k).ctx k).regs.dat.get l = mergeBits ((s.ctx k).regs.dat.get l) v mask := by
  unfold State.landAllFlights
  rcases State.result_alone s k l v mask cls L lock long hp h with e | ⟨due, e⟩
  · rw [e] at ht
    have hf : (t.ctx k).flights = (s.ctx k).flights := by rw [ht, State.flights_writeNow]
    rw [hf, State.landList_other k _ t l hf h, ht, State.dat_writeNow, DataRegs.get_merge_same _ _ _ _ hp hv]
  · rw [e, State.ctx_modCtx_same] at ht
    have hf : (t.ctx k).flights = (s.ctx k).flights ++ [⟨l, v, mask, cls, due, lock, long⟩] := by rw [ht]
    have hd : (t.ctx k).regs = (s.ctx k).regs := by rw [ht]
    rw [hf, ← hd]
    exact State.landList_last k _ _ t hf h hp hv

/-- Settles O11: bytes by induction on their number; a result by the order in which the results in flight land, its own the last. -/
theorem writesHold : Obligations.WritesHold := by
  refine ⟨⟨Memory.getN_putN, Memory.get_putN_ne, Memory.wf_putN⟩, fun s t l v mask L cls hp hv h e => ?_, fun s t v mask L cls e => ?_⟩
  · obtain ⟨hn, -⟩ | ⟨m, hm, -, rfl⟩ := State.wr_cases s t _ v mask cls L e
    · cases hn
    · cases hm
      exact State.get_landAll_result s _ s.me l v mask cls L false false hp hv h (State.note_ctx ..)
  · obtain ⟨hn, -⟩ | ⟨m, hm, -, rfl⟩ := State.wr_cases s t _ v mask cls L e
    · cases hn
    · cases hm
      rw [State.note_ctx]
      rfl

end Sys2Proof.Machine

namespace Sys2Proof.Machine

/-!
PROOFS. What O16, O18, O36 and O37 share, first the operations of the model on numbers as operations on words of w bits:
toSigned is `BitVec.toInt`, ofSigned `BitVec.ofInt`, sext `BitVec.signExtend`, and the word of what an operation gives is the operation of the words.
-/

/-! Numbers and words of w bits. -/
/-- The word of a number that is a word's. -/
theorem ofNat_of_toNat {w n : Nat} {v : BitVec w} (h : v.toNat = n) : BitVec.ofNat w n = v := by
  rw [← h, BitVec.ofNat_toNat, BitVec.setWidth_eq]
theorem toSigned_eq_toInt (w n : Nat) : toSigned w n = (BitVec.ofNat w n).toInt := by
  cases w with
  | zero => simp [toSigned, Nat.mod_one, BitVec.of_length_zero]
  | succ w =>
    have half : n % 2 ^ (w + 1) < 2 ^ w ↔ 2 * (n % 2 ^ (w + 1)) < 2 ^ (w + 1) := by rw [Nat.pow_succ]; omega
    simp [toSigned, BitVec.toInt_eq_toNat_cond, half]
theorem toSigned_toNat {w : Nat} (a : BitVec w) : toSigned w a.toNat = a.toInt := by
  rw [toSigned_eq_toInt, ofNat_of_toNat rfl]
theorem ofSigned_eq_toNat (w : Nat) (i : Int) : ofSigned w i = (BitVec.ofInt w i).toNat := by
  simp [ofSigned, BitVec.toNat_ofInt]
theorem ofNat_ofSigned (w : Nat) (i : Int) : BitVec.ofNat w (ofSigned w i) = BitVec.ofInt w i :=
  ofNat_of_toNat (ofSigned_eq_toNat w i).symm
theorem sext_eq_signExtend (w v n : Nat) : sext w v n = ((BitVec.ofNat w v).signExtend n).toNat := by
  rw [sext, ofSigned_eq_toNat, toSigned_eq_toInt, BitVec.signExtend]
theorem ofNat_sext (w v n : Nat) : BitVec.ofNat n (sext w v n) = (BitVec.ofNat w v).signExtend n :=
  ofNat_of_toNat (sext_eq_signExtend w v n).symm
theorem widenW_eq_wide (w : Bool) (n : Nat) : widenW w n = Claims.wide (BitVec.ofNat (wBits w) n) := by
  cases w with
  | false => exact sext_eq_signExtend 32 n 64
  | true => simp [widenW, Claims.wide, wBits]
theorem setWidth_signExtend {w m n : Nat} (a : BitVec w) (h : n ≤ m) : (a.signExtend m).setWidth n = a.signExtend n := by
  ext k hk
  have : k < m := by omega
  simp [BitVec.getElem_signExtend, this]
theorem signExtend_signExtend {w m n : Nat} (a : BitVec w) (h : w ≤ m) : (a.signExtend m).signExtend n = a.signExtend n := by
  rw [BitVec.signExtend, BitVec.toInt_signExtend_of_le h, BitVec.signExtend]
theorem toNat_append_ofNat (i : BitVec 16) (d : Nat) : (i ++ BitVec.ofNat 16 d).toNat = i.toNat * 65536 + d % 65536 := by
  rw [BitVec.toNat_append, ← Nat.shiftLeft_add_eq_or_of_lt (BitVec.isLt _), Nat.shiftLeft_eq, BitVec.toNat_ofNat]
theorem toInt_append_ofNat (i : BitVec 16) (d : Nat) : (i ++ BitVec.ofNat 16 d).toInt = i.toInt * 65536 + (d % 65536 : Nat) := by
  have := i.isLt
  rw [BitVec.toInt_eq_toNat_cond, BitVec.toInt_eq_toNat_cond, toNat_append_ofNat]
  split <;> split <;> omega
theorem ofNat_bitsOf (a p l : Nat) : BitVec.ofNat l (bitsOf a p l) = BitVec.ofNat l (a / 2 ^ p) := by
  apply BitVec.eq_of_toNat_eq; simp [bitsOf]
theorem bitsOf_toNat {w : Nat} (a : BitVec w) (lo n : Nat) : bitsOf a.toNat lo n = (a.extractLsb' lo n).toNat := by
  rw [BitVec.extractLsb'_toNat, Nat.shiftRight_eq_div_pow, bitsOf]

/-! Runs and counts of bits. -/
/-- How far a run of true reaches. -/
theorem length_takeWhile_range (p : Nat → Bool) (n w : Nat) (hn : n ≤ w) (ht : ∀ i < n, p i = true) (hf : n < w → p n = false) :
    ((List.range w).takeWhile p).length = n := by
  obtain ⟨k, rfl⟩ := Nat.exists_eq_add_of_le hn
  rw [List.range_add, List.takeWhile_append_of_pos (by simpa using ht)]
  cases k with
  | zero => simp
  | succ k => simp [List.range_succ_eq_map, hf]
theorem ctzFrom_eq_takeWhile (a w : Nat) : ctzFrom a w = ((List.range w).takeWhile fun i => !a.testBit i).length := by
  induction w generalizing a with
  | zero => rfl
  | succ w ih =>
    rw [List.range_succ_eq_map, ctzFrom, ih]
    rcases Nat.mod_two_eq_zero_or_one a with h | h
    · simp [h, List.takeWhile_map, Function.comp_def, Nat.testBit_succ, Nat.testBit_zero, Nat.add_comm]
    · simp [h, Nat.testBit_zero]
theorem popFrom_eq_filter (a w : Nat) : popFrom a w = ((List.range w).filter a.testBit).length := by
  induction w generalizing a with
  | zero => rfl
  | succ w ih =>
    rw [List.range_succ_eq_map, popFrom, ih]
    rcases Nat.mod_two_eq_zero_or_one a with h | h
    · simp [h, List.filter_map, Function.comp_def, Nat.testBit_succ, Nat.testBit_zero]
    · simp [h, List.filter_map, Function.comp_def, Nat.testBit_succ, Nat.testBit_zero, Nat.add_comm]

/-! Integer operations on words of w bits (R142-R145). -/
section
variable {w : Nat} (a b d : BitVec w)
theorem ofNat_add : BitVec.ofNat w (a.toNat + b.toNat) = a + b := by rw [BitVec.ofNat_add, ofNat_of_toNat rfl, ofNat_of_toNat rfl]
theorem ofNat_mul : BitVec.ofNat w (a.toNat * b.toNat) = a * b := by rw [BitVec.ofNat_mul, ofNat_of_toNat rfl, ofNat_of_toNat rfl]
theorem ofNat_and : BitVec.ofNat w (a.toNat &&& b.toNat) = a &&& b := ofNat_of_toNat (BitVec.toNat_and ..)
theorem ofNat_or : BitVec.ofNat w (a.toNat ||| b.toNat) = a ||| b := ofNat_of_toNat (BitVec.toNat_or ..)
theorem ofNat_xor : BitVec.ofNat w (a.toNat ^^^ b.toNat) = a ^^^ b := ofNat_of_toNat (BitVec.toNat_xor ..)
theorem ofNat_notW : BitVec.ofNat w (notW w a.toNat) = ~~~a := ofNat_of_toNat (BitVec.toNat_not ..)
theorem ofNat_subW : BitVec.ofNat w (subW w a.toNat b.toNat) = a - b := by
  apply BitVec.eq_of_toNat_eq
  simp [subW, BitVec.toNat_sub, Nat.add_comm]
theorem ofNat_andn : BitVec.ofNat w (a.toNat &&& notW w b.toNat) = a &&& ~~~b := by
  rw [← ofNat_and, BitVec.toNat_not, notW]
theorem ofNat_mulhu : BitVec.ofNat w (a.toNat * b.toNat / 2 ^ w) = (a.zeroExtend (2 * w) * b.zeroExtend (2 * w)).extractLsb' w w := by
  have fits : a.toNat * b.toNat < 2 ^ (2 * w) := by
    rw [Nat.two_mul, Nat.pow_add]; exact Nat.mul_lt_mul'' a.isLt b.isLt
  have le : 2 ^ w ≤ 2 ^ (2 * w) := Nat.pow_le_pow_right (by omega) (by omega)
  apply BitVec.eq_of_toNat_eq
  simp [BitVec.extractLsb'_toNat, Nat.shiftRight_eq_div_pow, Nat.mod_eq_of_lt fits, Nat.mod_eq_of_lt (Nat.lt_of_lt_of_le a.isLt le),
    Nat.mod_eq_of_lt (Nat.lt_of_lt_of_le b.isLt le)]
theorem ofNat_quoS : BitVec.ofNat w (quoS w a.toNat b.toNat) = a.sdiv b := by
  rw [quoS, ofNat_ofSigned, toSigned_toNat, toSigned_toNat]
  exact BitVec.eq_of_toInt_eq (by rw [BitVec.toInt_ofInt, BitVec.toInt_sdiv])
theorem ofNat_remS : BitVec.ofNat w (remS w a.toNat b.toNat) = a.srem b := by
  rw [remS, ofNat_ofSigned, toSigned_toNat, toSigned_toNat, ← BitVec.toInt_srem, BitVec.ofInt_toInt]
theorem ofNat_div : BitVec.ofNat w (a.toNat / b.toNat) = a / b := ofNat_of_toNat (BitVec.toNat_udiv ..)
theorem ofNat_mod : BitVec.ofNat w (a.toNat % b.toNat) = a % b := ofNat_of_toNat (BitVec.toNat_umod ..)
theorem ofNat_mul_pow (n : Nat) : BitVec.ofNat w (a.toNat * 2 ^ n) = a <<< n := by
  apply BitVec.eq_of_toNat_eq; simp [Nat.shiftLeft_eq]
theorem ofNat_div_pow (n : Nat) : BitVec.ofNat w (a.toNat / 2 ^ n) = a >>> n :=
  ofNat_of_toNat (by rw [BitVec.toNat_ushiftRight, Nat.shiftRight_eq_div_pow])
theorem ofNat_sarW (n : Nat) : BitVec.ofNat w (sarW w a.toNat n) = a.sshiftRight (n % w) := by
  have shift : a.toInt / 2 ^ (n % w) = (a.sshiftRight (n % w)).toInt := by
    rw [BitVec.toInt_sshiftRight, Int.shiftRight_eq_div_pow]; norm_cast
  rw [sarW, ofNat_ofSigned, toSigned_toNat, shift, BitVec.ofInt_toInt]
theorem ofNat_fshW (n : Nat) : BitVec.ofNat w (fshW w a.toNat b.toNat n) = ((a ++ b) <<< (n % w)).extractLsb' w w := by
  have both : a.toNat * 2 ^ w + b.toNat = (a ++ b).toNat := by
    rw [BitVec.toNat_append, ← Nat.shiftLeft_add_eq_or_of_lt b.isLt, Nat.shiftLeft_eq]
  apply BitVec.eq_of_toNat_eq
  simp [fshW, both, BitVec.extractLsb'_toNat, Nat.shiftRight_eq_div_pow, Nat.shiftLeft_eq, Nat.two_mul]
theorem ofNat_minS : BitVec.ofNat w (minS w a.toNat b.toNat) = if b.slt a then b else a := by
  simp only [minS, toSigned_toNat, BitVec.slt_eq_decide, decide_eq_true_eq]
  split <;> simp
theorem ofNat_maxS : BitVec.ofNat w (maxS w a.toNat b.toNat) = if a.slt b then b else a := by
  simp only [maxS, toSigned_toNat, BitVec.slt_eq_decide, decide_eq_true_eq]
  split <;> simp
theorem ofNat_min : BitVec.ofNat w (min a.toNat b.toNat) = if b < a then b else a := by
  simp only [BitVec.lt_def]
  split
  · rw [Nat.min_eq_right (by omega)]; simp
  · rw [Nat.min_eq_left (by omega)]; simp
theorem ofNat_max : BitVec.ofNat w (max a.toNat b.toNat) = if a < b then b else a := by
  simp only [BitVec.lt_def]
  split
  · rw [Nat.max_eq_right (by omega)]; simp
  · rw [Nat.max_eq_left (by omega)]; simp
/-- The high half of a product of double width. -/
theorem ofInt_ediv_pow (z : Int) : BitVec.ofInt w (z / 2 ^ w) = (BitVec.ofInt (2 * w) z).extractLsb' w w := by
  have pos : (0 : Int) < 2 ^ w := by positivity
  have split : z = z % 2 ^ (2 * w) + 2 ^ w * (2 ^ w * (z / 2 ^ (2 * w))) := by
    rw [← mul_assoc, ← pow_add, ← Nat.two_mul]; exact (Int.emod_add_mul_ediv ..).symm
  have high : z / 2 ^ w % 2 ^ w = z % 2 ^ (2 * w) / 2 ^ w % 2 ^ w := by
    conv_lhs => rw [split, Int.add_mul_ediv_left _ _ pos.ne', Int.add_mul_emod_self_left]
  have nonneg : 0 ≤ z % 2 ^ (2 * w) := Int.emod_nonneg _ (by positivity)
  apply BitVec.eq_of_toNat_eq
  rw [BitVec.extractLsb'_toNat, BitVec.toNat_ofInt, BitVec.toNat_ofInt, Nat.shiftRight_eq_div_pow]
  push_cast
  rw [high]
  generalize z % 2 ^ (2 * w) = r at nonneg
  lift r to Nat using nonneg
  norm_cast
theorem ofNat_mulhS : BitVec.ofNat w (mulhS w a.toNat b.toNat) = (a.signExtend (2 * w) * b.signExtend (2 * w)).extractLsb' w w := by
  rw [mulhS, ofNat_ofSigned, toSigned_toNat, toSigned_toNat, ofInt_ediv_pow, BitVec.ofInt_mul, BitVec.signExtend, BitVec.signExtend]
theorem ofNat_rotW (n : Nat) : BitVec.ofNat w (rotW w a.toNat n) = a.rotateLeft (n % w) := by
  have disjoint : a <<< (n % w) &&& a >>> (w - n % w) = 0#w := by
    ext i hi
    have : n % w < w := Nat.mod_lt _ (by omega)
    simp
    intro _ _
    exact BitVec.getLsbD_of_ge _ _ (by omega)
  rw [BitVec.rotateLeft_def, Nat.mod_mod, ← BitVec.add_eq_or_of_and_eq_zero _ _ disjoint, ← ofNat_mul_pow,
    ← ofNat_div_pow, ← BitVec.ofNat_add]
  exact BitVec.eq_of_toNat_eq (by simp [rotW])
/-- The low l bits, under the sign of their highest. -/
theorem signExtend_setWidth (l : Nat) (h : l ≤ w) (h0 : l ≠ 0) : (a.setWidth l).signExtend w = (a <<< (w - l)).sshiftRight (w - l) := by
  have last : w - 1 - (w - l) = l - 1 := by omega
  ext i hi
  have inside : w - l + i < w ↔ i < l := by omega
  have before : ¬w - 1 < w - l := by omega
  simp [BitVec.getElem_signExtend, BitVec.getElem_sshiftRight, BitVec.msb_eq_getLsbD_last, last, inside, before,
    Nat.pos_of_ne_zero h0, Nat.zero_lt_of_lt hi]
  split <;> exact BitVec.getLsbD_eq_getElem _
/-- The place and the length of a field, from its control word (R144). -/
theorem fieldLen_toNat : fieldLen w b.toNat = Claims.len b := by
  simp only [fieldLen, Claims.len, Claims.pos, bitsOf_toNat]
  rfl
theorem fieldLen_le : Claims.len b ≤ w := by
  unfold Claims.len; split <;> omega
theorem toNat_low (n : Nat) (h : n ≤ w) : (Claims.low w n).toNat = 2 ^ n - 1 := by
  have : 2 ^ n ≤ 2 ^ w := Nat.pow_le_pow_right (by omega) h
  simp only [Claims.low, BitVec.toNat_ofNat]
  exact Nat.mod_eq_of_lt (by have := Nat.two_pow_pos n; omega)
theorem and_low (n : Nat) (h : n ≤ w) : BitVec.ofNat w (a.toNat % 2 ^ n) = a &&& Claims.low w n := by
  apply BitVec.eq_of_toNat_eq
  rw [BitVec.toNat_and, toNat_low _ h, Nat.and_two_pow_sub_one_eq_mod, BitVec.toNat_ofNat,
    Nat.mod_eq_of_lt (Nat.lt_of_le_of_lt (Nat.mod_le ..) a.isLt)]
theorem ofNat_bfxW : BitVec.ofNat w (bfxW w a.toNat b.toNat) = a >>> Claims.pos b &&& Claims.low w (Claims.len b) := by
  rw [← and_low _ _ (fieldLen_le b), BitVec.toNat_ushiftRight, Nat.shiftRight_eq_div_pow, bfxW, fieldLen_toNat, bitsOf_toNat b, bitsOf, Claims.pos]
theorem ofNat_bfxsW : BitVec.ofNat w (bfxsW w a.toNat b.toNat) =
    if Claims.len b = 0 then 0 else ((a >>> Claims.pos b) <<< (w - Claims.len b)).sshiftRight (w - Claims.len b) := by
  rw [bfxsW, fieldLen_toNat]
  split
  · rfl
  next h0 =>
    rw [ofNat_sext, bfxW, fieldLen_toNat, ofNat_bitsOf, ← Nat.shiftRight_eq_div_pow, bitsOf_toNat, ← BitVec.toNat_ushiftRight, BitVec.ofNat_toNat]
    exact signExtend_setWidth _ _ (fieldLen_le b) h0
/-- A merge of words, bit by bit. -/
theorem ofNat_mergeBits (old v mask : Nat) :
    BitVec.ofNat w (mergeBits old v mask) = (BitVec.ofNat w old &&& ~~~BitVec.ofNat w mask) ||| (BitVec.ofNat w v &&& BitVec.ofNat w mask) := by
  ext i hi
  simp [mergeBits]
  grind
theorem ofNat_bfiW : BitVec.ofNat w (bfiW w a.toNat b.toNat d.toNat) =
    (d &&& ~~~(Claims.low w (Claims.len b) <<< Claims.pos b)) ||| ((a &&& Claims.low w (Claims.len b)) <<< Claims.pos b) := by
  rw [bfiW, ofNat_mergeBits, fieldLen_toNat, bitsOf_toNat, ← toNat_low _ (fieldLen_le b), ofNat_mul_pow, ofNat_mul_pow,
    BitVec.shiftLeft_and_distrib, BitVec.ofNat_toNat, BitVec.setWidth_eq, Claims.pos]

/-! Counts of bits (R145). -/
theorem clzW_eq_takeWhile : clzW w a.toNat = ((List.range w).takeWhile fun i => !a.getMsbD i).length := by
  symm
  rw [clzW]
  split
  next h0 =>
    have : a = 0 := BitVec.eq_of_toNat_eq (by simpa using h0)
    subst this
    exact length_takeWhile_range _ _ _ le_rfl (by simp) (by simp)
  next h0 =>
    have top : a.toNat.log2 < w := (Nat.log2_lt h0).mpr a.isLt
    apply length_takeWhile_range _ _ _ (by omega)
    · intro i hi
      have small : a.toNat < 2 ^ (w - 1 - i) := (Nat.log2_lt h0).mp (by omega)
      simp [BitVec.getMsbD, BitVec.getLsbD, Nat.testBit_lt_two_pow small]
    · intro h
      have hb : w - 1 - (w - 1 - a.toNat.log2) = a.toNat.log2 := by omega
      simp [BitVec.getMsbD, BitVec.getLsbD, hb, Nat.testBit_log2 h0, h]
end

end Sys2Proof.Machine

namespace Sys2Proof.Machine

/-! What a slot's instruction gives. -/
/-- The context before the bundle is what the open bundle goes back to. -/
theorem State.pre_congr {s t : State} (ho : s.opened.isSome = true)
    (h : t.opened.map (fun o => (o.saved, o.ctx)) = s.opened.map (fun o => (o.saved, o.ctx))) : t.pre = s.pre := by
  cases hs : s.opened with
  | none => simp [hs] at ho
  | some o =>
    rw [hs] at h
    obtain ⟨p, hp, e⟩ := Option.map_eq_some_iff.mp h
    obtain ⟨e1, e2⟩ := Prod.mk.inj e
    simp only [State.pre, hs, hp, e1, e2]
section
variable {s t : State} (ho : s.opened.isSome = true)
include ho
theorem State.pre_setSticky (bits : Nat) : (s.setSticky bits).pre = s.pre := State.pre_congr ho rfl
theorem State.pre_note (g b v : Nat) : (s.note g b v).pre = s.pre := by
  refine State.pre_congr ho ?_
  unfold State.note
  split
  · simp [Option.map_map, Function.comp_def]
  · rfl
theorem State.pre_wr {l : Option Loc} {v mask : Nat} {cls : Fin 5} {L : Nat} (h : s.wr l v mask cls L = .ok t) : t.pre = s.pre := by
  obtain ⟨-, rfl⟩ | ⟨m, -, -, rfl⟩ := State.wr_cases s t l v mask cls L h
  · rfl
  · have hr := (State.result_frame s s.me m v mask cls L false false).2.1
    rw [State.pre_note (hr ▸ ho), State.pre_congr ho (by rw [hr])]
end
/-- A write of a register with no interlocked result pending gives a state. -/
theorem State.wr_gives {s t : State} {l : Option Loc} (hp : t.pre = s.pre) (hc : Claims.Clear s l) (v mask : Nat) (cls : Fin 5) (L : Nat) :
    ∃ u, t.wr l v mask cls L = .ok u := by
  cases l with
  | none => exact ⟨t, State.wr_void ..⟩
  | some m => exact ⟨_, State.wr_ok _ _ _ _ _ _ (hp ▸ hc m rfl)⟩
/-- A read goes on with its value. -/
theorem ok_bind {α β : Type} (a : α) (f : α → Res β) : ((.ok a : Res α) >>= f) = f a := rfl
section
variable {i : Instr} {n : Nat} {u : VUnit} {g : Guard} {s : State} {r : Res State}
/-- An instruction of a slot with its guard on gives what its body gives. -/
theorem runSlot_gives {body : State → Res State} (hi : exec i s = runSlot n g s body) (on : Claims.On g s) (hb : body s = r)
    (hr : ∃ t, r = .ok t) : Claims.Gives i s r := by
  obtain ⟨t, ht⟩ := hr
  exact ⟨t, ht, hi.trans (runSlot_ok n g s t body on.1 on.2 (hb.trans ht))⟩
theorem runLanes_gives {body : State → Nat → Res State} (hi : exec i s = runLanes u g s body) (on : Claims.Lanes g s)
    (hb : body s (Claims.act g s) = r) (hr : ∃ t, r = .ok t) : Claims.Gives i s r := by
  obtain ⟨t, ht⟩ := hr
  exact ⟨t, ht, hi.trans (runLanes_ok u g s t body on.1 on.2 (hb.trans ht))⟩
/-- The same of a body that ends in the write of a register. -/
theorem runSlot_writes {body : State → Res State} {l : Option Loc} {v mask : Nat} {cls : Fin 5} {L : Nat} (hi : exec i s = runSlot n g s body)
    (on : Claims.On g s) (hc : Claims.Clear s l) (hb : body s = s.wr l v mask cls L) : Claims.Gives i s (s.wr l v mask cls L) :=
  runSlot_gives hi on hb (State.wr_gives rfl hc ..)
theorem runLanes_writes {body : State → Nat → Res State} {l : Option Loc} {v mask : Nat} {cls : Fin 5} {L : Nat} (hi : exec i s = runLanes u g s body)
    (on : Claims.Lanes g s) (hc : Claims.Clear s l) (hb : body s (Claims.act g s) = s.wr l v mask cls L) : Claims.Gives i s (s.wr l v mask cls L) :=
  runLanes_gives hi on hb (State.wr_gives rfl hc ..)
end

end Sys2Proof.Machine

namespace Sys2Proof.Machine

/-!
PROOFS. O16: the integer instructions of the scalar slot. Each shared form (two sources, one, three, division, an immediate) has one lemma that an
instruction of that form gives the word its operation gives; a table names the operation of each instruction.
-/
section
variable {i : Instr} {s : State} {a b d : Nat}
theorem alu2_gives {x : SAlu} {L : Nat} {f : Nat → Nat → Nat → Nat} {v : BitVec (wBits x.w)} (hi : exec i s = alu2 x L f s)
    (on : Claims.On x.g s) (hc : Claims.Clear s (sLoc x.d)) (ha : s.rdS x.a = .ok a) (hb : s.rdS x.b = .ok b)
    (hv : BitVec.ofNat _ (f (wBits x.w) (BitVec.ofNat (wBits x.w) a).toNat (BitVec.ofNat (wBits x.w) b).toNat) = v) :
    Claims.Gives i s (s.wrS x.d (Claims.wide v) L) := by
  refine runSlot_writes hi on hc ?_
  rw [ha, ok_bind, hb, ok_bind, widenW_eq_wide, ← hv]
  rfl
theorem alu1_gives {x : SUn} {f : Nat → Nat → Nat} {v : BitVec (wBits x.w)} (hi : exec i s = alu1 x f s)
    (on : Claims.On x.g s) (hc : Claims.Clear s (sLoc x.d)) (ha : s.rdS x.a = .ok a)
    (hv : BitVec.ofNat _ (f (wBits x.w) (BitVec.ofNat (wBits x.w) a).toNat) = v) : Claims.Gives i s (s.wrS x.d (Claims.wide v) 1) := by
  refine runSlot_writes hi on hc ?_
  rw [ha, ok_bind, widenW_eq_wide, ← hv]
  rfl
section
variable {x : SAlu} (on : Claims.On x.g s) (hc : Claims.Clear s (sLoc x.d)) (ha : s.rdS x.a = .ok a) (hb : s.rdS x.b = .ok b) (hd : s.rdD x.d = .ok d)
include on hc ha hb hd
/-- FSH takes the middle of both words shifted by Sd (R143). -/
theorem fsh_gives {v : BitVec (wBits x.w)}
    (hv : ((BitVec.ofNat (wBits x.w) a ++ BitVec.ofNat (wBits x.w) b) <<<
      ((BitVec.ofNat (wBits x.w) d).toNat % wBits x.w)).extractLsb' (wBits x.w) (wBits x.w) = v) :
    Claims.Gives (.fsh x) s (s.wrS x.d (Claims.wide v) 1) := by
  refine runSlot_writes (n := 2) (g := x.g) rfl on hc ?_
  rw [ha, ok_bind, hb, ok_bind, hd, ok_bind, widenW_eq_wide, ← hv, ← ofNat_fshW]
  rfl
/-- BFI puts a field that is not empty into the word (R144). -/
theorem bfi_gives {v : BitVec (wBits x.w)} (h0 : Claims.len (BitVec.ofNat (wBits x.w) b) ≠ 0)
    (hv : BitVec.ofNat _ (bfiW (wBits x.w) (BitVec.ofNat (wBits x.w) a).toNat (BitVec.ofNat (wBits x.w) b).toNat
      (BitVec.ofNat (wBits x.w) d).toNat) = v) :
    Claims.Gives (.bfi x) s (s.wrS x.d (Claims.wide v) 1) := by
  have field : fieldLen (wBits x.w) (narrowW x.w b) ≠ 0 := fun h => h0 ((fieldLen_toNat _).symm.trans h)
  refine runSlot_writes (n := 2) (g := x.g) rfl on hc ?_
  rw [ha, ok_bind, hb, ok_bind, hd, ok_bind, if_neg field, widenW_eq_wide, ← hv]
  rfl
/-- BFI leaves all of Sd where its field is empty (R144). -/
theorem bfi_empty_gives (h0 : Claims.len (BitVec.ofNat (wBits x.w) b) = 0) : Claims.Gives (.bfi x) s (s.wrS x.d d 1) := by
  have field : fieldLen (wBits x.w) (narrowW x.w b) = 0 := (fieldLen_toNat _).trans h0
  refine runSlot_writes (n := 2) (g := x.g) rfl on hc ?_
  rw [ha, ok_bind, hb, ok_bind, hd, ok_bind, if_pos field]
  rfl
end
theorem sel_gives {x : SSel} (on : Claims.On x.g s) (hc : Claims.Clear s (sLoc x.d)) (ha : s.rdS x.a = .ok a) (hb : s.rdS x.b = .ok b) :
    Claims.Gives (.sel x) s (s.wrS x.d (Claims.wide (BitVec.ofNat (wBits x.w) (if predBits s.pre x.q % 2 = 1 then a else b))) 1) := by
  refine runSlot_writes (n := 2) (g := x.g) rfl on hc ?_
  rw [ha, ok_bind, hb, ok_bind, widenW_eq_wide]
  exact congrArg (fun v => s.wrS x.d (Claims.wide v) 1) (ofNat_of_toNat rfl)
end

/-- The instructions of two sources and the operation of each on words. -/
theorem alu2_operations : ∀ e ∈ Claims.alu2, ∃ f : Nat → Nat → Nat → Nat, (∀ x s, exec (e.1 x) s = alu2 x e.2.1 f s) ∧
    ∀ w (a b : BitVec w), BitVec.ofNat w (f w a.toNat b.toNat) = e.2.2 w a b := by
  simp only [Claims.alu2, List.cons_append, List.nil_append, List.forall_mem_cons]
  refine ⟨?_, ?_, ?_, ?_, ?_, ?_, ?_, ?_, ?_, ?_, ?_, ?_, ?_, ?_, ?_, ?_, ?_, ?_, ?_, fun _ h => nomatch h⟩
  · exact ⟨fun _ a b => a + b, fun _ _ => rfl, fun _ => ofNat_add⟩
  · exact ⟨subW, fun _ _ => rfl, fun _ => ofNat_subW⟩
  · exact ⟨fun _ a b => a * b, fun _ _ => rfl, fun _ => ofNat_mul⟩
  · exact ⟨mulhS, fun _ _ => rfl, fun _ => ofNat_mulhS⟩
  · exact ⟨fun w a b => a * b / 2 ^ w, fun _ _ => rfl, fun _ => ofNat_mulhu⟩
  · exact ⟨fun _ a b => a &&& b, fun _ _ => rfl, fun _ => ofNat_and⟩
  · exact ⟨fun _ a b => a ||| b, fun _ _ => rfl, fun _ => ofNat_or⟩
  · exact ⟨fun _ a b => a ^^^ b, fun _ _ => rfl, fun _ => ofNat_xor⟩
  · exact ⟨fun w a b => a &&& notW w b, fun _ _ => rfl, fun _ => ofNat_andn⟩
  · exact ⟨fun w a b => a * 2 ^ (b % w), fun _ _ => rfl, fun _ a _ => ofNat_mul_pow a _⟩
  · exact ⟨fun w a b => a / 2 ^ (b % w), fun _ _ => rfl, fun _ a _ => ofNat_div_pow a _⟩
  · exact ⟨sarW, fun _ _ => rfl, fun _ a _ => ofNat_sarW a _⟩
  · exact ⟨rotW, fun _ _ => rfl, fun _ a _ => ofNat_rotW a _⟩
  · exact ⟨bfxW, fun _ _ => rfl, fun _ => ofNat_bfxW⟩
  · exact ⟨bfxsW, fun _ _ => rfl, fun _ => ofNat_bfxsW⟩
  · exact ⟨minS, fun _ _ => rfl, fun _ => ofNat_minS⟩
  · exact ⟨maxS, fun _ _ => rfl, fun _ => ofNat_maxS⟩
  · exact ⟨fun _ a b => min a b, fun _ _ => rfl, fun _ => ofNat_min⟩
  · exact ⟨fun _ a b => max a b, fun _ _ => rfl, fun _ => ofNat_max⟩
theorem alu1_operations : ∀ e ∈ Claims.alu1, ∃ f : Nat → Nat → Nat, (∀ x s, exec (e.1 x) s = alu1 x f s) ∧
    ∀ w (a : BitVec w), BitVec.ofNat w (f w a.toNat) = e.2 w a := by
  simp only [Claims.alu1, List.forall_mem_cons]
  refine ⟨?_, ?_, ?_, ?_, fun _ h => nomatch h⟩
  · exact ⟨notW, fun _ _ => rfl, fun _ => ofNat_notW⟩
  · exact ⟨clzW, fun _ _ => rfl, fun _ a => congrArg _ (clzW_eq_takeWhile a)⟩
  · exact ⟨ctzW, fun _ _ => rfl, fun w a => congrArg _ (ctzFrom_eq_takeWhile a.toNat w)⟩
  · exact ⟨popW, fun _ _ => rfl, fun w a => congrArg _ (popFrom_eq_filter a.toNat w)⟩
theorem integerForms : Claims.IntegerForms := by
  refine ⟨?two, ?one, ?three, fun x s a b d on hc ha hb hd => bfi_empty_gives on hc ha hb hd, fun x s a b => sel_gives⟩
  case two =>
    intro e he x s a b on hc ha hb
    obtain ⟨f, hi, hf⟩ := alu2_operations e he
    exact alu2_gives (hi x s) on hc ha hb (hf ..)
  case one =>
    intro e he x s a on hc ha
    obtain ⟨f, hi, hf⟩ := alu1_operations e he
    exact alu1_gives (hi x s) on hc ha (hf ..)
  case three =>
    simp only [Claims.alu3, List.forall_mem_cons]
    exact ⟨fun x s a b d on hc ha hb hd _ => fsh_gives on hc ha hb hd rfl,
      fun x s a b d on hc ha hb hd h0 => bfi_gives on hc ha hb hd (h0 trivial) (ofNat_bfiW ..), fun _ h => nomatch h⟩

/-! Division (R55, R142). -/
section
variable {i : Instr} {x : SAlu} {f : Nat → Nat → Nat → Nat} {zero : Nat → Nat} {s : State} {a b : Nat} (hi : exec i s = aluDiv x f zero s)
  (on : Claims.On x.g s) (ha : s.rdS x.a = .ok a) (hb : s.rdS x.b = .ok b)
include hi on ha hb
theorem aluDiv_gives {v : BitVec (wBits x.w)} (hc : Claims.Clear s (sLoc x.d)) (h0 : BitVec.ofNat (wBits x.w) b ≠ 0)
    (hv : BitVec.ofNat _ (f (wBits x.w) (BitVec.ofNat (wBits x.w) a).toNat (BitVec.ofNat (wBits x.w) b).toNat) = v) :
    Claims.Gives i s (s.wrS x.d (Claims.wide v) (if x.w then 20 else 12)) := by
  have hn : narrowW x.w b ≠ 0 := fun h => h0 (BitVec.eq_of_toNat_eq (h.trans (BitVec.toNat_zero ..).symm))
  refine runSlot_writes hi on hc ?_
  rw [ha, ok_bind, hb, ok_bind, if_neg hn, widenW_eq_wide, ← hv]
  rfl
theorem aluDiv_zero_gives {v : BitVec (wBits x.w)} (hc : Claims.Clear s (sLoc x.d)) (h0 : BitVec.ofNat (wBits x.w) b = 0)
    (hz : s.pre.regs.sys.sstat.getLsbD 7 = false) (hv : BitVec.ofNat _ (zero (BitVec.ofNat (wBits x.w) a).toNat) = v) :
    Claims.Gives i s ((s.setSticky 32).wrS x.d (Claims.wide v) (if x.w then 20 else 12)) := by
  have hn : narrowW x.w b = 0 := congrArg BitVec.toNat h0
  refine runSlot_gives hi on ?_ (State.wr_gives (State.pre_setSticky on.1 32) hc _ _ _ _)
  rw [ha, ok_bind, hb, ok_bind, if_pos hn, hz, widenW_eq_wide, ← hv]
  rfl
theorem aluDiv_traps (h0 : BitVec.ofNat (wBits x.w) b = 0) (hz : s.pre.regs.sys.sstat.getLsbD 7 = true) :
    exec i s = .next (s.raise 2 9 0 none) := by
  have hn : narrowW x.w b = 0 := congrArg BitVec.toNat h0
  refine hi.trans (runSlot_error _ _ _ _ (.trap 9 0) on.1 on.2 ?_)
  rw [ha, ok_bind, hb, ok_bind, if_pos hn, hz]
  rfl
end
theorem division_operations : ∀ e ∈ Claims.division, ∃ (f : Nat → Nat → Nat → Nat) (zero : Nat → Nat),
    (∀ x s, exec (e.1 x) s = aluDiv x f zero s) ∧ (∀ w (a b : BitVec w), BitVec.ofNat w (f w a.toNat b.toNat) = e.2.1 w a b) ∧
    ∀ w (a : BitVec w), BitVec.ofNat w (zero a.toNat) = e.2.2 w a := by
  simp only [Claims.division, List.forall_mem_cons]
  refine ⟨?_, ?_, ?_, ?_, fun _ h => nomatch h⟩
  · exact ⟨quoS, fun _ => 0, fun _ _ => rfl, fun _ => ofNat_quoS, fun _ _ => rfl⟩
  · exact ⟨fun _ a b => a / b, fun _ => 0, fun _ _ => rfl, fun _ => ofNat_div, fun _ _ => rfl⟩
  · exact ⟨remS, id, fun _ _ => rfl, fun _ => ofNat_remS, fun _ _ => ofNat_of_toNat rfl⟩
  · exact ⟨fun _ a b => a % b, id, fun _ _ => rfl, fun _ => ofNat_mod, fun _ _ => ofNat_of_toNat rfl⟩
theorem scalarDivision : Claims.ScalarDivision := by
  intro e he x s a b on ha hb
  obtain ⟨f, zero, hi, hf, hzero⟩ := division_operations e he
  refine ⟨fun h0 hc => ?_, fun h0 hz hc => ?_, fun h0 hz => ?_⟩
  · exact aluDiv_gives (hi x s) on ha hb hc h0 (hf ..)
  · exact aluDiv_zero_gives (hi x s) on ha hb hc h0 hz (hzero ..)
  · exact aluDiv_traps (hi x s) on ha hb h0 hz

/-! Immediate forms (R146, R153). -/
theorem wBits_bounds (w : Bool) : 16 ≤ wBits w ∧ wBits w ≤ 64 := by cases w <;> decide
theorem ofNat_immS (w : Bool) (i : BitVec 16) : BitVec.ofNat (wBits w) (immS i) = i.signExtend (wBits w) := by
  rw [immS, sext_eq_signExtend, ofNat_of_toNat rfl, BitVec.ofNat_toNat, setWidth_signExtend i (wBits_bounds w).2]
theorem wide_signExtend (w : Bool) (i : BitVec 16) : Claims.wide (i.signExtend (wBits w)) = Claims.wide i := by
  rw [Claims.wide, signExtend_signExtend i (wBits_bounds w).1, Claims.wide]
/-- MOVHI extends the upper 16 of 32 bits by their sign in both widths (R146). -/
theorem movhi_value (w : Bool) (i : BitVec 16) (d : Nat) :
    widenW w ((if w then immS i % 2 ^ 48 else i.toNat) * 65536 + d % 65536) = Claims.wide (i ++ BitVec.ofNat 16 d) := by
  cases w with
  | false =>
    rw [widenW_eq_wide]
    exact congrArg (fun v : BitVec 32 => Claims.wide v) (ofNat_of_toNat (toNat_append_ofNat i d))
  | true =>
    rw [Claims.wide, BitVec.signExtend, toInt_append_ofNat, BitVec.toNat_ofInt, immS, sext, ofSigned, toSigned_toNat]
    simp only [widenW, if_true]
    omega
theorem scalarImmediate : Claims.ScalarImmediate := by
  intro x s on hc
  have gives {i : Instr} {body : State → Res State} {v : Nat} (hi : exec i s = runSlot 2 x.g s body) (hb : body s = s.wrS (.r x.d) v 1) :
    Claims.Gives i s (s.wrS (.r x.d) v 1) := runSlot_writes hi on hc hb
  refine ⟨fun d hd => ⟨gives rfl ?addi, gives rfl ?movhi⟩, gives rfl ?movi, gives rfl ?ldl⟩
  case addi => rw [hd, ok_bind, widenW_eq_wide, BitVec.ofNat_add, ofNat_immS]
  case movhi => rw [hd, ok_bind, movhi_value]
  case movi => rw [widenW_eq_wide, ofNat_immS, wide_signExtend]
  case ldl => rw [widenW_eq_wide, BitVec.ofNat_add, BitVec.ofNat_mul, ofNat_immS, BitVec.ofNat_toNat]; rfl
/-- Settles O16: an instruction of each shared form gives the word of its operation, which the tables of operations name. -/
theorem scalarInteger : Obligations.ScalarInteger := ⟨integerForms, scalarDivision, scalarImmediate⟩

end Sys2Proof.Machine

namespace Sys2Proof.Machine

/-!
PROOFS. O18: scalar floating point. An instruction with two sources, Sd as a third, or one gives the result of `State.fpOut`: the exact value rounded
once, its flags sticky.
-/
/-- A rounded result with its flags gives a state. -/
theorem State.fpOut_gives {s : State} {x : Dst} (ho : s.opened.isSome = true) (hc : Claims.Clear s (sLoc x)) (f : Bool) (v : FVal) (r : Rnd)
    (fl : FFlags → FFlags) (L : Nat) :
    ∃ t, s.fpOut x f v r fl L = .ok t := State.wr_gives (State.pre_setSticky ho _) hc _ _ _ _
/-- Those that round what two sources give (FADD, FSUB, FMUL, FDIV). -/
theorem float2_gives : ∀ e ∈ Claims.float2, ∀ (x : SFlt3) (s : State) (a b : Nat), Claims.On x.g s → Claims.Clear s (sLoc x.d) →
    s.rdS x.a = .ok a → s.rdS x.b = .ok b →
    Claims.Gives (e.1 x) s (s.fpOut x.d x.f (e.2.2.2.1 (fpRead x.f a) (fpRead x.f b) x.r) x.r (e.2.2.2.2 (fpRead x.f a) (fpRead x.f b))
      (if x.f then e.2.2.1 else e.2.1)) := by
  intro e he x s a b on hc ha hb
  have gives {i : Instr} {body : State → Res State} {v : FVal} {fl : FFlags → FFlags} {L : Nat} (hi : exec i s = runSlot 2 x.g s body)
      (hr : body s = s.fpOut x.d x.f v x.r fl L) : Claims.Gives i s (s.fpOut x.d x.f v x.r fl L) :=
    runSlot_gives hi on hr (State.fpOut_gives on.1 hc ..)
  revert e
  simp only [Claims.float2, List.forall_mem_cons]
  refine ⟨gives rfl ?_, gives rfl ?_, gives rfl ?_, gives rfl ?_, fun _ h => nomatch h⟩
  all_goals rw [ha, ok_bind, hb, ok_bind]
theorem b2n_mul (n : Nat) (b : Bool) : n * b2n b = if b then n else 0 := by cases b <;> simp [b2n]
theorem truth_eq_mask64 (b : Bool) : truth b = Claims.mask64 b := by cases b <;> rfl

/-- Settles O18: each form gives its rounded result, with the flags set before the write. -/
theorem scalarFloat : Obligations.ScalarFloat := by
  refine ⟨float2_gives, ?fma, ?fsqrt, ?minmax, ?fcmp, ?fcvt⟩
  case fma =>
    intro x s a b d on hc ha hb hd
    refine runSlot_gives (n := 2) (g := x.g) rfl on ?_ (State.fpOut_gives on.1 hc ..)
    rw [ha, ok_bind, hb, ok_bind, hd, ok_bind]
  case fsqrt =>
    intro x s a on hc ha
    refine runSlot_gives (n := 2) (g := x.g) rfl on ?_ (State.fpOut_gives on.1 hc ..)
    rw [ha, ok_bind]
  case minmax =>
    intro x s a b on hc ha hb p q u
    have flag : u = s.setSticky (16 * b2n (p.isNan || q.isNan)) := congrArg s.setSticky (b2n_mul ..).symm
    have written (v : Nat) : ∃ t, u.wrS x.d v 2 = .ok t := State.wr_gives (State.pre_setSticky on.1 _) hc _ _ _ _
    refine ⟨runSlot_gives (n := 2) (g := x.g) rfl on ?_ (written _), runSlot_gives (n := 2) (g := x.g) rfl on ?_ (written _)⟩
    all_goals rw [ha, ok_bind, hb, ok_bind, flag]
  case fcmp =>
    intro x s a b on hc ha hb p q
    refine runSlot_gives (n := 2) (g := x.g) rfl on ?_ (State.wr_gives (State.pre_setSticky on.1 _) hc _ _ _ _)
    rw [ha, ok_bind, hb, ok_bind, ← truth_eq_mask64, ← b2n_mul, Bool.decide_or]
    rfl
  case fcvt =>
    intro x s a on hc ha r v
    have value : v = if codeSigned x.t then sext (codeWidth x.t) r.1 64 else r.1 := by rw [sext_eq_signExtend]
    refine runSlot_gives (n := 2) (g := x.g) rfl on ?_ (State.wr_gives (State.pre_setSticky on.1 _) hc _ _ _ _)
    rw [ha, ok_bind, value]

end Sys2Proof.Machine

namespace Sys2Proof.Machine

/-! Lanes of a vector register. -/
theorem lane_lt (v i : Nat) : lane v i < 2 ^ 32 := Nat.mod_lt _ (by decide)
theorem f32_eq_read {v : Nat} (h : v < 2 ^ 32) : f32 v = fp32.read v := by rw [f32, Nat.mod_eq_of_lt h]
theorem f32_lane (v i : Nat) : f32 (lane v i) = fp32.read (lane v i) := f32_eq_read (lane_lt v i)
theorem toNat_b32_lane (v i : Nat) : (Claims.b32 (lane v i)).toNat = lane v i := by
  rw [Claims.b32, BitVec.toNat_ofNat, Nat.mod_eq_of_lt (lane_lt v i)]
theorem bitAt_eq_testBit (v i : Nat) : bitAt v i = v.testBit i := by
  rw [bitAt, Nat.testBit_eq_decide_div_mod_eq]; rfl
theorem b32_getLsbD_zero (v i : Nat) : (Claims.b32 (lane v i)).getLsbD 0 = bitAt v (32 * i) := by
  rw [Claims.b32, BitVec.getLsbD_ofNat, lane, bitsOf, Nat.testBit_mod_two_pow, Nat.testBit_div_two_pow, bitAt_eq_testBit]
  simp
theorem packLanes_congr {f g : Nat → Nat} (n : Nat) (h : ∀ i < n, f i = g i) : packLanes f n = packLanes g n := by
  induction n with
  | zero => rfl
  | succ n ih => rw [packLanes, packLanes, h n (by omega), ih fun i hi => h i (by omega)]
/-- A vector register depends on its 64 lanes alone. -/
theorem vlanes_congr {f g : Nat → Nat} (h : ∀ i < 64, f i = g i) : vlanes f = vlanes g := packLanes_congr 64 h
theorem State.wrV_congr {f g : Nat → Nat} (s : State) (u : VUnit) (d : Dst) (mask L : Nat) (h : ∀ i < 64, f i = g i) :
    s.wrV u d mask L f = s.wrV u d mask L g := by rw [State.wrV, State.wrV, vlanes_congr h]

/-- The number of a list of bits, the last added at the top. -/
theorem toNat_ofBoolListLE_append (l : List Bool) (b : Bool) (n : Nat) (h : l.length = n) :
    (BitVec.ofBoolListLE (l ++ [b])).toNat = (BitVec.ofBoolListLE l).toNat + b2n b * 2 ^ n := by
  subst h
  induction l with
  | nil => cases b <;> rfl
  | cons c l ih =>
    simp only [List.cons_append, BitVec.ofBoolListLE, BitVec.toNat_concat, ih, List.length_cons, Nat.pow_succ]
    ring
/-- The mask of 64 lanes whose bit i is f i. -/
theorem maskOf_eq_bits (f : Nat → Bool) : maskOf f = Claims.bits f := by
  have upTo (n : Nat) : (List.range n).foldl (fun m i => m + b2n (f i) * 2 ^ i) 0 = (BitVec.ofBoolListLE ((List.range n).map f)).toNat := by
    induction n with
    | zero => rfl
    | succ n ih =>
      rw [List.range_succ, List.foldl_append, ih, List.map_append, List.map_singleton, toNat_ofBoolListLE_append _ _ n (by simp)]
      rfl
  exact upTo 64

end Sys2Proof.Machine

namespace Sys2Proof.Machine

/-!
PROOFS. O36: compares, moves of masks and residues, format registers. A table names the condition of each compare on the words of a lane; a move writes
one register in the lanes of the guard; XFER is an operation of a slot or of lanes by its receiver.
-/

/-! Conditions of a lane (R60, R167). -/
theorem fcond_ne (x y : FVal) : fcond 1 x y = !fcond 0 x y := by
  unfold fcond
  cases x.cmp y with
  | none => rfl
  | some o => cases o <;> rfl
theorem fcond_le (x y : FVal) : fcond 3 x y = (fcond 2 x y || fcond 0 x y) := by
  unfold fcond
  cases x.cmp y with
  | none => rfl
  | some o => cases o <;> rfl
section
variable (t : VType) (v w : BitVec 32)
theorem eqLane_toNat : eqLane t v.toNat w.toNat = if t = .f32 then fcond 0 (fp32.read v.toNat) (fp32.read w.toNat) else v == w := by
  cases t with
  | f32 => simp [eqLane, VType.pick, f32_eq_read v.isLt, f32_eq_read w.isLt]
  | _ => simp [eqLane, VType.pick, BitVec.toNat_eq]
theorem ltLane_toNat : ltLane t v.toNat w.toNat =
    if t = .f32 then fcond 2 (fp32.read v.toNat) (fp32.read w.toNat) else if t == .i32 then v.slt w else v.ult w := by
  cases t with
  | f32 => simp [ltLane, f32_eq_read v.isLt, f32_eq_read w.isLt]
  | i32 => simp [ltLane, toSigned_toNat, BitVec.slt_eq_decide]
  | u32 => simp [ltLane, BitVec.ult_eq_decide]
theorem leLane_toNat : (ltLane t v.toNat w.toNat || eqLane t v.toNat w.toNat) =
    if t = .f32 then fcond 3 (fp32.read v.toNat) (fp32.read w.toNat) else if t == .i32 then v.sle w else v.ule w := by
  rw [ltLane_toNat, eqLane_toNat]
  cases t with
  | f32 => simp [fcond_le]
  | i32 => simp [BitVec.sle_eq_slt_or_eq]
  | u32 =>
    rw [Bool.eq_iff_iff]
    simp [BitVec.ult_iff_lt, BitVec.ule_iff_le, BitVec.lt_def, BitVec.le_def, BitVec.toNat_eq, Nat.le_iff_lt_or_eq]
end

/-- The compares and the condition of each on the words of a lane. -/
theorem vcmp_operations : ∀ e ∈ Claims.vcompares, ∃ f : VType → Nat → Nat → Bool, (∀ u x s, exec (e.1 u x) s = vcmp u x (f x.t) s) ∧
    ∀ t (v w : BitVec 32), f t v.toNat w.toNat = if t = .f32 then fcond e.2.2 (fp32.read v.toNat) (fp32.read w.toNat) else e.2.1 (t == .i32) v w := by
  simp only [Claims.vcompares, List.forall_mem_cons]
  refine ⟨?_, ?_, ?_, ?_, fun _ h => nomatch h⟩
  · exact ⟨eqLane, fun _ _ _ => rfl, eqLane_toNat⟩
  · refine ⟨fun t a b => !eqLane t a b, fun _ _ _ => rfl, fun t v w => ?_⟩
    show (!eqLane t v.toNat w.toNat) = _
    rw [eqLane_toNat, fcond_ne]
    split <;> rfl
  · exact ⟨ltLane, fun _ _ _ => rfl, ltLane_toNat⟩
  · exact ⟨fun t a b => ltLane t a b || eqLane t a b, fun _ _ _ => rfl, leLane_toNat⟩

section
variable {i : Instr} {u : VUnit} {s : State} {a b : Nat}
theorem vcmp_gives {x : VCmp} {f : Nat → Nat → Bool} {h : Nat → Bool} (hi : exec i s = vcmp u x f s) (on : Claims.Lanes x.g s)
    (hc : Claims.Clear s (some (.p x.d))) (ha : s.rdV u x.a = .ok a) (hb : s.rdV u x.b = .ok b)
    (hf : ∀ i, f (lane a i) (lane b i) = h i) :
    Claims.Gives i s (s.wrP x.d (Claims.bits h) (Claims.act x.g s) 1 (if x.t = .f32 then 2 else 1)) := by
  have bound : VType.pick x.t 1 2 = if x.t = .f32 then 2 else 1 := by cases x.t <;> rfl
  refine runLanes_writes hi on hc ?_
  rw [ha, ok_bind, hb, ok_bind, bound, maskOf_eq_bits, funext hf]
  rfl
end

/-! XFER by its receiver (R183). -/
section
variable (u : VUnit) (x : VXfer) (s : State)
theorem execVectorXfer_scalar (h : x.s.val = 2) : execVectorXfer u x s =
    runSlot u.slot x.g s fun s => s.rdV u x.a >>= fun a => s.wr (some (sReg x.d.val)) (a % 2 ^ 64) ones64 1 3 := by
  simp only [execVectorXfer, h, runSlot]
theorem execVectorXfer_matrix (h : x.s.val = 5) : execVectorXfer u x s =
    runSlot u.slot x.g s fun s => s.rdV u x.a >>= fun a => s.wr (some (.md (Fin.ofNat 8 x.d.val))) (a % 2 ^ 64) ones64 1 3 := by
  simp only [execVectorXfer, h, runSlot]
theorem execVectorXfer_vector (v : VUnit) (h : x.s.val = v.slot) : execVectorXfer u x s =
    runLanes u x.g s fun s mask => s.rdV u x.a >>= fun a => s.wr (some (vReg v x.d.val)) a (laneMask mask) 1 3 := by
  cases v with
  | a =>
    have h3 : x.s.val = 3 := h
    simp only [execVectorXfer, runLanes, State.slotDo, h3, if_true]
  | b =>
    have h4 : x.s.val = 4 := h
    simp only [execVectorXfer, runLanes, State.slotDo, h4, if_neg (show ¬(4 : Nat) = 3 by decide)]
end
/-- A special register from 32 up is a format register. -/
theorem SysRegs.setSpecial_fmt (y : SysRegs) (n : Fin 8) (v : Nat) :
    y.setSpecial (32 + n.val) v = { y with fmt := y.fmt.set n (BitVec.ofNat 32 v) } := by
  fin_cases n <;> rfl

/-- Settles O36: each form writes its one result, under the guard as its slot or its lanes see it. -/
theorem vectorMoves : Obligations.VectorMoves := by
  refine ⟨?compares, ?toPredicate, ?fromPredicate, ?getm, ?putm, ?xfer, ?vefclr, ?vefget, ?vefput, ?vfmtset⟩
  case compares =>
    intro e he u x s a b on hc ha hb
    obtain ⟨f, hi, hf⟩ := vcmp_operations e he
    refine vcmp_gives (hi u x s) on hc ha hb fun i => ?_
    simpa only [toNat_b32_lane] using hf x.t (Claims.b32 (lane a i)) (Claims.b32 (lane b i))
  case toPredicate =>
    intro u x s a on hc ha
    refine runLanes_writes (show execVpmovToPredicate u x s = _ from rfl) on hc ?_
    simp only [b32_getLsbD_zero]
    rw [ha, ok_bind, maskOf_eq_bits]
    rfl
  case fromPredicate =>
    intro u x s on hc
    refine runLanes_writes (show execVpmovFromPredicate u x s = _ from rfl) on hc ?_
    simp only [← bitAt_eq_testBit]
    rfl
  case getm =>
    intro u x s m on hc hm
    refine runLanes_writes (show execVectorGetm u x s = _ from rfl) on hc ?_
    rw [hm, ok_bind]
  case putm =>
    intro u x s a on hc ha
    refine runLanes_writes (show execVectorPutm u x s = _ from rfl) on hc ?_
    rw [ha, ok_bind]
  case xfer =>
    intro u x s a _ ha
    refine ⟨fun h on hc => ?_, fun h on hc => ?_, fun v h on hc => ?_⟩
    · refine runSlot_writes (execVectorXfer_scalar u x s h) on hc ?_
      rw [ha, ok_bind]
      rfl
    · refine runSlot_writes (execVectorXfer_matrix u x s h) on hc ?_
      rw [ha, ok_bind]
      rfl
    · refine runLanes_writes (execVectorXfer_vector u x s v h) on hc ?_
      rw [ha, ok_bind]
  case vefclr =>
    intro u x s on hc
    exact runLanes_writes (show execVefclr u x s = _ from rfl) on hc rfl
  case vefget =>
    intro u x s on hc
    refine runLanes_writes (show execVefget u x s = _ from rfl) on hc ?_
    rw [State.rdE, Fin.ofNat_val_eq_self]
  case vefput =>
    intro u x s a on hc ha
    refine runLanes_writes (show execVefput u x s = _ from rfl) on hc ?_
    rw [ha, ok_bind]
  case vfmtset =>
    intro u x s a on ha
    refine ⟨fun legal => runSlot_ok u.slot x.g s _ _ on.1 on.2 ?_, fun illegal => runSlot_error u.slot x.g s _ (.trap 4 0) on.1 on.2 ?_⟩
    · rw [ha, ok_bind]
      have passes : ¬(!fmtLegal (BitVec.ofNat 32 (lane a 0))) = true := by
        rw [show fmtLegal (BitVec.ofNat 32 (lane a 0)) = true from legal]; decide
      simp only [if_neg passes, SysRegs.setSpecial_fmt]
      rfl
    · rw [ha, ok_bind]
      exact if_pos (congrArg not illegal)

end Sys2Proof.Machine

namespace Sys2Proof.Machine

/-!
PROOFS. O37: conversions, packing, unpacking. VCVT is lane by lane as stated. What VPACK reads and sums is put into words
of its own, each the one that the statement writes out, and one lemma says that the model computes them; the scales of two
blocks are two bytes side by side.
-/

/-! New residues (R74). -/
section
variable {s : State} (ho : s.opened.isSome = true)
include ho
theorem State.pre_residues (u : VUnit) (n : Fin 4) (g : Guard) (f : Nat → Nat) : (Claims.residues s u n g f).pre = s.pre :=
  (State.pre_note (s := s.writeNow s.me (.ve u n) (vlanes f) (laneMask (Claims.act g s))) ho ..).trans (State.pre_congr ho rfl)
theorem State.opened_residues (u : VUnit) (n : Fin 4) (g : Guard) (f : Nat → Nat) : (Claims.residues s u n g f).opened.isSome = true := by
  unfold Claims.residues State.note
  split
  · exact (Option.isSome_map ..).trans ho
  · exact ho
end
/-- New residues in the lanes of the guard. -/
theorem State.wrEf_eq_residues (s : State) (u : VUnit) (r : Rnd) (g : Guard) {f h : Nat → Nat} (hf : ∀ i < 64, f i = h i) :
    s.wrEf u r (Claims.act g s) f = Claims.residues s u (Fin.ofNat 4 r.enc) g h := by
  rw [State.wrEf, vlanes_congr hf, Claims.residues]

/-! VCVT (R170). -/
theorem cvtRead_eq_source (c v : Nat) : cvtRead c v = Claims.source c v := by rw [cvtRead, sext_eq_signExtend]; rfl
theorem cvtLane_eq_target (c v : Nat) : cvtLane c v = Claims.target c v := by rw [cvtLane, sext_eq_signExtend]; rfl
section
variable {u : VUnit} {x : VCvt} {s : State} {a : Nat} (on : Claims.Lanes x.g s) (hc : Claims.Clear s (vLoc u x.d)) (ha : s.rdV u x.a = .ok a)
include on hc ha
theorem vcvt_gives (he : x.e = false) : Claims.Gives (.vcvt u x) s (s.wrV u x.d (Claims.act x.g s) 3 fun i =>
    Claims.target x.t (codeWrite x.t 0 (Claims.source x.s (lane a i)) x.r).1) := by
  refine runLanes_writes (show execVcvt u x s = _ from rfl) on hc ?_
  rw [ha, ok_bind, he]
  simp only [← cvtLane_eq_target, ← cvtRead_eq_source]
  rfl
/-- With EF the residues of the active lanes enter the conversion and are written anew (R74). -/
theorem vcvt_residues_gives {out : Nat → Nat × Nat} (he : x.e = true)
    (hout : ∀ i, out i = (codeFmt x.t 0).roundEf (Claims.source x.s (lane a i)) (lane (s.rdE u x.r.enc) i)) :
    Claims.Gives (.vcvt u x) s
      ((Claims.residues s u (Fin.ofNat 4 x.r.enc) x.g fun i => (out i).2).wrV u x.d (Claims.act x.g s) 3 fun i => (out i).1) := by
  refine runLanes_gives (show execVcvt u x s = _ from rfl) on ?_ (State.wr_gives (State.pre_residues on.1 ..) hc _ _ _ _)
  rw [ha, ok_bind, he, if_pos rfl]
  have entry (i : Nat) (hi : i < 64) :
      ((List.range 64).map fun i => (codeFmt x.t 0).roundEf (cvtRead x.s (lane a i)) (lane (s.rdE u x.r.enc) i)).getD i (0, 0) = out i := by
    rw [hout, ← cvtRead_eq_source]
    simp [hi]
  calc
    _ = (s.wrEf u x.r (Claims.act x.g s) _).wrV u x.d (Claims.act x.g s) 3 fun i => (out i).1 :=
      State.wrV_congr _ u x.d _ 3 fun i hi => congrArg Prod.fst (entry i hi)
    _ = _ := by rw [State.wrEf_eq_residues s u x.r x.g fun i hi => congrArg Prod.snd (entry i hi)]
end

/-! VUNPACK (R173). -/
/-- The code of lane i's element in the part that VUNPACK names. -/
def unpackElem (y : SysRegs) (x : VUnpack) (a i : Nat) : Nat := bitsOf a (packBit (packWidth y x.c) (64 * x.q + i)) (packWidth y x.c)
/-- Integer codes have no block scales. -/
theorem packBS_integer (y : SysRegs) {c : Nat} (h : c < 4) : packBS y c = false := by
  simp [packBS, show ¬8 ≤ c by omega]
section
variable {u : VUnit} {x : VUnpack} {s : State} {a : Nat} (on : Claims.Lanes x.g s)
include on
/-- A part past the format's is an illegal operation. -/
theorem vunpack_part (hq : packParts (packWidth s.pre.regs.sys x.c) ≤ x.q) : exec (.vunpack u x) s = .next (s.raise u.slot 2 0 none) := by
  refine (show execVunpack u x s = _ from rfl).trans (runLanes_error u x.g s _ (.trap 2 0) on.1 on.2 ?_)
  exact if_pos hq
variable (hc : Claims.Clear s (vLoc u x.d)) (ha : s.rdV u x.a = .ok a) (hq : x.q < packParts (packWidth s.pre.regs.sys x.c))
include hc ha hq
theorem vunpack_gives {f : Nat → Nat} (hs : packBS s.pre.regs.sys x.c = false)
    (hf : ∀ i, f i = if x.c.val < 4 then (if x.c.val % 2 = 0 then sext (packWidth s.pre.regs.sys x.c) (unpackElem s.pre.regs.sys x a i) 32
      else unpackElem s.pre.regs.sys x a i) else rne ((packFmt s.pre.regs.sys x.c).read (unpackElem s.pre.regs.sys x a i))) :
    Claims.Gives (.vunpack u x) s (s.wrV u x.d (Claims.act x.g s) 3 f) := by
  refine runLanes_writes (show execVunpack u x s = _ from rfl) on hc ?_
  rw [funext hf]
  dsimp only
  rw [if_neg (Nat.not_le.mpr hq), ha, ok_bind, hs]
  rfl
/-- A format with block scales reads them in near register 3 (R172). -/
theorem vunpack_scaled_gives {sc : Nat} (hs : packBS s.pre.regs.sys x.c = true) (hr : s.pre.read (.vn u 3) = .ok sc) :
    Claims.Gives (.vunpack u x) s (s.wrV u x.d (Claims.act x.g s) 3 fun i =>
      rne (unscale (bitsOf sc (8 * ((64 * x.q + i) / 32)) 8) ((packFmt s.pre.regs.sys x.c).read (unpackElem s.pre.regs.sys x a i)))) := by
  have hfmt : ¬x.c.val < 4 := fun h => by rw [packBS_integer _ h] at hs; cases hs
  refine runLanes_writes (show execVunpack u x s = _ from rfl) on hc ?_
  dsimp only
  rw [if_neg (Nat.not_le.mpr hq), ha, ok_bind, hs, if_pos rfl, hr, ok_bind]
  simp only [if_neg hfmt, if_true]
  rfl
end

/-! VPACK (R171, R172): the sums, places and bytes that its result is put together from. -/
theorem activeLanes_act (g : Guard) (s : State) : activeLanes (Claims.act g s) = Claims.active g s := by
  rw [activeLanes, funext (bitAt_eq_testBit _)]; rfl
theorem mem_active {g : Guard} {s : State} {i : Nat} : i ∈ Claims.active g s ↔ i < 64 ∧ (Claims.act g s).testBit i = true := by
  simp [Claims.active]
theorem foldl_add_eq_sum (l : List Nat) (f : Nat → Nat) : l.foldl (fun n i => n + f i) 0 = (l.map f).sum := by
  rw [List.sum_eq_foldl, List.foldl_map]
/-- The entry of a key in a list of keys with their values. -/
theorem find?_map_key {α : Type} (l : List Nat) (f : Nat → α) (i : Nat) :
    ((l.map fun j => (j, f j)).find? fun o => o.1 = i) = if i ∈ l then some (i, f i) else none := by
  induction l with
  | nil => rfl
  | cons j l ih =>
    by_cases h : j = i
    · subst h; simp
    · simp [h, Ne.symm h, ih]
theorem packLane_congr (y : SysRegs) (x : VPack) {f g : Nat → Nat} (v e i : Nat) (h : f (i / 32) = g (i / 32)) :
    packLane y x f v e i = packLane y x g v e i := by simp only [packLane, h]
theorem blockScale_lt (F : Fmt) (l : List FVal) : blockScale F l < 256 := by
  have clamped (i : Int) : clamp254 i < 256 := by unfold clamp254; split_ifs <;> omega
  unfold blockScale
  split_ifs
  · omega
  · omega
  · exact BitVec.isLt _
  · exact clamped _
/-- Two bytes side by side. -/
theorem bitsOf_two_bytes {v w : Nat} (p b : Nat) (hv : v < 256) (hw : w < 256) (hb : b < 2) :
    bitsOf (v * 2 ^ (8 * (2 * p)) + w * 2 ^ (8 * (2 * p + 1))) (8 * (2 * p + b)) 8 = if b = 0 then v else w := by
  have next : 2 ^ (8 * (2 * p + 1)) = 2 ^ (8 * (2 * p)) * 256 := by rw [Nat.mul_succ, Nat.pow_add]
  have both : v * 2 ^ (8 * (2 * p)) + w * 2 ^ (8 * (2 * p + 1)) = 2 ^ (8 * (2 * p)) * (v + w * 256) := by rw [next]; ring
  have pos := Nat.two_pow_pos (8 * (2 * p))
  rw [bitsOf, both]
  obtain rfl | rfl : b = 0 ∨ b = 1 := by omega
  · rw [Nat.add_zero, Nat.mul_div_cancel_left _ pos, if_pos rfl]; omega
  · rw [next, Nat.mul_div_mul_left _ _ pos, if_neg (by decide)]; omega
section
variable (u : VUnit) (x : VPack) (s : State) (a : Nat)
/-- The scale code of block b, from the active lanes. -/
def packScale (b : Nat) : Nat :=
  blockScale (packFmt s.pre.regs.sys x.c) (((Claims.active x.g s).filter fun i => i / 32 = b).map fun i => fp32.read (lane a i))
/-- Code and new residue of lane i. -/
def packOut (i : Nat) : Nat × Nat :=
  packLane s.pre.regs.sys x (packScale x s a) (lane a i) (lane (s.pre.regs.dat.get (.ve u (Fin.ofNat 4 x.r.enc))) i) i
/-- The place of lane i's code in the register. -/
def packPlace (i : Nat) : Nat := packBit (packWidth s.pre.regs.sys x.c) (64 * x.q + i)
/-- The state with the new residues. -/
def packState : State :=
  if x.e then Claims.residues s u (Fin.ofNat 4 x.r.enc) x.g fun i => if (Claims.act x.g s).testBit i then (packOut u x s a i).2 else 0 else s
/-- The codes of the active lanes at their places. -/
def packVal : Nat := ((Claims.active x.g s).map fun i => (packOut u x s a i).1 * 2 ^ packPlace x s i).sum
/-- The bits of the containers they fill. -/
def packMask : Nat := ((Claims.active x.g s).map fun i => (2 ^ container (packWidth s.pre.regs.sys x.c) - 1) * 2 ^ packPlace x s i).sum
/-- Block b has an active lane. -/
def blockHas (b : Nat) : Bool := (Claims.active x.g s).any fun i => i / 32 == b
/-- A byte for each block with an active lane, at the place of its scale code. -/
def scaleBytes (f : Nat → Nat) : Nat :=
  (if blockHas x s 0 then f 0 * 2 ^ (8 * (2 * x.q.val)) else 0) + (if blockHas x s 1 then f 1 * 2 ^ (8 * (2 * x.q.val + 1)) else 0)
/-- What VPACK writes: the codes, then the scales of a format that has them. -/
def packResult : Res State :=
  (packState u x s a).wr (vLoc u x.d) (packVal u x s a) (packMask x s) 1 4 >>= fun t =>
    if packBS s.pre.regs.sys x.c then t.wr (some (.vn u 3)) (scaleBytes x s (packScale x s a)) (scaleBytes x s fun _ => 255) 1 4 else .ok t
theorem bitsOf_scaleBytes {f : Nat → Nat} (hf : ∀ b, f b < 256) {b : Nat} (hb : b < 2) :
    bitsOf (scaleBytes x s f) (8 * (2 * x.q + b)) 8 = if blockHas x s b then f b else 0 := by
  have byte (c : Nat) : (if blockHas x s c then f c else 0) < 256 := by
    split
    · exact hf c
    · decide
  have spread : scaleBytes x s f = (if blockHas x s 0 then f 0 else 0) * 2 ^ (8 * (2 * x.q.val)) +
      (if blockHas x s 1 then f 1 else 0) * 2 ^ (8 * (2 * x.q.val + 1)) := by
    rw [scaleBytes]
    cases blockHas x s 0 <;> cases blockHas x s 1 <;> simp
  rw [spread, bitsOf_two_bytes _ _ (byte 0) (byte 1) hb]
  obtain rfl | rfl : b = 0 ∨ b = 1 := by omega
  · rfl
  · rfl
theorem any_block {b : Nat} : blockHas x s b = true ↔ ∃ i ∈ Claims.active x.g s, i / 32 = b := by simp [blockHas]
/-- The model keeps the scale codes of both blocks and the codes with their lanes. -/
theorem packOut_list : ((Claims.active x.g s).map fun i => (i,
    packLane s.pre.regs.sys x (fun b => if b = 0 then packScale x s a 0 else packScale x s a 1) (lane a i) (lane (s.rdE u x.r.enc) i) i)) =
    (Claims.active x.g s).map fun i => (i, packOut u x s a i) := by
  refine List.map_congr_left fun i hi => congrArg (Prod.mk i) (packLane_congr _ _ _ _ _ ?_)
  have block : i / 32 = 0 ∨ i / 32 = 1 := by have := (mem_active.mp hi).1; omega
  rcases block with h | h <;> simp [h]
end
section
variable {u : VUnit} {x : VPack} {s : State} {a : Nat} (on : Claims.Lanes x.g s)
include on
/-- A part past the format's is an illegal operation. -/
theorem vpack_part (hq : packParts (packWidth s.pre.regs.sys x.c) ≤ x.q) : exec (.vpack u x) s = .next (s.raise u.slot 2 0 none) := by
  refine (show execVpack u x s = _ from rfl).trans (runLanes_error u x.g s _ (.trap 2 0) on.1 on.2 ?_)
  exact if_pos hq
theorem vpack_ok {d : Nat} {t : State} (ha : s.rdV u x.a = .ok a) (hd : s.rdVD u x.d = .ok d) (hq : x.q < packParts (packWidth s.pre.regs.sys x.c))
    (ht : packResult u x s a = .ok t) : exec (.vpack u x) s = .next t := by
  refine (show execVpack u x s = _ from rfl).trans (runLanes_ok u x.g s t _ on.1 on.2 ?_)
  rw [← ht]
  dsimp only
  rw [if_neg (Nat.not_le.mpr hq), ha, ok_bind, hd, ok_bind]
  have codes := packOut_list u x s a
  have act : activeLanes (x.g.lanes s.pre) = Claims.active x.g s := activeLanes_act x.g s
  simp only [packScale] at codes
  simp only [act, f32_lane]
  rw [codes]
  have entry (i : Nat) (hi : i < 64) :
      ((((Claims.active x.g s).map fun i => (i, packOut u x s a i)).find? fun o => o.1 = i).map fun o => o.2.2).getD 0 =
      if (Claims.act x.g s).testBit i then (packOut u x s a i).2 else 0 := by
    rw [find?_map_key]
    by_cases h : (Claims.act x.g s).testBit i = true
    · simp [mem_active, hi, h]
    · simp [mem_active, h]
  rw [show s.wrEf u x.r (x.g.lanes s.pre) _ = _ from State.wrEf_eq_residues s u x.r x.g entry, List.foldl_map, foldl_add_eq_sum,
    foldl_add_eq_sum]
  simp only [packResult, packState, packVal, packMask, packPlace, scaleBytes, blockHas, packScale, Nat.add_zero]
  rfl
end

/-- Settles O37: lane by lane for VCVT and VUNPACK, and for VPACK by `vpack_ok`, the block scales by `bitsOf_scaleBytes`. -/
theorem vectorConversions : Obligations.VectorConversions := by
  refine ⟨?convert, ?pack, ?unpack⟩
  case convert =>
    intro u x s a on hc ha
    exact ⟨vcvt_gives on hc ha, fun he _ => vcvt_residues_gives on hc ha he fun _ => rfl⟩
  case pack =>
    intro u x s a on hc ha ⟨d, hd⟩ y w place block n out z v m
    have hz : z.pre = s.pre ∧ z.opened.isSome = true := by
      unfold z
      split
      · exact ⟨State.pre_residues on.1 .., State.opened_residues on.1 ..⟩
      · exact ⟨rfl, on.1⟩
    obtain ⟨r, hr⟩ := State.wr_gives hz.1 hc v m 1 4
    have rest {k : Res State}
        (hk : (if packBS y x.c then r.wr (some (.vn u 3)) (scaleBytes x s block) (scaleBytes x s fun _ => 255) 1 4 else .ok r) = k) :
        packResult u x s a = k := by
      show (z.wr (vLoc u x.d) v m 1 4 >>= _) = k
      rw [hr, ok_bind]
      exact hk
    refine ⟨vpack_part on, fun hq => ⟨fun hs => ⟨r, hr, vpack_ok on ha hd hq (rest (by rw [hs]; rfl))⟩, fun hs hc3 => ?_⟩⟩
    obtain ⟨t, ht⟩ := State.wr_gives ((State.pre_wr hz.2 hr).trans hz.1) hc3 (scaleBytes x s block) (scaleBytes x s fun _ => 255) 1 4
    refine ⟨t, r, _, _, hr, ht, vpack_ok on ha hd hq (rest (by rw [hs]; exact ht)), fun b hb => ?_⟩
    rw [bitsOf_scaleBytes x s (fun b => blockScale_lt ..) hb, bitsOf_scaleBytes x s (fun _ => by decide) hb]
    refine ⟨fun has => ?_, fun none => if_neg fun has => ?_⟩
    · have h := (any_block x s).mpr has
      exact ⟨if_pos h, if_pos h⟩
    · obtain ⟨i, hi, hb⟩ := (any_block x s).mp has
      exact none i hi hb
  case unpack =>
    intro u x s a on hc ha y w elem
    refine ⟨vunpack_part on, fun hq hi => ?_, fun hq hf hs => ?_, fun sc hq hs hr => vunpack_scaled_gives on hc ha hq hs hr⟩
    · refine vunpack_gives on hc ha hq (packBS_integer _ hi) fun i => ?_
      rw [if_pos hi, sext_eq_signExtend]
      rfl
    · refine vunpack_gives on hc ha hq hs fun i => ?_
      rw [if_neg (Nat.not_lt.mpr hf)]
      rfl

end Sys2Proof.Machine

namespace Sys2Proof.Machine

/-!
PROOFS. O5: the word of each instruction, by the lemma of its constructor (Laws/PerInstr.lean).
-/

/-- Settles O5: each constructor has its lemma in the family `Encoded`. -/
theorem decodeEncode : Obligations.DecodeEncode := by
  unfold Obligations.DecodeEncode
  intro i
  cases i with
  | nopF => exact Laws.Encoded.nopF
  | prep x => exact Laws.Encoded.prep x
  | prepm x => exact Laws.Encoded.prepm x
  | bt x => exact Laws.Encoded.bt x
  | j x => exact Laws.Encoded.j x
  | call x => exact Laws.Encoded.call x
  | ret x => exact Laws.Encoded.ret x
  | loop x => exact Laws.Encoded.loop x
  | setlc x => exact Laws.Encoded.setlc x
  | spl x => exact Laws.Encoded.spl x
  | wait x => exact Laws.Encoded.wait x
  | post x => exact Laws.Encoded.post x
  | postr x => exact Laws.Encoded.postr x
  | tlw x => exact Laws.Encoded.tlw x
  | bbset x => exact Laws.Encoded.bbset x
  | bbwait x => exact Laws.Encoded.bbwait x
  | ridge x => exact Laws.Encoded.ridge x
  | seg x => exact Laws.Encoded.seg x
  | rdv x => exact Laws.Encoded.rdv x
  | trap x => exact Laws.Encoded.trap x
  | rtt x => exact Laws.Encoded.rtt x
  | endF x => exact Laws.Encoded.endF x
  | yield x => exact Laws.Encoded.yield x
  | drain x => exact Laws.Encoded.drain x
  | drainE x => exact Laws.Encoded.drainE x
  | clkdiv x => exact Laws.Encoded.clkdiv x
  | launch x => exact Laws.Encoded.launch x
  | send x => exact Laws.Encoded.send x
  | getmF x => exact Laws.Encoded.getmF x
  | epi x => exact Laws.Encoded.epi x
  | wdog x => exact Laws.Encoded.wdog x
  | hbeat x => exact Laws.Encoded.hbeat x
  | capq x => exact Laws.Encoded.capq x
  | pitchq x => exact Laws.Encoded.pitchq x
  | sleep x => exact Laws.Encoded.sleep x
  | brk x => exact Laws.Encoded.brk x
  | scalarNop => exact Laws.Encoded.scalarNop
  | add x => exact Laws.Encoded.add x
  | sub x => exact Laws.Encoded.sub x
  | addi x => exact Laws.Encoded.addi x
  | movi x => exact Laws.Encoded.movi x
  | movhi x => exact Laws.Encoded.movhi x
  | mul x => exact Laws.Encoded.mul x
  | mulh x => exact Laws.Encoded.mulh x
  | mulhu x => exact Laws.Encoded.mulhu x
  | div x => exact Laws.Encoded.div x
  | divu x => exact Laws.Encoded.divu x
  | rem x => exact Laws.Encoded.rem x
  | remu x => exact Laws.Encoded.remu x
  | and x => exact Laws.Encoded.and x
  | or x => exact Laws.Encoded.or x
  | xor x => exact Laws.Encoded.xor x
  | andn x => exact Laws.Encoded.andn x
  | not x => exact Laws.Encoded.not x
  | shl x => exact Laws.Encoded.shl x
  | shr x => exact Laws.Encoded.shr x
  | sar x => exact Laws.Encoded.sar x
  | rot x => exact Laws.Encoded.rot x
  | fsh x => exact Laws.Encoded.fsh x
  | bfx x => exact Laws.Encoded.bfx x
  | bfxs x => exact Laws.Encoded.bfxs x
  | bfi x => exact Laws.Encoded.bfi x
  | clz x => exact Laws.Encoded.clz x
  | ctz x => exact Laws.Encoded.ctz x
  | popc x => exact Laws.Encoded.popc x
  | min x => exact Laws.Encoded.min x
  | max x => exact Laws.Encoded.max x
  | minu x => exact Laws.Encoded.minu x
  | maxu x => exact Laws.Encoded.maxu x
  | sel x => exact Laws.Encoded.sel x
  | cmpeq x => exact Laws.Encoded.cmpeq x
  | cmpne x => exact Laws.Encoded.cmpne x
  | cmplt x => exact Laws.Encoded.cmplt x
  | cmple x => exact Laws.Encoded.cmple x
  | cmpltu x => exact Laws.Encoded.cmpltu x
  | cmpleu x => exact Laws.Encoded.cmpleu x
  | cmpi x => exact Laws.Encoded.cmpi x
  | pand x => exact Laws.Encoded.pand x
  | por x => exact Laws.Encoded.por x
  | pxor x => exact Laws.Encoded.pxor x
  | pnot x => exact Laws.Encoded.pnot x
  | pmov x => exact Laws.Encoded.pmov x
  | fadd x => exact Laws.Encoded.fadd x
  | fsub x => exact Laws.Encoded.fsub x
  | fmul x => exact Laws.Encoded.fmul x
  | fma x => exact Laws.Encoded.fma x
  | fdiv x => exact Laws.Encoded.fdiv x
  | fsqrt x => exact Laws.Encoded.fsqrt x
  | fcvt x => exact Laws.Encoded.fcvt x
  | fcmp x => exact Laws.Encoded.fcmp x
  | fmin x => exact Laws.Encoded.fmin x
  | fmax x => exact Laws.Encoded.fmax x
  | ld x => exact Laws.Encoded.ld x
  | lds x => exact Laws.Encoded.lds x
  | st x => exact Laws.Encoded.st x
  | ldl x => exact Laws.Encoded.ldl x
  | invl x => exact Laws.Encoded.invl x
  | fll1 x => exact Laws.Encoded.fll1 x
  | aadd x => exact Laws.Encoded.aadd x
  | axchg x => exact Laws.Encoded.axchg x
  | acas x => exact Laws.Encoded.acas x
  | amin x => exact Laws.Encoded.amin x
  | amax x => exact Laws.Encoded.amax x
  | aand x => exact Laws.Encoded.aand x
  | aor x => exact Laws.Encoded.aor x
  | afadd x => exact Laws.Encoded.afadd x
  | scalarGetm x => exact Laws.Encoded.scalarGetm x
  | scalarPutm x => exact Laws.Encoded.scalarPutm x
  | scalarXfer x => exact Laws.Encoded.scalarXfer x
  | mfs x => exact Laws.Encoded.mfs x
  | mts x => exact Laws.Encoded.mts x
  | tlbinvPage x => exact Laws.Encoded.tlbinvPage x
  | tlbinvRange x => exact Laws.Encoded.tlbinvRange x
  | tlbinvAll x => exact Laws.Encoded.tlbinvAll x
  | tlbsync x => exact Laws.Encoded.tlbsync x
  | ctxsave x => exact Laws.Encoded.ctxsave x
  | ctxload x => exact Laws.Encoded.ctxload x
  | ctxkill x => exact Laws.Encoded.ctxkill x
  | partsetCreate x => exact Laws.Encoded.partsetCreate x
  | partsetUpdate x => exact Laws.Encoded.partsetUpdate x
  | partsetStop x => exact Laws.Encoded.partsetStop x
  | partsetDestroy x => exact Laws.Encoded.partsetDestroy x
  | wayset x => exact Laws.Encoded.wayset x
  | zeroMem x => exact Laws.Encoded.zeroMem x
  | zeroBanks x => exact Laws.Encoded.zeroBanks x
  | zeroCarr x => exact Laws.Encoded.zeroCarr x
  | zeroL2 x => exact Laws.Encoded.zeroL2 x
  | lease x => exact Laws.Encoded.lease x
  | unlease x => exact Laws.Encoded.unlease x
  | score x => exact Laws.Encoded.score x
  | scoreAdd x => exact Laws.Encoded.scoreAdd x
  | retire x => exact Laws.Encoded.retire x
  | retireForce x => exact Laws.Encoded.retireForce x
  | fenceq x => exact Laws.Encoded.fenceq x
  | appeal x => exact Laws.Encoded.appeal x
  | appealBar x => exact Laws.Encoded.appealBar x
  | meter x => exact Laws.Encoded.meter x
  | signqUsage x => exact Laws.Encoded.signqUsage x
  | signqRetired x => exact Laws.Encoded.signqRetired x
  | signqQuote x => exact Laws.Encoded.signqQuote x
  | powqPkg x => exact Laws.Encoded.powqPkg x
  | powqCore x => exact Laws.Encoded.powqCore x
  | powqGrant x => exact Laws.Encoded.powqGrant x
  | injOff x => exact Laws.Encoded.injOff x
  | injOn x => exact Laws.Encoded.injOn x
  | injPoison x => exact Laws.Encoded.injPoison x
  | vectorNop x => exact Laws.Encoded.vectorNop x
  | vadd x y => exact Laws.Encoded.vadd x y
  | vsub x y => exact Laws.Encoded.vsub x y
  | vmul x y => exact Laws.Encoded.vmul x y
  | vfma x y => exact Laws.Encoded.vfma x y
  | vfms x y => exact Laws.Encoded.vfms x y
  | vmin x y => exact Laws.Encoded.vmin x y
  | vmax x y => exact Laws.Encoded.vmax x y
  | vabs x y => exact Laws.Encoded.vabs x y
  | vneg x y => exact Laws.Encoded.vneg x y
  | vrcp x y => exact Laws.Encoded.vrcp x y
  | vrsq x y => exact Laws.Encoded.vrsq x y
  | vexp2 x y => exact Laws.Encoded.vexp2 x y
  | vlog2 x y => exact Laws.Encoded.vlog2 x y
  | vdiv x y => exact Laws.Encoded.vdiv x y
  | vcmpeq x y => exact Laws.Encoded.vcmpeq x y
  | vcmpne x y => exact Laws.Encoded.vcmpne x y
  | vcmplt x y => exact Laws.Encoded.vcmplt x y
  | vcmple x y => exact Laws.Encoded.vcmple x y
  | vsel x y => exact Laws.Encoded.vsel x y
  | vand x y => exact Laws.Encoded.vand x y
  | vor x y => exact Laws.Encoded.vor x y
  | vxor x y => exact Laws.Encoded.vxor x y
  | vandn x y => exact Laws.Encoded.vandn x y
  | vshl x y => exact Laws.Encoded.vshl x y
  | vshr x y => exact Laws.Encoded.vshr x y
  | vsar x y => exact Laws.Encoded.vsar x y
  | vbfx x y => exact Laws.Encoded.vbfx x y
  | vbfi x y => exact Laws.Encoded.vbfi x y
  | vfsh x y => exact Laws.Encoded.vfsh x y
  | vpopc x y => exact Laws.Encoded.vpopc x y
  | vclz x y => exact Laws.Encoded.vclz x y
  | vcvt x y => exact Laws.Encoded.vcvt x y
  | vpack x y => exact Laws.Encoded.vpack x y
  | vunpack x y => exact Laws.Encoded.vunpack x y
  | vperm x y => exact Laws.Encoded.vperm x y
  | vbcast x y => exact Laws.Encoded.vbcast x y
  | vslide x y => exact Laws.Encoded.vslide x y
  | viota x y => exact Laws.Encoded.viota x y
  | viotaRand x y => exact Laws.Encoded.viotaRand x y
  | vredadd x y => exact Laws.Encoded.vredadd x y
  | vredmax x y => exact Laws.Encoded.vredmax x y
  | vscan x y => exact Laws.Encoded.vscan x y
  | vld x y => exact Laws.Encoded.vld x y
  | vst x y => exact Laws.Encoded.vst x y
  | vlds x y => exact Laws.Encoded.vlds x y
  | vsts x y => exact Laws.Encoded.vsts x y
  | vgath x y => exact Laws.Encoded.vgath x y
  | vscat x y => exact Laws.Encoded.vscat x y
  | vtbl x y => exact Laws.Encoded.vtbl x y
  | vaadd x y => exact Laws.Encoded.vaadd x y
  | vafadd x y => exact Laws.Encoded.vafadd x y
  | vectorGetm x y => exact Laws.Encoded.vectorGetm x y
  | vectorPutm x y => exact Laws.Encoded.vectorPutm x y
  | vectorXfer x y => exact Laws.Encoded.vectorXfer x y
  | vmovs x y => exact Laws.Encoded.vmovs x y
  | vpmovToPredicate x y => exact Laws.Encoded.vpmovToPredicate x y
  | vpmovFromPredicate x y => exact Laws.Encoded.vpmovFromPredicate x y
  | vefclr x y => exact Laws.Encoded.vefclr x y
  | vefget x y => exact Laws.Encoded.vefget x y
  | vefput x y => exact Laws.Encoded.vefput x y
  | vfmtset x y => exact Laws.Encoded.vfmtset x y
  | xclr x => exact Laws.Encoded.xclr x
  | xseto x => exact Laws.Encoded.xseto x
  | xform x => exact Laws.Encoded.xform x
  | xm2m x => exact Laws.Encoded.xm2m x
  | xm2l x => exact Laws.Encoded.xm2l x
  | xl2l x => exact Laws.Encoded.xl2l x
  | xeval x => exact Laws.Encoded.xeval x
  | xadm x => exact Laws.Encoded.xadm x
  | xadd x => exact Laws.Encoded.xadd x
  | xld x => exact Laws.Encoded.xld x
  | xst x => exact Laws.Encoded.xst x
  | xnorm x => exact Laws.Encoded.xnorm x
  | xget x => exact Laws.Encoded.xget x
  | matrixNop => exact Laws.Encoded.matrixNop
  | mdset x => exact Laws.Encoded.mdset x
  | mdget x => exact Laws.Encoded.mdget x
  | mldt x => exact Laws.Encoded.mldt x
  | mstz x => exact Laws.Encoded.mstz x
  | mstzTag x => exact Laws.Encoded.mstzTag x
  | mma x => exact Laws.Encoded.mma x
  | mmaz x => exact Laws.Encoded.mmaz x
  | mnest x => exact Laws.Encoded.mnest x
  | mnestz x => exact Laws.Encoded.mnestz x
  | mzero x => exact Laws.Encoded.mzero x
  | mtr x => exact Laws.Encoded.mtr x
  | mrdz x => exact Laws.Encoded.mrdz x
  | mwm x => exact Laws.Encoded.mwm x
  | mchk x => exact Laws.Encoded.mchk x
  | mchkz x => exact Laws.Encoded.mchkz x
  | mres x => exact Laws.Encoded.mres x
  | mfix x => exact Laws.Encoded.mfix x
  | mmir x => exact Laws.Encoded.mmir x
  | minj x => exact Laws.Encoded.minj x
  | mtag x => exact Laws.Encoded.mtag x
  | mcvt x => exact Laws.Encoded.mcvt x
  | mbias x => exact Laws.Encoded.mbias x
  | mactRelu x => exact Laws.Encoded.mactRelu x
  | mactAbs x => exact Laws.Encoded.mactAbs x
  | mactScale x => exact Laws.Encoded.mactScale x
  | mpitch x => exact Laws.Encoded.mpitch x
  | matrixGetm x => exact Laws.Encoded.matrixGetm x
  | matrixPutm x => exact Laws.Encoded.matrixPutm x
  | matrixXfer x => exact Laws.Encoded.matrixXfer x
  | copyNop x => exact Laws.Encoded.copyNop x
  | cdsetImmediate x y => exact Laws.Encoded.cdsetImmediate x y
  | cdsetRegister x y => exact Laws.Encoded.cdsetRegister x y
  | cdget x y => exact Laws.Encoded.cdget x y
  | cpy x y => exact Laws.Encoded.cpy x y
  | cpyb x y => exact Laws.Encoded.cpyb x y
  | cpyt x y => exact Laws.Encoded.cpyt x y
  | cgath x y => exact Laws.Encoded.cgath x y
  | cscat x y => exact Laws.Encoded.cscat x y
  | czero x y => exact Laws.Encoded.czero x y
  | cfill x y => exact Laws.Encoded.cfill x y
  | cred x y => exact Laws.Encoded.cred x y
  | cbcast x y => exact Laws.Encoded.cbcast x y
  | callred x y => exact Laws.Encoded.callred x y
  | cdigest x y => exact Laws.Encoded.cdigest x y
  | cpull x y => exact Laws.Encoded.cpull x y
  | cpost x y => exact Laws.Encoded.cpost x y
  | chostTo x y => exact Laws.Encoded.chostTo x y
  | chostFrom x y => exact Laws.Encoded.chostFrom x y
  | ccarrTo x y => exact Laws.Encoded.ccarrTo x y
  | ccarrFrom x y => exact Laws.Encoded.ccarrFrom x y
  | ctlr x y => exact Laws.Encoded.ctlr x y
  | cwait x y => exact Laws.Encoded.cwait x y
  | cfence x y => exact Laws.Encoded.cfence x y
  | cfenceA x y => exact Laws.Encoded.cfenceA x y
  | ccvt x y => exact Laws.Encoded.ccvt x y
  | cpref x y => exact Laws.Encoded.cpref x y
  | cswp x y => exact Laws.Encoded.cswp x y
  | copyGetm x y => exact Laws.Encoded.copyGetm x y
  | copyPutm x y => exact Laws.Encoded.copyPutm x y
  | copyXfer x y => exact Laws.Encoded.copyXfer x y
  | bundleCommit x => exact Laws.Encoded.bundleCommit x
  | asynchronousTrap x => exact Laws.Encoded.asynchronousTrap x
  | fairnessYield x => exact Laws.Encoded.fairnessYield x
  | watchdogExpiry x => exact Laws.Encoded.watchdogExpiry x
  | sleepEnd x => exact Laws.Encoded.sleepEnd x
  | exposedResultLand x y => exact Laws.Encoded.exposedResultLand x y
  | memoryAccessPerform x y z => exact Laws.Encoded.memoryAccessPerform x y z
  | migpullRepost x y => exact Laws.Encoded.migpullRepost x y
  | migrationHoldTimeout x y => exact Laws.Encoded.migrationHoldTimeout x y
  | messageDelivery x => exact Laws.Encoded.messageDelivery x
  | remotePostApply x => exact Laws.Encoded.remotePostApply x
  | fencedNack x => exact Laws.Encoded.fencedNack x
  | ridgeArrival x => exact Laws.Encoded.ridgeArrival x
  | ridgeRelease x => exact Laws.Encoded.ridgeRelease x
  | endComplete x => exact Laws.Encoded.endComplete x
  | nodeEnd x => exact Laws.Encoded.nodeEnd x
  | contextKill x => exact Laws.Encoded.contextKill x
  | restoreGateRelease x => exact Laws.Encoded.restoreGateRelease x
  | commandStart x y => exact Laws.Encoded.commandStart x y
  | ktileIntake x y z => exact Laws.Encoded.ktileIntake x y z
  | accumulatorRowFinal x y => exact Laws.Encoded.accumulatorRowFinal x y
  | commandPerform x y => exact Laws.Encoded.commandPerform x y
  | copyBatchLand x y z => exact Laws.Encoded.copyBatchLand x y z
  | copyTimeout x y => exact Laws.Encoded.copyTimeout x y
  | detContributionAccept x y => exact Laws.Encoded.detContributionAccept x y
  | collectiveExchange x y z => exact Laws.Encoded.collectiveExchange x y z
  | sourceFenced x y => exact Laws.Encoded.sourceFenced x y
  | segmentRollback x => exact Laws.Encoded.segmentRollback x
  | budgetOverrun x => exact Laws.Encoded.budgetOverrun x
  | partitionPeriodStart x => exact Laws.Encoded.partitionPeriodStart x
  | epilogueStop x => exact Laws.Encoded.epilogueStop x
  | drainBoundExpiry x => exact Laws.Encoded.drainBoundExpiry x
  | coreGovernorWindowEnd x => exact Laws.Encoded.coreGovernorWindowEnd x
  | plainGovernorWindowEnd x y => exact Laws.Encoded.plainGovernorWindowEnd x y
  | energyWindowEnd x => exact Laws.Encoded.energyWindowEnd x
  | usageRecordEmit x => exact Laws.Encoded.usageRecordEmit x
  | ctxsaveDone x => exact Laws.Encoded.ctxsaveDone x
  | ctxloadDone x => exact Laws.Encoded.ctxloadDone x
  | partitionCreateDone x => exact Laws.Encoded.partitionCreateDone x
  | partitionStopDone x => exact Laws.Encoded.partitionStopDone x
  | partitionDestroyDone x => exact Laws.Encoded.partitionDestroyDone x
  | zeroDone x => exact Laws.Encoded.zeroDone x
  | retirementRecord x => exact Laws.Encoded.retirementRecord x
  | signedRecordDone x => exact Laws.Encoded.signedRecordDone x
  | heartbeatSend x => exact Laws.Encoded.heartbeatSend x
  | heartbeatReceive x y z => exact Laws.Encoded.heartbeatReceive x y z
  | heartbeatPeriodEnd x => exact Laws.Encoded.heartbeatPeriodEnd x
  | flitWindowEnd x y z => exact Laws.Encoded.flitWindowEnd x y z
  | accusationReceive x y z => exact Laws.Encoded.accusationReceive x y z
  | withdrawalReceive x y z => exact Laws.Encoded.withdrawalReceive x y z
  | fenceNoticeReceive x y => exact Laws.Encoded.fenceNoticeReceive x y
  | readmissionReceive x y => exact Laws.Encoded.readmissionReceive x y
  | bistResult x y => exact Laws.Encoded.bistResult x y
  | leasePlacement x => exact Laws.Encoded.leasePlacement x
  | leaseWithdrawal x => exact Laws.Encoded.leaseWithdrawal x
  | patternEnd x y z => exact Laws.Encoded.patternEnd x y z
  | scoreHalving => exact Laws.Encoded.scoreHalving
  | powerOnReset => exact Laws.Encoded.powerOnReset
  | selfTest x y z w => exact Laws.Encoded.selfTest x y z w
  | powerToken x => exact Laws.Encoded.powerToken x
  | tokenLeaseExpiry => exact Laws.Encoded.tokenLeaseExpiry
  | hbmThermalMeasurement x y => exact Laws.Encoded.hbmThermalMeasurement x y
  | dieThermalMeasurement x y => exact Laws.Encoded.dieThermalMeasurement x y
  | hostWrite x y z => exact Laws.Encoded.hostWrite x y z
  | hostRead x y z => exact Laws.Encoded.hostRead x y z
  | winbase x y z => exact Laws.Encoded.winbase x y z
  | status x y => exact Laws.Encoded.status x y
  | spdmRequest x y => exact Laws.Encoded.spdmRequest x y
  | tdispRequest x y => exact Laws.Encoded.tdispRequest x y
  | flitReceive x y => exact Laws.Encoded.flitReceive x y
  | nakReceive x y => exact Laws.Encoded.nakReceive x y
  | unreachableNack x y => exact Laws.Encoded.unreachableNack x y
  | instructionFetch x y => exact Laws.Encoded.instructionFetch x y
  | longSeriesOperationLand x y => exact Laws.Encoded.longSeriesOperationLand x y
  | tlbinvRemovalEnd x => exact Laws.Encoded.tlbinvRemovalEnd x
  | linkTraining x y => exact Laws.Encoded.linkTraining x y

end Sys2Proof.Machine

namespace Sys2Proof.Machine

/-!
PROOFS. O6: what a word of a slot decodes to is encoded to that word. Each opcode of a group has one layout, or alternatives told apart by fixed bits; a
layout's decoder is sound (Laws/Encode.lean: `dec_sound`), so the opcode above the layout's word is the word read.
-/

/-- The instruction is one of the slot and its word is n. -/
def IsWord (sl : Slot) (n : Nat) (i : Instr) : Prop := encode i = some n ∧ i.slot = some sl
section
variable {sl : Slot} {n m op fx : Nat} {i : Instr} {α : Type} {c : α → Instr} {d : Option α} {f : α → Nat}
/-- What a layout gives under its opcode, with its fixed bits `fx`. -/
theorem IsWord.of_layout (h : d.map c = some i) (hn : n / m = op) (sound : ∀ x, d = some x → f x + fx = n % m)
    (word : ∀ x, encode (c x) = some (op * m + fx + f x)) (slot : ∀ x, (c x).slot = some sl) : IsWord sl n i := by
  obtain ⟨x, hx, rfl⟩ := Option.map_eq_some_iff.mp h
  refine ⟨(word x).trans (congrArg some ?_), slot x⟩
  have e := sound x hx
  have split := Nat.div_add_mod n m
  rw [hn, Nat.mul_comm] at split
  omega
/-- The word 0 is the group's no-op. -/
theorem IsWord.of_zero {j : Instr} (h : (if n = 0 then some j else none) = some i) (word : encode j = some 0) (slot : j.slot = some sl) :
    IsWord sl n i := by
  obtain ⟨rfl, rfl⟩ := ite_some h
  exact ⟨word, slot⟩
/-- The first alternative that gives something. -/
theorem of_alternatives {a b : Option Instr} {P : Prop} (h : (a <|> b) = some i) (ha : a = some i → P) (hb : b = some i → P) : P := by
  cases a with
  | none => exact hb h
  | some j => exact ha h
end

theorem rawFlow_isWord {n : Nat} {i : Instr} (h : rawFlow n = some i) : IsWord .f n i := by
  unfold rawFlow at h
  split at h
  · exact .of_zero h rfl rfl
  · exact .of_layout h ‹_› (FPrep.dec_sound n) (fun _ => rfl) (fun _ => rfl)
  · exact .of_layout h ‹_› (FPrepM.dec_sound n) (fun _ => rfl) (fun _ => rfl)
  · exact .of_layout h ‹_› (FBt.dec_sound n) (fun _ => rfl) (fun _ => rfl)
  · exact .of_layout h ‹_› (FJump.dec_sound n) (fun _ => rfl) (fun _ => rfl)
  · exact .of_layout h ‹_› (FTgt.dec_sound n) (fun _ => rfl) (fun _ => rfl)
  · exact .of_layout h ‹_› (FNone.dec_sound n) (fun _ => rfl) (fun _ => rfl)
  · exact .of_layout h ‹_› (FLoop.dec_sound n) (fun _ => rfl) (fun _ => rfl)
  · exact .of_layout h ‹_› (FCountLc.dec_sound n) (fun _ => rfl) (fun _ => rfl)
  · exact .of_layout h ‹_› (FSpl.dec_sound n) (fun _ => rfl) (fun _ => rfl)
  · exact .of_layout h ‹_› (FCountF.dec_sound n) (fun _ => rfl) (fun _ => rfl)
  · exact .of_layout h ‹_› (FCountF.dec_sound n) (fun _ => rfl) (fun _ => rfl)
  · exact .of_layout h ‹_› (FPostr.dec_sound n) (fun _ => rfl) (fun _ => rfl)
  · exact .of_layout h ‹_› (FTlw.dec_sound n) (fun _ => rfl) (fun _ => rfl)
  · exact .of_layout h ‹_› (FCountBb.dec_sound n) (fun _ => rfl) (fun _ => rfl)
  · exact .of_layout h ‹_› (FBb.dec_sound n) (fun _ => rfl) (fun _ => rfl)
  · exact .of_layout h ‹_› (FNone.dec_sound n) (fun _ => rfl) (fun _ => rfl)
  · exact .of_layout h ‹_› (FSeg.dec_sound n) (fun _ => rfl) (fun _ => rfl)
  · exact .of_layout h ‹_› (FNone.dec_sound n) (fun _ => rfl) (fun _ => rfl)
  · exact .of_layout h ‹_› (FImm.dec_sound n) (fun _ => rfl) (fun _ => rfl)
  · exact .of_layout h ‹_› (FNone.dec_sound n) (fun _ => rfl) (fun _ => rfl)
  · exact .of_layout h ‹_› (FNone.dec_sound n) (fun _ => rfl) (fun _ => rfl)
  · exact .of_layout h ‹_› (FNone.dec_sound n) (fun _ => rfl) (fun _ => rfl)
  · exact of_alternatives h (fun h => .of_layout h ‹_› (FScope.dec_sound n) (fun _ => rfl) (fun _ => rfl))
      fun h => .of_layout h ‹_› (FScope.dec_sound_262144 n) (fun _ => rfl) (fun _ => rfl)
  · exact .of_layout h ‹_› (FClk.dec_sound n) (fun _ => rfl) (fun _ => rfl)
  · exact .of_layout h ‹_› (FFlagM.dec_sound n) (fun _ => rfl) (fun _ => rfl)
  · exact .of_layout h ‹_› (FSendS.dec_sound n) (fun _ => rfl) (fun _ => rfl)
  · exact .of_layout h ‹_› (FGetm.dec_sound n) (fun _ => rfl) (fun _ => rfl)
  · exact .of_layout h ‹_› (FEpi.dec_sound n) (fun _ => rfl) (fun _ => rfl)
  · exact .of_layout h ‹_› (FPred.dec_sound n) (fun _ => rfl) (fun _ => rfl)
  · exact .of_layout h ‹_› (FPred.dec_sound n) (fun _ => rfl) (fun _ => rfl)
  · exact .of_layout h ‹_› (FCapq.dec_sound n) (fun _ => rfl) (fun _ => rfl)
  · exact .of_layout h ‹_› (FPitchq.dec_sound n) (fun _ => rfl) (fun _ => rfl)
  · exact .of_layout h ‹_› (FImm.dec_sound n) (fun _ => rfl) (fun _ => rfl)
  · exact .of_layout h ‹_› (FImm.dec_sound n) (fun _ => rfl) (fun _ => rfl)
  · cases h
theorem rawScalar_isWord {n : Nat} {i : Instr} (h : rawScalar n = some i) : IsWord .s n i := by
  unfold rawScalar at h
  split at h
  · exact .of_zero h rfl rfl
  · exact .of_layout h ‹_› (SAlu.dec_sound n) (fun _ => rfl) (fun _ => rfl)
  · exact .of_layout h ‹_› (SAlu.dec_sound n) (fun _ => rfl) (fun _ => rfl)
  · exact .of_layout h ‹_› (SImm.dec_sound n) (fun _ => rfl) (fun _ => rfl)
  · exact .of_layout h ‹_› (SImm.dec_sound n) (fun _ => rfl) (fun _ => rfl)
  · exact .of_layout h ‹_› (SImm.dec_sound n) (fun _ => rfl) (fun _ => rfl)
  · exact .of_layout h ‹_› (SAlu.dec_sound n) (fun _ => rfl) (fun _ => rfl)
  · exact .of_layout h ‹_› (SAlu.dec_sound n) (fun _ => rfl) (fun _ => rfl)
  · exact .of_layout h ‹_› (SAlu.dec_sound n) (fun _ => rfl) (fun _ => rfl)
  · exact .of_layout h ‹_› (SAlu.dec_sound n) (fun _ => rfl) (fun _ => rfl)
  · exact .of_layout h ‹_› (SAlu.dec_sound n) (fun _ => rfl) (fun _ => rfl)
  · exact .of_layout h ‹_› (SAlu.dec_sound n) (fun _ => rfl) (fun _ => rfl)
  · exact .of_layout h ‹_› (SAlu.dec_sound n) (fun _ => rfl) (fun _ => rfl)
  · exact .of_layout h ‹_› (SAlu.dec_sound n) (fun _ => rfl) (fun _ => rfl)
  · exact .of_layout h ‹_› (SAlu.dec_sound n) (fun _ => rfl) (fun _ => rfl)
  · exact .of_layout h ‹_› (SAlu.dec_sound n) (fun _ => rfl) (fun _ => rfl)
  · exact .of_layout h ‹_› (SAlu.dec_sound n) (fun _ => rfl) (fun _ => rfl)
  · exact .of_layout h ‹_› (SUn.dec_sound n) (fun _ => rfl) (fun _ => rfl)
  · exact .of_layout h ‹_› (SAlu.dec_sound n) (fun _ => rfl) (fun _ => rfl)
  · exact .of_layout h ‹_› (SAlu.dec_sound n) (fun _ => rfl) (fun _ => rfl)
  · exact .of_layout h ‹_› (SAlu.dec_sound n) (fun _ => rfl) (fun _ => rfl)
  · exact .of_layout h ‹_› (SAlu.dec_sound n) (fun _ => rfl) (fun _ => rfl)
  · exact .of_layout h ‹_› (SAlu.dec_sound n) (fun _ => rfl) (fun _ => rfl)
  · exact .of_layout h ‹_› (SAlu.dec_sound n) (fun _ => rfl) (fun _ => rfl)
  · exact .of_layout h ‹_› (SAlu.dec_sound n) (fun _ => rfl) (fun _ => rfl)
  · exact .of_layout h ‹_› (SAlu.dec_sound n) (fun _ => rfl) (fun _ => rfl)
  · exact .of_layout h ‹_› (SUn.dec_sound n) (fun _ => rfl) (fun _ => rfl)
  · exact .of_layout h ‹_› (SUn.dec_sound n) (fun _ => rfl) (fun _ => rfl)
  · exact .of_layout h ‹_› (SUn.dec_sound n) (fun _ => rfl) (fun _ => rfl)
  · exact .of_layout h ‹_› (SAlu.dec_sound n) (fun _ => rfl) (fun _ => rfl)
  · exact .of_layout h ‹_› (SAlu.dec_sound n) (fun _ => rfl) (fun _ => rfl)
  · exact .of_layout h ‹_› (SAlu.dec_sound n) (fun _ => rfl) (fun _ => rfl)
  · exact .of_layout h ‹_› (SAlu.dec_sound n) (fun _ => rfl) (fun _ => rfl)
  · exact .of_layout h ‹_› (SSel.dec_sound n) (fun _ => rfl) (fun _ => rfl)
  · exact .of_layout h ‹_› (SCmp.dec_sound n) (fun _ => rfl) (fun _ => rfl)
  · exact .of_layout h ‹_› (SCmp.dec_sound n) (fun _ => rfl) (fun _ => rfl)
  · exact .of_layout h ‹_› (SCmp.dec_sound n) (fun _ => rfl) (fun _ => rfl)
  · exact .of_layout h ‹_› (SCmp.dec_sound n) (fun _ => rfl) (fun _ => rfl)
  · exact .of_layout h ‹_› (SCmp.dec_sound n) (fun _ => rfl) (fun _ => rfl)
  · exact .of_layout h ‹_› (SCmp.dec_sound n) (fun _ => rfl) (fun _ => rfl)
  · exact .of_layout h ‹_› (SCmpi.dec_sound n) (fun _ => rfl) (fun _ => rfl)
  · exact .of_layout h ‹_› (SPred3.dec_sound n) (fun _ => rfl) (fun _ => rfl)
  · exact .of_layout h ‹_› (SPred3.dec_sound n) (fun _ => rfl) (fun _ => rfl)
  · exact .of_layout h ‹_› (SPred3.dec_sound n) (fun _ => rfl) (fun _ => rfl)
  · exact .of_layout h ‹_› (SPred2.dec_sound n) (fun _ => rfl) (fun _ => rfl)
  · exact .of_layout h ‹_› (SPred2.dec_sound n) (fun _ => rfl) (fun _ => rfl)
  · exact .of_layout h ‹_› (SFlt3.dec_sound n) (fun _ => rfl) (fun _ => rfl)
  · exact .of_layout h ‹_› (SFlt3.dec_sound n) (fun _ => rfl) (fun _ => rfl)
  · exact .of_layout h ‹_› (SFlt3.dec_sound n) (fun _ => rfl) (fun _ => rfl)
  · exact .of_layout h ‹_› (SFlt3.dec_sound n) (fun _ => rfl) (fun _ => rfl)
  · exact .of_layout h ‹_› (SFlt3.dec_sound n) (fun _ => rfl) (fun _ => rfl)
  · exact .of_layout h ‹_› (SFlt2.dec_sound n) (fun _ => rfl) (fun _ => rfl)
  · exact .of_layout h ‹_› (SFcvt.dec_sound n) (fun _ => rfl) (fun _ => rfl)
  · exact .of_layout h ‹_› (SFcmp.dec_sound n) (fun _ => rfl) (fun _ => rfl)
  · exact .of_layout h ‹_› (SFmin.dec_sound n) (fun _ => rfl) (fun _ => rfl)
  · exact .of_layout h ‹_› (SFmin.dec_sound n) (fun _ => rfl) (fun _ => rfl)
  · exact .of_layout h ‹_› (SMem.dec_sound n) (fun _ => rfl) (fun _ => rfl)
  · exact .of_layout h ‹_› (SMem.dec_sound n) (fun _ => rfl) (fun _ => rfl)
  · exact .of_layout h ‹_› (SMem.dec_sound n) (fun _ => rfl) (fun _ => rfl)
  · exact .of_layout h ‹_› (SImm.dec_sound n) (fun _ => rfl) (fun _ => rfl)
  · exact .of_layout h ‹_› (SInv.dec_sound n) (fun _ => rfl) (fun _ => rfl)
  · exact .of_layout h ‹_› (SNone.dec_sound n) (fun _ => rfl) (fun _ => rfl)
  · exact .of_layout h ‹_› (SAlu.dec_sound n) (fun _ => rfl) (fun _ => rfl)
  · exact .of_layout h ‹_› (SAlu.dec_sound n) (fun _ => rfl) (fun _ => rfl)
  · exact .of_layout h ‹_› (SAlu.dec_sound n) (fun _ => rfl) (fun _ => rfl)
  · exact .of_layout h ‹_› (SAmin.dec_sound n) (fun _ => rfl) (fun _ => rfl)
  · exact .of_layout h ‹_› (SAmin.dec_sound n) (fun _ => rfl) (fun _ => rfl)
  · exact .of_layout h ‹_› (SAlu.dec_sound n) (fun _ => rfl) (fun _ => rfl)
  · exact .of_layout h ‹_› (SAlu.dec_sound n) (fun _ => rfl) (fun _ => rfl)
  · exact .of_layout h ‹_› (SAlu.dec_sound n) (fun _ => rfl) (fun _ => rfl)
  · exact .of_layout h ‹_› (SGetm.dec_sound n) (fun _ => rfl) (fun _ => rfl)
  · exact .of_layout h ‹_› (SPutm.dec_sound n) (fun _ => rfl) (fun _ => rfl)
  · exact .of_layout h ‹_› (SXfer.dec_sound n) (fun _ => rfl) (fun _ => rfl)
  · exact .of_layout h ‹_› (SMfs.dec_sound n) (fun _ => rfl) (fun _ => rfl)
  · exact .of_layout h ‹_› (SMts.dec_sound n) (fun _ => rfl) (fun _ => rfl)
  · exact of_alternatives h (fun h => .of_layout h ‹_› (PDA.dec_sound n) (fun _ => rfl) (fun _ => rfl))
      fun h => of_alternatives h (fun h => .of_layout h ‹_› (PDAB.dec_sound_1 n) (fun _ => rfl) (fun _ => rfl))
      fun h => .of_layout h ‹_› (PDA.dec_sound_2 n) (fun _ => rfl) (fun _ => rfl)
  · exact .of_layout h ‹_› (PD.dec_sound n) (fun _ => rfl) (fun _ => rfl)
  · exact .of_layout h ‹_› (PDAn.dec_sound n) (fun _ => rfl) (fun _ => rfl)
  · exact .of_layout h ‹_› (PDABn.dec_sound n) (fun _ => rfl) (fun _ => rfl)
  · exact .of_layout h ‹_› (PDAB.dec_sound n) (fun _ => rfl) (fun _ => rfl)
  · exact of_alternatives h (fun h => .of_layout h ‹_› (PDAn.dec_sound n) (fun _ => rfl) (fun _ => rfl))
      fun h => of_alternatives h (fun h => .of_layout h ‹_› (PDAn.dec_sound_16 n) (fun _ => rfl) (fun _ => rfl))
      fun h => of_alternatives h (fun h => .of_layout h ‹_› (PDAn.dec_sound_32 n) (fun _ => rfl) (fun _ => rfl))
      fun h => .of_layout h ‹_› (PDAn.dec_sound_48 n) (fun _ => rfl) (fun _ => rfl)
  · exact .of_layout h ‹_› (PDAB.dec_sound n) (fun _ => rfl) (fun _ => rfl)
  · exact of_alternatives h (fun h => .of_layout h ‹_› (PDABn.dec_sound n) (fun _ => rfl) (fun _ => rfl))
      fun h => of_alternatives h (fun h => .of_layout h ‹_› (PDABn.dec_sound_16 n) (fun _ => rfl) (fun _ => rfl))
      fun h => of_alternatives h (fun h => .of_layout h ‹_› (PDABn.dec_sound_32 n) (fun _ => rfl) (fun _ => rfl))
      fun h => .of_layout h ‹_› (PDABn.dec_sound_48 n) (fun _ => rfl) (fun _ => rfl)
  · exact .of_layout h ‹_› (PDAn.dec_sound n) (fun _ => rfl) (fun _ => rfl)
  · exact .of_layout h ‹_› (PDA.dec_sound n) (fun _ => rfl) (fun _ => rfl)
  · exact of_alternatives h (fun h => .of_layout h ‹_› (PDA.dec_sound n) (fun _ => rfl) (fun _ => rfl))
      fun h => .of_layout h ‹_› (PDAB.dec_sound_1 n) (fun _ => rfl) (fun _ => rfl)
  · exact of_alternatives h (fun h => .of_layout h ‹_› (PDABn.dec_sound n) (fun _ => rfl) (fun _ => rfl))
      fun h => .of_layout h ‹_› (PDABn.dec_sound_16 n) (fun _ => rfl) (fun _ => rfl)
  · exact .of_layout h ‹_› (PDA.dec_sound n) (fun _ => rfl) (fun _ => rfl)
  · exact of_alternatives h (fun h => .of_layout h ‹_› (PDAn.dec_sound n) (fun _ => rfl) (fun _ => rfl))
      fun h => .of_layout h ‹_› (PDAn.dec_sound_16 n) (fun _ => rfl) (fun _ => rfl)
  · exact .of_layout h ‹_› (PDAB.dec_sound n) (fun _ => rfl) (fun _ => rfl)
  · exact of_alternatives h (fun h => .of_layout h ‹_› (PDABn.dec_sound n) (fun _ => rfl) (fun _ => rfl))
      fun h => of_alternatives h (fun h => .of_layout h ‹_› (PDABn.dec_sound_16 n) (fun _ => rfl) (fun _ => rfl))
      fun h => .of_layout h ‹_› (PDABn.dec_sound_32 n) (fun _ => rfl) (fun _ => rfl)
  · exact of_alternatives h (fun h => .of_layout h ‹_› (PDAB.dec_sound n) (fun _ => rfl) (fun _ => rfl))
      fun h => of_alternatives h (fun h => .of_layout h ‹_› (PDA.dec_sound_1 n) (fun _ => rfl) (fun _ => rfl))
      fun h => .of_layout h ‹_› (PDAB.dec_sound_2 n) (fun _ => rfl) (fun _ => rfl)
  · exact of_alternatives h (fun h => .of_layout h ‹_› (PDAB.dec_sound n) (fun _ => rfl) (fun _ => rfl))
      fun h => of_alternatives h (fun h => .of_layout h ‹_› (PDAB.dec_sound_1 n) (fun _ => rfl) (fun _ => rfl))
      fun h => .of_layout h ‹_› (PDAB.dec_sound_2 n) (fun _ => rfl) (fun _ => rfl)
  · cases h
theorem rawVector_isWord {u : VUnit} {sl : Slot} (hs : (Instr.vectorNop u).slot = some sl) {n : Nat} {i : Instr} (h : rawVector u n = some i) : IsWord sl n i := by
  unfold rawVector at h
  split at h
  · exact .of_zero h rfl hs
  · exact .of_layout h ‹_› (VTyp3.dec_sound n) (fun _ => rfl) (fun _ => hs)
  · exact .of_layout h ‹_› (VTyp3.dec_sound n) (fun _ => rfl) (fun _ => hs)
  · exact .of_layout h ‹_› (VTyp3.dec_sound n) (fun _ => rfl) (fun _ => hs)
  · exact .of_layout h ‹_› (VTyp3.dec_sound n) (fun _ => rfl) (fun _ => hs)
  · exact .of_layout h ‹_› (VTyp3.dec_sound n) (fun _ => rfl) (fun _ => hs)
  · exact .of_layout h ‹_› (VTyp3.dec_sound n) (fun _ => rfl) (fun _ => hs)
  · exact .of_layout h ‹_› (VTyp3.dec_sound n) (fun _ => rfl) (fun _ => hs)
  · exact .of_layout h ‹_› (VTyp2.dec_sound n) (fun _ => rfl) (fun _ => hs)
  · exact .of_layout h ‹_› (VTyp2.dec_sound n) (fun _ => rfl) (fun _ => hs)
  · exact .of_layout h ‹_› (VFun.dec_sound_40 n) (fun _ => rfl) (fun _ => hs)
  · exact .of_layout h ‹_› (VFun.dec_sound_40 n) (fun _ => rfl) (fun _ => hs)
  · exact .of_layout h ‹_› (VFun.dec_sound_40 n) (fun _ => rfl) (fun _ => hs)
  · exact .of_layout h ‹_› (VFun.dec_sound_40 n) (fun _ => rfl) (fun _ => hs)
  · exact .of_layout h ‹_› (VTyp3.dec_sound n) (fun _ => rfl) (fun _ => hs)
  · exact .of_layout h ‹_› (VCmp.dec_sound n) (fun _ => rfl) (fun _ => hs)
  · exact .of_layout h ‹_› (VCmp.dec_sound n) (fun _ => rfl) (fun _ => hs)
  · exact .of_layout h ‹_› (VCmp.dec_sound n) (fun _ => rfl) (fun _ => hs)
  · exact .of_layout h ‹_› (VCmp.dec_sound n) (fun _ => rfl) (fun _ => hs)
  · exact .of_layout h ‹_› (VSel.dec_sound n) (fun _ => rfl) (fun _ => hs)
  · exact .of_layout h ‹_› (VRR.dec_sound n) (fun _ => rfl) (fun _ => hs)
  · exact .of_layout h ‹_› (VRR.dec_sound n) (fun _ => rfl) (fun _ => hs)
  · exact .of_layout h ‹_› (VRR.dec_sound n) (fun _ => rfl) (fun _ => hs)
  · exact .of_layout h ‹_› (VRR.dec_sound n) (fun _ => rfl) (fun _ => hs)
  · exact .of_layout h ‹_› (VRR.dec_sound n) (fun _ => rfl) (fun _ => hs)
  · exact .of_layout h ‹_› (VRR.dec_sound n) (fun _ => rfl) (fun _ => hs)
  · exact .of_layout h ‹_› (VRR.dec_sound n) (fun _ => rfl) (fun _ => hs)
  · exact .of_layout h ‹_› (VBfx.dec_sound n) (fun _ => rfl) (fun _ => hs)
  · exact .of_layout h ‹_› (VRR.dec_sound n) (fun _ => rfl) (fun _ => hs)
  · exact .of_layout h ‹_› (VRR.dec_sound n) (fun _ => rfl) (fun _ => hs)
  · exact .of_layout h ‹_› (VR.dec_sound n) (fun _ => rfl) (fun _ => hs)
  · exact .of_layout h ‹_› (VR.dec_sound n) (fun _ => rfl) (fun _ => hs)
  · exact .of_layout h ‹_› (VCvt.dec_sound n) (fun _ => rfl) (fun _ => hs)
  · exact .of_layout h ‹_› (VPack.dec_sound n) (fun _ => rfl) (fun _ => hs)
  · exact .of_layout h ‹_› (VUnpack.dec_sound n) (fun _ => rfl) (fun _ => hs)
  · exact .of_layout h ‹_› (VRR.dec_sound n) (fun _ => rfl) (fun _ => hs)
  · exact .of_layout h ‹_› (VBcast.dec_sound n) (fun _ => rfl) (fun _ => hs)
  · exact .of_layout h ‹_› (VSlide.dec_sound n) (fun _ => rfl) (fun _ => hs)
  · exact of_alternatives h (fun h => .of_layout h ‹_› (VD.dec_sound_16 n) (fun _ => rfl) (fun _ => hs))
      fun h => .of_layout h ‹_› (VD.dec_sound_17 n) (fun _ => rfl) (fun _ => hs)
  · exact .of_layout h ‹_› (VTyp2.dec_sound n) (fun _ => rfl) (fun _ => hs)
  · exact .of_layout h ‹_› (VTyp2.dec_sound n) (fun _ => rfl) (fun _ => hs)
  · exact .of_layout h ‹_› (VTyp2.dec_sound n) (fun _ => rfl) (fun _ => hs)
  · exact .of_layout h ‹_› (VRR.dec_sound n) (fun _ => rfl) (fun _ => hs)
  · exact .of_layout h ‹_› (VRR.dec_sound n) (fun _ => rfl) (fun _ => hs)
  · exact .of_layout h ‹_› (VRR.dec_sound n) (fun _ => rfl) (fun _ => hs)
  · exact .of_layout h ‹_› (VRR.dec_sound n) (fun _ => rfl) (fun _ => hs)
  · exact .of_layout h ‹_› (VRR.dec_sound n) (fun _ => rfl) (fun _ => hs)
  · exact .of_layout h ‹_› (VRR.dec_sound n) (fun _ => rfl) (fun _ => hs)
  · exact .of_layout h ‹_› (VTbl.dec_sound n) (fun _ => rfl) (fun _ => hs)
  · exact .of_layout h ‹_› (VAtom.dec_sound n) (fun _ => rfl) (fun _ => hs)
  · exact .of_layout h ‹_› (VRR.dec_sound n) (fun _ => rfl) (fun _ => hs)
  · exact .of_layout h ‹_› (VGetm.dec_sound n) (fun _ => rfl) (fun _ => hs)
  · exact .of_layout h ‹_› (VPutm.dec_sound n) (fun _ => rfl) (fun _ => hs)
  · exact .of_layout h ‹_› (VXfer.dec_sound n) (fun _ => rfl) (fun _ => hs)
  · exact .of_layout h ‹_› (VR.dec_sound n) (fun _ => rfl) (fun _ => hs)
  · exact of_alternatives h (fun h => .of_layout h ‹_› (VToP.dec_sound n) (fun _ => rfl) (fun _ => hs))
      fun h => .of_layout h ‹_› (VFromP.dec_sound_1 n) (fun _ => rfl) (fun _ => hs)
  · exact .of_layout h ‹_› (VEf.dec_sound n) (fun _ => rfl) (fun _ => hs)
  · exact .of_layout h ‹_› (VEfg.dec_sound n) (fun _ => rfl) (fun _ => hs)
  · exact .of_layout h ‹_› (VEfp.dec_sound n) (fun _ => rfl) (fun _ => hs)
  · exact .of_layout h ‹_› (VFmt.dec_sound n) (fun _ => rfl) (fun _ => hs)
  · cases h
theorem rawSeries_isWord {n : Nat} {i : Instr} (h : rawSeries n = some i) : IsWord .b n i := by
  unfold rawSeries at h
  split at h
  · exact .of_layout h ‹_› (XD.dec_sound n) (fun _ => rfl) (fun _ => rfl)
  · exact .of_layout h ‹_› (XSeto.dec_sound n) (fun _ => rfl) (fun _ => rfl)
  · exact .of_layout h ‹_› (XForm.dec_sound n) (fun _ => rfl) (fun _ => rfl)
  · exact .of_layout h ‹_› (XXB.dec_sound n) (fun _ => rfl) (fun _ => rfl)
  · exact .of_layout h ‹_› (XXB.dec_sound n) (fun _ => rfl) (fun _ => rfl)
  · exact .of_layout h ‹_› (XXB.dec_sound n) (fun _ => rfl) (fun _ => rfl)
  · exact .of_layout h ‹_› (XEval.dec_sound n) (fun _ => rfl) (fun _ => rfl)
  · exact .of_layout h ‹_› (XAdm.dec_sound n) (fun _ => rfl) (fun _ => rfl)
  · exact .of_layout h ‹_› (XXX.dec_sound n) (fun _ => rfl) (fun _ => rfl)
  · exact .of_layout h ‹_› (XMem.dec_sound n) (fun _ => rfl) (fun _ => rfl)
  · exact .of_layout h ‹_› (XMem.dec_sound n) (fun _ => rfl) (fun _ => rfl)
  · exact .of_layout h ‹_› (XXB.dec_sound n) (fun _ => rfl) (fun _ => rfl)
  · exact .of_layout h ‹_› (XGet.dec_sound n) (fun _ => rfl) (fun _ => rfl)
  · cases h
theorem rawMatrix_isWord {n : Nat} {i : Instr} (h : rawMatrix n = some i) : IsWord .m n i := by
  unfold rawMatrix at h
  split at h
  · exact .of_zero h rfl rfl
  · exact .of_layout h ‹_› (MMdset.dec_sound n) (fun _ => rfl) (fun _ => rfl)
  · exact .of_layout h ‹_› (MMove.dec_sound n) (fun _ => rfl) (fun _ => rfl)
  · exact .of_layout h ‹_› (MLoad.dec_sound n) (fun _ => rfl) (fun _ => rfl)
  · exact of_alternatives h (fun h => .of_layout h ‹_› (MStore.dec_sound n) (fun _ => rfl) (fun _ => rfl))
      fun h => .of_layout h ‹_› (MStore.dec_sound_1 n) (fun _ => rfl) (fun _ => rfl)
  · exact .of_layout h ‹_› (MMul.dec_sound n) (fun _ => rfl) (fun _ => rfl)
  · exact .of_layout h ‹_› (MMul.dec_sound n) (fun _ => rfl) (fun _ => rfl)
  · exact of_alternatives h (fun h => .of_layout h ‹_› (MNest.dec_sound n) (fun _ => rfl) (fun _ => rfl))
      fun h => .of_layout h ‹_› (MNest.dec_sound_262144 n) (fun _ => rfl) (fun _ => rfl)
  · exact .of_layout h ‹_› (MZ.dec_sound n) (fun _ => rfl) (fun _ => rfl)
  · exact .of_layout h ‹_› (MTrans.dec_sound n) (fun _ => rfl) (fun _ => rfl)
  · exact .of_layout h ‹_› (MRead.dec_sound n) (fun _ => rfl) (fun _ => rfl)
  · exact .of_layout h ‹_› (MWm.dec_sound n) (fun _ => rfl) (fun _ => rfl)
  · exact of_alternatives h (fun h => .of_layout h ‹_› (MMul.dec_sound n) (fun _ => rfl) (fun _ => rfl))
      fun h => .of_layout h ‹_› (MMul.dec_sound_1 n) (fun _ => rfl) (fun _ => rfl)
  · exact .of_layout h ‹_› (MZM.dec_sound n) (fun _ => rfl) (fun _ => rfl)
  · exact .of_layout h ‹_› (MZM.dec_sound n) (fun _ => rfl) (fun _ => rfl)
  · exact .of_layout h ‹_› (MMir.dec_sound n) (fun _ => rfl) (fun _ => rfl)
  · exact .of_layout h ‹_› (MInj.dec_sound n) (fun _ => rfl) (fun _ => rfl)
  · exact .of_layout h ‹_› (MTag.dec_sound n) (fun _ => rfl) (fun _ => rfl)
  · exact .of_layout h ‹_› (MCvt.dec_sound n) (fun _ => rfl) (fun _ => rfl)
  · exact .of_layout h ‹_› (MZM.dec_sound n) (fun _ => rfl) (fun _ => rfl)
  · exact of_alternatives h (fun h => .of_layout h ‹_› (MZ.dec_sound n) (fun _ => rfl) (fun _ => rfl))
      fun h => of_alternatives h (fun h => .of_layout h ‹_› (MZ.dec_sound_1 n) (fun _ => rfl) (fun _ => rfl))
      fun h => .of_layout h ‹_› (MScale.dec_sound_2 n) (fun _ => rfl) (fun _ => rfl)
  · exact .of_layout h ‹_› (MN.dec_sound n) (fun _ => rfl) (fun _ => rfl)
  · exact .of_layout h ‹_› (MGetm.dec_sound n) (fun _ => rfl) (fun _ => rfl)
  · exact .of_layout h ‹_› (MMove.dec_sound n) (fun _ => rfl) (fun _ => rfl)
  · exact .of_layout h ‹_› (MXfer.dec_sound n) (fun _ => rfl) (fun _ => rfl)
  · cases h
theorem rawCopy_isWord {e : CUnit} {sl : Slot} (hs : (Instr.copyNop e).slot = some sl) {n : Nat} {i : Instr} (h : rawCopy e n = some i) : IsWord sl n i := by
  unfold rawCopy at h
  split at h
  · exact .of_zero h rfl hs
  · exact of_alternatives h (fun h => .of_layout h ‹_› (CSetI.dec_sound_1048576 n) (fun _ => rfl) (fun _ => hs))
      fun h => .of_layout h ‹_› (CSetR.dec_sound n) (fun _ => rfl) (fun _ => hs)
  · exact .of_layout h ‹_› (CGet.dec_sound n) (fun _ => rfl) (fun _ => hs)
  · exact .of_layout h ‹_› (CTwo.dec_sound n) (fun _ => rfl) (fun _ => hs)
  · exact .of_layout h ‹_› (CBar.dec_sound n) (fun _ => rfl) (fun _ => hs)
  · exact .of_layout h ‹_› (CTile.dec_sound n) (fun _ => rfl) (fun _ => hs)
  · exact .of_layout h ‹_› (CTwo.dec_sound n) (fun _ => rfl) (fun _ => hs)
  · exact .of_layout h ‹_› (CTwo.dec_sound n) (fun _ => rfl) (fun _ => hs)
  · exact .of_layout h ‹_› (COne.dec_sound n) (fun _ => rfl) (fun _ => hs)
  · exact .of_layout h ‹_› (CFill.dec_sound n) (fun _ => rfl) (fun _ => hs)
  · exact .of_layout h ‹_› (CRed.dec_sound n) (fun _ => rfl) (fun _ => hs)
  · exact .of_layout h ‹_› (CBar.dec_sound n) (fun _ => rfl) (fun _ => hs)
  · exact .of_layout h ‹_› (CRed.dec_sound n) (fun _ => rfl) (fun _ => hs)
  · exact .of_layout h ‹_› (CTwo.dec_sound n) (fun _ => rfl) (fun _ => hs)
  · exact .of_layout h ‹_› (CTwo.dec_sound n) (fun _ => rfl) (fun _ => hs)
  · exact .of_layout h ‹_› (CPost.dec_sound n) (fun _ => rfl) (fun _ => hs)
  · exact of_alternatives h (fun h => .of_layout h ‹_› (CTwo.dec_sound n) (fun _ => rfl) (fun _ => hs))
      fun h => .of_layout h ‹_› (CTwo.dec_sound_1 n) (fun _ => rfl) (fun _ => hs)
  · exact of_alternatives h (fun h => .of_layout h ‹_› (CTwo.dec_sound n) (fun _ => rfl) (fun _ => hs))
      fun h => .of_layout h ‹_› (CTwo.dec_sound_1 n) (fun _ => rfl) (fun _ => hs)
  · exact .of_layout h ‹_› (CJ.dec_sound n) (fun _ => rfl) (fun _ => hs)
  · exact .of_layout h ‹_› (CWait.dec_sound n) (fun _ => rfl) (fun _ => hs)
  · exact of_alternatives h (fun h => .of_layout h ‹_› (CFence.dec_sound n) (fun _ => rfl) (fun _ => hs))
      fun h => .of_layout h ‹_› (CFence.dec_sound_8 n) (fun _ => rfl) (fun _ => hs)
  · exact .of_layout h ‹_› (CTwo.dec_sound n) (fun _ => rfl) (fun _ => hs)
  · exact .of_layout h ‹_› (CSrc.dec_sound n) (fun _ => rfl) (fun _ => hs)
  · exact .of_layout h ‹_› (CTwo.dec_sound n) (fun _ => rfl) (fun _ => hs)
  · exact .of_layout h ‹_› (CGetm.dec_sound n) (fun _ => rfl) (fun _ => hs)
  · exact .of_layout h ‹_› (CPutm.dec_sound n) (fun _ => rfl) (fun _ => hs)
  · exact .of_layout h ‹_› (CXfer.dec_sound n) (fun _ => rfl) (fun _ => hs)
  · cases h

theorem rawSlot_isWord {sl : Slot} {n : Nat} {i : Instr} (h : rawSlot sl n = some i) : IsWord sl n i := by
  cases sl with
  | f => exact rawFlow_isWord h
  | s => exact rawScalar_isWord h
  | a => exact rawVector_isWord rfl h
  | b => exact of_alternatives h (rawVector_isWord rfl) rawSeries_isWord
  | m => exact rawMatrix_isWord h
  | c => exact rawCopy_isWord rfl h
  | d => exact rawCopy_isWord rfl h

/-- Settles O6: the decoder keeps what is well-formed of what the layouts give. -/
theorem encodeDecode : Obligations.EncodeDecode := by
  unfold Obligations.EncodeDecode
  intro sl w i h
  unfold decode at h
  split at h
  · next j hj =>
    cases h
    obtain ⟨raw, wf⟩ := Option.filter_eq_some_iff.mp hj
    obtain ⟨word, slot⟩ := rawSlot_isWord raw
    exact ⟨word, slot, wf⟩
  · cases h

end Sys2Proof.Machine

namespace Sys2Proof.Machine

/-- Settles O4: each word is decoded by computation. -/
theorem decodeWords : Obligations.DecodeWords := by
  unfold Obligations.DecodeWords
  exact ⟨rfl, rfl, rfl, rfl, rfl, rfl, rfl, rfl⟩

end Sys2Proof.Machine

namespace Sys2Proof.Machine

/-!
PROOFS. O2, O9, O10: what every instruction has in common. The meaning of an instruction of a slot acts in a bundle (`State.inBundle`), that of an event
occurs between bundles (`occur`), and BUNDLE_COMMIT ends the one that is open: so each answers a next state.
-/

/-- An instruction of a slot acts in a bundle. -/
theorem exec_inBundle (i : Instr) (h : i.slot.isSome = true) : ∃ f : State → State, ∀ s, exec i s = s.inBundle f := by
  cases i <;> cases h <;> exact ⟨_, fun _ => rfl⟩
/-- An event other than the end of the bundle occurs between bundles. -/
theorem exec_occur (i : Instr) (h : i.slot = none) (hb : ∀ b, i ≠ .bundleCommit b) :
    ∃ f : State → Option State, ∀ s, exec i s = occur s f := by
  cases i with
  | bundleCommit b => exact absurd rfl (hb b)
  | _ => cases h <;> exact ⟨_, fun _ => rfl⟩
/-- Every instruction answers a next state. -/
theorem exec_next (i : Instr) (s : State) : ∃ t, exec i s = .next t := by
  cases h : i.slot with
  | some sl =>
    obtain ⟨f, hf⟩ := exec_inBundle i (by rw [h]; rfl)
    exact hf s ▸ State.inBundle_next s f
  | none =>
    by_cases hb : ∃ b, i = .bundleCommit b
    · obtain ⟨b, rfl⟩ := hb
      exact ⟨_, rfl⟩
    · obtain ⟨f, hf⟩ := exec_occur i h fun b e => hb ⟨b, e⟩
      exact ⟨_, hf s⟩

/-- Settles O2: `step` answers what was due, what an instruction or event answers (`exec_next`), or the state after an issue or a span of time. -/
theorem neverStops : Obligations.NeverStops := by
  intro s
  unfold State.Runs step
  split
  · exact ⟨_, rfl⟩
  · split
    · exact exec_next ..
    · split
      · exact ⟨_, rfl⟩
      · split
        · exact ⟨_, rfl⟩
        · exact ⟨_, rfl⟩
        · exact ⟨_, rfl⟩

/-- A bundle is open once it has been opened. -/
theorem State.openBundle_isSome (s : State) (k : Nat) (hdr lit : BitVec 32) (words : List (BitVec 32)) :
    (s.openBundle k hdr lit words).opened.isSome = true := by
  unfold State.openBundle
  extract_lets saved s1 pops o s2 c s3
  have h3 : s3.opened.isSome = true := by
    unfold s3
    split <;> rfl
  split
  · exact (Option.isSome_map ..).trans h3
  · exact h3
/-- Settles O9: outside a bundle `State.inBundle` opens one, acts in it and ends it. -/
theorem outsideBundle : Obligations.OutsideBundle := by
  intro i s h hs
  obtain ⟨f, hf⟩ := exec_inBundle i h
  refine ⟨f (s.openBundle s.cur 0 0 []), ?_, ?_⟩
  · rw [hf, State.inBundle_open _ f (State.openBundle_isSome ..)]
  · rw [hf, State.inBundle_outside s f hs]

/-! Instructions guarded off (R96): those that act in lanes, the commands of the engines, and all others. -/
section
variable {g : Guard} {s : State} (ho : s.opened.isSome = true)
include ho
theorem exec_lanesOff {i : Instr} {f : State → State} (hi : ∀ s, exec i s = s.inBundle fun s => if g.lanes s.pre = 0 then s else f s)
    (hl : g.lanes s.pre = 0) : exec i s = .next s := by rw [hi, State.inBundle_open _ _ ho, if_pos hl]
theorem exec_commandOff {i : Instr} {e : Fin 3} {f : State → State}
    (hi : ∀ s, exec i s = s.inBundle fun s => if g.on s.pre then f s else s.takeNumber e) (hg : g.on s.pre = false) :
    exec i s = .next (s.takeNumber e) := by rw [hi, State.inBundle_open _ _ ho, hg]; rfl
theorem nestOp_off {x : MNest} {clr : Bool} (hg : x.g.on s.pre = false) : nestOp x clr s = .next (s.takeNumber 0) := by
  rw [nestOp, State.inBundle_open _ _ ho, hg]
  rfl
theorem execVectorXfer_off {u : VUnit} {x : VXfer} (hg : x.g.on s.pre = false) (hl : x.g.lanes s.pre = 0) : execVectorXfer u x s = .next s := by
  rw [execVectorXfer, State.inBundle_open _ _ ho]
  split
  · rw [hg]; rfl
  · rw [hg]; rfl
  · exact congrArg _ (if_pos hl)
end
/-- The vector slots are a and b. -/
theorem VUnit.slot_cases (u : VUnit) : (Instr.vectorNop u).slot = some .a ∨ (Instr.vectorNop u).slot = some .b := by
  cases u
  · exact .inl rfl
  · exact .inr rfl
/-- By how the instruction acts: in lanes, as a command, or as an operation of its slot. -/
theorem guardOff : Claims.GuardOff := by
  intro i g s h ho hg hl
  cases i <;> cases h
  case vectorXfer u x =>
    exact execVectorXfer_off ho hg (hl (VUnit.slot_cases u))
  case mnest | mnestz => exact nestOp_off ho hg
  case mldt | mstz | mstzTag | mma | mmaz | mchk | mchkz | mzero | mfix | minj | mbias | mactRelu | mactAbs | mactScale | mtr | mcvt | cpy
      | cpyb | cpyt | cgath | cscat | czero | cfill | cred | cbcast | cpull | cpost | chostTo | chostFrom | ccarrTo | ccarrFrom | callred | cdigest | cfenceA | cwait | cfence
      | ccvt | cpref | cswp => exact exec_commandOff ho (fun _ => rfl) hg
  case vadd | vsub | vmul | vfma | vfms | vmin | vmax | vabs | vneg | vrcp | vrsq | vexp2 | vlog2 | vdiv | vcmpeq | vcmpne | vcmplt | vcmple
      | vsel | vand | vor | vxor | vandn | vshl | vshr | vsar | vbfx | vbfi | vfsh | vpopc | vclz | vcvt | vpack | vunpack | vperm | vbcast
      | vslide | viota | viotaRand | vredadd | vredmax | vscan | vld | vst | vlds | vsts | vgath | vscat | vtbl | vaadd | vafadd | vectorGetm
      | vectorPutm | vmovs | vpmovToPredicate | vpmovFromPredicate | vefclr | vefget | vefput =>
    exact exec_lanesOff ho (fun _ => rfl) (hl (VUnit.slot_cases _))
  all_goals exact runSlot_off _ _ s _ ho hg
/-- No-ops act as the identity. -/
theorem noOps : Claims.NoOps := by
  intro i s h ho
  simp only [List.mem_cons, List.not_mem_nil, or_false] at h
  rcases h with rfl | rfl | rfl | rfl | rfl | rfl | rfl <;> exact State.inBundle_open s id ho
theorem eventsBetweenBundles : Claims.EventsBetweenBundles := by
  intro i s h hb ho
  obtain ⟨f, hf⟩ := exec_occur i h hb
  rw [hf, occur_open s f ho]
/-- Settles O10. -/
theorem withoutEffect : Obligations.WithoutEffect := ⟨guardOff, noOps, eventsBetweenBundles⟩

end Sys2Proof.Machine

namespace Sys2Proof.Machine

/-!
PROOFS. O15: where a context goes on, by the delay bundles still to come; at the end of a body by the counter of its level.
-/
section
variable (f pre : FlowRegs) (o : Open) (forced : Bool)
/-- The address of the next bundle. -/
abbrev FlowRegs.nextPc : Word := BitVec.ofNat 64 (pre.pc.toNat + 32)
theorem FlowRegs.advance_jump (h : pre.dly.count = 0) {t : Word} {l : Nat} (hj : o.jump = some (t, l)) :
    f.advance pre o forced = ({ f with pc := pre.nextPc, dly := ⟨2, t, l⟩ }, 0) := by simp only [FlowRegs.advance, h, hj]
theorem FlowRegs.advance_skip (h : pre.dly.count = 0) (hj : o.jump = none) {t : Word} (hs : o.skip = some t) :
    f.advance pre o forced = ({ f with pc := t }, 0) := by simp only [FlowRegs.advance, h, hj, hs]
theorem FlowRegs.advance_body (h : pre.dly.count = 0) (hj : o.jump = none) (hs : o.skip = none) :
    f.advance pre o forced = ({ (bodyCheck forced pre.pc.toNat f.loops f).1 with
      pc := match (bodyCheck forced pre.pc.toNat f.loops f).2 with | some a => BitVec.ofNat 64 a | none => pre.nextPc }, 0) := by
  simp only [FlowRegs.advance, h, hj, hs] <;> rfl
theorem FlowRegs.advance_last (h : pre.dly.count = 1) :
    f.advance pre o forced = ({ f.dropLoops with pc := pre.dly.target, dly := Delay.none }, pre.dly.rtt) := by simp only [FlowRegs.advance, h]
theorem FlowRegs.advance_delay (h : pre.dly.count = 2) :
    f.advance pre o forced = ({ f with pc := pre.nextPc, dly := { pre.dly with count := 1 } }, 0) := by simp only [FlowRegs.advance, h]
end

/-! The end-of-body check (R116). -/
theorem bodyCheck_outside (forced : Bool) (pc : Nat) (f : FlowRegs) (h : ∀ l ∈ f.loops, l.last ≠ pc) :
    bodyCheck forced pc f.loops f = (f, none) := by
  cases e : f.loops with
  | nil => rw [bodyCheck, ← e]
  | cons v r =>
    have outside : v.last ≠ pc := h v (e ▸ List.mem_cons_self)
    rw [bodyCheck, if_pos outside, ← e]
section
variable {pc : Nat} {v : Level} (r : List Level) (f : FlowRegs) (hl : v.last = pc)
include hl
theorem bodyCheck_again (hn : 1 < (f.lc[v.n]).toNat) :
    bodyCheck false pc (v :: r) f = ({ f with lc := f.lc.set v.n (f.lc[v.n] - 1), loops := v :: r }, some v.first) := by
  rw [bodyCheck, if_neg (not_not.mpr hl)]
  exact if_neg (Nat.not_le.mpr hn)
theorem bodyCheck_ends (hn : (f.lc[v.n]).toNat ≤ 1) :
    ∃ e : Epilogue, bodyCheck false pc (v :: r) f = bodyCheck false pc r { f with lc := f.lc.set v.n 0, epi := e } := by
  rw [bodyCheck, if_neg (not_not.mpr hl)]
  exact ⟨_, if_pos hn⟩
end

theorem commitMoves : Claims.CommitMoves := by
  intro f pre o forced
  refine ⟨fun h t l hj => ?jump, fun h hj t hs => ?skip, fun h hj hs outside => ?next, fun h => ?delay, fun h => ?last⟩
  case jump => rw [FlowRegs.advance_jump f pre o forced h hj]; exact ⟨rfl, rfl⟩
  case skip => rw [FlowRegs.advance_skip f pre o forced h hj hs]
  case next => rw [FlowRegs.advance_body f pre o forced h hj hs, bodyCheck_outside forced _ f outside]
  case delay => rw [FlowRegs.advance_delay f pre o forced h]; exact ⟨rfl, rfl, rfl⟩
  case last => rw [FlowRegs.advance_last f pre o forced h]; exact ⟨rfl, rfl, rfl, rfl⟩
theorem loopTurns : Claims.LoopTurns := by
  intro f pre o v r hf hl h hj hs
  refine ⟨fun hn => ?again, fun hn hr => ?ends⟩
  case again =>
    rw [FlowRegs.advance_body f pre o false h hj hs, hf, bodyCheck_again r f hl hn]
    exact ⟨rfl, rfl, rfl⟩
  case ends =>
    subst hr
    obtain ⟨e, he⟩ := bodyCheck_ends [] f hl hn
    rw [FlowRegs.advance_body f pre o false h hj hs, hf, he]
    exact ⟨rfl, rfl, rfl⟩
/-- Settles O15. -/
theorem commitAdvances : Obligations.CommitAdvances := ⟨commitMoves, loopTurns⟩

end Sys2Proof.Machine

namespace Sys2Proof.Machine

/-!
PROOFS. O22: what stops a scalar access: its alignment first, then the checks of its address, then what an atomic does not reach.
-/
section
variable {s u : State} {addr key c : Nat} {uc : Bool} {a : Access}
theorem State.scalarAccess_misaligned (h : addr % a.n ≠ 0) : s.scalarAccess addr a = .error (.trap 5 addr) := if_pos h
variable (h : addr % a.n = 0)
include h
theorem State.scalarAccess_fault (hl : s.locate s.me addr (if a.isLoad then .read else .write) = .fault c) :
    s.scalarAccess addr a = .error (.trap c addr) := by
  unfold State.scalarAccess
  dsimp only
  rw [if_neg (not_not.mpr h), hl]
theorem State.scalarAccess_hostAtomic (ha : a.isAtom = true) (hl : s.locate s.me addr (if a.isLoad then .read else .write) = .ok key uc u)
    (hk : spaceOf key = 2) : s.scalarAccess addr a = .error (.trap 6 addr) := by
  unfold State.scalarAccess
  dsimp only
  rw [if_neg (not_not.mpr h), hl]
  exact if_pos ⟨ha, hk⟩
theorem State.scalarAccess_inReduction (ha : a.kind = .atomic .fadd) (hl : s.locate s.me addr (if a.isLoad then .read else .write) = .ok key uc u)
    (hk : spaceOf key ≠ 2) (hr : u.inReduction key a.n = true) : s.scalarAccess addr a = .error (.trap 19 addr) := by
  unfold State.scalarAccess
  dsimp only
  rw [if_neg (not_not.mpr h), hl]
  dsimp only
  rw [if_neg fun e => hk e.2, ha]
  exact if_pos hr
end

/-- A scalar access that is stopped traps in its slot, with its address. -/
theorem runSlot_traps {i : Instr} {g : Guard} {s : State} {body : State → Res State} {cause val : Nat} (hi : exec i s = runSlot 2 g s body)
    (on : Claims.On g s) (hb : body s = .error (.trap cause val)) : exec i s = .next (s.raise 2 cause val none) :=
  hi.trans (runSlot_error 2 g s body _ on.1 on.2 hb)
/-- What every scalar access checks. -/
theorem scalarAccess_traps {i : Instr} {g : Guard} {s : State} {body : State → Res State} {addr : Nat} {a : Access} {m : AccMode}
    (hi : exec i s = runSlot 2 g s body) (on : Claims.On g s) (hb : body s = s.scalarAccess addr a)
    (hm : (if a.isLoad then AccMode.read else AccMode.write) = m) :
    (addr % a.n ≠ 0 → exec i s = .next (s.raise 2 5 addr none)) ∧
    (addr % a.n = 0 → ∀ c, s.locate s.me addr m = .fault c → exec i s = .next (s.raise 2 c addr none)) :=
  ⟨fun h => runSlot_traps hi on (hb.trans (State.scalarAccess_misaligned h)),
    fun h _ hl => runSlot_traps hi on (hb.trans (State.scalarAccess_fault h (hm ▸ hl)))⟩

/-- The instructions of the table and the operation of each. -/
theorem atomics_exec : ∀ e ∈ Claims.atomics, ∀ x s, exec (e.1 x) s = atomicOp x.g x.d x.a x.b x.w e.2.1 s := by
  simp only [Claims.atomics, List.cons_append, List.nil_append, List.forall_mem_cons]
  exact ⟨fun _ _ => rfl, fun _ _ => rfl, fun _ _ => rfl, fun _ _ => rfl, fun _ _ => rfl, fun _ _ => rfl, fun _ _ => rfl, fun _ _ => rfl,
    fun _ _ => rfl, fun _ _ => rfl, fun _ h => nomatch h⟩
/-- The access of an atomic with operand b, and d to compare with. -/
def atomicAccess (x : SAlu) (op : AtomOp) (b d : Nat) : Access :=
  { Access.blank (.atomic op) (wBits x.w / 8) with dst := sLoc x.d, val := narrowW x.w b, cmp := narrowW x.w d }
/-- An atomic is its access, its operands read. -/
theorem atomicOp_access {x : SAlu} {op : AtomOp} {s : State} {a b : Nat} (ha : s.rdS x.a = .ok a) (hb : s.rdS x.b = .ok b)
    (hd : op = .cas → ∃ v, s.rdD x.d = .ok v) : ∃ (body : State → Res State) (d : Nat), (∀ s, atomicOp x.g x.d x.a x.b x.w op s = runSlot 2 x.g s body) ∧
      body s = s.scalarAccess a (atomicAccess x op b d) := by
  by_cases h : op = .cas
  · obtain ⟨d, hd⟩ := hd h
    refine ⟨_, d, fun _ => rfl, ?_⟩
    rw [ha, ok_bind, hb, ok_bind]
    exact (if_pos h).trans (by rw [hd]; rfl)
  · refine ⟨_, 0, fun _ => rfl, ?_⟩
    rw [ha, ok_bind, hb, ok_bind]
    exact if_neg h

/-- Settles O22. -/
theorem scalarAccessTraps : Obligations.ScalarAccessTraps := by
  refine ⟨fun i s x a b hi on ha hb hv => ?memory, fun e he x s a b on ha hb hv => ?atomic⟩
  case memory =>
    simp only [List.mem_cons, List.not_mem_nil, or_false] at hi
    rcases hi with rfl | rfl | rfl
    · exact scalarAccess_traps (a := { Access.blank .load (2 ^ x.z.val) with dst := sLoc x.d }) rfl on (by rw [ha, ok_bind, hb, ok_bind]) rfl
    · exact scalarAccess_traps (a := { Access.blank .loadS (2 ^ x.z.val) with dst := sLoc x.d }) rfl on (by rw [ha, ok_bind, hb, ok_bind]) rfl
    · obtain ⟨v, hv⟩ := hv rfl
      exact scalarAccess_traps (a := { Access.blank .store (2 ^ x.z.val) with val := v % 2 ^ (8 * 2 ^ x.z.val) }) rfl on
        (by rw [ha, ok_bind, hb, ok_bind, hv, ok_bind]) (if_pos rfl).symm
  case atomic =>
    obtain ⟨body, d, hi, hbody⟩ := atomicOp_access ha hb hv
    have he := (atomics_exec e he x s).trans (hi s)
    obtain ⟨misaligned, fault⟩ := scalarAccess_traps he on hbody rfl
    exact ⟨misaligned, fault,
      fun h key uc u hl hk => runSlot_traps he on (hbody.trans (State.scalarAccess_hostAtomic h rfl hl hk)),
      fun hf h key uc u hl hk hr => runSlot_traps he on (hbody.trans (State.scalarAccess_inReduction h (congrArg AccKind.atomic hf) hl hk hr))⟩

end Sys2Proof.Machine

namespace Sys2Proof.Machine

/-!
PROOFS. O25: every privileged form is one of `runPriv`, which traps before the form's body; a form for the management context alone answers its denial
as soon as its operands are read.
-/
theorem exec_priv {i : Instr} {g : Guard} (h : Claims.privileged i = some g) :
    ∃ body : State → Res State, ∀ s, exec i s = runPriv g s body := by
  cases i <;> cases h <;> exact ⟨_, fun _ => rfl⟩
theorem privilegedMode : Claims.PrivilegedMode := by
  intro i g s h on
  obtain ⟨body, hi⟩ := exec_priv h
  rw [hi]
  exact ⟨fun hm => runPriv_mesh g s body on.1 on.2 hm, fun hm hs => runPriv_seg g s body on.1 on.2 hm hs⟩

/-- A privileged form that takes effect and whose body says a value says it. -/
theorem runPriv_says {i : Instr} {g : Guard} {d : Dst} {s t : State} {body : State → Res State} {v : Nat} (hi : exec i s = runPriv g s body)
    (p : Claims.Priv g d s) (hp : t.pre = s.pre) (hb : body s = t.wrS d v 4) : Claims.Says i s t d v := by
  obtain ⟨on, hm, hs, hc⟩ := p
  obtain ⟨u, hu⟩ := State.wr_gives hp hc (v % 2 ^ 64) (2 ^ 64 - 1) 0 4
  exact ⟨u, hu, hi.trans (runPriv_ok g s u body on.1 on.2 hm hs (hb.trans hu))⟩
theorem privilegedDenied : Claims.PrivilegedDenied := by
  intro s hm
  have denied : (!isMgmt s.me) = true := by rw [hm]; rfl
  refine ⟨fun x a p ha => ?PDAn, fun x a p ha => ?PDA, fun x a b p ha hb => ?PDAB, fun x a b p ha hb => ?PDABn⟩
  case PDAn =>
    refine ⟨?_, ?_, ?_, ?_, ?_, ?_, ?_⟩
    all_goals
      refine runPriv_says rfl p rfl ?_
      rw [ha, ok_bind]
      exact if_pos denied
  case PDA =>
    refine runPriv_says rfl p rfl ?_
    rw [ha, ok_bind]
    exact if_pos denied
  case PDAB =>
    refine ⟨?_, ?_, ?_⟩
    all_goals
      refine runPriv_says rfl p rfl ?_
      rw [ha, ok_bind, hb, ok_bind]
    · exact if_pos denied
    · exact if_pos denied
    · exact if_pos (.inl denied)
  case PDABn =>
    refine ⟨?_, ?_⟩
    all_goals
      refine runPriv_says rfl p rfl ?_
      rw [State.retireForm, ha, ok_bind, hb, ok_bind]
      exact if_pos denied
/-- Settles O25. -/
theorem privilegedTraps : Obligations.PrivilegedTraps := ⟨privilegedMode, privilegedDenied⟩

end Sys2Proof.Machine

namespace Sys2Proof.Machine

/-!
PROOFS. O43: what a command does as it is issued. The bytes of its operands enter the signature of the open bundle and nothing else of the state; then
its number, its place in the list of commands, and the watermark of the accumulator that it writes.
-/

/-! What enters the signature (R391). -/
/-- From s to t nothing changes but what the open bundle's signature holds. -/
def State.Noted (s t : State) : Prop := ∃ f : Open → List (Nat × Nat × Nat), t = s.modOpen fun o => { o with sigs := f o }
theorem State.Noted.refl (s : State) : s.Noted s := by
  refine ⟨Open.sigs, ?_⟩
  simp [State.modOpen]
theorem State.Noted.note {s t : State} (h : s.Noted t) (g b v : Nat) : s.Noted (t.note g b v) := by
  obtain ⟨f, rfl⟩ := h
  unfold State.note
  split
  · exact ⟨fun o => f o ++ [(g, b, v)], by simp [State.modOpen, Option.map_map, Function.comp_def]⟩
  · exact ⟨f, rfl⟩
section
variable {s t : State} (h : s.Noted t)
include h
theorem State.Noted.toWorld : t.toWorld = s.toWorld := by obtain ⟨f, rfl⟩ := h; rfl
theorem State.Noted.agenda : t.agenda = s.agenda := by obtain ⟨f, rfl⟩ := h; rfl
theorem State.Noted.ctx (k : Nat) : t.ctx k = s.ctx k := by obtain ⟨f, rfl⟩ := h; rfl
theorem State.Noted.core (c : Nat) : t.core c = s.core c := by obtain ⟨f, rfl⟩ := h; rfl
theorem State.Noted.me : t.me = s.me := by
  obtain ⟨f, rfl⟩ := h
  unfold State.me State.modOpen
  cases s.opened <;> rfl
theorem State.Noted.pre : t.pre = s.pre := by
  obtain ⟨f, rfl⟩ := h
  unfold State.pre State.modOpen
  cases s.opened <;> rfl
theorem State.Noted.scope : t.scope = s.scope := by
  obtain ⟨f, rfl⟩ := h
  unfold State.scope State.modOpen
  cases s.opened <;> rfl
end

/-- What each note keeps, the notes of a command keep (R201). -/
theorem State.noteCmd_keeps (P : State → Prop) (note : ∀ t g b v, P t → P (t.note g b v)) {s : State} (h : P s) (op : CmdOp) : P (s.noteCmd op) := by
  have pair (t : State) (p : MPair) (ht : P t) : P ((t.note 6 8 p.even.toNat).note 6 8 p.odd.toNat) := note _ _ _ _ (note _ _ _ _ ht)
  cases op with
  | mldt n code fmt p => exact pair _ p h
  | mstz k p tag => exact pair _ p h
  | mul c =>
    unfold State.noteCmd
    dsimp only
    split
    · split
      · exact pair _ _ (pair _ _ h)
      · exact pair _ _ h
    · split
      · exact pair _ _ h
      · exact h
  | mfix k v rows cols => exact note _ _ _ _ h
  | mbias k v => exact note _ _ _ _ h
  | copy c =>
    obtain ⟨op, dst, src, fmts, coll⟩ := c
    cases op with
    | cwait n imm => exact h
    | cfence sc => exact h
    | cpyb n t =>
      cases t with
      | none => exact note _ _ _ _ (note _ _ _ _ h)
      | some t => exact note _ _ _ _ h
    | czero => exact note _ _ _ _ h
    | cpref => exact note _ _ _ _ h
    | cpyt n code fmt => exact note _ _ _ _ h
    | _ => exact note _ _ _ _ (note _ _ _ _ h)
  | _ => exact h
theorem State.noted_noteCmd (s : State) (op : CmdOp) : s.Noted (s.noteCmd op) :=
  State.noteCmd_keeps s.Noted (fun _ g b v h => h.note g b v) (State.Noted.refl s) op

/-! A command takes its number and its place (R200). -/
/-- The command as it stands in the list of its context's commands. -/
def Cmd.issuedIn (m : Cmd) (s : State) : Cmd :=
  { m with num := (s.ctx s.me).regs.dat.issued[m.eng] + 1, scope := s.scope, issued := s.now, seqAt := s.pre.seq, order := (s.core (coreOf s.me)).order }
/-- A context with the next number of an engine taken. -/
def Ctx.numbered (c : Ctx) (e : Fin 3) : Ctx := c.modDat fun d => { d with issued := d.issued.set e (d.issued[e] + 1) }
/-- A context with a command, numbered before, in its place. -/
def Ctx.queued (c : Ctx) (m : Cmd) : Ctx :=
  { c with cmds := c.cmds ++ [m], wz := match m.writesZ with | some z => c.wz.set z 0 | none => c.wz }
theorem State.takeNumber_seq (s : State) (e : Fin 3) : (s.takeNumber e).pre.seq = s.pre.seq := by
  unfold State.takeNumber State.modMe State.pre State.me
  cases h : s.opened with
  | some o => simp [h]
  | none => simp [h, Ctx.modDat]
theorem State.takeNumber_scope (s : State) (e : Fin 3) : (s.takeNumber e).scope = s.scope := rfl
theorem Cmd.writesZ_issuedIn (m : Cmd) (s : State) : (m.issuedIn s).writesZ = m.writesZ := rfl
/-- What a command does as it is issued. -/
theorem State.enqueue_eq (s : State) (m : Cmd) : s.enqueue m =
    (((s.noteCmd m.op).takeNumber m.eng).modCore (coreOf s.me) fun c => { c with order := c.order + 1 }).modCtx s.me fun c => c.queued (m.issuedIn s) := by
  have n := s.noted_noteCmd m.op
  have num : (((s.noteCmd m.op).takeNumber m.eng).ctx s.me).regs.dat.issued[m.eng] = (s.ctx s.me).regs.dat.issued[m.eng] + 1 := by
    rw [State.takeNumber, State.modMe, n.me, State.ctx_modCtx_same, n.ctx]
    simp [Ctx.modDat]
  have now : ((s.noteCmd m.op).takeNumber m.eng).now = s.now := (congrArg World.now n.toWorld : (s.noteCmd m.op).now = s.now)
  have order (c : Nat) : ((s.noteCmd m.op).takeNumber m.eng).core c = s.core c := n.core c
  unfold State.enqueue Cmd.issuedIn Ctx.queued
  simp only [State.takeNumber_seq, n.pre, State.takeNumber_scope, n.scope, num, now, order] <;> rfl
theorem State.enqueue_ctx (s : State) (m : Cmd) : (s.enqueue m).ctx s.me = ((s.ctx s.me).numbered m.eng).queued (m.issuedIn s) := by
  have n := s.noted_noteCmd m.op
  rw [State.enqueue_eq, State.ctx_modCtx_same, State.modCore_ctx, State.takeNumber, State.modMe, n.me, State.ctx_modCtx_same, n.ctx]
  rfl
theorem State.enqueue_ctx_ne (s : State) (m : Cmd) {j : Nat} (h : j ≠ s.me) : (s.enqueue m).ctx j = s.ctx j := by
  have n := s.noted_noteCmd m.op
  rw [State.enqueue_eq, State.ctx_modCtx_ne _ _ _ _ h, State.modCore_ctx, State.takeNumber, State.modMe, n.me, State.ctx_modCtx_ne _ _ _ _ h, n.ctx]
theorem State.enqueue_mem (s : State) (m : Cmd) : (s.enqueue m).mem = s.mem := by
  rw [State.enqueue_eq]
  exact (congrArg World.mem (s.noted_noteCmd m.op).toWorld : (s.noteCmd m.op).mem = s.mem)
theorem State.enqueue_order (s : State) (m : Cmd) : ((s.enqueue m).core (coreOf s.me)).order = (s.core (coreOf s.me)).order + 1 := by
  rw [State.enqueue_eq, State.modCtx_core, State.core_modCore_same]
  exact congrArg (fun c : Core => c.order + 1) ((s.noted_noteCmd m.op).core _)

/-- Settles O43. -/
theorem commandIssue : Obligations.CommandIssue := by
  intro s m
  refine ⟨?_, ?_, fun z hz => ?_, fun hz => ?_, ?_, s.enqueue_mem m, fun j => s.enqueue_ctx_ne m, s.enqueue_order m⟩
  all_goals rw [State.enqueue_ctx]
  · rfl
  · rfl
  · rw [Ctx.queued, Cmd.writesZ_issuedIn, hz]
    rfl
  · rw [Ctx.queued, Cmd.writesZ_issuedIn, hz]
    rfl
  · rfl

end Sys2Proof.Machine

/-!
PROOFS. O45: the commands of the accumulator port (by one lemma for all of them) and of the tile port, each by what its checks answer.
-/
namespace Sys2Proof.Machine

/-! What the checks answer. -/
theorem State.tileFree_busy (s : State) (i : Nat) (pair : Bool) (h : s.pre.busyT i = true) : s.tileFree i pair = .error .block := by
  simp [State.tileFree, h]
theorem State.fmtReg_fin (s : State) (f : Fin 8) : s.fmtReg f.val = s.pre.regs.sys.fmt[f] := dif_pos f.isLt
/-- Comparing a bounded number and comparing its value are one. -/
theorem Fin.beq_eq_val_beq {n : Nat} (a b : Fin n) : (a == b) = (a.val == b.val) := by
  rw [Bool.eq_iff_iff, beq_iff_eq, beq_iff_eq, Fin.ext_iff]
theorem error_bind {α β : Type} (e : Stop) (f : α → Res β) : ((.error e : Res α) >>= f) = .error e := rfl

/-! A command of the matrix slot: what its body gives is issued, and what stops it is recorded. -/
section
variable {g : Guard} {s : State} (h : Claims.Cmds g s)
include h
theorem runMatrix_ok {body : State → Res Cmd} {m : Cmd} (hb : body s = .ok m) : runCmd 5 0 g s body = .next (s.enqueue m) :=
  runCmd_ok 5 0 g s body m h.1.1 h.1.2 h.2 hb
theorem runMatrix_error {body : State → Res Cmd} {e : Stop} (hb : body s = .error e) : runCmd 5 0 g s body = .next (s.stopSlot 5 e) :=
  runCmd_error 5 0 g s body e h.1.1 h.1.2 h.2 hb

/-! The accumulator port (R99). -/
theorem zOp_busy (k : Fin 4) (lat : Nat) (op : State → Res CmdOp) (hb : s.pre.busyZ k = true) : zOp g k lat op s = .next (s.holdSlot 5 true none) :=
  runMatrix_error h (e := .block) (if_pos hb)
theorem zOp_ok (k : Fin 4) (lat : Nat) (op : State → Res CmdOp) (o : CmdOp) (hb : s.pre.busyZ k = false) (ho : op s = .ok o) :
    zOp g k lat op s = .next (s.enqueue { Cmd.blank 0 o with lat := lat }) :=
  runMatrix_ok h (by rw [if_neg (by simp [hb]), ho]; rfl)
theorem zOp_error (k : Fin 4) (lat : Nat) (op : State → Res CmdOp) (e : Stop) (hb : s.pre.busyZ k = false) (ho : op s = .error e) :
    zOp g k lat op s = .next (s.stopSlot 5 e) :=
  runMatrix_error h (by rw [if_neg (by simp [hb]), ho]; rfl)
end
/-- A command of the accumulator port issues, or is held while its accumulator is busy. -/
theorem zPort_of_zOp {i : Instr} {g : Guard} {k : Fin 4} {lat : Nat} {op : State → Res CmdOp} {s : State} {o : CmdOp} (hi : exec i s = zOp g k lat op s)
    (ho : op s = .ok o) : Claims.zPort i g k s o lat := by
  intro h
  exact ⟨fun hb => hi.trans (zOp_ok h k lat op o hb ho), fun hb => hi.trans (zOp_busy h k lat op hb)⟩
theorem exec_mfix_zPort (x : MZM) (s : State) (m : Nat) (h : s.rdM x.j = .ok m) :
    Claims.zPort (.mfix x) x.g x.k s (.mfix x.k (BitVec.ofNat 2048 m) s.pre.regs.dat.rows s.pre.regs.dat.cols) 72 :=
  zPort_of_zOp rfl (by rw [h]; rfl)
theorem exec_mbias_zPort (x : MZM) (s : State) (m : Nat) (h : s.rdM x.j = .ok m) :
    Claims.zPort (.mbias x) x.g x.k s (.mbias x.k (BitVec.ofNat 2048 m)) 72 :=
  zPort_of_zOp rfl (by rw [h]; rfl)
theorem exec_minj_zPort (x : MInj) (s : State) (h : (s.part s.pre.part).minj = true) : Claims.zPort (.minj x) x.g x.k s (.minj x.k x.i x.j x.t x.b) 4 :=
  zPort_of_zOp rfl (if_pos h)
theorem exec_minj_illegal (x : MInj) (s : State) (h : (s.part s.pre.part).minj = false) (hc : Claims.Cmds x.g s) (hb : s.pre.busyZ x.k = false) :
    exec (.minj x) s = .next (s.raise 5 2 0 none) :=
  zOp_error hc x.k 4 _ (.trap 2 0) hb (if_neg (by simp [h]))

/-! The tile port. -/
section Load
variable {x : MLoad} {s : State} {p : MPair} (h : Claims.Cmds x.g s)
include h
theorem exec_mldt_busy (hb : s.pre.busyT x.n = true) : exec (.mldt x) s = .next (s.holdSlot 5 true none) :=
  runMatrix_error h (e := .block) (by simp only [State.tileFree_busy s x.n _ hb, error_bind])
variable (ht : s.tileFree x.n (x.c.val == 10) = .ok ()) (hp : s.rdPair x.q = .ok p)
include ht hp
theorem exec_mldt_blockScaled (hb : blockScaled x.c (s.fmtReg x.f) = true) : exec (.mldt x) s = .next (s.raise 5 4 0 none) :=
  runMatrix_error h (e := .trap 4 0) (by simp only [ht, hp, ok_bind, hb, if_true])
theorem exec_mldt_issues (hb : blockScaled x.c (s.fmtReg x.f) = false) (ho : s.pairOk s.me p x.c (s.fmtReg x.f) = .ok ()) :
    Claims.Issues (.mldt x) s { Cmd.blank 0 (.mldt x.n x.c (s.fmtReg x.f) p) with lat := if isGlen s.me p.base then 78 else 72 } :=
  runMatrix_ok h (by simp only [ht, hp, ok_bind, hb, if_false, ho, Bool.false_eq_true])
end Load
section Store
variable {x : MStore} {s : State} {p : MPair} (h : Claims.Cmds x.g s) (hp : s.rdPair x.q = .ok p) (ho : s.pairOk s.me p 10 0 = .ok ())
include h hp ho
theorem exec_mstz_issues :
    Claims.Issues (.mstz x) s (s.readRows { Cmd.blank 0 (.mstz x.k p false) with lat := if isGlen s.me p.base then 86 else 80 } x.k) :=
  runMatrix_ok h (by simp only [hp, ok_bind, ho, Bool.false_eq_true, false_and, if_false])
theorem exec_mstzTag_misaligned (ha : p.aux % 2 ≠ 0) : exec (.mstzTag x) s = .next (s.raise 5 5 p.aux none) :=
  runMatrix_error h (e := .trap 5 p.aux) (by simp only [hp, ok_bind, ho, true_and, if_pos ha])
theorem exec_mstzTag_issues (ha : p.aux % 2 = 0) (hc : s.padCheck s.me p.aux 2 = .ok ()) :
    Claims.Issues (.mstzTag x) s (s.readRows { Cmd.blank 0 (.mstz x.k p true) with lat := if isGlen s.me p.base then 86 else 80 } x.k) :=
  runMatrix_ok h (by simp only [hp, ok_bind, ho, true_and, if_neg (not_not.mpr ha), hc, if_true])
end Store
theorem exec_mtr_issues (x : MTrans) (s : State) (h : Claims.Cmds x.g s) (ha : s.tileFree x.a (x.c.val == 2) = .ok ())
    (hd : s.tileFree x.d (x.c.val == 2) = .ok ()) :
    Claims.Issues (.mtr x) s { Cmd.blank 0 (.mtr x.d x.a x.c) with lat := 72, hold := if x.c.val = 2 then [x.a, x.a + 1] else [x.a] } :=
  runMatrix_ok h (by simp only [ha, hd, ok_bind]; rfl)
section Convert
variable {x : MCvt} {s : State} (h : Claims.Cmds x.g s)
include h
theorem exec_mcvt_busy (hb : s.pre.busyT x.d = true) : exec (.mcvt x) s = .next (s.holdSlot 5 true none) :=
  runMatrix_error h (e := .block) (by simp only [State.tileFree_busy s x.d _ hb, error_bind])
variable (ht : s.tileFree x.d (x.c.val == 10) = .ok ())
include ht
theorem exec_mcvt_blockScaled (hb : blockScaled x.c (s.fmtReg x.f) = true) : exec (.mcvt x) s = .next (s.raise 5 4 0 none) :=
  runMatrix_error h (e := .trap 4 0) (by simp only [ht, ok_bind, hb, if_true])
theorem exec_mcvt_issues (hb : blockScaled x.c (s.fmtReg x.f) = false) :
    Claims.Issues (.mcvt x) s (s.readRows { Cmd.blank 0 (.mcvt x.d x.k x.r x.c (s.fmtReg x.f)) with lat := 72 } x.k) :=
  runMatrix_ok h (by simp only [ht, ok_bind, hb, if_false, Bool.false_eq_true])
end Convert

/-- Settles O45. -/
theorem matrixCommands : Obligations.MatrixCommands := by
  refine ⟨fun x s => ⟨zPort_of_zOp rfl rfl, zPort_of_zOp rfl rfl, zPort_of_zOp rfl rfl⟩, fun x s => zPort_of_zOp rfl rfl,
    fun x s m hm => ⟨exec_mfix_zPort x s m hm, exec_mbias_zPort x s m hm⟩, fun x s => ⟨exec_minj_zPort x s, exec_minj_illegal x s⟩,
    fun x s p h ht hp => ?_, fun x s p h hp ho => ⟨exec_mstz_issues h hp ho, exec_mstzTag_misaligned h hp ho, exec_mstzTag_issues h hp ho⟩,
    exec_mtr_issues, fun x s h ht => ?_, fun x y s => ⟨fun h => exec_mldt_busy h, fun h => exec_mcvt_busy h⟩⟩
  · rw [Fin.beq_eq_val_beq] at ht
    rw [← State.fmtReg_fin]
    exact ⟨exec_mldt_blockScaled h ht hp, exec_mldt_issues h ht hp⟩
  · rw [Fin.beq_eq_val_beq] at ht
    rw [← State.fmtReg_fin]
    exact ⟨exec_mcvt_blockScaled h ht, exec_mcvt_issues h ht⟩
end Sys2Proof.Machine

/-!
PROOFS. O3 fails, at a state whose table of contexts is out of order. The boundary before a bundle writes the context's own entry back (`State.postLate`
empties its list of late accesses), and `Tbl.put` sets a key before the first larger one: where context 1 stands before context 0, that is a second
entry. A bundle that stalls leaves the table as it stands (`State.stall`), so `step` keeps the second entry, which the execution of the slots
alone does not make. Where the entry stands in its place the statement holds (`step_runs_bundle_of_ordered`), and its clause on events holds as it
is (`stepRunsEvent`).
-/
namespace Sys2Proof.Machine
noncomputable section

/-! What holds. -/
theorem stepRunsEvent : Claims.StepRunsEvent := by
  intro s i rest exact named
  simp only [step, exact, named]
theorem State.course_alone (s : State) (k : Nat) (h : (s.ctx k).ctl.clen < 2) : s.course k = [k] := if_pos h
theorem State.postLate_none (s : State) (k : Nat) (h : (s.ctx k).late = []) : s.postLate k = s.setCtx k (s.ctx k) := by
  have same : { s.ctx k with late := [] } = s.ctx k := by rw [← h]
  unfold State.postLate
  rw [h]
  exact congrArg (s.setCtx k) same
theorem State.atBoundary_plain (s : State) (k : Nat) (bad : Option Nat) (h : Claims.Plain s k) (ho : s.setCtx k (s.ctx k) = s) :
    s.atBoundary k bad = s.issueAlone k (bad == some k) := by
  obtain ⟨_, clen, kill, rolling, saving, forced, async, pend, wheld, _, late, _, pages⟩ := h
  have paged : ((s.ctx k).regs.sys.dmode && (s.ctx k).cmds.any fun m => m.page.isSome) = false := by
    cases hd : (s.ctx k).regs.sys.dmode with
    | false => rfl
    | true => simpa using pages hd
  have quiet : ¬((s.ctx k).regs.sys.tl = 0 ∧ (s.ctx k).async ≠ []) := by tauto
  unfold State.atBoundary
  rw [State.postLate_none s k late, ho]
  simp only [State.course_alone s k clen, kill, rolling, saving, forced, pend, wheld, paged, quiet, List.any_cons, List.any_nil, Option.isSome_none,
    Bool.false_and, Bool.or_false, Bool.false_eq_true, if_false, or_self, ite_self, decide_eq_true_eq, not_le.mpr clen]
/-- The instructions of a bundle's slots, in slot order but for the literal's. -/
def State.actSlots (b : Nat) (f : Nat → Instr) (l : List Nat) (s : State) : State :=
  l.foldl (fun t i => if hdrLit (bundleWord b 0) = i then t else match exec (f i) t with | .next u => u | _ => t) s
/-- A bundle opened for a context, its slots having acted. -/
def State.ranBundle (s : State) (k b : Nat) (f : Nat → Instr) : State :=
  State.actSlots b f [1, 2, 3, 4, 5, 6, 7] (s.openBundle k (Claims.word b 0) (Claims.literal b) ((List.range 8).map (Claims.word b)))
theorem State.runSlots_eq_actSlots (b : Nat) (f : Nat → Instr) (l : List Nat) (s : State)
    (h : ∀ i ∈ l, i ≠ hdrLit (bundleWord b 0) → decodeOpt (slotAt i) (bundleWord b i) = some (f i)) :
    s.runSlots b false l = State.actSlots b f l s := by
  induction l generalizing s with
  | nil => rfl
  | cons i r ih =>
    rw [State.actSlots, List.foldl_cons, ← State.actSlots, ← ih _ fun j hj => h j (.tail _ hj)]
    rw [State.runSlots]
    by_cases hl : hdrLit (bundleWord b 0) = i
    · simp [hl]
    · simp only [hl, Bool.false_and, Bool.false_eq_true, or_self, if_false, h i (.head _) (Ne.symm hl)]
      rfl
theorem State.issueAlone_commits (s t : State) (k b : Nat) (sigBad : Bool) (f : Nat → Instr) (held : (s.ctx k).held = none) (fetched : s.fetch k = .ok b t)
    (legal : encodingTrap k ((t.ctx k).regs.flow.dly.count != 0) b = none)
    (decodes : ∀ i, 1 ≤ i → i ≤ 7 → i ≠ hdrLit (bundleWord b 0) → decodeOpt (slotAt i) (bundleWord b i) = some (f i)) :
    s.issueAlone k sigBad = (t.ranBundle k b f).doInstr (.bundleCommit sigBad) := by
  have meet : s.meet k = (.bundle b, t) := by simp only [State.meet, fetched, legal]
  have slots : t.openRun k b false = _ := State.runSlots_eq_actSlots b f slotOrder _ fun i hi =>
    decodes i (by revert i; decide) (by revert i; decide)
  simp only [State.issueAlone, meet, held, State.lateAccess, slots]
  rfl
theorem State.landFlight_now (s : State) (k i : Nat) : (s.landFlight k i).now = s.now := by
  obtain h | ⟨c, l, v, m, h | ⟨x, y, h⟩⟩ := s.landFlight_cases k i <;> rw [h] <;> rfl
theorem State.landDue_now (s : State) (k t : Nat) : (s.landDue k t).now = s.now :=
  foldl_keeps (fun u : State => u.now = s.now) _ _ _ rfl fun u f hu => by
    split
    · split
      · rw [State.landFlight_now, hu]
      · exact hu
    · exact hu
theorem State.wakeCore_now (s : State) (core : Nat) : (s.wakeCore core).now = s.now := by
  unfold State.wakeCore
  split
  · rfl
  · refine foldl_keeps (fun u : State => u.now = s.now) _ _ _ rfl fun u k hu => ?_
    unfold State.ready
    split
    · exact hu
    · exact hu
/-- The state with what was due by now landed is at the same cycle. -/
theorem State.landed_now (s : State) (core : Nat) : ((s.bound core).foldl (fun s k => s.landDue k s.now) (s.wakeCore core)).now = s.now :=
  foldl_keeps (fun u : State => u.now = s.now) _ _ _ (s.wakeCore_now core) fun u k hu => (u.landDue_now k u.now).trans hu
/-- A core issues for the context that it chooses, where nothing comes before that context's bundle. -/
theorem State.issueCore_chosen (s s1 : State) (core k : Nat) (sigBad : Bool) (closed : s.opened = none) (next : (s.core core).next ≤ s.now)
    (edge : (s.core core).edge 0 s.now = s.now) (fenced : (s.core core).health.fenced = false) (energy : (s.courseCores core).find? s.energyHeld = none)
    (hs1 : s1 = (s.bound core).foldl (fun s k => s.landDue k s.now) (s.wakeCore core)) (next1 : (s1.core core).next ≤ s.now)
    (chosen : s1.choose core = some k) (plain : Claims.Plain s1 k) :
    s.issueCore core sigBad = s1.atBoundary k (if sigBad then some k else none) := by
  have now1 : s1.now = s.now := hs1 ▸ s.landed_now core
  obtain ⟨running, clen, _, _, _, _, _, _, _, _, _, run, _⟩ := plain
  have issue : s1.issueCtx k (if sigBad then some k else none) = s1.atBoundary k (if sigBad then some k else none) := by
    simp only [State.issueCtx, State.course_alone s1 k clen, List.length_singleton, Nat.one_lt_ofNat, if_true]
  unfold State.issueCore
  rw [if_neg (by simp [closed, fenced, next]), if_neg (by simp [edge]), energy]
  cases cur : (s1.core core).cur with
  | none => simp only [← hs1, cur, now1, not_lt.mpr next1, if_false, chosen, running, if_true, issue]
  | some j =>
    have hj : j = k := by
      simp only [State.choose, cur] at chosen
      split at chosen
      · exact Option.some.inj chosen
      · cases chosen
    subst hj
    simp only [← hs1, cur, not_le.mpr run, now1, not_lt.mpr next1, if_false, chosen, running, if_true, issue]
/-- What O3 says of a bundle, where the table of contexts has the chosen context in its place: writing its entry back changes nothing. -/
theorem step_runs_bundle_of_ordered (s s1 s2 : State) (core k b : Nat) (bad : Bool) (rest : List Move) (f : Nat → Instr)
    (agenda : s.agenda = .issue core bad :: rest) (closed : s.opened = none) (exact : firstDue s s.exactDues = none) (due : firstDue s s.dues = none)
    (next : (s.core core).next ≤ s.now) (edge : (s.core core).edge 0 s.now = s.now) (fenced : (s.core core).health.fenced = false)
    (energy : (State.courseCores { s with agenda := rest } core).find? (State.energyHeld { s with agenda := rest }) = none)
    (hs1 : s1 = (State.bound { s with agenda := rest } core).foldl (fun s k => s.landDue k s.now) (State.wakeCore { s with agenda := rest } core))
    (next1 : (s1.core core).next ≤ s.now) (chosen : s1.choose core = some k) (plain : Claims.Plain s1 k) (ordered : s1.setCtx k (s1.ctx k) = s1)
    (fetched : s1.fetch k = .ok b s2) (legal : encodingTrap k ((s2.ctx k).regs.flow.dly.count != 0) b = none)
    (decodes : ∀ i, 1 ≤ i → i ≤ 7 → i ≠ hdrLit (bundleWord b 0) → decodeOpt (slotAt i) (bundleWord b i) = some (f i)) :
    step s = exec (.bundleCommit bad) (s2.ranBundle k b f) := by
  have own : ((if bad then some k else none) == some k) = bad := by cases bad <;> simp
  have held : (s1.ctx k).held = none := by
    obtain ⟨_, _, _, _, _, _, _, _, _, held, _⟩ := plain
    exact held
  have issues : step s = .next (State.issueCore { s with agenda := rest } core bad) := by simp only [step, exact, due, agenda]
  rw [issues, State.issueCore_chosen { s with agenda := rest } s1 core k bad closed next edge fenced energy hs1 next1 chosen plain,
    s1.atBoundary_plain k _ plain ordered, own, s1.issueAlone_commits s2 k b bad f held fetched legal decodes]
  obtain ⟨t, ht⟩ := exec_next (.bundleCommit bad) (s2.ranBundle k b f)
  rw [State.doInstr, ht]

/-! What fails. -/
/-- Context 0 is about to issue ADD.64 S1, S2, S3 and a result for S2 lands at cycle 100 only; the free context 1 stands before it in the table. -/
def unsortedTable : State :=
  let s := Tests.placed.modCtx 0 fun c => { c with flights := [⟨.s 2, 0, ones64, 0, 100, true, false⟩] }
  { s with ctxs := (1, Ctx.zero) :: s.ctxs }
def unsortedNow : State := { unsortedTable with agenda := [] }
def unsortedDue : State := (State.bound unsortedNow 0).foldl (fun s k => s.landDue k s.now) (State.wakeCore unsortedNow 0)
/-- The bundle that context 0 fetches: the word of ADD.64 in slot s, no-ops in the others. -/
def stallBundle : Nat := Tests.word1 * 2 ^ 64
def unsortedFetched : State := match unsortedDue.fetch 0 with | .ok _ u => u | _ => unsortedDue
/-- The keys of the table of contexts that an outcome leaves. -/
def outKeys (o : Out) : List Nat := match o with | .next t => t.ctxKeys | _ => []
/-- What O3 claims that the step is: the slots in order, then the end of the bundle. -/
def stallSlotsRun : Out :=
  exec (.bundleCommit false) (unsortedFetched.ranBundle 0 stallBundle Tests.slots1)

/-- The premises of O3's clause on bundles at this state, and the tables that the step and the run of the slots leave. -/
theorem unsortedTable_evaluates :
    firstDue unsortedTable unsortedTable.exactDues = none ∧ firstDue unsortedTable unsortedTable.dues = none ∧
    (unsortedTable.core 0).next ≤ unsortedTable.now ∧ (unsortedTable.core 0).edge 0 unsortedTable.now = unsortedTable.now ∧
    (unsortedTable.core 0).health.fenced = false ∧ (State.courseCores unsortedNow 0).find? (State.energyHeld unsortedNow) = none ∧
    (unsortedDue.core 0).next ≤ unsortedTable.now ∧ unsortedDue.choose 0 = some 0 ∧ Claims.Plain unsortedDue 0 ∧
    unsortedDue.fetch 0 = .ok stallBundle unsortedFetched ∧ encodingTrap 0 ((unsortedFetched.ctx 0).regs.flow.dly.count != 0) stallBundle = none ∧
    (∀ i ∈ [1, 2, 3, 4, 5, 6, 7], decodeOpt (slotAt i) (bundleWord stallBundle i) = some (Tests.slots1 i)) ∧
    outKeys (step unsortedTable) = [0, 1, 0] ∧ outKeys stallSlotsRun = [1, 0] := by decide +kernel

/-- Refutes O3: the step leaves context 0 twice in the table of `unsortedTable`, and the run of the bundle's slots does not. -/
theorem not_stepRunsDecoded : ¬ Obligations.StepRunsDecoded := by
  intro ⟨bundle, _⟩
  obtain ⟨exact, due, next, edge, fenced, held, next', chosen, plain, fetched, legal, decodes, stepped, ran⟩ := unsortedTable_evaluates
  have same : step unsortedTable = stallSlotsRun :=
    bundle unsortedTable unsortedDue unsortedFetched 0 0 stallBundle false [] Tests.slots1 rfl rfl exact due next edge fenced held rfl next' chosen plain
      fetched legal fun i h1 h7 _ => decodes i (by simp; omega)
  have keys := congrArg outKeys same
  rw [stepped, ran] at keys
  exact absurd keys (by decide)

end
end Sys2Proof.Machine

/-!
PROOFS. O50 fails, at a store in flight that names a destination register. No instruction makes such an access, but the statement speaks of every
access of every state, and `State.perform` writes the value that an access answers, which is 0 for a store, to whatever destination it names.
-/
namespace Sys2Proof.Machine
noncomputable section

/-- A store of four bytes to the own scratchpad whose destination is S1. -/
def storeToRegister : Access := { Access.blank .store 4 with key := Tests.keyPad, dst := some (.s 1) }
/-- Context 0, whose S1 holds 6, with that one access in flight. -/
def storeInFlight : State := Tests.base.modCtx 0 fun c => { c with accs := [storeToRegister] }
/-- The access may perform, and what S1 holds before it does and after. -/
theorem storeInFlight_evaluates : (storeInFlight.ctx 0).accs[0]? = some storeToRegister ∧ storeInFlight.inTurn 0 storeToRegister = true ∧
    Claims.Timely storeInFlight 0 (storeInFlight.accDue 0 storeToRegister) ∧ cachable storeToRegister.key storeToRegister.uc = false ∧
    (storeInFlight.ctx 0).regs.dat.get (.s 1) = 6 ∧
    (((storeInFlight.performIdx 0 0).padFlits 0 storeToRegister.key storeToRegister.n).ctx 0).regs.dat.get (.s 1) = 0 := by decide +kernel

/-- Refutes O50: the store of `storeInFlight` performs and writes 0 to its destination S1, which held 6. -/
theorem not_landingEvents : ¬ Obligations.LandingEvents := by
  intro ⟨_, accesses, _⟩
  obtain ⟨inFlight, turn, timely, uncached, before, after⟩ := storeInFlight_evaluates
  obtain ⟨_, _, landed⟩ := accesses 0 0 storeToRegister .none storeInFlight rfl inFlight turn timely
  obtain ⟨_, landed⟩ := landed fun b hb => nomatch hb
  obtain ⟨_, kept⟩ := landed uncached
  have s1 := congrArg (fun d : DataRegs => d.get (.s 1)) kept
  rw [after, before] at s1
  exact absurd s1 (by decide)

end
end Sys2Proof.Machine

/-!
PROOFS. O58: an instruction that writes registers only is put together from few operations of the state: a result to a destination, sticky bits, notes in the
open bundle. Each of them frames the state (`Claims.Frame`), frames compose, and so the body of each instruction's slot does.
-/
namespace Claims
open Sys2Proof Sys2Proof.Machine

/-! Frames: of no change, of one after another, of each operation. -/
theorem sameOther.refl (d : DataRegs) : Claims.sameOther d d := ⟨rfl, rfl, rfl, rfl, rfl, rfl, rfl, rfl, rfl, rfl⟩
theorem sameOther.trans {d e f : DataRegs} (h : Claims.sameOther d e) (g : Claims.sameOther e f) : Claims.sameOther d f := by
  obtain ⟨h1, h2, h3, h4, h5, h6, h7, h8, h9, h10⟩ := h
  obtain ⟨g1, g2, g3, g4, g5, g6, g7, g8, g9, g10⟩ := g
  exact ⟨g1.trans h1, g2.trans h2, g3.trans h3, g4.trans h4, g5.trans h5, g6.trans h6, g7.trans h7, g8.trans h8, g9.trans h9, g10.trans h10⟩
/-- A write of a register leaves what no `Loc` names. -/
theorem sameOther.set (d : DataRegs) (l : Loc) (v : Nat) : Claims.sameOther d (d.set l v) := by
  cases l with
  | v u i => cases u <;> exact .refl _
  | vn u i => cases u <;> exact .refl _
  | ve u i => cases u <;> exact .refl _
  | cd e i => cases e <;> exact .refl _
  | p i =>
    simp only [DataRegs.set]
    split
    · exact .refl _
    · exact .refl _
  | _ => exact .refl _

section
variable {k : Nat} {l : List Loc} {s t u : State}
/-- A change of the open bundle alone. -/
theorem Frame.of_toWorld (hw : t.toWorld = s.toWorld) (ha : t.agenda = s.agenda) : Claims.Frame k l s t := by
  have hc (j : Nat) : t.ctx j = s.ctx j := congrArg (fun w : World => Tbl.getD w.ctxs j Ctx.zero) hw
  refine ⟨by unfold Claims.sameWorld; rw [hw], ha, fun j _ => hc j, ?_, ?_, ?_, ?_, ?_, ?_, ?_⟩ <;> rw [hc]
  · exact BitVec.or_self
  · exact .refl _
  · exact fun _ _ => rfl
theorem Frame.refl : Claims.Frame k l s s := .of_toWorld rfl rfl
theorem Frame.trans (h : Claims.Frame k l s t) (g : Claims.Frame k l t u) : Claims.Frame k l s u where
  world := by
    have hw := h.world
    have gw := g.world
    unfold Claims.sameWorld at hw gw ⊢
    rw [← hw]
    exact congrArg (fun w : World => { w with ctxs := s.ctxs, fresh := s.fresh }) gw
  agenda := g.agenda.trans h.agenda
  others j hj := (g.others j hj).trans (h.others j hj)
  rest := by rw [g.rest, h.rest]
  flow := g.flow.trans h.flow
  sys := by rw [g.sys, h.sys]
  sticky := by rw [← g.sticky, ← BitVec.or_assoc, h.sticky]
  dat := h.dat.trans g.dat
  regs m hm := (g.regs m hm).trans (h.regs m hm)
  flights := g.flights.trans h.flights
/-- A change of the registers and the results in flight of the context. -/
theorem Frame.modCtx {f : Ctx → Ctx} (rest : f (s.ctx k) = { s.ctx k with regs := (f (s.ctx k)).regs, flights := (f (s.ctx k)).flights })
    (flow : (f (s.ctx k)).regs.flow = (s.ctx k).regs.flow)
    (sys : (f (s.ctx k)).regs.sys = { (s.ctx k).regs.sys with sstat := (f (s.ctx k)).regs.sys.sstat })
    (sticky : (s.ctx k).regs.sys.sstat ||| (f (s.ctx k)).regs.sys.sstat = (f (s.ctx k)).regs.sys.sstat)
    (dat : Claims.sameOther (s.ctx k).regs.dat (f (s.ctx k)).regs.dat)
    (regs : ∀ m, m ∉ l → (f (s.ctx k)).regs.dat.get m = (s.ctx k).regs.dat.get m)
    (flights : (f (s.ctx k)).flights.filter (fun f => decide (f.loc ∉ l)) = (s.ctx k).flights.filter (fun f => decide (f.loc ∉ l))) :
    Claims.Frame k l s (s.modCtx k f) := by
  have hc : (s.modCtx k f).ctx k = f (s.ctx k) := State.ctx_modCtx_same s k f
  exact ⟨rfl, rfl, fun j hj => State.ctx_modCtx_ne s k j f hj, by rw [hc]; exact rest, by rw [hc]; exact flow, by rw [hc]; exact sys,
    by rw [hc]; exact sticky, by rw [hc]; exact dat, by rw [hc]; exact regs, by rw [hc]; exact flights⟩
theorem Frame.writeNow {m : Loc} (hm : m ∈ l) (v mask : Nat) : Claims.Frame k l s (s.writeNow k m v mask) :=
  .modCtx rfl rfl rfl BitVec.or_self (.set _ _ _) (fun n hn => DataRegs.get_merge_ne _ m n v mask fun e => hn (e ▸ hm)) rfl
theorem Frame.free : Claims.Frame k l s s.free.2 := ⟨rfl, rfl, fun _ _ => rfl, rfl, rfl, rfl, BitVec.or_self, .refl _, fun _ _ => rfl, rfl⟩
theorem Frame.flight (f : Flight) (hf : f.loc ∈ l) : Claims.Frame k l s (s.modCtx k fun c => { c with flights := c.flights ++ [f] }) :=
  .modCtx rfl rfl rfl BitVec.or_self (.refl _) (fun _ _ => rfl) (by simp [List.filter_append, hf])
theorem Frame.resultBy {m : Loc} (hm : m ∈ l) (v mask : Nat) (cls : Fin 5) (due : Nat) (lock long : Bool) :
    Claims.Frame k l s (s.resultBy k m v mask cls due lock long) := by
  unfold State.resultBy
  split
  · exact .refl
  · dsimp only
    split
    · exact .writeNow hm v mask
    · refine Claims.Frame.trans ?_ (.flight _ hm)
      split
      · exact .trans .free (.writeNow hm _ _)
      · exact .refl
theorem Frame.sticky_bits (bits : BitVec 9) : Claims.Frame k l s (s.modCtx k fun c => c.modSys fun r => { r with sstat := r.sstat ||| bits }) :=
  .modCtx rfl rfl rfl (show _ ||| (_ ||| bits) = _ ||| bits by rw [← BitVec.or_assoc, BitVec.or_self]) (.refl _) (fun _ _ => rfl) rfl
end

end Claims

namespace Sys2Proof.Machine

/-! The same of the open bundle's own context. -/
/-- From s to t the open bundle's context stays, and only the given registers of it change. -/
structure Kept (l : List Loc) (s t : State) : Prop where
  me : t.me = s.me
  frame : Claims.Frame s.me l s t
section
variable {l : List Loc} {s t u : State}
theorem Kept.refl : Kept l s s := ⟨rfl, .refl⟩
theorem Kept.step (h : Kept l s t) (hm : u.me = t.me) (hf : Claims.Frame t.me l t u) : Kept l s u := ⟨hm.trans h.me, h.frame.trans (h.me ▸ hf)⟩
theorem Kept.ite {c : Prop} [Decidable c] (h : Kept l s t) (g : Kept l s u) : Kept l s (if c then t else u) := by
  split
  · exact h
  · exact g
theorem Kept.modOpen (h : Kept l s t) {f : Open → Open} (hf : ∀ o, (f o).ctx = o.ctx) : Kept l s (t.modOpen f) := by
  refine h.step ?_ (.of_toWorld rfl rfl)
  unfold State.me State.modOpen
  cases t.opened with
  | none => rfl
  | some o => exact hf o
theorem Kept.note (h : Kept l s t) (g b v : Nat) : Kept l s (t.note g b v) := h.step (t.note_me g b v) (.of_toWorld (t.note_toWorld g b v) (t.note_agenda g b v))
theorem Kept.raise (h : Kept l s t) (i c v : Nat) (e : Option Nat) : Kept l s (t.raise i c v e) := h.modOpen fun _ => rfl
theorem Kept.holdSlot (h : Kept l s t) (i : Nat) (b : Bool) (p : Option (Nat × Nat × Nat)) : Kept l s (t.holdSlot i b p) := h.modOpen fun _ => rfl
theorem Kept.stopSlot (h : Kept l s t) (i : Nat) (e : Stop) : Kept l s (t.stopSlot i e) := by
  cases e with
  | trap c v => exact h.raise ..
  | poison v u => exact h.raise ..
  | block => exact h.holdSlot ..
  | stall => exact h.holdSlot ..
  | page p g l => exact h.holdSlot ..
theorem State.opened_resultBy (s : State) (k : Nat) (m : Loc) (v mask : Nat) (cls : Fin 5) (due : Nat) (lock long : Bool) :
    (s.resultBy k m v mask cls due lock long).opened = s.opened ∧ (s.resultBy k m v mask cls due lock long).cur = s.cur := by
  unfold State.resultBy
  split
  · exact ⟨rfl, rfl⟩
  · dsimp only
    split
    · exact ⟨rfl, rfl⟩
    · split
      · exact ⟨rfl, rfl⟩
      · exact ⟨rfl, rfl⟩
theorem State.me_congr (ho : t.opened = s.opened) (hc : t.cur = s.cur) : t.me = s.me := by unfold State.me; rw [ho, hc]
theorem Kept.writeNow (h : Kept l s t) {m : Loc} (hm : m ∈ l) (v mask : Nat) : Kept l s (t.writeNow t.me m v mask) := h.step rfl (.writeNow hm v mask)
theorem Kept.resultBy (h : Kept l s t) {m : Loc} (hm : m ∈ l) (v mask : Nat) (cls : Fin 5) (due : Nat) (lock long : Bool) :
    Kept l s (t.resultBy t.me m v mask cls due lock long) :=
  h.step (State.me_congr (t.opened_resultBy ..).1 (t.opened_resultBy ..).2) (.resultBy hm ..)
theorem Kept.setSticky (h : Kept l s t) (bits : Nat) : Kept l s (t.setSticky bits) := h.step rfl (.sticky_bits _)

/-! Writes of destinations. -/
theorem Kept.wr (h : Kept l s t) {d : Option Loc} (hd : d.toList ⊆ l) {v mask L : Nat} {cls : Fin 5} : Res.All (Kept l s) (t.wr d v mask cls L) := by
  cases d with
  | none => exact h
  | some m => exact .ite trivial ((h.resultBy (hd (.head _)) ..).note ..)
theorem Kept.wrBy (h : Kept l s t) {m : Loc} (hm : m ∈ l) {v mask due : Nat} {cls : Fin 5} : Res.All (Kept l s) (t.wrBy m v mask cls due) :=
  .ite trivial ((h.resultBy hm ..).note ..)
theorem Kept.wrS {d : Dst} (h : Kept (Claims.sd d) s t) {v L : Nat} : Res.All (Kept (Claims.sd d) s) (t.wrS d v L) := h.wr (List.Subset.refl _)
theorem Kept.wrP {p : Fin 8} (h : Kept [.p p] s t) {v mask L : Nat} {cls : Fin 5} : Res.All (Kept [.p p] s) (t.wrP p v mask cls L) :=
  h.wr (List.Subset.refl _)
theorem Kept.wrTo {m : Loc} (h : Kept [m] s t) {v mask L : Nat} {cls : Fin 5} : Res.All (Kept [m] s) (t.wr (some m) v mask cls L) :=
  h.wr (List.Subset.refl _)
theorem Kept.wrV {u : VUnit} {d : Dst} (h : Kept (Claims.vd u d) s t) {mask L : Nat} {f : Nat → Nat} : Res.All (Kept (Claims.vd u d) s) (t.wrV u d mask L f) :=
  h.wr (List.Subset.refl _)
end

/-! What acts in a slot. -/
/-- What an open bundle's instruction leaves to the given registers. -/
def Frames (l : List Loc) (run : State → Out) : Prop := ∀ s t, s.opened.isSome = true → run s = .next t → Claims.Frame s.me l s t
theorem Kept.slotDo {l : List Loc} {s : State} {i : Nat} {body : State → Res State} (hb : Res.All (Kept l s) (body s)) : Kept l s (s.slotDo i body) := by
  unfold State.slotDo
  split
  · exact hb.of_ok ‹_›
  · exact Kept.refl.stopSlot ..
theorem inBundle_frames {l : List Loc} {f : State → State} (hf : ∀ s, Kept l s (f s)) : Frames l fun s => s.inBundle f := by
  intro s t ho ht
  obtain rfl : f s = t := Host.Outcome.next.inj ((State.inBundle_open s f ho).symm.trans ht)
  exact (hf s).frame
theorem runSlot_frames {l : List Loc} {i : Nat} {g : Guard} {body : State → Res State} (hb : ∀ s, Res.All (Kept l s) (body s)) :
    Frames l fun s => runSlot i g s body :=
  inBundle_frames fun s => .ite (.slotDo (hb s)) .refl
theorem runLanes_frames {l : List Loc} {u : VUnit} {g : Guard} {body : State → Nat → Res State} (hb : ∀ s m, Res.All (Kept l s) (body s m)) :
    Frames l fun s => runLanes u g s body :=
  inBundle_frames fun s => .ite .refl (.slotDo (hb s _))

/-! Slot s (07). -/
section
variable {x : SAlu}
theorem alu2_frames {L : Nat} {f : Nat → Nat → Nat → Nat} : Frames (Claims.sd x.d) (fun s => alu2 x L f s) :=
  runSlot_frames fun _ => .read fun _ => .read fun _ => Kept.refl.wrS
theorem alu3_frames {f : Nat → Nat → Nat → Nat → Nat} : Frames (Claims.sd x.d) (fun s => alu3 x f s) :=
  runSlot_frames fun _ => .read fun _ => .read fun _ => .read fun _ => Kept.refl.wrS
theorem aluDiv_frames {f : Nat → Nat → Nat → Nat} {zero : Nat → Nat} : Frames (Claims.sd x.d) (fun s => aluDiv x f zero s) :=
  runSlot_frames fun _ => .read fun _ => .read fun _ => .ite (.ite trivial (Kept.refl.setSticky 32).wrS) Kept.refl.wrS
theorem bfi_frames : Frames (Claims.sd x.d) (execBfi x) := runSlot_frames fun _ => .read fun _ => .read fun _ => .read fun _ => Kept.refl.wrS
end
theorem alu1_frames {x : SUn} {f : Nat → Nat → Nat} : Frames (Claims.sd x.d) (fun s => alu1 x f s) := runSlot_frames fun _ => .read fun _ => Kept.refl.wrS
theorem sel_frames {x : SSel} : Frames (Claims.sd x.d) (execSel x) := runSlot_frames fun _ => .read fun _ => .read fun _ => Kept.refl.wrS
theorem addi_frames {x : SImm} : Frames [.s x.d] (execAddi x) := runSlot_frames fun _ => .read fun _ => Kept.wrS (d := .r x.d) Kept.refl
theorem movi_frames {x : SImm} : Frames [.s x.d] (execMovi x) := runSlot_frames fun _ => Kept.wrS (d := .r x.d) Kept.refl
theorem movhi_frames {x : SImm} : Frames [.s x.d] (execMovhi x) := runSlot_frames fun _ => .read fun _ => Kept.wrS (d := .r x.d) Kept.refl
theorem ldl_frames {x : SImm} : Frames [.s x.d] (execLdl x) := runSlot_frames fun _ => Kept.wrS (d := .r x.d) Kept.refl
theorem cmp2_frames {x : SCmp} {cond : Nat} : Frames [.p x.d] (fun s => cmp2 x cond s) := runSlot_frames fun _ => .read fun _ => .read fun _ => Kept.refl.wrP
theorem cmpi_frames {x : SCmpi} : Frames [.p x.d] (execCmpi x) := runSlot_frames fun _ => .read fun _ => Kept.refl.wrP
theorem pred2_frames {x : SPred3} {f : Nat → Nat → Nat} : Frames [.p x.d] (fun s => pred2 x f s) := runSlot_frames fun _ => Kept.refl.wrP
theorem pnot_frames {x : SPred2} : Frames [.p x.d] (execPnot x) := runSlot_frames fun _ => Kept.refl.wrP
theorem pmov_frames {x : SPred2} : Frames [.p x.d] (execPmov x) := runSlot_frames fun _ => Kept.refl.wrP
theorem Kept.fpOut {d : Dst} {s t : State} (h : Kept (Claims.sd d) s t) {f : Bool} {v : FVal} {r : Rnd} {fl : FFlags → FFlags} {L : Nat} :
    Res.All (Kept (Claims.sd d) s) (t.fpOut d f v r fl L) := (h.setSticky _).wrS
section
variable {x : SFlt3}
theorem fadd_frames : Frames (Claims.sd x.d) (execFadd x) := runSlot_frames fun _ => .read fun _ => .read fun _ => Kept.refl.fpOut
theorem fsub_frames : Frames (Claims.sd x.d) (execFsub x) := runSlot_frames fun _ => .read fun _ => .read fun _ => Kept.refl.fpOut
theorem fmul_frames : Frames (Claims.sd x.d) (execFmul x) := runSlot_frames fun _ => .read fun _ => .read fun _ => Kept.refl.fpOut
theorem fma_frames : Frames (Claims.sd x.d) (execFma x) := runSlot_frames fun _ => .read fun _ => .read fun _ => .read fun _ => Kept.refl.fpOut
theorem fdiv_frames : Frames (Claims.sd x.d) (execFdiv x) := runSlot_frames fun _ => .read fun _ => .read fun _ => Kept.refl.fpOut
end
theorem fsqrt_frames {x : SFlt2} : Frames (Claims.sd x.d) (execFsqrt x) := runSlot_frames fun _ => .read fun _ => Kept.refl.fpOut
theorem fcvt_frames {x : SFcvt} : Frames (Claims.sd x.d) (execFcvt x) := runSlot_frames fun _ => .read fun _ => (Kept.refl.setSticky _).wrS
theorem fcmp_frames {x : SFcmp} : Frames [.p x.d] (execFcmp x) := runSlot_frames fun _ => .read fun _ => .read fun _ => (Kept.refl.setSticky _).wrP
theorem fminmax_frames {x : SFmin} {f : FVal → FVal → FVal} : Frames (Claims.sd x.d) (fun s => fminmax x f s) :=
  runSlot_frames fun _ => .read fun _ => .read fun _ => (Kept.refl.setSticky _).wrS
theorem scalarGetm_frames {x : SGetm} : Frames (Claims.sd x.d) (execScalarGetm x) := runSlot_frames fun _ => .read fun _ => Kept.refl.wrS
theorem scalarPutm_frames {x : SPutm} : Frames [.m x.j] (execScalarPutm x) := runSlot_frames fun _ => .read fun _ => Kept.refl.wrTo
theorem mfs_frames {x : SMfs} : Frames (Claims.sd x.d) (execMfs x) := runSlot_frames fun _ => Kept.refl.wrS
theorem Kept.xferLanes {u : VUnit} {i : Nat} {s t : State} (h : Kept [vReg u i] s t) {all : Bool} {v : Nat} {cls : Fin 5} :
    Res.All (Kept [vReg u i] s) (t.xferLanes u i all v cls) := .ite h.wrTo h.wrTo
/-- XFER writes the register that its two fields name, one of those that they may name (R157). -/
theorem scalarXfer_frames {x : SXfer} (hx : x.wf = true) : Frames [Claims.xferTo x.s x.d] (execScalarXfer x) := by
  refine runSlot_frames fun s => .read fun a => ?_
  unfold SXfer.wf at hx
  generalize x.s.val = n at hx ⊢
  match n, hx with
  | 3, _ => exact Kept.refl.xferLanes
  | 4, _ => exact Kept.refl.xferLanes
  | 5, _ => exact Kept.refl.wrTo

/-! Slots a and b (08). -/
section
variable {u : VUnit} {g : Guard} {d : Dst} {a b : Src} {L : Nat}
theorem lanes1_frames {f : Nat → Nat} : Frames (Claims.vd u d) (fun s => lanes1 u g d a L f s) := runLanes_frames fun _ _ => .read fun _ => Kept.refl.wrV
theorem lanes2_frames {f : Nat → Nat → Nat} : Frames (Claims.vd u d) (fun s => lanes2 u g d a b L f s) :=
  runLanes_frames fun _ _ => .read fun _ => .read fun _ => Kept.refl.wrV
theorem lanes3_frames {f : Nat → Nat → Nat → Nat} : Frames (Claims.vd u d) (fun s => lanes3 u g d a b L f s) :=
  runLanes_frames fun _ _ => .read fun _ => .read fun _ => .read fun _ => Kept.refl.wrV
theorem vcmp_frames {x : VCmp} {f : Nat → Nat → Bool} : Frames [.p x.d] (fun s => vcmp u x f s) :=
  runLanes_frames fun _ _ => .read fun _ => .read fun _ => Kept.refl.wrP
theorem vsel_frames {x : VSel} : Frames (Claims.vd u x.d) (execVsel u x) := runLanes_frames fun _ _ => .read fun _ => .read fun _ => Kept.refl.wrV
theorem vunpack_frames {x : VUnpack} : Frames (Claims.vd u x.d) (execVunpack u x) :=
  runLanes_frames fun _ _ => .ite trivial (.read fun _ => .ite (.read fun _ => Kept.refl.wrV) (.read fun _ => Kept.refl.wrV))
theorem vperm_frames {x : VRR} : Frames (Claims.vd u x.d) (execVperm u x) := runLanes_frames fun _ _ => .read fun _ => .read fun _ => Kept.refl.wrV
theorem vbcast_frames {x : VBcast} : Frames (Claims.vd u x.d) (execVbcast u x) := runLanes_frames fun _ _ => .read fun _ => Kept.refl.wrV
theorem vslide_frames {x : VSlide} : Frames (Claims.vd u x.d) (execVslide u x) :=
  runLanes_frames fun _ _ => .read fun _ => .read fun _ => Kept.refl.wrV
theorem viota_frames {x : VD} : Frames (Claims.vd u x.d) (execViota u x) := runLanes_frames fun _ _ => Kept.refl.wrV
/-- A drawn lane counts in the open bundle alone. -/
theorem viotaRand_frames {x : VD} : Frames (Claims.vd u x.d) (execViotaRand u x) := 
  runLanes_frames fun _ _ => (Kept.refl.modOpen (f := fun o => { o with draws := o.draws + 1 }) fun _ => rfl).wrV
theorem vreduce_frames {x : VTyp2} {ident : Nat} {f : Nat → Nat → Nat} : Frames (Claims.vd u x.d) (fun s => vreduce u x L ident f s) :=
  runLanes_frames fun _ _ => .read fun _ => Kept.refl.wr (List.Subset.refl _)
theorem vscan_frames {x : VTyp2} : Frames (Claims.vd u x.d) (execVscan u x) := runLanes_frames fun _ _ => .read fun _ => Kept.refl.wrV
theorem vectorGetm_frames {x : VGetm} : Frames (Claims.vd u x.d) (execVectorGetm u x) :=
  runLanes_frames fun _ _ => .read fun _ => Kept.refl.wr (List.Subset.refl _)
theorem vectorPutm_frames {x : VPutm} : Frames [.m x.j] (execVectorPutm u x) := runLanes_frames fun _ _ => .read fun _ => Kept.refl.wrTo
theorem vpmovToPredicate_frames {x : VToP} : Frames [.p x.d] (execVpmovToPredicate u x) := runLanes_frames fun _ _ => .read fun _ => Kept.refl.wrP
theorem vpmovFromPredicate_frames {x : VFromP} : Frames (Claims.vd u x.d) (execVpmovFromPredicate u x) := runLanes_frames fun _ _ => Kept.refl.wrV
theorem vefclr_frames {x : VEf} : Frames [.ve u x.n] (execVefclr u x) := runLanes_frames fun _ _ => Kept.refl.wrTo
theorem vefget_frames {x : VEfg} : Frames (Claims.vd u x.d) (execVefget u x) := runLanes_frames fun _ _ => Kept.refl.wr (List.Subset.refl _)
theorem vefput_frames {x : VEfp} : Frames [.ve u x.n] (execVefput u x) := runLanes_frames fun _ _ => .read fun _ => Kept.refl.wrTo
/-- New residues go to the residue register that the rounding names. -/
theorem Kept.wrEf {l : List Loc} {s t : State} (h : Kept l s t) {n : Rnd} (hn : .ve u (Fin.ofNat 4 n.enc) ∈ l) (mask : Nat) (f : Nat → Nat) :
    Kept l s (t.wrEf u n mask f) := (h.writeNow hn _ _).note ..
theorem vcvt_frames {x : VCvt} : Frames (Claims.vd u x.d ++ if x.e then [.ve u (Fin.ofNat 4 x.r.enc)] else []) (execVcvt u x) := by
  refine runLanes_frames fun s mask => .read fun va => ?_
  cases x.e with
  | true => exact (Kept.refl.wrEf (List.mem_append_right _ (.head _)) _ _).wr (List.subset_append_left _ _)
  | false => exact Kept.refl.wr (List.subset_append_left _ _)
/-- A pack writes its residues, its destination and, of a block-scaled format, the scale codes in near register 3. -/
theorem vpack_frames {x : VPack} :
    Frames (Claims.vd u x.d ++ [.vn u 3] ++ if x.e then [.ve u (Fin.ofNat 4 x.r.enc)] else []) (execVpack u x) := by
  refine runLanes_frames fun s mask => .ite trivial (.read fun va => .read fun _ => ?_)
  refine Res.All.bind (P := Kept _ s) (Kept.wr ?_ (List.Subset.trans (List.subset_append_left _ _) (List.subset_append_left _ _))) fun t ht =>
    .ite (ht.wr (List.Subset.trans (List.subset_append_right _ _) (List.subset_append_left _ _))) ht
  cases x.e with
  | true => exact Kept.refl.wrEf (List.mem_append_right _ (.head _)) _ _
  | false => exact .refl
/-- Each receiver takes under its own guard what the two fields name (R183). -/
theorem vectorXfer_frames {x : VXfer} (hx : x.wf u = true) : Frames [Claims.xferTo x.s x.d] (execVectorXfer u x) := by
  refine inBundle_frames fun s => ?_
  unfold VXfer.wf at hx
  generalize x.s.val = n at hx ⊢
  match n, hx with
  | 2, _ => exact .ite (.slotDo (.read fun _ => Kept.refl.wrTo)) .refl
  | 3, _ => exact .ite .refl (.slotDo (.read fun _ => Kept.refl.wrTo))
  | 4, _ => exact .ite .refl (.slotDo (.read fun _ => Kept.refl.wrTo))
  | 5, _ => exact .ite (.slotDo (.read fun _ => Kept.refl.wrTo)) .refl
end

/-! The series unit, and slots m, c and d (08, 09). -/
theorem xclr_frames {x : XD} : Frames [.x x.d] (execXclr x) := runSlot_frames fun _ => Kept.refl.wrTo
theorem xadd_frames {x : XXX} : Frames [.x x.d] (execXadd x) := runSlot_frames fun _ => .read fun _ => .read fun _ => Kept.refl.wrTo
theorem xadm_frames {x : XAdm} : Frames [.p x.d] (execXadm x) := runSlot_frames fun _ => .read fun _ => .read fun _ => Kept.refl.wrP
theorem xget_frames {x : XGet} : Frames (Claims.vd .b x.d) (execXget x) := runSlot_frames fun _ => .read fun _ => Kept.refl.wr (List.Subset.refl _)
theorem mdset_frames {x : MMdset} : Frames [.md x.n] (execMdset x) :=
  runSlot_frames fun _ => .read fun _ => .read fun _ => (Kept.refl.writeNow (.head _) _ _).note ..
theorem mdget_frames {x : MMove} : Frames [.m x.j] (execMdget x) := runSlot_frames fun _ => .read fun _ => Kept.refl.wrTo
theorem matrixPutm_frames {x : MMove} : Frames [.m x.j] (execMatrixPutm x) := runSlot_frames fun _ => .read fun _ => Kept.refl.wrTo
theorem matrixGetm_frames {x : MGetm} : Frames [.md x.n] (execMatrixGetm x) := runSlot_frames fun _ => .read fun _ => Kept.refl.wrTo
theorem matrixXfer_frames {x : MXfer} (hx : x.wf = true) : Frames [Claims.xferTo x.s x.r] (execMatrixXfer x) := by
  refine runSlot_frames fun s => .read fun v => ?_
  unfold MXfer.wf at hx
  generalize x.s.val = n at hx ⊢
  match n, hx with
  | 2, _ => exact Kept.refl.wrTo
  | 3, _ => exact Kept.refl.wrTo
  | 4, _ => exact Kept.refl.wrTo
theorem mrdz_frames {x : MRead} : Frames [.m x.j] (execMrdz x) := runSlot_frames fun _ => .ite trivial (by
  dsimp only
  split
  · exact Kept.refl.wrBy (.head _)
  · exact Kept.refl.wrTo)
theorem mwm_frames {x : MWm} : Frames [.p x.d] (execMwm x) := runSlot_frames fun _ => Kept.refl.wrP
theorem mres_frames {x : MZM} : Frames [.m x.j] (execMres x) := runSlot_frames fun _ => .ite trivial Kept.refl.wrTo
theorem mtag_frames {x : MTag} : Frames [.md x.n] (execMtag x) := runSlot_frames fun _ => .ite trivial Kept.refl.wrTo
section
variable {e : CUnit}
theorem Kept.cdset {n : Fin 8} {s t : State} (h : Kept [.cd e n] s t) {f v : Nat} : Res.All (Kept [.cd e n] s) (t.cdset e n f v) :=
  .read fun _ => (h.writeNow (.head _) _ _).note ..
theorem cdsetImmediate_frames {x : CSetI} : Frames [.cd e x.n] (execCdsetImmediate e x) := runSlot_frames fun _ => Kept.refl.cdset
theorem cdsetRegister_frames {x : CSetR} : Frames [.cd e x.n] (execCdsetRegister e x) := runSlot_frames fun _ => .read fun _ => Kept.refl.cdset
theorem cdget_frames {x : CGet} : Frames [.m x.j] (execCdget e x) := runSlot_frames fun _ => .read fun _ => Kept.refl.wrTo
theorem copyGetm_frames {x : CGetm} : Frames [.cd e x.n] (execCopyGetm e x) := runSlot_frames fun _ => .read fun _ => Kept.refl.wrTo
theorem copyPutm_frames {x : CPutm} : Frames [.m x.j] (execCopyPutm e x) := runSlot_frames fun _ => .read fun _ => Kept.refl.wrTo
theorem copyXfer_frames {x : CXfer} (hx : x.wf = true) : Frames [Claims.xferTo x.s x.r] (execCopyXfer e x) := by
  refine runSlot_frames fun s => .read fun v => ?_
  unfold CXfer.wf at hx
  generalize x.s.val = n at hx ⊢
  match n, hx with
  | 2, _ => exact Kept.refl.wrTo
  | 5, _ => exact Kept.refl.wrTo
theorem ctlr_frames {x : CJ} : Frames [.m x.j] (execCtlr e x) := runSlot_frames fun _ => Kept.refl.wrTo
end

/-! Every instruction that has destinations. -/
theorem exec_frames (i : Instr) (l : List Loc) (h : Claims.dests i = some l) (wf : i.wf = true) : Frames l (exec i) := by
  cases i with
  | add x => cases h; exact (alu2_frames : Frames _ (execAdd x))
  | sub x => cases h; exact (alu2_frames : Frames _ (execSub x))
  | mul x => cases h; exact (alu2_frames : Frames _ (execMul x))
  | mulh x => cases h; exact (alu2_frames : Frames _ (execMulh x))
  | mulhu x => cases h; exact (alu2_frames : Frames _ (execMulhu x))
  | and x => cases h; exact (alu2_frames : Frames _ (execAnd x))
  | or x => cases h; exact (alu2_frames : Frames _ (execOr x))
  | xor x => cases h; exact (alu2_frames : Frames _ (execXor x))
  | andn x => cases h; exact (alu2_frames : Frames _ (execAndn x))
  | shl x => cases h; exact (alu2_frames : Frames _ (execShl x))
  | shr x => cases h; exact (alu2_frames : Frames _ (execShr x))
  | sar x => cases h; exact (alu2_frames : Frames _ (execSar x))
  | rot x => cases h; exact (alu2_frames : Frames _ (execRot x))
  | bfx x => cases h; exact (alu2_frames : Frames _ (execBfx x))
  | bfxs x => cases h; exact (alu2_frames : Frames _ (execBfxs x))
  | min x => cases h; exact (alu2_frames : Frames _ (execMin x))
  | max x => cases h; exact (alu2_frames : Frames _ (execMax x))
  | minu x => cases h; exact (alu2_frames : Frames _ (execMinu x))
  | maxu x => cases h; exact (alu2_frames : Frames _ (execMaxu x))
  | div x => cases h; exact (aluDiv_frames : Frames _ (execDiv x))
  | divu x => cases h; exact (aluDiv_frames : Frames _ (execDivu x))
  | rem x => cases h; exact (aluDiv_frames : Frames _ (execRem x))
  | remu x => cases h; exact (aluDiv_frames : Frames _ (execRemu x))
  | fsh x => cases h; exact (alu3_frames : Frames _ (execFsh x))
  | bfi x => cases h; exact (bfi_frames : Frames _ (execBfi x))
  | not x => cases h; exact (alu1_frames : Frames _ (execNot x))
  | clz x => cases h; exact (alu1_frames : Frames _ (execClz x))
  | ctz x => cases h; exact (alu1_frames : Frames _ (execCtz x))
  | popc x => cases h; exact (alu1_frames : Frames _ (execPopc x))
  | sel x => cases h; exact (sel_frames : Frames _ (execSel x))
  | addi x => cases h; exact (addi_frames : Frames _ (execAddi x))
  | movi x => cases h; exact (movi_frames : Frames _ (execMovi x))
  | movhi x => cases h; exact (movhi_frames : Frames _ (execMovhi x))
  | ldl x => cases h; exact (ldl_frames : Frames _ (execLdl x))
  | cmpeq x => cases h; exact (cmp2_frames : Frames _ (execCmpeq x))
  | cmpne x => cases h; exact (cmp2_frames : Frames _ (execCmpne x))
  | cmplt x => cases h; exact (cmp2_frames : Frames _ (execCmplt x))
  | cmple x => cases h; exact (cmp2_frames : Frames _ (execCmple x))
  | cmpltu x => cases h; exact (cmp2_frames : Frames _ (execCmpltu x))
  | cmpleu x => cases h; exact (cmp2_frames : Frames _ (execCmpleu x))
  | cmpi x => cases h; exact (cmpi_frames : Frames _ (execCmpi x))
  | pand x => cases h; exact (pred2_frames : Frames _ (execPand x))
  | por x => cases h; exact (pred2_frames : Frames _ (execPor x))
  | pxor x => cases h; exact (pred2_frames : Frames _ (execPxor x))
  | pnot x => cases h; exact (pnot_frames : Frames _ (execPnot x))
  | pmov x => cases h; exact (pmov_frames : Frames _ (execPmov x))
  | fcmp x => cases h; exact (fcmp_frames : Frames _ (execFcmp x))
  | fadd x => cases h; exact (fadd_frames : Frames _ (execFadd x))
  | fsub x => cases h; exact (fsub_frames : Frames _ (execFsub x))
  | fmul x => cases h; exact (fmul_frames : Frames _ (execFmul x))
  | fma x => cases h; exact (fma_frames : Frames _ (execFma x))
  | fdiv x => cases h; exact (fdiv_frames : Frames _ (execFdiv x))
  | fsqrt x => cases h; exact (fsqrt_frames : Frames _ (execFsqrt x))
  | fcvt x => cases h; exact (fcvt_frames : Frames _ (execFcvt x))
  | fmin x => cases h; exact (fminmax_frames : Frames _ (execFmin x))
  | fmax x => cases h; exact (fminmax_frames : Frames _ (execFmax x))
  | mfs x => cases h; exact (mfs_frames : Frames _ (execMfs x))
  | scalarGetm x => cases h; exact (scalarGetm_frames : Frames _ (execScalarGetm x))
  | scalarPutm x => cases h; exact (scalarPutm_frames : Frames _ (execScalarPutm x))
  | scalarXfer x => cases h; exact (scalarXfer_frames wf : Frames _ (execScalarXfer x))
  | vadd u x => cases h; exact (lanes2_frames : Frames _ (execVadd u x))
  | vsub u x => cases h; exact (lanes2_frames : Frames _ (execVsub u x))
  | vmul u x => cases h; exact (lanes2_frames : Frames _ (execVmul u x))
  | vmin u x => cases h; exact (lanes2_frames : Frames _ (execVmin u x))
  | vmax u x => cases h; exact (lanes2_frames : Frames _ (execVmax u x))
  | vdiv u x => cases h; exact (lanes2_frames : Frames _ (execVdiv u x))
  | vand u x => cases h; exact (lanes2_frames : Frames _ (execVand u x))
  | vor u x => cases h; exact (lanes2_frames : Frames _ (execVor u x))
  | vxor u x => cases h; exact (lanes2_frames : Frames _ (execVxor u x))
  | vandn u x => cases h; exact (lanes2_frames : Frames _ (execVandn u x))
  | vshl u x => cases h; exact (lanes2_frames : Frames _ (execVshl u x))
  | vshr u x => cases h; exact (lanes2_frames : Frames _ (execVshr u x))
  | vsar u x => cases h; exact (lanes2_frames : Frames _ (execVsar u x))
  | vbfx u x => cases h; exact (lanes2_frames : Frames _ (execVbfx u x))
  | vfma u x => cases h; exact (lanes3_frames : Frames _ (execVfma u x))
  | vfms u x => cases h; exact (lanes3_frames : Frames _ (execVfms u x))
  | vbfi u x => cases h; exact (lanes3_frames : Frames _ (execVbfi u x))
  | vfsh u x => cases h; exact (lanes3_frames : Frames _ (execVfsh u x))
  | vabs u x => cases h; exact (lanes1_frames : Frames _ (execVabs u x))
  | vneg u x => cases h; exact (lanes1_frames : Frames _ (execVneg u x))
  | vrcp u x => cases h; exact (lanes1_frames : Frames _ (execVrcp u x))
  | vrsq u x => cases h; exact (lanes1_frames : Frames _ (execVrsq u x))
  | vexp2 u x => cases h; exact (lanes1_frames : Frames _ (execVexp2 u x))
  | vlog2 u x => cases h; exact (lanes1_frames : Frames _ (execVlog2 u x))
  | vpopc u x => cases h; exact (lanes1_frames : Frames _ (execVpopc u x))
  | vclz u x => cases h; exact (lanes1_frames : Frames _ (execVclz u x))
  | vmovs u x => cases h; exact (lanes1_frames : Frames _ (execVmovs u x))
  | vsel u x => cases h; exact (vsel_frames : Frames _ (execVsel u x))
  | vunpack u x => cases h; exact (vunpack_frames : Frames _ (execVunpack u x))
  | vperm u x => cases h; exact (vperm_frames : Frames _ (execVperm u x))
  | vbcast u x => cases h; exact (vbcast_frames : Frames _ (execVbcast u x))
  | vslide u x => cases h; exact (vslide_frames : Frames _ (execVslide u x))
  | viota u x => cases h; exact (viota_frames : Frames _ (execViota u x))
  | viotaRand u x => cases h; exact (viotaRand_frames : Frames _ (execViotaRand u x))
  | vscan u x => cases h; exact (vscan_frames : Frames _ (execVscan u x))
  | vectorGetm u x => cases h; exact (vectorGetm_frames : Frames _ (execVectorGetm u x))
  | vectorPutm u x => cases h; exact (vectorPutm_frames : Frames _ (execVectorPutm u x))
  | vpmovToPredicate u x => cases h; exact (vpmovToPredicate_frames : Frames _ (execVpmovToPredicate u x))
  | vpmovFromPredicate u x => cases h; exact (vpmovFromPredicate_frames : Frames _ (execVpmovFromPredicate u x))
  | vefclr u x => cases h; exact (vefclr_frames : Frames _ (execVefclr u x))
  | vefget u x => cases h; exact (vefget_frames : Frames _ (execVefget u x))
  | vefput u x => cases h; exact (vefput_frames : Frames _ (execVefput u x))
  | vcvt u x => cases h; exact (vcvt_frames : Frames _ (execVcvt u x))
  | vpack u x => cases h; exact (vpack_frames : Frames _ (execVpack u x))
  | vredadd u x => cases h; exact (vreduce_frames : Frames _ (execVredadd u x))
  | vredmax u x => cases h; exact (vreduce_frames : Frames _ (execVredmax u x))
  | vcmpeq u x => cases h; exact (vcmp_frames : Frames _ (execVcmpeq u x))
  | vcmpne u x => cases h; exact (vcmp_frames : Frames _ (execVcmpne u x))
  | vcmplt u x => cases h; exact (vcmp_frames : Frames _ (execVcmplt u x))
  | vcmple u x => cases h; exact (vcmp_frames : Frames _ (execVcmple u x))
  | vectorXfer u x => cases h; exact (vectorXfer_frames wf : Frames _ (execVectorXfer u x))
  | xclr x => cases h; exact (xclr_frames : Frames _ (execXclr x))
  | xadd x => cases h; exact (xadd_frames : Frames _ (execXadd x))
  | xadm x => cases h; exact (xadm_frames : Frames _ (execXadm x))
  | xget x => cases h; exact (xget_frames : Frames _ (execXget x))
  | mdset x => cases h; exact (mdset_frames : Frames _ (execMdset x))
  | mdget x => cases h; exact (mdget_frames : Frames _ (execMdget x))
  | matrixGetm x => cases h; exact (matrixGetm_frames : Frames _ (execMatrixGetm x))
  | matrixPutm x => cases h; exact (matrixPutm_frames : Frames _ (execMatrixPutm x))
  | mrdz x => cases h; exact (mrdz_frames : Frames _ (execMrdz x))
  | mwm x => cases h; exact (mwm_frames : Frames _ (execMwm x))
  | mres x => cases h; exact (mres_frames : Frames _ (execMres x))
  | mtag x => cases h; exact (mtag_frames : Frames _ (execMtag x))
  | matrixXfer x => cases h; exact (matrixXfer_frames wf : Frames _ (execMatrixXfer x))
  | cdsetImmediate e x => cases h; exact (cdsetImmediate_frames : Frames _ (execCdsetImmediate e x))
  | cdsetRegister e x => cases h; exact (cdsetRegister_frames : Frames _ (execCdsetRegister e x))
  | cdget e x => cases h; exact (cdget_frames : Frames _ (execCdget e x))
  | copyGetm e x => cases h; exact (copyGetm_frames : Frames _ (execCopyGetm e x))
  | copyPutm e x => cases h; exact (copyPutm_frames : Frames _ (execCopyPutm e x))
  | ctlr e x => cases h; exact (ctlr_frames : Frames _ (execCtlr e x))
  | copyXfer e x => cases h; exact (copyXfer_frames wf : Frames _ (execCopyXfer e x))
  | _ => cases h

/-- Settles O58. -/
theorem registerFrame : Obligations.RegisterFrame := by
  intro i l s t dests wf opened next
  exact exec_frames i l dests wf s t opened next

end Sys2Proof.Machine

/-!
PROOFS. O59 fails, at a segment that holds a store with a destination register. An atomic elsewhere waits for the stores that its segment holds
(`State.performBuf`), and `State.perform` writes what an access answers, which is 0 for a store, to whatever destination it names. No
instruction puts such an access into a segment, but the statement speaks of every state.
-/
namespace Sys2Proof.Machine
noncomputable section

/-- A store of eight bytes to HBM whose destination is S1. -/
def heldStore : Access := { Tests.buffered with dst := some (.s 1) }
/-- Context 0, whose S1 holds 6 and whose open segment holds that store, in an open bundle. -/
def storeHeld : State := Tests.opn 0 (Tests.inSeg { Tests.seg1 with buf := [heldStore], used := 1 } Tests.far)
/-- AADD.64 S7, [S6], S2, where S6 is an address in HBM. -/
def addToHbm : SAlu := ⟨Tests.ga, .r 7, .r 6, .r 2, true⟩
def storeHeldAfter : State := match exec (.aadd addToHbm) storeHeld with | .next t => t | _ => storeHeld
theorem storeHeld_exec : exec (.aadd addToHbm) storeHeld = .next storeHeldAfter := by
  obtain ⟨t, ht⟩ := exec_next (.aadd addToHbm) storeHeld
  rw [storeHeldAfter, ht]
/-- The operands of the atomic, and what S1 holds before it and after. -/
theorem storeHeld_evaluates : storeHeld.opened.isSome = true ∧ storeHeld.mem.wf = true ∧ storeHeld.rdS addToHbm.a = .ok 0x40000100 ∧ storeHeld.me = 0 ∧
    (storeHeld.ctx 0).regs.dat.get (.s 1) = 6 ∧ (storeHeldAfter.ctx 0).regs.dat.get (.s 1) = 0 := by decide +kernel

/-- O59 says that no register changes at once. -/
theorem accessFrame_regs {s t : State} (h : Claims.AccessFrame s t) : (t.ctx s.me).regs = (s.ctx s.me).regs := by rw [h.ctx]

/-- Refutes O59: the atomic of `storeHeld` has the held store perform, which writes 0 to its destination S1, which held 6. -/
theorem not_accessFrame : ¬ Obligations.AccessFrame := by
  intro ⟨_, _, atomics, _⟩
  obtain ⟨opened, wf, address, me, before, after⟩ := storeHeld_evaluates
  obtain ⟨frame, _⟩ := atomics (.aadd, _) (.head _) addToHbm storeHeld storeHeldAfter 0x40000100 opened wf address storeHeld_exec
  have regs := accessFrame_regs frame
  rw [me] at regs
  have s1 := congrArg (fun r : Regs => r.dat.get (.s 1)) regs
  rw [after, before] at s1
  exact absurd s1 (by decide)

end
end Sys2Proof.Machine

namespace Sys2Proof.Machine

/-!
PROOFS. O13: the arrival of an RTT changes one context, to values that the level's bank gives.
-/
/-- The registers after the arrival of an RTT of a level: the level is left, and its bank gives back what it saved. -/
theorem State.rttArrive_regs (s : State) (k L : Nat) : ((s.rttArrive k L).ctx k).regs =
    let r := (s.ctx k).regs
    let b := vget r.sys.banks (L - 1) Bank.zero
    { r with
      sys := { r.sys with tl := L - 1 },
      flow := { r.flow with
        pc := BitVec.ofNat 64 (b.tpc.toNat / 32 * 32), loops := b.loops,
        dly := if b.tdly.toNat % 4 = 0 then Delay.none else ⟨b.tdly.toNat % 4, BitVec.ofNat 64 (b.tdly.toNat / 32 * 32), b.rtt⟩ } } := by
  rw [State.rttArrive, State.ctx_modCtx_same]
  dsimp only
  split <;> rfl

/-- Settles O13. -/
theorem trapReturn : Obligations.TrapReturn := by
  intro s k L _ _ b d
  have regs : d.regs = _ := s.rttArrive_regs k L
  refine ⟨by rw [regs], by rw [regs], by rw [regs], ?count, fun h => ?target, by rw [regs], rfl⟩
  case count =>
    rw [regs]
    dsimp only
    split
    next h => exact h.symm
    next => rfl
  case target =>
    rw [regs]
    exact congrArg Delay.target (if_neg h)

end Sys2Proof.Machine

namespace Sys2Proof.Machine

/-!
PROOFS. O17: a compare writes the truth of its condition, and the conditions on numbers are those on words of the operands' width.
-/
theorem predBits_lt (c : Ctx) (p : Fin 8) : predBits c p < 2 ^ 64 := DataRegs.get_lt c.regs.dat (.p p)

/-! Conditions (R146, R147). -/
section
variable {w : Nat} (a b : BitVec w)
theorem condHolds_eq : condHolds w 0 a.toNat b.toNat = (a == b) := by simp [condHolds, BitVec.toNat_eq]
theorem condHolds_ne : condHolds w 1 a.toNat b.toNat = (a != b) := congrArg not (condHolds_eq a b)
theorem condHolds_slt : condHolds w 2 a.toNat b.toNat = a.slt b := by simp [condHolds, toSigned_toNat, BitVec.slt_eq_decide]
theorem condHolds_sle : condHolds w 3 a.toNat b.toNat = a.sle b := by simp [condHolds, toSigned_toNat, BitVec.sle_eq_decide]
theorem condHolds_ult : condHolds w 4 a.toNat b.toNat = a.ult b := rfl
theorem condHolds_ule : condHolds w 5 a.toNat b.toNat = a.ule b := rfl
/-- The conditions of CMPI by their codes. -/
theorem condHolds_eq_cond (c : Fin 8) : condHolds w c a.toNat b.toNat = Claims.cond w c a b := by
  fin_cases c
  · exact condHolds_eq a b
  · exact condHolds_ne a b
  · exact condHolds_slt a b
  · exact condHolds_sle a b
  · exact condHolds_ult a b
  · exact condHolds_ule a b
  · exact condHolds_slt b a
  · exact condHolds_sle b a
end
/-- The compares and the condition of each on words. -/
theorem compares_operations : ∀ e ∈ Claims.compares, ∃ c, (∀ x s, exec (e.1 x) s = cmp2 x c s) ∧
    ∀ w (a b : BitVec w), condHolds w c a.toNat b.toNat = e.2 w a b := by
  simp only [Claims.compares, List.forall_mem_cons]
  refine ⟨?_, ?_, ?_, ?_, ?_, ?_, fun _ h => nomatch h⟩
  · exact ⟨0, fun _ _ => rfl, fun _ => condHolds_eq⟩
  · exact ⟨1, fun _ _ => rfl, fun _ => condHolds_ne⟩
  · exact ⟨2, fun _ _ => rfl, fun _ => condHolds_slt⟩
  · exact ⟨3, fun _ _ => rfl, fun _ => condHolds_sle⟩
  · exact ⟨4, fun _ _ => rfl, fun _ => condHolds_ult⟩
  · exact ⟨5, fun _ _ => rfl, fun _ => condHolds_ule⟩

/-- The word of a predicate is the predicate's bits. -/
theorem toNat_predBits (c : Ctx) (p : Fin 8) : (BitVec.ofNat 64 (predBits c p)).toNat = predBits c p :=
  Nat.mod_eq_of_lt (predBits_lt c p)
/-- Settles O17: each form writes one predicate, whose bits are those of the operation on words. -/
theorem scalarPredicates : Obligations.ScalarPredicates := by
  refine ⟨?compares, ?cmpi, fun x s on hc => ?logic, fun x s on hc => ?unary⟩
  case compares =>
    intro e he x s a b on hc ha hb
    obtain ⟨c, hi, hcond⟩ := compares_operations e he
    refine runSlot_writes (n := 2) (g := x.g) (hi x s) on hc ?_
    rw [ha, ok_bind, hb, ok_bind, ← hcond, ← truth_eq_mask64]
    rfl
  case cmpi =>
    intro x s a on hc ha
    have value : sext 10 x.i.toNat (wBits x.w) = (x.i.signExtend (wBits x.w)).toNat := by rw [sext_eq_signExtend, ofNat_of_toNat rfl]
    refine runSlot_writes (n := 2) (g := x.g) rfl on hc ?_
    rw [ha, ok_bind, value, ← condHolds_eq_cond, ← truth_eq_mask64]
    rfl
  case logic =>
    refine ⟨runSlot_writes (n := 2) (g := x.g) rfl on hc ?_, runSlot_writes (n := 2) (g := x.g) rfl on hc ?_,
      runSlot_writes (n := 2) (g := x.g) rfl on hc ?_⟩
    · rw [BitVec.toNat_and, toNat_predBits, toNat_predBits]; rfl
    · rw [BitVec.toNat_or, toNat_predBits, toNat_predBits]; rfl
    · rw [BitVec.toNat_xor, toNat_predBits, toNat_predBits]; rfl
  case unary =>
    refine ⟨runSlot_writes (n := 2) (g := x.g) rfl on hc ?_, runSlot_writes (n := 2) (g := x.g) rfl on hc ?_⟩
    · rw [BitVec.toNat_not, toNat_predBits]; rfl
    · rw [toNat_predBits]; rfl

end Sys2Proof.Machine

namespace Sys2Proof.Machine

/-! What an instruction of a slot answers: what its body gives, or what stops it. -/
section
variable {i : Instr} {n : Nat} {g : Guard} {s : State} {body : State → Res State}
theorem runSlot_answers {t : State} (hi : exec i s = runSlot n g s body) (on : Claims.On g s) (hb : body s = .ok t) : exec i s = .next t :=
  hi.trans (runSlot_ok n g s t body on.1 on.2 hb)
theorem runSlot_stops {e : Stop} (hi : exec i s = runSlot n g s body) (on : Claims.On g s) (hb : body s = .error e) :
    exec i s = .next (s.stopSlot n e) := hi.trans (runSlot_error n g s body e on.1 on.2 hb)
end
/-- An operation that an open segment refuses acts in no segment alone. -/
theorem noSeg_closed {s : State} (body : State → Res State) (h : s.pre.seg = none) : s.noSeg body = body s := by
  rw [State.noSeg, h]
  rfl
theorem noSeg_open {s : State} (body : State → Res State) (h : s.pre.seg.isSome = true) : s.noSeg body = .error (.trap 18 0) := if_pos h

/-!
PROOFS. O29: the transfers of the flow slot. Addresses are words; the model's tables of trees (R112) walks the trees of Table 7-2.
-/

/-! Code addresses. -/
/-- The low chunk of a main-file register as a word. -/
theorem ofNat_chunk_zero (m : Nat) : BitVec.ofNat 64 (chunk m 0) = BitVec.ofNat 64 m := by
  rw [chunk, ofNat_bitsOf, Nat.mul_zero, Nat.pow_zero, Nat.div_one]
theorem chunk_zero_toNat (m : Nat) : chunk m 0 = (BitVec.ofNat 64 m).toNat := by
  simp [chunk, bitsOf]
/-- Clearing the low bits of a word. -/
theorem and_not_low (v : Word) (k : Nat) : v &&& ~~~(BitVec.ofNat 64 (2 ^ k - 1)) = BitVec.ofNat 64 (v.toNat / 2 ^ k * 2 ^ k) := by
  refine BitVec.eq_of_getLsbD_eq fun i hi => ?_
  simp only [BitVec.getLsbD_and, BitVec.getLsbD_not, BitVec.getLsbD_ofNat, Nat.testBit_two_pow_sub_one, Nat.testBit_mul_two_pow,
    Nat.testBit_div_two_pow, hi, decide_true, Bool.true_and]
  by_cases h : i < k
  · simp [h, Nat.not_le.mpr h]
  · simp [h, Nat.not_lt.mp h, BitVec.testBit_toNat]
theorem codeAddr_toNat (v : Word) : codeAddr v.toNat = v &&& ~~~0x1F := (and_not_low v 5).symm
theorem codeAddr_chunk (m : Nat) : codeAddr (chunk m 0) = BitVec.ofNat 64 m &&& ~~~0x1F := by
  rw [chunk_zero_toNat, codeAddr_toNat]
/-- An address some bundles from the bundle at hand. -/
theorem State.relPc_toNat (s : State) {w : Nat} (o : BitVec w) : s.relPc w o.toNat = Claims.pc s + 32 * o.signExtend 64 := by
  rw [State.relPc, sext_eq_signExtend, ofNat_of_toNat rfl, BitVec.ofNat_add, BitVec.ofNat_mul, ofNat_of_toNat rfl, ofNat_of_toNat rfl]
  rfl

/-- The leaf that a tree's tests reach is the one that Table 7-2's tree has there. -/
theorem btLeaf_eq_leaf (n : Fin 14) (t1 t2 t3 t4 : Bool) :
    btLeaf n t1 t2 t3 t4 = Claims.leaf (fun i => [t1, t2, t3, t4].getD i false) (Claims.shapes.getD n .L) 0 0 := by
  revert n t1 t2 t3 t4
  decide
theorem vget_lt {α : Type} {n : Nat} (v : Vector α n) (i : Nat) (d : α) (h : i < n) : vget v i d = v[i] := dif_pos h

/-- Settles O29. -/
theorem flowTransfers : Obligations.FlowTransfers := by
  refine ⟨fun x s on => ?prep, fun x s m on hm => ?prepm, fun x s on => ?bt, fun x s on => ?j, fun x s on => ?call, fun x s on => ?ret,
    fun x s on => ⟨fun h0 => ?rtt0, fun L hL => ?rtt⟩⟩
  case prep =>
    refine runSlot_answers (n := 1) (g := x.g) rfl on ?_
    rw [State.relPc_toNat]
  case prepm =>
    refine runSlot_answers (n := 1) (g := x.g) rfl on ?_
    rw [hm, ok_bind, codeAddr_chunk]
  case bt =>
    intro test l
    have reached : btLeaf x.s.val (btTest s.pre x.t1) (btTest s.pre x.t2) (btTest s.pre x.t3) (btTest s.pre x.t4) = l := btLeaf_eq_leaf ..
    refine ⟨fun h => runSlot_answers (n := 1) (g := x.g) rfl on ?_, fun h => runSlot_answers (n := 1) (g := x.g) rfl on ?_⟩
    · dsimp only
      rw [reached, if_pos h, vget_lt _ _ _ h]
    · dsimp only
      rw [reached, if_neg (Nat.not_lt.mpr h)]
  case j =>
    refine runSlot_answers (n := 1) (g := x.g) rfl on ?_
    rw [State.relPc_toNat]
  case call => exact runSlot_answers (n := 1) (g := x.g) rfl on rfl
  case ret => exact runSlot_answers (n := 1) (g := x.g) rfl on rfl
  case rtt0 => exact runSlot_stops (n := 1) (g := x.g) (e := .trap 2 0) rfl on (if_pos h0)
  case rtt =>
    refine runSlot_answers (n := 1) (g := x.g) rfl on ?_
    dsimp only
    rw [hL]
    rfl

end Sys2Proof.Machine

namespace Sys2Proof.Machine

/-!
PROOFS. O30: loops, counters and the epilogue record.
-/
theorem loopNest_iff (loops : List Level) (n : Fin 6) (last : Nat) :
    loopNest loops n last = true ↔ 6 ≤ loops.length ∨ ∃ l ∈ loops, l.n = n ∨ l.last < last := by
  simp [loopNest]
/-- No more bundles of a body are fetched than it has. -/
theorem State.fetchBody_length (s : State) (k : Nat) (outer : List Level) (pc n : Nat) : (s.fetchBody k outer pc n).1.length ≤ n := by
  induction n generalizing s pc with
  | zero => exact Nat.le_refl 0
  | succ n ih =>
    unfold State.fetchBody
    split
    · exact Nat.succ_le_succ (ih ..)
    · exact Nat.zero_le _

/-- Settles O30. -/
theorem flowLoops : Obligations.FlowLoops := by
  refine ⟨fun x s on => ?loop, fun x s on => ?setlc, fun x s on => ?spl, fun x s on => ?epi⟩
  case loop =>
    intro f pc len nest
    let body := s.fetchBody s.me f.loops (pc + 32) len
    have nests : loopNest f.loops x.n (pc + 32 * len) = true ↔ nest := loopNest_iff ..
    refine ⟨fun h => ?_, fun h h0 => ?_, fun h h0 => ⟨body.1, body.2, rfl, State.fetchBody_length .., ?_⟩⟩
    · exact runSlot_stops (n := 1) (g := x.g) (e := .trap 12 0) rfl on (if_pos (nests.mpr h))
    · have past : pc + 32 * (len + 1) = pc + 32 + 32 * len := by omega
      refine runSlot_answers (n := 1) (g := x.g) rfl on ((if_neg (mt nests.mp h)).trans ((if_pos h0).trans ?_))
      rw [← past]
    · exact runSlot_answers (n := 1) (g := x.g) rfl on ((if_neg (mt nests.mp h)).trans (if_neg h0))
  case setlc => exact runSlot_answers (n := 1) (g := x.g) rfl on rfl
  case spl => exact runSlot_answers (n := 1) (g := x.g) rfl on rfl
  case epi =>
    intro e r
    refine ⟨fun h => runSlot_answers (n := 1) (g := x.g) rfl on ?_, fun h => runSlot_answers (n := 1) (g := x.g) rfl on ?_⟩
    · exact congrArg Except.ok (if_neg (by rw [h]; exact Bool.false_ne_true))
    · exact congrArg Except.ok (if_pos h)

end Sys2Proof.Machine

namespace Sys2Proof.Machine

/-!
PROOFS. O31: flags, barriers, timelines and messages.
-/

/-! Timelines (R124, R245). -/
/-- No smaller number than the first and each of a list is their minimum. -/
theorem le_foldl_min (f : Cmd → Nat) (l : List Cmd) (a v : Nat) : v ≤ l.foldl (fun v m => min v (f m)) a ↔ v ≤ a ∧ ∀ m ∈ l, v ≤ f m := by
  induction l generalizing a with
  | nil => simp
  | cons m l ih =>
    rw [List.foldl_cons, ih, Nat.le_min, List.forall_mem_cons, and_assoc]
/-- A timeline has reached v when no command of it numbered v or below is left. -/
theorem Ctx.le_performedTo (c : Ctx) (e : Fin 3) (v : Nat) :
    v ≤ c.performedTo e ↔ v ≤ c.regs.dat.issued[e] ∧ ∀ m ∈ c.cmds, m.eng = e → v ≤ m.num - 1 := by
  rw [Ctx.performedTo, le_foldl_min (fun m => m.num - 1)]
  simp
theorem Ctx.suspended_none (c : Ctx) (e : Fin 3) (v : Nat) (h : ∀ m ∈ c.cmds, m.eng = e → v < m.num) : c.suspended e v = none := by
  have passed : c.cmds.find? (fun m => m.eng == e && decide (m.num ≤ v) && m.susp.isSome) = none := by
    refine List.find?_eq_none.mpr fun m hm found => ?_
    simp only [Bool.and_eq_true, beq_iff_eq, decide_eq_true_eq] at found
    exact absurd (h m hm found.1.1) (Nat.not_lt.mpr found.1.2)
  rw [Ctx.suspended, passed]
  rfl
section
variable {x : FTlw} {s : State} (on : Claims.On x.g s)
include on
theorem execTlw_range (h : s.pre.regs.dat.issued[x.t] < (if x.rel then s.pre.regs.dat.issued[x.t] - TlwVal.num x.v s else TlwVal.num x.v s)) :
    exec (.tlw x) s = .next (s.raise 1 13 0 none) := runSlot_stops (n := 1) (g := x.g) (e := .trap 13 0) rfl on (if_pos h)
variable {v : Nat} (hv : (if x.rel then s.pre.regs.dat.issued[x.t] - TlwVal.num x.v s else TlwVal.num x.v s) = v) (hr : v ≤ s.pre.regs.dat.issued[x.t])
include hv hr
theorem execTlw_suspended {va : Nat} (h : s.pre.suspended x.t v = some va) : exec (.tlw x) s = .next (s.raise 1 14 va none) := by
  refine runSlot_stops (n := 1) (g := x.g) (e := .trap 14 va) rfl on ?_
  dsimp only
  rw [hv, if_neg (Nat.not_lt.mpr hr), h]
theorem execTlw_waits (h : s.pre.suspended x.t v = none) (hp : s.pre.performedTo x.t < v) : exec (.tlw x) s = .next (s.holdSlot 1 true none) := by
  refine runSlot_stops (n := 1) (g := x.g) (e := .block) rfl on ?_
  dsimp only
  rw [hv, if_neg (Nat.not_lt.mpr hr), h]
  exact if_pos hp
theorem execTlw_passes (h : s.pre.suspended x.t v = none) (hp : v ≤ s.pre.performedTo x.t) : exec (.tlw x) s = .next s := by
  refine runSlot_answers (n := 1) (g := x.g) rfl on ?_
  dsimp only
  rw [hv, if_neg (Nat.not_lt.mpr hr), h]
  exact if_neg (Nat.not_lt.mpr hp)
end

/-! GETM.F (Table 7-4). -/
theorem vset_lt {α : Type} {n : Nat} (v : Vector α n) (i : Nat) (a : α) (h : i < n) : vset v i a = v.set i a := dif_pos h
/-- What a write of a flag meets in its cycle. -/
theorem foldl_posts (l : List (Nat × Nat × Nat)) (f t a : Nat) :
    l.foldl (fun n x => if x.1 = f ∧ x.2.2 = t then n + x.2.1 else n) a = a + ((l.filter fun p => decide (p.1 = f ∧ p.2.2 = t)).map fun p => p.2.1).sum := by
  induction l generalizing a with
  | nil => rfl
  | cons p l ih =>
    rw [List.foldl_cons, ih]
    by_cases h : p.1 = f ∧ p.2.2 = t
    · rw [if_pos h, List.filter_cons_of_pos (by simpa using h), List.map_cons, List.sum_cons, Nat.add_assoc]
    · rw [if_neg h, List.filter_cons_of_neg (by simpa using h)]
theorem Ctx.writeFlag_eq (c : Ctx) (now : Nat) (n : Fin 16) (v : Nat) : c.writeFlag now n v =
    { c with f := c.f.set n (BitVec.ofNat 32 (min (v % 2 ^ 32 + Claims.added c n now) 0xFFFFFFFF)) } := by
  rw [Ctx.writeFlag, foldl_posts, Nat.zero_add]
  rfl
/-- The low half of a word. -/
theorem setWidth_toNat_mod (v : Word) : (v.setWidth 32).toNat = v.toNat % 2 ^ 32 := BitVec.toNat_setWidth ..

theorem flagForms : Claims.FlagForms := by
  refine ⟨fun x s on => ⟨fun h => ?blocks, fun h hs => ?takes, fun h hs => ?order, ?post⟩, fun x s on => ?bbset,
    fun x s on => ⟨fun h => ?passes, fun h => ?waits⟩, fun x s on => ⟨?range, ?fault, ?tlwBlocks, ?tlwPasses⟩,
    fun x s m on wf hm => ?getm⟩
  case blocks => exact runSlot_stops (n := 1) (g := x.g) (e := .block) rfl on (if_pos h)
  case takes =>
    refine runSlot_answers (n := 1) (g := x.g) rfl on ((if_neg (Nat.not_lt.mpr h)).trans (noSeg_closed _ hs))
  case order =>
    refine runSlot_stops (n := 1) (g := x.g) (e := .trap 18 0) rfl on ((if_neg (Nat.not_lt.mpr h)).trans (noSeg_open _ hs))
  case post => exact runSlot_answers (n := 1) (g := x.g) rfl on rfl
  case bbset => exact runSlot_answers (n := 1) (g := x.g) rfl on rfl
  case passes => exact runSlot_answers (n := 1) (g := x.g) rfl on (if_pos h)
  case waits => exact runSlot_stops (n := 1) (g := x.g) (e := .block) rfl on (if_neg h)
  case range => exact fun h => execTlw_range on h
  case fault => exact fun h va hs => execTlw_suspended on rfl h hs
  case tlwBlocks =>
    intro h hs ⟨m, hm, he, hn, h0⟩ _
    refine execTlw_waits on rfl h hs (Nat.not_le.mp fun reached => ?_)
    have := ((Ctx.le_performedTo ..).mp reached).2 m hm he
    omega
  case tlwPasses =>
    intro h hlater
    refine execTlw_passes on rfl h (Ctx.suspended_none _ _ _ hlater) ((Ctx.le_performedTo ..).mpr ⟨h, fun m hm he => ?_⟩)
    have := hlater m hm he
    omega
  case getm =>
    obtain ⟨g, c, n, j⟩ := x
    refine ⟨fun hc h => ?w, fun hc => ?lk, fun hc h => ?lc, fun hc => ?flag, fun hc h => ?bb⟩
    case w =>
      obtain rfl : c = 0 := Fin.ext hc
      refine runSlot_answers (n := 1) (g := g) rfl on ?_
      simp only [hm, ok_bind, codeAddr_chunk, vset_lt _ _ _ h]
      rfl
    case lk =>
      obtain rfl : c = 1 := Fin.ext hc
      refine runSlot_answers (n := 1) (g := g) rfl on ?_
      simp only [hm, ok_bind, codeAddr_chunk]
      rfl
    case lc =>
      obtain rfl : c = 2 := Fin.ext hc
      refine runSlot_answers (n := 1) (g := g) rfl on ?_
      simp only [hm, ok_bind, chunk_zero_toNat, vset_lt _ _ _ h, ← setWidth_toNat_mod, BitVec.ofNat_toNat]
      rfl
    case flag =>
      obtain rfl : c = 3 := Fin.ext hc
      refine runSlot_answers (n := 1) (g := g) rfl on ?_
      simp only [hm, ok_bind, chunk_zero_toNat, Ctx.writeFlag_eq]
      rfl
    case bb =>
      obtain rfl : c = 4 := Fin.ext hc
      refine runSlot_answers (n := 1) (g := g) rfl on ?_
      simp only [hm, ok_bind, chunk_zero_toNat, vset_lt _ _ _ h, ← setWidth_toNat_mod, BitVec.ofNat_toNat]
      rfl

/-! Messages (R122, R123, R136). -/
theorem flowMessages : Claims.FlowMessages := by
  refine ⟨fun x s on => ⟨fun hs r hr => ?posts, fun hs hr => ?noTarget, fun hs => ?segment⟩,
    fun x s m on hm => ⟨fun hs r hr => ⟨fun room => ?sends, fun full => ?full⟩, fun hs hr => ?noReceiver, fun hs => ?inSegment⟩⟩
  case posts =>
    refine runSlot_answers (n := 1) (g := x.g) rfl on ((noSeg_closed _ hs).trans ?_)
    rw [hr]
    rfl
  case noTarget =>
    refine runSlot_stops (n := 1) (g := x.g) (e := .trap 15 0) rfl on ((noSeg_closed _ hs).trans ?_)
    rw [hr]
  case segment => exact runSlot_stops (n := 1) (g := x.g) (e := .trap 18 0) rfl on (noSeg_open _ hs)
  case sends =>
    refine runSlot_answers (n := 1) (g := x.g) rfl on ((noSeg_closed _ hs).trans ?_)
    simp only [hr, hm, ok_bind, ofNat_chunk_zero]
    exact if_neg (Nat.not_le.mpr room)
  case full =>
    refine runSlot_stops (n := 1) (g := x.g) (e := .stall) rfl on ((noSeg_closed _ hs).trans ?_)
    simp only [hr, hm, ok_bind]
    exact if_pos full
  case noReceiver =>
    refine runSlot_stops (n := 1) (g := x.g) (e := .trap 15 0) rfl on ((noSeg_closed _ hs).trans ?_)
    rw [hr]
  case inSegment => exact runSlot_stops (n := 1) (g := x.g) (e := .trap 18 0) rfl on (noSeg_open _ hs)

/-- Settles O31. -/
theorem flowFlags : Obligations.FlowFlags := ⟨flagForms, flowMessages⟩

end Sys2Proof.Machine

namespace Sys2Proof.Machine

/-!
PROOFS. O24: MFS and MTS. The registers that MTS may write are held in the context (`SysRegs.held`), ten of them in the trap banks (`Bank.reg`); the
others are views that no write changes.
-/

/-! A trap bank by the place of a register in it: CAUSE, TPC, TVAL, TMASK, TDLY. -/
def Bank.regs (b : Bank) : List Nat := [b.cause.toNat, b.tpc.toNat, b.tval.toNat, b.tmask.toNat, b.tdly.toNat]
/-- MTS to one of them. -/
def Bank.write (b : Bank) (j v : Nat) : Bank :=
  match j with
  | 0 => { b with cause := BitVec.ofNat 64 (v % 2 ^ 17) }
  | 1 => { b with tpc := BitVec.ofNat 64 (v / 32 * 32) }
  | 2 => { b with tval := BitVec.ofNat 64 v }
  | 3 => { b with tmask := BitVec.ofNat 8 v }
  | _ => b.setTdly v
/-- What it leaves there. -/
def bankStored (j v : Nat) : Nat :=
  match j with
  | 0 => v % 2 ^ 17
  | 1 => v / 32 * 32
  | 2 => v
  | 3 => v % 2 ^ 8
  | _ => v / 32 * 32 + v % 4
theorem Bank.regs_write (b : Bank) (j v : Nat) (hv : v < 2 ^ 64) (hj : j < 5) : (b.write j v).regs = b.regs.set j (bankStored j v) := by
  interval_cases j
  all_goals simp [Bank.write, Bank.setTdly, Bank.regs, bankStored]
  all_goals omega

/-! Held registers by their numbers (Table 10-8). -/
/-- Whether MTS may name a register. -/
def writable (n : Nat) : Prop := n = 8 ∨ (10 ≤ n ∧ n ≤ 22) ∨ n = 26 ∨ n = 30 ∨ 32 ≤ n
theorem SMts.writable {x : SMts} (h : x.wf = true) : Machine.writable x.n := by
  simpa [SMts.wf, Machine.writable, or_assoc] using h
/-- They are six single registers and those of the banks and formats. -/
theorem writable_cases {n : Nat} (h : writable n) (hn : n < 40) :
    n ∈ [8, 10, 11, 22, 26, 30] ∨ (∃ i j, i < 2 ∧ j < 5 ∧ n = 12 + 2 * j + i) ∨ ∃ i : Fin 8, n = 32 + i := by
  have bank : 12 ≤ n → n < 22 → ∃ i j, i < 2 ∧ j < 5 ∧ n = 12 + 2 * j + i := fun _ _ => ⟨n % 2, (n - 12) / 2, by omega, by omega, by omega⟩
  have fmt : 32 ≤ n → ∃ i : Fin 8, n = 32 + i := fun _ => ⟨⟨n - 32, by omega⟩, by simp; omega⟩
  simp only [List.mem_cons, List.not_mem_nil, or_false]
  unfold writable at h
  by_cases hb : 12 ≤ n ∧ n < 22
  · exact .inr (.inl (bank hb.1 hb.2))
  · by_cases hf : 32 ≤ n
    · exact .inr (.inr (fmt hf))
    · clear bank fmt
      omega
/-- A register that MTS may name. -/
def SysRegs.held (y : SysRegs) (n : Nat) : Nat :=
  if n = 8 then y.seed.toNat else if n = 10 then y.tvec.toNat else if n = 11 then y.tsave.toNat else if n = 22 then y.sstat.toNat
  else if n = 26 then y.egrant.toNat else if n = 30 then y.tol.toNat else if 32 ≤ n then (vget y.fmt (n - 32) 0).toNat
  else (vget y.banks (n % 2) Bank.zero).regs.getD ((n - 12) / 2) 0
theorem SysRegs.held_bank (y : SysRegs) {i j : Nat} (hi : i < 2) (hj : j < 5) :
    y.held (12 + 2 * j + i) = (vget y.banks i Bank.zero).regs.getD j 0 := by
  interval_cases i <;> interval_cases j <;> rfl
theorem SysRegs.held_fmt (y : SysRegs) (i : Fin 8) : y.held (32 + i) = (y.fmt[i]).toNat := by
  fin_cases i <;> rfl
/-- MFS of a register that MTS may name; TOL of a stream context reads 0. -/
theorem State.special_held (s : State) (k n : Nat) (h : writable n) (hn : n < 40) (ht : n = 30 → isStream k = false) :
    s.special k n = (s.ctx k).regs.sys.held n := by
  rcases writable_cases h hn with hs | ⟨i, j, hi, hj, rfl⟩ | ⟨i, rfl⟩
  · simp only [List.mem_cons, List.not_mem_nil, or_false] at hs
    rcases hs with rfl | rfl | rfl | rfl | rfl | rfl
    case inr.inr.inr.inr.inr => exact if_neg (by rw [ht rfl]; exact Bool.false_ne_true)
    all_goals rfl
  · interval_cases i <;> interval_cases j <;> rfl
  · fin_cases i <;> rfl
/-- The registers that MTS may not name, and the TOL of a stream context, are no field that it writes. -/
theorem State.special_view (s : State) (k n : Nat) (f : SysRegs → SysRegs) (hn : n < 40) (h : ¬writable n)
    (hf : ∀ y, f y = { y with
      seed := (f y).seed, tvec := (f y).tvec, tsave := (f y).tsave, banks := (f y).banks, sstat := (f y).sstat, egrant := (f y).egrant,
      tol := (f y).tol, fmt := (f y).fmt }) :
    (s.modCtx k fun c => c.modSys f).special k n = s.special k n := by
  have hc := State.ctx_modCtx_same s k fun c => c.modSys f
  unfold State.special
  rw [hc]
  dsimp only [Ctx.modSys]
  rw [hf]
  have views : n < 8 ∨ n = 9 ∨ n = 23 ∨ n = 24 ∨ n = 25 ∨ n = 27 ∨ n = 28 ∨ n = 29 ∨ n = 31 := by unfold writable at h; omega
  rcases views with h8 | rfl | rfl | rfl | rfl | rfl | rfl | rfl | rfl
  case inl => interval_cases n <;> rfl
  all_goals rfl

/-! Reserved bits dropped. -/
section
variable (v : Word)
theorem toNat_and_not_low (k : Nat) : (v &&& ~~~(BitVec.ofNat 64 (2 ^ k - 1))).toNat = v.toNat / 2 ^ k * 2 ^ k := by
  rw [and_not_low, BitVec.toNat_ofNat]
  exact Nat.mod_eq_of_lt (Nat.lt_of_le_of_lt (Nat.div_mul_le_self ..) v.isLt)
theorem toNat_and_low {k : Nat} (hk : k ≤ 64) : (v &&& BitVec.ofNat 64 (2 ^ k - 1)).toNat = v.toNat % 2 ^ k := by
  have small : 2 ^ k - 1 < 2 ^ 64 := Nat.lt_of_lt_of_le (Nat.sub_lt (Nat.two_pow_pos k) Nat.one_pos) (Nat.pow_le_pow_right (by decide) hk)
  rw [BitVec.toNat_and, BitVec.toNat_ofNat, Nat.mod_eq_of_lt small, Nat.and_two_pow_sub_one_eq_mod]
/-- TDLY keeps its count and its target (R282). -/
theorem toNat_and_tdly : (v &&& ~~~0x1C).toNat = v.toNat / 32 * 32 + v.toNat % 4 := by
  have parts : v &&& ~~~0x1C = (v &&& ~~~(BitVec.ofNat 64 (2 ^ 5 - 1))) ||| (v &&& BitVec.ofNat 64 (2 ^ 2 - 1)) := by
    rw [← BitVec.and_or_distrib_left]
    rfl
  rw [parts, BitVec.toNat_or, toNat_and_not_low, toNat_and_low v (by decide)]
  have target : v.toNat / 2 ^ 5 * 2 ^ 5 = (v.toNat / 2 ^ 5) <<< 5 := (Nat.shiftLeft_eq ..).symm
  rw [target, ← Nat.shiftLeft_add_eq_or_of_lt (Nat.lt_trans (Nat.mod_lt _ (by decide)) (by decide : 2 ^ 2 < 2 ^ 5)), ← target]
  rfl
end

/-! What MTS writes. -/
theorem SysRegs.setSpecial_bank (y : SysRegs) {i j : Nat} (v : Nat) (hi : i < 2) (hj : j < 5) :
    y.setSpecial (12 + 2 * j + i) v = { y with banks := vset y.banks i ((vget y.banks i Bank.zero).write j v) } := by
  interval_cases i <;> interval_cases j <;> rfl
/-- A register of a bank keeps what Tables 10-8 to 10-10 say. -/
theorem bankStored_eq_stored {i j v : Nat} (hv : v < 2 ^ 64) (hi : i < 2) (hj : j < 5) :
    bankStored j v = (Claims.stored (12 + 2 * j + i) (BitVec.ofNat 64 v)).toNat := by
  have hw : (BitVec.ofNat 64 v).toNat = v := Nat.mod_eq_of_lt hv
  interval_cases j
  · exact (hw ▸ toNat_and_low (BitVec.ofNat 64 v) (k := 17) (by decide)).symm.trans (by interval_cases i <;> rfl)
  · exact (hw ▸ toNat_and_not_low (BitVec.ofNat 64 v) 5).symm.trans (by interval_cases i <;> rfl)
  · exact hw.symm.trans (by interval_cases i <;> rfl)
  · exact (hw ▸ toNat_and_low (BitVec.ofNat 64 v) (k := 8) (by decide)).symm.trans (by interval_cases i <;> rfl)
  · exact (hw ▸ toNat_and_tdly (BitVec.ofNat 64 v)).symm.trans (by interval_cases i <;> rfl)
/-- The fields that it may write. -/
theorem SysRegs.setSpecial_fields (y : SysRegs) {n v : Nat} (h : writable n) (hn : n < 40) :
    y.setSpecial n v = { y with
      seed := (y.setSpecial n v).seed, tvec := (y.setSpecial n v).tvec, tsave := (y.setSpecial n v).tsave, banks := (y.setSpecial n v).banks,
      sstat := (y.setSpecial n v).sstat, egrant := (y.setSpecial n v).egrant, tol := (y.setSpecial n v).tol, fmt := (y.setSpecial n v).fmt } := by
  rcases writable_cases h hn with hs | ⟨i, j, hi, hj, rfl⟩ | ⟨i, rfl⟩
  · simp only [List.mem_cons, List.not_mem_nil, or_false] at hs
    rcases hs with rfl | rfl | rfl | rfl | rfl | rfl <;> rfl
  · rw [SysRegs.setSpecial_bank y v hi hj]
  · rw [SysRegs.setSpecial_fmt]
section
variable (y : SysRegs) {n v : Nat} (h : writable n) (hn : n < 40) (hv : v < 2 ^ 64)
include h hn hv
theorem SysRegs.held_setSpecial_ne {m : Nat} (hm : writable m) (hm' : m < 40) (hne : m ≠ n) : (y.setSpecial n v).held m = y.held m := by
  rcases writable_cases h hn with hs | ⟨i, j, hi, hj, rfl⟩ | ⟨i, rfl⟩
  case inl =>
    simp only [List.mem_cons, List.not_mem_nil, or_false] at hs
    rcases hs with rfl | rfl | rfl | rfl | rfl | rfl
    all_goals
      simp only [SysRegs.held, if_neg hne]
      rfl
  case inr.inl =>
    rw [SysRegs.setSpecial_bank y v hi hj]
    rcases writable_cases hm hm' with hs | ⟨i', j', hi', hj', rfl⟩ | ⟨i', rfl⟩
    · simp only [List.mem_cons, List.not_mem_nil, or_false] at hs
      rcases hs with rfl | rfl | rfl | rfl | rfl | rfl <;> rfl
    · rw [SysRegs.held_bank _ hi' hj', SysRegs.held_bank _ hi' hj']
      dsimp only
      by_cases hb : i = i'
      · have hj2 : j ≠ j' := by omega
        rw [← hb, vget_vset_same _ _ _ _ hi, Bank.regs_write _ _ _ hv hj, List.getD_eq_getElem?_getD, List.getElem?_set_ne hj2,
          List.getD_eq_getElem?_getD]
      · rw [vget_vset_ne _ _ _ _ _ hb]
    · rw [SysRegs.held_fmt, SysRegs.held_fmt]
  case inr.inr =>
    rw [SysRegs.setSpecial_fmt]
    rcases writable_cases hm hm' with hs | ⟨i', j', hi', hj', rfl⟩ | ⟨i', rfl⟩
    · simp only [List.mem_cons, List.not_mem_nil, or_false] at hs
      rcases hs with rfl | rfl | rfl | rfl | rfl | rfl <;> rfl
    · rw [SysRegs.held_bank _ hi' hj', SysRegs.held_bank _ hi' hj']
    · have other : i.val ≠ i'.val := fun e => hne (by rw [e])
      rw [SysRegs.held_fmt, SysRegs.held_fmt]
      simp [Vector.getElem_set_ne _ _ other]
theorem SysRegs.held_setSpecial_same : (y.setSpecial n v).held n = (Claims.stored n (BitVec.ofNat 64 v)).toNat := by
  have low {k : Nat} (hk : k ≤ 64) : (BitVec.ofNat 64 v &&& BitVec.ofNat 64 (2 ^ k - 1)).toNat = v % 2 ^ k := by
    rw [toNat_and_low _ hk, BitVec.toNat_ofNat, Nat.mod_eq_of_lt hv]
  rcases writable_cases h hn with hs | ⟨i, j, hi, hj, rfl⟩ | ⟨i, rfl⟩
  case inl =>
    simp only [List.mem_cons, List.not_mem_nil, or_false] at hs
    have hw : (BitVec.ofNat 64 v).toNat = v := Nat.mod_eq_of_lt hv
    rcases hs with rfl | rfl | rfl | rfl | rfl | rfl
    · rfl
    · exact congrArg BitVec.toNat (hw ▸ and_not_low (BitVec.ofNat 64 v) 5).symm
    · exact congrArg BitVec.toNat (hw ▸ and_not_low (BitVec.ofNat 64 v) 9).symm
    · exact (low (k := 9) (by decide)).symm
    · exact (low (k := 32) (by decide)).symm
    · exact (low (k := 32) (by decide)).symm
  case inr.inl =>
    rw [SysRegs.setSpecial_bank y v hi hj, SysRegs.held_bank _ hi hj, ← bankStored_eq_stored hv hi hj]
    dsimp only
    rw [vget_vset_same _ _ _ _ hi, Bank.regs_write _ _ _ hv hj, List.getD_eq_getElem?_getD, List.getElem?_set_self (by exact hj)]
    rfl
  case inr.inr =>
    have kept : Claims.stored (32 + i) (BitVec.ofNat 64 v) = BitVec.ofNat 64 v &&& BitVec.ofNat 64 (2 ^ 32 - 1) := by fin_cases i <;> rfl
    rw [SysRegs.setSpecial_fmt, SysRegs.held_fmt, kept, low (by decide)]
    simp
end

/-- The registers of a context are what MFS reads; a note in the open bundle is none of them. -/
theorem State.special_note (s : State) (g b v k n : Nat) : (s.note g b v).special k n = s.special k n := by
  unfold State.note
  split <;> rfl
section
variable (s : State) (k : Nat) {n v : Nat} (h : writable n) (hn : n < 40) (hv : v < 2 ^ 64) 
include h hn hv
/-- MTS leaves what Tables 10-8 to 10-10 say. -/
theorem State.special_setSpecial_same (ht : n = 30 → isStream k = false) :
    (s.modCtx k fun c => c.modSys fun y => y.setSpecial n v).special k n = (Claims.stored n (BitVec.ofNat 64 v)).toNat := by
  rw [State.special_held _ k n h hn ht, State.ctx_modCtx_same]
  exact SysRegs.held_setSpecial_same _ h hn hv
theorem State.special_setSpecial_ne {m : Nat} (hm : m < 40) (hne : m ≠ n) :
    (s.modCtx k fun c => c.modSys fun y => y.setSpecial n v).special k m = s.special k m := by
  by_cases hs : m = 30 ∧ isStream k = true
  · obtain ⟨rfl, hs⟩ := hs
    exact (if_pos hs).trans (if_pos hs).symm
  · have open' : m = 30 → isStream k = false := fun e => by simpa [e] using hs
    by_cases hw : writable m
    · rw [State.special_held _ k m hw hm open', State.special_held _ k m hw hm open', State.ctx_modCtx_same]
      exact SysRegs.held_setSpecial_ne _ h hn hv hw hm hne
    · exact State.special_view s k m _ hm hw fun y => SysRegs.setSpecial_fields y h hn
end

/-- Settles O24. -/
theorem specialRegisters : Obligations.SpecialRegisters := by
  refine ⟨fun x s on hc => ?mfs, fun x s v on wf hv small => ⟨fun hn h3 => ?count, fun hn hm => ?egrant, fun hn hl => ?format, fun hn hs => ?tol,
    fun count egrant tol format => ?legal⟩⟩
  case mfs => exact runSlot_writes (n := 2) (g := x.g) rfl on hc rfl
  case count =>
    refine runSlot_stops (n := 2) (g := x.g) (e := .trap 2 0) rfl on ?_
    rw [hv, ok_bind]
    exact if_pos ⟨hn, h3⟩
  case egrant =>
    refine runSlot_stops (n := 2) (g := x.g) (e := .trap 2 0) rfl on ?_
    simp [hv, ok_bind, hn, hm]
  case format =>
    refine runSlot_stops (n := 2) (g := x.g) (e := .trap 4 0) rfl on ?_
    have not20 : ¬((x.n.val = 20 ∨ x.n.val = 21) ∧ v % 4 = 3) := by omega
    have not26 : ¬(x.n.val = 26 ∧ isMesh s.me = true) := by omega
    rw [hv, ok_bind]
    dsimp only
    rw [if_neg not20, if_neg not26, if_pos ⟨hn, by rw [hl]; rfl⟩]
  case tol =>
    refine runSlot_answers (n := 2) (g := x.g) rfl on ?_
    simp [hv, ok_bind, hn, hs]
  case legal =>
    refine ⟨(s.modMe fun c => c.modSys fun y => y.setSpecial x.n v).note 3 8 v,
      runSlot_answers (n := 2) (g := x.g) rfl on ?written, ?reads, fun m hm => ?others, ?_, ?_, ?_, fun j hj => ?_⟩
    case written =>
      rw [hv, ok_bind]
      dsimp only
      rw [if_neg fun h => count h.1 h.2, if_neg fun h => by simp [egrant h.1] at h, if_neg fun h => by simp [format h.1] at h,
        if_neg fun h => by simp [tol h.1] at h]
    case reads =>
      rw [State.special_note]
      exact State.special_setSpecial_same s s.me (SMts.writable wf) x.n.isLt small tol
    case others =>
      rw [State.special_note]
      exact State.special_setSpecial_ne s s.me (SMts.writable wf) x.n.isLt small m.isLt fun e => hm (Fin.ext e)
    · rw [State.note_toWorld]
      rfl
    · rw [State.note_ctx, State.modMe, State.ctx_modCtx_same]
      rfl
    · rw [State.note_ctx, State.modMe, State.ctx_modCtx_same]
      rfl
    · rw [State.note_ctx, State.modMe, State.ctx_modCtx_ne _ _ _ _ hj]

end Sys2Proof.Machine

namespace Sys2Proof.Machine

/-!
PROOFS. O23: the forms that empty the scalar L1 and the moves of the scalar slot.
-/

/-! INVL (R153). -/
/-- A range within one page is one run of memory keys, of the page's leaf, or none. -/
theorem State.invRuns_page (s : State) (k a n fuel : Nat) (h0 : 0 < n) (page : a / 65536 = (a + n - 1) / 65536) :
    (∀ key uc u, s.locate k a .probe = .ok key uc u → s.invRuns k a n (fuel + 1) = [(key, n)]) ∧
    ((∀ key uc u, s.locate k a .probe ≠ .ok key uc u) → s.invRuns k a n (fuel + 1) = []) := by
  have whole : min n (65536 - a % 65536) = n := by omega
  have rest (b : Nat) : s.invRuns k b 0 fuel = [] := by cases fuel <;> rfl
  rw [State.invRuns, if_neg h0.ne', whole]
  dsimp only
  rw [Nat.sub_self, rest]
  cases s.locate k a .probe with
  | ok key uc u => exact ⟨fun _ _ _ h => by cases h; rfl, fun h => absurd rfl (h key uc u)⟩
  | fault c => exact ⟨fun _ _ _ h => (nomatch h), fun _ => rfl⟩
  | pending p l => exact ⟨fun _ _ _ h => (nomatch h), fun _ => rfl⟩
/-- The scalar L1 that INVL leaves. -/
def State.invalidated (s : State) (a n : Nat) : List Line :=
  if 65536 ≤ n then []
  else (s.core (coreOf s.me)).l1.filter fun l => !(l.part == s.pre.part &&
    (s.invRuns s.me a n 3).any fun r => decide (l.key * 64 < r.1 + r.2) && decide (r.1 < l.key * 64 + 64))
theorem execInvl_next {x : SInv} {s : State} {a n : Nat} (on : Claims.On x.g s) (ha : s.rdS x.a = .ok a) (hn : s.rdS x.b = .ok n) :
    exec (.invl x) s = .next (s.modCore (coreOf s.me) fun c => { c with l1 := s.invalidated a n }) := by
  refine runSlot_answers (n := 2) (g := x.g) rfl on ?_
  rw [ha, ok_bind, hn, ok_bind]
  dsimp only
  unfold State.invalidated
  split <;> rfl
theorem scalarCache : Claims.ScalarCache := by
  refine ⟨fun x s a n on ha hn => ⟨_, execInvl_next on ha hn, ?_⟩, fun x s on => ⟨fun h => ?empties, fun h => ?waits⟩⟩
  case empties =>
    refine runSlot_answers (n := 2) (g := x.g) rfl on ?_
    simp [h]
  case waits =>
    refine runSlot_stops (n := 2) (g := x.g) (e := .stall) rfl on (if_pos h)
  rw [State.core_modCore_same]
  dsimp only
  refine ⟨fun h => if_pos h, fun h => ?none, fun h0 hlt page => ⟨fun key uc u hl l => ?run, fun hl => ?unmapped⟩, rfl, rfl, fun c hc =>
    State.core_modCore_ne _ _ _ _ hc⟩
  case none =>
    subst h
    simp [State.invalidated, State.invRuns]
  case run =>
    have found : s.invRuns s.me a n 3 = [(key, n)] := (State.invRuns_page s s.me a n 2 h0 page).1 key uc u hl
    rw [State.invalidated, if_neg (Nat.not_le.mpr hlt), found, List.mem_filter]
    simp
  case unmapped =>
    have found : s.invRuns s.me a n 3 = [] := (State.invRuns_page s s.me a n 2 h0 page).2 hl
    rw [State.invalidated, if_neg (Nat.not_le.mpr hlt), found]
    simp

/-! Moves (R156, R157). -/
section
variable {x : SXfer} {s : State}
theorem execScalarXfer_vector (u : VUnit) (h : x.s.val = u.slot) :
    execScalarXfer x s = runSlot 2 x.g s fun s => s.rdS x.a >>= fun a => s.xferLanes u x.d x.l a 0 := by
  cases u with
  | a =>
    have h3 : x.s.val = 3 := h
    simp only [execScalarXfer, h3]
  | b =>
    have h4 : x.s.val = 4 := h
    simp only [execScalarXfer, h4]
theorem execScalarXfer_matrix (h : x.s.val = 5) :
    execScalarXfer x s = runSlot 2 x.g s fun s => s.rdS x.a >>= fun a => s.wr (some (.md (Fin.ofNat 8 x.d.val))) (a % 2 ^ 64) ones64 0 3 := by
  simp only [execScalarXfer, h]
end
theorem moveForms : Claims.MoveForms := by
  refine ⟨fun x s m on hc hm => ?getm, fun x s a on hc ha => ?putm, fun x s a u on wf hs hc ha => ?vector, fun x s a on hs hc ha => ?matrix⟩
  case getm => exact runSlot_writes (n := 2) (g := x.g) rfl on hc (by rw [hm, ok_bind]; rfl)
  case putm => exact runSlot_writes (n := 2) (g := x.g) rfl on hc (by rw [ha, ok_bind]; rfl)
  case vector =>
    have hi : exec (.scalarXfer x) s = _ := execScalarXfer_vector u hs
    refine ⟨fun hl => runSlot_writes hi on hc ?_, fun hl => runSlot_writes hi on hc ?_⟩
    · rw [ha, ok_bind, hl]
      rfl
    · rw [ha, ok_bind, hl]
      rfl
  case matrix => exact runSlot_writes (execScalarXfer_matrix hs) on hc (by rw [ha, ok_bind]; rfl)

/-- Settles O23. -/
theorem scalarMoves : Obligations.ScalarMoves := ⟨scalarCache, moveForms⟩

end Sys2Proof.Machine

namespace Sys2Proof.Machine

/-!
PROOFS. O20, O21: what a store or an atomic of slot s does once its checks let it pass. Both take the same way (`State.scalarAccess_admitted`): to the
own scratchpad through the log of old values, elsewhere through the buffer of an open segment.
-/

/-! Where an address lies: the bundle at hand, the contexts and the time stay. -/
/-- From s to t the open bundle, the contexts and the time stay. -/
def State.Abides (s t : State) : Prop := t.opened = s.opened ∧ t.ctxs = s.ctxs ∧ t.now = s.now
theorem State.Abides.refl (s : State) : s.Abides s := ⟨rfl, rfl, rfl⟩
section
variable {s t : State} (h : s.Abides t)
include h
theorem State.Abides.opened : t.opened = s.opened := h.1
theorem State.Abides.ctx (k : Nat) : t.ctx k = s.ctx k := congrArg (Tbl.getD · k Ctx.zero) h.2.1
theorem State.Abides.now : t.now = s.now := h.2.2
theorem State.Abides.scope : t.scope = s.scope := by unfold State.scope; rw [h.opened]
theorem State.Abides.pre (o : s.opened.isSome = true) : t.pre = s.pre := by
  unfold State.pre
  rw [h.opened]
  cases e : s.opened with
  | none => rw [e] at o; cases o
  | some b => rfl
theorem State.Abides.reach (key : Nat) : Claims.reach t key = Claims.reach s key := by unfold Claims.reach; rw [h.scope]
theorem State.Abides.foldl {α : Type} {f : State → α → State} (hf : ∀ r a, s.Abides r → s.Abides (f r a)) (l : List α) : s.Abides (l.foldl f t) :=
  foldl_keeps s.Abides f l t h hf
theorem State.Abides.writeBack (l : L2Line) : s.Abides (t.writeBack l) :=
  h.foldl (fun r i hr => by
    split
    · exact hr
    · exact hr) _
theorem State.Abides.toHome (line : Nat) : s.Abides (t.toHome line) := h.foldl (fun _ l hr => hr.writeBack l) _
theorem State.Abides.putTlb (e : Tlb) (cap : Nat) : s.Abides (t.putTlb e cap) := by
  unfold State.putTlb
  dsimp only
  split
  · exact h
  · exact h
end
section
variable {s u : State} {key : Nat} {uc : Bool}
theorem State.useLeaf_abides {core part va e pk base size : Nat} {m : AccMode} (h : s.useLeaf core part va e pk base size m = .ok key uc u) : s.Abides u := by
  have marked (bits : Nat) : s.Abides (if e &&& bits = bits then s else (s.toHome (pk / 64)).modMem fun m => m.putN pk 8 (m.getN pk 8 ||| bits)) := by
    split
    · exact State.Abides.refl s
    · exact (State.Abides.refl s).toHome _
  unfold State.useLeaf at h
  dsimp only at h
  split at h
  · cases h
  · split at h
    · cases h
    · split at h
      · cases h
      · split at h
        · cases h
          exact State.Abides.refl s
        · cases h
          exact (marked _).foldl (fun _ c hr => hr.putTlb _ c.2) _
theorem State.locate_abides {k a : Nat} {m : AccMode} (h : s.locate k a m = .ok key uc u) : s.Abides u := by
  unfold State.locate State.translate at h
  split at h
  · split at h
    · cases h
      exact State.Abides.refl s
    · cases h
  · split at h
    · split at h
      · exact State.useLeaf_abides h
      · split at h
        · exact State.useLeaf_abides h
        · split at h <;> cases h
        · cases h
    · cases h
end

theorem State.note_isSome (s : State) (g b v : Nat) : (s.note g b v).opened.isSome = s.opened.isSome := by
  unfold State.note
  split
  · exact Option.isSome_map
  · rfl

/-! The common way. -/
/-- An access as it is issued at a key. -/
def Access.issuedAt (a : Access) (s : State) (addr key : Nat) (uc : Bool) : Access :=
  { a with
    key := key, uc := uc, scope := Claims.reach s key, part := s.pre.part, due := s.now + paddedTime (coreOf s.me) key, cls := 5, va := addr }
/-- A store or an atomic whose checks let it pass: with its address and its value in the signature, it takes an entry of the log or of the buffer and
acts, or waits. -/
theorem State.scalarAccess_admitted {s u : State} {addr key : Nat} {uc : Bool} {a : Access} (hr : a.isLoad = false) (h : addr % a.n = 0)
    (hl : s.locate s.me addr .write = .ok key uc u) (host : a.isAtom = true → spaceOf key ≠ 2)
    (red : a.kind = .atomic .fadd → u.inReduction key a.n = false) (sound : a.isAtom = true → u.poisoned key a.n = false)
    (clear : Claims.Clear s a.dst) :
    s.scalarAccess addr a =
      let t := (u.note 4 8 addr).note 4 a.n a.val
      let y := a.issuedAt s addr key uc
      if key / spaceSize = padSpace (coreOf s.me) then t.logOwn s.me [(key, a.n)] >>= fun r => .ok ((r.ownFirst s.me true).ownAccess s.me y)
      else t.bufEntry s.me true a.isAtom >>= fun r => .ok (if a.isAtom then r.remoteAtomic s.me y else r.remoteStore s.me y) := by
  have same := State.locate_abides hl
  unfold State.scalarAccess
  dsimp only
  rw [if_neg (not_not.mpr h), hr, if_neg Bool.false_ne_true, hl]
  dsimp only
  rw [if_neg fun e => host e.1 e.2]
  refine (if_neg ?red).trans ((if_neg ?sound).trans ((if_neg ?clear).trans ?_))
  case red =>
    split
    next e => rw [red e]; exact Bool.false_ne_true
    next => exact Bool.false_ne_true
  case sound =>
    rintro ⟨e, p⟩
    rw [sound (e.resolve_left Bool.false_ne_true)] at p
    cases p
  case clear =>
    split
    next l e => rw [clear l e]; exact Bool.false_ne_true
    next => exact Bool.false_ne_true
  rw [same.scope, same.now]
  rfl

/-! Entries of the log and of the buffer (R130). -/
section
variable {s : State} {k key n : Nat} {g : Seg}
theorem State.logOwn_closed {cells : List (Nat × Nat)} (h : (s.ctx k).seg = none) : s.logOwn k cells = .ok s := by
  unfold State.logOwn
  rw [h]
theorem State.logOwn_room (h : (s.ctx k).seg = some g) (room : g.logged < 512) : s.logOwn k [(key, n)] = .ok (Claims.logged s k key n g) := by
  unfold State.logOwn
  rw [h]
  exact if_neg (Nat.not_le.mpr room)
theorem State.logOwn_full {cells : List (Nat × Nat)} (h : (s.ctx k).seg = some g) (full : 512 ≤ g.logged) : s.logOwn k cells = .error (.trap 17 0) := by
  unfold State.logOwn
  rw [h]
  exact if_pos full
theorem State.bufEntry_closed {elsewhere : Bool} (h : (s.ctx k).seg = none) : s.bufEntry k elsewhere false = .ok s := by
  unfold State.bufEntry
  rw [Bool.and_false, if_neg Bool.false_ne_true]
  dsimp only
  rw [h]
theorem State.bufEntry_room (h : (s.ctx k).seg = some g) (room : g.used < 256) :
    s.bufEntry k true false = .ok (s.modCtx k fun c => { c with seg := some { g with used := g.used + 1 } }) := by
  unfold State.bufEntry
  rw [Bool.and_false, if_neg Bool.false_ne_true]
  dsimp only
  rw [h]
  refine (if_neg (by decide)).trans ((if_neg (Nat.not_le.mpr room)).trans ?_)
  rw [Bool.or_false]
  rfl
theorem State.bufEntry_full (h : (s.ctx k).seg = some g) (full : 256 ≤ g.used) : s.bufEntry k true false = .error (.trap 17 0) := by
  unfold State.bufEntry
  rw [Bool.and_false, if_neg Bool.false_ne_true]
  dsimp only
  rw [h]
  exact (if_neg (by decide)).trans (if_pos full)
/-- An atomic goes after the stores that the segment holds (R371). -/
theorem State.bufEntry_atom_closed (h : (s.ctx k).seg = none) : s.bufEntry k true true = .ok s := by
  have idle : s.performBuf k = s := by
    unfold State.performBuf
    rw [h]
  unfold State.bufEntry
  rw [Bool.and_self, if_pos rfl, idle]
  dsimp only
  rw [h]
theorem State.bufEntry_atom_room (h : ((s.performBuf k).ctx k).seg = some g) (room : g.used < 256) :
    s.bufEntry k true true = .ok ((s.performBuf k).modCtx k fun c => { c with seg := some { g with
      used := g.used + 1, atoms := g.atoms + 1, irrevocable := true } }) := by
  unfold State.bufEntry
  rw [Bool.and_self, if_pos rfl]
  dsimp only
  rw [h]
  refine (if_neg (by decide)).trans ((if_neg (Nat.not_le.mpr room)).trans ?_)
  rw [Bool.or_true]
  rfl
theorem State.bufEntry_atom_full (h : ((s.performBuf k).ctx k).seg = some g) (full : 256 ≤ g.used) : s.bufEntry k true true = .error (.trap 17 0) := by
  unfold State.bufEntry
  rw [Bool.and_self, if_pos rfl]
  dsimp only
  rw [h]
  exact (if_neg (by decide)).trans (if_pos full)
end

/-! What acts, and what waits. -/
theorem Tbl.put_put {α : Type} (t : Tbl α) (k : Nat) (u v : α) : Tbl.put (Tbl.put t k u) k v = Tbl.put t k v := by
  induction t with
  | nil => simp [Tbl.put]
  | cons p r ih =>
    obtain ⟨j, w⟩ := p
    by_cases before : k < j
    · simp [Tbl.put, before]
    · by_cases same : k = j
      · simp [Tbl.put, same]
      · simp [Tbl.put, before, same, ih]
theorem State.modCtx_modCtx (s : State) (k : Nat) (f g : Ctx → Ctx) : (s.modCtx k f).modCtx k g = s.modCtx k fun c => g (f c) := by
  unfold State.modCtx
  rw [State.ctx_setCtx_same]
  unfold State.setCtx
  rw [Tbl.put_put]
/-- An operation of the own scratchpad that is no load acts at once, or in an exact context waits for its due (R305, R342). -/
theorem State.ownAccess_exact {s : State} {k : Nat} {a : Access} (h : (s.ctx k).exact = true) (hr : a.isLoad = false) :
    s.ownAccess k a = s.queueAccess k { a with own := true } := by
  unfold State.ownAccess
  rw [if_pos h, hr]
  rfl
section
variable {s : State} {k : Nat} {a : Access} (h : (s.ctx k).exact = false)
include h
theorem State.ownAccess_store (hk : a.kind = .store) :
    s.ownAccess k a = ((s.putN a.key a.n a.val).clearPoison a.key a.n).queueDone k a 0 := by
  unfold State.ownAccess
  rw [if_neg (by rw [h]; exact Bool.false_ne_true), hk]
theorem State.ownAccess_atomic {op : AtomOp} (hk : a.kind = .atomic op) :
    s.ownAccess k a =
      let r := s.atomsFirst k
      let old := r.getN a.key a.n
      (r.putN a.key a.n (atomNew op (8 * a.n) old a.val a.cmp)).queueDone k a (oldValue op a.n a.width old) := by
  unfold State.ownAccess
  rw [if_neg (by rw [h]; exact Bool.false_ne_true), hk]
end
theorem State.remoteStore_closed {s : State} {k : Nat} {a : Access} (h : (s.ctx k).seg = none) : s.remoteStore k a = s.queueAccess k a := by
  unfold State.remoteStore
  rw [h]
/-- A store held in the open segment. -/
theorem State.remoteStore_held {s : State} {k : Nat} {a : Access} {g : Seg} (h : (s.ctx k).seg = some g) : s.remoteStore k a =
    s.modCtx k fun c => { c with seq := c.seq + 1, seg := some { g with buf := g.buf ++ [{ a with seq := c.seq, bun := s.pre.seq }] } } := by
  unfold State.remoteStore
  rw [h]

theorem State.queueAccess_seg (s : State) (k : Nat) (a : Access) : ((s.queueAccess k a).ctx k).seg = (s.ctx k).seg := by
  unfold State.queueAccess
  dsimp only
  rw [State.ctx_modCtx_same]
  dsimp only
  split <;> rfl
theorem State.remoteAtomic_closed {s : State} {k : Nat} {a : Access} (h : (s.ctx k).seg = none) : s.remoteAtomic k a = s.queueAccess k a := by
  unfold State.remoteAtomic
  dsimp only
  rw [State.queueAccess_seg, h]
  rfl

/-- A store is its access, its operands read. -/
theorem execSt_access {x : SMem} {s : State} {a b v : Nat} (ha : s.rdS x.a = .ok a) (hb : s.rdS x.b = .ok b) (hv : s.rdD x.d = .ok v) :
    ∃ body : State → Res State, exec (.st x) s = runSlot 2 x.g s body ∧ body s =
      s.scalarAccess ((a + b) % 2 ^ 64) { Access.blank .store (2 ^ x.z.val) with val := v % 2 ^ (8 * 2 ^ x.z.val) } := by
  refine ⟨_, rfl, ?_⟩
  rw [ha, ok_bind, hb, ok_bind, hv, ok_bind]
/-- Settles O20. -/
theorem scalarStores : Obligations.ScalarStores := by
  intro x s u a b v key uc on ha hb hv A n w t y does aligned hl
  have same : s.Abides u := State.locate_abides hl
  have pre (f : Ctx → Ctx) : (t.modCtx s.me f).pre = s.pre := by
    have o : u.opened.isSome = true := by rw [same.opened]; exact on.1
    have o1 : (u.note 4 8 A).opened.isSome = true := (State.note_isSome ..).trans o
    calc (t.modCtx s.me f).pre
      _ = t.pre := State.pre_congr ((State.note_isSome ..).trans o1) rfl
      _ = u.pre := (State.pre_note o1 ..).trans (State.pre_note o ..)
      _ = s.pre := same.pre on.1
  obtain ⟨body, hi, hbody⟩ := execSt_access ha hb hv
  have way := State.scalarAccess_admitted (s := s) (a := { Access.blank .store n with val := w }) rfl aligned hl (fun e => by cases e) (fun e => by cases e)
    (fun e => by cases e) (fun _ e => by cases e)
  have acts (r : State) : (r.ownFirst s.me true).ownAccess s.me y = does r := by
    by_cases h : ((r.ownFirst s.me true).ctx s.me).exact = true
    · exact (State.ownAccess_exact h rfl).trans (if_pos h).symm
    · exact (State.ownAccess_store (Bool.eq_false_of_not_eq_true h) rfl).trans (if_neg h).symm
  refine ⟨fun hk => ?own, fun hk => ?elsewhere⟩
  case own =>
    have way : s.scalarAccess A { Access.blank .store n with val := w } = t.logOwn s.me [(key, n)] >>= fun r => .ok (does r) :=
      way.trans ((if_pos hk).trans (by simp only [← acts]; rfl))
    refine ⟨fun hs => runSlot_answers hi on ?_, fun g hs room => runSlot_answers hi on ?_, fun g hs full => runSlot_stops (e := .trap 17 0) hi on ?_⟩
    all_goals rw [hbody, way]
    · rw [State.logOwn_closed hs, ok_bind]
    · rw [State.logOwn_room hs room, ok_bind]
    · rw [State.logOwn_full hs full]
      rfl
  case elsewhere =>
    have way : s.scalarAccess A { Access.blank .store n with val := w } = t.bufEntry s.me true false >>= fun r => .ok (r.remoteStore s.me y) :=
      way.trans (if_neg hk)
    refine ⟨fun hs => runSlot_answers hi on ?_, fun g hs room => runSlot_answers hi on ?_, fun g hs full => runSlot_stops (e := .trap 17 0) hi on ?_⟩
    all_goals rw [hbody, way]
    · rw [State.bufEntry_closed hs, ok_bind, State.remoteStore_closed hs]
    · rw [State.bufEntry_room hs room, ok_bind, State.remoteStore_held (by rw [State.ctx_modCtx_same]), State.modCtx_modCtx, pre]
    · rw [State.bufEntry_full hs full]
      rfl


/-! Atomics (R154, R140). -/
theorem Memory.getN_lt (m : Memory) (a n : Nat) : m.getN a n < 2 ^ (8 * n) := by
  induction n generalizing a with
  | zero => exact Nat.one_pos
  | succ n ih =>
    have byte := (m.get a).isLt
    have rest := ih (a + 1)
    have more : 2 ^ (8 * (n + 1)) = 256 * 2 ^ (8 * n) := by rw [Nat.mul_succ, Nat.pow_add, Nat.mul_comm]
    rw [Memory.getN, more]
    omega
theorem Memory.putN_mod (m : Memory) (a n v : Nat) : m.putN a n (v % 2 ^ (8 * n)) = m.putN a n v := by
  induction n generalizing m a v with
  | zero => rfl
  | succ n ih =>
    have more : 2 ^ (8 * (n + 1)) = 256 * 2 ^ (8 * n) := by rw [Nat.mul_succ, Nat.pow_add, Nat.mul_comm]
    have low : BitVec.ofNat 8 (v % (256 * 2 ^ (8 * n))) = BitVec.ofNat 8 v := by
      refine BitVec.eq_of_toNat_eq ?_
      simp only [BitVec.toNat_ofNat]
      exact Nat.mod_mul_right_mod ..
    rw [Memory.putN, Memory.putN, more, low, Nat.mod_mul_right_div_self, ih]
/-- What an atomic leaves, to the location's width, is the operation of Table 7-11 on words. -/
theorem atomNew_words {w : Nat} (o b d : BitVec w) : ∀ e ∈ Claims.atomics,
    atomNew e.2.1 w o.toNat b.toNat d.toNat % 2 ^ w = (e.2.2 w o b d).toNat := by
  have word (c : BitVec w) : c.toNat % 2 ^ w = c.toNat := Nat.mod_eq_of_lt c.isLt
  have pick (p : Prop) [Decidable p] (b c : BitVec w) : (if p then b.toNat else c.toNat) % 2 ^ w = (if p then b else c).toNat := by
    split <;> exact word _
  simp only [Claims.atomics, List.cons_append, List.nil_append, List.forall_mem_cons]
  refine ⟨?add, ?xchg, ?cas, ?and, ?or, ?min, ?minu, ?max, ?maxu, ?fadd, fun _ h => nomatch h⟩
  case add => exact (Nat.mod_mod ..).trans (BitVec.toNat_add ..).symm
  case xchg => exact (Nat.mod_mod ..).trans (word b)
  case cas => simp only [atomNew, word, BitVec.toNat_inj, pick]
  case and => simp only [atomNew, word b, ← BitVec.toNat_and, word]
  case or => simp only [atomNew, word b, ← BitVec.toNat_or, word]
  case min => simp only [atomNew, word, toSigned_toNat, pick, BitVec.slt_iff_toInt_lt]
  case minu => simp only [atomNew, word, pick, BitVec.lt_def]
  case max => simp only [atomNew, word, toSigned_toNat, pick, BitVec.slt_iff_toInt_lt]
  case maxu => simp only [atomNew, word, pick, BitVec.lt_def]
  case fadd =>
    rw [BitVec.toNat_ofNat]
    simp only [atomNew, word]

/-- The old value as its 64 bits (R140). -/
theorem oldValue_eq_oldBits (op : AtomOp) (w : Bool) {old : Nat} (h : old < 2 ^ wBits w) :
    oldValue op (wBits w / 8) 64 old = Claims.oldBits op (wBits w) old := by
  unfold oldValue Claims.oldBits
  by_cases f : op = .fadd
  · rw [if_neg fun e => e.2.2 f, if_pos f]
  · rw [if_neg f]
    cases w with
    | false => exact (if_pos ⟨rfl, rfl, f⟩).trans (sext_eq_signExtend 32 old 64)
    | true =>
      refine (if_neg fun e => absurd e.2.1 (by decide)).trans ?_
      exact (Nat.mod_eq_of_lt h).symm.trans (congrArg BitVec.toNat (BitVec.signExtend_eq (BitVec.ofNat 64 old)).symm)
theorem eight_bytes (w : Bool) : 8 * (wBits w / 8) = wBits w := by cases w <;> rfl
/-- An atomic reads and writes its location in one step, after the earlier ones of its bundle. -/
theorem State.ownAccess_table {s : State} {k : Nat} {a : Access} {w : Bool} {b d : Nat} (h : (s.ctx k).exact = false) {e} (he : e ∈ Claims.atomics)
    (hk : a.kind = .atomic e.2.1) (hn : a.n = wBits w / 8) (hv : a.val = b % 2 ^ wBits w) (hc : a.cmp = d % 2 ^ wBits w) (hw : a.width = 64) :
    s.ownAccess k a =
      let r := s.atomsFirst k
      let o := BitVec.ofNat (wBits w) (r.getN a.key a.n)
      (r.putN a.key a.n (e.2.2 (wBits w) o (BitVec.ofNat _ b) (BitVec.ofNat _ d)).toNat).queueDone k a (Claims.oldBits e.2.1 (wBits w) (r.getN a.key a.n)) := by
  rw [State.ownAccess_atomic h hk]
  dsimp only
  generalize s.atomsFirst k = r
  have bits : 8 * a.n = wBits w := by rw [hn, eight_bytes]
  have small : r.getN a.key a.n < 2 ^ wBits w := bits ▸ Memory.getN_lt ..
  have word (n : Nat) : n % 2 ^ wBits w = (BitVec.ofNat (wBits w) n).toNat := (BitVec.toNat_ofNat ..).symm
  generalize r.getN a.key a.n = old at small
  have new : r.putN a.key a.n (atomNew e.2.1 (8 * a.n) old a.val a.cmp) =
      r.putN a.key a.n (e.2.2 (wBits w) (BitVec.ofNat _ old) (BitVec.ofNat _ b) (BitVec.ofNat _ d)).toNat := by
    have new := atomNew_words (BitVec.ofNat (wBits w) old) (BitVec.ofNat _ b) (BitVec.ofNat _ d) e he
    rw [← word, ← word, ← word, Nat.mod_eq_of_lt small] at new
    unfold State.putN
    rw [← Memory.putN_mod, bits, hv, hc, new]
  rw [new, hw, hn, oldValue_eq_oldBits _ _ small]

/-- The access of an atomic whose operands are b and, for ACAS, d. -/
theorem atomicOp_reads {x : SAlu} {op : AtomOp} {s : State} {a b d : Nat} (ha : s.rdS x.a = .ok a) (hb : s.rdS x.b = .ok b)
    (hd : op = .cas → s.rdD x.d = .ok d) (h0 : op ≠ .cas → d = 0) : ∃ body : State → Res State,
      (atomicOp x.g x.d x.a x.b x.w op s = runSlot 2 x.g s body) ∧ body s = s.scalarAccess a (atomicAccess x op b d) := by
  refine ⟨_, rfl, ?_⟩
  rw [ha, ok_bind, hb, ok_bind]
  by_cases h : op = .cas
  · rw [if_pos h, hd h]
    rfl
  · rw [if_neg h, h0 h]
    rfl

/-- Settles O21. -/
theorem scalarAtomics : Obligations.ScalarAtomics := by
  intro e he x s u a b d key uc on ha hb hd h0 clear W n t y aligned hl host red sound
  obtain ⟨body, hi, hbody⟩ := atomicOp_reads (op := e.2.1) ha hb hd h0
  have hi : exec (e.1 x) s = _ := (atomics_exec e he x s).trans hi
  have way := State.scalarAccess_admitted (s := s) (a := atomicAccess x e.2.1 b d) rfl aligned hl (fun _ => host)
    (fun f => red (AccKind.atomic.inj f)) (fun _ => sound) clear
  refine ⟨fun hk => ?own, fun hk => ?elsewhere⟩
  case own =>
    intro new acts does
    have acts (r : State) : (r.ownFirst s.me true).ownAccess s.me y = does r := by
      by_cases h : ((r.ownFirst s.me true).ctx s.me).exact = true
      · exact (State.ownAccess_exact h rfl).trans (if_pos h).symm
      · exact (State.ownAccess_table (Bool.eq_false_of_not_eq_true h) he rfl rfl rfl rfl rfl).trans (if_neg h).symm
    have way : s.scalarAccess a (atomicAccess x e.2.1 b d) = t.logOwn s.me [(key, n)] >>= fun r => .ok (does r) :=
      way.trans ((if_pos hk).trans (by simp only [← acts]; rfl))
    refine ⟨fun hs => runSlot_answers hi on ?_, fun g hs room => runSlot_answers hi on ?_, fun g hs full => runSlot_stops (e := .trap 17 0) hi on ?_⟩
    all_goals rw [hbody, way]
    · rw [State.logOwn_closed hs, ok_bind]
    · rw [State.logOwn_room hs room, ok_bind]
    · rw [State.logOwn_full hs full]
      rfl
  case elsewhere =>
    have way : s.scalarAccess a (atomicAccess x e.2.1 b d) = t.bufEntry s.me true true >>= fun r => .ok (r.remoteAtomic s.me y) :=
      way.trans (if_neg hk)
    refine ⟨fun hs => runSlot_answers hi on ?_, fun g hs room => runSlot_answers hi on ?_, fun g hs full => runSlot_stops (e := .trap 17 0) hi on ?_⟩
    all_goals rw [hbody, way]
    · rw [State.bufEntry_atom_closed hs, ok_bind, State.remoteAtomic_closed hs]
    · rw [State.bufEntry_atom_room hs room, ok_bind]
    · rw [State.bufEntry_atom_full hs full]
      rfl

end Sys2Proof.Machine

namespace Sys2Proof.Machine

/-!
PROOFS. What acts as a slot's access issues leaves the open bundle as it stands, but for its marks of what has acted and waits (O39).
-/

/-! Memory, the L2, meters and traffic: the bundle at hand, the contexts and the time stay. -/
theorem State.Abides.ite {s t u : State} {c : Prop} [Decidable c] (ht : s.Abides t) (hu : s.Abides u) : s.Abides (if c then t else u) := by
  split
  · exact ht
  · exact hu
section
variable {s t : State} (h : s.Abides t)
include h
theorem State.Abides.modCore {c : Nat} {f : Core → Core} : s.Abides (t.modCore c f) := h
theorem State.Abides.clearPoison {key n : Nat} : s.Abides (t.clearPoison key n) := h
theorem State.Abides.placeLine {plain part line : Nat} {data : BitVec 512} : s.Abides (t.placeLine plain part line data) := by
  unfold State.placeLine
  refine .ite h ?_
  dsimp only
  split
  · exact h
  · exact h
  · exact State.Abides.foldl (t := (t.pick _).2) h (fun _ l hr => hr.writeBack l) _
theorem State.Abides.fillLine {plain part key : Nat} : s.Abides (t.fillLine plain part key) := .ite h h.placeLine
theorem State.Abides.touchHome {plain part scope key n : Nat} {uc : Bool} : s.Abides (t.touchHome plain part scope uc key n) :=
  .ite (h.foldl (fun _ _ hr => .ite hr hr.placeLine) _) h
theorem State.Abides.writeByteAt {plain part scope key : Nat} {uc : Bool} {v : Byte} : s.Abides (t.writeByteAt plain part scope key uc v) := by
  unfold State.writeByteAt
  split
  · exact h
  · dsimp only
    split
    · exact h.toHome _
    · exact h
theorem State.Abides.writeAt {plain part scope key n v : Nat} {uc : Bool} : s.Abides (t.writeAt plain part scope uc key n v) := by
  induction n generalizing t key v with
  | zero => exact h
  | succ n ih => exact ih h.writeByteAt
theorem State.Abides.askOne {plain k res n : Nat} : s.Abides (t.askOne plain k res n) := .ite h (.ite h h)
theorem State.Abides.ask {k plain part sc key n : Nat} {uc : Bool} : s.Abides (t.ask k plain part sc uc key n) :=
  .ite h (h.foldl (fun _ _ hr => .ite (.ite hr.askOne hr.askOne.askOne)
    (.ite hr.askOne (.ite hr.askOne.askOne.askOne hr.askOne.askOne.askOne.askOne))) _)
theorem State.Abides.meterBytes {plain part key n : Nat} : s.Abides (t.meterBytes plain part key n) := .ite h (.ite h h)
theorem State.Abides.askFor {k : Nat} {a : Access} : s.Abides (t.askFor k a) := .ite h.meterBytes h.meterBytes.ask
theorem State.Abides.fillNarrow {exact uc : Bool} {plain part sc key n : Nat} : s.Abides (t.fillNarrow exact plain part sc uc key n) :=
  .ite h (h.foldl (fun _ _ hr => hr.fillLine) _)
theorem State.Abides.loadValue {core : Nat} {exact : Bool} {a : Access} : s.Abides (t.loadValue core exact a).2 := by
  unfold State.loadValue
  dsimp only
  split
  · exact h
  · exact .ite h.touchHome h.touchHome
end

/-! Accesses act. -/
/-- An open bundle without its marks of what has acted and what waits. -/
def Open.settled (o : Open) : Open := { o with acted := false, undo := [], holds := [], sigs := [] }
/-- From s to t the open bundle stays but for those marks, and so do the segment and the special registers of context k, and the time. -/
def State.Calm (k : Nat) (s t : State) : Prop :=
  t.opened.map Open.settled = s.opened.map Open.settled ∧ (t.ctx k).seg = (s.ctx k).seg ∧ (t.ctx k).regs.sys = (s.ctx k).regs.sys ∧ t.now = s.now
theorem State.Calm.refl (k : Nat) (s : State) : s.Calm k s := ⟨rfl, rfl, rfl, rfl⟩
theorem State.Calm.ite {k : Nat} {s t u : State} {c : Prop} [Decidable c] (ht : s.Calm k t) (hu : s.Calm k u) : s.Calm k (if c then t else u) := by
  split
  · exact ht
  · exact hu
section
variable {k : Nat} {s t : State} (h : s.Calm k t)
include h
theorem State.Calm.map {α : Type} {f : Open → α} (hf : ∀ o, f o.settled = f o) : t.opened.map f = s.opened.map f := by
  have same := congrArg (Option.map f) h.1
  rwa [Option.map_map, Option.map_map, show f ∘ Open.settled = f from funext hf] at same
theorem State.Calm.seg : (t.ctx k).seg = (s.ctx k).seg := h.2.1
theorem State.Calm.exact : (t.ctx k).exact = (s.ctx k).exact := by
  unfold Ctx.exact
  rw [h.2.2.1]
theorem State.Calm.now : t.now = s.now := h.2.2.2
theorem State.Calm.noTrap : Claims.NoTrap s t := h.map fun _ => rfl
theorem State.Calm.pre (o : s.opened.isSome = true) : t.pre = s.pre := State.pre_congr o (h.map fun _ => rfl)
theorem State.Calm.isSome : t.opened.isSome = s.opened.isSome := by
  simpa using congrArg Option.isSome h.1
theorem State.Calm.scope : t.scope = s.scope := by
  have same : t.opened.map Open.hdr = s.opened.map Open.hdr := h.map fun _ => rfl
  unfold State.scope
  cases e : t.opened with
  | none =>
    rw [e] at same
    rw [Option.map_eq_none_iff.mp same.symm]
  | some o =>
    rw [e] at same
    obtain ⟨p, hp, hd⟩ := Option.map_eq_some_iff.mp same.symm
    rw [hp]
    dsimp only
    rw [hd]
theorem State.Calm.loadMem (o : s.opened.isSome = true) : t.loadMem = s.loadMem := by
  have same : t.opened.map Open.mem = s.opened.map Open.mem := h.map fun _ => rfl
  unfold State.loadMem
  cases e : s.opened with
  | none => simp [e] at o
  | some p =>
    rw [e] at same
    obtain ⟨q, hq, hm⟩ := Option.map_eq_some_iff.mp same
    rw [hq]
    exact hm
theorem State.Calm.trans {u : State} (hu : t.Calm k u) : s.Calm k u := by
  obtain ⟨o, g, r, n⟩ := h
  obtain ⟨o', g', r', n'⟩ := hu
  exact ⟨o'.trans o, g'.trans g, r'.trans r, n'.trans n⟩
theorem State.Calm.abides {u : State} (hu : t.Abides u) : s.Calm k u :=
  h.trans ⟨by rw [hu.opened], by rw [hu.ctx], by rw [hu.ctx], hu.now⟩
theorem State.Calm.modCtx {f : Ctx → Ctx} (hf : ∀ c, (f c).seg = c.seg ∧ (f c).regs.sys = c.regs.sys) : s.Calm k (t.modCtx k f) :=
  h.trans ⟨rfl, by rw [State.ctx_modCtx_same]; exact (hf _).1, by rw [State.ctx_modCtx_same]; exact (hf _).2, rfl⟩
theorem State.Calm.modOpen {f : Open → Open} (hf : ∀ o, (f o).settled = o.settled) : s.Calm k (t.modOpen f) := by
  refine h.trans ⟨?_, rfl, rfl, rfl⟩
  unfold State.modOpen
  rw [Option.map_map, show Open.settled ∘ f = Open.settled from funext hf]
theorem State.Calm.foldl {α : Type} {f : State → α → State} (hf : ∀ r a, s.Calm k r → s.Calm k (f r a)) (l : List α) : s.Calm k (l.foldl f t) :=
  foldl_keeps (s.Calm k) f l t h hf
theorem State.Calm.note (g b v : Nat) : s.Calm k (t.note g b v) := .ite (h.modOpen fun _ => rfl) h
theorem State.Calm.holdSlot (n : Nat) (b : Bool) (p : Option (Nat × Nat × Nat)) : s.Calm k (t.holdSlot n b p) := h.modOpen fun _ => rfl
theorem State.Calm.keepOld (key n : Nat) : s.Calm k (t.keepOld key n) := h.modOpen fun _ => rfl
theorem State.Calm.modCore {c : Nat} {f : Core → Core} : s.Calm k (t.modCore c f) := h
theorem State.Calm.noteNarrow {scope key n : Nat} {uc cmd : Bool} : s.Calm k (t.noteNarrow k scope uc key n cmd) :=
  .ite (h.modCtx fun _ => ⟨rfl, rfl⟩) h
theorem State.Calm.act {a : Access} : s.Calm k (t.act k a).2 := by
  have asked : t.Abides (t.askFor k a) := (State.Abides.refl t).askFor
  unfold State.act
  dsimp only
  split
  · exact h
  · exact h.abides asked.loadValue
  · exact h.abides asked.loadValue
  · exact (h.abides asked.fillNarrow.modCore.writeAt.clearPoison.touchHome).noteNarrow
  · exact (h.abides asked.fillNarrow.modCore.writeAt.touchHome).noteNarrow
theorem State.Calm.settle (q : Nat) : s.Calm k (t.settle k q) := by
  unfold State.settle
  split
  · exact h
  · exact State.Calm.modCtx h.act fun _ => ⟨rfl, rfl⟩
theorem State.Calm.settleFor (older : List Access) (a : Access) : s.Calm k (t.settleFor k older a) := h.foldl (fun _ q hr => hr.settle q) _
theorem State.Calm.perform (a : Access) : s.Calm k (t.perform k a) := by
  unfold State.perform
  dsimp only
  split
  · exact h.act
  · exact .ite h.act (State.Calm.modCtx h.act fun _ => ⟨rfl, rfl⟩)
theorem State.Calm.loadsFirst : s.Calm k (t.loadsFirst k) :=
  State.Calm.foldl (h.modOpen (f := fun o => { o with acted := true }) fun _ => rfl) (fun _ _ hr => .ite ((hr.settleFor _ _).settle _) hr) _
theorem State.Calm.atomsFirst : s.Calm k (t.atomsFirst k) :=
  h.foldl (fun _ a hr => .ite (((hr.settleFor _ _).keepOld a.key a.n).settle _) hr) _
theorem State.Calm.ownFirst (own : Bool) : s.Calm k (t.ownFirst k own) := .ite h.loadsFirst h
theorem State.Calm.queueAccess (a : Access) : s.Calm k (t.queueAccess k a) :=
  State.Calm.modCtx (.ite (h.holdSlot ..) h) fun _ => ⟨rfl, rfl⟩
theorem State.Calm.queueLoad (a : Access) : s.Calm k (t.queueLoad k a) := by
  have queued := h.queueAccess a
  unfold State.queueLoad
  refine .ite queued ?_
  dsimp only
  exact State.Calm.modCtx (queued.settleFor _ _).act fun _ => ⟨rfl, rfl⟩
theorem State.Calm.ownAccess (a : Access) : s.Calm k (t.ownAccess k a) := by
  unfold State.ownAccess
  split
  · exact .ite (h.queueLoad _) (h.queueAccess _)
  · split
    · exact h.queueAccess _
    · exact h.queueAccess _
    · exact State.Calm.queueAccess (t := (t.putN a.key a.n a.val).clearPoison a.key a.n) h _
    · exact State.Calm.queueAccess (t := (t.atomsFirst k).putN a.key a.n _) h.atomsFirst _
    · exact h
end

end Sys2Proof.Machine

namespace Sys2Proof.Machine

/-!
PROOFS. O39: the words of a vector access, lane by lane. The own words act at once, the others, and the own ones of a context that runs exactly, are
queued; each lane's step keeps what the steps before it have queued.
-/

/-! Queued accesses. -/
section
variable (s : State) (k : Nat) (a : Access)
/-- An access queues behind the older ones, a load before its bundle's stores. -/
theorem State.queueAccess_ctx : ∃ l : List Access, l.Perm ({ a with seq := (s.ctx k).seq, bun := s.pre.seq } :: (s.ctx k).accs) ∧
    (s.queueAccess k a).ctx k = { s.ctx k with seq := (s.ctx k).seq + 1, accs := l } := by
  let y : Access := { a with seq := (s.ctx k).seq, bun := s.pre.seq }
  let old : List Access := (s.ctx k).accs.filter fun b => decide (b.seq < s.pre.seq)
  let new : List Access := (s.ctx k).accs.filter fun b => !decide (b.seq < s.pre.seq)
  refine ⟨if y.isLoad then old ++ new.filter Access.isLoad ++ [y] ++ new.filter (fun b => !b.isLoad) else (s.ctx k).accs ++ [y], ?_, ?_⟩
  · split
    · have both : (new.filter Access.isLoad ++ new.filter fun b => !b.isLoad).Perm new := List.filter_append_perm ..
      have all : (old ++ new).Perm (s.ctx k).accs := List.filter_append_perm ..
      have first : (old ++ new.filter Access.isLoad ++ [y] ++ new.filter fun b => !b.isLoad).Perm
          (y :: ((old ++ new.filter Access.isLoad) ++ new.filter fun b => !b.isLoad)) := by
        rw [List.append_assoc _ [y]]
        exact List.perm_middle
      refine first.trans (List.Perm.cons _ ?_)
      rw [List.append_assoc]
      exact (both.append_left old).trans all
    · exact List.perm_append_singleton ..
  · unfold State.queueAccess
    dsimp only
    rw [State.ctx_modCtx_same]
    split <;> rfl
theorem State.mem_queueAccess (y : Access) : y ∈ ((s.queueAccess k a).ctx k).accs ↔
    y = { a with seq := (s.ctx k).seq, bun := s.pre.seq } ∨ y ∈ (s.ctx k).accs := by
  obtain ⟨l, perm, hc⟩ := s.queueAccess_ctx k a
  rw [hc]
  exact perm.mem_iff.trans List.mem_cons
theorem State.queued_mem : { a with seq := (s.ctx k).seq, bun := s.pre.seq } ∈ ((s.queueAccess k a).ctx k).accs :=
  (State.mem_queueAccess ..).mpr (.inl rfl)
theorem State.length_queueAccess : ((s.queueAccess k a).ctx k).accs.length = (s.ctx k).accs.length + 1 := by
  obtain ⟨l, perm, hc⟩ := s.queueAccess_ctx k a
  rw [hc]
  exact perm.length_eq
theorem State.queueAccess_regs : ((s.queueAccess k a).ctx k).regs = (s.ctx k).regs ∧ ((s.queueAccess k a).ctx k).flights = (s.ctx k).flights := by
  obtain ⟨l, perm, hc⟩ := s.queueAccess_ctx k a
  rw [hc]
  exact ⟨rfl, rfl⟩
theorem State.queueAccess_ctx_ne (j : Nat) (h : j ≠ k) : (s.queueAccess k a).ctx j = s.ctx j := by
  unfold State.queueAccess
  dsimp only
  rw [State.ctx_modCtx_ne _ _ _ _ h]
  split <;> rfl
theorem State.queueAccess_mem : (s.queueAccess k a).mem = s.mem := by
  unfold State.queueAccess
  dsimp only
  split <;> rfl
end

/-- From s to t accesses of context k have queued: its other state but memory and what the open bundle signs and holds for stays. -/
def State.Queues (k : Nat) (s t : State) : Prop :=
  s.Calm k t ∧ t.opened.map Open.acted = s.opened.map Open.acted ∧ ((t.ctx k).regs = (s.ctx k).regs ∧ (t.ctx k).flights = (s.ctx k).flights) ∧
    (∀ j, j ≠ k → t.ctx j = s.ctx j) ∧ ∀ y ∈ (s.ctx k).accs, y ∈ (t.ctx k).accs
theorem State.Queues.refl (k : Nat) (s : State) : s.Queues k s := ⟨.refl k s, rfl, ⟨rfl, rfl⟩, fun _ _ => rfl, fun _ hy => hy⟩
section
variable {k : Nat} {s t : State} (h : s.Queues k t)
include h
theorem State.Queues.calm : s.Calm k t := h.1
theorem State.Queues.acted : t.opened.map Open.acted = s.opened.map Open.acted := h.2.1
theorem State.Queues.regs : (t.ctx k).regs = (s.ctx k).regs := h.2.2.1.1
theorem State.Queues.flights : (t.ctx k).flights = (s.ctx k).flights := h.2.2.1.2
theorem State.Queues.others {j : Nat} (hj : j ≠ k) : t.ctx j = s.ctx j := h.2.2.2.1 j hj
theorem State.Queues.keeps {y : Access} (hy : y ∈ (s.ctx k).accs) : y ∈ (t.ctx k).accs := h.2.2.2.2 y hy
theorem State.Queues.trans {u : State} (hu : t.Queues k u) : s.Queues k u :=
  ⟨h.calm.trans hu.calm, hu.acted.trans h.acted, ⟨hu.regs.trans h.regs, hu.flights.trans h.flights⟩, fun _ hj => (hu.others hj).trans (h.others hj),
    fun _ hy => hu.keeps (h.keeps hy)⟩
theorem State.Queues.note (g b v : Nat) : s.Queues k (t.note g b v) := by
  have acted : (t.note g b v).opened.map Open.acted = t.opened.map Open.acted := by
    unfold State.note
    split
    · exact Option.map_map ..
    · rfl
  have same (j : Nat) : (t.note g b v).ctx j = t.ctx j := State.note_ctx ..
  exact h.trans ⟨(State.Calm.refl k t).note g b v, acted, ⟨by rw [same], by rw [same]⟩, fun j _ => same j, fun y hy => by rwa [same]⟩
theorem State.Queues.putN (key n v : Nat) : s.Queues k (t.putN key n v) := h
theorem State.Queues.clearPoison (key n : Nat) : s.Queues k (t.clearPoison key n) := h
theorem State.Queues.queueAccess (a : Access) : s.Queues k (t.queueAccess k a) := by
  have acted : (t.queueAccess k a).opened.map Open.acted = t.opened.map Open.acted := by
    unfold State.queueAccess
    dsimp only
    rw [State.modCtx_opened]
    split
    · exact Option.map_map ..
    · rfl
  exact h.trans ⟨(State.Calm.refl k t).queueAccess a, acted, t.queueAccess_regs k a, t.queueAccess_ctx_ne k a,
    fun y hy => (t.mem_queueAccess k a y).mpr (.inr hy)⟩
end

/-! The lanes' keys (R178). -/
section
variable {s : State} {k : Nat} {addr key : Nat → Nat}
theorem State.laneKeys_ok (hp : s.poison = []) {lanes : List Nat}
    (h : ∀ i ∈ lanes, addr i < 2 ^ 32 ∧ addr i % 4 = 0 ∧ s.padKey k (addr i) = some (key i)) :
    s.laneKeys k addr lanes = .ok (lanes.map fun i => (i, key i)) := by
  induction lanes with
  | nil => rfl
  | cons i r ih =>
    obtain ⟨small, aligned, mapped⟩ := h i (List.mem_cons_self ..)
    have clean : s.poisoned (key i) 4 = false := by simp [State.poisoned, hp]
    rw [State.laneKeys, Nat.mod_eq_of_lt small]
    rw [if_neg (not_not.mpr aligned), mapped, ih fun j hj => h j (List.mem_cons_of_mem _ hj)]
    dsimp only
    rw [clean]
    rfl
variable {i : Nat} {rest : List Nat} (small : addr i < 2 ^ 32)
include small
theorem State.laneKeys_misaligned (h : addr i % 4 ≠ 0) : s.laneKeys k addr (i :: rest) = .error (.trap 5 (addr i)) := by
  rw [State.laneKeys, Nat.mod_eq_of_lt small]
  exact if_pos h
theorem State.laneKeys_unmapped (h : addr i % 4 = 0) (hm : s.padKey k (addr i) = none) : s.laneKeys k addr (i :: rest) = .error (.trap 6 (addr i)) := by
  rw [State.laneKeys, Nat.mod_eq_of_lt small]
  rw [if_neg (not_not.mpr h), hm]
end

/-! What the lanes add to the list. -/
/-- The access of a lane's word at a key. -/
def laneAccessAt (s : State) (a : Access) (key : Nat) : Access := { a with key := key, width := 32, scope := s.scope, part := s.pre.part }
theorem laneAccessAt_calm {s t : State} {k : Nat} (h : s.Calm k t) (o : s.opened.isSome = true) (a : Access) (key : Nat) :
    laneAccessAt t a key = laneAccessAt s a key := by
  unfold laneAccessAt
  rw [h.scope, h.pre o]
/-- The word of a lane at its key has joined the list, where it does not act at once; `a` is its access. -/
def State.Joined (s : State) (k : Nat) (a : Nat → Access) (t : State) (x : Nat × Nat) : Prop :=
  (s.ctx k).exact = true ∨ isOwn k x.2 = false →
    ∃ q, { laneAccessAt s (a x.1) x.2 with seq := q, bun := s.pre.seq, own := isOwn k x.2 } ∈ (t.ctx k).accs
theorem State.Joined.kept {s t u : State} {k : Nat} {a : Nat → Access} {x : Nat × Nat} (h : s.Joined k a t x) (hu : t.Queues k u) : s.Joined k a u x :=
  fun hw => (h hw).imp fun _ hq => hu.keeps hq
theorem State.Queues.joins {s r : State} {k : Nat} (h : s.Queues k r) (o : s.opened.isSome = true) (a : Nat → Access) (x : Nat × Nat) :
    s.Joined k a (r.queueAccess k { laneAccessAt s (a x.1) x.2 with own := isOwn k x.2 }) x := by
  have queued := r.queued_mem k { laneAccessAt s (a x.1) x.2 with own := isOwn k x.2 }
  rw [h.calm.pre o] at queued
  exact fun _ => ⟨_, queued⟩
theorem joined_iff {s t : State} {k i key : Nat} {a : Nat → Access} : s.Joined k a t (i, key) ↔
    ((s.ctx k).exact = true ∨ key / spaceSize ≠ padSpace (coreOf k) →
      ∃ q, { a i with key := key, part := s.pre.part, scope := s.scope, width := 32, seq := q, bun := s.pre.seq,
                      own := decide (key / spaceSize = padSpace (coreOf k)) } ∈ (t.ctx k).accs) := by
  have own : (isOwn k key = false) = (key / spaceSize ≠ padSpace (coreOf k)) := propext beq_eq_false_iff_ne
  unfold State.Joined
  dsimp only
  rw [own]
  rfl
/-- An access has acted and brings a lane its value, to land by its due. -/
def State.Brought (t : State) (k : Nat) (l : Loc) (due : Nat) (z : Nat × Nat) : Prop :=
  ∃ y ∈ (t.ctx k).accs, y.kind = .done ∧ y.dst = some l ∧ y.shift = 32 * z.1 ∧ y.width = 32 ∧ y.cls = 1 ∧ y.due = due ∧ y.val = z.2
theorem State.Brought.kept {t u : State} {k : Nat} {l : Loc} {due : Nat} {z : Nat × Nat} (h : t.Brought k l due z) (hu : t.Queues k u) :
    u.Brought k l due z := by
  obtain ⟨y, hy, hz⟩ := h
  exact ⟨y, hu.keeps hy, hz⟩

/-! Loads (R179, R181). -/
/-- What a load does for a lane. -/
def State.loadLane (k : Nat) (l : Loc) (due : Nat) (addr : Nat → Nat) (s : State) (x : Nat × Nat) : State :=
  let s := s.note 5 4 (addr x.1)
  let a := laneAccessAt s (Claims.laneAccess .load l x.1 due) x.2
  if isOwn k x.2 then s.ownAccess k a else s.queueLoad k a
section
variable {s : State} {u : VUnit} {d : Dst} {mask : Nat} {addr : Nat → Nat} {keys : List (Nat × Nat)}
  (hk : s.laneKeys s.me addr (activeLanes mask) = .ok keys)
include hk
theorem State.vload_void (hl : vLoc u d = none) : s.vload u d mask addr = .ok (keys.foldl (fun s x => s.note 5 4 (addr x.1)) s) := by
  unfold State.vload
  dsimp only
  rw [hk, ok_bind, hl]
theorem State.vload_ok {l : Loc} (hl : vLoc u d = some l) (clear : s.pre.locked l = false) : s.vload u d mask addr =
    .ok (keys.foldl (State.loadLane s.me l (s.after (coreOf s.me) 1 (if keys.any fun x => !isOwn s.me x.2 then 14 else 8)) addr) s) := by
  unfold State.vload
  dsimp only
  rw [hk, ok_bind, hl]
  exact if_neg (by rw [clear]; exact Bool.false_ne_true)
end
/-- The steps of a fold bring about what each of them adds, where the others keep it. -/
theorem foldl_adds {α β : Type} {R : β → Prop} {M : β → α → Prop} {f : β → α → β} {l : List α} (hR : ∀ b, ∀ a ∈ l, R b → R (f b a))
    (added : ∀ b, ∀ a ∈ l, R b → M (f b a) a) (kept : ∀ b, ∀ a ∈ l, R b → ∀ c, M b c → M (f b a) c) {b : β} (h : R b) :
    ∀ a ∈ l, M (l.foldl f b) a := by
  induction l generalizing b with
  | nil => exact fun _ ha => nomatch ha
  | cons x l ih =>
    have rest := ih (fun b a ha => hR b a (.tail _ ha)) (fun b a ha => added b a (.tail _ ha)) (fun b a ha => kept b a (.tail _ ha))
      (b := f b x) (hR b x (.head _) h)
    intro a ha
    rcases List.mem_cons.mp ha with rfl | ha
    · exact (List.foldlRecOn l f (motive := fun b => R b ∧ M b a) ⟨hR b a (.head _) h, added b a (.head _) h⟩
        fun c hc y hy => ⟨hR c y (.tail _ hy) hc.1, kept c y (.tail _ hy) hc.1 a hc.2⟩).2
    · exact rest a ha

/-- A load waits where no segment is open and nothing of its bundle has acted (R303, R304). -/
theorem State.queueLoad_waits {s : State} {k : Nat} {a : Access} (o : s.opened.map Open.acted = some false) (hs : s.pre.seg = none) :
    s.queueLoad k a = s.queueAccess k a := by
  have queued := (State.Queues.refl k s).queueAccess a
  obtain ⟨b, hb, hacted⟩ := Option.map_eq_some_iff.mp (queued.acted.trans o)
  have isSome : s.opened.isSome = true := by simpa using congrArg Option.isSome o
  unfold State.queueLoad
  dsimp only
  rw [queued.calm.pre isSome, hs, hb]
  exact if_pos (by simp [hacted])
section
variable {k : Nat} {l : Loc} {due : Nat} {addr : Nat → Nat} {s r : State} {x : Nat × Nat}
theorem State.Calm.loadLane (h : s.Calm k r) : s.Calm k (r.loadLane k l due addr x) :=
  .ite ((h.note ..).ownAccess _) ((h.note ..).queueLoad _)
variable (h : s.Queues k r) (o : s.opened.isSome = true)
include h o
/-- A lane's own word is read at once (R305). -/
theorem State.Queues.loadLane_own (ho : isOwn k x.2 = true) (he : (s.ctx k).exact = false) : r.loadLane k l due addr x =
    (r.note 5 4 (addr x.1)).queueDone k (laneAccessAt s (Claims.laneAccess .load l x.1 due) x.2) (s.loadMem.getN x.2 4) := by
  have noted := h.note 5 4 (addr x.1)
  have now : ((r.note 5 4 (addr x.1)).ctx k).exact = false := noted.calm.exact.trans he
  unfold State.loadLane
  dsimp only
  rw [if_pos ho, laneAccessAt_calm noted.calm o, ← noted.calm.loadMem o, State.ownAccess, if_neg (by rw [now]; exact Bool.false_ne_true)]
  rfl
/-- The other words wait, and the own ones of a context that runs exactly, marked. -/
theorem State.Queues.loadLane_waits (ha : s.opened.map Open.acted = some false) (hs : s.pre.seg = none)
    (hw : (s.ctx k).exact = true ∨ isOwn k x.2 = false) : r.loadLane k l due addr x =
      (r.note 5 4 (addr x.1)).queueAccess k { laneAccessAt s (Claims.laneAccess .load l x.1 due) x.2 with own := isOwn k x.2 } := by
  have noted := h.note 5 4 (addr x.1)
  have acted := noted.acted.trans ha
  have closed : (r.note 5 4 (addr x.1)).pre.seg = none := by rw [noted.calm.pre o, hs]
  unfold State.loadLane
  dsimp only
  rw [laneAccessAt_calm noted.calm o]
  cases ho : isOwn k x.2 with
  | false => exact (if_neg Bool.false_ne_true).trans (State.queueLoad_waits acted closed)
  | true =>
    have now : ((r.note 5 4 (addr x.1)).ctx k).exact = true := noted.calm.exact.trans (hw.resolve_right (by rw [ho]; decide))
    rw [if_pos rfl, State.ownAccess, if_pos now]
    exact State.queueLoad_waits acted closed
end

/-! A load's lanes together. -/
theorem State.note_mem (s : State) (g b v : Nat) : (s.note g b v).mem = s.mem := congrArg World.mem (s.note_toWorld g b v)
/-- A number that each step of a fold raises by one. -/
theorem foldl_counts {α β : Type} {R : β → Prop} {n : β → Nat} {f : β → α → β} {l : List α} (hR : ∀ b, ∀ a ∈ l, R b → R (f b a))
    (hn : ∀ b, ∀ a ∈ l, R b → n (f b a) = n b + 1) {b : β} (h : R b) : n (l.foldl f b) = n b + l.length := by
  induction l generalizing b with
  | nil => rfl
  | cons x l ih =>
    rw [List.foldl_cons, ih (fun b a ha => hR b a (.tail _ ha)) (fun b a ha => hn b a (.tail _ ha)) (hR b x (.head _) h), hn b x (.head _) h,
      List.length_cons]
    omega
/-- The bound of a vector access (R181). -/
theorem lands_eq (s : State) (g : Guard) (key : Nat → Nat) :
    s.after (coreOf s.me) 1 (if ((Claims.active g s).map fun i => (i, key i)).any fun x => !isOwn s.me x.2 then 14 else 8) = Claims.lands s g key := by
  have all : ((Claims.active g s).map fun i => (i, key i)).any (fun x => !isOwn s.me x.2) =
      !(Claims.active g s).all fun i => key i / spaceSize == padSpace (coreOf s.me) := by
    rw [List.any_map, List.not_all_eq_any_not]
    rfl
  unfold Claims.lands
  rw [all]
  cases (Claims.active g s).all fun i => key i / spaceSize == padSpace (coreOf s.me) <;> rfl
theorem isOwn_iff {k key : Nat} : isOwn k key = true ↔ key / spaceSize = padSpace (coreOf k) := beq_iff_eq
section
variable {k : Nat} {l : Loc} {due : Nat} {addr : Nat → Nat} {s : State} {keys : List (Nat × Nat)} (o : s.opened.isSome = true)
include o
theorem State.loadLanes_join (ha : s.opened.map Open.acted = some false) (hs : s.pre.seg = none) : ∀ x ∈ keys,
    s.Joined k (fun i => Claims.laneAccess .load l i due) (keys.foldl (State.loadLane k l due addr) s) x := by
  have step (r : State) (x : Nat × Nat) (h : s.Queues k r) : s.Queues k (r.loadLane k l due addr x) ∧ r.Queues k (r.loadLane k l due addr x) := by
    by_cases hw : (s.ctx k).exact = true ∨ isOwn k x.2 = false
    · rw [h.loadLane_waits o ha hs hw]
      exact ⟨(h.note ..).queueAccess _, ((State.Queues.refl k r).note ..).queueAccess _⟩
    · rw [not_or, Bool.not_eq_true, Bool.not_eq_false] at hw
      rw [h.loadLane_own o hw.2 hw.1]
      exact ⟨(h.note ..).queueAccess _, ((State.Queues.refl k r).note ..).queueAccess _⟩
  refine foldl_adds (fun r x _ h => (step r x h).1) (fun r x _ h hw => ?_) (fun r x _ h y hy => hy.kept (step r x h).2) (.refl k s)
  rw [h.loadLane_waits o ha hs hw]
  exact (h.note ..).joins o (fun i => Claims.laneAccess .load l i due) x hw
theorem State.loadLanes_own (he : (s.ctx k).exact = false) (ho : ∀ x ∈ keys, isOwn k x.2 = true) :
    let t := keys.foldl (State.loadLane k l due addr) s
    s.Queues k t ∧ t.mem = s.mem ∧ (t.ctx k).accs.length = (s.ctx k).accs.length + keys.length ∧
      ∀ x ∈ keys, t.Brought k l due (x.1, s.loadMem.getN x.2 4) := by
  have step (r : State) (x : Nat × Nat) (hx : x ∈ keys) (h : s.Queues k r ∧ r.mem = s.mem) :
      s.Queues k (r.loadLane k l due addr x) ∧ (r.loadLane k l due addr x).mem = s.mem := by
    rw [h.1.loadLane_own o (ho x hx) he]
    exact ⟨(h.1.note ..).queueAccess _, (State.queueAccess_mem ..).trans ((State.note_mem ..).trans h.2)⟩
  have all := List.foldlRecOn keys (State.loadLane k l due addr) (motive := fun r => s.Queues k r ∧ r.mem = s.mem) ⟨.refl k s, rfl⟩
    fun r h x hx => step r x hx h
  refine ⟨all.1, all.2, ?count, ?words⟩
  case count =>
    refine foldl_counts (n := fun r => (r.ctx k).accs.length) step (fun r x hx h => ?_) ⟨.refl k s, rfl⟩
    rw [h.1.loadLane_own o (ho x hx) he, State.queueDone, State.length_queueAccess, State.note_ctx]
  case words =>
    refine foldl_adds (M := fun t x => t.Brought k l due (x.1, s.loadMem.getN x.2 4)) step (fun r x hx h => ?_) (fun r x hx h z hz => ?_) ⟨.refl k s, rfl⟩
    · rw [h.1.loadLane_own o (ho x hx) he]
      exact ⟨_, (State.mem_queueAccess ..).mpr (.inl rfl), rfl, rfl, rfl, rfl, rfl, rfl, rfl⟩
    · rw [h.1.loadLane_own o (ho x hx) he]
      exact hz.kept (((State.Queues.refl k r).note ..).queueAccess _)
end

/-! Vector loads (Table 8-7). -/
/-- The access of an instruction of `Claims.places`, with its addresses. -/
theorem places_exec : ∀ e ∈ Claims.places, ∃ f : Nat → Nat → Nat → Nat, (∀ u x s, exec (e.1 u x) s = vloadOp u x f s) ∧
    (∀ u x s, exec (e.2.1 u x) s = vstoreOp u x f s) ∧ ∀ a b i, f a b i % 2 ^ 32 = (e.2.2 a b i).toNat := by
  simp only [Claims.places, List.forall_mem_cons]
  refine ⟨⟨unitAddr, fun _ _ _ => rfl, fun _ _ _ => rfl, fun a b i => ?_⟩, ⟨stridedAddr, fun _ _ _ => rfl, fun _ _ _ => rfl, fun a b i => ?_⟩,
    ⟨indexedAddr, fun _ _ _ => rfl, fun _ _ _ => rfl, fun a b i => ?_⟩, fun _ h => nomatch h⟩
  · simp [unitAddr, Claims.b32, BitVec.toNat_add, BitVec.toNat_mul]
  · simp [stridedAddr, Claims.b32, BitVec.toNat_add, BitVec.toNat_mul]
  · simp [indexedAddr, Claims.b32, BitVec.toNat_add]
section
variable {i : Instr} {u : VUnit} {g : Guard} {d : Dst} {s : State} {body : State → Nat → Res State} {addr key : Nat → Nat}
  (hi : exec i s = runLanes u g s body) (on : Claims.Lanes g s)
include hi on
theorem runLanes_answers {t : State} (hb : body s (Claims.act g s) = .ok t) : exec i s = .next t := hi.trans (runLanes_ok u g s t body on.1 on.2 hb)
theorem vload_gives (hb : body s (Claims.act g s) = s.vload u d (Claims.act g s) addr) (small : ∀ i, addr i < 2 ^ 32)
    (reaches : Claims.Reaches s g addr key) (hp : s.poison = []) (clear : Claims.Clear s (vLoc u d)) :
    ∃ t, exec i s = .next t ∧ Claims.NoTrap s t ∧ Claims.LaneLoads u d g s t key (Claims.Loads u d g s t key) := by
  have hk : s.laneKeys s.me addr (activeLanes (Claims.act g s)) = .ok ((Claims.active g s).map fun i => (i, key i)) := by
    rw [activeLanes_act]
    exact State.laneKeys_ok hp fun i hi => ⟨small i, reaches i hi⟩
  cases hl : vLoc u d with
  | none =>
    obtain ⟨queues, world⟩ := List.foldlRecOn ((Claims.active g s).map fun i => (i, key i)) (fun (s : State) x => s.note 5 4 (addr x.1))
      (motive := fun r => s.Queues s.me r ∧ r.toWorld = s.toWorld) ⟨.refl _ s, rfl⟩ fun r h x _ => ⟨h.1.note .., (State.note_toWorld ..).trans h.2⟩
    refine ⟨_, runLanes_answers hi on (hb.trans (State.vload_void hk hl)), queues.calm.noTrap, fun _ _ => ?_, fun _ _ h => nomatch hl.symm.trans h⟩
    exact ⟨congrArg World.mem world, queues.regs, queues.flights, fun j hj => queues.others hj, fun l h => (nomatch hl.symm.trans h),
      fun _ => congrArg (fun w : World => (Tbl.getD w.ctxs s.me Ctx.zero).accs) world⟩
  | some l =>
    let keys := (Claims.active g s).map fun i => (i, key i)
    let due := s.after (coreOf s.me) 1 (if keys.any fun x => !isOwn s.me x.2 then 14 else 8)
    have calm : s.Calm s.me (keys.foldl (State.loadLane s.me l due addr) s) := (State.Calm.refl s.me s).foldl (fun _ _ h => h.loadLane) _
    refine ⟨_, runLanes_answers hi on (hb.trans (State.vload_ok hk hl (clear l hl))), calm.noTrap, fun he own => ?own, fun alone m hm => ?waits⟩
    case own =>
      have ho : ∀ x ∈ keys, isOwn s.me x.2 = true := List.forall_mem_map.mpr fun i hi => isOwn_iff.mpr (own i hi)
      have near : due = s.after (coreOf s.me) 1 8 := by
        have none : keys.any (fun x => !isOwn s.me x.2) = false := List.any_eq_false.mpr fun x hx => by simp [ho x hx]
        simp only [due, none]
        rfl
      obtain ⟨queues, mem, count, words⟩ := State.loadLanes_own (due := due) (addr := addr) (l := l) on.1 he ho
      refine ⟨mem, queues.regs, queues.flights, fun j hj => queues.others hj, fun m hm => ?_, fun h => nomatch hl.symm.trans h⟩
      obtain rfl : l = m := Option.some.inj (hl.symm.trans hm)
      exact ⟨count.trans (by rw [List.length_map]), fun y hy => queues.keeps hy, fun i hi => near ▸ words (i, key i) (List.mem_map_of_mem (f := fun i => (i, key i)) hi)⟩
    case waits =>
      obtain rfl : l = m := Option.some.inj (hl.symm.trans hm)
      intro i hi hw
      have joined := State.loadLanes_join (k := s.me) (due := due) (addr := addr) (l := l) on.1 alone.2.2 alone.1 (i, key i) (List.mem_map_of_mem (f := fun i => (i, key i)) hi)
      rw [← lands_eq]
      exact (joined_iff.mp joined) hw
end

end Sys2Proof.Machine

namespace Sys2Proof.Machine

/-!
PROOFS. O39: vector stores. An entry of the log and one of the buffer are taken first, then the lanes act in order.
-/

/-! Entries taken before the lanes act. -/
/-- From s to t only the segment of context k has changed. -/
def State.Reseg (k : Nat) (s t : State) : Prop :=
  t.mem = s.mem ∧ t.opened = s.opened ∧ t.now = s.now ∧ (∀ j, j ≠ k → t.ctx j = s.ctx j) ∧ ∃ g, t.ctx k = { s.ctx k with seg := g }
theorem State.Reseg.refl (k : Nat) (s : State) : s.Reseg k s := ⟨rfl, rfl, rfl, fun _ _ => rfl, _, rfl⟩
theorem State.Reseg.trans {k : Nat} {s t u : State} (h : s.Reseg k t) (hu : t.Reseg k u) : s.Reseg k u := by
  obtain ⟨m, o, n, c, g, hg⟩ := h
  obtain ⟨m', o', n', c', g', hg'⟩ := hu
  exact ⟨m'.trans m, o'.trans o, n'.trans n, fun j hj => (c' j hj).trans (c j hj), g', by rw [hg', hg]⟩
theorem State.Reseg.modCtx (k : Nat) (s : State) (g : Option Seg) : s.Reseg k (s.modCtx k fun c => { c with seg := g }) :=
  ⟨rfl, rfl, rfl, fun _ hj => State.ctx_modCtx_ne _ _ _ _ hj, g, State.ctx_modCtx_same ..⟩
/-- Older accesses that have acted need not act. -/
theorem State.settleFor_done {s : State} {k : Nat} {older : List Access} {a : Access} (h : ∀ y ∈ older, y.kind = .done) : s.settleFor k older a = s := by
  have none (front : List Access) (l : List Access) (hl : ∀ y ∈ l, y.kind = .done) : neededFor front l = [] := by
    induction l with
    | nil => rfl
    | cons b r ih =>
      have idle : front.any b.before = false := by simp [Access.before, hl b (.head _)]
      rw [neededFor, idle]
      exact (if_neg Bool.false_ne_true).trans (ih fun y hy => hl y (.tail _ hy))
  unfold State.settleFor
  rw [none _ _ fun y hy => h y (List.mem_reverse.mp hy)]
  rfl
/-- The words of the own scratchpad. -/
def ownLanes (k : Nat) (keys : List (Nat × Nat)) : List (Nat × Nat) := keys.filter fun x => isOwn k x.2
/-- The entry of the log that a store or an atomic of some words takes. -/
def State.logLanes (s : State) (k : Nat) (keys : List (Nat × Nat)) : Res State :=
  if ownLanes k keys = [] then .ok s else s.logOwn k ((ownLanes k keys).map fun x => (x.2, 4))
/-- What the entries that an access takes leave: nothing raised, without a segment nothing at all, and the segment alone where no access has still to
act before it. -/
def State.Entered (k : Nat) (acts : Prop) (s t : State) : Prop :=
  Claims.NoTrap s t ∧ ((s.ctx k).seg = none → t = s) ∧ (((s.ctx k).seg.isSome = true → acts) → s.Reseg k t)
theorem State.Entered.refl (k : Nat) (acts : Prop) (s : State) : s.Entered k acts s := ⟨rfl, fun _ => rfl, fun _ => .refl k s⟩
section
variable {s : State} {k : Nat}
/-- The older accesses to the cells of a log entry act before it. -/
def State.settleCells (s : State) (k : Nat) (cells : List (Nat × Nat)) : State :=
  cells.foldl (fun s x => s.settleFor k (s.ctx k).accs { Access.blank .store x.2 with key := x.1 }) s
theorem State.settleCells_done {cells : List (Nat × Nat)} (h : ∀ y ∈ (s.ctx k).accs, y.kind = .done) : s.settleCells k cells = s :=
  List.foldlRecOn cells _ (motive := (· = s)) rfl fun t ht x _ => by
    rw [ht]
    exact State.settleFor_done h
theorem State.logOwn_entry {g : Seg} (hs : (s.ctx k).seg = some g) (room : g.logged < 512) (cells : List (Nat × Nat)) :
    ∃ g' : Seg, g'.used = g.used ∧ g'.atoms = g.atoms ∧
      s.logOwn k cells = .ok ((s.settleCells k cells).modCtx k fun c => { c with seg := some g' }) := by
  unfold State.logOwn
  rw [hs]
  refine ⟨_, ?used, ?atoms, if_neg (Nat.not_le.mpr room)⟩
  all_goals rfl
theorem State.logLanes_enters (keys : List (Nat × Nat)) (room : ∀ g ∈ (s.ctx k).seg, g.logged < 512) : ∃ t, s.logLanes k keys = .ok t ∧
    s.Entered k (∀ y ∈ (s.ctx k).accs, y.kind = .done) t ∧
    (t.ctx k).seg.map (fun g => (g.used, g.atoms)) = (s.ctx k).seg.map fun g => (g.used, g.atoms) := by
  unfold State.logLanes
  split
  · exact ⟨s, rfl, .refl .., rfl⟩
  · cases hs : (s.ctx k).seg with
    | none => exact ⟨s, State.logOwn_closed hs, .refl .., by rw [hs]⟩
    | some g =>
      obtain ⟨g', used, atoms, hlog⟩ := State.logOwn_entry hs (room g hs) ((ownLanes k keys).map fun x => (x.2, 4))
      have calm : s.Calm k (s.settleCells k ((ownLanes k keys).map fun x => (x.2, 4))) := (State.Calm.refl k s).foldl (fun _ _ h => h.settleFor _ _) _
      refine ⟨_, hlog, ⟨calm.noTrap, fun h => (nomatch hs.symm.trans h), fun h => ?_⟩, ?_⟩
      · rw [State.settleCells_done (h (by rw [hs]; rfl))]
        exact State.Reseg.modCtx k s _
      · rw [State.ctx_modCtx_same]
        simp [used, atoms]
theorem State.performBuf_calm {g : Seg} (hs : (s.ctx k).seg = some g) :
    (s.modCtx k fun c => { c with seg := some { g with buf := [], used := g.atoms } }).Calm k (s.performBuf k) := by
  unfold State.performBuf
  rw [hs]
  dsimp only
  refine .ite (State.Calm.modCore (State.Calm.foldl (.refl k _) ?_ _)) (State.Calm.foldl (.refl k _) ?_ _)
  all_goals exact fun t a h => State.Calm.perform (.ite ((h.settleFor _ _).keepOld ..) (h.settleFor _ _)) a
theorem State.bufEntry_enters (elsewhere atom : Bool) (room : ∀ g ∈ (s.ctx k).seg, g.used < 256 ∧ g.atoms < 256) :
    ∃ t, s.bufEntry k elsewhere atom = .ok t ∧ s.Entered k ((elsewhere && atom) = false) t := by
  cases hs : (s.ctx k).seg with
  | none =>
    refine ⟨s, ?_, .refl ..⟩
    cases elsewhere with
    | false =>
      unfold State.bufEntry
      rw [Bool.false_and, if_neg Bool.false_ne_true]
      dsimp only
      rw [hs]
    | true =>
      cases atom with
      | false => exact State.bufEntry_closed hs
      | true => exact State.bufEntry_atom_closed hs
  | some g =>
    obtain ⟨used, atoms⟩ := room g hs
    cases elsewhere with
    | false =>
      refine ⟨s, ?_, .refl ..⟩
      unfold State.bufEntry
      rw [Bool.false_and, if_neg Bool.false_ne_true]
      dsimp only
      rw [hs]
      rfl
    | true =>
      cases atom with
      | false =>
        refine ⟨_, State.bufEntry_room hs used, rfl, fun h => ?_, fun _ => State.Reseg.modCtx ..⟩
        rw [hs] at h
        cases h
      | true =>
        have calm := State.performBuf_calm hs
        have seg : ((s.performBuf k).ctx k).seg = some { g with buf := [], used := g.atoms } := calm.seg.trans (by rw [State.ctx_modCtx_same])
        refine ⟨_, State.bufEntry_atom_room seg atoms, calm.noTrap, fun h => ?_, fun h => ?_⟩
        · rw [hs] at h
          cases h
        · cases h (by rw [hs]; rfl)
/-- Both entries. -/
theorem State.lanes_enter (keys : List (Nat × Nat)) (elsewhere atom : Bool) (room : ∀ g ∈ (s.ctx k).seg, g.logged < 512 ∧ g.used < 256 ∧ g.atoms < 256) :
    ∃ r t, s.logLanes k keys = .ok r ∧ r.bufEntry k elsewhere atom = .ok t ∧
      s.Entered k ((∀ y ∈ (s.ctx k).accs, y.kind = .done) ∧ (elsewhere && atom) = false) t := by
  obtain ⟨r, hr, ⟨noTrap, closed, reseg⟩, same⟩ := State.logLanes_enters keys fun g hg => (room g hg).1
  have room' : ∀ g ∈ (r.ctx k).seg, g.used < 256 ∧ g.atoms < 256 := by
    intro g hg
    rw [show (r.ctx k).seg = some g from hg] at same
    obtain ⟨g', hg', e⟩ := Option.map_eq_some_iff.mp same.symm
    have entries := room g' hg'
    simp only [Prod.mk.injEq] at e
    rw [← e.1, ← e.2]
    exact entries.2
  obtain ⟨t, ht, noTrap', closed', reseg'⟩ := State.bufEntry_enters elsewhere atom room'
  refine ⟨r, t, hr, ht, noTrap'.trans noTrap, fun h => ?_, fun h => ?_⟩
  · obtain rfl := closed h
    exact closed' h
  · have seg : (r.ctx k).seg.isSome = (s.ctx k).seg.isSome := by simpa using congrArg Option.isSome same
    exact (reseg fun e => (h e).1).trans (reseg' fun e => (h (seg ▸ e)).2)
end

/-- Without a load of the bundle at hand to read first, a store or atomic of it only marks that it acts (R304). -/
theorem State.loadsFirst_idle {s : State} {k : Nat} (h : ∀ y ∈ (s.ctx k).accs, y.isLoad = true → y.bun ≠ s.pre.seq) :
    s.loadsFirst k = s.modOpen fun o => { o with acted := true } := by
  refine List.foldlRecOn (motive := (· = s.modOpen fun o => { o with acted := true })) (s.ctx k).accs _ rfl fun t ht y hy => ?_
  rw [if_neg fun e => h y hy e.1 e.2]
  exact ht

/-! Stores (R179, R180). -/
/-- The access of a lane's store at a time. -/
def storeAccess (s : State) (k : Nat) (data : Nat → Nat) (x : Nat × Nat) : Access :=
  { Access.blank .store 4 with val := data x.1 % 2 ^ 32, due := s.now + paddedTime (coreOf k) x.2 }
/-- What a store does for a lane. -/
def State.storeLane (k : Nat) (addr data : Nat → Nat) (s : State) (x : Nat × Nat) : State :=
  let s := (s.note 4 4 (addr x.1)).note 4 4 (data x.1)
  let a := laneAccessAt s (storeAccess s k data x) x.2
  if isOwn k x.2 then s.ownAccess k a else s.remoteStore k a
theorem State.vstore_ok {s r t : State} {mask : Nat} {addr data : Nat → Nat} {keys : List (Nat × Nat)}
    (hk : ({ s with poison := [] } : State).laneKeys s.me addr (activeLanes mask) = .ok keys) (hr : s.logLanes s.me keys = .ok r)
    (ht : r.bufEntry s.me (keys.any fun x => !isOwn s.me x.2) false = .ok t) :
    s.vstore mask addr data = .ok (keys.foldl (State.storeLane s.me addr data) (t.ownFirst s.me (ownLanes s.me keys != []))) := by
  unfold State.logLanes ownLanes at hr
  unfold State.vstore
  dsimp only
  rw [hk, ok_bind]
  by_cases h : (keys.filter fun x => isOwn s.me x.2) = []
  · rw [if_pos h] at hr ⊢
    cases hr
    rw [ok_bind, ht, ok_bind]
    rfl
  · rw [if_neg h] at hr ⊢
    rw [hr, ok_bind, ht, ok_bind]
    rfl
section
variable {k : Nat} {addr data : Nat → Nat} {s r : State} {x : Nat × Nat}
theorem State.noTrap_remoteStore (r : State) (k : Nat) (a : Access) : Claims.NoTrap r (r.remoteStore k a) := by
  unfold State.remoteStore
  split
  · exact ((State.Calm.refl k r).queueAccess a).noTrap
  · rfl
theorem State.noTrap_storeLane (r : State) (k : Nat) (x : Nat × Nat) : Claims.NoTrap r (r.storeLane k addr data x) := by
  have noted := ((State.Calm.refl k r).note 4 4 (addr x.1)).note 4 4 (data x.1)
  unfold State.storeLane
  dsimp only
  split
  · exact (noted.ownAccess _).noTrap
  · exact (State.noTrap_remoteStore _ k _).trans noted.noTrap
variable (h : s.Queues k r) (o : s.opened.isSome = true)
include h o
/-- A lane's own word is written at once (R305). -/
theorem State.Queues.storeLane_own (ho : isOwn k x.2 = true) (he : (s.ctx k).exact = false) : ∃ u : State, s.Queues k u ∧ r.Queues k u ∧
    u.mem = r.mem ∧ r.storeLane k addr data x =
      ((u.putN x.2 4 (data x.1 % 2 ^ 32)).clearPoison x.2 4).queueDone k (laneAccessAt s (storeAccess s k data x) x.2) 0 := by
  have noted := (h.note 4 4 (addr x.1)).note 4 4 (data x.1)
  refine ⟨_, noted, ((State.Queues.refl k r).note ..).note .., (State.note_mem ..).trans (State.note_mem ..), ?_⟩
  have now : ((((r.note 4 4 (addr x.1)).note 4 4 (data x.1))).ctx k).exact = false := noted.calm.exact.trans he
  unfold State.storeLane storeAccess
  dsimp only
  rw [if_pos ho, State.ownAccess_store now rfl, laneAccessAt_calm noted.calm o, noted.calm.now]
  rfl
/-- The other words wait, where no segment is open, and so do the own ones of a context that runs exactly, marked. -/
theorem State.Queues.storeLane_waits (hs : (s.ctx k).seg = none) (hw : (s.ctx k).exact = true ∨ isOwn k x.2 = false) :
    ∃ u : State, s.Queues k u ∧ r.Queues k u ∧ r.storeLane k addr data x =
      u.queueAccess k { laneAccessAt s (storeAccess s k data x) x.2 with own := isOwn k x.2 } := by
  have noted := (h.note 4 4 (addr x.1)).note 4 4 (data x.1)
  refine ⟨_, noted, ((State.Queues.refl k r).note ..).note .., ?_⟩
  unfold State.storeLane storeAccess
  dsimp only
  rw [laneAccessAt_calm noted.calm o, noted.calm.now]
  cases ho : isOwn k x.2 with
  | false => exact (if_neg Bool.false_ne_true).trans (State.remoteStore_closed (noted.calm.seg.trans hs))
  | true => exact (if_pos rfl).trans (State.ownAccess_exact (noted.calm.exact.trans (hw.resolve_right (by rw [ho]; decide))) rfl)
end
/-- The words that wait, in their lanes' order. -/
theorem State.storeLanes_join {k : Nat} {addr data : Nat → Nat} {s : State} {keys : List (Nat × Nat)} (o : s.opened.isSome = true)
    (hs : (s.ctx k).seg = none) (key : Nat → Nat) (hkey : ∀ x ∈ keys, key x.1 = x.2) : ∀ x ∈ keys,
    s.Joined k (fun i => storeAccess s k data (i, key i)) (keys.foldl (State.storeLane k addr data) s) x := by
  have step (r : State) (x : Nat × Nat) (h : s.Queues k r) :
      s.Queues k (r.storeLane k addr data x) ∧ r.Queues k (r.storeLane k addr data x) := by
    by_cases hw : (s.ctx k).exact = true ∨ isOwn k x.2 = false
    · obtain ⟨u, hsu, hru, e⟩ := h.storeLane_waits (addr := addr) (data := data) o hs hw
      rw [e]
      exact ⟨hsu.queueAccess _, hru.queueAccess _⟩
    · rw [not_or, Bool.not_eq_true, Bool.not_eq_false] at hw
      obtain ⟨u, hsu, hru, _, e⟩ := h.storeLane_own (addr := addr) (data := data) o hw.2 hw.1
      rw [e]
      exact ⟨State.Queues.queueAccess (t := (u.putN ..).clearPoison ..) hsu _, State.Queues.queueAccess (t := (u.putN ..).clearPoison ..) hru _⟩
  refine foldl_adds (fun r x _ h => (step r x h).1) (fun r x hx h hw => ?_) (fun r x _ h y hy => hy.kept (step r x h).2) (.refl k s)
  obtain ⟨u, hsu, _, e⟩ := h.storeLane_waits (addr := addr) (data := data) o hs hw
  rw [e]
  have joins := hsu.joins o (fun i => storeAccess s k data (i, key i)) x hw
  rwa [hkey x hx] at joins
/-- The own words: in the lanes' order, the last one of a word remaining. -/
theorem State.storeLanes_own {k : Nat} {addr data : Nat → Nat} {s : State} {keys : List (Nat × Nat)} (o : s.opened.isSome = true)
    (he : (s.ctx k).exact = false) (ho : ∀ x ∈ keys, isOwn k x.2 = true) (r : State) (h : s.Queues k r) :
    let t := keys.foldl (State.storeLane k addr data) r
    s.Queues k t ∧ t.mem = keys.foldl (fun m x => m.putN x.2 4 (data x.1 % 2 ^ 32)) r.mem := by
  induction keys generalizing r with
  | nil => exact ⟨h, rfl⟩
  | cons x keys ih =>
    obtain ⟨u, hsu, _, hm, e⟩ := h.storeLane_own (addr := addr) (data := data) o (ho x (.head _)) he
    have step : s.Queues k (r.storeLane k addr data x) := by
      rw [e]
      exact State.Queues.queueAccess (t := (u.putN ..).clearPoison ..) hsu _
    have mem : (r.storeLane k addr data x).mem = r.mem.putN x.2 4 (data x.1 % 2 ^ 32) := by
      rw [e, ← hm]
      exact State.queueAccess_mem ..
    have rest := ih (fun y hy => ho y (.tail _ hy)) _ step
    rw [mem] at rest
    exact rest

end Sys2Proof.Machine

namespace Sys2Proof.Machine

/-! Words written in order. -/
theorem Memory.getN_congr {m m' : Memory} {a n : Nat} (h : ∀ b, a ≤ b → b < a + n → m.get b = m'.get b) : m.getN a n = m'.getN a n := by
  induction n generalizing a with
  | zero => rfl
  | succ n ih => rw [Memory.getN, Memory.getN, h a (Nat.le_refl a) (by omega), ih fun b hb hn => h b (by omega) (by omega)]
/-- The memory after words of some lanes have been written. -/
def storeWords (key data : Nat → Nat) (lanes : List Nat) (m : Memory) : Memory := lanes.foldl (fun m i => m.putN (key i) 4 (data i % 2 ^ 32)) m
section
variable {key data : Nat → Nat} {lanes : List Nat} {m : Memory} (wf : m.wf = true)
include wf
theorem storeWords_get {n : Nat} (h : ∀ i ∈ lanes, n < key i ∨ key i + 4 ≤ n) : (storeWords key data lanes m).get n = m.get n := by
  induction lanes generalizing m with
  | nil => rfl
  | cons i r ih =>
    calc (storeWords key data r (m.putN (key i) 4 (data i % 2 ^ 32))).get n
      _ = (m.putN (key i) 4 (data i % 2 ^ 32)).get n := ih (Memory.wf_putN _ _ _ _ wf) fun j hj => h j (.tail _ hj)
      _ = m.get n := Memory.get_putN_ne _ _ _ _ _ wf (h i (.head _))
/-- The last lane of a word remains. -/
theorem storeWords_getN (aligned : ∀ i ∈ lanes, key i % 4 = 0) (order : lanes.Pairwise (· < ·)) {i : Nat} (hi : i ∈ lanes)
    (last : ∀ j ∈ lanes, i < j → key j ≠ key i) : (storeWords key data lanes m).getN (key i) 4 = data i % 2 ^ 32 := by
  induction lanes generalizing m with
  | nil => cases hi
  | cons j r ih =>
    obtain ⟨first, order⟩ := List.pairwise_cons.mp order
    have wf' : (m.putN (key j) 4 (data j % 2 ^ 32)).wf = true := Memory.wf_putN _ _ _ _ wf
    rcases List.mem_cons.mp hi with rfl | hi
    · have rest : (storeWords key data r (m.putN (key i) 4 (data i % 2 ^ 32))).getN (key i) 4 = (m.putN (key i) 4 (data i % 2 ^ 32)).getN (key i) 4 := by
        refine Memory.getN_congr fun b hb hn => storeWords_get wf' fun j hj => ?_
        have apart := last j (.tail _ hj) (first j hj)
        have hj4 := aligned j (.tail _ hj)
        have hi4 := aligned i (.head _)
        omega
      refine rest.trans ((Memory.getN_putN _ _ _ _ wf).trans ?_)
      exact Nat.mod_mod ..
    · exact ih wf' (fun j hj => aligned j (.tail _ hj)) order hi fun j hj => last j (.tail _ hj)
end
theorem State.padKey_aligned {s : State} {k a key : Nat} (h : s.padKey k a = some key) (ha : a % 4 = 0) : key % 4 = 0 := by
  have word (sp n : Nat) (hn : n % 4 = 0) : mkey sp n % 4 = 0 := by
    unfold mkey spaceSize
    omega
  unfold State.padKey at h
  dsimp only at h
  split at h
  · split at h
    · split at h
      · exact Option.some.inj h ▸ word _ _ ha
      · cases h
    · split at h
      · split at h
        · exact Option.some.inj h ▸ word _ _ (by omega)
        · cases h
      · cases h
  · split at h
    · split at h
      · exact Option.some.inj h ▸ word _ _ ha
      · cases h
    · cases h
theorem active_sorted (g : Guard) (s : State) : (Claims.active g s).Pairwise (· < ·) := List.Pairwise.filter _ List.pairwise_lt_range


/-! Vector stores. -/
theorem State.Joined.calm {s s' t : State} {k : Nat} {a : Nat → Access} {x : Nat × Nat} (h : s'.Joined k a t x) (hc : s.Calm k s')
    (o : s.opened.isSome = true) : s.Joined k a t x := by
  unfold State.Joined at h ⊢
  rwa [hc.exact, laneAccessAt_calm hc o, hc.pre o] at h
/-- Where no load of its bundle waits, the own accesses to come change the marks of the open bundle alone. -/
theorem State.ownFirst_idle {s : State} {k : Nat} (h : ∀ y ∈ (s.ctx k).accs, y.isLoad = true → y.bun ≠ s.pre.seq) (own : Bool) :
    (s.ownFirst k own).toWorld = s.toWorld := by
  unfold State.ownFirst
  split
  · rw [State.loadsFirst_idle h]
    rfl
  · rfl
/-- Of a quiet context, the entries taken and the marks made leave memory and all but its segment. -/
theorem quiet_base {s t : State} (quiet : Claims.Quiet s) (o : s.opened.isSome = true) (reseg : s.Reseg s.me t) (own : Bool) :
    let r := t.ownFirst s.me own
    r.mem = s.mem ∧ (∀ j, j ≠ s.me → r.ctx j = s.ctx j) ∧ (∃ g, r.ctx s.me = { s.ctx s.me with seg := g }) ∧ r.opened.isSome = true ∧ r.pre = s.pre := by
  obtain ⟨mem, opened, _, others, g, ctx⟩ := reseg
  have pre : t.pre = s.pre := State.pre_congr o (by rw [opened])
  have isSome : t.opened.isSome = true := opened ▸ o
  have calm := (State.Calm.refl s.me t).ownFirst own
  have world : (t.ownFirst s.me own).toWorld = t.toWorld := State.ownFirst_idle (fun y hy hl => pre ▸ quiet.2.1 y (by rw [ctx] at hy; exact hy) (.inl hl)) own
  have same (j : Nat) : (t.ownFirst s.me own).ctx j = t.ctx j := congrArg (fun w : World => Tbl.getD w.ctxs j Ctx.zero) world
  exact ⟨(congrArg World.mem world).trans mem, fun j hj => (same j).trans (others j hj), ⟨g, (same _).trans ctx⟩, calm.isSome.trans isSome,
    (calm.pre isSome).trans pre⟩
section
variable {i : Instr} {u : VUnit} {g : Guard} {s : State} {body : State → Nat → Res State} {addr key : Nat → Nat} {v : Nat}
  (hi : exec i s = runLanes u g s body) (on : Claims.Lanes g s)
include hi on
theorem vstore_gives (hb : body s (Claims.act g s) = s.vstore (Claims.act g s) addr (lane v)) (small : ∀ i, addr i < 2 ^ 32)
    (reaches : Claims.Reaches s g addr key) (room : Claims.Room s) :
    ∃ t, exec i s = .next t ∧ Claims.NoTrap s t ∧
      (Claims.Alone s → Claims.Joins s t (Claims.active g s) key fun i =>
        { Access.blank .store 4 with val := lane v i, due := s.now + paddedTime (coreOf s.me) (key i) }) ∧
      (s.mem.wf = true → Claims.Quiet s → Claims.Own s g key → (t.ctx s.me).regs = (s.ctx s.me).regs ∧ (∀ j, j ≠ s.me → t.ctx j = s.ctx j) ∧
        (∀ i ∈ Claims.active g s, (∀ j ∈ Claims.active g s, i < j → key j ≠ key i) → t.mem.getN (key i) 4 = lane v i) ∧
        (∀ n, (∀ i ∈ Claims.active g s, n < key i ∨ key i + 4 ≤ n) → t.mem.get n = s.mem.get n)) := by
  let keys := (Claims.active g s).map fun i => (i, key i)
  have hk : ({ s with poison := [] } : State).laneKeys s.me addr (activeLanes (Claims.act g s)) = .ok keys := by
    rw [activeLanes_act]
    exact State.laneKeys_ok rfl fun i hi => ⟨small i, reaches i hi⟩
  obtain ⟨r, t, hr, ht, noTrap, closed, reseg⟩ := State.lanes_enter (k := s.me) keys (keys.any fun x => !isOwn s.me x.2) false room
  have first := (State.Calm.refl s.me t).ownFirst (ownLanes s.me keys != [])
  have laneTrap : Claims.NoTrap (t.ownFirst s.me (ownLanes s.me keys != []))
      (keys.foldl (State.storeLane s.me addr (lane v)) (t.ownFirst s.me (ownLanes s.me keys != []))) :=
    List.foldlRecOn (motive := Claims.NoTrap _) keys _ rfl fun r hr x _ => (State.noTrap_storeLane r s.me x).trans hr
  refine ⟨_, runLanes_answers hi on (hb.trans (State.vstore_ok hk hr ht)), laneTrap.trans (first.noTrap.trans noTrap), fun alone => ?joins,
    fun wf quiet own => ?own⟩
  case joins =>
    obtain rfl := closed alone.2.1
    have o := first.isSome.trans on.1
    intro i hi
    have joined := State.storeLanes_join (k := t.me) (addr := addr) (data := lane v) o (first.seg.trans alone.2.1) key
      (List.forall_mem_map.mpr fun _ _ => rfl) (i, key i) (List.mem_map_of_mem (f := fun i => (i, key i)) hi)
    have joined := joined_iff.mp (joined.calm first on.1)
    simpa only [storeAccess, first.now, Nat.mod_eq_of_lt (lane_lt v _)] using joined
  case own =>
    obtain ⟨mem, others, ⟨seg, ctx⟩, o, _⟩ := quiet_base quiet on.1 (reseg fun e => ⟨quiet.2.2 e, Bool.and_false _⟩) (ownLanes s.me keys != [])
    have exact : ((t.ownFirst s.me (ownLanes s.me keys != [])).ctx s.me).exact = false := by
      rw [ctx]
      exact quiet.1
    have ho : ∀ x ∈ keys, isOwn s.me x.2 = true := List.forall_mem_map.mpr fun i hi => isOwn_iff.mpr (own i hi)
    obtain ⟨queues, words⟩ := State.storeLanes_own (addr := addr) (data := lane v) o exact ho _ (.refl _ _)
    rw [mem] at words
    have words : (keys.foldl (State.storeLane s.me addr (lane v)) (t.ownFirst s.me (ownLanes s.me keys != []))).mem =
        storeWords key (lane v) (Claims.active g s) s.mem := words.trans List.foldl_map
    refine ⟨queues.regs.trans (by rw [ctx]), fun j hj => (queues.others hj).trans (others j hj), fun i hi last => ?_, fun n hn => ?_⟩
    · rw [words, storeWords_getN wf (fun j hj => State.padKey_aligned (reaches j hj).2 (reaches j hj).1) (active_sorted g s) hi last]
      exact Nat.mod_eq_of_lt (lane_lt v i)
    · rw [words, storeWords_get wf hn]
end


/-! The instructions of Table 8-7. -/
theorem State.vaddr_ok {s : State} {u : VUnit} {p q : Src} {a b : Nat} (ha : s.rdV u p = .ok a) (hb : s.rdV u q = .ok b) (f : Nat → Nat → Nat → Nat) :
    s.vaddr u p q f = .ok fun i => f a b i % 2 ^ 32 := by
  unfold State.vaddr
  rw [ha, ok_bind, hb, ok_bind]
section
variable {u : VUnit} {x : VRR} {s : State} {a b : Nat} (ha : s.rdV u x.a = .ok a) (hb : s.rdV u x.b = .ok b) (f : Nat → Nat → Nat → Nat)
include ha hb
theorem vloadOp_body (mask : Nat) : ∃ body : State → Nat → Res State, vloadOp u x f s = runLanes u x.g s body ∧
    body s mask = s.vload u x.d mask fun i => f a b i % 2 ^ 32 :=
  ⟨_, rfl, by rw [State.vaddr_ok ha hb, ok_bind]⟩
theorem vstoreOp_body (mask : Nat) {v : Nat} (hv : s.rdVD u x.d = .ok v) : ∃ body : State → Nat → Res State, vstoreOp u x f s = runLanes u x.g s body ∧
    body s mask = s.vstore mask (fun i => f a b i % 2 ^ 32) (lane v) :=
  ⟨_, rfl, by rw [State.vaddr_ok ha hb, ok_bind, hv, ok_bind]⟩
end
/-- A lane whose access is refused stops the whole access. -/
theorem State.vload_error {s : State} {u : VUnit} {d : Dst} {mask : Nat} {addr : Nat → Nat} {e : Stop}
    (h : s.laneKeys s.me addr (activeLanes mask) = .error e) : s.vload u d mask addr = .error e := by
  unfold State.vload
  dsimp only
  rw [h]
  rfl
theorem State.vstore_error {s : State} {mask : Nat} {addr data : Nat → Nat} {e : Stop}
    (h : ({ s with poison := [] } : State).laneKeys s.me addr (activeLanes mask) = .error e) : s.vstore mask addr data = .error e := by
  unfold State.vstore
  dsimp only
  rw [h]
  rfl
theorem runLanes_traps {i : Instr} {u : VUnit} {g : Guard} {s : State} {body : State → Nat → Res State} {cause val : Nat}
    (hi : exec i s = runLanes u g s body) (on : Claims.Lanes g s) (hb : body s (Claims.act g s) = .error (.trap cause val)) :
    exec i s = .next (s.raise u.slot cause val none) := hi.trans (runLanes_error u g s body _ on.1 on.2 hb)
theorem vectorAccesses : Claims.VectorAccesses := by
  refine ⟨fun e he u x s a b key on ha hb => ?accesses, fun u x s a b key on ha hb reaches hp clear => ?table⟩
  case accesses =>
    obtain ⟨f, hload, hstore, hf⟩ := places_exec e he
    intro addr
    have eq : (fun i => f a b i % 2 ^ 32) = addr := funext fun i => hf a b i
    have small (i : Nat) : addr i < 2 ^ 32 := (e.2.2 a b i).isLt
    obtain ⟨lbody, hl, hlb⟩ := vloadOp_body ha hb f (Claims.act x.g s)
    have hl := (hload u x s).trans hl
    rw [eq] at hlb
    have traps (c : Nat) (i : Nat) (h : s.laneKeys s.me addr (Claims.active x.g s) = .error (.trap c (addr i)))
        (h' : ({ s with poison := [] } : State).laneKeys s.me addr (Claims.active x.g s) = .error (.trap c (addr i))) :
        exec (e.1 u x) s = .next (s.raise u.slot c (addr i) none) ∧
          ((∃ v, s.rdVD u x.d = .ok v) → exec (e.2.1 u x) s = .next (s.raise u.slot c (addr i) none)) := by
      rw [← activeLanes_act] at h h'
      refine ⟨runLanes_traps hl on (hlb.trans (State.vload_error h)), fun ⟨v, hv⟩ => ?_⟩
      obtain ⟨sbody, hs, hsb⟩ := vstoreOp_body ha hb f (Claims.act x.g s) hv
      rw [eq] at hsb
      exact runLanes_traps ((hstore u x s).trans hs) on (hsb.trans (State.vstore_error h'))
    refine ⟨fun reaches hp clear => vload_gives hl on hlb small reaches hp clear, fun v hv reaches room => ?store,
      fun i rest hactive => ⟨fun h => ?misaligned, fun h hm => ?unmapped⟩⟩
    case store =>
      obtain ⟨sbody, hs, hsb⟩ := vstoreOp_body ha hb f (Claims.act x.g s) hv
      rw [eq] at hsb
      exact vstore_gives ((hstore u x s).trans hs) on hsb small reaches room
    case misaligned => exact traps 5 i (hactive ▸ State.laneKeys_misaligned (small i) h) (hactive ▸ State.laneKeys_misaligned (small i) h)
    case unmapped => exact traps 6 i (hactive ▸ State.laneKeys_unmapped (small i) h hm) (hactive ▸ State.laneKeys_unmapped (small i) h hm)
  case table =>
    have eq : (fun i => (lane b 0 + 4 * (lane a i % 2 ^ x.k.val)) % 2 ^ 32) =
        fun i => (Claims.b32 (lane b 0) + 4 * BitVec.ofNat 32 (lane a i % 2 ^ x.k.val)).toNat := by
      funext i
      simp [Claims.b32, BitVec.toNat_add, BitVec.toNat_mul]
    obtain ⟨body, hi, hbody⟩ : ∃ body : State → Nat → Res State, execVtbl u x s = runLanes u x.g s body ∧ body s (Claims.act x.g s) =
        s.vload u x.d (Claims.act x.g s) fun i => (lane b 0 + 4 * (lane a i % 2 ^ x.k.val)) % 2 ^ 32 :=
      ⟨_, rfl, by rw [State.vaddr_ok ha hb, ok_bind]⟩
    rw [eq] at hbody
    exact vload_gives (i := .vtbl u x) hi on hbody (fun i => BitVec.isLt _) reaches hp clear

end Sys2Proof.Machine

namespace Sys2Proof.Machine

/-!
PROOFS. O39: vector atomics. The lanes act in ascending order, each on the word that the lower ones left.
-/
/-- The access of a lane's atomic. -/
def atomAccess (op : AtomOp) (l : Option Loc) (due : Nat) (data : Nat → Nat) (i : Nat) : Access :=
  { Access.blank (.atomic op) 4 with val := data i % 2 ^ 32, dst := l, shift := 32 * i, cls := 1, due := due }
/-- What an atomic does for a lane. -/
def State.atomLane (k : Nat) (op : AtomOp) (l : Option Loc) (due : Nat) (addr data : Nat → Nat) (s : State) (x : Nat × Nat) : State :=
  let s := (s.note 4 4 (addr x.1)).note 4 4 (data x.1)
  let a := laneAccessAt s (atomAccess op l due data x.1) x.2
  if isOwn k x.2 then s.ownAccess k a else s.remoteAtomic k a
section
variable {s r t : State} {u : VUnit} {d : Dst} {mask : Nat} {addr data : Nat → Nat} {op : AtomOp} {keys : List (Nat × Nat)}
  (hk : s.laneKeys s.me addr (activeLanes mask) = .ok keys)
include hk
theorem State.vatomic_conflict {x : Nat × Nat} (h : keys.find? (fun x => s.inReduction x.2 4) = some x) :
    s.vatomic u d mask addr data .fadd = .error (.trap 19 (addr x.1 % 2 ^ 32)) := by
  unfold State.vatomic
  dsimp only
  rw [hk, ok_bind, if_pos rfl, h]
theorem State.vatomic_ok (red : op = .fadd → ∀ x ∈ keys, s.inReduction x.2 4 = false) (clear : Claims.Clear s (vLoc u d))
    (hr : s.logLanes s.me keys = .ok r) (ht : r.bufEntry s.me (keys.any fun x => !isOwn s.me x.2) true = .ok t) :
    s.vatomic u d mask addr data op = .ok (keys.foldl (State.atomLane s.me op (vLoc u d)
      (s.after (coreOf s.me) 1 (if keys.any fun x => !isOwn s.me x.2 then 14 else 8)) addr data) (t.ownFirst s.me (ownLanes s.me keys != []))) := by
  have none : (if op = .fadd then keys.find? fun x => s.inReduction x.2 4 else none) = none := by
    split
    next h => exact List.find?_eq_none.mpr fun x hx => by simp [red h x hx]
    next => rfl
  unfold State.logLanes ownLanes at hr
  unfold State.vatomic
  dsimp only
  rw [hk, ok_bind, none]
  refine (if_neg ?_).trans ?_
  · split
    next l h => rw [clear l h]; exact Bool.false_ne_true
    next => exact Bool.false_ne_true
  by_cases h : (keys.filter fun x => isOwn s.me x.2) = []
  · rw [if_pos h] at hr ⊢
    cases hr
    rw [ok_bind, ht, ok_bind]
    rfl
  · rw [if_neg h] at hr ⊢
    rw [hr, ok_bind, ht, ok_bind]
    rfl
end
/-- No atomic of the bundle at hand waits. -/
theorem State.atomsFirst_idle {s : State} {k : Nat} (h : ∀ y ∈ (s.ctx k).accs, y.isAtom = true → y.bun ≠ s.pre.seq) : s.atomsFirst k = s := by
  refine List.foldlRecOn (motive := (· = s)) (s.ctx k).accs _ rfl fun t ht y hy => ?_
  rw [if_neg fun e => h y hy e.1 e.2]
  exact ht
section
variable {k : Nat} {op : AtomOp} {l : Option Loc} {due : Nat} {addr data : Nat → Nat} {s r : State} {x : Nat × Nat}
theorem State.Calm.remoteAtomic (h : s.Calm k r) (a : Access) : s.Calm k (r.remoteAtomic k a) := by
  have queued := h.queueAccess a
  exact .ite queued (((queued.loadsFirst.settleFor _ _).keepOld ..).settle _)
theorem State.Calm.atomLane (h : s.Calm k r) : s.Calm k (r.atomLane k op l due addr data x) :=
  .ite (((h.note ..).note ..).ownAccess _) (((h.note ..).note ..).remoteAtomic _)
variable (h : s.Queues k r) (o : s.opened.isSome = true)
include h o
/-- Where no lane acts at once: the words wait. -/
theorem State.Queues.atomLane_waits (hs : (s.ctx k).seg = none) (hw : (s.ctx k).exact = true ∨ isOwn k x.2 = false) :
    ∃ u : State, s.Queues k u ∧ r.Queues k u ∧ r.atomLane k op l due addr data x =
      u.queueAccess k { laneAccessAt s (atomAccess op l due data x.1) x.2 with own := isOwn k x.2 } := by
  have noted := (h.note 4 4 (addr x.1)).note 4 4 (data x.1)
  refine ⟨_, noted, ((State.Queues.refl k r).note ..).note .., ?_⟩
  unfold State.atomLane
  dsimp only
  rw [laneAccessAt_calm noted.calm o]
  cases ho : isOwn k x.2 with
  | false => exact (if_neg Bool.false_ne_true).trans (State.remoteAtomic_closed (noted.calm.seg.trans hs))
  | true => exact (if_pos rfl).trans (State.ownAccess_exact (noted.calm.exact.trans (hw.resolve_right (by rw [ho]; decide))) rfl)
/-- A lane's own word is read and written at once (R305). -/
theorem State.Queues.atomLane_own (ho : isOwn k x.2 = true) (he : (s.ctx k).exact = false)
    (idle : ∀ y ∈ (r.ctx k).accs, y.isAtom = true → y.bun ≠ s.pre.seq) : ∃ u : State, s.Queues k u ∧ r.Queues k u ∧
      u.mem = r.mem.putN x.2 4 (atomNew op 32 (r.mem.getN x.2 4) (data x.1 % 2 ^ 32) 0) ∧ (u.ctx k).accs = (r.ctx k).accs ∧
      r.atomLane k op l due addr data x = u.queueDone k (laneAccessAt s (atomAccess op l due data x.1) x.2) (r.mem.getN x.2 4) := by
  let n := (r.note 4 4 (addr x.1)).note 4 4 (data x.1)
  have noted : s.Queues k n := (h.note 4 4 (addr x.1)).note 4 4 (data x.1)
  have from_r : r.Queues k n := ((State.Queues.refl k r).note ..).note ..
  have now : (n.ctx k).exact = false := noted.calm.exact.trans he
  have mem : n.mem = r.mem := (State.note_mem ..).trans (State.note_mem ..)
  have accs : (n.ctx k).accs = (r.ctx k).accs := by simp only [n, State.note_ctx]
  have first : n.atomsFirst k = n := State.atomsFirst_idle (by rw [accs, noted.calm.pre o]; exact idle)
  refine ⟨n.putN x.2 4 (atomNew op 32 (r.mem.getN x.2 4) (data x.1 % 2 ^ 32) 0), noted, from_r, by rw [← mem]; rfl, accs, ?_⟩
  have acts := State.ownAccess_atomic (a := laneAccessAt s (atomAccess op l due data x.1) x.2) now rfl
  unfold State.atomLane
  dsimp only
  rw [if_pos ho, laneAccessAt_calm noted.calm o]
  refine acts.trans ?_
  dsimp only
  rw [first, State.getN, laneAccessAt, mem]
  rfl
end

/-- Where no lane acts at once, the words wait in their order. -/
theorem State.atomLanes_join {k : Nat} {op : AtomOp} {l : Option Loc} {due : Nat} {addr data : Nat → Nat} {s : State} {keys : List (Nat × Nat)}
    (o : s.opened.isSome = true) (hs : (s.ctx k).seg = none) (wait : ∀ x ∈ keys, (s.ctx k).exact = true ∨ isOwn k x.2 = false) : ∀ x ∈ keys,
    s.Joined k (atomAccess op l due data) (keys.foldl (State.atomLane k op l due addr data) s) x := by
  have step (r : State) (x : Nat × Nat) (hx : x ∈ keys) (h : s.Queues k r) :
      s.Queues k (r.atomLane k op l due addr data x) ∧ r.Queues k (r.atomLane k op l due addr data x) := by
    obtain ⟨u, hsu, hru, e⟩ := h.atomLane_waits (op := op) (l := l) (due := due) (addr := addr) (data := data) o hs (wait x hx)
    rw [e]
    exact ⟨hsu.queueAccess _, hru.queueAccess _⟩
  refine foldl_adds (fun r x hx h => (step r x hx h).1) (fun r x hx h => ?_) (fun r x hx h y hy => hy.kept (step r x hx h).2) (.refl k s)
  obtain ⟨u, hsu, _, e⟩ := h.atomLane_waits (op := op) (l := l) (due := due) (addr := addr) (data := data) o hs (wait x hx)
  rw [e]
  exact hsu.joins o (atomAccess op l due data) x
/-- The own words: each lane's old value comes back, and the memory is what the lanes leave in order. -/
theorem State.atomLanes_own {k : Nat} {op : AtomOp} {l : Option Loc} {due : Nat} {addr data key : Nat → Nat} {f : Nat → Nat → Nat} {s : State}
    {lanes : List Nat} (o : s.opened.isSome = true) (he : (s.ctx k).exact = false) (ho : ∀ i ∈ lanes, isOwn k (key i) = true)
    (hf : ∀ old i, atomNew op 32 old (data i % 2 ^ 32) 0 = f old (data i)) (r : State) (h : s.Queues k r)
    (idle : ∀ y ∈ (r.ctx k).accs, y.isAtom = true → y.bun ≠ s.pre.seq) :
    let t := (lanes.map fun i => (i, key i)).foldl (State.atomLane k op l due addr data) r
    let out := Claims.rmw f key data lanes r.mem
    s.Queues k t ∧ r.Queues k t ∧ t.mem = out.1 ∧ ∀ m, l = some m → ∀ z ∈ out.2, t.Brought k m due z := by
  induction lanes generalizing r with
  | nil => exact ⟨h, .refl k r, rfl, fun _ _ _ hz => nomatch hz⟩
  | cons i lanes ih =>
    obtain ⟨u, hsu, hru, mem, accs, e⟩ := h.atomLane_own (x := (i, key i)) (op := op) (l := l) (due := due) (addr := addr) (data := data) o
      (ho i (.head _)) he idle
    rw [hf] at mem
    have queued : s.Queues k (r.atomLane k op l due addr data (i, key i)) := e ▸ hsu.queueAccess _
    have fromR : r.Queues k (r.atomLane k op l due addr data (i, key i)) := e ▸ hru.queueAccess _
    have still : ∀ y ∈ ((r.atomLane k op l due addr data (i, key i)).ctx k).accs, y.isAtom = true → y.bun ≠ s.pre.seq := by
      intro y hy
      rw [e] at hy
      rcases (State.mem_queueAccess ..).mp hy with rfl | hy
      · exact fun ha => by cases ha
      · exact idle y (accs ▸ hy)
    have left : (r.atomLane k op l due addr data (i, key i)).mem = r.mem.putN (key i) 4 (f (r.mem.getN (key i) 4) (data i)) := by
      rw [e]
      exact (State.queueAccess_mem ..).trans mem
    obtain ⟨hs, hr, ht, brought⟩ := ih (fun j hj => ho j (.tail _ hj)) _ queued still
    rw [left] at ht brought
    refine ⟨hs, fromR.trans hr, ht, fun m hm z hz => ?_⟩
    rcases List.mem_cons.mp hz with rfl | hz
    · have first : (r.atomLane k op l due addr data (i, key i)).Brought k m due (i, r.mem.getN (key i) 4) := by
        rw [e]
        exact ⟨_, u.queued_mem k _, rfl, hm, rfl, rfl, rfl, rfl, rfl⟩
      exact first.kept hr
    · exact brought m hm z hz
section
variable {i : Instr} {u : VUnit} {g : Guard} {d : Dst} {s : State} {body : State → Nat → Res State} {key : Nat → Nat} {a b : Nat}
  (hi : exec i s = runLanes u g s body) (on : Claims.Lanes g s)
include hi on
/-- What an atomic of the words of its active lanes does, where none is in an open reduction that it must not touch. -/
theorem vatomic_gives {op : AtomOp} {f : Nat → Nat → Nat} (hb : body s (Claims.act g s) = s.vatomic u d (Claims.act g s) (lane a) (lane b) op)
    (hk : s.laneKeys s.me (lane a) (activeLanes (Claims.act g s)) = .ok ((Claims.active g s).map fun i => (i, key i)))
    (clear : Claims.Clear s (vLoc u d)) (room : Claims.Room s) (red : op = .fadd → ∀ i ∈ Claims.active g s, s.inReduction (key i) 4 = false)
    (hf : ∀ old v, v < 2 ^ 32 → atomNew op 32 old v 0 = f old v) : ∃ t, exec i s = .next t ∧ Claims.NoTrap s t ∧
      (Claims.Alone s → ((s.ctx s.me).exact = true ∨ ∀ j ∈ Claims.active g s, key j / spaceSize ≠ padSpace (coreOf s.me)) → ∀ l, vLoc u d = some l →
        Claims.Joins s t (Claims.active g s) key fun i => { Claims.laneAccess (.atomic op) l i (Claims.lands s g key) with val := lane b i }) ∧
      (Claims.Quiet s → Claims.Own s g key →
      let out := Claims.rmw f key (lane b) (Claims.active g s) s.mem
      t.mem = out.1 ∧ (t.ctx s.me).regs = (s.ctx s.me).regs ∧ (∀ j, j ≠ s.me → t.ctx j = s.ctx j) ∧
      ∀ l, vLoc u d = some l → ∀ z ∈ out.2, ∃ y ∈ (t.ctx s.me).accs, y.kind = .done ∧ y.dst = some l ∧ y.shift = 32 * z.1 ∧ y.width = 32 ∧
        y.cls = 1 ∧ y.due = s.after (coreOf s.me) 1 8 ∧ y.val = z.2) := by
  let keys := (Claims.active g s).map fun i => (i, key i)
  obtain ⟨r, t, hr, ht, noTrap, closed, reseg⟩ := State.lanes_enter (k := s.me) keys (keys.any fun x => !isOwn s.me x.2) true room
  have first := (State.Calm.refl s.me t).ownFirst (ownLanes s.me keys != [])
  let due := s.after (coreOf s.me) 1 (if keys.any fun x => !isOwn s.me x.2 then 14 else 8)
  have lanes : (t.ownFirst s.me (ownLanes s.me keys != [])).Calm s.me (keys.foldl (State.atomLane s.me op (vLoc u d) due (lane a) (lane b))
      (t.ownFirst s.me (ownLanes s.me keys != []))) := (State.Calm.refl ..).foldl (fun _ _ h => h.atomLane) _
  have red' : op = .fadd → ∀ x ∈ keys, s.inReduction x.2 4 = false := fun h => List.forall_mem_map.mpr (red h)
  refine ⟨_, runLanes_answers hi on (hb.trans (State.vatomic_ok hk red' clear hr ht)), (first.trans lanes).noTrap.trans noTrap,
    fun alone wait l hl => ?joins, fun quiet own => ?own⟩
  case joins =>
    obtain rfl := closed alone.2.1
    intro i hi
    have wait' : ∀ x ∈ keys, ((t.ownFirst t.me (ownLanes t.me keys != [])).ctx t.me).exact = true ∨ isOwn t.me x.2 = false := by
      rw [first.exact]
      exact List.forall_mem_map.mpr fun j hj => wait.imp_right fun h => beq_eq_false_iff_ne.mpr (h j hj)
    have joined := State.atomLanes_join (k := t.me) (op := op) (l := vLoc u d) (due := due) (addr := lane a) (data := lane b) (first.isSome.trans on.1)
      (first.seg.trans alone.2.1) wait' (i, key i) (List.mem_map_of_mem (f := fun i => (i, key i)) hi)
    have joined := joined_iff.mp (joined.calm first on.1)
    rw [← lands_eq]
    simpa only [atomAccess, Claims.laneAccess, hl, Nat.mod_eq_of_lt (lane_lt b _)] using joined
  case own =>
    have ho : ∀ i ∈ Claims.active g s, isOwn s.me (key i) = true := fun i hi => isOwn_iff.mpr (own i hi)
    have none : keys.any (fun x => !isOwn s.me x.2) = false := by
      refine List.any_eq_false.mpr (List.forall_mem_map.mpr fun i hi => ?_)
      simp [ho i hi]
    have near : due = s.after (coreOf s.me) 1 8 := by
      simp only [due, none]
      rfl
    obtain ⟨mem, others, ⟨seg, ctx⟩, o, pre⟩ := quiet_base quiet on.1 (reseg fun e => ⟨quiet.2.2 e, by rw [none]; rfl⟩) (ownLanes s.me keys != [])
    have exact : ((t.ownFirst s.me (ownLanes s.me keys != [])).ctx s.me).exact = false := by
      rw [ctx]
      exact quiet.1
    obtain ⟨queues, _, words, brought⟩ := State.atomLanes_own (op := op) (l := vLoc u d) (due := due) (addr := lane a) (data := lane b) (f := f) o exact ho
      (fun old i => by rw [Nat.mod_eq_of_lt (lane_lt b i)]; exact hf old _ (lane_lt b i)) _ (.refl _ _)
      (by rw [pre, ctx]; exact fun y hy h => quiet.2.1 y hy (.inr h))
    rw [mem] at words brought
    exact ⟨words, queues.regs.trans (by rw [ctx]), fun j hj => (queues.others hj).trans (others j hj), fun l hl z hz => near ▸ brought l hl z hz⟩
end
theorem vectorAtomics : Claims.VectorAtomics := by
  intro u g d p q ty s a b key on ha hb reaches hp clear room done
  have hk : s.laneKeys s.me (lane a) (activeLanes (Claims.act g s)) = .ok ((Claims.active g s).map fun i => (i, key i)) := by
    rw [activeLanes_act]
    exact State.laneKeys_ok hp fun i hi => ⟨lane_lt a i, reaches i hi⟩
  have body (op : AtomOp) : ∃ body : State → Nat → Res State, vatomicOp u g d p q op s = runLanes u g s body ∧
      body s (Claims.act g s) = s.vatomic u d (Claims.act g s) (lane a) (lane b) op := ⟨_, rfl, by rw [ha, ok_bind, hb, ok_bind]⟩
  obtain ⟨abody, hadd, hab⟩ := body .add
  obtain ⟨fbody, hfadd, hfb⟩ := body .fadd
  refine ⟨?add, fun red => ?fadd, fun i hfind => ?conflict⟩
  case add =>
    refine vatomic_gives (i := .vaadd u ⟨g, d, p, q, ty⟩) hadd on hab hk clear room (fun h => nomatch h) fun old v hv => ?_
    simp [atomNew, Claims.b32, BitVec.toNat_add]
  case fadd =>
    refine vatomic_gives (i := .vafadd u ⟨g, d, p, q⟩) hfadd on hfb hk clear room (fun _ => red) fun old v hv => ?_
    simp only [atomNew, Nat.mod_eq_of_lt hv]
    rfl
  case conflict =>
    have find : ((Claims.active g s).map fun i => (i, key i)).find? (fun x => s.inReduction x.2 4) = some (i, key i) := by
      rw [List.find?_map]
      exact congrArg (Option.map _) hfind
    have stop := State.vatomic_conflict (u := u) (d := d) (data := lane b) hk find
    rw [Nat.mod_eq_of_lt (lane_lt a i)] at stop
    exact runLanes_traps (i := .vafadd u ⟨g, d, p, q⟩) hfadd on (hfb.trans stop)

/-- Settles O39. -/
theorem vectorMemory : Obligations.VectorMemory := ⟨vectorAccesses, vectorAtomics⟩

end Sys2Proof.Machine

namespace Sys2Proof.Machine

/-! ## Commands on a timeline: suspension and posted elements -/

theorem State.postQ_room (s : State) (k q : Nat) (e : Word) (h : (vget (s.ctx k).q q []).length < queueCap k q) :
    s.postQ k q e = s.modCtx k fun c => { c with q := vset c.q q (vget c.q q [] ++ [e]) } := by
  simp only [State.postQ, State.modCtx, h, if_true]

theorem State.postQ_full (s : State) (k q : Nat) (e : Word) (h : queueCap k q ≤ (vget (s.ctx k).q q []).length) :
    s.postQ k q e = s.modCtx k fun c => c.sticky 8 := by
  simp only [State.postQ, State.modCtx, Nat.not_lt.mpr h, if_false]

/-- What posted elements and suspensions leave of a context. -/
structure Ctx.Kept (c d : Ctx) : Prop where
  status : d.status = c.status
  part : d.part = c.part
  node : d.node = c.node
  idx : d.idx = c.idx
  dat : d.regs.dat = c.regs.dat
  ident : d.regs.sys.ident = c.regs.sys.ident

theorem Ctx.Kept.refl (c : Ctx) : c.Kept c := ⟨rfl, rfl, rfl, rfl, rfl, rfl⟩
theorem Ctx.Kept.trans {c d e : Ctx} (h : c.Kept d) (g : d.Kept e) : c.Kept e :=
  ⟨g.status.trans h.status, g.part.trans h.part, g.node.trans h.node, g.idx.trans h.idx, g.dat.trans h.dat, g.ident.trans h.ident⟩

theorem State.modCtx_kept (s : State) (k : Nat) (g : Ctx → Ctx) (h : ∀ c, Ctx.Kept c (g c)) (j : Nat) : (s.ctx j).Kept ((s.modCtx k g).ctx j) := by
  by_cases hj : j = k
  · subst hj; rw [State.ctx_modCtx_same]; exact h _
  · rw [State.ctx_modCtx_ne _ _ _ _ hj]; exact .refl _

theorem State.postQ_kept (s : State) (k q : Nat) (e : Word) (j : Nat) : (s.ctx j).Kept ((s.postQ k q e).ctx j) := by
  refine State.modCtx_kept _ _ _ (fun c => ?_) j
  split <;> exact ⟨rfl, rfl, rfl, rfl, rfl, rfl⟩

@[simp] theorem State.postQ_cmds (s : State) (k q : Nat) (e : Word) (j : Nat) : ((s.postQ k q e).ctx j).cmds = (s.ctx j).cmds := by
  by_cases hj : j = k
  · subst hj
    rw [State.postQ, State.ctx_modCtx_same]
    split <;> rfl
  · rw [State.postQ, State.ctx_modCtx_ne _ _ _ _ hj]

theorem State.q_postQ_same (s : State) (k q : Nat) (e : Word) (hq : q < 4) (h : (vget (s.ctx k).q q []).length < queueCap k q) :
    vget ((s.postQ k q e).ctx k).q q [] = vget (s.ctx k).q q [] ++ [e] := by
  rw [State.postQ_room s k q e h, State.ctx_modCtx_same]
  exact vget_vset_same _ _ _ _ hq

theorem queueCap_other {k : Nat} (hk : k ≠ mgmtKey) (q : Nat) : queueCap k q = 64 := by
  have : isMgmt k = false := by simpa [isMgmt, mgmtKey] using hk
  simp [queueCap, this]

/-- A suspended command. -/
def Cmd.suspended (m : Cmd) (reason va now : Nat) : Cmd := { m with susp := some (reason, va), suspAt := now, page := none }

theorem State.suspend_live {s : State} {k i : Nat} {m : Cmd} (reason va : Nat) (hm : (s.ctx k).cmds[i]? = some m) (live : (s.ctx k).status ≠ .free) :
    s.suspend k i reason va = (s.modCmd k i fun m => m.suspended reason va s.now).postQ k 2
      (element 0x10 (engBit m.eng * 2 ^ 55 + reason * 2 ^ 48 + m.num % 2 ^ 48)) := by
  simp only [State.suspend, hm, live, if_false]; rfl

theorem State.suspend_cmds {s : State} {k i : Nat} {m : Cmd} (reason va : Nat) (hm : (s.ctx k).cmds[i]? = some m) (live : (s.ctx k).status ≠ .free) :
    ((s.suspend k i reason va).ctx k).cmds = (s.ctx k).cmds.modify i fun m => m.suspended reason va s.now := by
  rw [State.suspend_live reason va hm live, State.postQ_cmds, State.modCmd, State.ctx_modCtx_same]; rfl

theorem State.suspend_dat {s : State} {k i : Nat} {m : Cmd} (reason va : Nat) (hm : (s.ctx k).cmds[i]? = some m) (live : (s.ctx k).status ≠ .free) :
    ((s.suspend k i reason va).ctx k).regs.dat = (s.ctx k).regs.dat := by
  rw [State.suspend_live reason va hm live, (State.postQ_kept ..).dat, State.modCmd, State.ctx_modCtx_same]; rfl

theorem State.suspend_q {s : State} {k i : Nat} {m : Cmd} (reason va : Nat) (hm : (s.ctx k).cmds[i]? = some m) (live : (s.ctx k).status ≠ .free)
    (room : (vget (s.ctx k).q 2 []).length < 64) (hk : k ≠ mgmtKey) :
    vget ((s.suspend k i reason va).ctx k).q 2 [] =
      vget (s.ctx k).q 2 [] ++ [element 0x10 (engBit m.eng * 2 ^ 55 + reason * 2 ^ 48 + m.num % 2 ^ 48)] := by
  have same : ((s.modCmd k i fun m => m.suspended reason va s.now).ctx k).q = (s.ctx k).q := by rw [State.modCmd, State.ctx_modCtx_same]; rfl
  rw [State.suspend_live reason va hm live, State.q_postQ_same _ _ _ _ (by decide) (by rw [same, queueCap_other hk]; exact room), same]

/-- An event that suspends the command does all that is said of a suspension. -/
theorem suspends_of_exec {e : Instr} {s : State} {k n reason va : Nat} {m : Cmd} (hm : (s.ctx k).cmds[n]? = some m) (live : (s.ctx k).status ≠ .free)
    (h : exec e s = .next (s.suspend k n reason va)) : Claims.Suspends e s k n reason va := by
  refine ⟨_, h, ⟨m.suspended reason va s.now, ?_, rfl⟩, ?_, State.suspend_dat reason va hm live, ?_⟩
  · rw [State.suspend_cmds reason va hm live, List.getElem?_modify_eq, hm]; rfl
  · rw [State.suspend_live reason va hm live]; rfl
  · intro y hy room hk
    cases hm.symm.trans hy
    exact State.suspend_q reason va hm live room hk

theorem Cmd.copy?_eq {m : Cmd} {c : CopyCmd} (h : m.op = .copy c) : m.copy? = some c := by simp [Cmd.copy?, h]

/-! ## Bounds that pass and peers that are not there -/

section
variable {s : State} {k i : Nat} {m : Cmd} {c : CopyCmd} (mv : Claims.Moving s k i m c)
include mv

theorem execCopyTimeout_bound (hn : c.op.noMove = false) (hp : m.page = none) (hh : m.hop = none) (due : m.due < s.now) (pref : c.op ≠ .cpref)
    (det : ∀ op, c.op ≠ .cred op true) : exec (.copyTimeout k i) s = .next (s.suspend k i 5 0) := by
  show execCopyTimeout k i s = _
  refine occur_some s _ _ mv.between ?_
  simp only [mv.cmd, Cmd.copy?_eq mv.op, mv.susp, hn, hp, hh, Option.isNone_eq_false_iff.mpr mv.start, Option.bind_eq_bind, Option.bind_some, Option.isSome_none,
    beq_eq_false_iff_ne.mpr pref, decide_eq_false (Nat.not_le.mpr due), Bool.or_self, Bool.false_and, Bool.false_eq_true, if_false]

theorem execCopyTimeout_capacity {op : Nat} (hp : m.page = none) (hh : m.hop = none) (due : m.due < s.now) (det : c.op = .cred op true)
    (all : s.batches c ≤ m.done) (sent : m.sent = false) : exec (.copyTimeout k i) s = .next (s.suspend k i 8 0) := by
  show execCopyTimeout k i s = _
  refine occur_some s _ _ mv.between ?_
  simp [mv.cmd, Cmd.copy?_eq mv.op, mv.susp, hp, hh, Option.isSome_iff_ne_none.mp mv.start, due, det, all, sent, CopyOp.noMove]

theorem execCopyTimeout_prefetch (pref : c.op = .cpref) : exec (.copyTimeout k i) s = .next s := by
  show execCopyTimeout k i s = _
  refine occur_none s _ ?_
  simp [mv.cmd, Cmd.copy?_eq mv.op, pref]

theorem execUnreachableNack_reaches (far : s.reachesPeer k m c = true) : exec (.unreachableNack k i) s = .next (s.suspend k i 2 0) := by
  show execUnreachableNack k i s = _
  refine occur_some s _ _ mv.between ?_
  simp [mv.cmd, Cmd.copy?_eq mv.op, mv.susp, Option.isSome_iff_ne_none.mp mv.start, far]

end

/-! ## Contributions of a deterministic reduction -/

section
variable {s u : State} {k i op : Nat} {m : Cmd} {c : CopyCmd} {p : List Piece} (mv : Claims.Moving s k i m c) (det : c.op = .cred op true)
  (sent : m.sent = false) (all : s.batches c ≤ m.done) (due : Claims.Timely s k m.due)
  (walks : s.walk k m.scope 0 c.dst false .write 0 (CopyCmd.size c) (CopyCmd.size c) = .ok (p, u))
  (aligned : ∀ x ∈ p, x.va % elemBytes (Desc.code c.dst) = 0)

/-- Where the pieces of a destination lie, adjacent ones joined. -/
def redKeys (p : List Piece) : List (Nat × Nat) := joinRuns (p.map fun x => (x.key, x.len))
/-- The store of a reduction whose destination has those keys. -/
def redHome (p : List Piece) : Nat := storeOf (((redKeys p).head?.map Prod.fst).getD 0)
/-- The reductions of one store, and the bytes that they hold. -/
def State.redStore (u : State) (home : Nat) : List Reduction := u.reds.filter fun r => r.home == home
def redHeld (l : List Reduction) : Nat := l.foldl (fun a r => r.nodes.foldl (fun a x => a + x.2.2.length) a) 0
/-- The command has contributed. -/
def State.contributed (u : State) (k i : Nat) : State := u.modCmd k i fun m => { m with sent := true }

theorem State.contributed_part (u : State) (k i : Nat) : ((u.contributed k i).ctx k).part = (u.ctx k).part := by
  rw [State.contributed, State.modCmd, State.ctx_modCtx_same]; rfl

theorem walk_aligned (aligned : ∀ x ∈ p, x.va % elemBytes (Desc.code c.dst) = 0) :
    (p.find? fun x => x.va % elemBytes (Desc.code c.dst) != 0) = none :=
  List.find?_eq_none.mpr fun x hx => by simp [aligned x hx]

include mv sent all due

theorem mayContribute :
    ¬ (m.start.isNone = true ∨ m.susp.isSome = true ∨ m.sent = true ∨ m.done < s.batches c ∨ ((s.ctx k).exact = true ∧ s.now < m.due)) := by
  rintro (idle | susp | again | early | ⟨exact', late⟩)
  · exact absurd mv.start (by simp [Option.isNone_iff_eq_none.mp idle])
  · simp [mv.susp] at susp
  · simp [sent] at again
  · omega
  · exact absurd late (Nat.not_lt.mpr (due exact'))

include det walks aligned

theorem accept_new (apart : ∀ r ∈ u.reds, rangesMeet r.keys (redKeys p) = false) (room : (u.redStore (redHome p)).length < 256)
    (fits : redHeld (u.redStore (redHome p)) + CopyCmd.size c ≤ 2 ^ 24) :
    exec (.detContributionAccept k i) s = .next (if nodeLvl (Desc.node c.dst) = nodeLog (Desc.node c.dst) then
      ((u.contributed k i).putPieces k m.scope p m.data).markAt p m.taint
    else { u.contributed k i with reds := ⟨c.dst, redKeys p, (u.ctx k).part, nodeLog (Desc.node c.dst), Desc.code c.dst, op, m.scope,
      [(nodeLvl (Desc.node c.dst), nodeKey (Desc.node c.dst), m.data)], m.taint, redHome p⟩ :: u.reds }) := by
  show execDetContributionAccept k i s = _
  refine occur_some s _ _ mv.between ?_
  have nomeet : (u.reds.find? fun r => rangesMeet r.keys (joinRuns (p.map fun x => (x.key, x.len)))) = none :=
    List.find?_eq_none.mpr fun r hr => by simpa [redKeys] using apart r hr
  have small : ¬ (256 ≤ (u.redStore (redHome p)).length ∨ 2 ^ 24 < redHeld (u.redStore (redHome p)) + CopyCmd.size c) := by omega
  simp only [mv.cmd, Cmd.copy?_eq mv.op, Option.bind_eq_bind, Option.bind_some, det, mayContribute mv sent all due, if_false, walks,
    walk_aligned aligned, nomeet]
  refine (if_neg small).trans ?_
  by_cases top : nodeLvl (Desc.node c.dst) = nodeLog (Desc.node c.dst)
  · rw [if_pos top, if_pos top]; rfl
  · rw [if_neg top, if_neg top, ← State.contributed_part u k i]; rfl

theorem accept_held {r : Reduction} (found : u.reds.find? (fun r => rangesMeet r.keys (redKeys p)) = some r) (keys : r.keys = redKeys p)
    (log : r.log = nodeLog (Desc.node c.dst)) (code : r.code = Desc.code c.dst) (same : r.op = op)
    (apart : ∀ x ∈ r.nodes, nodesMeet (x.1, x.2.1) (nodeLvl (Desc.node c.dst), nodeKey (Desc.node c.dst)) = false)
    (fits : redHeld (u.redStore (redHome p)) + CopyCmd.size c ≤ 2 ^ 24) :
    let l := joinNode (Desc.code c.dst) op r.nodes (nodeLvl (Desc.node c.dst)) (nodeKey (Desc.node c.dst)) m.data (nodeLog (Desc.node c.dst) + 1)
    (∀ x, l.find? (fun x => x.1 = nodeLog (Desc.node c.dst)) = some x → exec (.detContributionAccept k i) s =
      .next ((({ u.contributed k i with reds := u.reds.filter (· ≠ r) } : State).putPieces k m.scope p x.2.2).markAt p (m.taint ++ r.taint))) ∧
    (l.find? (fun x => x.1 = nodeLog (Desc.node c.dst)) = none → exec (.detContributionAccept k i) s =
      .next { u.contributed k i with reds := { r with nodes := l, taint := m.taint ++ r.taint } :: u.reds.filter (· ≠ r) }) := by
  intro l
  have agree : ¬ (r.keys ≠ joinRuns (p.map fun x => (x.key, x.len)) ∨ r.log ≠ nodeLog (Desc.node c.dst) ∨ r.code ≠ Desc.code c.dst ∨ r.op ≠ op) := by
    simp [keys, log, code, same, redKeys]
  have free : ¬ (r.nodes.any fun x => nodesMeet (x.1, x.2.1) (nodeLvl (Desc.node c.dst), nodeKey (Desc.node c.dst))) = true := by
    simpa using fun a b l h => apart (a, b, l) h
  have small : ¬ 2 ^ 24 < redHeld (u.redStore (redHome p)) + CopyCmd.size c := by omega
  have found' : u.reds.find? (fun r => rangesMeet r.keys (joinRuns (p.map fun x => (x.key, x.len)))) = some r := found
  constructor
  · intro x hx
    show execDetContributionAccept k i s = _
    refine occur_some s _ _ mv.between ?_
    simp only [mv.cmd, Cmd.copy?_eq mv.op, Option.bind_eq_bind, Option.bind_some, det, mayContribute mv sent all due, if_false, walks,
      walk_aligned aligned, found', agree, free]
    refine (if_neg small).trans ?_
    rw [hx]; rfl
  · intro hx
    show execDetContributionAccept k i s = _
    refine occur_some s _ _ mv.between ?_
    simp only [mv.cmd, Cmd.copy?_eq mv.op, Option.bind_eq_bind, Option.bind_some, det, mayContribute mv sent all due, if_false, walks,
      walk_aligned aligned, found', agree, free]
    refine (if_neg small).trans ?_
    rw [hx]; rfl

end

/-! ## Collectives -/

section
variable {s : State} {k i : Nat} {m : Cmd} {c : CopyCmd} {peer : Peer} (on : Claims.Between s) (hm : (s.ctx k).cmds[i]? = some m)
  (hop : m.op = .copy c) (start : m.start.isSome = true) (coll : c.op.isColl = true) (group : (s.node (s.ctx k).node).group ≠ 0)
  (rank : peer.rank < (s.ctx k).regs.sys.ident[7].toNat)

/-- What a peer says of the collective that it takes part in. -/
def peerWhat (p : Peer) : Bool × Bool × Nat × Nat × Nat := if p.digest then (true, false, 0, 0, p.len) else (false, p.det, p.op, p.code, p.len)

include start coll group rank in
theorem mayExchange :
    ¬ (m.start.isNone = true ∨ (!c.op.isColl) = true ∨ (s.node (s.ctx k).node).group = 0 ∨ max 1 (s.ctx k).regs.sys.ident[7].toNat ≤ peer.rank) := by
  rintro (idle | other | alone | beyond)
  · exact absurd start (by simp [Option.isNone_iff_eq_none.mp idle])
  · simp [coll] at other
  · exact group alone
  · omega

include on hm hop start coll group rank

theorem exchange_opens (none_yet : s.coll (s.collKey k c) = none) (agree : peerWhat peer = CopyCmd.what c) :
    exec (.collectiveExchange k i peer) s = .next (s.setColl ⟨(s.collKey k c).1, (s.collKey k c).2.1, (s.collKey k c).2.2.1, (s.collKey k c).2.2.2,
      max 1 (s.ctx k).regs.sys.ident[7].toNat, peerWhat peer, [(peer.rank, peer.data)], [], [], [], false⟩) := by
  show execCollectiveExchange k i peer s = _
  refine occur_some s _ _ on ?_
  simp only [hm, Cmd.copy?_eq hop, Option.bind_eq_bind, Option.bind_some, mayExchange start coll group rank, if_false, none_yet]
  exact if_neg (not_not.mpr agree)

theorem exchange_joins {x : Coll} (found : s.coll (s.collKey k c) = some x) (full : x.full = false) (got : ∀ g ∈ x.got, g.1 ≠ peer.rank) :
    exec (.collectiveExchange k i peer) s = .next (if x.what = peerWhat peer then s.setColl { x with got := x.got ++ [(peer.rank, peer.data)] }
      else (s.setColl { x with bad := true }).suspendColl (s.collKey k c)) := by
  show execCollectiveExchange k i peer s = _
  refine occur_some s _ _ on ?_
  have fresh : ¬ ((x.got.any fun g => g.1 = peer.rank) = true ∨ x.full = true) := by
    rintro (seen | done)
    · obtain ⟨g, hg, same⟩ := List.any_eq_true.mp seen
      exact got g hg (of_decide_eq_true same)
    · simp [full] at done
  simp only [hm, Cmd.copy?_eq hop, Option.bind_eq_bind, Option.bind_some, mayExchange start coll group rank, if_false, found, fresh]
  by_cases agree : x.what = peerWhat peer
  · rw [if_pos agree]; exact if_neg (not_not.mpr agree)
  · rw [if_neg agree]; exact if_pos agree

end

/-! ## Pages that wait for a pull -/

theorem find?_map_keyed {α : Type} (l : List (Nat × α)) (f : Nat × α → Nat × α) (hf : ∀ z, (f z).1 = z.1) (n : Nat) :
    (l.map f).find? (fun x => x.1 = n) = (l.find? fun x => x.1 = n).map f := by
  rw [List.find?_map]; congr 2; funext z; simp [hf]

/-- A page when its element has been posted, or is to be posted again. -/
def repost (now page : Nat) (room : Bool) (z : Nat × Nat × Nat × Option Nat) : Nat × Nat × Nat × Option Nat :=
  if z.1 = page then (z.1, z.2.1, z.2.2.1, if room then none else some (now + 2 ^ 16)) else z

theorem repost_key (now page : Nat) (room : Bool) (z : Nat × Nat × Nat × Option Nat) : (repost now page room z).1 = z.1 := by
  unfold repost; split <;> rfl

theorem State.postPull_eq (s : State) (p page : Nat) : s.postPull p page =
    (s.postQ mgmtKey 2 (element 0x50 (p % 64 * 2 ^ 50 + page % 2 ^ 41))).modPart p fun x =>
      { x with pages := x.pages.map (repost s.now page (decide ((vget (s.ctx mgmtKey).q 2 []).length < queueCap mgmtKey 2))) } := rfl

theorem State.postPull_page {s : State} {p page leaf since : Nat} {w : Option Nat}
    (h : (s.part p).pages.find? (fun x => x.1 = page) = some (page, leaf, since, w)) :
    ((s.postPull p page).part p).pages.find? (fun x => x.1 = page) = some (page, leaf, since,
      if (vget (s.ctx mgmtKey).q 2 []).length < 4096 then none else some (s.now + 2 ^ 16)) := by
  rw [State.postPull_eq, State.part_modPart_same]
  refine (find?_map_keyed _ _ (repost_key _ _ _) page).trans ?_
  have cap : queueCap mgmtKey 2 = 4096 := rfl
  simp only [State.postQ_part, h, Option.map_some, repost, if_true, cap, decide_eq_true_eq]

theorem Ctx.sticky_bit (c : Ctx) : (c.sticky 8).regs.sys.sstat.getLsbD 8 = true := by
  simp [Ctx.sticky, Ctx.modSys]

theorem migpullRepost_posts {p page leaf since w : Nat} {s : State} (on : Claims.Between s)
    (found : (s.part p).pages.find? (fun x => x.1 = page) = some (page, leaf, since, some w)) (due : w ≤ s.now) (held : s.pageHeld p page = true) :
    exec (.migpullRepost p page) s = .next (s.postPull p page) := by
  show execMigpullRepost p page s = _
  refine occur_some s _ _ on ?_
  simp only [found, Option.bind_eq_bind, Option.bind_some, due, held, and_self, if_true]

/-! ## Commands that leave their timeline -/

/-- The context without command i. -/
def Ctx.dropCmd (c : Ctx) (i : Nat) : Ctx := { c with cmds := c.cmds.eraseIdx i }

theorem commandPerform_copies {k i : Nat} {m : Cmd} {c : CopyCmd} {s : State} (mv : Claims.Moving s k i m c)
    (first : ∀ w ∈ (s.ctx k).cmds.take i, w.eng ≠ m.eng) (all : s.batches c ≤ m.done) (due : Claims.Timely s k m.due) (cpy : c.op = .cpy)
    (never : m.suspAt = 0) (page : m.page = none) (live : (s.ctx k).status ≠ .free) :
    exec (.commandPerform k i) s = .next ((s.modCtx k fun x => x.dropCmd i).postQ k 1 (element 0x13 (engBit m.eng * 2 ^ 55 + m.num % 2 ^ 48))) := by
  show execCommandPerform k i s = _
  refine occur_some s _ _ mv.between ?_
  have turn : ¬ (m.start.isNone = true ∨ m.susp.isSome = true ∨ ((s.ctx k).cmds.take i).any (fun w => w.eng = m.eng) = true) := by
    rintro (idle | susp | other)
    · exact absurd mv.start (by simp [Option.isNone_iff_eq_none.mp idle])
    · simp [mv.susp] at susp
    · obtain ⟨w, hw, same⟩ := List.any_eq_true.mp other
      exact first w hw (of_decide_eq_true same)
  have ready : ¬ ((m.done < s.batches c ∧ (!(c.op == .cpref && decide (m.due < s.now))) = true) ∨
      ((s.ctx k).exact = true ∧ (!(match c.op with | .cwait _ _ => true | _ => false)) = true ∧ s.now < m.due)) := by
    rintro (⟨early, -⟩ | ⟨exact', -, late⟩)
    · omega
    · exact absurd late (Nat.not_lt.mpr (due exact'))
  have retires : s.retireCmd k i m = (s.modCtx k fun x => x.dropCmd i).postQ k 1 (element 0x13 (engBit m.eng * 2 ^ 55 + m.num % 2 ^ 48)) := by
    have status : ((s.modCtx k fun x => x.dropCmd i).ctx k).status ≠ .free := by rw [State.ctx_modCtx_same]; exact live
    simp only [State.retireCmd, mv.cmd, mv.susp, page, Option.isSome_none, Bool.false_eq_true, ne_eq, not_true_eq_false, or_self, if_false,
      Cmd.copy?_eq mv.op, never, if_true]
    exact if_neg status
  simp only [mv.cmd, Option.bind_eq_bind, Option.bind_some, turn, if_false, mv.op]
  refine (if_neg ready).trans ?_
  simp only [cpy, CopyOp.isColl, Bool.false_and, Bool.false_eq_true, if_false, State.copyPerform, Option.map_some, retires]

section
variable {s : State} {k i : Nat} {m : Cmd} {c : CopyCmd} {h : Nat × Nat} (on : Claims.Between s) (hm : (s.ctx k).cmds[i]? = some m)
  (hop : m.op = .copy c) (hop' : m.hop = some h) (going : m.start = none ∨ m.done < s.batches c) (passed : s.passed m c ≤ m.done)

include hop' going passed in
theorem State.spent_of_passed : s.spent m c = true := by
  rcases going with idle | more
  · simp [State.spent, hop', idle, passed]
  · simp [State.spent, hop', more, passed]

include on hm hop hop' going passed

theorem sourceFenced_unsignalled (quiet : s.signalOf k c = none) : exec (.sourceFenced k i) s = .next (s.modCtx k fun x => x.dropCmd i) := by
  show execSourceFenced k i s = _
  refine occur_some s _ _ on ?_
  simp only [hm, Cmd.copy?_eq hop, Option.bind_eq_bind, Option.bind_some, State.spent_of_passed hop' going passed, quiet]
  rfl

/-- The bytes of a copy that landed. -/
def landedBytes (m : Cmd) (c : CopyCmd) : Nat := min (64 * (m.done + m.landed.length)) (CopyCmd.size c) + m.split.foldl (fun n x => n + x.2) 0

omit on hm hop hop' going passed in
/-- The owners learn of the bytes that landed. -/
def State.tellOwners (s : State) (k who bytes : Nat) (owners : List Nat) : State :=
  owners.foldl (fun s j => s.postQ j 2 (element 0x11 (who * 2 ^ 52 + coreOf k % 256 * 2 ^ 44 + min bytes 0xFFFFFFFF))) s

theorem sourceFenced_signals {who : Nat} {owners : List Nat} (sig : s.signalOf k c = some (who, owners)) (late : max m.lastLand m.issued + 2 ^ 20 ≤ s.now) :
    exec (.sourceFenced k i) s = .next ((s.tellOwners k who (landedBytes m c) (owners.filter fun j => (s.ctx j).status != .free)).modCtx k
      fun x => x.dropCmd i) := by
  show execSourceFenced k i s = _
  refine occur_some s _ _ on ?_
  simp only [hm, Cmd.copy?_eq hop, Option.bind_eq_bind, Option.bind_some, State.spent_of_passed hop' going passed, sig, Nat.not_lt.mpr late]
  rfl

end

end Sys2Proof.Machine

namespace Sys2Proof.Machine

/-! ## Suspensions one after another -/

theorem foldl_reaches {α β : Type} {P Q : β → Prop} {f : β → α → β} {l : List α} {x : α} {b : β} (hx : x ∈ l) (keepP : ∀ b y, P b → P (f b y))
    (hit : ∀ b, P b → Q (f b x)) (keepQ : ∀ b y, Q b → Q (f b y)) (hb : P b) : Q (l.foldl f b) := by
  obtain ⟨before, later, rfl⟩ := List.append_of_mem hx
  rw [List.foldl_append, List.foldl_cons]
  exact foldl_keeps Q f later _ (hit _ (foldl_keeps P f before b hb keepP)) keepQ

theorem Tbl.mem_of_find {α : Type} {t : Tbl α} {k : Nat} {v : α} (h : Tbl.find t k = some v) : (k, v) ∈ t := by
  induction t with
  | nil => simp [Tbl.find] at h
  | cons a r ih =>
    unfold Tbl.find at h
    split at h
    · next hk => cases h; cases hk; exact List.mem_cons_self
    · exact List.mem_cons_of_mem _ (ih h)

theorem State.mem_ctxKeys_of_cmd {s : State} {k i : Nat} {m : Cmd} (h : (s.ctx k).cmds[i]? = some m) : k ∈ s.ctxKeys := by
  cases found : Tbl.find s.ctxs k with
  | none => simp [State.ctx, Tbl.getD, found, Ctx.zero] at h
  | some c => exact List.mem_map.mpr ⟨(k, c), Tbl.mem_of_find found, rfl⟩

theorem State.suspend_ctx_ne (s : State) {k j : Nat} (i reason va : Nat) (h : j ≠ k) : (s.suspend k i reason va).ctx j = s.ctx j := by
  unfold State.suspend
  split
  · rfl
  · split
    · exact State.ctx_modCtx_ne _ _ _ _ h
    · rw [State.postQ, State.ctx_modCtx_ne _ _ _ _ h, State.modCmd, State.ctx_modCtx_ne _ _ _ _ h]

theorem State.suspend_kept (s : State) (k i reason va j : Nat) : (s.ctx j).Kept ((s.suspend k i reason va).ctx j) := by
  unfold State.suspend
  split
  · exact .refl _
  · split
    · refine State.modCtx_kept _ _ _ (fun c => ?_) j
      exact ⟨rfl, rfl, rfl, rfl, rfl, rfl⟩
    · refine Ctx.Kept.trans (State.modCtx_kept _ _ _ (fun c => ?_) j) (State.postQ_kept ..)
      exact ⟨rfl, rfl, rfl, rfl, rfl, rfl⟩

theorem State.collKey_congr {s t : State} {k : Nat} (h : (s.ctx k).Kept (t.ctx k)) (c : CopyCmd) : t.collKey k c = s.collKey k c := by
  simp only [State.collKey, h.node, h.ident, h.idx]

/-- Command i of the live context k is suspended and holds at no page. -/
def Stopped (k i reason va : Nat) (s : State) : Prop :=
  (s.ctx k).status ≠ .free ∧ ∃ n, (s.ctx k).cmds[i]? = some n ∧ n.susp = some (reason, va) ∧ n.page = none
/-- It is that, or still command m. -/
def Standing (k i reason va : Nat) (m : Cmd) (s : State) : Prop :=
  Stopped k i reason va s ∨ ((s.ctx k).status ≠ .free ∧ (s.ctx k).cmds[i]? = some m)

theorem Standing.cmd {k i reason va : Nat} {m : Cmd} {s : State} (h : Standing k i reason va m s) :
    (s.ctx k).status ≠ .free ∧ ∃ n, (s.ctx k).cmds[i]? = some n := by
  rcases h with ⟨live, n, hn, -⟩ | ⟨live, hn⟩
  · exact ⟨live, n, hn⟩
  · exact ⟨live, m, hn⟩

theorem Standing.suspended {k i reason va : Nat} {m : Cmd} {s : State} (h : Standing k i reason va m s) : Stopped k i reason va (s.suspend k i reason va) := by
  obtain ⟨live, n, hn⟩ := h.cmd
  refine ⟨?_, n.suspended reason va s.now, ?_, rfl, rfl⟩
  · rw [(State.suspend_kept ..).status]; exact live
  · rw [State.suspend_cmds reason va hn live, List.getElem?_modify_eq, hn]; rfl

/-- A suspension with the same reason of any command of any context leaves a command standing. -/
theorem Standing.keeps {k i reason va : Nat} {m : Cmd} {s : State} (h : Standing k i reason va m s) (j n : Nat) :
    Standing k i reason va m (s.suspend j n reason va) := by
  by_cases hj : k = j
  · subst hj
    by_cases hn : n = i
    · subst hn; exact .inl h.suspended
    · cases there : (s.ctx k).cmds[n]? with
      | none => simpa [State.suspend, there] using h
      | some y =>
        have same : ((s.suspend k n reason va).ctx k).cmds[i]? = (s.ctx k).cmds[i]? := by
          rw [State.suspend_cmds reason va there h.cmd.1, List.getElem?_modify_ne _ _ hn]
        simpa only [Standing, Stopped, same, (State.suspend_kept ..).status] using h
  · simpa only [Standing, Stopped, State.suspend_ctx_ne s n reason va hj] using h

theorem Stopped.keeps {k i reason va : Nat} {s : State} (h : Stopped k i reason va s) (j n : Nat) : Stopped k i reason va (s.suspend j n reason va) := by
  obtain ⟨live, y, hy, stopped⟩ := h
  rcases (show Standing k i reason va y s from .inr ⟨live, hy⟩).keeps j n with h | ⟨live', hy'⟩
  · exact h
  · exact ⟨live', y, hy', stopped⟩

/-! ## Accesses held too long, and collectives that fail -/

/-- Command m holds at the page since 2^26 cycles or longer. -/
def heldLong (now page : Nat) (m : Cmd) : Bool := match m.page with | some (g, _, t) => g = page && decide (t + 2 ^ 26 ≤ now) | none => false
/-- The commands of a partition's contexts that do so. -/
def State.overdue (s : State) (p page : Nat) : List (Nat × Nat) :=
  (s.ctxKeys.filter fun k => (s.ctx k).part = p).flatMap fun k =>
    ((List.range (s.ctx k).cmds.length).filter fun i => match (s.ctx k).cmds[i]? with | some m => heldLong s.now page m | none => false).map fun i => (k, i)

theorem State.mem_overdue {s : State} {k i page leaf since : Nat} {m : Cmd} (hk : k ∈ s.ctxKeys) (hm : (s.ctx k).cmds[i]? = some m)
    (page' : m.page = some (page, leaf, since)) (long : since + 2 ^ 26 ≤ s.now) : (k, i) ∈ s.overdue (s.ctx k).part page := by
  refine List.mem_flatMap.mpr ⟨k, List.mem_filter.mpr ⟨hk, by simp⟩, List.mem_map.mpr ⟨i, List.mem_filter.mpr ⟨?_, ?_⟩, rfl⟩⟩
  · exact List.mem_range.mpr (List.getElem?_eq_some_iff.mp hm).1
  · simp only [hm, heldLong, page']; simpa using long

theorem migrationHoldTimeout_stops {k i page leaf since : Nat} {m : Cmd} {s : State} (on : Claims.Between s) (hk : k ∈ s.ctxKeys)
    (live : (s.ctx k).status ≠ .free) (hm : (s.ctx k).cmds[i]? = some m) (hp : m.page = some (page, leaf, since)) (long : since + 2 ^ 26 ≤ s.now) :
    Claims.Happens (.migrationHoldTimeout (s.ctx k).part page) s (Stopped k i 0 (page * 65536)) := by
  have hit := State.mem_overdue hk hm hp long
  refine ⟨(s.overdue (s.ctx k).part page).reverse.foldl (fun s x => s.suspend x.1 x.2 0 (page * 65536)) s, ?_, ?_⟩
  · show execMigrationHoldTimeout (s.ctx k).part page s = _
    exact occur_some s _ _ on (if_neg (List.ne_nil_of_mem hit))
  · exact foldl_reaches (P := Standing k i 0 (page * 65536) m) (List.mem_reverse.mpr hit) (fun s x h => h.keeps x.1 x.2) (fun s h => h.suspended)
      (fun s x h => h.keeps x.1 x.2) (.inr ⟨live, hm⟩)

/-- One step of the suspension of a collective's participants. -/
def State.suspendMember (key : (Nat × Nat) × Nat × Nat × Nat) (k : Nat) (s : State) (i : Nat) : State :=
  match (s.ctx k).cmds[i]? with
  | some m => match m.copy? with
    | some c => if c.op.isColl && m.susp.isNone && m.start.isSome && s.collKey k c == key then s.suspend k i 7 0 else s
    | none => s
  | none => s

theorem State.suspendColl_eq (s : State) (key : (Nat × Nat) × Nat × Nat × Nat) :
    s.suspendColl key = s.ctxKeys.foldl (fun s k => (List.range (s.ctx k).cmds.length).foldl (State.suspendMember key k) s) s := rfl

theorem State.suspendMember_cases (key : (Nat × Nat) × Nat × Nat × Nat) (k : Nat) (s : State) (i : Nat) :
    s.suspendMember key k i = s ∨ s.suspendMember key k i = s.suspend k i 7 0 := by
  unfold State.suspendMember
  split
  · split
    · split
      · exact .inr rfl
      · exact .inl rfl
    · exact .inl rfl
  · exact .inl rfl

/-- Command m of a collective stands while its participants are suspended. -/
def Awaiting (k i : Nat) (m : Cmd) (c : CopyCmd) (key : (Nat × Nat) × Nat × Nat × Nat) (s : State) : Prop :=
  Standing k i 7 0 m s ∧ s.collKey k c = key

section
variable {k i : Nat} {m : Cmd} {c : CopyCmd} {key : (Nat × Nat) × Nat × Nat × Nat} {s : State}

theorem Awaiting.keeps (h : Awaiting k i m c key s) (j n : Nat) : Awaiting k i m c key (s.suspendMember key j n) := by
  rcases State.suspendMember_cases key j s n with same | stop
  · rw [same]; exact h
  · rw [stop]; exact ⟨h.1.keeps j n, (State.collKey_congr (State.suspend_kept ..) c).trans h.2⟩

theorem Stopped.keepsMember (h : Stopped k i 7 0 s) (j n : Nat) : Stopped k i 7 0 (s.suspendMember key j n) := by
  rcases State.suspendMember_cases key j s n with same | stop
  · rw [same]; exact h
  · rw [stop]; exact h.keeps j n

theorem Awaiting.stopped (hop : m.op = .copy c) (coll : c.op.isColl = true) (start : m.start.isSome = true) (susp : m.susp = none)
    (h : Awaiting k i m c key s) : Stopped k i 7 0 (s.suspendMember key k i) := by
  obtain ⟨stopped | ⟨live, hm⟩, named⟩ := h
  · exact stopped.keepsMember k i
  · have : s.suspendMember key k i = s.suspend k i 7 0 := by
      simp only [State.suspendMember, hm, Cmd.copy?_eq hop, coll, susp, start, named, Option.isNone_none, beq_self_eq_true, Bool.and_self, if_true]
    rw [this]
    exact (show Standing k i 7 0 m s from .inr ⟨live, hm⟩).suspended

/-- A failed collective suspends each of its participants that is under way. -/
theorem State.suspendColl_stops (hop : m.op = .copy c) (coll : c.op.isColl = true) (start : m.start.isSome = true) (susp : m.susp = none)
    (live : (s.ctx k).status ≠ .free) (hm : (s.ctx k).cmds[i]? = some m) : Stopped k i 7 0 (s.suspendColl (s.collKey k c)) := by
  rw [State.suspendColl_eq]
  refine foldl_reaches (P := Awaiting k i m c (s.collKey k c)) (State.mem_ctxKeys_of_cmd hm) ?_ ?_ ?_ ⟨.inr ⟨live, hm⟩, rfl⟩
  · intro t j h
    exact foldl_keeps _ _ _ t h fun t n h => h.keeps j n
  · intro t h
    obtain ⟨-, n, hn⟩ := h.1.cmd
    exact foldl_reaches (List.mem_range.mpr (List.getElem?_eq_some_iff.mp hn).1) (fun t n h => h.keeps k n) (fun t h => h.stopped hop coll start susp)
      (fun t n h => h.keepsMember k n) h
  · intro t j h
    exact foldl_keeps _ _ _ t h fun t n h => h.keepsMember j n

end

end Sys2Proof.Machine

namespace Sys2Proof.Machine

/-! ## A batch lands -/

/-- A deterministic context's copy that was held on a page tells the time that it was late. -/
def State.lateBy (u : State) (k : Nat) (m : Cmd) (now : Nat) : State :=
  match m.page with | some (_, _, since) => u.modCtx k fun x => x.addLate 0 (now - since) | none => u

/-- Where the bytes that a batch moves next end in the stream. -/
def State.batchEnd (s : State) (k : Nat) (m : Cmd) (c : CopyCmd) (b : Nat) : Nat := (s.batchBytes k m c b).1 + (s.batchBytes k m c b).2

/-- The command after the batch, or a part of it, has landed. -/
def Cmd.batchLanded (m : Cmd) (b upto size now : Nat) : Cmd :=
  if upto < min (64 * b + 64) size then { m with split := (b, upto - 64 * b) :: m.split.filter (·.1 ≠ b), lastLand := now }
  else Cmd.land { m with split := m.split.filter (·.1 ≠ b) } b now

theorem Cmd.batchLanded_part (m : Cmd) {b upto size : Nat} (now : Nat) (h : upto < min (64 * b + 64) size) :
    m.batchLanded b upto size now = { m with split := (b, upto - 64 * b) :: m.split.filter (·.1 ≠ b), lastLand := now } := if_pos h
theorem Cmd.batchLanded_whole (m : Cmd) {b upto size : Nat} (now : Nat) (h : ¬ upto < min (64 * b + 64) size) :
    m.batchLanded b upto size now = Cmd.land { m with split := m.split.filter (·.1 ≠ b) } b now := if_neg h

section
variable {s u : State} {k i b : Nat} {m : Cmd} {c : CopyCmd} (mv : Claims.Moving s k i m c) (may : Claims.MayLand s k m c b)
include mv may

theorem mayLand_guard : (m.start.isNone || m.susp.isSome || decide (s.passed m c ≤ b) || m.landedAt b || (c.op.ordered || (s.ctx k).exact) && b != m.done ||
    ((s.ctx k).exact && decide (s.now < s.batchTime k m (s.batches c) b)) || (m.page.isNone && decide (m.due < s.now)) ||
    !(s.ctx k).tilesClear s.now m) = false := by
  obtain ⟨passed, fresh, ordered, timed, due, clear⟩ := may
  have started : m.start.isNone = false := Option.isNone_eq_false_iff.mpr mv.start
  have inOrder : ((c.op.ordered || (s.ctx k).exact) && b != m.done) = false := by
    cases ho : c.op.ordered
    · cases he : (s.ctx k).exact
      · rfl
      · simp [(timed he).1]
    · simp [ordered ho]
  have atTime : ((s.ctx k).exact && decide (s.now < s.batchTime k m (s.batches c) b)) = false := by
    cases he : (s.ctx k).exact
    · rfl
    · simpa using (timed he).2
  have inTime : (m.page.isNone && decide (m.due < s.now)) = false := by
    cases hp : m.page
    · simpa using due hp
    · rfl
  simp [started, mv.susp, passed, fresh, inOrder, atTime, inTime, clear]

theorem copyBatchLand_lands (e : Option (Nat × Bool)) (coll : c.op.isColl = false) (moves : s.moveBatch k i m c b = .ok ((), u)) :
    exec (.copyBatchLand k i ⟨b, e⟩) s = .next
      ((((u.lateBy k m s.now).modCmd k i fun y => y.batchLanded b (s.batchEnd k m c b) (CopyCmd.size c) u.now).sendBatch k m c b).correctBatch k m c ⟨b, e⟩) := by
  show execCopyBatchLand k i ⟨b, e⟩ s = _
  refine occur_some s _ _ mv.between ?_
  have now : (u.lateBy k m s.now).now = u.now := by unfold State.lateBy; split <;> rfl
  simp only [mv.cmd, Cmd.copy?_eq mv.op, Option.bind_eq_bind, Option.bind_some, mayLand_guard mv may, moves, coll, Bool.false_and, Bool.false_eq_true, if_false]
  rw [← now]
  unfold State.lateBy
  cases m.page <;> (dsimp only; split <;> rfl)

end

end Sys2Proof.Machine

namespace Sys2Proof.Machine

/-! ## Bytes of memory in order -/

theorem byte_mod_256 (b : Byte) (n : Nat) : BitVec.ofNat 8 (b.toNat + 256 * n) = b ∧ (b.toNat + 256 * n) / 256 = n := by
  have := b.isLt
  refine ⟨BitVec.eq_of_toNat_eq ?_, by omega⟩
  rw [BitVec.toNat_ofNat]; omega

theorem bytesOf_getN (m : Memory) (a n : Nat) : bytesOf (m.getN a (n + 1)) (n + 1) = m.get a :: bytesOf (m.getN (a + 1) n) n := by
  rw [bytesOf, Memory.getN, (byte_mod_256 _ _).1, (byte_mod_256 _ _).2]

theorem bytesOf_length (v n : Nat) : (bytesOf v n).length = n := by
  induction n generalizing v with
  | zero => rfl
  | succ n ih => rw [bytesOf, List.length_cons, ih]

theorem bytesOf_getN_add (m : Memory) (a n l : Nat) :
    bytesOf (m.getN a (n + l)) (n + l) = bytesOf (m.getN a n) n ++ bytesOf (m.getN (a + n) l) l := by
  induction n generalizing a with
  | zero => simp [bytesOf]
  | succ n ih => rw [Nat.add_right_comm, bytesOf_getN, bytesOf_getN, ih, List.cons_append, Nat.add_right_comm, Nat.add_assoc a]

theorem ofBytes_bytesOf_getN (m : Memory) (a n : Nat) : ofBytes (bytesOf (m.getN a n) n) = m.getN a n := by
  induction n generalizing a with
  | zero => rfl
  | succ n ih => rw [bytesOf_getN, ofBytes, ih, Memory.getN]

theorem putN_append (m : Memory) (a : Nat) (l r : List Byte) :
    m.putN a (l ++ r).length (ofBytes (l ++ r)) = (m.putN a l.length (ofBytes l)).putN (a + l.length) r.length (ofBytes r) := by
  induction l generalizing m a with
  | nil => rfl
  | cons b l ih =>
    simp only [List.cons_append, List.length_cons, Memory.putN, ofBytes, (byte_mod_256 _ _).1, (byte_mod_256 _ _).2, ih]
    rw [Nat.add_right_comm, Nat.add_assoc a]

/-! ## Scratchpad bytes as the engines reach them -/

theorem cachable_pad {key : Nat} (h : 2 ≤ spaceOf key) (uc : Bool) : cachable key uc = false := by
  simp [cachable, Nat.not_lt.mpr h]

theorem spaceOf_mono {key : Nat} (h : 2 ≤ spaceOf key) (n : Nat) : 2 ≤ spaceOf (key + n) :=
  Nat.le_trans h (Nat.div_le_div_right (Nat.le_add_right key n))

theorem State.readAt_pad (s : State) (m : Memory) (plain part scope : Nat) (uc : Bool) {key : Nat} (h : 2 ≤ spaceOf key) (n : Nat) :
    s.readAt m plain part scope uc key n = m.getN key n := by
  induction n generalizing key with
  | zero => rfl
  | succ n ih => simp only [State.readAt, Memory.getN, State.byteAt, cachable_pad h, ih (spaceOf_mono h 1), Bool.false_eq_true, false_and, if_false]

theorem State.writeAt_pad (s : State) (plain part scope : Nat) (uc : Bool) {key : Nat} (h : 2 ≤ spaceOf key) (n v : Nat) :
    s.writeAt plain part scope uc key n v = s.putN key n v := by
  induction n generalizing s key v with
  | zero => rfl
  | succ n ih =>
    simp only [State.writeAt, State.writeByteAt, cachable_pad h, ih _ (spaceOf_mono h 1), Bool.false_eq_true, false_and, and_false, if_false]
    rfl

theorem State.clearPoison_none {s : State} (h : s.poison = []) (key n : Nat) : s.clearPoison key n = s := by
  obtain ⟨⟨⟩, _, _, _⟩ := s
  cases h
  rfl

theorem State.engRead_pad (s : State) (k sc : Nat) {key : Nat} (h : 2 ≤ spaceOf key) (n : Nat) (uc : Bool) : s.engRead k sc key n uc = s.mem.getN key n :=
  State.readAt_pad _ _ _ _ _ _ h n

theorem State.engWrite_pad {s : State} (clean : s.poison = []) (k sc : Nat) {key : Nat} (h : 2 ≤ spaceOf key) (n v : Nat) (uc : Bool) :
    s.engWrite k sc key n v uc = s.putN key n v := by
  have fill : s.fillNarrow (s.ctx k).exact (plainOf (coreOf k)) (s.ctx k).part (engScope sc key) uc key n = s := by
    simp [State.fillNarrow, cachable_pad h]
  rw [State.engWrite, fill, State.writeAt_pad _ _ _ _ _ h, State.clearPoison_none (s := s.putN key n v) clean]
  simp [State.noteNarrow, cachable_pad h]

theorem State.reach_pad (s : State) (k sc : Nat) {key : Nat} (h : 2 ≤ spaceOf key) (n : Nat) (uc : Bool) : s.reach k sc key n uc = s := by
  simp [State.reach, State.ask, State.touchHome, cachable_pad h, h]

/-- The pieces of n bytes of a core's scratchpad from address a on, cut as chunks of an address range are. -/
def ownPieces (core a n fuel : Nat) : List Piece := (chunksOf a n fuel).map fun x => ⟨x.1, x.2, mkey (padSpace core) x.1, false⟩

theorem spaceOf_own (core : Nat) {a : Nat} (h : a < spaceSize) : spaceOf (mkey (padSpace core) a) = padSpace core := by
  rw [spaceOf, mkey, Nat.mul_comm, Nat.mul_add_div (by decide), Nat.div_eq_of_lt h, Nat.add_zero]

theorem mkey_add (sp a n : Nat) : mkey sp (a + n) = mkey sp a + n := (Nat.add_assoc ..).symm

/-- The first of those pieces: not empty, within the range and one 64 KiB page. -/
def chunkLen (a n : Nat) : Nat := min n (65536 - a % 65536)
theorem chunkLen_le (a n : Nat) : chunkLen a n ≤ n := Nat.min_le_left ..
theorem chunkLen_pos (a : Nat) {n : Nat} (h : n ≠ 0) : 0 < chunkLen a n := by unfold chunkLen; omega

theorem ownPieces_empty (core a fuel : Nat) : ownPieces core a 0 fuel = [] := by cases fuel <;> rfl
theorem ownPieces_cons (core a fuel : Nat) {n : Nat} (h : n ≠ 0) : ownPieces core a n (fuel + 1) =
    ⟨a, chunkLen a n, mkey (padSpace core) a, false⟩ :: ownPieces core (a + chunkLen a n) (n - chunkLen a n) fuel := by
  simp only [ownPieces, chunksOf, h, if_false, List.map_cons, chunkLen]

section
variable {s : State} {k sc core : Nat}

theorem spaceOf_own_le {a : Nat} (h : a < spaceSize) : 2 ≤ spaceOf (mkey (padSpace core) a) := by
  rw [spaceOf_own core h, padSpace]; omega

theorem State.getPieces_own {fuel a n : Nat} (enough : n ≤ fuel) (inside : a + n ≤ spaceSize) :
    s.getPieces k sc (ownPieces core a n fuel) = bytesOf (s.mem.getN (mkey (padSpace core) a) n) n := by
  induction fuel generalizing a n with
  | zero => rw [Nat.le_zero.mp enough]; rfl
  | succ fuel ih =>
    by_cases hn : n = 0
    · subst hn; rw [ownPieces_empty]; rfl
    · have some_byte := chunkLen_pos a hn
      have within := chunkLen_le a n
      have rest := ih (a := a + chunkLen a n) (n := n - chunkLen a n) (by omega) (by omega)
      have split := bytesOf_getN_add s.mem (mkey (padSpace core) a) (chunkLen a n) (n - chunkLen a n)
      rw [Nat.add_sub_cancel' within] at split
      rw [ownPieces_cons core a fuel hn, split, ← mkey_add, ← rest, State.getPieces, List.flatMap_cons, State.engRead_pad _ _ _ (spaceOf_own_le (by omega))]
      rfl

theorem State.putPieces_own (clean : s.poison = []) {fuel a : Nat} {data : List Byte} (enough : data.length ≤ fuel) (inside : a + data.length ≤ spaceSize) :
    s.putPieces k sc (ownPieces core a data.length fuel) data = s.putN (mkey (padSpace core) a) data.length (ofBytes data) := by
  induction fuel generalizing s a data with
  | zero => rw [List.length_eq_zero_iff.mp (Nat.le_zero.mp enough)]; rfl
  | succ fuel ih =>
    by_cases hn : data.length = 0
    · rw [List.length_eq_zero_iff.mp hn]; rw [List.length_nil, ownPieces_empty]; rfl
    · have some_byte := chunkLen_pos a hn
      have within := chunkLen_le a data.length
      have first : (data.take (chunkLen a data.length)).length = chunkLen a data.length := by rw [List.length_take]; omega
      have after : (data.drop (chunkLen a data.length)).length = data.length - chunkLen a data.length := List.length_drop
      have split := putN_append s.mem (mkey (padSpace core) a) (data.take (chunkLen a data.length)) (data.drop (chunkLen a data.length))
      rw [List.take_append_drop, first, ← mkey_add] at split
      have rest := ih (s := s.putN (mkey (padSpace core) a) (chunkLen a data.length) (ofBytes (data.take (chunkLen a data.length)))) clean
        (a := a + chunkLen a data.length) (data := data.drop (chunkLen a data.length)) (by omega) (by omega)
      rw [after] at rest
      rw [ownPieces_cons core a fuel hn, State.putPieces, State.engWrite_pad clean _ _ (spaceOf_own_le (by omega)), rest, ← after]
      simp only [State.putN, split]

end

/-! ## The walk of one run in the own scratchpad -/

section
variable {s : State} {k a : Nat}

theorem Desc.runAddr_zero (d : Desc) (h : Desc.base d < 2 ^ 64) : Desc.runAddr d 0 = Desc.base d := by
  simp only [Desc.runAddr, Nat.zero_mod, Nat.zero_div, Nat.cast_zero, Int.zero_mul, Int.add_zero, ofSigned]
  omega

theorem State.copyLoc_own (mesh : isMesh k = true) (up : (s.core (coreOf k)).health.fenced = false) (sp : Nat) (m : AccMode) (inside : a < 0x300000)
    (bank : (s.ctx k).ctl.banks.getLsbD (a / 0x20000) = true) : s.copyLoc k sp a m = .ok ((mkey (padSpace (coreOf k)) a, false), s) := by
  have locate : s.locate k a m = .ok (mkey (padSpace (coreOf k)) a) false s := by
    have granted : s.bankOk k (coreOf k) (a / 0x20000) = true := by simp [State.bankOk, bank]
    simp only [State.locate, State.padKey, mesh, inside, granted, show a < 0x1000000 by omega, if_true]
  have window : padCore k a = some (coreOf k) := by simp [padCore, mesh, inside]
  have space : ¬ ((spaceOf (mkey (padSpace (coreOf k)) a) = 1 ∨ spaceOf (mkey (padSpace (coreOf k)) a) = 2) ∧
      spaceOf (mkey (padSpace (coreOf k)) a) ≠ sp) := by
    rw [spaceOf_own _ (show a < spaceSize by unfold spaceSize; omega), padSpace]; omega
  simp only [State.copyLoc, window, Option.any_some, up, Bool.false_and, Bool.false_eq_true, if_false, locate, space]

/-- The run's bytes from o on, where they lie in banks of the context. -/
theorem State.walk_own (mesh : isMesh k = true) (up : (s.core (coreOf k)).health.fenced = false) (sc sp : Nat) (m : AccMode) (d : Desc) {fuel o n : Nat}
    (enough : n ≤ fuel) (run : o + n ≤ Desc.len d) (inside : Desc.base d + o + n ≤ 0x300000)
    (banks : ∀ j, j < n → (s.ctx k).ctl.banks.getLsbD ((Desc.base d + o + j) / 0x20000) = true) :
    s.walk k sc sp d false m o n fuel = .ok (ownPieces (coreOf k) (Desc.base d + o) n fuel, s) := by
  induction fuel generalizing o n with
  | zero => rfl
  | succ fuel ih =>
    by_cases hn : n = 0
    · subst hn; rw [ownPieces_empty]; rfl
    · have some_byte := chunkLen_pos (Desc.base d + o) hn
      have within := chunkLen_le (Desc.base d + o) n
      have address : s.streamAt k sc sp d false o = .ok (Desc.base d + o, s) := by
        have first : o / Desc.len d = 0 := Nat.div_eq_of_lt (by omega)
        have inRun : o % Desc.len d = o := Nat.mod_eq_of_lt (by omega)
        have here : (Desc.base d + o) % 2 ^ 64 = Desc.base d + o := Nat.mod_eq_of_lt (by omega)
        simp only [State.streamAt, first, inRun, Desc.runAddr_zero d (by omega), here, Bool.false_eq_true, if_false]
      have length : min n (min (Desc.len d - o % Desc.len d) (65536 - (Desc.base d + o) % 65536)) = chunkLen (Desc.base d + o) n := by
        rw [Nat.mod_eq_of_lt (show o < Desc.len d by omega)]; unfold chunkLen; omega
      have rest := ih (o := o + chunkLen (Desc.base d + o) n) (n := n - chunkLen (Desc.base d + o) n) (by omega) (by omega) (by omega) fun j hj => by
        have := banks (chunkLen (Desc.base d + o) n + j) (by omega)
        rwa [← Nat.add_assoc, Nat.add_assoc (Desc.base d)] at this
      have bank := banks 0 (by omega)
      rw [ownPieces_cons _ _ _ hn, State.walk, if_neg hn, address]
      simp only [Except.bind, bind, length, State.copyLoc_own mesh up sp m (show Desc.base d + o < 0x300000 by omega) bank,
        State.reach_pad s k sc (spaceOf_own_le (show Desc.base d + o < spaceSize by unfold spaceSize; omega)), rest, Nat.add_assoc]

end

/-! ## A batch of a flat copy within the own scratchpad -/

theorem CopyCmd.size_cpy {c : CopyCmd} (cpy : c.op = .cpy) (flat : Desc.runs c.dst = 1) : CopyCmd.size c = Desc.len c.dst := by
  simp only [CopyCmd.size, cpy, Desc.bytes, flat, Nat.mul_one]

theorem State.batches_cpy {c : CopyCmd} (s : State) (cpy : c.op = .cpy) : s.batches c = (CopyCmd.size c + 63) / 64 := by
  simp only [State.batches, cpy]

theorem State.passed_le (s : State) (m : Cmd) (c : CopyCmd) : s.passed m c ≤ s.batches c := by
  unfold State.passed
  split
  · exact Nat.le_refl _
  · exact Nat.min_le_left ..

theorem State.batchBytes_cpy {c : CopyCmd} {m : Cmd} (s : State) (k b : Nat) (cpy : c.op = .cpy) (whole : m.split = []) :
    s.batchBytes k m c b = (64 * b, min 64 (CopyCmd.size c - 64 * b)) := by
  simp only [State.batchBytes, cpy, whole, List.find?_nil, Option.map_none, Option.getD_none, Nat.add_zero, Nat.sub_zero]

theorem chunksOf_keys {core a n fuel : Nat} {x : Nat × Nat} (h : x ∈ chunksOf a n fuel) {j : Nat} (hj : j < x.2) :
    ∃ i, i < n ∧ mkey (padSpace core) x.1 + j = mkey (padSpace core) a + i := by
  induction fuel generalizing a n with
  | zero => cases h
  | succ fuel ih =>
    unfold chunksOf at h
    split at h
    · cases h
    · rcases List.mem_cons.mp h with rfl | h
      · exact ⟨j, Nat.lt_of_lt_of_le hj (Nat.min_le_left ..), rfl⟩
      · obtain ⟨i, hi, same⟩ := ih h
        exact ⟨min n (65536 - a % 65536) + i, by omega, by rw [same, mkey_add, Nat.add_assoc]⟩

/-- Where the other walk overlaps nothing, the data land as they are. -/
theorem State.blur_apart (s : State) {core a n fuel : Nat} (other : List (Nat × Nat)) (data : List Byte)
    (apart : ∀ j, j < n → covers other (mkey (padSpace core) a + j) = false) : s.blur other (ownPieces core a n fuel) data = (data, s) := by
  have clear : ¬ (((ownPieces core a n fuel).flatMap fun p => (List.range p.len).map fun i => p.key + i).any (covers other)) = true := by
    intro some_key
    obtain ⟨key, hkey, covered⟩ := List.any_eq_true.mp some_key
    obtain ⟨p, hp, hkey⟩ := List.mem_flatMap.mp hkey
    obtain ⟨x, hx, rfl⟩ := List.mem_map.mp hp
    obtain ⟨j, hj, rfl⟩ := List.mem_map.mp hkey
    obtain ⟨i, hi, same⟩ := chunksOf_keys (core := core) hx (List.mem_range.mp hj)
    exact absurd (same ▸ covered) (by rw [apart i hi]; exact Bool.false_ne_true)
  simp only [State.blur, if_neg clear]

theorem State.marked_none {s : State} (clean : s.poison = []) (l : List Piece) : s.marked l = [] := by
  simp [State.marked, State.poisoned, clean]

theorem State.charge_keeps (s : State) (core p n : Nat) : (s.charge core p n).mem = s.mem ∧ (s.charge core p n).ctxs = s.ctxs := ⟨rfl, rfl⟩

theorem State.linkFlits_keeps (s : State) (a b n : Nat) : (s.linkFlits a b n).mem = s.mem ∧ (s.linkFlits a b n).ctxs = s.ctxs := by
  unfold State.linkFlits
  split <;> exact ⟨rfl, rfl⟩

theorem State.meterPieces_keeps (s : State) (k : Nat) (l : List Piece) : (s.meterPieces k l).mem = s.mem ∧ (s.meterPieces k l).ctxs = s.ctxs := by
  refine foldl_keeps (fun t : State => t.mem = s.mem ∧ t.ctxs = s.ctxs) _ l s ⟨rfl, rfl⟩ fun t p h => ?_
  have bytes (plain part : Nat) : (t.meterBytes plain part p.key p.len).mem = s.mem ∧ (t.meterBytes plain part p.key p.len).ctxs = s.ctxs := by
    unfold State.meterBytes
    dsimp only
    split
    · exact h
    · split <;> exact h
  unfold State.padFlits
  dsimp only
  split
  · exact bytes ..
  · rw [(State.linkFlits_keeps ..).1, (State.linkFlits_keeps ..).2, (State.linkFlits_keeps ..).1, (State.linkFlits_keeps ..).2]
    exact bytes ..

theorem State.account_keeps (s : State) (k : Nat) (l : List Piece) : (s.account k l).mem = s.mem ∧ (s.account k l).ctxs = s.ctxs :=
  s.meterPieces_keeps k l

section
variable {s : State} {k i b : Nat} {m : Cmd} {c : CopyCmd}

/-- The engine moves the batch's bytes and charges for them. -/
theorem State.moveBatch_own (cpy : c.op = .cpy) (whole : m.split = []) (mesh : isMesh k = true) (up : (s.core (coreOf k)).health.fenced = false)
    (flat : Desc.runs c.dst = 1) (same : Desc.len c.src = Desc.len c.dst) {ks kd n : Nat} (hn : n = min 64 (Desc.len c.dst - 64 * b))
    (left : 64 * b + n ≤ Desc.len c.dst)
    (src : Claims.OwnRun s k (Desc.base c.src + 64 * b) n ks) (dst : Claims.OwnRun s k (Desc.base c.dst + 64 * b) n kd)
    (apart : ∀ j, j < n → covers (s.allKeys k c.src) (kd + j) = false) (clean : s.poison = []) :
    ∃ l, s.moveBatch k i m c b = .ok ((), (s.putN kd n (s.mem.getN ks n)).account k l) := by
  obtain ⟨srcInside, rfl, srcBanks⟩ := src
  obtain ⟨dstInside, rfl, dstBanks⟩ := dst
  have size := CopyCmd.size_cpy cpy flat
  have reads := State.walk_own mesh up m.scope 0 .read c.src (Nat.le_refl n) (by rw [same]; exact left) srcInside srcBanks
  have writes := State.walk_own mesh up m.scope 0 .write c.dst (Nat.le_refl n) left dstInside dstBanks
  have data := State.getPieces_own (s := s) (k := k) (sc := m.scope) (core := coreOf k) (a := Desc.base c.src + 64 * b) (Nat.le_refl n)
    (by unfold spaceSize; omega)
  have puts := State.putPieces_own (k := k) (sc := m.scope) (core := coreOf k) clean (fuel := n) (a := Desc.base c.dst + 64 * b)
    (data := bytesOf (s.mem.getN (mkey (padSpace (coreOf k)) (Desc.base c.src + 64 * b)) n) n) (by rw [bytesOf_length]) (by
      rw [bytesOf_length]; unfold spaceSize; omega)
  rw [bytesOf_length, ofBytes_bytesOf_getN] at puts
  refine ⟨ownPieces (coreOf k) (Desc.base c.src + 64 * b) n n ++ ownPieces (coreOf k) (Desc.base c.dst + 64 * b) n n, ?_⟩
  unfold State.moveBatch
  simp only [State.batchBytes_cpy s k b cpy whole, size, ← hn, cpy, reads, writes, Except.bind, bind, data, if_true, State.blur_apart s _ _ apart,
    State.marked_none clean, Bool.false_eq_true, if_false, List.append_nil, puts, State.mark, List.isEmpty_nil]

end

end Sys2Proof.Machine

namespace Sys2Proof.Machine

/-! ## The clauses of O52 -/

theorem State.sendMessage_keeps (s : State) (dst type idx : Nat) : (s.sendMessage dst type idx).mem = s.mem ∧ (s.sendMessage dst type idx).ctxs = s.ctxs := by
  unfold State.sendMessage
  dsimp only
  split <;> exact ⟨rfl, rfl⟩

/-- A copy without a peer as its source sends at most two messages. -/
theorem State.sendBatch_keeps {c : CopyCmd} (s : State) (k : Nat) (m : Cmd) (b : Nat) (cpy : c.op = .cpy) :
    (s.sendBatch k m c b).mem = s.mem ∧ (s.sendBatch k m c b).ctxs = s.ctxs := by
  unfold State.sendBatch
  rw [cpy]
  dsimp only
  repeat' split
  all_goals simp only [(State.sendMessage_keeps ..).1, (State.sendMessage_keeps ..).2, and_self]

theorem State.ctx_congr {s t : State} (h : t.ctxs = s.ctxs) (k : Nat) : t.ctx k = s.ctx k := congrArg (Tbl.getD · k Ctx.zero) h

theorem State.lateBy_keeps (u : State) (k : Nat) (m : Cmd) (now j : Nat) :
    (u.lateBy k m now).mem = u.mem ∧ ((u.lateBy k m now).ctx j).regs = (u.ctx j).regs := by
  unfold State.lateBy
  split
  · refine ⟨rfl, ?_⟩
    by_cases hj : j = k
    · subst hj
      rw [State.ctx_modCtx_same]
      unfold Ctx.addLate
      split <;> rfl
    · rw [State.ctx_modCtx_ne _ _ _ _ hj]
  · exact ⟨rfl, rfl⟩

theorem State.modCmd_regs (s : State) (k i : Nat) (f : Cmd → Cmd) (j : Nat) : ((s.modCmd k i f).ctx j).regs = (s.ctx j).regs := by
  by_cases hj : j = k
  · subst hj; rw [State.modCmd, State.ctx_modCtx_same]; rfl
  · rw [State.modCmd, State.ctx_modCtx_ne _ _ _ _ hj]

/-- The batch of a flat copy within the own scratchpad moves exactly its bytes. -/
theorem copyBatchLand_own {k i b ks kd : Nat} {m : Cmd} {c : CopyCmd} {s : State} (mv : Claims.Moving s k i m c) (may : Claims.MayLand s k m c b)
    (cpy : c.op = .cpy) (whole : m.split = []) (mesh : isMesh k = true) (up : (s.core (coreOf k)).health.fenced = false)
    (flat : Desc.runs c.dst = 1) (same : Desc.len c.src = Desc.len c.dst)
    (src : Claims.OwnRun s k (Desc.base c.src + 64 * b) (min 64 (Desc.len c.dst - 64 * b)) ks)
    (dst : Claims.OwnRun s k (Desc.base c.dst + 64 * b) (min 64 (Desc.len c.dst - 64 * b)) kd)
    (apart : ∀ j, j < min 64 (Desc.len c.dst - 64 * b) → covers (s.allKeys k c.src) (kd + j) = false) (wf : s.mem.wf = true) (clean : s.poison = []) :
    Claims.Happens (.copyBatchLand k i ⟨b, none⟩) s fun t =>
      t.mem.getN kd (min 64 (Desc.len c.dst - 64 * b)) = s.mem.getN ks (min 64 (Desc.len c.dst - 64 * b)) ∧
      (∀ a, (a < kd ∨ kd + min 64 (Desc.len c.dst - 64 * b) ≤ a) → t.mem.get a = s.mem.get a) ∧ (t.ctx k).regs = (s.ctx k).regs := by
  have notLast : 64 * b < Desc.len c.dst := by
    have := Nat.lt_of_lt_of_le may.1 (s.passed_le m c)
    rw [s.batches_cpy cpy, CopyCmd.size_cpy cpy flat] at this
    omega
  generalize hn : min 64 (Desc.len c.dst - 64 * b) = n at src dst apart ⊢
  obtain ⟨l, moves⟩ := State.moveBatch_own (i := i) cpy whole mesh up flat same hn.symm (by omega) src dst apart clean
  obtain ⟨moved, kept⟩ := State.account_keeps (s.putN kd n (s.mem.getN ks n)) k l
  refine ⟨_, copyBatchLand_lands mv may none (by rw [cpy]; rfl) moves, ?_⟩
  generalize (s.putN kd n (s.mem.getN ks n)).account k l = u at moved kept
  let w := (u.lateBy k m s.now).modCmd k i fun y => y.batchLanded b (s.batchEnd k m c b) (CopyCmd.size c) u.now
  obtain ⟨sentMem, sentCtxs⟩ := w.sendBatch_keeps k m b cpy
  have mem : (w.sendBatch k m c b).mem = s.mem.putN kd n (s.mem.getN ks n) := by
    rw [sentMem]; exact ((u.lateBy_keeps k m s.now k).1).trans moved
  have regs : ((w.sendBatch k m c b).ctx k).regs = (s.ctx k).regs := by
    rw [State.ctx_congr sentCtxs, State.modCmd_regs, (u.lateBy_keeps k m s.now k).2, State.ctx_congr kept]; rfl
  show (w.sendBatch k m c b).mem.getN kd n = _ ∧ (∀ a, _ → (w.sendBatch k m c b).mem.get a = _) ∧ ((w.sendBatch k m c b).ctx k).regs = _
  rw [mem]
  refine ⟨?_, fun a ha => Memory.get_putN_ne _ _ _ _ _ wf ha, regs⟩
  rw [Memory.getN_putN _ _ _ _ wf, Nat.mod_eq_of_lt (Memory.getN_lt ..)]

theorem reachesPeer_pull {s : State} {k : Nat} {m : Cmd} {c : CopyCmd} (pull : c.op = .cpull) (far : Desc.node c.src % 2 ^ 14 ≠ s.fabric) :
    s.reachesPeer k m c = true := by
  simp only [State.reachesPeer, pull]
  exact decide_eq_true far

theorem reachesPeer_prefetch {s : State} {k : Nat} {m : Cmd} {c : CopyCmd} (pref : c.op = .cpref) : s.reachesPeer k m c = false := by
  simp only [State.reachesPeer, pref]

/-- The owner of the destination, where it is live, learns of the bytes that landed. -/
theorem sourceFenced_posts {k i : Nat} {f : Fin 16} {h : Nat × Nat} {m : Cmd} {c : CopyCmd} {s : State} (on : Claims.Between s)
    (hm : (s.ctx k).cmds[i]? = some m) (hop : m.op = .copy c) (post : c.op = .cpost f) (hop' : m.hop = some h) (going : m.start = none ∨ m.done < s.batches c)
    (passed : s.passed m c ≤ m.done) (late : max m.lastLand m.issued + 2 ^ 20 ≤ s.now) :
    Claims.Happens (.sourceFenced k i) s fun t => (t.ctx k).cmds = (s.ctx k).cmds.eraseIdx i ∧ t.mem = s.mem ∧
      ∀ j, s.pieceOwner k (Desc.base c.dst) = some j → (s.ctx j).status ≠ .free → j ≠ mgmtKey → (vget (s.ctx j).q 2 []).length < 64 →
        vget (t.ctx j).q 2 [] = vget (s.ctx j).q 2 [] ++ [element 0x11 (15 * 2 ^ 52 + coreOf k % 256 * 2 ^ 44 + min (landedBytes m c) 0xFFFFFFFF)] := by
  have sig : s.signalOf k c = some (15, (s.pieceOwner k (Desc.base c.dst)).toList) := by simp only [State.signalOf, post]
  refine ⟨_, sourceFenced_signals on hm hop hop' going passed sig late, ?_⟩
  have dropped (u : State) (same : (u.ctx k).cmds = (s.ctx k).cmds) : ((u.modCtx k fun x => x.dropCmd i).ctx k).cmds = (s.ctx k).cmds.eraseIdx i := by
    rw [State.ctx_modCtx_same, Ctx.dropCmd, same]
  cases owner : s.pieceOwner k (Desc.base c.dst) with
  | none => exact ⟨dropped _ rfl, rfl, fun j hj => nomatch hj⟩
  | some j =>
    by_cases live : (s.ctx j).status = .free
    · have nobody : ((some j).toList.filter fun j => (s.ctx j).status != .free) = [] := by simp [live]
      rw [nobody]
      refine ⟨dropped _ rfl, rfl, fun j' hj' live' => ?_⟩
      cases hj'
      exact absurd live live'
    · have owners : ((some j).toList.filter fun j => (s.ctx j).status != .free) = [j] := by simp [live]
      rw [owners]
      refine ⟨dropped _ (State.postQ_cmds ..), rfl, fun j' hj' _ other room => ?_⟩
      cases hj'
      refine Eq.trans ?_ (State.q_postQ_same s j 2 _ (by decide) (by rw [queueCap_other other]; exact room))
      by_cases hjk : j = k
      · subst hjk; rw [State.ctx_modCtx_same]; rfl
      · rw [State.ctx_modCtx_ne _ _ _ _ hjk]; rfl

theorem migpullRepost_repeats {p page leaf since w : Nat} {s : State} (on : Claims.Between s)
    (found : (s.part p).pages.find? (fun x => x.1 = page) = some (page, leaf, since, some w)) (due : w ≤ s.now) (held : s.pageHeld p page = true) :
    Claims.Happens (.migpullRepost p page) s fun t => t.mem = s.mem ∧
      ((vget (s.ctx mgmtKey).q 2 []).length < 4096 → (t.part p).pages.find? (fun x => x.1 = page) = some (page, leaf, since, none) ∧
        vget (t.ctx mgmtKey).q 2 [] = vget (s.ctx mgmtKey).q 2 [] ++ [element 0x50 (p % 64 * 2 ^ 50 + page % 2 ^ 41)]) ∧
      (4096 ≤ (vget (s.ctx mgmtKey).q 2 []).length → vget (t.ctx mgmtKey).q 2 [] = vget (s.ctx mgmtKey).q 2 [] ∧
        (t.ctx mgmtKey).regs.sys.sstat.getLsbD 8 = true ∧
        (t.part p).pages.find? (fun x => x.1 = page) = some (page, leaf, since, some (s.now + 2 ^ 16))) := by
  have page' := State.postPull_page found
  have ctx : (s.postPull p page).ctx mgmtKey = (s.postQ mgmtKey 2 (element 0x50 (p % 64 * 2 ^ 50 + page % 2 ^ 41))).ctx mgmtKey := rfl
  refine ⟨_, migpullRepost_posts on found due held, rfl, fun room => ⟨?_, ?_⟩, fun full => ⟨?_, ?_, ?_⟩⟩
  · rw [page', if_pos room]
  · rw [ctx]; exact State.q_postQ_same s mgmtKey 2 _ (by decide) room
  · rw [ctx, State.postQ_full s mgmtKey 2 _ full, State.ctx_modCtx_same]; rfl
  · rw [ctx, State.postQ_full s mgmtKey 2 _ full, State.ctx_modCtx_same]; exact Ctx.sticky_bit _
  · rw [page', if_neg (Nat.not_lt.mpr full)]

theorem commandPerform_retires {k i : Nat} {m : Cmd} {c : CopyCmd} {s : State} (mv : Claims.Moving s k i m c)
    (first : ∀ w ∈ (s.ctx k).cmds.take i, w.eng ≠ m.eng) (all : s.batches c ≤ m.done) (due : Claims.Timely s k m.due) (cpy : c.op = .cpy)
    (never : m.suspAt = 0) (page : m.page = none) (other : k ≠ mgmtKey) (live : (s.ctx k).status ≠ .free) (room : (vget (s.ctx k).q 1 []).length < 64) :
    Claims.Happens (.commandPerform k i) s fun t => (t.ctx k).cmds = (s.ctx k).cmds.eraseIdx i ∧ t.mem = s.mem ∧
      vget (t.ctx k).q 1 [] = vget (s.ctx k).q 1 [] ++ [element 0x13 (engBit m.eng * 2 ^ 55 + m.num % 2 ^ 48)] := by
  have same : ((s.modCtx k fun x => x.dropCmd i).ctx k).q = (s.ctx k).q := by rw [State.ctx_modCtx_same]; rfl
  refine ⟨_, commandPerform_copies mv first all due cpy never page live, ?_, rfl, ?_⟩
  · rw [State.postQ_cmds, State.ctx_modCtx_same]; rfl
  · rw [State.q_postQ_same _ _ _ _ (by decide) (by rw [same, queueCap_other other]; exact room), same]

theorem digest_mismatch_stops {k i : Nat} {m : Cmd} {c : CopyCmd} {peer : Peer} {x : Coll} {s : State} (on : Claims.Between s)
    (hm : (s.ctx k).cmds[i]? = some m) (hop : m.op = .copy c) (start : m.start.isSome = true) (susp : m.susp = none) (live : (s.ctx k).status ≠ .free)
    (digest : c.op = .cdigest) (group : (s.node (s.ctx k).node).group ≠ 0) (peers : peer.digest = true)
    (rank : peer.rank < (s.ctx k).regs.sys.ident[7].toNat) (length : peer.len ≠ CopyCmd.size c) (found : s.coll (s.collKey k c) = some x)
    (agreed : x.what = CopyCmd.what c) (full : x.full = false) (got : ∀ g ∈ x.got, g.1 ≠ peer.rank) :
    Claims.Happens (.collectiveExchange k i peer) s fun t => ∃ n, (t.ctx k).cmds[i]? = some n ∧ n.susp = some (7, 0) := by
  have coll : c.op.isColl = true := by rw [digest]; rfl
  have differ : x.what ≠ peerWhat peer := by
    simp only [agreed, CopyCmd.what, digest, peerWhat, peers, if_true, ne_eq, Prod.mk.injEq, true_and]
    exact fun h => length h.symm
  refine ⟨_, (exchange_joins on hm hop start coll group rank found full got).trans (by rw [if_neg differ]), ?_⟩
  obtain ⟨-, n, hn, reason, -⟩ := State.suspendColl_stops (s := s.setColl { x with bad := true }) hop coll start susp live hm
  exact ⟨n, hn, reason⟩

/-- Settles O52: each clause is the lemma above that says what the event does. -/
theorem copyEvents : Obligations.CopyEvents := by
  refine ⟨?lands, ?own, ?timeout, ?unreachable, ?contribution, ?joins, ?mismatch, ?fenced, ?posted, ?repost, ?held, ?performs⟩
  case lands =>
    intro k i b e m c s u mv may coll moves v upto sent
    have lands := copyBatchLand_lands mv may e coll moves
    refine ⟨fun last => lands.trans ?_, fun part => lands.trans ?_⟩
    · rw [show (fun y : Cmd => y.batchLanded b (s.batchEnd k m c b) (CopyCmd.size c) u.now) = _ from
        funext fun y => y.batchLanded_whole u.now (Nat.not_lt.mpr last)]
      rfl
    · rw [show (fun y : Cmd => y.batchLanded b (s.batchEnd k m c b) (CopyCmd.size c) u.now) = _ from
        funext fun y => y.batchLanded_part u.now part]
      rfl
  case own =>
    intro k i b ks kd m c s mv may cpy whole mesh up _ flat same o n src dst apart wf clean
    exact copyBatchLand_own mv may cpy whole mesh up flat same src dst apart wf clean
  case timeout =>
    intro k i m c s mv live move page hop due
    exact ⟨fun ⟨op, det⟩ all sent => suspends_of_exec mv.cmd live (execCopyTimeout_capacity mv page hop due det all sent),
      fun det pref => suspends_of_exec mv.cmd live (execCopyTimeout_bound mv move page hop due pref det), execCopyTimeout_prefetch mv⟩
  case unreachable =>
    intro k i m c s mv live
    exact ⟨fun far => suspends_of_exec mv.cmd live (execUnreachableNack_reaches mv far), reachesPeer_pull, reachesPeer_prefetch⟩
  case contribution =>
    intro k i op m c s u p mv det sent all due walks aligned keys v home store held w
    refine ⟨fun apart room fits => ?_, fun r found same log code same' apart fits =>
      accept_held mv det sent all due walks aligned found same log code same' apart fits⟩
    have new := accept_new mv det sent all due walks aligned apart room fits
    exact ⟨fun top => new.trans (by rw [if_pos top]; rfl), fun below => new.trans (by rw [if_neg below]; rfl)⟩
  case joins =>
    intro k i op det m c peer s on hm hop start red group kind rank length det' op' code key
    have coll : c.op.isColl = true := by rw [red]; rfl
    have agree : peerWhat peer = CopyCmd.what c := by simp [peerWhat, CopyCmd.what, kind, red, length, det', op', code]
    refine ⟨fun none_yet => ?_, fun x found agreed full got => ?_⟩
    · rw [exchange_opens on hm hop start coll group rank none_yet agree, agree, Nat.max_eq_right (by omega)]
    · rw [exchange_joins on hm hop start coll group rank found full got, if_pos (agreed.trans agree.symm)]
  case mismatch =>
    intro k i m c peer x s on hm hop start susp live digest group peers rank length found agreed full got
    exact digest_mismatch_stops on hm hop start susp live digest group peers rank length found agreed full got
  case fenced =>
    intro k i h m c s on hm hop cpy hop' going passed
    exact sourceFenced_unsignalled on hm hop hop' going passed (by simp only [State.signalOf, cpy])
  case posted =>
    intro k i f h m c s on hm hop post hop' going passed late
    exact sourceFenced_posts on hm hop post hop' going passed late
  case repost =>
    intro p page leaf since w s on found due held
    exact migpullRepost_repeats on found due held
  case held =>
    intro k i p page leaf since m s on hk part live hm page' long _
    subst part
    obtain ⟨t, ht, -, n, hn, stopped⟩ := migrationHoldTimeout_stops on hk live hm page' long
    exact ⟨t, ht, n, hn, stopped⟩
  case performs =>
    intro k i m c s mv first all due cpy never page other live room
    exact commandPerform_retires mv first all due cpy never page other live room

end Sys2Proof.Machine
